-- ==== Sys2Proof/Word.lean ====
section
/-! DEFINITION. The word types of the Zwiuri and plain bit fields of them (spec/00_scope.md R5). -/

namespace Sys2Proof

/-- A byte (R3). -/
abbrev Byte := BitVec 8

/-- A 32-bit word, the width of a data register and of a token's payload (R30, R33). -/
abbrev Word := BitVec 32

/-- A slot word (R44). -/
abbrev SlotWord := BitVec 64

end Sys2Proof
end

