-- ==== Sys2Proof/Config.lean ====
section
/-! DEFINITION. What the spec leaves to the part: values no rule gives. Each is opaque, so that nothing can be proved of it (log 4). -/

namespace Sys2Proof

/-- What a byte of a directory's index area reads as: "its contents and hash are unspecified"
(spec/06_block_tensors.md R92). The first argument is a fresh number, the second the address. -/
opaque Config.freeByte : Nat → Nat → Byte

/-- What an engine-made scan or probe order chooses is carried by State.oracle; this is the value of the
first bank a tile is given (R100 "banks"), which no instruction reads. -/
opaque Config.freeBank : Nat → Nat

/-- The stripe of a tile's storage (R100 "banks"), which no instruction reads. -/
opaque Config.freeStripe : Nat → Nat

/-- The sequence number of a live delta, which its configuration tokens carry (R34, R319); no rule says how deltas are
numbered. The argument counts the live deltas the part has taken. -/
opaque Config.deltaSeq : Nat → BitVec 24

/-- What the ROM of the root of trust measures as: the ROM never changes (R360). -/
opaque Config.romMeasure : Nat

/-- The device key that the root of trust derives at a boot (R360). -/
opaque Config.deviceKey : Nat → Nat

/-- The signature of a report: ECDSA P-384 under a device key over measurement blocks (R360). -/
opaque Config.spdmSign : Nat → List (Nat × Nat) → Nat

end Sys2Proof
end

