-- ==== Sys2Proof/Machine/Base.lean ====
section
/-! DEFINITION. Plain data the machine is held in: finite maps with a default, queues, byte lists. Nothing here is a rule
of the spec but the byte order (spec/00_scope.md R5). -/

namespace Sys2Proof.Machine

/-- Bits [hi:lo] of a word as a number (R5). -/
def bits {n : Nat} (w : BitVec n) (hi lo : Nat) : Nat := (w.toNat >>> lo) % 2 ^ (hi - lo + 1)

/-- Bit [i] of a word. -/
def bit {n : Nat} (w : BitVec n) (i : Nat) : Bool := w.getLsbD i

/-- A word read as a signed number. -/
def sx {n : Nat} (w : BitVec n) : Int := w.toInt

/-- A word of a number, modulo 2^32. -/
def wd (n : Nat) : Word := BitVec.ofNat 32 n

def bw (b : Bool) : Word := if b then 1 else 0

/-- A finite map: a list of keys with their values; `kget` answers the default where a key has none. -/
abbrev AMap (κ α : Type) := List (κ × α)

/-- A finite map from numbers. -/
abbrev KMap (α : Type) := AMap Nat α

section
variable {κ α : Type} [DecidableEq κ]

def kget (d : α) : AMap κ α → κ → α
  | [], _ => d
  | (k, v) :: m, i => if k = i then v else kget d m i

/-- The key's value set, in its place or at the end. -/
def kset : AMap κ α → κ → α → AMap κ α
  | [], i, v => [(i, v)]
  | (k, w) :: m, i, v => if k = i then (i, v) :: m else (k, w) :: kset m i v

def kdel (m : AMap κ α) (i : κ) : AMap κ α := m.filter (fun p => p.1 != i)

def khas (m : AMap κ α) (i : κ) : Bool := m.any (fun p => p.1 == i)

end

/-- The first element of a list that a test accepts is replaced. -/
def replaceFirst {α : Type} (p : α → Bool) (f : α → α) : List α → List α
  | [] => []
  | x :: xs => if p x then f x :: xs else x :: replaceFirst p f xs

/-- The first element a test accepts is taken out. -/
def removeFirst {α : Type} (p : α → Bool) : List α → List α
  | [] => []
  | x :: xs => if p x then xs else x :: removeFirst p xs

/-- A number made of bytes, the byte at the lowest address first (R5). -/
def leNat : List Byte → Nat
  | [] => 0
  | b :: bs => b.toNat + 256 * leNat bs

/-- The n bytes of a number, lowest first (R5). -/
def leBytes : Nat → Nat → List Byte
  | 0, _ => []
  | n + 1, v => BitVec.ofNat 8 v :: leBytes n (v / 256)

/-- Words of a byte list, little-endian; a short tail is dropped. -/
def wordsOf : List Byte → List Word
  | a :: b :: c :: d :: r => wd (leNat [a, b, c, d]) :: wordsOf r
  | _ => []

def bytesOfWord (w : Word) : List Byte := leBytes 4 w.toNat

def bytesOfWords (ws : List Word) : List Byte := ws.flatMap bytesOfWord

/-- Word i of a list of words, 0 beyond its end. -/
def nthW (ws : List Word) (i : Nat) : Word := ws.getD i 0

/-- Pick the n-th of a list, counted round; the default where it is empty. -/
def pickRound {α : Type} (d : α) (xs : List α) (n : Nat) : α := xs.getD (n % xs.length) d

/-- Insertion of an element before the first one it is below; a stable sort is folds of it. -/
def insertBy {α : Type} (lt : α → α → Bool) (x : α) : List α → List α
  | [] => [x]
  | y :: ys => if lt x y then x :: y :: ys else y :: insertBy lt x ys

/-- A stable sort: elements that are equal under lt keep their order. -/
def sortBy {α : Type} (lt : α → α → Bool) (xs : List α) : List α :=
  xs.foldl (fun acc x => insertBy lt x acc) []

def ceilDiv (a b : Nat) : Nat := (a + b - 1) / b

end Sys2Proof.Machine
end

