-- ==== Sys2Proof/Syntax.lean ====
section
/-! DEFINITION. The instructions of a slot, format by format, the images a launch carries, the packets that arrive from
outside, and Instr: one constructor per row of spec/opcode_table.json. -/

namespace Sys2Proof

/-! ## Formats of the action half (spec/03_element_and_word.md R46 to R52) -/

/-- The trigger half, bits [63:30] (R44). -/
structure Trigger where
  pmask : BitVec 8
  pval : BitVec 8
  cge : BitVec 1
  cgi : BitVec 3
  tge : BitVec 1
  tgv : BitVec 2
  nb : BitVec 4
  sgs : BitVec 2
  sgi : BitVec 4
  v : BitVec 1
  deriving DecidableEq, Repr

/-- Format A (R46). -/
structure FmtA where
  dst : BitVec 4
  sa : BitVec 4
  sb : BitVec 4
  pu : BitVec 4
  ps : BitVec 2
  ot : BitVec 2
  mod : BitVec 2
  deriving DecidableEq, Repr

/-- Format I (R49). -/
structure FmtI where
  dst : BitVec 4
  sa : BitVec 4
  imm : BitVec 14
  deriving DecidableEq, Repr

/-- Format K (R49); plog, pset and pget read its fields as R155 states. -/
structure FmtK where
  dst : BitVec 4
  hs : BitVec 2
  imm : BitVec 16
  deriving DecidableEq, Repr

/-- Format M (R50). -/
structure FmtM where
  dst : BitVec 4
  sa : BitVec 4
  sb : BitVec 4
  pms : BitVec 1
  sz : BitVec 2
  aux : BitVec 3
  ot : BitVec 2
  mod : BitVec 2
  deriving DecidableEq, Repr

/-- Format E (R51). -/
structure FmtE where
  dst : BitVec 4
  sa : BitVec 4
  sb : BitVec 4
  fn : BitVec 10
  deriving DecidableEq, Repr

/-- Format S (R52). -/
structure FmtS where
  dst : BitVec 4
  sa : BitVec 4
  sli : BitVec 4
  pu : BitVec 4
  ps : BitVec 2
  ot : BitVec 2
  mod : BitVec 2
  deriving DecidableEq, Repr

/-- Format Y (R52). -/
structure FmtY where
  dst : BitVec 4
  sa : BitVec 4
  idx : BitVec 8
  pu : BitVec 4
  ps : BitVec 2
  deriving DecidableEq, Repr

/-! ## Names of agents -/

/-- An element of a placed stage: the stage instance, its logical region DIE x 24 + RY x 6 + RX and EY x 8 + EX (R48). -/
structure ERef where
  inst : Nat
  reg : Nat
  el : Nat
  deriving DecidableEq, Repr

/-- A logical region of a stage instance. -/
structure RRef where
  inst : Nat
  reg : Nat
  deriving DecidableEq, Repr

/-- Who makes an access that is translated (spec/17_translation.md R267, R268 KIND): an element, a pump, a position of a wellhead
command, the walk of a contraction, one product of it, the sequencer's write of its C header, a copy channel, a call, a round, a host
queue's next packet or a pending launch (64 and its number), a started packet of a queue, a node of a graph, a write of the front end. -/
inductive Req where
  | element (e : ERef)
  | pump (e : ERef) (pm : Nat)
  | wellhead (r : RRef) (seq pos : Nat)
  | sequencer (r : RRef) (seq : Nat)
  | product (r : RRef) (seq k : Nat)
  | header (r : RRef) (seq : Nat)
  | copy (die ch : Nat)
  | collective (slot num : Nat)
  | exchange (slot job : Nat)
  | queue (q : Nat)
  | packet (q index : Nat)
  | node (gi : Nat)
  | front (n : Nat)
  deriving DecidableEq, Repr

/-- The scopes of R276, each within the next. -/
inductive Scope where
  | element
  | region
  | die
  | part
  | group
  | system
  deriving DecidableEq, Repr

/-! ## Stage images and graphs (spec/02_assembly_notation.md R23 to R29) -/

/-- How a valued signal combines its emissions (R299). -/
inductive Combine where
  | or
  | max
  | min
  | sum
  | first
  deriving DecidableEq, Repr

/-- A signal's declaration (R296): pure, or valued with its function; emitters as (region, element). -/
structure SigDecl where
  combine : Option Combine
  emitters : List (Nat × Nat)
  deriving DecidableEq, Repr

/-- A route (R23): from an output channel to an input channel, with its packet tag and its boundary node if any. -/
structure RouteDecl where
  srcReg : Nat
  srcEl : Nat
  outC : Nat
  dstReg : Nat
  dstEl : Nat
  inC : Nat
  packet : Option (BitVec 8)
  via : Option Nat
  deriving DecidableEq, Repr

/-- Done wiring (R23 .done): the scope and the destination channels. -/
structure DoneDecl where
  scope : Scope
  dests : List (Nat × Nat × Nat)
  deriving DecidableEq, Repr

/-- The registers a live map names at one kind of safe point (R23 .live, R334). -/
structure LiveMap where
  d : List Nat
  p : List Nat
  q : List Nat
  dl : List Nat
  deriving DecidableEq, Repr

/-- The value of an initialiser (R26): a number, a launch argument, or the handle that declared tile n receives. -/
inductive InitVal where
  | lit (w : Word)
  | arg (n : Nat)
  | tile (n : Nat)
  deriving DecidableEq, Repr

/-- The sixteen words of a pump descriptor in an image (R176, R177); what BASE0 and TH are taken from where the image
gives no number for them. -/
structure PumpImage where
  words : List Word
  base : Option InitVal
  th : Option InitVal
  deriving DecidableEq, Repr

/-- What an image gives one element (R29, R31). Lists shorter than the register file leave the rest 0. -/
structure ElemImage where
  reg : Nat
  el : Nat
  slots : List SlotWord
  d : List InitVal
  p : BitVec 8
  q : List InitVal
  dl : List InitVal
  rs : BitVec 3
  pumps : List (Nat × PumpImage)
  sink : Bool
  done : Option DoneDecl
  binds : List (Nat × Nat)
  liveInstant : Option LiveMap
  liveMarker : Option LiveMap
  deriving DecidableEq, Repr

/-- A region of a stage (R23): its logical number and its systolic bit. -/
structure RegionDecl where
  reg : Nat
  systolic : Bool
  deriving DecidableEq, Repr

/-- Where a data object lies (R24); a peer's object with the slot in which the part holds the group, as the loader finds it. -/
inductive ObjLevel where
  | cistern (die : Nat)
  | hbm
  | peer (group rank slot : Nat)
  | cxl
  deriving DecidableEq, Repr

/-- A data object (R24, R367, R368): its offset in the data region, which the loader gives, the home addresses of the 16 KiB
pages it spans (at cistern level its leaves say where they are), its contents, and the places in them that take the handle
of a declared tile. -/
structure DataObj where
  off : Nat
  level : ObjLevel
  pages : List Nat
  contents : List Byte
  handles : List (Nat × Nat)
  deriving DecidableEq, Repr

/-- A tile an image declares (R172): its place (a region of its element, region or logical die, and an element), its spec
word, and the bytes a block or pool in it starts with. -/
structure TileDecl where
  reg : Nat
  el : Nat
  spec : Word
  contents : List Byte
  deriving DecidableEq, Repr

/-- A stage image (R29). -/
structure StageImage where
  clocked : Bool
  energy : Nat
  regions : List RegionDecl
  elems : List ElemImage
  routes : List RouteDecl
  signals : List SigDecl
  boundaries : List Scope
  tiles : List TileDecl
  objs : List DataObj
  dataBase : Nat
  deriving DecidableEq, Repr

/-- An item of a graph (R23, R321). A copy node's template and a collective node's object are named by their virtual
addresses, the object with the base of the data region its offsets count from. -/
inductive GraphItem where
  | stage (img : StageImage)
  | copy (template : Nat)
  | exchange (group : Nat)
  | collective (group : Nat) (obj base : Nat)
  | cond (word item : Nat)
  deriving DecidableEq, Repr

/-- A graph of up to 64 items (R23). -/
structure Graph where
  items : List GraphItem
  deriving DecidableEq, Repr

/-- What the host and the loader bring when a graph is made resident (R55, R367): the graph, the root of the context's
tables and its race-detect setting, and the table entries the loader writes, as (HBM4 address, entry). -/
structure ResidentReq where
  graph : Graph
  root : Nat
  rd : Bool
  ptes : List (Nat × BitVec 64)
  deriving DecidableEq, Repr

/-! ## What arrives from outside -/

/-- A start packet of a call (spec/11_collectives.md R192 step 2). -/
structure StartPkt where
  num : Nat
  tpl : Nat
  red : Nat
  count : Nat
  opc : Nat
  deriving DecidableEq, Repr

/-- A chunk packet (R195, R198): from rank, for a call, with its KEY (chunk number for a template; phase 0 the values of
the sender, phase 1 the finished chunk of its owner), and its bytes. -/
structure ChunkPkt where
  rank : Nat
  num : Nat
  key : Nat
  final : Bool
  bytes : List Byte
  deriving DecidableEq, Repr

/-- A phase of a grant record (spec/14_demand_posted_exchange.md R227). -/
structure Phase where
  len : Nat
  toRank : Option Nat
  fromRank : Option Nat
  deriving DecidableEq, Repr

/-- A grant record (R227): its words, eight and then two for each phase; and the sources from which the calendar gives the member quanta of
the tail alone, which it awaits (R229) and which no word of the record names (log 61). -/
structure Grant where
  words : List (BitVec 32)
  tailFrom : List Nat := []
  deriving DecidableEq, Repr

/-- An exchange data packet (R228): the round, the stream offset and the bytes. -/
structure ExchPkt where
  round : Nat
  off : Nat
  bytes : List Byte
  deriving DecidableEq, Repr

/-- A member's report that the round is done (R229), as it reaches the arbiter, with the quanta it used. -/
structure RoundReport where
  rank : Nat
  left : Nat
  used : Nat
  deriving DecidableEq, Repr

/-- A response to a page request (spec/17_translation.md R272). -/
inductive PriResult where
  | success
  | invalidRequest
  | responseFailure
  deriving DecidableEq, Repr

/-- An ATS completion (R272): the host address, log2 of the size the IOMMU returns and write permission, or not present. -/
inductive AtsResult where
  | mapped (addr logSize : Nat) (w : Bool)
  | notPresent
  deriving DecidableEq, Repr

/-- What a region's controller cannot read off the region at a window's end (spec/22_scheduling_power.md R337): the module's measured
power, and what a raise of the clock would add, in watts. -/
structure ClockWindow where
  power : Nat
  raiseW : Nat
  deriving DecidableEq, Repr

/-- An image as the root of trust reads it at boot (spec/24_firmware_and_part.md R358, R359): its 16 header words, the SHA-384 digest and
the length of its payload, the byte offsets at which it holds an RSA-3072 and an SLH-DSA signature over the digest that verify, and the hash
of the public keys it brings. What the cryptography finds is in the input. -/
structure BootImage where
  header : List Word
  digest : List Word
  bytes : Nat
  rsaAt : List Nat
  slhAt : List Nat
  keyHash : Nat
  deriving DecidableEq, Repr

/-- The boot's inputs (R190, R358, R361): the images, the first stage first; the rise of the fused SVN a verified image asks for; the
margin measured in each region, in steps of 5 mV; the address the switches give the part. -/
structure BootInput where
  images : List BootImage
  askSvn : Option Nat
  margins : List Nat
  naddr : Nat
  deriving DecidableEq, Repr

/-- Which memory an ECC error was found in (R362, R363): a cistern bank, an HBM4 channel, an element's bank. -/
inductive EccPlace where
  | cistern (die bank : Nat)
  | hbm (stack channel : Nat)
  | element (reg el bank : Nat)
  deriving DecidableEq, Repr

/-- Errors found in one place: corrected ones counted, or an uncorrectable one. -/
structure EccErr where
  place : EccPlace
  corrected : Nat
  uncorrectable : Bool
  deriving DecidableEq, Repr

/-- What a core adds to the lifetime record (R363): seconds per (die, temperature bin), voltage intervals per (die, above
or below), hours of power-on. -/
structure LifeUpdate where
  hours : Nat
  temps : List (Nat × Nat × Nat)
  volts : List (Nat × Bool × Nat)
  deriving DecidableEq, Repr


/-- The steps of the part: one constructor per row of the opcode table (spec/opcode_table.json). The first 161 are the
instructions a slot holds, in the formats of R46 to R52; the others are the steps no word encodes, each with what the
environment or the part's own timing chooses in it as its arguments. -/
inductive Instr where
  /-- Integer add modulo 2^32 of SA and SB. (R149) -/
  | add (f : FmtA)
  /-- Integer subtract modulo 2^32. (R149) -/
  | sub (f : FmtA)
  /-- Low 32 bits of the product of SA and SB. (R149) -/
  | mul (f : FmtA)
  /-- High 32 bits of the signed product. (R149) -/
  | mulh (f : FmtA)
  /-- High 32 bits of the unsigned product. (R149) -/
  | mulhu (f : FmtA)
  /-- Bitwise OR of SA and SB. (R149) -/
  | or (f : FmtA)
  /-- Bitwise AND of SA and SB. (R149) -/
  | and (f : FmtA)
  /-- Bitwise XOR of SA and SB. (R149) -/
  | xor (f : FmtA)
  /-- SA AND NOT SB. (R149) -/
  | andn (f : FmtA)
  /-- Logical shift left by the full unsigned amount in SB. (R150) -/
  | shl (f : FmtA)
  /-- Logical shift right by the full unsigned amount in SB. (R150) -/
  | shr (f : FmtA)
  /-- Arithmetic shift right by the full unsigned amount in SB. (R150) -/
  | sra (f : FmtA)
  /-- Signed minimum of SA and SB. (R149) -/
  | min (f : FmtA)
  /-- Signed maximum of SA and SB. (R149) -/
  | max (f : FmtA)
  /-- Unsigned minimum of SA and SB. (R149) -/
  | minu (f : FmtA)
  /-- Unsigned maximum of SA and SB. (R149) -/
  | maxu (f : FmtA)
  /-- Writes 1 if SA equals SB, else 0. (R149) -/
  | cmpeq (f : FmtA)
  /-- Writes 1 if SA differs from SB, else 0. (R149) -/
  | cmpne (f : FmtA)
  /-- Signed less-than compare writing 1 or 0. (R149) -/
  | cmplt (f : FmtA)
  /-- Unsigned less-than compare writing 1 or 0. (R149) -/
  | cmpltu (f : FmtA)
  /-- Signed less-or-equal compare writing 1 or 0. (R149) -/
  | cmple (f : FmtA)
  /-- Unsigned less-or-equal compare writing 1 or 0. (R149) -/
  | cmpleu (f : FmtA)
  /-- Chooses SA or SB by the prior value of the destination register. (R151) -/
  | sel (f : FmtA)
  /-- Extracts a zero-extended bit field of SA at offset and width from SB. (R152) -/
  | bfx (f : FmtA)
  /-- Inserts a bit field of SA into the destination register. (R152) -/
  | bfi (f : FmtA)
  /-- Counts leading zero bits of SA. (R149) -/
  | clz (f : FmtA)
  /-- Counts trailing zero bits of SA. (R149) -/
  | ctz (f : FmtA)
  /-- Counts one bits of SA. (R149) -/
  | popc (f : FmtA)
  /-- Saturating signed add. (R149) -/
  | adds (f : FmtA)
  /-- Saturating signed subtract. (R149) -/
  | subs (f : FmtA)
  /-- Saturating signed absolute value. (R149) -/
  | abs (f : FmtA)
  /-- f32 add rounded once by rne32. (R156) -/
  | fadd (f : FmtA)
  /-- f32 subtract rounded once by rne32. (R156) -/
  | fsub (f : FmtA)
  /-- f32 multiply rounded once by rne32. (R156) -/
  | fmul (f : FmtA)
  /-- Fused f32 multiply-accumulate into the destination register. (R156) -/
  | fmac (f : FmtA)
  /-- Lesser of two f32 values with -0 below +0. (R156) -/
  | fmin (f : FmtA)
  /-- Greater of two f32 values with -0 below +0. (R156) -/
  | fmax (f : FmtA)
  /-- f32 equality compare writing 1 or 0. (R156) -/
  | fcmpeq (f : FmtA)
  /-- f32 less-than compare writing 1 or 0. (R156) -/
  | fcmplt (f : FmtA)
  /-- f32 less-or-equal compare writing 1 or 0. (R156) -/
  | fcmple (f : FmtA)
  /-- Correctly rounded 2^a. (R158) -/
  | exp2 (f : FmtA)
  /-- Correctly rounded log2 a. (R158) -/
  | log2 (f : FmtA)
  /-- Correctly rounded reciprocal. (R158) -/
  | rcp (f : FmtA)
  /-- Correctly rounded reciprocal square root. (R158) -/
  | rsq (f : FmtA)
  /-- Packed two-lane bf16 add. (R159) -/
  | badd2 (f : FmtA)
  /-- Packed two-lane bf16 multiply. (R159) -/
  | bmul2 (f : FmtA)
  /-- Packed two-lane bf16 fused multiply-accumulate. (R159) -/
  | bmac2 (f : FmtA)
  /-- Packed two-lane f16 add. (R159) -/
  | hadd2 (f : FmtA)
  /-- Packed two-lane f16 multiply. (R159) -/
  | hmul2 (f : FmtA)
  /-- Packed two-lane f16 fused multiply-accumulate. (R159) -/
  | hmac2 (f : FmtA)
  /-- f32 to saturated i32 with ties to even. (R160) -/
  | cvtfi (f : FmtA)
  /-- i32 to f32 by rne32. (R160) -/
  | cvtif (f : FmtA)
  /-- Two f32 values to a packed bf16 pair. (R160) -/
  | cvtfb (f : FmtA)
  /-- Two f32 values to a packed f16 pair. (R160) -/
  | cvtfh (f : FmtA)
  /-- Low bf16 lane widened exactly to f32. (R160) -/
  | cvtbf (f : FmtA)
  /-- Low f16 lane widened exactly to f32. (R160) -/
  | cvthf (f : FmtA)
  /-- Funnels an f32 converted to e4m3 into the top byte of a word. (R160) -/
  | cvtf4 (f : FmtA)
  /-- Saturating f32 to e4m3 funnel conversion. (R160) -/
  | cvtf4s (f : FmtA)
  /-- Funnels an f32 converted to e5m2 into the top byte of a word. (R160) -/
  | cvtf5 (f : FmtA)
  /-- Saturating f32 to e5m2 funnel conversion. (R160) -/
  | cvtf5s (f : FmtA)
  /-- Selected e4m3 byte widened exactly to f32. (R160) -/
  | cvt4f (f : FmtA)
  /-- Selected e5m2 byte widened exactly to f32. (R160) -/
  | cvt5f (f : FmtA)
  /-- Add a sign-extended 14-bit immediate. (R153) -/
  | addi (f : FmtI)
  /-- AND with a sign-extended immediate. (R153) -/
  | andi (f : FmtI)
  /-- OR with a sign-extended immediate. (R153) -/
  | ori (f : FmtI)
  /-- XOR with a sign-extended immediate. (R153) -/
  | xori (f : FmtI)
  /-- Shift left by an immediate amount. (R153) -/
  | shli (f : FmtI)
  /-- Logical shift right by an immediate amount. (R153) -/
  | shri (f : FmtI)
  /-- Arithmetic shift right by an immediate amount. (R153) -/
  | srai (f : FmtI)
  /-- Multiply by a sign-extended immediate. (R153) -/
  | muli (f : FmtI)
  /-- Signed minimum with an immediate. (R153) -/
  | mini (f : FmtI)
  /-- Signed maximum with an immediate. (R153) -/
  | maxi (f : FmtI)
  /-- Equality compare with an immediate, writing 1 or 0. (R153) -/
  | cmpeqi (f : FmtI)
  /-- Inequality compare with an immediate. (R153) -/
  | cmpnei (f : FmtI)
  /-- Signed less-than compare with an immediate. (R153) -/
  | cmplti (f : FmtI)
  /-- Unsigned less-than compare with an immediate. (R153) -/
  | cmpltui (f : FmtI)
  /-- Signed less-or-equal compare with an immediate. (R153) -/
  | cmplei (f : FmtI)
  /-- Unsigned less-or-equal compare with an immediate. (R153) -/
  | cmpleui (f : FmtI)
  /-- Bit-field extract with immediate offset and width. (R153) -/
  | bfxi (f : FmtI)
  /-- Bit-field insert with immediate offset and width. (R153) -/
  | bfii (f : FmtI)
  /-- Saturating add of an immediate. (R153) -/
  | addsi (f : FmtI)
  /-- Places a 16-bit constant in a register under HS. (R154) -/
  | ldk (f : FmtK)
  /-- Widens a bf16 constant exactly to f32. (R154) -/
  | ldkf (f : FmtK)
  /-- Writes a predicate from a truth table over two predicates. (R155) -/
  | plog (f : FmtK)
  /-- Writes masked predicate values. (R155) -/
  | pset (f : FmtK)
  /-- Reads all eight predicates into a word. (R155) -/
  | pget (f : FmtK)
  /-- Allocates and zero-fills a tile and writes its handle. (R171) -/
  | talloc (f : FmtM)
  /-- Frees a tile handle, or makes it free-pending while in use. (R171) -/
  | tfree (f : FmtM)
  /-- Reshapes a tile handle in place and clears F. (R173) -/
  | tcfg (f : FmtM)
  /-- Reads one item of a tile-table entry. (R174) -/
  | tqry (f : FmtM)
  /-- Requests one word of a tile, optionally waiting on or clearing F. (R175) -/
  | tld (f : FmtM)
  /-- Writes one word of a tile, optionally waiting on or setting F. (R175) -/
  | tst (f : FmtM)
  /-- Loads a pump descriptor. (R178) -/
  | pcfg (f : FmtM)
  /-- Reads a pump counter, state, bound or next address. (R179) -/
  | pqry (f : FmtM)
  /-- Starts a pump run, optionally replacing the level-3 bound. (R178) -/
  | pgo (f : FmtM)
  /-- Stops a pump after its issued accesses complete. (R179) -/
  | pstop (f : FmtM)
  /-- Issues a load whose value returns on mi. (R180) -/
  | ld (f : FmtM)
  /-- Stores a value, or queues a copy through the block-transfer window. (R180) -/
  | st (f : FmtM)
  /-- Issues an indexed load whose value returns on mi. (R180) -/
  | ldx (f : FmtM)
  /-- Indexed store. (R180) -/
  | stx (f : FmtM)
  /-- Arms a done token for the element's earlier memory operations, optionally waiting. (R181) -/
  | mdone (f : FmtM)
  /-- Issues an indivisible atomic operation with no return. (R182) -/
  | atom (f : FmtM)
  /-- Issues an indivisible atomic operation returning the prior value on mi. (R182) -/
  | atomr (f : FmtM)
  /-- Waits for and acquires the next ring record. (R187) -/
  | rawait (f : FmtM)
  /-- Releases a ring record and advances TAIL. (R187) -/
  | rrel (f : FmtM)
  /-- Reads one word of a ring record. (R187) -/
  | rget (f : FmtM)
  /-- Checks a rule record and loads it into a rule register. (R116) -/
  | grule (f : FmtE)
  /-- Empties a directory. (R118) -/
  | bdinit (f : FmtE)
  /-- Appends a checked entry to a directory unless present or full. (R119) -/
  | bdins (f : FmtE)
  /-- Looks up an entry by charges. (R120) -/
  | bdfind (f : FmtE)
  /-- Reads one header or entry word of a directory. (R121) -/
  | bdget (f : FmtE)
  /-- Sorts directory entries by charge tuple and rebuilds the index. (R122) -/
  | bdsort (f : FmtE)
  /-- Raises or resets a result-block pool's available count. (R123) -/
  | poolcfg (f : FmtE)
  /-- Checks a contraction descriptor and starts a block contraction. (R127) -/
  | bcon (f : FmtE)
  /-- Resumes a stopped contraction at its resume point. (R135) -/
  | bcres (f : FmtE)
  /-- Reads a field of a contraction status record. (R135) -/
  | bcstat (f : FmtE)
  /-- Waits until a contraction leaves the running state. (R135) -/
  | bcwait (f : FmtE)
  /-- Binds a tile operation for dataflow firing. (R136) -/
  | topb (f : FmtE)
  /-- Queues one unbound tile-operation firing. (R136) -/
  | topx (f : FmtE)
  /-- Starts a wellhead gather of table rows. (R256) -/
  | gath (f : FmtE)
  /-- Starts a wellhead scatter, store or add, of rows. (R258) -/
  | scat (f : FmtE)
  /-- Starts pooled sums over bags of table rows. (R249) -/
  | pools (f : FmtE)
  /-- Reads a field of a wellhead status record. (R259) -/
  | gstat (f : FmtE)
  /-- Opens or joins an exchange round and posts a send list's demand. (R235) -/
  | dpost (f : FmtE)
  /-- Binds a send list to the open round. (R237) -/
  | dsend (f : FmtE)
  /-- Registers a landing list for the open or next round. (R236) -/
  | drecv (f : FmtE)
  /-- Waits for round end and writes the round status. (R238) -/
  | dwait (f : FmtE)
  /-- Reads an exchange round or arbiter item. (R239) -/
  | dqry (f : FmtE)
  /-- Checks and loads a collective object into the engine table. (R201) -/
  | cgload (f : FmtE)
  /-- Takes a call number and starts a collective call. (R202) -/
  | crun (f : FmtE)
  /-- Waits for a collective call to complete on this member. (R203) -/
  | cwait (f : FmtE)
  /-- Runs a barrier call across the group. (R204) -/
  | bar (f : FmtE)
  /-- Reads the NEXT call number of a group slot. (R205) -/
  | cseq (f : FmtE)
  /-- Makes a pure signal present. (R308) -/
  | emit (f : FmtS)
  /-- Emits a value into a valued signal. (R308) -/
  | emitv (f : FmtS)
  /-- Cedes a signal for the instant. (R308) -/
  | cede (f : FmtS)
  /-- Cedes remaining signals and ends the element's reaction. (R308) -/
  | rxend (f : FmtS)
  /-- Reads a delay register's latched word. (R308) -/
  | dlyr (f : FmtS)
  /-- Writes a delay register's pending word. (R308) -/
  | dlyw (f : FmtS)
  /-- Waits until a signal is final and reads its status or value. (R308) -/
  | sigv (f : FmtS)
  /-- Reads the instant counter. (R308) -/
  | icnt (f : FmtS)
  /-- Pushes a marker token. (R169) -/
  | mark (f : FmtS)
  /-- Forwards a channel's head token unchanged. (R169) -/
  | fwd (f : FmtS)
  /-- Reads a channel head token's tag. (R169) -/
  | tagr (f : FmtS)
  /-- Pops up to N non-marker tokens in one cycle. (R169) -/
  | skip (f : FmtS)
  /-- Writes a charge register. (R117) -/
  | qset (f : FmtS)
  /-- Reads a charge register. (R117) -/
  | qget (f : FmtS)
  /-- Fuses a charge into a charge register under the selected rule. (R117) -/
  | qfuse (f : FmtS)
  /-- Inverts a charge register under the selected rule. (R117) -/
  | qinv (f : FmtS)
  /-- Compares a charge with a charge register. (R117) -/
  | qeq (f : FmtS)
  /-- Checks a charge is canonical and fuses without raising. (R117) -/
  | qchk (f : FmtS)
  /-- Sets the element's rule select. (R117) -/
  | qsel (f : FmtS)
  /-- Does nothing but an optional predicate write. (R351) -/
  | nop (f : FmtY)
  /-- Halts the element for the rest of the stage. (R351) -/
  | halt (f : FmtY)
  /-- Raises the program trap 0x010. (R351) -/
  | trap (f : FmtY)
  /-- Reads a control and status register. (R352) -/
  | csrr (f : FmtY)
  /-- Writes the writable flags CSR. (R352) -/
  | csrw (f : FmtY)
  /-- Enters a launch record in the pending-launch store. (R325) -/
  | glaunch (f : FmtY)
  /-- Swaps a graph condition word. (R325) -/
  | gcond (f : FmtY)
  /-- Appends a record to a host ring. (R325) -/
  | hrapp (f : FmtY)
  /-- Writes a mailbox value and raises its vector. (R325) -/
  | intr (f : FmtY)
  /-- The priority encoder issues the lowest-numbered eligible slot. (R40) -/
  | slotIssue (e : ERef)
  /-- A further beat of a multi-beat issue executes once its output has room. (R41) -/
  | multiBeatBeat (e : ERef)
  /-- An action waiting on an unguarded empty channel resumes when a token arrives. (R42) -/
  | channelOperandWaitEnd (e : ERef)
  /-- An element with end-of-invocation markers on every routed input restores its image state and forwards the marker. (R43) -/
  | markerReset (e : ERef)
  /-- A route takes a token from its output channel when the destination has room. (R369) -/
  | routeTokenTake (inst route : Nat)
  /-- A token in flight becomes visible in its destination input channel. (R37) -/
  | tokenArrival (inst route : Nat)
  /-- A boundary node delivers a held token once earlier operations are performed at its scope. (R281) -/
  | boundaryNodeDeliver (inst route : Nat)
  /-- A waiting instruction's work ends and it writes DST, releasing the element. (R113) -/
  | waitingInstructionResume (e : ERef)
  /-- A load, tld or atomr return token is pushed onto mi in issue order. (R167) -/
  | loadReturn (e : ERef)
  /-- A tile table serves same-cycle requests in element order, engines last. (R103) -/
  | tileTableServe (tab : Nat)
  /-- After a tst.set write is performed, the tile's F becomes 1. (R175) -/
  | tileFullSet (tab slot : Nat)
  /-- A free-pending tile-table entry becomes free when its use count reaches 0. (R101) -/
  | tileEntryFree (tab slot : Nat)
  /-- A running pump makes its next access for the current counters. (R178) -/
  | pumpAccess (e : ERef) (pm : Nat)
  /-- A pump pushes its end-of-stream marker and clears RUN. (R178) -/
  | pumpRunEnd (e : ERef) (pm : Nat)
  /-- A done token leaves once the MDONE set is performed at the .done scope. (R181) -/
  | mdoneToken (e : ERef)
  /-- An atomic engine serves the next port's request round-robin. (R183) -/
  | atomicEngineServe (eng : Nat)
  /-- An eligible binding or queued TOPX fires on the dot-product unit. (R139) -/
  | tileOpFiring (e : ERef)
  /-- A firing ends, updates full tags and pushes its note or retirement token. (R139) -/
  | tileOpFiringEnd (e : ERef)
  /-- The sequencer enumerates the next permitted block pair and queues its product. (R128) -/
  | contractionEnumerate (r : RRef) (seq : Nat)
  /-- A queued product reads its blocks and writes its contribution to C. (R129) -/
  | contractionProduct (r : RRef) (seq k : Nat)
  /-- A busy sequencer migrates a result-block group to an idle neighbour. (R131) -/
  | groupMigration (r : RRef) (seq : Nat)
  /-- After lower products are written, a stopped contraction sets STOP and pushes a tag 1 token. (R132) -/
  | contractionStop (r : RRef) (seq : Nat)
  /-- After all products are written, the contraction clears BUSY and pushes a tag 0 token. (R132) -/
  | contractionComplete (r : RRef) (seq : Nat)
  /-- A wellhead reads, sums or applies one row at its home. (R247) -/
  | wellheadRowServe (r : RRef) (seq pos : Nat)
  /-- A wellhead command's writes are performed and its token is pushed. (R257) -/
  | wellheadCommandComplete (r : RRef) (seq : Nat)
  /-- A queued copy starts once its issuer's earlier operations are performed. (R184) -/
  | copyStart (die ch : Nat)
  /-- A copy's writes are performed and its ring record is written. (R186) -/
  | copyEnd (die ch : Nat)
  /-- A GCTL write with FORM forms a group in a slot. (R190) -/
  | groupForm (slot : Nat) (v : Word)
  /-- A GCTL write with DISSOLVE clears a group slot. (R190) -/
  | groupDissolve (slot : Nat)
  /-- A start packet for a call arrives from a peer. (R192) -/
  | collectiveStartPacket (slot rank : Nat) (p : StartPkt)
  /-- A call starts once every needed start packet matches. (R192) -/
  | collectiveCallStart (slot num : Nat)
  /-- A chunk packet arrives and is reduced or stored. (R195) -/
  | collectiveChunkPacket (slot : Nat) (p : ChunkPkt)
  /-- An eligible chunk-graph operation starts. (R198) -/
  | chunkGraphOpStart (slot num op : Nat)
  /-- A call completes on a member once its writes are performed. (R198) -/
  | collectiveCallComplete (slot num : Nat)
  /-- An abort packet arrives and the member raises its fault for that call. (R192) -/
  | collectiveAbortPacket (slot rank num cause : Nat)
  /-- A call not started within TMO raises 0x1A1. (R192) -/
  | collectiveStartTimeout (slot num : Nat)
  /-- With all rows in, the arbiter decomposes demand and broadcasts grant records. (R226) -/
  | arbiterCalendar (slot : Nat) (rows : List (Nat × List Nat))
  /-- A member receives its grant record for the round. (R227) -/
  | grantRecordReceive (slot : Nat) (g : Grant)
  /-- A sender runs one phase of the calendar. (R228) -/
  | exchangePhase (slot : Nat)
  /-- An exchange data packet lands in its zone. (R228) -/
  | exchangeDataLand (slot rank : Nat) (p : ExchPkt)
  /-- A member fixes FILL, zero-fills zones and reports LEFT to the arbiter; acks are the bytes of its streams that each
  destination rank acknowledged as performed. (R229) -/
  | roundDoneReport (slot : Nat) (acks : List (Nat × Nat))
  /-- The arbiter broadcasts round end with ANY. (R229) -/
  | roundEndBroadcast (slot : Nat) (reports : List RoundReport)
  /-- A member updates SENT and POST, closes the round and completes DWAITs. (R229) -/
  | roundEndReceive (slot round : Nat) (any : Bool)
  /-- A missing row after TMO raises 0x180. (R240) -/
  | exchangePostTimeout (slot missing : Nat) (firstRow : Nat)
  /-- Bytes held TMO with no DRECV raise 0x182. (R240) -/
  | landingListTimeout (slot : Nat)
  /-- Too few DSENDs bound TMO after the grant raise 0x185. (R229) -/
  | exchangeSendTimeout (slot : Nat)
  /-- An exchange abort packet arrives and the member raises 0x181. (R240) -/
  | exchangeAbortPacket (slot rank round : Nat)
  /-- The arbiter sends its beacon every 20 µs. (R231) -/
  | arbiterBeacon (slot rank : Nat)
  /-- A member sends its heartbeat every 20 µs. (R231) -/
  | memberHeartbeat (slot rank : Nat)
  /-- A peer's heartbeat or beacon becomes 100 µs old; `posted`: the next round is open, and not yet on this part. (R231) -/
  | livenessLapse (slot rank : Nat)
  /-- The lowest live rank claims a new arbiter term after its wait. (R231) -/
  | arbiterClaim (slot : Nat)
  /-- A member accepts a claim, discards old grants and re-posts its remainder. (R231) -/
  | claimAccept (slot rank term : Nat)
  /-- A die-TLB miss walks the context's page table. (R265) -/
  | translationWalk (r : Req)
  /-- An access holds on a fault, opening or joining a hold and posting a record. (R268) -/
  | translationFault (r : Req) (hold : Nat)
  /-- An XRETRY write releases every access of a hold. (R270) -/
  | xretryRetry (hold : Nat)
  /-- An XRETRY write with ABANDON ends each held access's graph with 0x08A. (R270) -/
  | xretryAbandon (hold : Nat)
  /-- An XINVC write starts a translation invalidation. (R271) -/
  | invalidationStart (v : Word)
  /-- Cached translations are dropped and accesses performed; BUSY clears. (R271) -/
  | invalidationComplete
  /-- A host page-request response releases the hold or raises 0x089. (R272) -/
  | priResponse (hold : Nat) (r : PriResult)
  /-- An ATS invalidation request from the host completes once accesses are performed. (R272) -/
  | atsInvalidation (ctx va granules : Nat)
  /-- An access count reaching ANTHR posts a notification and resets. (R273) -/
  | accessCountNotify (die idx : Nat)
  /-- A quiescent stage with all elements ended latches delays and starts the next instant. (R302) -/
  | instantEnd (inst : Nat)
  /-- A quiescent stage with a blocked element raises 0x141 or 0x142. (R303) -/
  | quiescenceFault (inst : Nat)
  /-- A host write of QWRITE makes new packets available. (R311) -/
  | queueDoorbell (q v : Nat)
  /-- A graph launch packet starts a new instance or applies a live delta. (R319) -/
  | graphLaunchPacket (q : Nat)
  /-- A copy packet runs a copy. (R313) -/
  | copyPacket (q : Nat)
  /-- A barrier-and packet completes when every named record is done. (R313) -/
  | barrierAndPacket (q : Nat)
  /-- A signal packet writes its value after earlier packets complete. (R313) -/
  | signalPacket (q : Nat)
  /-- A QSTATE write with RESET resumes a queue in error. (R315) -/
  | queueReset (q : Nat)
  /-- A QSTATE write with RESET and SKIP advances QREAD and resumes. (R315) -/
  | queueSkip (q : Nat)
  /-- Touched regions drain, take the delta and receive the configuration token. (R319) -/
  | liveDeltaApply (gi : Nat)
  /-- A graph item ends and the next item, node or completion follows. (R321) -/
  | graphItemEnd (gi : Nat)
  /-- The front end takes a pending-launch entry. (R322) -/
  | pendingLaunchTake
  /-- A host ring's unsignalled count reaches C and raises RVEC. (R324) -/
  | ringCountInterrupt (n : Nat)
  /-- A host ring's timer expires and raises RVEC. (R324) -/
  | ringTimerExpiry (n : Nat)
  /-- A host write of 0 to PEND clears a mailbox. (R325) -/
  | mailboxClear (n : Nat)
  /-- The host makes a graph resident after verifying its images. (R55) -/
  | makeResident (ctx idx : Nat) (p : ResidentReq)
  /-- The scheduler places a stage and the loader writes its images. (R328) -/
  | stagePlacement (inst : Nat) (ptes : List (Nat × BitVec 64))
  /-- A stage ends once its elements are halted and its work has completed. (R351) -/
  | stageEnd (inst : Nat)
  /-- The scheduler tries ready stages in order on an event. (R330) -/
  | schedulerDecision
  /-- A stage's quantum expires and it is marked or restarted. (R331) -/
  | quantumExpiry (inst : Nat)
  /-- A ready stage that has waited AGE becomes aged. (R332) -/
  | stageAged (inst : Nat)
  /-- A marked stage is saved at its safe point. (R334) -/
  | preemptionSave (inst : Nat)
  /-- A saved stage is restored on a new placement. (R334) -/
  | stageResume (inst : Nat) (ptes : List (Nat × BitVec 64))
  /-- At each 1 µs window end a region controller adjusts its clock. (R337) -/
  | clockWindow (reg : Nat) (w : ClockWindow)
  /-- A fatal fault stops the graph's regions and writes its records. (R343) -/
  | fatalFaultGraphEnd (gi : Nat)
  /-- A host write to a register with no behaviour of its own. (R329) -/
  | registerWrite (addr : Nat) (v : BitVec 64)
  /-- Power-on runs secure boot from the ROM. (R358) -/
  | powerOn (b : BootInput)
  /-- An orderly reset stops lease renewal and resets the part. (R356) -/
  | orderlyReset
  /-- The leader renews the lease every 1 ms. (R355) -/
  | leaseRenew
  /-- A core finding the lease lapsed claims it after its wait. (R355) -/
  | leaseClaim (core : Nat)
  /-- A new leader loads the mirrored front-end state and resumes. (R356) -/
  | mirrorLoad (core : Nat)
  /-- The part answers an SPDM request with signed measurements. (R360) -/
  | spdmRequest (blocks : List Nat)
  /-- Firmware measures a free region's margin and sets or fences it. (R361) -/
  | marginMeasurement (reg steps : Nat)
  /-- Firmware scrubs cistern and HBM4 lines. (R362) -/
  | eccScrub (errs : List EccErr)
  /-- A link retrains after 16 retries within 1 ms. (R362) -/
  | linkRetrain (link : Nat) (ok : Bool)
  /-- A bank with too many errors fences its region and ends its graph. (R362) -/
  | hardFaultFence (reg bank : Nat)
  /-- Each core adds to the lifetime record every 60 s. (R363) -/
  | lifetimeRecordUpdate (core : Nat) (u : LifeUpdate)
  /-- A write of LRCMD GO copies the lifetime record to LRBASE: the write, and then the copy. (R363) -/
  | lrcmdGo
  /-- An emission or cession, or the absence that follows it, becomes visible to guards and sigv of one element of another region, given by its region and number, between t + 1 and t + 1 + h. (R298) -/
  | signalVisible (inst : Nat) (at_ : Nat × Nat) (sig : Nat)
  /-- A receiver takes a source's end packet, which carries the stream length sent in the round. (R229) -/
  | exchangeEndPacket (slot rank round len : Nat)
  /-- An ATS translation completion returns from the host IOMMU and is held in the part's TLBs. (R272) -/
  | atsTranslationCompletion (r : Req) (a : AtsResult)
  /-- Firmware lowers or raises the thermal limit, and with it PCAP, from die temperatures so that no die passes 105 °C. (R354) -/
  | thermalLimitChange (watts : Nat)
  /-- The supply is lost, ending all work and losing up to 60 s of lifetime-record counts. (R363) -/
  | powerLoss
  deriving DecidableEq, Repr

end Sys2Proof
end

