-- ==== Sys2Proof/WellFormed.lean ====
section
/-! DEFINITION. Which action and trigger halves are instructions (spec/03_element_and_word.md R54 and the operand tables of
the pages: R147, R168, R113, R200, R233, R254, R307, R169, R117, R325, R350). -/

namespace Sys2Proof

open Sys2Proof.Machine (bit bits)

/-- Why a word is no instruction (R54), by the field of the table. -/
inductive Reject where
  /-- V = 0: the word never issues. -/
  | notValid
  /-- a PVAL bit is 1 where PMASK is 0 -/
  | pvalOutside
  /-- CGE = 0 with CGI, TGE, TGV or NB nonzero -/
  | guardBits
  /-- CGI 101 to 111 -/
  | channelCode
  /-- TGE = 0 with TGV nonzero -/
  | tagBits
  /-- NB nonzero with MOD peeking at the guarded channel -/
  | beatsPeek
  /-- SGS 11, or 00 with SGI nonzero -/
  | signalGuard
  /-- a reserved opcode -/
  | reservedOp
  /-- FN, AUX, SLI, IDX or HS holds a value the page does not define -/
  | subcode
  | source
  | destination
  | predicateWrite
  | peek
  | width
  | outTag
  | unusedBits
  /-- fewer than eight bytes -/
  | tooShort
  deriving DecidableEq, Repr

/-- The first check that fails names the reason. -/
def firstBad : List (Bool × Reject) → Option Reject
  | [] => none
  | (ok, r) :: cs => if ok then firstBad cs else some r

/-! ## Source and destination codes (R47) -/

def isReg (c : BitVec 4) : Bool := c.toNat < 8
def isOut (c : BitVec 4) : Bool := 8 ≤ c.toNat && c.toNat < 12
/-- The channels a source may name: in0 to in3 and mi. -/
def isChan (c : BitVec 4) : Bool := 8 ≤ c.toNat && c.toNat < 13
def srcOk (c : BitVec 4) : Bool := c != 15
def dstAny (c : BitVec 4) : Bool := c.toNat < 13

/-- PU and PS (R54): nothing set without the enable; the condition only where the page defines one. -/
def puOk (pu : BitVec 4) (ps : BitVec 2) (cond : Bool) : Bool :=
  (bit pu 3 || (pu == 0 && ps == 0)) && (cond || ps.toNat < 2)

/-- MOD (R54): peeks only at channels; one channel as both sources needs a peek. -/
def modOk (sa sb : BitVec 4) (mod : BitVec 2) : Bool :=
  (!bit mod 1 || isChan sa) && (!bit mod 0 || isChan sb) && !(sa == sb && isChan sa && mod == 0)

def FmtA.checks (f : FmtA) (reg sbUsed cond : Bool) : List (Bool × Reject) :=
  [(if reg then isReg f.dst else dstAny f.dst, .destination), (srcOk f.sa, .source),
   (if sbUsed then srcOk f.sb else f.sb == 13, .source), (puOk f.pu f.ps cond, .predicateWrite),
   (f.ot != 3, .outTag), (modOk f.sa f.sb f.mod, .peek)]

def FmtI.checks (f : FmtI) (reg : Bool) : List (Bool × Reject) :=
  [(if reg then isReg f.dst else dstAny f.dst, .destination), (srcOk f.sa, .source)]

def FmtM.checks (f : FmtM) (dst sa sb pms sz aux : Bool) : List (Bool × Reject) :=
  [(dst, .destination), (sa, .source), (sb, .source), (pms, .unusedBits), (sz, .width), (aux, .subcode),
   (f.ot != 3, .outTag), (modOk f.sa f.sb f.mod, .peek)]

/-- Format E pops every channel it reads (R53). That one channel as both its sources makes no instruction is the model's choice: the MOD row of
R54 speaks of a field that format E has not, and R16 binds tbasm alone (DESIGN CHOICE, log 65). -/
def FmtE.checks (f : FmtE) (dst sbUsed fn : Bool) : List (Bool × Reject) :=
  [(dst, .destination), (srcOk f.sa, .source), (if sbUsed then srcOk f.sb else f.sb == 13, .source), (fn, .subcode),
   (modOk f.sa f.sb 0, .peek)]

def FmtS.checks (f : FmtS) (dst sa sli ot cond : Bool) : List (Bool × Reject) :=
  [(dst, .destination), (sa, .source), (sli, .subcode), (puOk f.pu f.ps cond, .predicateWrite), (ot, .outTag),
   (!bit f.mod 0, .peek), (!bit f.mod 1 || isChan f.sa, .peek)]

def FmtY.checks (f : FmtY) (dst sa idx cond : Bool) : List (Bool × Reject) :=
  [(dst, .destination), (sa, .source), (idx, .subcode), (puOk f.pu f.ps cond, .predicateWrite)]

def peeksOf (sa sb : BitVec 4) (mod : BitVec 2) : List (BitVec 4) :=
  (if bit mod 1 then [sa] else []) ++ (if bit mod 0 then [sb] else [])


/-- What makes an action half no instruction, the first condition of R54 that it breaks; none for a well-formed one.
The conditions that depend on the stage (clocked, bound slots) are the image verifier's. The steps no word encodes have
no encoding to break. A qget may name drop, as a format E command's result may: R117's table says "result" of it and "result or drop" of its
neighbours (DESIGN CHOICE, log 65). -/
def Instr.reject : Instr → Option Reject
  | .add f | .sub f | .mul f | .mulh f | .mulhu f | .or f | .and f | .xor f | .andn f | .shl f | .shr f
  | .sra f | .min f | .max f | .minu f | .maxu f | .bfx f | .fadd f | .fsub f | .fmul f | .fmin f | .fmax f
  | .badd2 f | .bmul2 f | .hadd2 f | .hmul2 f | .cvtfb f | .cvtfh f | .cvtf4 f | .cvtf4s f | .cvtf5 f
  | .cvtf5s f | .cvt4f f | .cvt5f f => firstBad (f.checks false true false)
  | .cmpeq f | .cmpne f | .cmplt f | .cmpltu f | .cmple f | .cmpleu f | .adds f | .subs f | .fcmpeq f
  | .fcmplt f | .fcmple f => firstBad (f.checks false true true)
  | .sel f | .bfi f | .fmac f | .bmac2 f | .hmac2 f => firstBad (f.checks true true false)
  | .clz f | .ctz f | .popc f | .exp2 f | .log2 f | .rcp f | .rsq f | .cvtif f | .cvtbf f | .cvthf f => firstBad (f.checks false false false)
  | .abs f | .cvtfi f => firstBad (f.checks false false true)
  | .addi f | .andi f | .ori f | .xori f | .muli f | .mini f | .maxi f | .cmpeqi f | .cmpnei f | .cmplti f
  | .cmpltui f | .cmplei f | .cmpleui f | .addsi f => firstBad (f.checks false)
  | .shli f | .shri f | .srai f => firstBad (f.checks false ++ [(bits f.imm 13 5 == 0, .unusedBits)])
  | .bfxi f => firstBad (f.checks false ++ [(bits f.imm 13 11 == 0, .unusedBits)])
  | .bfii f => firstBad (f.checks true ++ [(bits f.imm 13 11 == 0, .unusedBits)])
  | .ldk f => firstBad [(if f.hs.toNat < 2 then isReg f.dst else dstAny f.dst, .destination)]
  | .ldkf f => firstBad [(dstAny f.dst, .destination), (f.hs == 0, .subcode)]
  | .plog f => firstBad [(!bit f.dst 3, .unusedBits), (f.hs == 0, .subcode), (bits f.imm 15 12 == 0, .unusedBits),
      (!bit f.imm 7, .unusedBits), (!bit f.imm 3, .unusedBits)]
  | .pset f => firstBad [(f.dst == 12, .destination), (f.hs == 0, .subcode),
      (bits f.imm 7 0 &&& (255 - bits f.imm 15 8) == 0, .subcode)]
  | .pget f => firstBad [(dstAny f.dst, .destination), (f.hs == 0, .subcode), (f.imm == 0, .unusedBits)]
  | .talloc f => firstBad (f.checks (dstAny f.dst) (srcOk f.sa) (f.sb == 13) (f.pms == 0) (f.sz == 2) (f.aux == 0))
  | .tfree f => firstBad (f.checks (f.dst == 12) (srcOk f.sa) (f.sb == 13) (f.pms == 0) (f.sz == 2) (f.aux == 0))
  | .tcfg f => firstBad (f.checks (dstAny f.dst) (srcOk f.sa) (srcOk f.sb) (f.pms == 0) (f.sz == 2) (f.aux == 0))
  | .tqry f => firstBad (f.checks (dstAny f.dst) (srcOk f.sa) (f.sb == 13) (f.pms == 0) (f.sz == 2) (f.aux.toNat < 5))
  | .tld f => firstBad (f.checks (f.dst == 12) (srcOk f.sa) (srcOk f.sb) (f.pms == 0) (f.sz == 2) (!bit f.aux 2))
  | .tst f => firstBad (f.checks (isReg f.dst) (srcOk f.sa) (srcOk f.sb) (f.pms == 0) (f.sz == 2) (!bit f.aux 2))
  | .pcfg f => firstBad (f.checks (f.dst == 12) (srcOk f.sa) (f.sb == 13) (true) (f.sz == 2) (f.aux == 0))
  | .pqry f => firstBad (f.checks (dstAny f.dst) (f.sa == 13) (f.sb == 13) (true) (f.sz == 2) (f.aux.toNat < 7))
  | .pgo f => firstBad (f.checks (f.dst == 12) (srcOk f.sa) (f.sb == 13) (true) (f.sz == 2) (f.aux == 0))
  | .pstop f => firstBad (f.checks (f.dst == 12) (f.sa == 13) (f.sb == 13) (true) (f.sz == 2) (f.aux == 0))
  | .ld f => firstBad (f.checks (f.dst == 12) ((srcOk f.sa && (!bit f.aux 0 || isReg f.sa))) (f.sb == 13) ((bit f.aux 2 || f.pms == 0)) (f.sz != 3) (true))
  | .st f => firstBad (f.checks (f.dst == 12) ((srcOk f.sa && (!bit f.aux 0 || isReg f.sa))) (srcOk f.sb) ((bit f.aux 2 || f.pms == 0)) (f.sz != 3) (!bit f.aux 1))
  | .ldx f => firstBad (f.checks (f.dst == 12) (srcOk f.sa) (srcOk f.sb) ((bit f.aux 2 || f.pms == 0)) (f.sz != 3) (!bit f.aux 0))
  | .stx f => firstBad (f.checks (isReg f.dst) (srcOk f.sa) (srcOk f.sb) ((bit f.aux 2 || f.pms == 0)) (f.sz != 3) (!bit f.aux 0 && !bit f.aux 1))
  | .mdone f => firstBad (f.checks (f.dst == 12) (f.sa == 13) (f.sb == 13) (f.pms == 0) (f.sz == 2) (!bit f.aux 1 && !bit f.aux 2))
  | .atom f => firstBad (f.checks ((if f.aux == 7 then isReg f.dst else f.dst == 12)) (srcOk f.sa) (srcOk f.sb) (f.pms == 0) (f.sz != 3) (true))
  | .atomr f => firstBad (f.checks ((if f.aux == 7 then isReg f.dst else f.dst == 12)) (srcOk f.sa) (srcOk f.sb) (f.pms == 0) (f.sz != 3) (true))
  | .rawait f => firstBad (f.checks (dstAny f.dst) (srcOk f.sa) (f.sb == 13) (f.pms == 0) (f.sz == 2) (!bit f.aux 1 && !bit f.aux 2))
  | .rrel f => firstBad (f.checks (f.dst == 12) (srcOk f.sa) (srcOk f.sb) (f.pms == 0) (f.sz == 2) (f.aux == 0))
  | .rget f => firstBad (f.checks (dstAny f.dst) (srcOk f.sa) (srcOk f.sb) (f.pms == 0) (f.sz == 2) (!bit f.aux 2))
  | .grule f => firstBad (f.checks (!bit f.dst 3) false (f.fn == 0))
  | .bdinit f => firstBad (f.checks (dstAny f.dst) true (f.fn == 0))
  | .bdins f => firstBad (f.checks (dstAny f.dst) true (f.fn == 0))
  | .bdfind f => firstBad (f.checks (dstAny f.dst) true (f.fn == 0))
  | .bdget f => firstBad (f.checks (dstAny f.dst) true (f.fn == 0))
  | .bdsort f => firstBad (f.checks (dstAny f.dst) false (f.fn == 0))
  | .poolcfg f => firstBad (f.checks (dstAny f.dst) true (f.fn == 0))
  | .bcon f => firstBad (f.checks (dstAny f.dst) false (f.fn == 0))
  | .bcres f => firstBad (f.checks (dstAny f.dst) true (f.fn == 0))
  | .bcstat f => firstBad (f.checks (dstAny f.dst) true (f.fn == 0))
  | .bcwait f => firstBad (f.checks (dstAny f.dst) false (f.fn == 0))
  | .topb f => firstBad (f.checks (dstAny f.dst) true (f.fn.toNat < 8))
  | .topx f => firstBad (f.checks (dstAny f.dst) false (f.fn.toNat < 8))
  | .gath f => firstBad (f.checks (dstAny f.dst) true (f.fn == 0))
  | .scat f => firstBad (f.checks (dstAny f.dst) true (f.fn.toNat < 3))
  | .pools f => firstBad (f.checks (dstAny f.dst) true (f.fn.toNat < 4))
  | .gstat f => firstBad (f.checks (dstAny f.dst) true (f.fn == 0))
  | .dpost f => firstBad (f.checks (dstAny f.dst) false (f.fn == 0))
  | .dsend f => firstBad (f.checks (dstAny f.dst) false (f.fn == 0))
  | .drecv f => firstBad (f.checks (dstAny f.dst) false (f.fn == 0))
  | .dwait f => firstBad (f.checks (dstAny f.dst) false (f.fn == 0))
  | .dqry f => firstBad (f.checks (dstAny f.dst) true (f.fn == 0))
  | .cgload f => firstBad (f.checks (dstAny f.dst) false (f.fn == 0))
  | .crun f => firstBad (f.checks (dstAny f.dst) true (f.fn.toNat < 4))
  | .cwait f => firstBad (f.checks (dstAny f.dst) false (f.fn == 0))
  | .bar f => firstBad (f.checks (dstAny f.dst) false (f.fn == 0))
  | .cseq f => firstBad (f.checks (dstAny f.dst) false (f.fn == 0))
  | .emit f => firstBad (f.checks (f.dst == 12) (f.sa == 13) (true) (f.ot != 3) false)
  | .emitv f => firstBad (f.checks (f.dst == 12) (srcOk f.sa) (true) (f.ot != 3) false)
  | .cede f => firstBad (f.checks (f.dst == 12) (f.sa == 13) (true) (f.ot != 3) false)
  | .rxend f => firstBad (f.checks (f.dst == 12) (f.sa == 13) (f.sli == 0) (f.ot != 3) false)
  | .dlyr f => firstBad (f.checks (dstAny f.dst) (f.sa == 13) (f.sli.toNat < 4) (f.ot != 3) false)
  | .dlyw f => firstBad (f.checks (f.dst == 12) (srcOk f.sa) (f.sli.toNat < 4) (f.ot != 3) false)
  | .sigv f => firstBad (f.checks (dstAny f.dst) (f.sa == 13) (true) (f.ot != 3) true)
  | .icnt f => firstBad (f.checks (dstAny f.dst) (f.sa == 13) (f.sli == 0) (f.ot != 3) false)
  | .mark f => firstBad (f.checks (isOut f.dst) (srcOk f.sa) (f.sli == 0) (f.ot == 3) false)
  | .fwd f => firstBad (f.checks (isOut f.dst) (isChan f.sa) (f.sli == 0) (f.ot == 0) false)
  | .tagr f => firstBad (f.checks (dstAny f.dst) (isChan f.sa) (f.sli.toNat < 4) (f.ot != 3) true)
  | .skip f => firstBad (f.checks (dstAny f.dst) ((isChan f.sa && !bit f.mod 1)) (true) (f.ot != 3) true)
  | .qset f => firstBad (f.checks (f.dst == 12) (srcOk f.sa) (f.sli.toNat < 4) (f.ot != 3) false)
  | .qget f => firstBad (f.checks (dstAny f.dst) (f.sa == 13) (f.sli.toNat < 4) (f.ot != 3) false)
  | .qfuse f => firstBad (f.checks (dstAny f.dst) (srcOk f.sa) (f.sli.toNat < 4) (f.ot != 3) false)
  | .qinv f => firstBad (f.checks (dstAny f.dst) (f.sa == 13) (f.sli.toNat < 4) (f.ot != 3) false)
  | .qeq f => firstBad (f.checks (dstAny f.dst) (srcOk f.sa) (f.sli.toNat < 4) (f.ot != 3) true)
  | .qchk f => firstBad (f.checks (dstAny f.dst) (srcOk f.sa) (f.sli.toNat < 4) (f.ot != 3) true)
  | .qsel f => firstBad (f.checks (f.dst == 12) (f.sa == 13) (f.sli.toNat < 8) (f.ot != 3) false)
  | .nop f => firstBad (f.checks (f.dst == 12) (f.sa == 13) (f.idx == 0) false)
  | .halt f => firstBad (f.checks (f.dst == 12) (f.sa == 13) (f.idx == 0) false ++ [(f.pu == 0 && f.ps == 0, .predicateWrite)])
  | .trap f => firstBad (f.checks (f.dst == 12) (srcOk f.sa) (true) false ++ [(f.pu == 0 && f.ps == 0, .predicateWrite)])
  | .csrr f => firstBad (f.checks (dstAny f.dst) (f.sa == 13) (f.idx.toNat < 9) false)
  | .csrw f => firstBad (f.checks (f.dst == 12) (srcOk f.sa) (f.idx == 5) false)
  | .glaunch f => firstBad (f.checks (dstAny f.dst) (srcOk f.sa) (f.idx.toNat < 4) true)
  | .gcond f => firstBad (f.checks (dstAny f.dst) (srcOk f.sa) (f.idx.toNat < 8) false)
  | .hrapp f => firstBad (f.checks (f.dst == 12) (srcOk f.sa) (f.idx.toNat < 16) false)
  | .intr f => firstBad (f.checks (f.dst == 12) (srcOk f.sa) (f.idx.toNat < 16) false)
  | .slotIssue _ | .multiBeatBeat _ | .channelOperandWaitEnd _ | .markerReset _ | .routeTokenTake _ _
  | .tokenArrival _ _ | .boundaryNodeDeliver _ _ | .waitingInstructionResume _ | .loadReturn _
  | .tileTableServe _ | .tileFullSet _ _ | .tileEntryFree _ _ | .pumpAccess _ _ | .pumpRunEnd _ _
  | .mdoneToken _ | .atomicEngineServe _ | .tileOpFiring _ | .tileOpFiringEnd _ | .contractionEnumerate _ _
  | .contractionProduct _ _ _ | .groupMigration _ _ | .contractionStop _ _ | .contractionComplete _ _
  | .wellheadRowServe _ _ _ | .wellheadCommandComplete _ _ | .copyStart _ _ | .copyEnd _ _ | .groupForm _ _
  | .groupDissolve _ | .collectiveStartPacket _ _ _ | .collectiveCallStart _ _ | .collectiveChunkPacket _ _
  | .chunkGraphOpStart _ _ _ | .collectiveCallComplete _ _ | .collectiveAbortPacket _ _ _ _
  | .collectiveStartTimeout _ _ | .arbiterCalendar _ _ | .grantRecordReceive _ _ | .exchangePhase _
  | .exchangeDataLand _ _ _ | .roundDoneReport _ _ | .roundEndBroadcast _ _ | .roundEndReceive _ _ _
  | .exchangePostTimeout _ _ _ | .landingListTimeout _ | .exchangeSendTimeout _ | .exchangeAbortPacket _ _ _
  | .arbiterBeacon _ _ | .memberHeartbeat _ _ | .livenessLapse _ _ | .arbiterClaim _ | .claimAccept _ _ _
  | .translationWalk _ | .translationFault _ _ | .xretryRetry _ | .xretryAbandon _ | .invalidationStart _
  | .invalidationComplete | .priResponse _ _ | .atsInvalidation _ _ _ | .accessCountNotify _ _ | .instantEnd _
  | .quiescenceFault _ | .queueDoorbell _ _ | .graphLaunchPacket _ | .copyPacket _ | .barrierAndPacket _
  | .signalPacket _ | .queueReset _ | .queueSkip _ | .liveDeltaApply _ | .graphItemEnd _ | .pendingLaunchTake
  | .ringCountInterrupt _ | .ringTimerExpiry _ | .mailboxClear _ | .makeResident _ _ _ | .stagePlacement _ _
  | .stageEnd _ | .schedulerDecision | .quantumExpiry _ | .stageAged _ | .preemptionSave _ | .stageResume _ _
  | .clockWindow _ _ | .fatalFaultGraphEnd _ | .registerWrite _ _ | .powerOn _ | .orderlyReset | .leaseRenew
  | .leaseClaim _ | .mirrorLoad _ | .spdmRequest _ | .marginMeasurement _ _ | .eccScrub _ | .linkRetrain _ _
  | .hardFaultFence _ _ | .lifetimeRecordUpdate _ _ | .lrcmdGo | .signalVisible _ _ _
  | .exchangeEndPacket _ _ _ _ | .atsTranslationCompletion _ _ | .thermalLimitChange _ | .powerLoss => none

/-- The source codes an action peeks at (R16, R46). -/
def Instr.peeks : Instr → List (BitVec 4)
  | .add f | .sub f | .mul f | .mulh f | .mulhu f | .or f | .and f | .xor f | .andn f | .shl f | .shr f
  | .sra f | .min f | .max f | .minu f | .maxu f | .cmpeq f | .cmpne f | .cmplt f | .cmpltu f | .cmple f
  | .cmpleu f | .sel f | .bfx f | .bfi f | .clz f | .ctz f | .popc f | .adds f | .subs f | .abs f | .fadd f
  | .fsub f | .fmul f | .fmac f | .fmin f | .fmax f | .fcmpeq f | .fcmplt f | .fcmple f | .exp2 f | .log2 f
  | .rcp f | .rsq f | .badd2 f | .bmul2 f | .bmac2 f | .hadd2 f | .hmul2 f | .hmac2 f | .cvtfi f | .cvtif f
  | .cvtfb f | .cvtfh f | .cvtbf f | .cvthf f | .cvtf4 f | .cvtf4s f | .cvtf5 f | .cvtf5s f | .cvt4f f
  | .cvt5f f => peeksOf f.sa f.sb f.mod
  | .talloc f | .tfree f | .tcfg f | .tqry f | .tld f | .tst f | .pcfg f | .pqry f | .pgo f | .pstop f | .ld f
  | .st f | .ldx f | .stx f | .mdone f | .atom f | .atomr f | .rawait f | .rrel f | .rget f => peeksOf f.sa f.sb f.mod
  | .emit f | .emitv f | .cede f | .rxend f | .dlyr f | .dlyw f | .sigv f | .icnt f | .mark f | .fwd f
  | .tagr f | .skip f | .qset f | .qget f | .qfuse f | .qinv f | .qeq f | .qchk f | .qsel f => peeksOf f.sa 13 f.mod
  | .addi _ | .andi _ | .ori _ | .xori _ | .shli _ | .shri _ | .srai _ | .muli _ | .mini _ | .maxi _
  | .cmpeqi _ | .cmpnei _ | .cmplti _ | .cmpltui _ | .cmplei _ | .cmpleui _ | .bfxi _ | .bfii _ | .addsi _ => []
  | .ldk _ | .plog _ | .pset _ | .pget _ | .ldkf _ => []
  | .grule _ | .bdinit _ | .bdins _ | .bdfind _ | .bdget _ | .bdsort _ | .poolcfg _ | .bcon _ | .bcres _
  | .bcstat _ | .bcwait _ | .topb _ | .topx _ | .gath _ | .scat _ | .pools _ | .gstat _ | .dpost _ | .dsend _
  | .drecv _ | .dwait _ | .dqry _ | .cgload _ | .crun _ | .cwait _ | .bar _ | .cseq _ => []
  | .nop _ | .halt _ | .trap _ | .csrr _ | .csrw _ | .glaunch _ | .gcond _ | .hrapp _ | .intr _ => []
  | .slotIssue _ | .multiBeatBeat _ | .channelOperandWaitEnd _ | .markerReset _ | .routeTokenTake _ _
  | .tokenArrival _ _ | .boundaryNodeDeliver _ _ | .waitingInstructionResume _ | .loadReturn _
  | .tileTableServe _ | .tileFullSet _ _ | .tileEntryFree _ _ | .pumpAccess _ _ | .pumpRunEnd _ _
  | .mdoneToken _ | .atomicEngineServe _ | .tileOpFiring _ | .tileOpFiringEnd _ | .contractionEnumerate _ _
  | .contractionProduct _ _ _ | .groupMigration _ _ | .contractionStop _ _ | .contractionComplete _ _
  | .wellheadRowServe _ _ _ | .wellheadCommandComplete _ _ | .copyStart _ _ | .copyEnd _ _ | .groupForm _ _
  | .groupDissolve _ | .collectiveStartPacket _ _ _ | .collectiveCallStart _ _ | .collectiveChunkPacket _ _
  | .chunkGraphOpStart _ _ _ | .collectiveCallComplete _ _ | .collectiveAbortPacket _ _ _ _
  | .collectiveStartTimeout _ _ | .arbiterCalendar _ _ | .grantRecordReceive _ _ | .exchangePhase _
  | .exchangeDataLand _ _ _ | .roundDoneReport _ _ | .roundEndBroadcast _ _ | .roundEndReceive _ _ _
  | .exchangePostTimeout _ _ _ | .landingListTimeout _ | .exchangeSendTimeout _ | .exchangeAbortPacket _ _ _
  | .arbiterBeacon _ _ | .memberHeartbeat _ _ | .livenessLapse _ _ | .arbiterClaim _ | .claimAccept _ _ _
  | .translationWalk _ | .translationFault _ _ | .xretryRetry _ | .xretryAbandon _ | .invalidationStart _
  | .invalidationComplete | .priResponse _ _ | .atsInvalidation _ _ _ | .accessCountNotify _ _ | .instantEnd _
  | .quiescenceFault _ | .queueDoorbell _ _ | .graphLaunchPacket _ | .copyPacket _ | .barrierAndPacket _
  | .signalPacket _ | .queueReset _ | .queueSkip _ | .liveDeltaApply _ | .graphItemEnd _ | .pendingLaunchTake
  | .ringCountInterrupt _ | .ringTimerExpiry _ | .mailboxClear _ | .makeResident _ _ _ | .stagePlacement _ _
  | .stageEnd _ | .schedulerDecision | .quantumExpiry _ | .stageAged _ | .preemptionSave _ | .stageResume _ _
  | .clockWindow _ _ | .fatalFaultGraphEnd _ | .registerWrite _ _ | .powerOn _ | .orderlyReset | .leaseRenew
  | .leaseClaim _ | .mirrorLoad _ | .spdmRequest _ | .marginMeasurement _ _ | .eccScrub _ | .linkRetrain _ _
  | .hardFaultFence _ _ | .lifetimeRecordUpdate _ _ | .lrcmdGo | .signalVisible _ _ _
  | .exchangeEndPacket _ _ _ _ | .atsTranslationCompletion _ _ | .thermalLimitChange _ | .powerLoss => []

/-- The opcode of an instruction (spec/04_opcode_map.md R56); the steps no word encodes have none. -/
def Instr.opcode : Instr → Option (BitVec 8)
  | .add _ => some 0x00
  | .sub _ => some 0x01
  | .mul _ => some 0x02
  | .mulh _ => some 0x03
  | .mulhu _ => some 0x04
  | .or _ => some 0x05
  | .and _ => some 0x06
  | .xor _ => some 0x07
  | .andn _ => some 0x08
  | .shl _ => some 0x09
  | .shr _ => some 0x0A
  | .sra _ => some 0x0B
  | .min _ => some 0x0C
  | .max _ => some 0x0D
  | .minu _ => some 0x0E
  | .maxu _ => some 0x0F
  | .cmpeq _ => some 0x10
  | .cmpne _ => some 0x11
  | .cmplt _ => some 0x12
  | .cmpltu _ => some 0x13
  | .cmple _ => some 0x14
  | .cmpleu _ => some 0x15
  | .sel _ => some 0x16
  | .bfx _ => some 0x17
  | .bfi _ => some 0x18
  | .clz _ => some 0x19
  | .ctz _ => some 0x1A
  | .popc _ => some 0x1B
  | .adds _ => some 0x1C
  | .subs _ => some 0x1D
  | .abs _ => some 0x1E
  | .fadd _ => some 0x20
  | .fsub _ => some 0x21
  | .fmul _ => some 0x22
  | .fmac _ => some 0x23
  | .fmin _ => some 0x24
  | .fmax _ => some 0x25
  | .fcmpeq _ => some 0x26
  | .fcmplt _ => some 0x27
  | .fcmple _ => some 0x28
  | .exp2 _ => some 0x29
  | .log2 _ => some 0x2A
  | .rcp _ => some 0x2B
  | .rsq _ => some 0x2C
  | .badd2 _ => some 0x2D
  | .bmul2 _ => some 0x2E
  | .bmac2 _ => some 0x2F
  | .hadd2 _ => some 0x30
  | .hmul2 _ => some 0x31
  | .hmac2 _ => some 0x32
  | .cvtfi _ => some 0x33
  | .cvtif _ => some 0x34
  | .cvtfb _ => some 0x35
  | .cvtfh _ => some 0x36
  | .cvtbf _ => some 0x37
  | .cvthf _ => some 0x38
  | .cvtf4 _ => some 0x39
  | .cvtf4s _ => some 0x3A
  | .cvtf5 _ => some 0x3B
  | .cvtf5s _ => some 0x3C
  | .cvt4f _ => some 0x3D
  | .cvt5f _ => some 0x3E
  | .addi _ => some 0x40
  | .andi _ => some 0x41
  | .ori _ => some 0x42
  | .xori _ => some 0x43
  | .shli _ => some 0x44
  | .shri _ => some 0x45
  | .srai _ => some 0x46
  | .muli _ => some 0x47
  | .mini _ => some 0x48
  | .maxi _ => some 0x49
  | .cmpeqi _ => some 0x4A
  | .cmpnei _ => some 0x4B
  | .cmplti _ => some 0x4C
  | .cmpltui _ => some 0x4D
  | .cmplei _ => some 0x4E
  | .cmpleui _ => some 0x4F
  | .bfxi _ => some 0x50
  | .bfii _ => some 0x51
  | .addsi _ => some 0x52
  | .ldk _ => some 0x60
  | .plog _ => some 0x61
  | .pset _ => some 0x62
  | .pget _ => some 0x63
  | .ldkf _ => some 0x64
  | .talloc _ => some 0x80
  | .tfree _ => some 0x81
  | .tcfg _ => some 0x82
  | .tqry _ => some 0x83
  | .tld _ => some 0x84
  | .tst _ => some 0x85
  | .pcfg _ => some 0x86
  | .pqry _ => some 0x87
  | .pgo _ => some 0x88
  | .pstop _ => some 0x89
  | .ld _ => some 0x8A
  | .st _ => some 0x8B
  | .ldx _ => some 0x8C
  | .stx _ => some 0x8D
  | .mdone _ => some 0x8E
  | .atom _ => some 0x8F
  | .atomr _ => some 0x90
  | .rawait _ => some 0x91
  | .rrel _ => some 0x92
  | .rget _ => some 0x93
  | .grule _ => some 0xA0
  | .bdinit _ => some 0xA1
  | .bdins _ => some 0xA2
  | .bdfind _ => some 0xA3
  | .bdget _ => some 0xA4
  | .bdsort _ => some 0xA5
  | .poolcfg _ => some 0xA6
  | .bcon _ => some 0xA7
  | .bcres _ => some 0xA8
  | .bcstat _ => some 0xA9
  | .bcwait _ => some 0xAA
  | .topb _ => some 0xAB
  | .topx _ => some 0xAC
  | .gath _ => some 0xAD
  | .scat _ => some 0xAE
  | .pools _ => some 0xAF
  | .gstat _ => some 0xB0
  | .dpost _ => some 0xB1
  | .dsend _ => some 0xB2
  | .drecv _ => some 0xB3
  | .dwait _ => some 0xB4
  | .dqry _ => some 0xB5
  | .cgload _ => some 0xB6
  | .crun _ => some 0xB7
  | .cwait _ => some 0xB8
  | .bar _ => some 0xB9
  | .cseq _ => some 0xBA
  | .emit _ => some 0xC0
  | .emitv _ => some 0xC1
  | .cede _ => some 0xC2
  | .rxend _ => some 0xC3
  | .dlyr _ => some 0xC4
  | .dlyw _ => some 0xC5
  | .sigv _ => some 0xC6
  | .icnt _ => some 0xC7
  | .mark _ => some 0xC8
  | .fwd _ => some 0xC9
  | .tagr _ => some 0xCA
  | .skip _ => some 0xCB
  | .qset _ => some 0xCC
  | .qget _ => some 0xCD
  | .qfuse _ => some 0xCE
  | .qinv _ => some 0xCF
  | .qeq _ => some 0xD0
  | .qchk _ => some 0xD1
  | .qsel _ => some 0xD2
  | .nop _ => some 0xE0
  | .halt _ => some 0xE1
  | .trap _ => some 0xE2
  | .csrr _ => some 0xE3
  | .csrw _ => some 0xE4
  | .glaunch _ => some 0xE6
  | .gcond _ => some 0xE7
  | .hrapp _ => some 0xE8
  | .intr _ => some 0xE9
  | .slotIssue _ | .multiBeatBeat _ | .channelOperandWaitEnd _ | .markerReset _ | .routeTokenTake _ _
  | .tokenArrival _ _ | .boundaryNodeDeliver _ _ | .waitingInstructionResume _ | .loadReturn _
  | .tileTableServe _ | .tileFullSet _ _ | .tileEntryFree _ _ | .pumpAccess _ _ | .pumpRunEnd _ _
  | .mdoneToken _ | .atomicEngineServe _ | .tileOpFiring _ | .tileOpFiringEnd _ | .contractionEnumerate _ _
  | .contractionProduct _ _ _ | .groupMigration _ _ | .contractionStop _ _ | .contractionComplete _ _
  | .wellheadRowServe _ _ _ | .wellheadCommandComplete _ _ | .copyStart _ _ | .copyEnd _ _ | .groupForm _ _
  | .groupDissolve _ | .collectiveStartPacket _ _ _ | .collectiveCallStart _ _ | .collectiveChunkPacket _ _
  | .chunkGraphOpStart _ _ _ | .collectiveCallComplete _ _ | .collectiveAbortPacket _ _ _ _
  | .collectiveStartTimeout _ _ | .arbiterCalendar _ _ | .grantRecordReceive _ _ | .exchangePhase _
  | .exchangeDataLand _ _ _ | .roundDoneReport _ _ | .roundEndBroadcast _ _ | .roundEndReceive _ _ _
  | .exchangePostTimeout _ _ _ | .landingListTimeout _ | .exchangeSendTimeout _ | .exchangeAbortPacket _ _ _
  | .arbiterBeacon _ _ | .memberHeartbeat _ _ | .livenessLapse _ _ | .arbiterClaim _ | .claimAccept _ _ _
  | .translationWalk _ | .translationFault _ _ | .xretryRetry _ | .xretryAbandon _ | .invalidationStart _
  | .invalidationComplete | .priResponse _ _ | .atsInvalidation _ _ _ | .accessCountNotify _ _ | .instantEnd _
  | .quiescenceFault _ | .queueDoorbell _ _ | .graphLaunchPacket _ | .copyPacket _ | .barrierAndPacket _
  | .signalPacket _ | .queueReset _ | .queueSkip _ | .liveDeltaApply _ | .graphItemEnd _ | .pendingLaunchTake
  | .ringCountInterrupt _ | .ringTimerExpiry _ | .mailboxClear _ | .makeResident _ _ _ | .stagePlacement _ _
  | .stageEnd _ | .schedulerDecision | .quantumExpiry _ | .stageAged _ | .preemptionSave _ | .stageResume _ _
  | .clockWindow _ _ | .fatalFaultGraphEnd _ | .registerWrite _ _ | .powerOn _ | .orderlyReset | .leaseRenew
  | .leaseClaim _ | .mirrorLoad _ | .spdmRequest _ | .marginMeasurement _ _ | .eccScrub _ | .linkRetrain _ _
  | .hardFaultFence _ _ | .lifetimeRecordUpdate _ _ | .lrcmdGo | .signalVisible _ _ _
  | .exchangeEndPacket _ _ _ _ | .atsTranslationCompletion _ _ | .thermalLimitChange _ | .powerLoss => none

/-- The source code of the guarded channel (R44 CGI, R47). -/
def Trigger.chanCode (t : Trigger) : BitVec 4 := BitVec.ofNat 4 (8 + t.cgi.toNat)

/-- The conditions of R54 on the trigger half, and NB against the peeks of the action. -/
def Trigger.reject (t : Trigger) (i : Instr) : Option Reject :=
  firstBad [(t.v == 1, .notValid), (t.pval &&& ~~~t.pmask == 0, .pvalOutside),
    (t.cge == 1 || (t.cgi == 0 && t.tge == 0 && t.tgv == 0 && t.nb == 0), .guardBits),
    (t.cgi.toNat < 5, .channelCode), (t.tge == 1 || t.tgv == 0, .tagBits),
    (t.nb == 0 || !(i.peeks.contains t.chanCode), .beatsPeek),
    (t.sgs != 3 && (t.sgs != 0 || t.sgi == 0), .signalGuard)]

/-- The first condition of R54 that a slot's two halves break. -/
def slotReject (t : Trigger) (i : Instr) : Option Reject := (t.reject i).or i.reject

/-- A slot's two halves make an instruction (R54), as far as the word alone shows it. -/
def WellFormed (t : Trigger) (i : Instr) : Bool := i.opcode.isSome && (slotReject t i).isNone

/-- An output channel an instruction writes a token to (R38 condition 5). -/
def outOf (c : BitVec 4) : Option Nat := if isOut c then some (c.toNat - 8) else none

end Sys2Proof
end

