-- ==== Sys2Proof/Decode.lean ====
section
/-! DEFINITION. The decoder of slot words, total on any word, and the encoder beside it
(spec/03_element_and_word.md R44 to R54, spec/04_opcode_map.md). -/

namespace Sys2Proof

open Sys2Proof.Machine (bit bits leNat leBytes)

/-! ## The fields, read from a word -/

/-- The trigger half (R44). -/
def Trigger.ofWord (w : SlotWord) : Trigger :=
  ⟨w.extractLsb' 56 8, w.extractLsb' 48 8, w.extractLsb' 47 1, w.extractLsb' 44 3, w.extractLsb' 43 1,
   w.extractLsb' 41 2, w.extractLsb' 37 4, w.extractLsb' 35 2, w.extractLsb' 31 4, w.extractLsb' 30 1⟩

/-- The opcode, bits [29:22] (R45). -/
def opOf (w : SlotWord) : BitVec 8 := w.extractLsb' 22 8

def FmtA.ofWord (w : SlotWord) : FmtA :=
  ⟨w.extractLsb' 18 4, w.extractLsb' 14 4, w.extractLsb' 10 4, w.extractLsb' 6 4, w.extractLsb' 4 2,
   w.extractLsb' 2 2, w.extractLsb' 0 2⟩

def FmtI.ofWord (w : SlotWord) : FmtI := ⟨w.extractLsb' 18 4, w.extractLsb' 14 4, w.extractLsb' 0 14⟩

def FmtK.ofWord (w : SlotWord) : FmtK := ⟨w.extractLsb' 18 4, w.extractLsb' 16 2, w.extractLsb' 0 16⟩

def FmtM.ofWord (w : SlotWord) : FmtM :=
  ⟨w.extractLsb' 18 4, w.extractLsb' 14 4, w.extractLsb' 10 4, w.extractLsb' 9 1, w.extractLsb' 7 2,
   w.extractLsb' 4 3, w.extractLsb' 2 2, w.extractLsb' 0 2⟩

def FmtE.ofWord (w : SlotWord) : FmtE :=
  ⟨w.extractLsb' 18 4, w.extractLsb' 14 4, w.extractLsb' 10 4, w.extractLsb' 0 10⟩

def FmtS.ofWord (w : SlotWord) : FmtS :=
  ⟨w.extractLsb' 18 4, w.extractLsb' 14 4, w.extractLsb' 10 4, w.extractLsb' 6 4, w.extractLsb' 4 2,
   w.extractLsb' 2 2, w.extractLsb' 0 2⟩

def FmtY.ofWord (w : SlotWord) : FmtY :=
  ⟨w.extractLsb' 18 4, w.extractLsb' 14 4, w.extractLsb' 6 8, w.extractLsb' 2 4, w.extractLsb' 0 2⟩

/-- The instruction an opcode names, with the fields of its format (R56); none for a reserved code. -/
def Instr.ofOp (op : Nat) (w : SlotWord) : Option Instr :=
  match op with
  | 0x00 => some (.add (FmtA.ofWord w))
  | 0x01 => some (.sub (FmtA.ofWord w))
  | 0x02 => some (.mul (FmtA.ofWord w))
  | 0x03 => some (.mulh (FmtA.ofWord w))
  | 0x04 => some (.mulhu (FmtA.ofWord w))
  | 0x05 => some (.or (FmtA.ofWord w))
  | 0x06 => some (.and (FmtA.ofWord w))
  | 0x07 => some (.xor (FmtA.ofWord w))
  | 0x08 => some (.andn (FmtA.ofWord w))
  | 0x09 => some (.shl (FmtA.ofWord w))
  | 0x0A => some (.shr (FmtA.ofWord w))
  | 0x0B => some (.sra (FmtA.ofWord w))
  | 0x0C => some (.min (FmtA.ofWord w))
  | 0x0D => some (.max (FmtA.ofWord w))
  | 0x0E => some (.minu (FmtA.ofWord w))
  | 0x0F => some (.maxu (FmtA.ofWord w))
  | 0x10 => some (.cmpeq (FmtA.ofWord w))
  | 0x11 => some (.cmpne (FmtA.ofWord w))
  | 0x12 => some (.cmplt (FmtA.ofWord w))
  | 0x13 => some (.cmpltu (FmtA.ofWord w))
  | 0x14 => some (.cmple (FmtA.ofWord w))
  | 0x15 => some (.cmpleu (FmtA.ofWord w))
  | 0x16 => some (.sel (FmtA.ofWord w))
  | 0x17 => some (.bfx (FmtA.ofWord w))
  | 0x18 => some (.bfi (FmtA.ofWord w))
  | 0x19 => some (.clz (FmtA.ofWord w))
  | 0x1A => some (.ctz (FmtA.ofWord w))
  | 0x1B => some (.popc (FmtA.ofWord w))
  | 0x1C => some (.adds (FmtA.ofWord w))
  | 0x1D => some (.subs (FmtA.ofWord w))
  | 0x1E => some (.abs (FmtA.ofWord w))
  | 0x20 => some (.fadd (FmtA.ofWord w))
  | 0x21 => some (.fsub (FmtA.ofWord w))
  | 0x22 => some (.fmul (FmtA.ofWord w))
  | 0x23 => some (.fmac (FmtA.ofWord w))
  | 0x24 => some (.fmin (FmtA.ofWord w))
  | 0x25 => some (.fmax (FmtA.ofWord w))
  | 0x26 => some (.fcmpeq (FmtA.ofWord w))
  | 0x27 => some (.fcmplt (FmtA.ofWord w))
  | 0x28 => some (.fcmple (FmtA.ofWord w))
  | 0x29 => some (.exp2 (FmtA.ofWord w))
  | 0x2A => some (.log2 (FmtA.ofWord w))
  | 0x2B => some (.rcp (FmtA.ofWord w))
  | 0x2C => some (.rsq (FmtA.ofWord w))
  | 0x2D => some (.badd2 (FmtA.ofWord w))
  | 0x2E => some (.bmul2 (FmtA.ofWord w))
  | 0x2F => some (.bmac2 (FmtA.ofWord w))
  | 0x30 => some (.hadd2 (FmtA.ofWord w))
  | 0x31 => some (.hmul2 (FmtA.ofWord w))
  | 0x32 => some (.hmac2 (FmtA.ofWord w))
  | 0x33 => some (.cvtfi (FmtA.ofWord w))
  | 0x34 => some (.cvtif (FmtA.ofWord w))
  | 0x35 => some (.cvtfb (FmtA.ofWord w))
  | 0x36 => some (.cvtfh (FmtA.ofWord w))
  | 0x37 => some (.cvtbf (FmtA.ofWord w))
  | 0x38 => some (.cvthf (FmtA.ofWord w))
  | 0x39 => some (.cvtf4 (FmtA.ofWord w))
  | 0x3A => some (.cvtf4s (FmtA.ofWord w))
  | 0x3B => some (.cvtf5 (FmtA.ofWord w))
  | 0x3C => some (.cvtf5s (FmtA.ofWord w))
  | 0x3D => some (.cvt4f (FmtA.ofWord w))
  | 0x3E => some (.cvt5f (FmtA.ofWord w))
  | 0x40 => some (.addi (FmtI.ofWord w))
  | 0x41 => some (.andi (FmtI.ofWord w))
  | 0x42 => some (.ori (FmtI.ofWord w))
  | 0x43 => some (.xori (FmtI.ofWord w))
  | 0x44 => some (.shli (FmtI.ofWord w))
  | 0x45 => some (.shri (FmtI.ofWord w))
  | 0x46 => some (.srai (FmtI.ofWord w))
  | 0x47 => some (.muli (FmtI.ofWord w))
  | 0x48 => some (.mini (FmtI.ofWord w))
  | 0x49 => some (.maxi (FmtI.ofWord w))
  | 0x4A => some (.cmpeqi (FmtI.ofWord w))
  | 0x4B => some (.cmpnei (FmtI.ofWord w))
  | 0x4C => some (.cmplti (FmtI.ofWord w))
  | 0x4D => some (.cmpltui (FmtI.ofWord w))
  | 0x4E => some (.cmplei (FmtI.ofWord w))
  | 0x4F => some (.cmpleui (FmtI.ofWord w))
  | 0x50 => some (.bfxi (FmtI.ofWord w))
  | 0x51 => some (.bfii (FmtI.ofWord w))
  | 0x52 => some (.addsi (FmtI.ofWord w))
  | 0x60 => some (.ldk (FmtK.ofWord w))
  | 0x61 => some (.plog (FmtK.ofWord w))
  | 0x62 => some (.pset (FmtK.ofWord w))
  | 0x63 => some (.pget (FmtK.ofWord w))
  | 0x64 => some (.ldkf (FmtK.ofWord w))
  | 0x80 => some (.talloc (FmtM.ofWord w))
  | 0x81 => some (.tfree (FmtM.ofWord w))
  | 0x82 => some (.tcfg (FmtM.ofWord w))
  | 0x83 => some (.tqry (FmtM.ofWord w))
  | 0x84 => some (.tld (FmtM.ofWord w))
  | 0x85 => some (.tst (FmtM.ofWord w))
  | 0x86 => some (.pcfg (FmtM.ofWord w))
  | 0x87 => some (.pqry (FmtM.ofWord w))
  | 0x88 => some (.pgo (FmtM.ofWord w))
  | 0x89 => some (.pstop (FmtM.ofWord w))
  | 0x8A => some (.ld (FmtM.ofWord w))
  | 0x8B => some (.st (FmtM.ofWord w))
  | 0x8C => some (.ldx (FmtM.ofWord w))
  | 0x8D => some (.stx (FmtM.ofWord w))
  | 0x8E => some (.mdone (FmtM.ofWord w))
  | 0x8F => some (.atom (FmtM.ofWord w))
  | 0x90 => some (.atomr (FmtM.ofWord w))
  | 0x91 => some (.rawait (FmtM.ofWord w))
  | 0x92 => some (.rrel (FmtM.ofWord w))
  | 0x93 => some (.rget (FmtM.ofWord w))
  | 0xA0 => some (.grule (FmtE.ofWord w))
  | 0xA1 => some (.bdinit (FmtE.ofWord w))
  | 0xA2 => some (.bdins (FmtE.ofWord w))
  | 0xA3 => some (.bdfind (FmtE.ofWord w))
  | 0xA4 => some (.bdget (FmtE.ofWord w))
  | 0xA5 => some (.bdsort (FmtE.ofWord w))
  | 0xA6 => some (.poolcfg (FmtE.ofWord w))
  | 0xA7 => some (.bcon (FmtE.ofWord w))
  | 0xA8 => some (.bcres (FmtE.ofWord w))
  | 0xA9 => some (.bcstat (FmtE.ofWord w))
  | 0xAA => some (.bcwait (FmtE.ofWord w))
  | 0xAB => some (.topb (FmtE.ofWord w))
  | 0xAC => some (.topx (FmtE.ofWord w))
  | 0xAD => some (.gath (FmtE.ofWord w))
  | 0xAE => some (.scat (FmtE.ofWord w))
  | 0xAF => some (.pools (FmtE.ofWord w))
  | 0xB0 => some (.gstat (FmtE.ofWord w))
  | 0xB1 => some (.dpost (FmtE.ofWord w))
  | 0xB2 => some (.dsend (FmtE.ofWord w))
  | 0xB3 => some (.drecv (FmtE.ofWord w))
  | 0xB4 => some (.dwait (FmtE.ofWord w))
  | 0xB5 => some (.dqry (FmtE.ofWord w))
  | 0xB6 => some (.cgload (FmtE.ofWord w))
  | 0xB7 => some (.crun (FmtE.ofWord w))
  | 0xB8 => some (.cwait (FmtE.ofWord w))
  | 0xB9 => some (.bar (FmtE.ofWord w))
  | 0xBA => some (.cseq (FmtE.ofWord w))
  | 0xC0 => some (.emit (FmtS.ofWord w))
  | 0xC1 => some (.emitv (FmtS.ofWord w))
  | 0xC2 => some (.cede (FmtS.ofWord w))
  | 0xC3 => some (.rxend (FmtS.ofWord w))
  | 0xC4 => some (.dlyr (FmtS.ofWord w))
  | 0xC5 => some (.dlyw (FmtS.ofWord w))
  | 0xC6 => some (.sigv (FmtS.ofWord w))
  | 0xC7 => some (.icnt (FmtS.ofWord w))
  | 0xC8 => some (.mark (FmtS.ofWord w))
  | 0xC9 => some (.fwd (FmtS.ofWord w))
  | 0xCA => some (.tagr (FmtS.ofWord w))
  | 0xCB => some (.skip (FmtS.ofWord w))
  | 0xCC => some (.qset (FmtS.ofWord w))
  | 0xCD => some (.qget (FmtS.ofWord w))
  | 0xCE => some (.qfuse (FmtS.ofWord w))
  | 0xCF => some (.qinv (FmtS.ofWord w))
  | 0xD0 => some (.qeq (FmtS.ofWord w))
  | 0xD1 => some (.qchk (FmtS.ofWord w))
  | 0xD2 => some (.qsel (FmtS.ofWord w))
  | 0xE0 => some (.nop (FmtY.ofWord w))
  | 0xE1 => some (.halt (FmtY.ofWord w))
  | 0xE2 => some (.trap (FmtY.ofWord w))
  | 0xE3 => some (.csrr (FmtY.ofWord w))
  | 0xE4 => some (.csrw (FmtY.ofWord w))
  | 0xE6 => some (.glaunch (FmtY.ofWord w))
  | 0xE7 => some (.gcond (FmtY.ofWord w))
  | 0xE8 => some (.hrapp (FmtY.ofWord w))
  | 0xE9 => some (.intr (FmtY.ofWord w))
  | _ => none

/-- The decoder: the two halves of a slot word, or the first reason of R54 why it is no instruction. -/
def decodeSlot (w : SlotWord) : Except Reject (Trigger × Instr) :=
  match Instr.ofOp (opOf w).toNat w with
  | none => if (Trigger.ofWord w).v == 1 then .error .reservedOp else .error .notValid
  | some i =>
    match slotReject (Trigger.ofWord w) i with
    | some r => .error r
    | none => .ok (Trigger.ofWord w, i)

/-- The decoder on bytes, the first at the lowest address (R5): a slot word takes eight. -/
def decodeBytes (bs : List Byte) : Except Reject ((Trigger × Instr) × List Byte) :=
  if bs.length < 8 then .error .tooShort
  else
    match decodeSlot (BitVec.ofNat 64 (leNat (bs.take 8))) with
    | .ok r => .ok (r, bs.drop 8)
    | .error r => .error r

/-! ## The encoder, written from the same field maps -/

def FmtA.toBits (f : FmtA) : BitVec 22 := f.dst ++ f.sa ++ f.sb ++ f.pu ++ f.ps ++ f.ot ++ f.mod

def FmtI.toBits (f : FmtI) : BitVec 22 := f.dst ++ f.sa ++ f.imm

def FmtK.toBits (f : FmtK) : BitVec 22 := f.dst ++ f.hs ++ f.imm

def FmtM.toBits (f : FmtM) : BitVec 22 := f.dst ++ f.sa ++ f.sb ++ f.pms ++ f.sz ++ f.aux ++ f.ot ++ f.mod

def FmtE.toBits (f : FmtE) : BitVec 22 := f.dst ++ f.sa ++ f.sb ++ f.fn

def FmtS.toBits (f : FmtS) : BitVec 22 := f.dst ++ f.sa ++ f.sli ++ f.pu ++ f.ps ++ f.ot ++ f.mod

def FmtY.toBits (f : FmtY) : BitVec 22 := f.dst ++ f.sa ++ f.idx ++ f.pu ++ f.ps

def Trigger.toBits (t : Trigger) : BitVec 34 :=
  t.pmask ++ t.pval ++ t.cge ++ t.cgi ++ t.tge ++ t.tgv ++ t.nb ++ t.sgs ++ t.sgi ++ t.v

/-- Bits [21:0] of an instruction's word. -/
def Instr.action : Instr → BitVec 22
  | .add f | .sub f | .mul f | .mulh f | .mulhu f | .or f | .and f | .xor f | .andn f | .shl f | .shr f
  | .sra f | .min f | .max f | .minu f | .maxu f | .cmpeq f | .cmpne f | .cmplt f | .cmpltu f | .cmple f
  | .cmpleu f | .sel f | .bfx f | .bfi f | .clz f | .ctz f | .popc f | .adds f | .subs f | .abs f | .fadd f
  | .fsub f | .fmul f | .fmac f | .fmin f | .fmax f | .fcmpeq f | .fcmplt f | .fcmple f | .exp2 f | .log2 f
  | .rcp f | .rsq f | .badd2 f | .bmul2 f | .bmac2 f | .hadd2 f | .hmul2 f | .hmac2 f | .cvtfi f | .cvtif f
  | .cvtfb f | .cvtfh f | .cvtbf f | .cvthf f | .cvtf4 f | .cvtf4s f | .cvtf5 f | .cvtf5s f | .cvt4f f
  | .cvt5f f => f.toBits
  | .addi f | .andi f | .ori f | .xori f | .shli f | .shri f | .srai f | .muli f | .mini f | .maxi f
  | .cmpeqi f | .cmpnei f | .cmplti f | .cmpltui f | .cmplei f | .cmpleui f | .bfxi f | .bfii f | .addsi f => f.toBits
  | .ldk f | .plog f | .pset f | .pget f | .ldkf f => f.toBits
  | .talloc f | .tfree f | .tcfg f | .tqry f | .tld f | .tst f | .pcfg f | .pqry f | .pgo f | .pstop f | .ld f
  | .st f | .ldx f | .stx f | .mdone f | .atom f | .atomr f | .rawait f | .rrel f | .rget f => f.toBits
  | .grule f | .bdinit f | .bdins f | .bdfind f | .bdget f | .bdsort f | .poolcfg f | .bcon f | .bcres f
  | .bcstat f | .bcwait f | .topb f | .topx f | .gath f | .scat f | .pools f | .gstat f | .dpost f | .dsend f
  | .drecv f | .dwait f | .dqry f | .cgload f | .crun f | .cwait f | .bar f | .cseq f => f.toBits
  | .emit f | .emitv f | .cede f | .rxend f | .dlyr f | .dlyw f | .sigv f | .icnt f | .mark f | .fwd f
  | .tagr f | .skip f | .qset f | .qget f | .qfuse f | .qinv f | .qeq f | .qchk f | .qsel f => f.toBits
  | .nop f | .halt f | .trap f | .csrr f | .csrw f | .glaunch f | .gcond f | .hrapp f | .intr f => f.toBits
  | .slotIssue _ | .multiBeatBeat _ | .channelOperandWaitEnd _ | .markerReset _ | .routeTokenTake _ _
  | .tokenArrival _ _ | .boundaryNodeDeliver _ _ | .waitingInstructionResume _ | .loadReturn _
  | .tileTableServe _ | .tileFullSet _ _ | .tileEntryFree _ _ | .pumpAccess _ _ | .pumpRunEnd _ _
  | .mdoneToken _ | .atomicEngineServe _ | .tileOpFiring _ | .tileOpFiringEnd _ | .contractionEnumerate _ _
  | .contractionProduct _ _ _ | .groupMigration _ _ | .contractionStop _ _ | .contractionComplete _ _
  | .wellheadRowServe _ _ _ | .wellheadCommandComplete _ _ | .copyStart _ _ | .copyEnd _ _ | .groupForm _ _
  | .groupDissolve _ | .collectiveStartPacket _ _ _ | .collectiveCallStart _ _ | .collectiveChunkPacket _ _
  | .chunkGraphOpStart _ _ _ | .collectiveCallComplete _ _ | .collectiveAbortPacket _ _ _ _
  | .collectiveStartTimeout _ _ | .arbiterCalendar _ _ | .grantRecordReceive _ _ | .exchangePhase _
  | .exchangeDataLand _ _ _ | .roundDoneReport _ _ | .roundEndBroadcast _ _ | .roundEndReceive _ _ _
  | .exchangePostTimeout _ _ _ | .landingListTimeout _ | .exchangeSendTimeout _ | .exchangeAbortPacket _ _ _
  | .arbiterBeacon _ _ | .memberHeartbeat _ _ | .livenessLapse _ _ | .arbiterClaim _ | .claimAccept _ _ _
  | .translationWalk _ | .translationFault _ _ | .xretryRetry _ | .xretryAbandon _ | .invalidationStart _
  | .invalidationComplete | .priResponse _ _ | .atsInvalidation _ _ _ | .accessCountNotify _ _ | .instantEnd _
  | .quiescenceFault _ | .queueDoorbell _ _ | .graphLaunchPacket _ | .copyPacket _ | .barrierAndPacket _
  | .signalPacket _ | .queueReset _ | .queueSkip _ | .liveDeltaApply _ | .graphItemEnd _ | .pendingLaunchTake
  | .ringCountInterrupt _ | .ringTimerExpiry _ | .mailboxClear _ | .makeResident _ _ _ | .stagePlacement _ _
  | .stageEnd _ | .schedulerDecision | .quantumExpiry _ | .stageAged _ | .preemptionSave _ | .stageResume _ _
  | .clockWindow _ _ | .fatalFaultGraphEnd _ | .registerWrite _ _ | .powerOn _ | .orderlyReset | .leaseRenew
  | .leaseClaim _ | .mirrorLoad _ | .spdmRequest _ | .marginMeasurement _ _ | .eccScrub _ | .linkRetrain _ _
  | .hardFaultFence _ _ | .lifetimeRecordUpdate _ _ | .lrcmdGo | .signalVisible _ _ _
  | .exchangeEndPacket _ _ _ _ | .atsTranslationCompletion _ _ | .thermalLimitChange _ | .powerLoss => 0

/-- The word of a slot (R44, R45); a step no word encodes takes opcode 0xFF, which is reserved. -/
def encode (t : Trigger) (i : Instr) : SlotWord := t.toBits ++ (i.opcode.getD 0xFF) ++ i.action

/-- The host's view of the decoder: the instruction of a word whose bits are numbered from its first bit up. Bits above
nbits are 0. A word of fewer bits than 64 is laid out as eight bytes, lowest first, and decoded. -/
def decodeTableWord (nbits w : Nat) : Option Instr :=
  match decodeBytes (leBytes 8 (w % 2 ^ nbits)) with
  | .ok r => some r.1.2
  | .error _ => none

end Sys2Proof
end

