-- ==== Sys2Proof/Machine/Float.lean ====
section
/-! DEFINITION. Number formats, rounding and accumulation (spec/05_number_formats.md R63 to R79) and the correctly rounded
functions of spec/09_instr_scalar_vector.md R158. Values are exact: a sign, a natural significand and a power of two. -/

namespace Sys2Proof.Machine

/-- A floating-point format (R63): fraction bits, exponent bits, bias, and whether E all ones holds infinities. -/
structure FFmt where
  mb : Nat
  eb : Nat
  bias : Nat
  hasInf : Bool
  deriving DecidableEq, Repr

def f32 : FFmt := ⟨23, 8, 127, true⟩
def bf16 : FFmt := ⟨7, 8, 127, true⟩
def f16 : FFmt := ⟨10, 5, 15, true⟩
def e4m3 : FFmt := ⟨3, 4, 7, false⟩
def e5m2 : FFmt := ⟨2, 5, 15, true⟩

/-- An exact value: NaN, an infinity, or (-1)^s * m * 2^e. -/
inductive FVal where
  | nan
  | inf (s : Bool)
  | fin (s : Bool) (m : Nat) (e : Int)
  deriving DecidableEq, Repr

namespace FFmt

def signBit (f : FFmt) : Nat := 2 ^ (f.mb + f.eb)
/-- The exponent of one unit of the subnormal grid (R64). -/
def emin (f : FFmt) : Int := 1 - f.bias - f.mb
/-- The code of the largest finite magnitude (R63). -/
def maxFin (f : FFmt) : Nat :=
  if f.hasInf then (2 ^ f.eb - 1) * 2 ^ f.mb - 1 else 2 ^ (f.eb + f.mb) - 2
/-- The canonical NaN (R63). -/
def nanCode (f : FFmt) : Nat :=
  if f.hasInf then (2 ^ f.eb - 1) * 2 ^ f.mb + 2 ^ (f.mb - 1) else 2 ^ (f.eb + f.mb) - 1
def infCode (f : FFmt) : Nat := (2 ^ f.eb - 1) * 2 ^ f.mb

/-- Decoding of an encoding (R64). -/
def decode (f : FFmt) (code : Nat) : FVal :=
  let m := code % 2 ^ f.mb
  let e := (code / 2 ^ f.mb) % 2 ^ f.eb
  let s := (code / f.signBit) % 2 == 1
  if e = 0 then .fin s m f.emin
  else if f.hasInf && e == 2 ^ f.eb - 1 then (if m = 0 then .inf s else .nan)
  else if !f.hasInf && e == 2 ^ f.eb - 1 && m == 2 ^ f.mb - 1 then .nan
  else .fin s (2 ^ f.mb + m) (f.emin + (e - 1 : Nat))

def withSign (f : FFmt) (s : Bool) (c : Nat) : Nat := if s then f.signBit + c else c

/-- The significand of m * 2^e on the grid 2^u, to nearest, ties to even (R71 steps 1 and 2). -/
def onGrid (m : Nat) (e u : Int) : Nat :=
  if u ≤ e then m * 2 ^ (e - u).toNat
  else
    let sh := (u - e).toNat
    let q := m / 2 ^ sh
    let r := m % 2 ^ sh
    let h := 2 ^ (sh - 1)
    if r > h ∨ (r = h ∧ q % 2 = 1) then q + 1 else q

/-- Rounding of a nonzero exact magnitude (R71 steps 1 to 4): the code and whether it overflowed. -/
def roundMag (f : FFmt) (sat s : Bool) (m : Nat) (e : Int) : Nat × Bool :=
  let u := max (Int.ofNat m.log2 + e - f.mb) f.emin
  let code := (u - f.emin).toNat * 2 ^ f.mb + onGrid m e u
  if code ≤ f.maxFin then (f.withSign s code, false)
  else if sat then (f.withSign s f.maxFin, true)
  else if f.hasInf then (f.withSign s f.infCode, true)
  else (f.nanCode, true)

/-- round_rne (R71, R74): an exact zero gives +0, or the zero of its sign where `signed` (R71 step 4) (log 6). -/
def round (f : FFmt) (sat signed : Bool) : FVal → Nat × Bool
  | .nan => (f.nanCode, true)
  | .inf s =>
    if sat then (f.withSign s f.maxFin, true)
    else if f.hasInf then (f.withSign s f.infCode, false)
    else (f.nanCode, true)
  | .fin s m e =>
    if m = 0 then (if signed then f.withSign s 0 else 0, false) else f.roundMag sat s m e

end FFmt

namespace FVal

def isNan : FVal → Bool
  | .nan => true
  | _ => false

def isZero : FVal → Bool
  | .fin _ m _ => m == 0
  | _ => false

def neg : FVal → FVal
  | .nan => .nan
  | .inf s => .inf (!s)
  | .fin s m e => .fin (!s) m e

def toInt (s : Bool) (m : Nat) : Int := if s then -(m : Int) else m

/-- The exact product (R75): NaN for a NaN factor and for zero times an infinity. -/
def mul : FVal → FVal → FVal
  | .nan, _ => .nan
  | _, .nan => .nan
  | .inf s, .inf t => .inf (s != t)
  | .inf s, .fin t m _ => if m = 0 then .nan else .inf (s != t)
  | .fin s m _, .inf t => if m = 0 then .nan else .inf (s != t)
  | .fin s m e, .fin t n d => .fin (s != t) (m * n) (e + d)

/-- The exact sum; a zero sum is -0 only when both addends are -0 (R157). -/
def add : FVal → FVal → FVal
  | .nan, _ => .nan
  | _, .nan => .nan
  | .inf s, .inf t => if s = t then .inf s else .nan
  | .inf s, .fin _ _ _ => .inf s
  | .fin _ _ _, .inf t => .inf t
  | .fin s m e, .fin t n d =>
    let g := min e d
    let x := toInt s (m * 2 ^ (e - g).toNat) + toInt t (n * 2 ^ (d - g).toNat)
    if x = 0 then .fin (s && t) 0 g else .fin (x < 0) x.natAbs g

/-- The order of two values that are no NaN: -1, 0 or 1; the zeros are equal. -/
def cmp : FVal → FVal → Int
  | .inf s, .inf t => if s = t then 0 else if s then -1 else 1
  | .inf s, _ => if s then -1 else 1
  | _, .inf t => if t then 1 else -1
  | .fin s m e, .fin t n d =>
    let g := min e d
    let x := toInt s (m * 2 ^ (e - g).toNat) - toInt t (n * 2 ^ (d - g).toNat)
    if x < 0 then -1 else if x = 0 then 0 else 1
  | _, _ => 0

def isNeg : FVal → Bool
  | .inf s => s
  | .fin s m _ => s && m != 0
  | .nan => false

/-- The sign bit, of a zero too. -/
def sign : FVal → Bool
  | .inf s => s
  | .fin s _ _ => s
  | .nan => false

def ofInt (x : Int) : FVal := .fin (x < 0) x.natAbs 0

end FVal

/-- A result's bits and whether the operation raised (R73). -/
abbrev FRes := Nat × Bool

def rne32 (v : FVal) : FRes := f32.round false false v
def rne32s (v : FVal) : FRes := f32.round false true v
def rne16 (v : FVal) : FRes := f16.round false false v
def rnebf (v : FVal) : FRes := bf16.round false false v
def rne8 (v : FVal) (f : FFmt) (s : Bool) : FRes := f.round s false v

/-- f32 of a word. -/
def fv (w : Word) : FVal := f32.decode w.toNat

/-- sat32 (R74): the clamped integer and whether it clamped. -/
def sat32 (x : Int) : Word × Bool :=
  if x > 2147483647 then (BitVec.ofNat 32 2147483647, true)
  else if x < -2147483648 then (BitVec.ofNat 32 2147483648, true)
  else (BitVec.ofInt 32 x, false)

/-! ## Accumulation groups (R74 align, R76 to R79) -/

/-- ex(t) of a nonzero finite term. -/
def FVal.ex : FVal → Option Int
  | .fin _ m e => if m = 0 then none else some (Int.ofNat m.log2 + e)
  | _ => none

/-- A term cut to the grid 2^g, toward zero in magnitude, as a multiple of 2^g (R74 align). -/
def FVal.alignTo (g : Int) : FVal → Int
  | .fin s m e => FVal.toInt s (if g ≤ e then m * 2 ^ (e - g).toNat else m / 2 ^ (g - e).toNat)
  | _ => 0

/-- The terms' largest exponent. -/
def maxEx (ts : List FVal) : Option Int :=
  ts.foldl (fun acc t =>
    match acc, t.ex with
    | none, x => x
    | x, none => x
    | some a, some b => some (max a b)) none

/-- One accumulation group over its terms, the accumulator among them (R76). -/
def dotTerms (ts : List FVal) : FRes :=
  if ts.any FVal.isNan then (f32.nanCode, true)
  else
    let p := ts.any (· == .inf false)
    let n := ts.any (· == .inf true)
    if p && n then (f32.nanCode, true)
    else if p then (f32.withSign false f32.infCode, false)
    else if n then (f32.withSign true f32.infCode, false)
    else
      match maxEx ts with
      | none => (0, false)
      | some emax =>
        let g := emax - 47
        let x := (ts.map (FVal.alignTo g)).foldl (· + ·) (0 : Int)
        rne32 (.fin (x < 0) x.natAbs g)

/-- dotgroup(acc, prods) (R76). -/
def dotgroup (acc : Word) (prods : List FVal) : Word × Bool :=
  let r := dotTerms (fv acc :: prods)
  (wd r.1, r.2)

/-- sacc(acc, p, sa, sb) of R79 over the f32 partial p. A negative sum too small for f32 gives -0, by step 4 of R71, where R79 writes
+0 of sums too small (DESIGN CHOICE, log 58). -/
def saccOp (acc p : Word) (sa sb : Nat) : Word × Bool :=
  if sa = 255 ∨ sb = 255 then (wd f32.nanCode, true)
  else dotgroup acc [FVal.mul (fv p) (.fin false 1 ((sa : Int) + sb - 254))]

/-! ## The four functions of R158 -/

/-- Digit-by-digit integer square root, k bits of result. -/
def isqrtGo (n : Nat) : Nat → Nat → Nat
  | 0, r => r
  | k + 1, r => if (r + 2 ^ k) * (r + 2 ^ k) ≤ n then isqrtGo n k (r + 2 ^ k) else isqrtGo n k r

/-- ln 2 times 2^256, rounded down. -/
def ln2Fix : Nat := 80260960185991308862233904206310070533990667611589946606122867505419956976171

/-- The Taylor terms of e^y, y in units of 2^-256. -/
def expGo (y : Nat) : Nat → Nat → Nat → Nat → Nat
  | 0, _, _, sum => sum
  | n + 1, k, t, sum =>
    let t' := t * y / (k * 2 ^ 256)
    expGo y n (k + 1) t' (sum + t')

/-- A value known to lie strictly between m and m + 1 units of 2^e, made exact enough to round. -/
def between (s : Bool) (m : Nat) (e : Int) : FVal := .fin s (4 * m + 1) (e - 2)

/-- 2^a for a finite a (R158): exact for an integer, else rounded from 256 fraction bits. -/
def exp2Fin (s : Bool) (m : Nat) (e : Int) : FRes :=
  if m = 0 then (f32.bias * 2 ^ 23, false)
  else
    -- a >= 128 overflows, a <= -150 rounds to +0
    let big := FVal.cmp (.fin s m e) (.fin false 128 0)
    let small := FVal.cmp (.fin s m e) (.fin true 150 0)
    if big ≥ 0 then (f32.infCode, true)
    else if small ≤ 0 then (0, false)
    else
      -- a in units of 2^-160, exact: a finite f32 has no bit below 2^-149
      let x : Int := FVal.alignTo (-160) (.fin s m e)
      let n := Int.fdiv x (2 ^ 160)
      let f := (Int.fmod x (2 ^ 160)).toNat
      if f = 0 then rne32 (.fin false 1 n)
      else
        let y := f * ln2Fix / 2 ^ 160
        rne32 (between false (expGo y 64 1 (2 ^ 256) (2 ^ 256)) (n - 256))

/-- The atanh series sum of z^(2k+1)/(2k+1), z2 = z^2, in units of 2^-256. -/
def atanhGo (z2 : Nat) : Nat → Nat → Nat → Nat → Nat
  | 0, _, _, sum => sum
  | n + 1, k, t, sum => atanhGo z2 n (k + 2) (t * z2 / 2 ^ 256) (sum + t / k)

/-- log2 of a positive finite m * 2^e (R158). -/
def log2Fin (m : Nat) (e : Int) : FRes :=
  let L := m.log2
  let n : Int := L + e
  if m = 2 ^ L then rne32 (FVal.ofInt n)
  else
    let z := (m - 2 ^ L) * 2 ^ 256 / (m + 2 ^ L)
    let ln := 2 * atanhGo (z * z / 2 ^ 256) 96 1 z 0
    let x : Int := n * 2 ^ 256 + (ln * 2 ^ 256 / ln2Fix : Nat)
    rne32 (between (x < 0) x.natAbs (-256))

/-- 1/a of a nonzero finite value (R158). -/
def rcpFin (s : Bool) (m : Nat) (e : Int) : FRes :=
  let q := 2 ^ 128 / m
  if q * m = 2 ^ 128 then rne32 (.fin s q (-128 - e)) else rne32 (between s q (-128 - e))

/-- 1/sqrt(a) of a positive finite value (R158). -/
def rsqFin (m : Nat) (e : Int) : FRes :=
  let m' := if e % 2 = 0 then m else 2 * m
  let e' := if e % 2 = 0 then e else e - 1
  let q := isqrtGo (2 ^ 256 / m') 130 0
  let d := -128 - e' / 2
  if q * q * m' = 2 ^ 256 then rne32 (.fin false q d) else rne32 (between false q d)

def nanRes : FRes := (f32.nanCode, true)

def exp2R : FVal → FRes
  | .nan => nanRes
  | .inf s => if s then (0, false) else (f32.infCode, false)
  | .fin s m e => exp2Fin s m e

def log2R : FVal → FRes
  | .nan => nanRes
  | .inf s => if s then nanRes else (f32.infCode, false)
  | .fin s m e => if m = 0 then (f32.withSign true f32.infCode, true) else if s then nanRes else log2Fin m e

def rcpR : FVal → FRes
  | .nan => nanRes
  | .inf s => (f32.withSign s 0, false)
  | .fin s m e => if m = 0 then (f32.withSign s f32.infCode, true) else rcpFin s m e

def rsqR : FVal → FRes
  | .nan => nanRes
  | .inf s => if s then nanRes else (0, false)
  | .fin s m e =>
    if m = 0 then (f32.withSign s f32.infCode, true) else if s then nanRes else rsqFin m e

end Sys2Proof.Machine
end

