-- ==== Sys2Proof/Machine/Flags.lean ====
section
/-! DEFINITION. The exception flag and condition of a result (spec/09_instr_scalar_vector.md R146, R148, spec/03 R32). -/

namespace Sys2Proof.Machine

/-- What an instruction of the datapath reads: a, b with their flags, and the prior value of its destination register. -/
structure Src where
  a : Word
  b : Word
  d : Word
  fa : Bool
  fb : Bool
  fd : Bool
  deriving DecidableEq, Repr

/-- What it computes: the result, the flag rf it is written with, and the page's condition. -/
structure Res where
  r : Word
  rf : Bool
  cond : Bool
  deriving DecidableEq, Repr

/-- rf of an instruction whose result does not derive from its destination's prior value (R146, fr = 0). -/
def Src.flag (x : Src) (exc : Bool) : Bool := x.fa || x.fb || exc

/-- rf of fmac, bmac2, hmac2, bfi, bfii, ldk.lo and ldk.hi (R146, fr = fd). -/
def Src.flagD (x : Src) (exc : Bool) : Bool := x.fa || x.fb || x.fd || exc

/-- A result that raises nothing and defines no condition. -/
def Src.plain (x : Src) (r : Word) : Res := ⟨r, x.flag false, false⟩

/-- A result with its exception; the condition of adds, subs, abs and cvtfi is exc = 1 (R149, R160). -/
def Src.excd (x : Src) (r : Word × Bool) : Res := ⟨r.1, x.flag r.2, r.2⟩

/-- A floating-point result with its exception; the page defines no condition. -/
def Src.fp (x : Src) (r : FRes) : Res := ⟨wd r.1, x.flag r.2, false⟩

/-- A result that derives from the destination's prior value too. -/
def Src.fpD (x : Src) (r : FRes) : Res := ⟨wd r.1, x.flagD r.2, false⟩

/-- A compare: r is 1 or 0, and the condition is r = 1 (R149, R156). -/
def Src.cmp (x : Src) (c : Bool) : Res := ⟨bw c, x.flag false, c⟩

/-- The value a predicate-write clause writes (R46 PS). -/
def psValue (ps : BitVec 2) (cond : Bool) : Bool :=
  if ps = 0 then false else if ps = 1 then true else if ps = 2 then cond else !cond

end Sys2Proof.Machine
end

