-- ==== Sys2Proof/Machine/Charge.lean ====
section
/-! DEFINITION. Charges, rules, and the layouts of directories, entries and pools (spec/06_block_tensors.md R81 to R97), as
functions of the words that hold them. -/

namespace Sys2Proof.Machine

/-! ## Rules and charge words (R82 to R86) -/

/-- A component of a rule: cyclic with its n, or U(1); its width. -/
structure Comp where
  z : Bool
  w : Nat
  n : Nat
  deriving DecidableEq, Repr

abbrev Rule := List Comp

/-- ceil(log2 n) for n from 2 (R82). -/
def zWidth (n : Nat) : Nat := if 2 ^ n.log2 = n then n.log2 else n.log2 + 1

/-- One component word of a rule record (R84); none where it breaks R84, `some none` where it is unused. -/
def compOf (w : Word) : Option (Option Comp) :=
  if bits w 29 29 ≠ 0 ∨ bits w 23 16 ≠ 0 then none
  else
    match bits w 31 30 with
    | 0 => if bits w 28 24 = 0 ∧ bits w 15 0 = 0 then some none else none
    | 1 =>
      if 2 ≤ bits w 28 24 ∧ bits w 28 24 ≤ 16 ∧ bits w 15 0 = 0 then some (some ⟨false, bits w 28 24, 0⟩) else none
    | 2 =>
      if bits w 28 24 = 0 ∧ 2 ≤ bits w 15 0 then some (some ⟨true, zWidth (bits w 15 0), bits w 15 0⟩) else none
    | _ => none

/-- The components of the first k words, all used. -/
def compsOf : List Word → Nat → Option Rule
  | _, 0 => some []
  | [], _ + 1 => none
  | w :: ws, k + 1 =>
    match compOf w, compsOf ws k with
    | some (some c), some cs => some (c :: cs)
    | _, _ => none

def widthSum (r : Rule) : Nat := (r.map Comp.w).foldl (· + ·) 0

/-- The rule of a rule record's eight words, none where it is invalid (R84, R85). -/
def ruleOf (ws : List Word) : Option Rule :=
  let w0 := nthW ws 0
  let nc := bits w0 1 0 + 1
  if bits w0 31 24 ≠ 0xA7 ∨ bits w0 23 2 ≠ 0 then none
  else if ((ws.drop (1 + nc)).take (4 - nc)).any (fun w => compOf w != some none) then none
  else if (ws.drop 5).any (· != 0) then none
  else
    match compsOf (ws.drop 1) nc with
    | none => none
    | some r => if widthSum r ≤ 32 then some r else none

/-- The fields of a charge word, each a raw W-bit number, with what lies above them (R83). -/
def fieldsOf : Rule → Nat → List Nat × Nat
  | [], x => ([], x)
  | c :: cs, x => let r := fieldsOf cs (x / 2 ^ c.w); (x % 2 ^ c.w :: r.1, r.2)

/-- fld: a field read under its kind (R86). -/
def Comp.read (c : Comp) (v : Nat) : Int :=
  if c.z then v else if v < 2 ^ (c.w - 1) then v else (v : Int) - 2 ^ c.w

/-- put: the low W bits of each value packed upward (R86). -/
def packCharge : List (Comp × Int) → Nat
  | [] => 0
  | (c, v) :: r => (Int.emod v (2 ^ c.w)).toNat + 2 ^ c.w * packCharge r

/-- The values of a charge word's fields. -/
def valuesOf (g : Rule) (x : Word) : List Int :=
  (g.zip (fieldsOf g x.toNat).1).map (fun p => p.1.read p.2)

/-- A charge word is canonical (R83). -/
def canonical (g : Rule) (x : Word) : Bool :=
  let f := fieldsOf g x.toNat
  f.2 == 0 && (g.zip f.1).all (fun p => !p.1.z || decide (p.2 < p.1.n))

/-- One field of cadd (R86): the value and whether it raises. -/
def caddField (c : Comp) (x y : Int) : Int × Bool :=
  let v := x + y
  if c.z then (Int.emod v c.n, decide (x ≥ c.n) || decide (y ≥ c.n))
  else (v, decide (v < -(2 ^ (c.w - 1) : Int)) || decide (v > (2 ^ (c.w - 1) : Int) - 1))

/-- cadd (R86). -/
def cadd (g : Rule) (x y : Word) : Word × Bool :=
  let r := (g.zip ((valuesOf g x).zip (valuesOf g y))).map (fun p => (p.1, caddField p.1 p.2.1 p.2.2))
  (wd (packCharge (r.map (fun p => (p.1, p.2.1)))), r.any (fun p => p.2.2))

/-- One field of cneg (R86). -/
def cnegField (c : Comp) (x : Int) : Int × Bool :=
  if c.z then (Int.emod (c.n - Int.emod x c.n) c.n, false)
  else (-x, decide (x = -(2 ^ (c.w - 1) : Int)))

/-- cneg (R86). -/
def cneg (g : Rule) (x : Word) : Word × Bool :=
  let r := (g.zip (valuesOf g x)).map (fun p => (p.1, cnegField p.1 p.2))
  (wd (packCharge (r.map (fun p => (p.1, p.2.1)))), r.any (fun p => p.2.2))

/-- The fields of a charge word, cyclic ones reduced. -/
def reducedOf (g : Rule) (x : Word) : List Int :=
  (g.zip (valuesOf g x)).map (fun p => if p.1.z then Int.emod p.2 p.1.n else p.2)

/-- ceq (R86). -/
def ceq (g : Rule) (x y : Word) : Bool := reducedOf g x == reducedOf g y

/-- The signed sum of the legs' fields: out legs count +1, in legs -1 (R81). -/
def legSum (g : Rule) (dirs : Nat) : Nat → List Word → List Int
  | _, [] => g.map (fun _ => 0)
  | i, q :: qs =>
    let s : Int := if (dirs / 2 ^ i) % 2 = 1 then 1 else -1
    ((valuesOf g q).zip (legSum g dirs (i + 1) qs)).map (fun p => s * p.1 + p.2)

/-- The selection rule (R81). -/
def selects (g : Rule) (dirs : Nat) (qs : List Word) (flux : Word) : Bool :=
  (g.zip ((legSum g dirs 0 qs).zip (valuesOf g flux))).all (fun p =>
    if p.1.z then Int.emod (p.2.1 - p.2.2) p.1.n == 0 else p.2.1 == p.2.2)

/-! ## Element formats (R89) -/

/-- The element formats, in the order of their FMT codes. -/
inductive EFmt where
  | f32 | bf16 | f16 | e4m3 | e5m2 | i8 | i16 | i32 | n8 | t2 | e8m0
  deriving DecidableEq, Repr

def EFmt.ofCode : Nat → Option EFmt
  | 0 => some .f32 | 1 => some .bf16 | 2 => some .f16 | 3 => some .e4m3 | 4 => some .e5m2 | 5 => some .i8
  | 6 => some .i16 | 7 => some .i32 | 8 => some .n8 | 9 => some .t2 | 10 => some .e8m0 | _ => none

def EFmt.code : EFmt → Nat
  | .f32 => 0 | .bf16 => 1 | .f16 => 2 | .e4m3 => 3 | .e5m2 => 4 | .i8 => 5
  | .i16 => 6 | .i32 => 7 | .n8 => 8 | .t2 => 9 | .e8m0 => 10

/-- Width in bits. -/
def EFmt.width : EFmt → Nat
  | .f32 | .i32 => 32
  | .bf16 | .f16 | .i16 => 16
  | .e4m3 | .e5m2 | .i8 | .n8 | .e8m0 => 8
  | .t2 => 2

/-- The bytes n elements take. -/
def EFmt.bytes (f : EFmt) (n : Nat) : Nat := n * f.width / 8

/-- The floating-point format of a floating element format. -/
def EFmt.float : EFmt → Option FFmt
  | .f32 => some Sys2Proof.Machine.f32
  | .bf16 => some Sys2Proof.Machine.bf16
  | .f16 => some Sys2Proof.Machine.f16
  | .e4m3 => some Sys2Proof.Machine.e4m3
  | .e5m2 => some Sys2Proof.Machine.e5m2
  | _ => none

/-- An integer or ternary code's value, and whether a reserved t2 code raised (R66, R67). -/
def EFmt.int (f : EFmt) (c : Nat) : Int × Bool :=
  match f with
  | .n8 => (c, false)
  | .t2 => if c = 1 then (1, false) else if c = 3 then (-1, false) else (0, c == 2)
  | f => (if c < 2 ^ (f.width - 1) then c else (c : Int) - 2 ^ f.width, false)

/-! ## Directory headers and entries (R87, R88) -/

/-- Fields of a directory header, read from its sixteen words. -/
structure Hdr where
  ws : List Word
  deriving DecidableEq, Repr

namespace Hdr
def w0 (h : Hdr) : Word := nthW h.ws 0
def rule (h : Hdr) : Nat := bits h.w0 23 21
def nleg (h : Hdr) : Nat := bits h.w0 20 18
def dirs (h : Hdr) : Nat := bits h.w0 17 12
def srt (h : Hdr) : Bool := bit h.w0 11
def ixv (h : Hdr) : Bool := bit h.w0 10
def busy (h : Hdr) : Bool := bit h.w0 9
def stop (h : Hdr) : Bool := bit h.w0 8
def flux (h : Hdr) : Word := nthW h.ws 1
def count (h : Hdr) : Nat := (nthW h.ws 2).toNat
def cap (h : Hdr) : Nat := (nthW h.ws 3).toNat
def lim (h : Hdr) : Nat := (nthW h.ws 4).toNat
def oph (h : Hdr) : Word := nthW h.ws 5
/-- Direction of leg i: true for out. -/
def isOut (h : Hdr) (i : Nat) : Bool := (h.dirs / 2 ^ i) % 2 == 1

/-- KIND, NLEG, DIRS and the reserved bits (R87). -/
def shapeOk (h : Hdr) : Bool :=
  bits h.w0 31 24 == 0xD1 && decide (1 ≤ h.nleg) && decide (h.nleg ≤ 6) && decide (h.dirs < 2 ^ h.nleg) &&
  bits h.w0 7 0 == 0 && (h.ws.drop 6).all (· == 0)

def limOk (h : Hdr) : Bool := decide (1 ≤ h.lim) && decide (h.lim ≤ 1048576)

/-- What the sequencer requires of a header (R94). A LIM outside 1 to 1,048,576 is tested here as R87's other fields are, and a CAP of 0 is
sound (DESIGN CHOICE, log 63). -/
def ok (h : Hdr) : Bool := h.shapeOk && h.limOk && decide (h.count ≤ h.cap) && decide (h.cap ≤ h.lim)
end Hdr

/-- A header's first word with SRT, IXV, BUSY, STOP at the values given (R87). -/
def setBitW (w : Word) (i : Nat) (v : Bool) : Word :=
  if v then w ||| (1 <<< i) else w &&& ~~~((1 : Word) <<< i)

/-- Fields of a directory entry (R88). -/
structure Ent where
  ws : List Word
  deriving DecidableEq, Repr

namespace Ent
def q (e : Ent) (i : Nat) : Word := nthW e.ws i
def dim (e : Ent) (i : Nat) : Nat :=
  let w := nthW e.ws (6 + i / 2)
  if i % 2 = 0 then bits w 15 0 else bits w 31 16
def w12 (e : Ent) : Word := nthW e.ws 12
def sx (e : Ent) (i : Nat) : Nat :=
  if i < 4 then bits (nthW e.ws 11) (8 * i + 7) (8 * i) else bits e.w12 (8 * (i - 4) + 7) (8 * (i - 4))
def v (e : Ent) : Bool := bit e.w12 31
def h (e : Ent) : Bool := bit e.w12 28
def lay (e : Ent) : Nat := bits e.w12 27 26
def fmt (e : Ent) : Nat := bits e.w12 25 22
def addr0 (e : Ent) : Nat := (nthW e.ws 9).toNat
def addr1 (e : Ent) : Nat := (nthW e.ws 10).toNat
/-- The stored dimension of leg i (R88). -/
def stored (e : Ent) (i : Nat) : Nat := 32 * (ceilDiv (e.dim i) 32 + e.sx i)
def qs (e : Ent) (nleg : Nat) : List Word := (List.range nleg).map e.q
def dims (e : Ent) (nleg : Nat) : List Nat := (List.range nleg).map e.dim
def storeds (e : Ent) (nleg : Nat) : List Nat := (List.range nleg).map e.stored

/-- Every field but V, SQ and ZF meets R88 and R89. A nonzero Q, D or SX at or above NLEG breaks R88 too; R94's table names no fault of
its own for it, and it takes that of the entry's other fields (DESIGN CHOICE, log 58). -/
def ok (e : Ent) (nleg : Nat) : Bool :=
  (List.range 6).all (fun i =>
    if i < nleg then decide (1 ≤ e.dim i) else e.q i == 0 && e.dim i == 0 && e.sx i == 0) &&
  decide (e.lay ≤ 1) && decide (e.fmt ≤ 10) && bits e.w12 21 16 == 0 &&
  (e.ws.drop 13).all (· == 0) && (e.h || bits (nthW e.ws 10) 31 24 == 0)
end Ent

def prodN (xs : List Nat) : Nat := xs.foldl (· * ·) 1

/-- Row-major position of an index in dimensions. -/
def rowMajor : List Nat → List Nat → Nat
  | _ :: ds, x :: xs => x * prodN ds + (if ds.length = 0 then 0 else rowMajor ds xs)
  | _, _ => 0

/-- Position of an element in its stored array (R90): row-major, or tiled over the last two legs. -/
def elemPos (lay : Nat) (dims idx : List Nat) : Nat :=
  if lay = 0 ∨ dims.length ≤ 1 then rowMajor dims idx
  else
    let k := dims.length - 2
    let r := idx.getD k 0
    let c := idx.getD (k + 1) 0
    let rows := dims.getD k 0
    let cols := dims.getD (k + 1) 0
    rowMajor (dims.take k) (idx.take k) * (rows * cols) +
      ((r / 32) * (cols / 32) + c / 32) * 1024 + (r % 32) * 32 + c % 32

/-- The index a flattened row-major number stands for. -/
def unflatten : List Nat → Nat → List Nat
  | [], _ => []
  | _ :: ds, n => n / prodN ds :: unflatten ds (n % prodN ds)

/-- Comparison of charge tuples leg by leg as unsigned words (R91). -/
def tupleLt : List Word → List Word → Bool
  | a :: as, b :: bs => if a.toNat < b.toNat then true else if b.toNat < a.toNat then false else tupleLt as bs
  | _, _ => false

/-! ## Pool headers (R96) -/

structure PoolHdr where
  ws : List Word
  deriving DecidableEq, Repr

namespace PoolHdr
def w0 (p : PoolHdr) : Word := nthW p.ws 0
def fmt (p : PoolHdr) : Nat := bits p.w0 23 20
def ndim (p : PoolHdr) : Nat := bits p.w0 19 17
def h (p : PoolHdr) : Bool := bit p.w0 16
def nblk (p : PoolHdr) : Nat := (nthW p.ws 1).toNat
def avail (p : PoolHdr) : Nat := (nthW p.ws 2).toNat
def taken (p : PoolHdr) : Nat := (nthW p.ws 3).toNat
def s (p : PoolHdr) (i : Nat) : Nat :=
  let w := nthW p.ws (4 + i / 2)
  if i % 2 = 0 then bits w 15 0 else bits w 31 16
def bsize (p : PoolHdr) : Nat := (nthW p.ws 7).toNat
def base0 (p : PoolHdr) : Nat := (nthW p.ws 8).toNat
def base1 (p : PoolHdr) : Nat := (nthW p.ws 9).toNat

/-- The stored size of one block in bytes. -/
def size (p : PoolHdr) : Nat :=
  match EFmt.ofCode p.fmt with
  | none => 0
  | some f => f.bytes (prodN ((List.range p.ndim).map (fun i => 32 * p.s i)))

/-- The header meets R96. That a stored dimension S_i of 0 below NDIM breaks it is the model's: R96's table gives S_i no lower bound (DESIGN
CHOICE, log 67). -/
def ok (p : PoolHdr) : Bool :=
  bits p.w0 31 24 == 0xB1 && decide (p.fmt ≤ 10) && decide (1 ≤ p.ndim) && decide (p.ndim ≤ 6) &&
  bits p.w0 15 0 == 0 && decide (1 ≤ p.nblk) && decide (p.nblk ≤ 1048576) && decide (p.avail ≤ p.nblk) &&
  decide (p.taken ≤ p.avail) &&
  (List.range 6).all (fun i => if i < p.ndim then decide (1 ≤ p.s i) else p.s i == 0) &&
  decide (p.size ≤ p.bsize) && p.bsize % 64 == 0 &&
  (if p.h then true else decide (p.base1 < 2 ^ 24)) && (p.ws.drop 10).all (· == 0)
end PoolHdr

end Sys2Proof.Machine
end

