-- ==== Sys2Proof/Machine/State.lean ====
section
/-! DEFINITION. The state of the part: every piece of state the spec names (INVENTORY.md, State), as plain data; the
reasons a step stops; the state after reset. -/

namespace Sys2Proof.Machine

/-! ## Elements (spec/03_element_and_word.md R30) -/

/-- An operation of an element that later ones may come after (R279, R281): a request at a tile table or an atomic engine, a store that is
not performed at every scope, a run of a pump, a contraction, a wellhead command, a copy, a TOPX firing by its handle, a firing of a binding
that is in progress, a call of a group slot, a round of an exchange. -/
inductive Dep where
  | request (e : ERef) (id : Nat)
  | store (id : Nat)
  | run (e : ERef) (pm no : Nat)
  | con (r : RRef) (seq : Nat)
  | well (r : RRef) (seq : Nat)
  | copy (id : Nat)
  | topx (e : ERef) (h : Word)
  | fire (e : ERef) (id : Nat)
  | call (slot num : Nat)
  | round (slot num : Nat)
  deriving DecidableEq, Repr

/-- The release an edge carries (R289): the physical region that releases, its number, its acquired-from table; and the operations that
happen before it and are not over, which a boundary node behind it waits for (R279, R281). -/
structure Release where
  reg : Nat
  num : Nat
  acq : KMap Nat
  deps : List Dep := []
  deriving DecidableEq, Repr

/-- A token (R33), with the release it carries if it is a done token or crosses a boundary route (R280). -/
structure Token where
  w : Word
  tag : BitVec 2
  exc : Bool
  rtag : Option (BitVec 8) := none
  rel : Option Release := none
  deriving DecidableEq, Repr

/-- A pump (R176 to R179): its configuration words, counters, iteration number and state bits; the code table's copy
(R107). `fin` says that every access of the run is issued; `before` are its element's operations that its first access awaits
(R178), `hb` what happens before the run (R279); `no` numbers it. -/
structure Pump where
  words : List Word := []
  c : List Nat := [0, 0, 0, 0]
  iter : Nat := 0
  run : Bool := false
  done : Bool := false
  waitf : Bool := false
  fin : Bool := false
  slot : Nat := 0
  ct : List Byte := []
  before : List Nat := []
  hb : List Dep := []
  no : Nat := 0
  deriving DecidableEq, Repr

/-- A return owed to mi (R167): its tag, its value once it is known, the number of the operation. -/
structure Ret where
  id : Nat
  tag : BitVec 2
  val : Option Word
  deriving DecidableEq, Repr

/-- An MDONE whose token has not left for every destination (R181): its count, tag, the requests it waits for, the stores of its set, its
release, the wires on which a copy has left (R369). -/
structure MdWait where
  count : Word
  tag : BitVec 2
  ops : List Nat
  stores : List Nat
  rel : Release
  sent : List Nat
  deriving DecidableEq, Repr

/-- A tile-operation binding (R136) or a queued TOPX firing. `held` is the copy of B that a systolic array keeps, with the number of
B's filling that it was loaded from (R142), `hb` what happens before the command (R279). -/
structure Bind where
  kind : Nat
  words : List Word
  limit : Nat
  fired : Nat
  handle : Word
  slot : Nat
  delay : List Word
  exc : Bool := false
  held : Option (Nat × List Byte) := none
  hb : List Dep := []
  deriving DecidableEq, Repr

/-- The firing in progress (R139): which binding (none for TOPX), its operation, its exception, the sub-tiles of D that
took one (R162), its number. -/
structure Firing where
  bind : Option Nat
  op : Bind
  exc : Bool
  subs : List (Nat × Nat)
  id : Nat
  deriving DecidableEq, Repr

/-- A waiting instruction (R113, R168): its slot and beat, what it read, what it popped, when it came (R186). -/
structure Wait where
  slot : Nat
  beat : Nat
  ins : Instr
  src : Src
  popped : List (Nat × Token)
  since : Nat
  deriving DecidableEq, Repr

/-- What the datapath does (R41, R42, R113). -/
inductive Dp where
  | idle
  | beat (slot n : Nat)
  | operand (slot n : Nat)
  | work (w : Wait)
  deriving DecidableEq, Repr

/-- What a sink is still to log, in the order its stores and firings were issued (R162, R163): the number of the store that is not
performed, or of the firing that runs, if there is one, and the records. -/
structure LogItem where
  awaits : Option Nat
  recs : List (List Word)
  deriving DecidableEq, Repr

/-- An element of a placed stage (R30). Input channels 0 to 3 and 4 for mi; output channels 0 to 3. `hb` are the operations of others that
happen before what the element does next, by the edges it has acquired (R279, R280); `waitUse` is the entry that its tld.wf or tst.we, which
waits, is using (R101); `asked` is the request by which its load or store, which waits, is at an engine (R250, R341). -/
structure Elem where
  slots : KMap SlotWord := []
  d : KMap Word := []
  fl : KMap Bool := []
  p : BitVec 8 := 0
  q : KMap Word := []
  rs : Nat := 0
  dlLat : KMap Word := []
  dlPend : KMap Word := []
  pumps : KMap Pump := []
  inp : KMap (List Token) := []
  outs : KMap (List Token) := []
  dp : Dp := .idle
  halted : Bool := false
  ended : Bool := false
  trapped : Bool := false
  mdcnt : Word := 0
  mdq : List MdWait := []
  rets : List Ret := []
  owed : List Token := []
  outst : List Nat := []
  binds : KMap Bind := []
  topx : List Bind := []
  topxSeq : Nat := 0
  firing : Option Firing := none
  cych : Word := 0
  logq : List LogItem := []
  hb : List Dep := []
  waitUse : Option (Nat × Nat) := none
  asked : Option Nat := none
  deriving DecidableEq, Repr

/-! ## Contractions and wellhead commands (spec/07 R133, spec/16 R259) -/

/-- A queued product (R128): its number, the entries of A and B, the entry of C. -/
structure Prod where
  k : Nat
  i : Nat
  j : Nat
  c : Nat
  steps : Nat
  deriving DecidableEq, Repr

/-- A contraction: the status record of R133, its descriptor, the rule copied at issue, the counts snapshot, the position
of the walk, the queue, the entries of C written, the owners of migrated groups, whether anything raised, and the STATE that it takes
once BUSY, STOP and OPH are cleared, when it ends otherwise than by completing (R93, R132, R134); `writing` are the products whose writes
to C have begun and are held or wait (R134). -/
structure Contraction where
  seq : Nat
  resume : Nat
  state : Nat
  cause : Nat
  retired : Nat
  alloc : Nat
  migr : Nat
  xk : Option Nat
  el : Nat
  slot : Nat
  desc : List Word
  rule : Rule
  na : Nat
  nb : Nat
  i : Nat
  j : Nat
  walked : Bool
  stopped : Option Nat
  queue : List Prod
  written : List Nat
  owners : KMap Nat
  exc : Bool
  ending : Option Nat := none
  writing : List Nat := []
  deriving DecidableEq, Repr

/-- A wellhead command and its status record (R255 to R259). -/
structure WellCmd where
  seq : Nat
  el : Nat
  slot : Nat
  op : Nat
  fn : Nat
  desc : List Word
  count : Nat
  state : Nat
  served : List Nat
  done : Nat
  badix : Nat
  nloc : Nat
  ndie : Nat
  npeer : Nat
  ncxl : Nat
  cause : Nat
  exc : Bool
  vals : KMap (List Byte) := []
  deriving DecidableEq, Repr

/-- A write of a rule register, which operations of later cycles read (R116): when, by which element, the register, the rule. -/
structure RuleWrite where
  at_ : Nat
  el : Nat
  n : Nat
  rule : Rule
  deriving DecidableEq, Repr

/-- A logical region of a placed stage: rule registers with their latest writes, contraction and wellhead records (R115, R116, R133,
R259), and its cycle count in thousandths (R352). -/
structure Region where
  rules : KMap Rule := []
  ruleNew : List RuleWrite := []
  cseq : Nat := 1
  cons : List Contraction := []
  wseq : Nat := 1
  wells : List WellCmd := []
  cyc : Nat := 0
  deriving DecidableEq, Repr

/-! ## Stages and graphs (spec/20, 21, 22) -/

/-- An emission (its value and flag) or a cession of a signal (R297), and the elements of other regions that have seen it (R298). -/
structure SigAct where
  sig : Nat
  reg : Nat
  el : Nat
  emit : Option (Word × Bool)
  seen : List (Nat × Nat)
  deriving DecidableEq, Repr

/-- Where a stage stands (R330, R333). -/
inductive StStatus where
  | ready
  | running
  | saved
  | ended
  deriving DecidableEq, Repr

/-- A stage item that is due, running or saved. -/
structure StageInst where
  graph : Nat := 0
  item : Nat := 0
  ctx : Nat := 0
  cls : Nat := 0
  img : StageImage := ⟨false, 0, [], [], [], [], [], [], [], 0⟩
  status : StStatus := .ready
  marked : Bool := false
  aged : Bool := false
  readyAt : Nat := 0
  readyNo : Nat := 0
  placedNo : Nat := 0
  qstart : Nat := 0
  dies : KMap Nat := []
  dRow : Int := 0
  dCol : Int := 0
  icnt : Word := 0
  istart : Nat := 0
  acts : List SigAct := []
  flight : KMap (List Token) := []
  copied : List Nat := []
  held : List Nat := []
  resets : List (Nat × Nat) := []
  durs : List Nat := []
  handles : List Word := []
  newClk : KMap Nat := []
  pick : Option (KMap Nat × Int × Int) := none
  deriving DecidableEq, Repr

/-- A fatal fault of a graph, as its error record reports it (spec/23 R346 to R349). -/
structure FaultRec where
  time : Nat
  order : Nat
  engine : Nat
  prec : Bool
  cause : Nat
  coord : Word
  reg : Nat
  slot : Nat
  handle : Word
  addr : Nat
  info : Word
  info2 : Word
  icnt : Word
  cycle : Nat
  qrep : List Word
  deriving DecidableEq, Repr

/-- Who launched a graph (R352 launch): a queue and the packet's index, or the number of its GLAUNCH. -/
inductive Origin where
  | queue (q index : Nat)
  | glaunch (q index num : Nat)
  deriving DecidableEq, Repr

/-- A live delta that is waiting for its regions to drain (R319), or, once it is applied, for places for its configuration tokens: the
elements and channels still to be served. -/
structure LiveDelta where
  origin : Origin
  entries : List (BitVec 64 × BitVec 64)
  comp : Nat
  int : Bool
  seq : Nat
  applied : Bool := false
  toks : List (Nat × Nat × Nat) := []
  deriving DecidableEq, Repr

/-- A graph instance (R319 to R321), with the counts of its exception log (R163, R164). -/
structure GraphInst where
  origin : Origin
  ctx : Nat
  cls : Nat
  res : Nat
  graph : Graph
  args : KMap Word
  item : Nat
  stage : Option Nat
  call : Option (Nat × Nat)
  conds : KMap Word
  fault : Option FaultRec
  nflt : Nat
  elog : Nat
  comp : Nat
  int : Bool
  xcount : Nat
  xdrop : Nat
  xcap : Nat
  xlost : Nat
  live : List LiveDelta
  done : Bool
  deriving DecidableEq, Repr

/-! ## Tiles, engines, translation, copies -/

inductive TileState where
  | free
  | allocated
  | pending
  deriving DecidableEq, Repr

/-- A tile-table entry (R100), with the stage that holds it, its full tag (R139), whether a tst.set has written and the tag
is due (R370), by an element of which physical region and with what before it, the release behind the tag, and how often the tag has been
set (R142). -/
structure Tile where
  state : TileState := .free
  gen : Nat := 0
  spec : Word := 0
  size : Nat := 0
  inst : Nat := 0
  reg : Nat := 0
  el : Nat := 0
  bank : Nat := 0
  stripe : Nat := 0
  uses : Nat := 0
  f : Bool := false
  fset : Bool := false
  fReg : Nat := 0
  fDeps : List Dep := []
  rel : Option Release := none
  fills : Nat := 0
  deriving DecidableEq, Repr

/-- A request at a tile table (R103, R175); `hb` is what happens before a tst.set. -/
structure TileReq where
  e : ERef
  at_ : Nat
  id : Nat
  slot : Nat
  write : Bool
  entry : Nat
  index : Nat
  data : Word
  setTag : Bool
  clrTag : Bool
  hb : List Dep := []
  deriving DecidableEq, Repr

/-- An access of an atomic engine (R183): an atomic form, a plain load or store of a hot line, a SCAT add. -/
inductive EngOp where
  | form (f : Nat)
  | load (sext : Bool)
  | store
  | addF32
  | addI32
  deriving DecidableEq, Repr

/-- A request at an atomic engine (R182, R183); `stamped` says that its page carries stamps (R286); `tag` is that of its return;
`log` is log2 of the size of the page whose translation it has used (R271). -/
structure EngReq where
  port : Nat
  req : Req
  id : Nat
  slot : Nat
  op : EngOp
  key : Nat
  va : Nat
  w : Nat
  b : Word
  d : Word
  ret : Bool
  stamped : Bool := true
  tag : BitVec 2 := 0
  log : Nat := 14
  deriving DecidableEq, Repr

structure Engine where
  reqs : List EngReq := []
  last : Nat := 65
  hot : List Nat := []
  deriving DecidableEq, Repr

/-- A cached translation (R265): a leaf and the size of its page; or, where `host` is some address, what the host's IOMMU gave for
a range of its own size (R272), and whether it gave it for writing. -/
structure TlbE where
  ctx : Nat
  page : Nat
  log : Nat
  leaf : BitVec 64
  host : Option Nat
  count : Nat
  hostW : Bool
  deriving DecidableEq, Repr

/-- The accesses of a piece of work that is taken up again after a hold (R267): the pieces it has made, each with its bytes, of which
`todo` are still to be gone past, and `done` are gone past or made. -/
structure Tape where
  todo : List (List Byte)
  done : List (List Byte)
  deriving DecidableEq, Repr

/-- A write of the front end that its translation holds (R266, R267): its graph and context, the parts written in order, the interrupt
that follows it, the packet of a queue that completes with it. -/
structure FrontWrite where
  graph : Nat
  ctx : Nat
  parts : List (Nat × List Byte)
  irq : Option Nat
  pkt : Option (Nat × Nat) := none
  deriving DecidableEq, Repr

/-- Where actions of one cycle are put in an order by their elements (R103, R116, R186, R191, R237, R325): a tile table, a ring object,
the call numbers and the lists of a group slot, a result-block pool (R97), the host's registers; and the datapath of an element, which takes
one beat in a cycle (R40, R41). -/
inductive Arena where
  | table (tab : Nat)
  | ring (ctx va : Nat)
  | calls (slot : Nat)
  | lists (slot : Nat)
  | pool (ctx va : Nat)
  | host
  | datapath (e : ERef)
  deriving DecidableEq, Repr

/-- Whose micro-TLB (R265). -/
inductive UKey where
  | elem (e : ERef)
  | pump (e : ERef) (pm : Nat)
  | well (die : Nat)
  deriving DecidableEq, Repr

/-- Where an access that is not translated yet stands (R265 to R268, R272): a walk is due, or has come to a table of a level. -/
inductive AccSt where
  | walk
  | walking (level table : Nat)
  | ats
  | fault (cause : Nat)
  | held (h : Nat)
  deriving DecidableEq, Repr

structure Acc where
  req : Req
  graph : Nat
  ctx : Nat
  die : Nat
  va : Nat
  wr : Bool
  kind : Nat
  slot : Nat
  st : AccSt
  deriving DecidableEq, Repr

/-- An open hold (R268): its die, context, page address and cause; the page-table level the walk came to (R349); log2 of the page's size
(R270). -/
structure Hold where
  die : Nat
  ctx : Nat
  page : Nat
  cause : Nat
  level : Nat
  log : Nat := 14
  deriving DecidableEq, Repr

/-- Who asked for a copy (R184, R313, R321). -/
inductive CopyFor where
  | elem (e : ERef) (slot : Nat)
  | packet (q index : Nat) (comp : Nat) (int : Bool)
  | node (gi : Nat)
  deriving DecidableEq, Repr

/-- A copy in a channel, with its number; `hb` is what happens before the store that asked for it (R279). -/
structure CopyJob where
  who : CopyFor
  ctx : Nat
  tpl : List Word
  ring : Nat
  started : Bool
  written : Bool
  id : Nat
  hb : List Dep := []
  deriving DecidableEq, Repr

/-- A store that is not yet performed at every scope (R276, R277): its bytes by key, who stored it, how far it reaches. -/
structure Pending where
  id : Nat
  inst : Nat
  reg : Nat
  el : Nat
  die : Nat
  scope : Scope
  bytes : List (Nat × Byte)
  deriving DecidableEq, Repr

/-- A stamp (R288), with the context whose access set it, by which the stamps of a context are cleared (R289). -/
structure Stamp where
  epoch : Nat
  reg : Nat
  num : Nat
  ctx : Nat := 0
  deriving DecidableEq, Repr

/-- A translation context (R262, R289): its root table, whether the driver made it, its race setting, its epoch; the memory port of each
page of pooled memory that the loader has mapped in it (R253). -/
structure Ctx where
  made : Bool := false
  root : Nat := 0
  rd : Bool := false
  epoch : Nat := 0
  ports : KMap Nat := []
  deriving DecidableEq, Repr

/-! ## Groups, collectives, exchange (spec/11, 14) -/

/-- A call of a slot (R191, R192): its number, what it compares, its object, displacement and issuer (none for a node), and
its progress; `cur` is the operation of its graph whose accesses are not all made (R267). -/
structure Call where
  num : Nat
  pkt : StartPkt
  obj : Nat
  inst : Option Nat
  graph : Nat
  reg : Nat
  el : Nat
  cslot : Nat
  disp : Word
  rel : Bool
  acq : Bool
  issued : Nat
  started : Bool
  snap : List Byte
  counters : KMap Nat
  ran : List Nat
  opsDone : List Nat
  got : List (Nat × Nat)
  vals : List (Nat × Nat × List Byte)
  exc : Bool
  tmo : Nat
  rls : Option Release
  cur : Option Nat := none
  awaits : List Dep := []
  sent : Bool := false
  deriving DecidableEq, Repr

/-- A list bound in a round, or a landing list (R221, R223): its address, its data region's base, its entries, the element that gave
it. -/
structure XList where
  va : Nat
  base : Nat
  ents : List (List Word)
  el : ERef
  deriving DecidableEq, Repr

/-- Bytes that wait for their landing list: when they came, from which rank. -/
structure EarlyPkt where
  at_ : Nat
  rank : Nat
  pkt : ExchPkt
  deriving DecidableEq, Repr

/-- The round open on this part (R220 to R229): its lists, its row in bytes by destination and what of it the arbiter was last sent, the
lists bound and when the last of them was, the landing list, the bytes landed by source, the end packets that have come, its grant, the
bytes sent by destination in all and when the grant came, the phase it is in and the quanta sent in it, whether its tail and its end
packets are sent, its report and whether it has reported at all, the element whose DPOST opened it, and those that have bound its lists (R279). -/
structure Round where
  num : Nat
  nlist : Nat
  posts : Nat
  row : KMap Nat
  posted : KMap Nat
  rowSent : Bool
  binds : List XList
  boundAt : Nat
  land : Option XList
  landed : KMap Nat
  ends : KMap Nat
  grant : Option Grant
  grantAt : Nat
  grantBase : KMap Nat
  phase : Nat
  quanta : Nat
  sentTo : KMap Nat
  tailDone : Bool
  early : List EarlyPkt
  left : Option Nat
  el : ERef
  slot : Nat
  tmo : Nat
  by_ : List ERef := []
  told : Bool := false
  deriving DecidableEq, Repr

/-- A group slot (R189, R190, R220, R230, R231). `gctl` is a write of GCTL whose result is not written yet: GSTAT shows BUSY (R190). `lapsedIn` are
the members that have stopped being live while a round was open (R231). -/
structure Group where
  gctl : Option Word := none
  valid : Bool := false
  g : Nat := 0
  p : Nat := 0
  rank : Nat := 0
  map : KMap Nat := []
  next : Nat := 1
  tmo : Nat := 1000
  gctx : Nat := 0
  gstat : Nat := 0
  gen : Nat := 0
  calls : List Call := []
  ended : List (Nat × Bool × Option Release) := []
  starts : List (Nat × StartPkt) := []
  chunks : List ChunkPkt := []
  aborts : List (Nat × Nat × Nat) := []
  rnext : Nat := 1
  round : Option Round := none
  nextLand : Option XList := none
  early : List EarlyPkt := []
  roundAborts : List (Nat × Nat × Nat) := []
  rounds : List (Nat × Bool × Nat) := []
  term : Nat := 1
  arb : Nat := 0
  last : KMap Nat := []
  lapsed : List Nat := []
  lapsedIn : List Nat := []
  nph : Nat := 0
  quanta : KMap (Nat × Nat × Nat) := []
  lastLeft : Nat := 0
  calendar : Option (List (List (Nat × Nat) × Nat)) := none
  deriving DecidableEq, Repr

/-- An object in the collective engine's table (R201): its words and records, its slot and the slot's generation. -/
structure Coll where
  words : List Word
  recs : List (List Word)
  slot : Nat
  gen : Nat
  base : Nat
  inst : Option Nat
  graph : Nat
  deriving DecidableEq, Repr

/-- Packets the part sends to the members of a group, and its PRI page requests to the host (R272). -/
inductive OutPkt where
  | start (slot rank : Nat) (p : StartPkt)
  | chunk (slot rank : Nat) (p : ChunkPkt)
  | abort (slot rank num cause : Nat)
  | row (slot round : Nat) (row : List Nat)
  | grant (slot rank : Nat) (g : Grant)
  | data (slot rank : Nat) (p : ExchPkt)
  | endOf (slot rank round len : Nat)
  | report (slot round left used : Nat)
  | roundEnd (slot round : Nat) (any : Bool)
  | roundAbort (slot rank round cause : Nat)
  | beacon (slot term : Nat)
  | heartbeat (slot : Nat)
  | claim (slot term : Nat)
  | pageRequest (ctx page : Nat) (wr : Bool)
  deriving DecidableEq, Repr

/-! ## Registers of BAR0 -/

/-- A host queue (spec/21 R311), with the packets started and not completed; `failed` is the address at which a read for its next
packet has failed in a hold (R270, R316). -/
structure Queue where
  base : Nat := 0
  size : Word := 0
  write : Nat := 0
  read : Nat := 0
  err : Nat := 0
  state : Nat := 0
  ctx : Nat := 0
  open_ : List Nat := []
  waits : List (Nat × List Word) := []
  failed : Option Nat := none
  deriving DecidableEq, Repr

structure Ring where
  base : Nat := 0
  size : Nat := 0
  prod : Word := 0
  cons : Word := 0
  coal : Word := 0
  vec : Nat := 0
  ctx : Nat := 0
  u : Nat := 0
  timer : Option Nat := none
  deriving DecidableEq, Repr

structure Mail where
  ovr : Nat := 0
  pend : Bool := false
  value : Word := 0
  deriving DecidableEq, Repr

/-- An entry of the pending-launch store (R322): its launch number, class and context, its record, and the queue packet that
its issuer's graph descends from. -/
structure PendLaunch where
  num : Nat
  cls : Nat
  ctx : Nat
  q : Nat
  index : Nat
  words : List Word
  deriving DecidableEq, Repr

/-- What an invalidation covers, as its start gave it (R271): a context, the whole of it or n bytes from an address. -/
structure Inval where
  ctx : Nat := 0
  all : Bool := false
  va : Nat := 0
  n : Nat := 0
  deriving DecidableEq, Repr

/-- Translation registers (spec/17 R269), the invalidation that runs, and the notifications that are due, each with its die (R273). -/
structure XReg where
  fbase : Nat := 0
  fsize : Nat := 0
  fprod : Nat := 0
  fcons : Nat := 0
  nbase : Nat := 0
  nsize : Nat := 0
  nprod : Nat := 0
  ncons : Nat := 0
  thr : Nat := 256
  lost : Nat := 0
  inva : Nat := 0
  invb : Nat := 0
  invc : Word := 0
  invx : Nat := 0
  recNo : Nat := 0
  busy : Bool := false
  job : Inval := {}
  due : List (Nat × List Word) := []
  deriving DecidableEq, Repr

/-- Scheduler registers (spec/22 R329). -/
structure Sched where
  quant : KMap Nat := []
  age : Nat := 10000
  pbudget : Nat := 3200
  thermal : Nat := 3200
  due : Bool := false
  deriving DecidableEq, Repr

/-- Firmware (spec/24 R355 to R362): the lease, the boot under way, boot status, fuses, the cores that a verified image runs on, the device key of this boot,
measurements and the reports sent, each with its signature, whether the leader has loaded the mirror, LRCMD's bits, margins, failed retrains
in a row, the errors found with their times, and when each core last gave a sign of life (FWALIVE). -/
structure Fw where
  on : Bool := false
  leader : Option Nat := none
  term : Nat := 0
  renewed : Nat := 0
  lapsedAt : Nat := 0
  ready : Bool := false
  beats : KMap Nat := []
  boot : Option BootInput := none
  bootst : Nat := 0
  reason : Nat := 0
  svn : Nat := 0
  keyHash : Nat := 0
  cores : Nat := 0
  devKey : Nat := 0
  measures : KMap Nat := []
  reports : List (Nat × List (Nat × Nat)) := []
  lrbase : Nat := 0
  lrbusy : Bool := false
  lrdone : Bool := false
  lrfail : Bool := false
  margins : KMap Nat := []
  measuredAt : KMap Nat := []
  linkFails : KMap Nat := []
  errors : List (Nat × EccErr) := []
  deriving DecidableEq, Repr

/-- The lifetime record (R363), counts by place. -/
structure Life where
  hours : Nat := 0
  boots : Nat := 0
  leaders : Nat := 0
  fencedCnt : Nat := 0
  temp : AMap (Nat × Nat) Nat := []
  volt : AMap (Nat × Bool) Nat := []
  fault : KMap Nat := []
  link : KMap Nat := []
  ecc : AMap EccPlace Nat := []
  deriving DecidableEq, Repr

/-- What the leader mirrors in each of two cisterns (R356), by item: a graph, the indices of a queue, a resident graph by its context and
index, a pending launch, a stage in its scheduler queue, a group slot. -/
inductive MirrorItem where
  | graph (g : Nat)
  | queue (q : Nat)
  | resident (ctx index : Nat)
  | launch (num : Nat)
  | stage (inst : Nat)
  | group (slot : Nat)
  deriving DecidableEq, Repr

/-- What the mirror holds of an item: who launched a graph, its class, its item and the stage that is due; READ and WRITE of a queue; an
entry of the pending-launch store; where a stage stands, its class and its number in its queue; a slot's state and generation. -/
inductive MirrorRec where
  | graph (origin : Origin) (cls item : Nat) (stage : Option Nat)
  | queue (read write : Nat)
  | resident
  | launch (p : PendLaunch)
  | stage (status : StStatus) (cls readyNo : Nat)
  | group (valid : Bool) (gen : Nat)
  deriving DecidableEq, Repr

/-- What a region's controller has measured since its window began (R337): for how long some element had a slot held by condition 5
alone, and for how long some input channel was full. -/
structure ClkWin where
  start : Nat := 0
  out : Nat := 0
  full : Nat := 0
  deriving DecidableEq, Repr

/-- What the model's agenda holds (log 1): a step of the part, a store becoming performed more widely, a write of memory
by an agent outside (the host, another host of the pool), a write that arrives from a peer part for a context (R287), a line of memory whose data ECC can no longer correct. -/
inductive Agenda where
  | step (i : Instr)
  | widen (id : Nat) (scope : Scope)
  | poke (key : Nat) (bytes : List Byte)
  | peerWrite (ctx key : Nat) (bytes : List Byte)
  | decay (line reg bank : Nat)
  deriving DecidableEq, Repr

/-- The part. `refusals` are the requests to make a graph resident that were refused: context, index, and the number of the rule that the
graph breaks (R55). -/
structure State where
  elems : AMap ERef Elem
  regions : AMap RRef Region
  insts : KMap StageInst
  graphs : KMap GraphInst
  resident : AMap (Nat × Nat) ResidentReq
  refusals : List (Nat × Nat × Nat)
  mirror : AMap MirrorItem (Option MirrorRec × Option MirrorRec)
  ctxs : KMap Ctx
  pendLaunch : List PendLaunch
  launchNo : Nat
  rrob : KMap Nat
  queues : KMap Queue
  rings : KMap Ring
  mail : KMap Mail
  xreg : XReg
  sched : Sched
  errRecs : KMap (List Word)
  errCnt : KMap Word
  fw : Fw
  life : Life
  lifePend : Life
  naddr : Nat
  groups : KMap Group
  colls : KMap Coll
  tiles : AMap (Nat × Nat) Tile
  tileReqs : KMap (List TileReq)
  engines : KMap Engine
  ownerTab : List Nat
  clk : KMap Nat
  win : KMap ClkWin
  num : KMap Nat
  acq : KMap (KMap Nat)
  stamps : KMap Stamp
  fenced : List Nat
  downLinks : List Nat
  tlb : KMap (List TlbE)
  utlb : AMap UKey (List TlbE)
  accs : List Acc
  holds : KMap Hold
  tape : Option Tape
  journals : AMap Req (List (List Byte))
  fronts : KMap FrontWrite
  acted : AMap Arena (Nat × Nat)
  copies : KMap (List CopyJob)
  ringRels : AMap (Nat × Nat) Release
  wells : KMap (List (RRef × Nat))
  mem : List (Nat × Byte)
  stores : List Pending
  unspec : List (Nat × Nat × Nat)
  badLines : KMap (Nat × Nat)
  irqs : List Nat
  sent : List OutPkt
  cur : ERef
  curSlot : Nat
  curBeat : Nat
  latched : Bool
  agenda : List (Nat × Agenda)
  now : Nat
  oracle : List Nat
  fresh : Nat
  deriving DecidableEq, Repr

/-- The machine stops. -/
inductive Fault where
  /-- REGISTER_WRITE to an offset of BAR0 at which the spec names no register: the spec gives it no effect. Safe. -/
  | noRegister (addr : Nat)
  deriving DecidableEq, Repr

/-- A step that has no meaning in the state it is asked of. -/
inductive Refusal where
  /-- Raised by an arm of exec whose instruction has no meaning yet. Safe. -/
  | notModelled (mnemonic : String)
  /-- Raised by a step of the part whose condition in the spec does not hold in this state: the step is not possible
  there. Safe. -/
  | notEnabled (step : String)
  /-- Raised by step when the slot it is to issue holds a word that is not an instruction: "A running slot changes only
  through a verified delta, so no element becomes eligible on a word that is not an instruction" (R55). Safe. -/
  | notAnInstruction
  deriving DecidableEq, Repr

abbrev Out := Host.Outcome State Fault Refusal

/-- The machine right after reset (INVENTORY.md; logs 2 and 3). No core leads and the lease is lapsed (R355, R356). -/
def State.reset : State where
  elems := []
  regions := []
  insts := []
  graphs := []
  resident := []
  refusals := []
  mirror := []
  ctxs := []
  pendLaunch := []
  launchNo := 1
  rrob := []
  queues := []
  rings := []
  mail := []
  xreg := {}
  sched := {}
  errRecs := []
  errCnt := []
  fw := {}
  life := {}
  lifePend := {}
  naddr := 0
  groups := []
  colls := []
  tiles := []
  tileReqs := []
  engines := []
  ownerTab := []
  clk := []
  win := []
  num := []
  acq := []
  stamps := []
  fenced := []
  downLinks := []
  tlb := []
  utlb := []
  accs := []
  holds := []
  tape := none
  journals := []
  fronts := []
  acted := []
  copies := []
  ringRels := []
  wells := []
  mem := []
  stores := []
  unspec := []
  badLines := []
  irqs := []
  sent := []
  cur := ⟨0, 0, 0⟩
  curSlot := 0
  curBeat := 0
  latched := false
  agenda := []
  now := 0
  oracle := []
  fresh := 0

end Sys2Proof.Machine
end

