-- ==== Sys2Proof/Machine/Mem.lean ====
section
/-! DEFINITION. Memory: one canonical list of keyed bytes, the stores that are not performed at every scope yet, and the
named operations over them (spec/18_memory_model.md R276 to R278; logs 2 and 5). -/

namespace Sys2Proof.Machine

/-! ## Key spaces -/

/-- A key: the number of a home times 2^60 plus the address within it. -/
def keyOf (home addr : Nat) : Nat := home * 2 ^ 60 + addr
def hbmKey (a : Nat) : Nat := keyOf 0 a
def cisternKey (a : Nat) : Nat := keyOf 1 a
def cxlKey (a : Nat) : Nat := keyOf 2 a
def hostKey (a : Nat) : Nat := keyOf 3 a
def peerKey (slot rank a : Nat) : Nat := keyOf (4 + slot * 64 + rank) a
/-- Storage of the tile that entry `slot` of table `tab` names (R99, R100). -/
def tileKey (tab slot a : Nat) : Nat := keyOf (2000 + tab * 1024 + slot) a
def homeOfKey (k : Nat) : Nat := k / 2 ^ 60
def addrOfKey (k : Nat) : Nat := k % 2 ^ 60

/-! ## The canonical list -/

/-- What a byte that nothing has written reads as (log 2). -/
def Memory.unlisted : Byte := 0

/-- Keys strictly rising, no byte equal to what an unlisted one reads as. -/
abbrev Memory.wf (m : List (Nat × Byte)) : Prop :=
  m.Pairwise (fun p q => p.1 < q.1) ∧ ∀ p ∈ m, p.2 ≠ Memory.unlisted

def memGet (m : List (Nat × Byte)) (k : Nat) : Byte := kget Memory.unlisted m k

/-- One byte written; writing what an unlisted byte reads as removes the entry. -/
def memPut : List (Nat × Byte) → Nat → Byte → List (Nat × Byte)
  | [], k, v => if v = Memory.unlisted then [] else [(k, v)]
  | (j, w) :: m, k, v =>
    if k < j then (if v = Memory.unlisted then (j, w) :: m else (k, v) :: (j, w) :: m)
    else if k = j then (if v = Memory.unlisted then m else (k, v) :: m)
    else (j, w) :: memPut m k v

/-- Bytes written from a key upward. -/
def memPuts (m : List (Nat × Byte)) : Nat → List Byte → List (Nat × Byte)
  | _, [] => m
  | k, b :: bs => memPuts (memPut m k b) (k + 1) bs

/-- Keyed bytes written; of two for one key the first counts, as where a store's bytes are read (kget). -/
def memPutAll (m : List (Nat × Byte)) (bs : List (Nat × Byte)) : List (Nat × Byte) :=
  bs.foldr (fun p m => memPut m p.1 p.2) m

/-- n bytes from a key made to read as unwritten ones do, which is the zero fill (log 2). -/
def memClear (m : List (Nat × Byte)) (k n : Nat) : List (Nat × Byte) :=
  m.filter (fun p => p.1 < k || p.1 ≥ k + n)

/-! ## Scopes -/

end Sys2Proof.Machine

namespace Sys2Proof

def Scope.rank : Scope → Nat
  | .element => 0 | .region => 1 | .die => 2 | .part => 3 | .group => 4 | .system => 5

def Scope.le (a b : Scope) : Bool := decide (a.rank ≤ b.rank)

def Scope.max (a b : Scope) : Scope := if a.le b then b else a

end Sys2Proof

namespace Sys2Proof.Machine

/-- An agent of the part (R276): of a stage's region, an element or an engine there, on a C-die. -/
structure Agent where
  inst : Nat
  reg : Nat
  el : Option Nat
  die : Nat
  deriving DecidableEq, Repr

/-- Whether the scope a store has reached holds the agent (R276, R277). -/
def Pending.seenBy (p : Pending) (a : Agent) : Bool :=
  match p.scope with
  | .element => p.inst == a.inst && p.reg == a.reg && a.el == some p.el
  | .region => p.inst == a.inst && p.reg == a.reg
  | .die => p.die == a.die
  | _ => true

/-! ## Units (R277, R278) -/

/-- The aligned unit that a byte stands in: 8 bytes of host and pooled memory, else a word, the widest access that is single-copy atomic
(R253, R278). All writes to a unit form one order. -/
def unitOf (k : Nat) : Nat := if homeOfKey k = 2 ∨ homeOfKey k = 3 then k / 8 * 2 else k / 4

/-- A byte stands in a unit of some bytes. -/
def inUnits (bs : List (Nat × Byte)) (k : Nat) : Bool := bs.any (fun b => unitOf b.1 == unitOf k)

/-- The stores that are read of a byte's unit, the last in coherence order first: those up to the last one of the unit that a test accepts,
since who reads a write of a unit reads none that comes earlier in its order afterwards (R277). -/
def shownIn (seen : Pending → Bool) (ps : List Pending) (k : Nat) : List Pending :=
  ps.reverse.dropWhile (fun p => !(seen p && inUnits p.bytes k))

/-- A byte where the stores that a test accepts are performed: the last store in coherence order, else what is performed everywhere. -/
def readSeen (mem : List (Nat × Byte)) (seen : Pending → Bool) (ps : List Pending) (k : Nat) : Byte :=
  match (shownIn seen ps k).find? (fun p => khas p.bytes k) with
  | some p => kget 0 p.bytes k
  | none => memGet mem k

/-- The byte an agent reads. -/
def readByte (mem : List (Nat × Byte)) (a : Agent) (ps : List Pending) (k : Nat) : Byte := readSeen mem (fun p => p.seenBy a) ps k

def readBytes (s : State) (a : Agent) (k n : Nat) : List Byte :=
  (List.range n).map (fun i => readByte s.mem a s.stores (k + i))

/-- Bytes keyed from k upward. -/
def keyed (k : Nat) (bs : List Byte) : List (Nat × Byte) := (List.range bs.length).zip bs |>.map (fun p => (k + p.1, p.2))

/-- What is left of a store whose bytes in the units of some bytes are performed everywhere. -/
def Pending.without (p : Pending) (bs : List (Nat × Byte)) : Pending :=
  { p with bytes := p.bytes.filter (fun q => !inUnits bs q.1) }

/-- Stores, in coherence order, performed everywhere in the units of some bytes. -/
def settleUnits (mem : List (Nat × Byte)) (ps : List Pending) (bs : List (Nat × Byte)) : List (Nat × Byte) :=
  ps.foldl (fun m p => memPutAll m (p.bytes.filter (fun q => inUnits bs q.1))) mem

/-- Stores without their bytes in the units of some bytes. -/
def dropUnits (ps : List Pending) (bs : List (Nat × Byte)) : List Pending :=
  (ps.map (fun p => p.without bs)).filter (fun p => p.bytes != [])

/-- A store performed at every scope at once, and with it those that come before it in the order of its units (R277). -/
def writeThrough (s : State) (bs : List (Nat × Byte)) : State :=
  { s with
    mem := memPutAll (settleUnits s.mem s.stores bs) bs
    stores := dropUnits s.stores bs }

/-- A store of an element, performed at element scope (R180). -/
def storeAt (s : State) (e : ERef) (die : Nat) (bs : List (Nat × Byte)) : State :=
  { s with
    stores := s.stores ++ [⟨s.fresh, e.inst, e.reg, e.el, die, .element, bs⟩]
    fresh := s.fresh + 1 }

/-- One store performed at a scope; at system scope it joins memory, and with it what comes before it in the order of its units (R277). -/
def widenOne (s : State) (id : Nat) (sc : Scope) : State :=
  match s.stores.find? (fun p => p.id == id) with
  | none => s
  | some p =>
    if Scope.max p.scope sc = .system then
      let before := s.stores.takeWhile (fun q => q.id != id)
      { s with
        mem := memPutAll (settleUnits s.mem before p.bytes) p.bytes
        stores := dropUnits before p.bytes ++ (s.stores.dropWhile (fun q => q.id != id)).drop 1 }
    else
      { s with stores := replaceFirst (fun q => q.id == id) (fun q => { q with scope := Scope.max q.scope sc }) s.stores }

/-- Every store that a test accepts performed at a scope. -/
def widenWhere (s : State) (t : Pending → Bool) (sc : Scope) : State :=
  ((s.stores.filter t).map Pending.id).foldl (fun s id => widenOne s id sc) s

/-- The stores of some numbers performed at a scope. -/
def widenIds (s : State) (ids : List Nat) (sc : Scope) : State := widenWhere s (fun p => ids.contains p.id) sc

def widenElem (s : State) (e : ERef) (sc : Scope) : State :=
  widenWhere s (fun p => p.inst == e.inst && p.reg == e.reg && p.el == e.el) sc

def widenInst (s : State) (inst : Nat) (sc : Scope) : State := widenWhere s (fun p => p.inst == inst) sc

def widenRegion (s : State) (inst reg : Nat) (sc : Scope) : State :=
  widenWhere s (fun p => p.inst == inst && p.reg == reg) sc

/-- Bytes as an agent of the part outside every stage reads them. -/
def readPart (s : State) (k n : Nat) : List Byte :=
  (List.range n).map (fun i => readSeen s.mem (fun p => Scope.part.le p.scope) s.stores (k + i))

end Sys2Proof.Machine
end

