-- ==== Sys2Proof/Machine/Ops.lean ====
section
/-! DEFINITION. Named operations over the state: elements and channels, positions, releases and acquires, and taking a
fault, precise or asynchronous (spec/23_faults_traps.md R341 to R346). -/

namespace Sys2Proof

/-- The logical region of an element. -/
def ERef.rref (e : ERef) : RRef := ⟨e.inst, e.reg⟩

/-- The image of an element (R29). -/
def StageImage.elemImage (g : StageImage) (reg el : Nat) : Option ElemImage :=
  g.elems.find? (fun x => x.reg == reg && x.el == el)

/-- The routes that begin at an output channel, by number. -/
def StageImage.routesFrom (g : StageImage) (reg el c : Nat) : List Nat :=
  (List.range g.routes.length).filter (fun i =>
    match g.routes[i]? with
    | some r => r.srcReg == reg && r.srcEl == el && r.outC == c
    | none => false)

def StageImage.beginsRoute (g : StageImage) (e : ERef) (c : Nat) : Bool :=
  g.routes.any (fun r => r.srcReg == e.reg && r.srcEl == e.el && r.outC == c)

def StageImage.endsRoute (g : StageImage) (e : ERef) (c : Nat) : Bool :=
  g.routes.any (fun r => r.dstReg == e.reg && r.dstEl == e.el && r.inC == c)

/-- The destinations of done wiring, which stand behind the routes in `flight` (R181). -/
def StageImage.doneWires (g : StageImage) : List (Nat × Nat × Nat × Nat × Nat) :=
  g.elems.flatMap (fun x =>
    match x.done with
    | none => []
    | some d => d.dests.map (fun t => (x.reg, x.el, t.1, t.2.1, t.2.2)))

end Sys2Proof

namespace Sys2Proof.Machine

/-! ## Elements, stages, graphs -/

def State.elem (s : State) (e : ERef) : Elem := kget {} s.elems e
def State.setElem (s : State) (e : ERef) (x : Elem) : State := { s with elems := kset s.elems e x }
def State.modElem (s : State) (e : ERef) (f : Elem → Elem) : State := s.setElem e (f (s.elem e))
def State.inst (s : State) (i : Nat) : StageInst := kget {} s.insts i
def State.modInst (s : State) (i : Nat) (f : StageInst → StageInst) : State :=
  { s with insts := kset s.insts i (f (s.inst i)) }
def State.region (s : State) (r : RRef) : Region := kget {} s.regions r
def State.modRegion (s : State) (r : RRef) (f : Region → Region) : State :=
  { s with regions := kset s.regions r (f (s.region r)) }

def emptyGraph : GraphInst :=
  ⟨.queue 0 0, 0, 0, 0, ⟨[]⟩, [], 0, none, none, [], none, 0, 0, 0, false, 0, 0, 0, 0, [], false⟩
def State.graph (s : State) (g : Nat) : GraphInst := kget emptyGraph s.graphs g
def State.modGraph (s : State) (g : Nat) (f : GraphInst → GraphInst) : State :=
  { s with graphs := kset s.graphs g (f (s.graph g)) }
def State.ctx (s : State) (c : Nat) : Ctx := kget {} s.ctxs c
def State.modCtx (s : State) (c : Nat) (f : Ctx → Ctx) : State := { s with ctxs := kset s.ctxs c (f (s.ctx c)) }
def State.group (s : State) (g : Nat) : Group := kget {} s.groups g
def State.modGroup (s : State) (g : Nat) (f : Group → Group) : State :=
  { s with groups := kset s.groups g (f (s.group g)) }
def State.tile (s : State) (t : Nat × Nat) : Tile := kget {} s.tiles t
def State.modTile (s : State) (t : Nat × Nat) (f : Tile → Tile) : State :=
  { s with tiles := kset s.tiles t (f (s.tile t)) }
def State.takeFresh (s : State) : Nat × State := (s.fresh, { s with fresh := s.fresh + 1 })

/-- The next choice the spec leaves to the part (log 8): 0 where none is listed. -/
def State.choose (s : State) : Nat × State :=
  match s.oracle with
  | [] => (0, s)
  | x :: xs => (x, { s with oracle := xs })

/-! ## Positions (R48, R328) -/

/-- The coordinate word of a logical region and element. -/
def coordOf (reg el : Nat) : Word :=
  wd (reg / 24 * 2 ^ 24 + reg % 24 / 6 * 2 ^ 20 + reg % 6 * 2 ^ 16 + el / 8 * 2 ^ 8 + el % 8)

/-- The C-die a logical die of a stage is placed on. -/
def State.physDie (s : State) (inst ldie : Nat) : Nat := kget ldie (s.inst inst).dies ldie

/-- The physical region a logical region of a stage is placed on. -/
def State.physReg (s : State) (inst reg : Nat) : Nat :=
  let i := s.inst inst
  let row := ((reg % 24 / 6 : Nat) : Int) + i.dRow
  let col := ((reg % 6 : Nat) : Int) + i.dCol
  s.physDie inst (reg / 24) * 24 + (row * 6 + col).toNat

def State.dieOf (s : State) (inst reg : Nat) : Nat := s.physReg inst reg / 24

def State.agentOf (s : State) (e : ERef) : Agent := ⟨e.inst, e.reg, some e.el, s.dieOf e.inst e.reg⟩
def State.engineAgent (s : State) (r : RRef) : Agent := ⟨r.inst, r.reg, none, s.dieOf r.inst r.reg⟩

/-- The clock of a physical region in MHz (R337). -/
def State.clock (s : State) (reg : Nat) : Nat := kget 900 s.clk reg

/-! ## Channels (R35) -/

/-- Input channel c of an element, 4 for mi. -/
def Elem.chan (x : Elem) (c : Nat) : List Token := kget [] x.inp c
def Elem.out (x : Elem) (c : Nat) : List Token := kget [] x.outs c
def Elem.pushIn (x : Elem) (c : Nat) (t : Token) : Elem := { x with inp := kset x.inp c (x.chan c ++ [t]) }
def Elem.popIn (x : Elem) (c : Nat) : Elem := { x with inp := kset x.inp c ((x.chan c).drop 1) }
/-- A pop undone by a trap; a token that has come into the place since is beyond the channel's 16 and is gone with its graph (R35, R341). -/
def Elem.unpop (x : Elem) (c : Nat) (t : Token) : Elem := { x with inp := kset x.inp c ((t :: x.chan c).take 16) }
def Elem.pushOut (x : Elem) (c : Nat) (t : Token) : Elem := { x with outs := kset x.outs c (x.out c ++ [t]) }
def Elem.inRoom (x : Elem) (c : Nat) : Bool := decide ((x.chan c).length < 16)
def Elem.outRoom (x : Elem) (c : Nat) : Bool := decide ((x.out c).length < 2)
def Elem.slotWord (x : Elem) (i : Nat) : SlotWord := kget 0 x.slots i
def Elem.trig (x : Elem) (i : Nat) : Trigger := Trigger.ofWord (x.slotWord i)
def Elem.dreg (x : Elem) (i : Nat) : Word := kget 0 x.d i
def Elem.dflag (x : Elem) (i : Nat) : Bool := kget false x.fl i
def Elem.setD (x : Elem) (i : Nat) (v : Word) (f : Bool) : Elem :=
  { x with d := kset x.d i v, fl := kset x.fl i f }
def Elem.pump (x : Elem) (i : Nat) : Pump := kget {} x.pumps i
def Elem.setPump (x : Elem) (i : Nat) (p : Pump) : Elem := { x with pumps := kset x.pumps i p }
def Elem.setP (x : Elem) (k : Nat) (v : Bool) : Elem :=
  { x with p := if v then x.p ||| (1 <<< k) else x.p &&& ~~~((1 : BitVec 8) <<< k) }

/-- The channel a source code names (R47). -/
def chanOf (code : BitVec 4) : Option Nat :=
  if 8 ≤ code.toNat ∧ code.toNat ≤ 12 then some (code.toNat - 8) else none

/-- The output channel a destination code names (R47). -/
def outChan (code : BitVec 4) : Option Nat :=
  if 8 ≤ code.toNat ∧ code.toNat ≤ 11 then some (code.toNat - 8) else none

def State.image (s : State) (e : ERef) : Option ElemImage := (s.inst e.inst).img.elemImage e.reg e.el

/-! ## Releases and acquires (R289) -/

def maxAcq (a : KMap Nat) (y n : Nat) : KMap Nat := kset a y (max (kget 0 a y) n)

/-- Physical region x releases. -/
def release (s : State) (x : Nat) : Release × State :=
  let n := kget 1 s.num x
  (⟨x, n, kget [] s.acq x, []⟩, { s with num := kset s.num x (min (n + 1) 0xFFFF) })

/-- Physical region x acquires a release. -/
def acquire (s : State) (x : Nat) (r : Release) : State :=
  let a := maxAcq (kget [] s.acq x) r.reg r.num
  { s with acq := kset s.acq x (r.acq.foldl (fun a p => maxAcq a p.1 p.2) a) }

def acquireOpt (s : State) (x : Nat) : Option Release → State
  | none => s
  | some r => acquire s x r

/-- A core leads and has loaded the mirror; the lease lapses 5 ms after its last renewal (R355, R356). -/
def State.leads (s : State) : Bool := s.fw.ready && decide (s.now < s.fw.renewed + 5000000)

/-- The part offers only recovery through the host link (R358). -/
def State.recovery (s : State) : Bool := s.fw.bootst == 15

/-- The physical regions that running stages of a context occupy. -/
def State.ctxRegions (s : State) (c : Nat) : List Nat :=
  s.insts.flatMap (fun p =>
    if p.2.ctx = c ∧ p.2.status = .running then p.2.img.regions.map (fun r => s.physReg p.1 r.reg) else [])

/-- The epoch of a context advances: every num of its regions is 1 and every acq 0; when the epoch wraps, the context's stamps
are cleared (R289). -/
def newEpoch (s : State) (c : Nat) : State :=
  let e := ((s.ctx c).epoch + 1) % 2 ^ 24
  let rs := s.ctxRegions c
  let s := s.modCtx c (fun x => { x with epoch := e })
  { s with
    num := s.num.filter (fun p => !rs.contains p.1)
    acq := s.acq.filter (fun p => !rs.contains p.1)
    stamps := if e = 0 then s.stamps.filter (fun p => p.2.ctx != c) else s.stamps }

/-! ## Faults -/

/-- The cycle count a fault reports (R348 CYCLE). -/
def State.cycles (s : State) (r : RRef) : Nat := (s.region r).cyc / 1000

/-- An operation of a later fault: earlier time first, then the order of R346 (log 15). -/
def FaultRec.before (a b : FaultRec) : Bool := a.time < b.time || (a.time == b.time && a.order < b.order)

/-- The memory a line of keys stands in (R99, R362, R363): an HBM4 stack (R366), a C-die's cistern, an element's SRAM, lines of a
region's tile going round its 64 elements (log 63). Memory outside the part has no place. -/
def linePlace (s : State) (line bank : Nat) : Option EccPlace :=
  let h := homeOfKey (64 * line)
  let a := addrOfKey (64 * line)
  if h = 0 then some (.hbm (a / 2 ^ 36) bank)
  else if h = 1 then some (.cistern (a / 2 ^ 26) bank)
  else if h < 2000 then none
  else
    let tab := (h - 2000) / 1024
    let t := s.tile (tab, (h - 2000) % 1024)
    if 192 ≤ tab then some (.cistern (tab - 192) bank)
    else some (.element tab (if bits t.spec 31 30 = 0 then t.el else a / 64 % 64) bank)

/-- A bank with its memory, as a fault carries them until it is raised: the bank's number in [7:0], above it the memory. -/
def bankCode (bank : Nat) : Option EccPlace → Nat
  | none => bank % 256
  | some (.element _ el _) => bank % 256 + 256 * (1 + el)
  | some (.cistern die _) => bank % 256 + 256 * (65 + die)
  | some (.hbm stack _) => bank % 256 + 256 * (81 + stack)

def bankPlace (reg code : Nat) : Option EccPlace :=
  let m := code / 256
  let b := code % 256
  if m = 0 then none else if m < 65 then some (.element reg (m - 1) b) else if m < 81 then some (.cistern (m - 65) b) else some (.hbm (m - 81) b)

/-- The lifetime record counts a fault's cause (R363 FAULT). -/
def countFault (s : State) (cause : Nat) : State :=
  let l := s.lifePend
  { s with lifePend := { l with fault := kset l.fault cause (min 0xFFFFFFFF (kget 0 l.fault cause + 1)) } }

/-- A fault counts by its cause; an access that ECC could not correct counts against its bank too (R362, R363). -/
def noteFault (s : State) (cause : Nat) (info info2 : Word) : State :=
  let s1 := countFault s cause
  match (if cause = 0x0E0 then bankPlace info.toNat info2.toNat else none) with
  | some p => { s1 with fw := { s1.fw with errors := s1.fw.errors ++ [(s.now, ⟨p, 0, true⟩)] } }
  | none => s1

/-- A fault as it is recorded: of 0x0E0, INFO2 is the bank (R349). -/
def FaultRec.shown (f : FaultRec) : FaultRec := if f.cause = 0x0E0 then { f with info2 := f.info2 &&& 0xFF } else f

/-- A fatal fault is raised in a graph (R346): the first in cycle order is its cause; every other counts in NFLT. -/
def raiseFault (s : State) (g : Nat) (f : FaultRec) : State :=
  (noteFault s f.cause f.info f.info2).modGraph g (fun x =>
    match x.fault with
    | none => { x with fault := some f.shown }
    | some f' =>
      if f.before f' then { x with fault := some f.shown, nflt := min (x.nflt + 1) 0xFFFFFFFF }
      else { x with nflt := min (x.nflt + 1) 0xFFFFFFFF })

/-- The record of a fault whose issuer is an element (R348). -/
def faultAt (s : State) (e : ERef) (slot engine : Nat) (prec : Bool) (cause : Nat) (handle : Word) (addr : Nat)
    (info info2 : Word) : FaultRec :=
  { time := s.now
    order := e.reg * 256 + (if engine = 0 then 0 else 128) + e.el
    engine := engine, prec := prec, cause := cause, coord := coordOf e.reg e.el
    reg := s.physReg e.inst e.reg, slot := slot, handle := handle, addr := addr, info := info, info2 := info2
    icnt := (s.inst e.inst).icnt, cycle := s.cycles e.rref, qrep := [] }

/-- An asynchronous fault reported against its issuer (R342). -/
def asyncFault (s : State) (e : ERef) (slot engine cause : Nat) (handle : Word) (addr : Nat) (info info2 : Word) : State :=
  raiseFault s (s.inst e.inst).graph (faultAt s e slot engine false cause handle addr info info2)

/-- A precise trap (R341): the element stops at the slot; nothing else of it changes, and the graph has a fault. -/
def trapAt (s : State) (e : ERef) (slot cause : Nat) (handle : Word) (addr : Nat) (info info2 : Word) : State :=
  raiseFault (s.modElem e (fun x => { x with trapped := true, dp := .idle })) (s.inst e.inst).graph
    (faultAt s e slot 0 true cause handle addr info info2)

/-- A fault with no issuing element (R348 COORD): its handle or call word and its address, where it has them. -/
def hardFaultAt (s : State) (g engine cause : Nat) (reg : Nat) (handle : Word) (addr : Nat) (info info2 : Word) : State :=
  raiseFault s g
    { time := s.now, order := 256 * 192, engine := engine, prec := false, cause := cause, coord := 0xFFFFFFFF
      reg := reg, slot := 0, handle := handle, addr := addr, info := info, info2 := info2, icnt := 0, cycle := 0, qrep := [] }

/-- A fault of the hardware or the front end, with neither handle nor address. -/
def hardFault (s : State) (g engine cause : Nat) (reg : Nat) (info info2 : Word) : State :=
  hardFaultAt s g engine cause reg 0 0 info info2

/-- Why a piece of work does not end now: an access waits for its translation (with the part as it stands at the access), a
condition does not hold yet (with what the wait itself has changed of the part), an access awaits others that come before it, a precise
trap, a fatal fault reported as asynchronous. -/
inductive Stop where
  | access (va : Nat) (wr : Bool) (st : AccSt) (at_ : State)
  | wait
  | later
  | keep (at_ : State)
  | trap (cause addr : Nat) (info info2 : Word)
  | fatal (cause addr : Nat) (info info2 : Word)
  deriving DecidableEq, Repr

def trap0 {α : Type} (cause : Nat) : Except Stop α := .error (.trap cause 0 0 0)
def fatal0 {α : Type} (cause : Nat) : Except Stop α := .error (.fatal cause 0 0 0)

/-- The step's condition in the spec does not hold. -/
def notNow (step : String) : Out := .refused (.notEnabled step)

/-- A step of the part that is possible only under its condition. -/
def when (c : Bool) (name : String) (t : State) : Out := if c then .next t else notNow name

/-! ## The order of a cycle's actions (R103, R116, R139, R186, R191, R237, R325)

Actions of one cycle at one arena take effect by logical region, then by EY × 8 + EX, engines after elements. An action whose place in
that order is before one already taken in the cycle belongs to a later cycle (log 56). -/

/-- The place of an element's action in the order of its cycle. -/
def actKey (e : ERef) : Nat := e.reg * 128 + e.el

/-- The places of elements, and after them of their engines, at one tile table: by EY × 8 + EX (R103). -/
def tableKey (el : Nat) : Nat := el
def tableEngine (el : Nat) : Nat := 64 + el

/-- No action behind this place has been taken in this cycle. -/
def State.inTurn (s : State) (a : Arena) (key : Nat) : Bool :=
  match s.acted.find? (fun p => p.1 == a) with
  | none => true
  | some (_, t, k) => t != s.now || decide (k ≤ key)

/-- The element's datapath has taken a beat in this cycle (R40, R41). -/
def State.beaten (s : State) (e : ERef) : Bool :=
  match s.acted.find? (fun p => p.1 == .datapath e) with
  | none => false
  | some (_, t, _) => t == s.now

/-- An action is taken. -/
def State.act (s : State) (a : Arena) (key : Nat) : State := { s with acted := kset s.acted a (s.now, key) }

/-- The element's datapath takes its beat of this cycle. -/
def State.beat (s : State) (e : ERef) : State := s.act (.datapath e) 0

end Sys2Proof.Machine
end

