-- ==== Sys2Proof/Machine/Translate.lean ====
section
/-! DEFINITION. Address translation, the race check and single accesses (spec/17_translation.md R262 to R273,
spec/18_memory_model.md R286 to R290), for every requester. -/

namespace Sys2Proof.Machine

/-! ## Who asks -/

/-- A requester: how it is named in a fault record (R268), its graph, context and die, the agent whose reads it makes, the
physical region its accesses are charged to (none: they neither check nor set stamps; 255: no region, R287), its
micro-TLB, whether a race is a precise trap of it (R290), whether the access counts (R273), and what happens before it (R279). -/
structure Rq where
  req : Req
  graph : Nat
  ctx : Nat
  die : Nat
  kind : Nat
  slot : Nat
  agent : Agent
  charge : Option Nat
  utlb : Option UKey
  prec : Bool
  counts : Bool
  hb : List Dep
  deriving DecidableEq, Repr

/-- An element's own accesses; atomics are KIND 1 and are charged to no region. -/
def elemRq (s : State) (e : ERef) (slot kind : Nat) : Rq :=
  let i := s.inst e.inst
  ⟨.element e, i.graph, i.ctx, s.dieOf e.inst e.reg, kind, slot, s.agentOf e,
    if kind = 1 then none else some (s.physReg e.inst e.reg), some (.elem e), true, true,
    (s.elem e).hb⟩

/-- The sequencer's reads and writes for a contraction issued in region r (R287, R132). -/
def seqRq (s : State) (r : RRef) (seq slot : Nat) : Rq :=
  let i := s.inst r.inst
  ⟨.sequencer r seq, i.graph, i.ctx, s.dieOf r.inst r.reg, 4, slot, s.engineAgent r,
    some (s.physReg r.inst r.reg), none, false, true, []⟩

/-- One product's accesses: they wait for themselves alone (R130). They are those of the sequencer that runs it, of region `own` where its
group has migrated (R131, R276). -/
def prodRq (s : State) (r : RRef) (seq k slot own : Nat) : Rq :=
  { seqRq s r seq slot with req := .product r seq k, agent := s.engineAgent ⟨r.inst, own⟩ }

/-- The sequencer's writes of BUSY, STOP and OPH in a C directory header, charged to no region (R132, R287). -/
def headerRq (s : State) (r : RRef) (seq slot : Nat) : Rq := { seqRq s r seq slot with req := .header r seq, charge := none }

/-- Operations of an element that are still to be performed where they are served: tile-table and engine requests. -/
def Elem.outstanding (x : Elem) : List Nat := x.outst ++ (x.rets.filter (fun r => r.val.isNone)).map Ret.id

/-- An element's requests that are not performed, as operations that come before an access of its scope (R180, R279). -/
def ownRequests (s : State) (e : ERef) : List Dep := (s.elem e).outstanding.map (Dep.request e)

/-- A pump is of its element's scope: what its element has stored is performed for it, and what came before its run (R180, R276, R279). -/
def pumpRq (s : State) (e : ERef) (pm slot : Nat) : Rq :=
  let i := s.inst e.inst
  ⟨.pump e pm, i.graph, i.ctx, s.dieOf e.inst e.reg, 2, slot, s.agentOf e, some (s.physReg e.inst e.reg),
    some (.pump e pm), false, true, ((s.elem e).pump pm).hb ++ ownRequests s e⟩

/-- A die's wellhead and copy channels stand in the die's scope, in no region (R276). -/
def State.dieAgent (s : State) (r : RRef) : Agent := ⟨r.inst, 1000, none, s.dieOf r.inst r.reg⟩

def wellRq (s : State) (r : RRef) (seq pos slot : Nat) (atomic : Bool) : Rq :=
  let i := s.inst r.inst
  ⟨.wellhead r seq pos, i.graph, i.ctx, s.dieOf r.inst r.reg, 3, slot, s.dieAgent r,
    if atomic then none else some (s.physReg r.inst r.reg), some (.well (s.dieOf r.inst r.reg)), false, true, []⟩

/-! ## Page tables (R262 to R264) -/

def pteP (w : BitVec 64) : Bool := bit w 0
def pteLeaf (w : BitVec 64) : Bool := bit w 2
def pteW (w : BitVec 64) : Bool := bit w 3
def pteMB (w : BitVec 64) : Bool := bit w 63
def pteRD (w : BitVec 64) : Bool := bit w 62
def pteAC (w : BitVec 64) : Bool := bit w 61
def pteHome (w : BitVec 64) : Nat := bits w 60 58
def pteTgt (w : BitVec 64) : Nat := bits w 57 52
def pteAddr (w : BitVec 64) : Nat := bits w 51 14 * 2 ^ 14
def pteGsl (w : BitVec 64) : Nat := bits w 7 4

/-- log2 of the page a leaf of a level maps: 16 KiB, 2 MiB, 1 GiB. -/
def pageLog (level : Nat) : Nat := if level = 0 then 14 else if level = 1 then 21 else 30

/-- An entry with P = 1 is valid (R264, and LEAF of R263). A leaf's page lies in its home from its first byte to its last: one of 1 GiB,
which the cisterns' 512 MiB cannot hold, is not valid there (R1, R264; DEDUCED, log 66). -/
def pteOk (level : Nat) (w : BitVec 64) : Bool :=
  bits w 13 8 == 0 && !bit w 1 && decide (pteHome w ≤ 4) &&
  (if pteLeaf w then
    decide (level ≤ 2) && pteAddr w % 2 ^ pageLog level == 0 &&
    (if pteHome w = 2 then true
     else if pteHome w = 3 then decide (pteTgt w < 4) && pteGsl w == 0
     else pteTgt w == 0 && pteGsl w == 0) &&
    (if pteHome w = 0 then decide (pteAddr w < 2 ^ 39)
     else if pteHome w = 1 then decide (pteAddr w + 2 ^ pageLog level ≤ 2 ^ 29)
     else if pteHome w = 2 then decide (pteAddr w < 2 ^ 39)
     else if pteHome w = 4 then pteAddr w == 0 else true) &&
    (!pteAC w || pteHome w == 3 || pteHome w == 4)
  else
    decide (1 ≤ level) && bits w 63 52 == 0 && pteGsl w == 0 && !pteW w && decide (pteAddr w < 2 ^ 39))

/-- The index of a level in an address and the level's table (R262). -/
def pteIndex (level va : Nat) : Nat :=
  if level = 3 then va / 2 ^ 43 % 8192 else if level = 2 then va / 2 ^ 30 % 8192
  else if level = 1 then va / 2 ^ 21 % 512 else va / 2 ^ 14 % 128

/-- The granules of n bytes from a key: 64 bytes each (R286). -/
def granules (k n : Nat) : List Nat := (List.range ((k + n + 63) / 64 - k / 64)).map (fun i => k / 64 + i)

/-- A line among n bytes that ECC cannot correct: its region, and its bank with the memory it is of (R340 0x0E0, R349, R362). -/
def badIn (s : State) (k n : Nat) : Option (Nat × Nat) :=
  if s.badLines = [] then none
  else (s.badLines.find? (fun p => (granules k n).contains p.1)).map (fun p => (p.2.1, bankCode p.2.2 (linePlace s p.1 p.2.2)))

/-- What one read of a walk comes to: an invalid entry, one that is not present, a leaf, the next level's table, an entry that ECC
cannot correct. -/
inductive Walk where
  | invalid (level : Nat)
  | absent (level : Nat)
  | leaf (level : Nat) (w : BitVec 64)
  | next (level table : Nat)
  | bad (reg bank : Nat)
  deriving DecidableEq, Repr

/-- One level of a walk: the entry of an address in a level's table, as it stands in HBM4 (R262, R265). Tables lie in HBM4, and the spec says
nothing of a root or an entry's address at which one would reach past its 512 GiB: the walk takes the address as it stands (R1, R262; DESIGN
CHOICE, log 67). -/
def walkAt (s : State) (va level table : Nat) : Walk :=
  let k := hbmKey (table + 8 * pteIndex level va)
  match badIn s k 8 with
  | some b => .bad b.1 b.2
  | none =>
    let w := BitVec.ofNat 64 (leNat (readPart s k 8))
    if !pteP w then .absent level
    else if !pteOk level w then .invalid level
    else if pteLeaf w then .leaf level w
    else .next (level - 1) (pteAddr w)

/-- The levels one after another. `n` is the level plus one. -/
def walkFrom (s : State) (va : Nat) : Nat → Nat → Walk
  | 0, _ => .invalid 0
  | n + 1, table =>
    match walkAt s va n table with
    | .next _ t => walkFrom s va n t
    | w => w

/-- The four levels in the state as it stands. -/
def walk (s : State) (ctx va : Nat) : Walk := walkFrom s va 4 (s.ctx ctx).root

/-! ## Cached translations (R265) -/

def TlbE.hits (t : TlbE) (ctx va : Nat) : Bool := t.ctx == ctx && t.page == va / 2 ^ t.log

/-- The leaf that is held for an address. -/
def tlbFind (ts : List TlbE) (ctx va : Nat) : Option TlbE := ts.find? (fun t => t.host.isNone && t.hits ctx va)

/-- What the host's IOMMU gave for an address, at the size it returned (R265, R272). -/
def hostFind (ts : List TlbE) (ctx va : Nat) : Option TlbE := ts.find? (fun t => t.host.isSome && t.hits ctx va)

/-- The host address of an address that a host entry covers. -/
def hostOf (h : Option TlbE) (va : Nat) : Nat :=
  match h with
  | some t => t.host.getD 0 + va % 2 ^ t.log
  | none => 0

/-- An entry put in, the oracle's choice taken out where the level is full. -/
def tlbAdd (ts : List TlbE) (cap choice : Nat) (t : TlbE) : List TlbE :=
  if ts.length < cap then t :: ts else t :: ts.eraseIdx (choice % ts.length)

def utlbCap : UKey → Nat
  | .elem _ => 8
  | .pump _ _ => 8
  | .well _ => 256

/-- The level of the leaf that maps a page of a size (R349 INFO2). -/
def levelOf (log : Nat) : Nat := if log ≤ 14 then 0 else if log ≤ 21 then 1 else 2

/-- A translated access: the key of its first byte, the home, whether its page carries stamps (R286), log2 of the page's size. -/
structure Loc where
  key : Nat
  home : Nat
  stamped : Bool
  tgt : Nat
  gsl : Nat
  log : Nat
  deriving DecidableEq, Repr

/-- The place of an address whose leaf is known; `h` is the host's translation, which a leaf of HOME 100 takes. -/
def locOf (t : TlbE) (h : Option TlbE) (va : Nat) : Loc :=
  let a := pteAddr t.leaf + va % 2 ^ t.log
  let home := pteHome t.leaf
  let key :=
    if home = 0 then hbmKey a else if home = 1 then cisternKey a
    else if home = 2 then peerKey (pteGsl t.leaf) (pteTgt t.leaf) a
    else if home = 3 then cxlKey a
    else hostKey (hostOf h va)
  ⟨key, home, home == 1 || (home == 0 && pteRD t.leaf), pteTgt t.leaf, pteGsl t.leaf, t.log⟩

/-- A home that cannot be reached (R266, 0x084). CXL port k is link 25 + k of the lifetime record's order (R363). -/
def unreachable (s : State) (l : Loc) : Bool :=
  if l.home = 2 then !(s.group l.gsl).valid || decide ((s.group l.gsl).p ≤ l.tgt)
  else if l.home = 3 then s.downLinks.contains (25 + l.tgt)
  else false

/-- A peer that is not live cannot be reached (R251). -/
def peerDown (s : State) (l : Loc) : Bool := l.home == 2 && (s.group l.gsl).lapsed.contains l.tgt

/-- The top 2 MiB of the cisterns of C0 and C4, where the leader's mirror stands: no graph reaches them (R356); an access of one there
is taken as one to a home that cannot be reached (log 57). -/
def inMirror (l : Loc) : Bool :=
  l.home == 1 && (let a := addrOfKey l.key; (a / 2 ^ 26 == 0 || a / 2 ^ 26 == 4) && decide (62 * 2 ^ 20 ≤ a % 2 ^ 26))

/-- The leaf a requester's own level holds for an address. -/
def ownEntry (s : State) (q : Rq) (va : Nat) : Option TlbE :=
  match q.utlb with
  | none => none
  | some u => tlbFind (kget [] s.utlb u) q.ctx va

/-- The host's translation of an address: what the requester's own level holds, if it allows the access, else its die's (R265, R272). -/
def hostFor (s : State) (q : Rq) (va : Nat) (wr : Bool) : Option TlbE :=
  let own := match q.utlb with
    | none => none
    | some u => hostFind (kget [] s.utlb u) q.ctx va
  match own with
  | some t => if wr && !t.hostW then hostFind (kget [] s.tlb q.die) q.ctx va else some t
  | none => hostFind (kget [] s.tlb q.die) q.ctx va

/-- A translation that a requester has used is kept at its own level, in place of what stood there for the address (R265). -/
def keepOwn (s : State) (q : Rq) (t : TlbE) : State :=
  match q.utlb with
  | none => s
  | some u =>
    let ts := kget [] s.utlb u
    if ts.contains t then s
    else
      let c := s.choose
      let old (e : TlbE) : Bool := e.host.isSome == t.host.isSome && e.hits t.ctx (t.page * 2 ^ t.log)
      { c.2 with utlb := kset c.2.utlb u (tlbAdd (ts.filter (fun e => !old e)) (utlbCap u) c.1 t) }

/-- The notification record of an entry (R273). -/
def notifyRecord (die : Nat) (t : TlbE) : List Word :=
  let b := t.page * 2 ^ t.log
  [wd b, wd (die * 2 ^ 24 + b / 2 ^ 32), wd (pteHome t.leaf * 2 ^ 29), wd t.ctx]

/-- One access through an entry counts at its die where the leaf has AC = 1; at the threshold a notification falls due and the count
starts again from 0 (R273). -/
def countAccess (s : State) (q : Rq) (t : TlbE) (va : Nat) : State :=
  if pteAC t.leaf && q.counts then
    let ts := kget [] s.tlb q.die
    let mine (x : TlbE) : Bool := x.host.isNone && x.hits q.ctx va
    match ts.find? mine with
    | none => s
    | some x =>
      let full := decide (1 ≤ s.xreg.thr) && decide (s.xreg.thr ≤ x.count + 1)
      { s with
        tlb := kset s.tlb q.die (replaceFirst mine (fun x => { x with count := if full then 0 else x.count + 1 }) ts)
        xreg := if full then { s.xreg with due := s.xreg.due ++ [(q.die, notifyRecord q.die x)] } else s.xreg }
  else s

/-- Translation of one access of a requester; a miss, a hold or a fatal cause stops it (R265, R266), a peer that is not live too
(R251). The access is counted (R273). -/
def xlate (s : State) (q : Rq) (va : Nat) (wr : Bool) : Except Stop (Loc × State) :=
  let die := kget [] s.tlb q.die
  match ownEntry s q va, tlbFind die q.ctx va with
  | none, none => .error (.access va wr .walk s)
  | a, b =>
    let t := a.getD (b.getD ⟨0, 0, 14, 0, none, 0, false⟩)
    let h := hostFor s q va wr
    let l := locOf t h va
    if unreachable s l || inMirror l then .error (.fatal 0x084 va 0xFFFFFFFF (wd (levelOf t.log)))
    else if wr && !pteW t.leaf then .error (.access va wr (.fault 0x082) s)
    else if wr && pteMB t.leaf then .error (.access va wr (.fault 0x083) s)
    else if l.home = 4 ∧ (h.isNone ∨ (wr = true ∧ (h.map TlbE.hostW).getD false = false)) then .error (.access va wr .ats s)
    else if peerDown s l then .error (.fatal 0x0B1 va 0 0)
    else
      let s1 := if a.isSome then s else keepOwn s q { t with count := 0 }
      let s2 := match h with
        | some e => if l.home = 4 then keepOwn s1 q e else s1
        | none => s1
      .ok (l, countAccess s2 q t va)

/-- Where an access would go; nothing is counted and nothing is kept of it. -/
def placeAt (s : State) (q : Rq) (va : Nat) (wr : Bool) : Except Stop Loc :=
  match xlate s q va wr with
  | .error e => .error e
  | .ok (l, _) => .ok l

/-! ## The race check (R286 to R290) -/

def raceInfo (t : Stamp) : Word × Word := (wd (t.num + t.reg * 2 ^ 16 + t.epoch * 2 ^ 24), wd (t.epoch / 2 ^ 8))

/-- One granule checked for an access charged to physical region x; a race reports the granule's address (R290). -/
def raceOne (s : State) (q : Rq) (x va : Nat) (wr : Bool) (g : Nat) : Except Stop State :=
  let e := (s.ctx q.ctx).epoch
  let bad := match s.stamps.find? (fun p => p.1 == g) with
    | none => none
    | some (_, t) =>
      if t.epoch = e ∧ t.reg ≠ 255 ∧ t.reg ≠ x ∧ x ≠ 255 ∧ kget 0 (kget [] s.acq x) t.reg < t.num then some t else none
  match bad with
  | some t =>
    let i := raceInfo t
    .error (if q.prec then .trap 0x090 va i.1 i.2 else .fatal 0x091 va i.1 i.2)
  | none =>
    if wr then .ok { s with stamps := kset s.stamps g ⟨e, x, kget 1 s.num x, q.ctx⟩ } else .ok s

/-- Granules checked in order; `at_` gives each granule's virtual address. -/
def raceAll (q : Rq) (x : Nat) (at_ : Nat → Nat) (wr : Bool) : List Nat → State → Except Stop State
  | [], s => .ok s
  | g :: gs, s =>
    match raceOne s q x (at_ g) wr g with
    | .ok s' => raceAll q x at_ wr gs s'
    | .error e => .error e

/-- The check of an access of n bytes at a key; nothing where its page carries no stamps or it is charged to none. -/
def raceCheck (s : State) (q : Rq) (stamped : Bool) (va k n : Nat) (wr : Bool) : Except Stop State :=
  match q.charge with
  | none => .ok s
  | some x => if stamped then raceAll q x (fun g => va + 64 * g - k) wr (granules k n) s else .ok s

/-! ## Accesses that stay within a page -/

/-- Bytes of a directory's index area are unspecified (R92): those read as free values. -/
def inUnspec (s : State) (ctx va : Nat) : Bool :=
  s.unspec.any (fun r => r.1 == ctx && decide (r.2.1 ≤ va) && decide (va < r.2.1 + r.2.2))

def freed (s : State) (ctx va : Nat) (bs : List Byte) : List Byte :=
  (List.range bs.length).zip bs |>.map (fun p =>
    if inUnspec s ctx (va + p.1) then Config.freeByte s.fresh (va + p.1) else p.2)

/-- What is left of a range when n bytes from va of a context are written. -/
def cutRange (ctx va n : Nat) (r : Nat × Nat × Nat) : List (Nat × Nat × Nat) :=
  if r.1 ≠ ctx ∨ r.2.1 + r.2.2 ≤ va ∨ va + n ≤ r.2.1 then [r]
  else
    (if r.2.1 < va then [(ctx, r.2.1, va - r.2.1)] else []) ++
    (if va + n < r.2.1 + r.2.2 then [(ctx, va + n, r.2.1 + r.2.2 - (va + n))] else [])

/-- Bytes that something has stored are no longer unspecified. -/
def stored (s : State) (ctx va n : Nat) : State :=
  if s.unspec = [] then s else { s with unspec := s.unspec.flatMap (cutRange ctx va n) }

/-! ### What happens before an access (R279)

"A program in which every two conflicting accesses are ordered by happens-before ... runs with sequential consistency": an access awaits the
requests that happen before it and conflict with it, and a read sees the stores that do. -/

/-- A request of an element that happens before an access of n bytes at a key is at an engine, at a line of the access, and one of the two
writes. -/
def hbQueued (s : State) (hb : List Dep) (k n : Nat) (wr : Bool) : Bool :=
  hb != [] && s.engines.any (fun g => g.2.reqs.any (fun r =>
    decide (k / 64 ≤ r.key / 64) && decide (r.key < k + n) && (wr || (match r.op with
      | .load _ => false
      | _ => true)) &&
    (match r.req with
     | .element e => hb.contains (.request e r.id)
     | _ => false)))

/-- The part as a read of n bytes at a key sees it: what has been stored before it to their units, at whatever scope it is performed
(R277, R279). -/
def hbSeen (s : State) (hb : List Dep) (k n : Nat) : State :=
  if hb = [] then s
  else widenWhere s (fun p => hb.contains (.store p.id) && (List.range n).any (fun i => inUnits p.bytes (k + i))) .part

/-- A read of n bytes at a translated place. -/
def readAt (q : Rq) (l : Loc) (va n : Nat) (s : State) : Except Stop (List Byte × State) :=
  if hbQueued s q.hb l.key n false then .error .later
  else
    match badIn s l.key n, raceCheck s q l.stamped va l.key n false with
    | some b, _ => .error (.fatal 0x0E0 va (wd b.1) (wd b.2))
    | none, .error e => .error e
    | none, .ok s1 =>
      let bs := readBytes (hbSeen s1 q.hb l.key n) q.agent l.key n
      .ok (if s1.unspec = [] then bs else freed s1 q.ctx va bs, s1)

/-- A read of n bytes that stay in one page. -/
def readIn (q : Rq) (va n : Nat) (s : State) : Except Stop (List Byte × State) :=
  match xlate s q va false with
  | .error e => .error e
  | .ok (l, s1) => readAt q l va n s1

/-- A write of bytes that stay in one page, performed at part scope (an engine's write). -/
def writeIn (q : Rq) (va : Nat) (bs : List Byte) (s : State) : Except Stop State :=
  match xlate s q va true with
  | .error e => .error e
  | .ok (l, s1) =>
    if hbQueued s1 q.hb l.key bs.length true then .error .later
    else
      match raceCheck s1 q l.stamped va l.key bs.length true with
      | .error e => .error e
      | .ok s2 => .ok (stored (writeThrough s2 (keyed l.key bs)) q.ctx va bs.length)

/-- The entry a requester would use for an address. -/
def entryFor (s : State) (q : Rq) (va : Nat) : Option TlbE :=
  match ownEntry s q va with
  | some t => some t
  | none => tlbFind (kget [] s.tlb q.die) q.ctx va

/-- How much of n bytes at an address stays within its page, and within the range of the host translation that the access takes, so that
it is one access (R262, R272, R273). -/
def spanOf (s : State) (q : Rq) (va n : Nat) (wr : Bool) : Nat :=
  match entryFor s q va with
  | some t =>
    let k := min n (2 ^ t.log - va % 2 ^ t.log)
    match hostFor s q va wr with
    | some h => if pteHome t.leaf = 4 then min k (2 ^ h.log - va % 2 ^ h.log) else k
    | none => k
  | none => n

/-! ## Work that is taken up again after a hold (R110, R267)

A held access is issued once when its hold is released, and no access before it is reissued. Work that makes several accesses is
therefore run, after a hold, against the tape of those it has made: a read on the tape answers what it gave, a write on it is not made
again. -/

/-- The next piece on the tape, if the work has not gone past it. -/
def taped (s : State) : Option (List Byte × State) :=
  match s.tape with
  | some ⟨b :: bs, d⟩ => some (b, { s with tape := some ⟨bs, d ++ [b]⟩ })
  | _ => none

/-- A piece that has just been made goes onto the tape, if there is one. -/
def logged (s : State) (b : List Byte) : State :=
  match s.tape with
  | some t => { s with tape := some { t with done := t.done ++ [b] } }
  | none => s

/-- What work has found of the part, kept on its tape: where it finds something else after a hold, the pieces it had made from there on are
forgotten, and it makes its own (R267). -/
def tapeMark (s : State) (m : List Byte) : State :=
  match taped s with
  | some (b, t) => if b = m then t else { s with tape := s.tape.map (fun tp => ⟨[], tp.done ++ [m]⟩) }
  | none => logged s m

/-- The requester of a further piece of one access: it counts where a page begins, once through each page's entry (R273). -/
def goOn (s : State) (q : Rq) (va : Nat) : Rq :=
  match entryFor s q va with
  | some t => { q with counts := q.counts && va % 2 ^ t.log == 0 }
  | none => q

/-- Page after page, at most f of them; `first` while no piece is read. -/
def readFrom (q : Rq) (first : Bool) : Nat → Nat → Nat → State → Except Stop (List Byte × State)
  | 0, _, _, s => .ok ([], s)
  | f + 1, va, n, s =>
    if n = 0 then .ok ([], s)
    else
      let piece : Except Stop (List Byte × State) := match taped s with
        | some r => .ok r
        | none =>
          match readIn (if first then q else goOn s q va) va (spanOf s q va n false) s with
          | .error e => .error e
          | .ok (b, s1) => .ok (b, logged s1 b)
      match piece with
      | .error e => .error e
      | .ok (b, s1) =>
        match readFrom q false f ((va + b.length) % 2 ^ 56) (n - b.length) s1 with
        | .error e => .error e
        | .ok (bs, s2) => .ok (b ++ bs, s2)

def writeFrom (q : Rq) (first : Bool) : Nat → Nat → List Byte → State → Except Stop State
  | 0, _, _, s => .ok s
  | f + 1, va, bs, s =>
    if bs = [] then .ok s
    else
      let piece : Except Stop (List Byte × State) := match taped s with
        | some r => .ok r
        | none =>
          let b := bs.take (spanOf s q va bs.length true)
          match writeIn (if first then q else goOn s q va) va b s with
          | .error e => .error e
          | .ok s1 => .ok (b, logged s1 b)
      match piece with
      | .error e => .error e
      | .ok (b, s1) => writeFrom q false f ((va + b.length) % 2 ^ 56) (bs.drop b.length) s1

/-- Work run against a tape, which is gone when the work ends. -/
def onTape {α : Type} (r : Req) (tape : List (List Byte)) (f : State → Except Stop (α × State)) (s : State) :
    Except Stop (α × State) :=
  match f { s with tape := some ⟨tape, []⟩, journals := kdel s.journals r } with
  | .ok (a, t) => .ok (a, { t with tape := none })
  | .error (.keep t) => .error (.keep { t with tape := none })
  | .error e => .error e

/-- The work of a requester from its beginning. Where it meets an access that is not translated, what it has made until then is on the
tape of the state that the stop carries. -/
def newWork {α : Type} (r : Req) (f : State → Except Stop (α × State)) (s : State) : Except Stop (α × State) :=
  match f s with
  | .error (.access _ _ _ _) => onTape r [] f s
  | x => x

/-- The work of a requester: from its beginning, or from where a hold left it. -/
def workOf {α : Type} (r : Req) (f : State → Except Stop (α × State)) (s : State) : Except Stop (α × State) :=
  if khas s.journals r then onTape r (kget [] s.journals r) f s else newWork r f s

/-- What stays of work that has come to an access: the bytes it wrote, the stamps and translations, and its journal, with the pieces made
before an earlier hold that it has not gone past again (R267). -/
def keepWork (s : State) (r : Req) (t : State) : State :=
  match t.tape with
  | some tp =>
    if tp.done ++ tp.todo = [] then s
    else
      { s with
        mem := t.mem, stores := t.stores, stamps := t.stamps, tlb := t.tlb, utlb := t.utlb, xreg := t.xreg, unspec := t.unspec
        fresh := t.fresh, oracle := t.oracle, journals := kset s.journals r (tp.done ++ tp.todo) }
  | none => s

/-- Work comes to a condition that is not about what it has read: after a hold it stays there with what it has read, which is not read
again (R267); with no hold before, it begins again. -/
def waitHere (r : Req) (s : State) : Stop :=
  match s.tape with
  | some tp => if tp.done ++ tp.todo = [] then .wait else .keep { s with journals := kset s.journals r (tp.done ++ tp.todo) }
  | none => .wait

/-- The journal of a requester is gone: its work is over, or begins again from what it then reads. -/
def dropJournal (s : State) (r : Req) : State := if khas s.journals r then { s with journals := kdel s.journals r } else s

/-- An action that is made whole or not at all: where it meets an access that is not translated, nothing of it is kept. -/
def whole {α : Type} (f : State → Except Stop α) (s : State) : Except Stop α := f { s with tape := none }

/-- n bytes at a virtual address. -/
def readVA (q : Rq) (va n : Nat) (s : State) : Except Stop (List Byte × State) := readFrom q true (n / 2 ^ 12 + 2) va n s
def writeVA (q : Rq) (va : Nat) (bs : List Byte) (s : State) : Except Stop State :=
  writeFrom q true (bs.length / 2 ^ 12 + 2) va bs s

/-- n words at a virtual address. -/
def readWords (q : Rq) (va n : Nat) (s : State) : Except Stop (List Word × State) :=
  match readVA q va (4 * n) s with
  | .error e => .error e
  | .ok (b, s1) => .ok (wordsOf b, s1)

def writeWord (q : Rq) (va : Nat) (w : Word) (s : State) : Except Stop State := writeVA q va (bytesOfWord w) s

def writeWords (q : Rq) (va : Nat) (ws : List Word) (s : State) : Except Stop State :=
  writeVA q va (bytesOfWords ws) s

/-- The virtual address of a data-form offset (R110, R166). -/
def dataVA (s : State) (inst off : Nat) : Nat := ((s.inst inst).img.dataBase + off) % 2 ^ 56

/-! ## What a stopped access becomes -/

/-- An access that is not translated joins those that are waiting, once (R267), and what its work has done is kept. -/
def addAcc (s : State) (q : Rq) (va : Nat) (wr : Bool) (st : AccSt) (t : State) : State :=
  let s := keepWork s q.req t
  if s.accs.any (fun a => a.req == q.req && a.va == va && a.st == st) then s
  else
    { s with accs := s.accs.filter (fun a => a.req != q.req) ++ [⟨q.req, q.graph, q.ctx, q.die, va, wr, q.kind, q.slot, st⟩] }

/-- An access of a requester is not translated yet. -/
def accPending (s : State) (r : Req) : Bool := s.accs.any (fun a => a.req == r)

/-! ## The front end's accesses (log 9)

The front end translates each access by a walk of its own. Host pages it takes at the address the host's IOMMU gave a die, C-die 0's
where several hold one. -/

/-- What an access of the front end comes to. -/
inductive Front where
  | at_ (k : Nat)
  | wait (st : AccSt)
  | fail (cause : Nat) (info info2 : Word)
  deriving DecidableEq, Repr

/-- Where an access of the front end goes, or why it cannot go now (R264, R266, R272, R340). -/
def frontAt (s : State) (ctx va : Nat) (wr : Bool) : Front :=
  match walk s ctx va with
  | .invalid n => .fail 0x080 0xFFFFFFFF (wd n)
  | .absent _ => .wait (.fault 0x081)
  | .next n _ => .fail 0x080 0xFFFFFFFF (wd n)
  | .bad r b => .fail 0x0E0 (wd r) (wd b)
  | .leaf n w =>
    let t : TlbE := ⟨ctx, va / 2 ^ pageLog n, pageLog n, w, none, 0, false⟩
    let h := hostFind (kget [] s.tlb 0) ctx va
    let l := locOf t h va
    if unreachable s l || inMirror l then .fail 0x084 0xFFFFFFFF (wd n)
    else if wr && !pteW w then .wait (.fault 0x082)
    else if wr && pteMB w then .wait (.fault 0x083)
    else if l.home = 4 ∧ (h.isNone ∨ (wr = true ∧ (h.map TlbE.hostW).getD false = false)) then .wait .ats
    else if peerDown s l then .fail 0x0B1 0 0
    else .at_ l.key

/-- Ranges that stay in 4 KiB, the smallest size a host's IOMMU returns (R272). -/
def pieces (va : Nat) : Nat → Nat → List (Nat × Nat)
  | 0, _ => []
  | f + 1, n =>
    if n = 0 then []
    else
      let k := min n (2 ^ 12 - va % 2 ^ 12)
      (va % 2 ^ 56, k) :: pieces (va + k) f (n - k)

def piecesOf (va n : Nat) : List (Nat × Nat) := pieces va (n / 2 ^ 12 + 2) n

/-- Bytes at keys that an agent outside the context's graphs has stored are no longer unspecified, at whatever address a context maps them
(R92). -/
def storedKeys (s : State) (k n : Nat) : State :=
  s.unspec.foldl (fun t r =>
    (piecesOf r.2.1 r.2.2).foldl (fun t p =>
      match walk s r.1 p.1 with
      | .leaf level w =>
        let kp := (locOf ⟨r.1, p.1 / 2 ^ pageLog level, pageLog level, w, none, 0, false⟩ (hostFind (kget [] s.tlb 0) r.1 p.1) p.1).key
        if kp < k + n ∧ k < kp + p.2 then stored t r.1 (p.1 + (k - kp)) (min (k + n) (kp + p.2) - max k kp) else t
      | _ => t) t) s

/-- What a read of the front end comes to: its bytes, or the first address of it that cannot be read now, and why. -/
inductive FrontRead where
  | got (bs : List Byte)
  | stop (va : Nat) (f : Front)
  deriving DecidableEq, Repr

def directPieces (s : State) (ctx : Nat) : List (Nat × Nat) → FrontRead
  | [] => .got []
  | (va, n) :: ps =>
    match frontAt s ctx va false with
    | .at_ k =>
      match badIn s k n, directPieces s ctx ps with
      | some b, _ => .stop va (.fail 0x0E0 (wd b.1) (wd b.2))
      | none, .got bs => .got ((if s.unspec = [] then readPart s k n else freed s ctx va (readPart s k n)) ++ bs)
      | none, r => r
    | f => .stop va f

/-- n bytes of a context as the front end reads them. -/
def directRead (s : State) (ctx va n : Nat) : FrontRead := directPieces s ctx (piecesOf va n)

/-- Bytes cut at the pieces of their range. -/
def cutAt (bs : List Byte) : List (Nat × Nat) → List (Nat × List Byte)
  | [] => []
  | (va, n) :: ps => (va, bs.take n) :: cutAt (bs.drop n) ps

/-- Parts of a write made in order, up to the first that cannot be made now: what is left with it. -/
def directParts (ctx : Nat) : List (Nat × List Byte) → State → State × List (Nat × List Byte)
  | [], s => (s, [])
  | (va, bs) :: ps, s =>
    match frontAt s ctx va true with
    | .at_ k => directParts ctx ps (stored (writeThrough s (keyed k bs)) ctx va bs.length)
    | _ => (s, (va, bs) :: ps)

def State.queue (s : State) (q : Nat) : Queue := kget {} s.queues q
def State.modQueue (s : State) (q : Nat) (f : Queue → Queue) : State := { s with queues := kset s.queues q (f (s.queue q)) }

/-- A packet is no longer among its queue's open ones (R314). -/
def closePacket (s : State) : Option (Nat × Nat) → State
  | none => s
  | some (q, i) => s.modQueue q (fun x => { x with open_ := x.open_.filter (· != i) })

/-- Writes of the front end, each (address, bytes), in order, then an interrupt and the completion of a packet; what cannot be written now
waits for its translation, the interrupt and the packet with it, and so do later writes of the context (R266, R267). -/
def frontWriteFor (pkt : Option (Nat × Nat)) (s : State) (graph ctx : Nat) (ws : List (Nat × List Byte)) (irq : Option Nat) : State :=
  let ps := ws.flatMap (fun w => cutAt w.2 (piecesOf w.1 w.2.length))
  let r := if s.fronts.any (fun p => p.2.ctx == ctx) then (s, ps) else directParts ctx ps s
  match r.2 with
  | [] => closePacket { r.1 with irqs := r.1.irqs ++ irq.toList } pkt
  | (va, _) :: _ =>
    let n := r.1.fresh
    { r.1 with
      fresh := n + 1
      fronts := kset r.1.fronts n ⟨graph, ctx, r.2, irq, pkt⟩
      accs := r.1.accs.filter (fun a => a.req != .front n) ++ [⟨.front n, graph, ctx, 0, va, true, 4, 0, .walk⟩] }

/-- The same with no packet to complete. -/
def frontWrite (s : State) (graph ctx : Nat) (ws : List (Nat × List Byte)) (irq : Option Nat) : State :=
  frontWriteFor none s graph ctx ws irq

/-- A read of the front end for a requester that waits: the access joins those that are not translated, once. -/
def frontHold (s : State) (r : Req) (graph ctx va : Nat) (st : AccSt) : State :=
  if accPending s r then s
  else { s with accs := s.accs ++ [⟨r, graph, ctx, 0, va, false, 4, 0, match st with
    | .ats => .ats
    | _ => .walk⟩] }

end Sys2Proof.Machine
end

