-- ==== Sys2Proof/Machine/Operands.lean ====
section
/-! DEFINITION. Operand forms, beats and write-back (spec/03_element_and_word.md R38 to R42, R46 to R53,
spec/09_instr_scalar_vector.md R146), and the course of an instruction that waits (R113, R168). -/

namespace Sys2Proof.Machine

/-! ## Reading -/

/-- What a read of the sources comes to (R42): a channel is empty, a marker stands where the guard names none, or the
values with what was popped. -/
inductive Fetch where
  | empty
  | marker
  | got (src : Src) (popped : List (Nat × Token)) (x : Elem)
  deriving DecidableEq, Repr

/-- The guard of the slot is a marker guard of channel c (R39, R42). -/
def markerGuard (t : Trigger) (c : Nat) : Bool := t.cge == 1 && t.tge == 1 && t.tgv == 3 && t.cgi.toNat == c

/-- One source: its word, its flag, its token if it is a channel. -/
def readSrc (x : Elem) (coord : Word) (code : BitVec 4) : Word × Bool × Option (Nat × Token) :=
  match chanOf code with
  | some c =>
    match x.chan c with
    | [] => (0, false, none)
    | t :: _ => (t.w, t.exc, some (c, t))
  | none =>
    if code.toNat < 8 then (x.dreg code.toNat, x.dflag code.toNat, none)
    else if code = 14 then (coord, false, none)
    else (0, false, none)

/-- Whether a source can be read at this beat: it is no channel, or its head stands and is no unguarded marker. -/
def srcState (x : Elem) (t : Trigger) (code : BitVec 4) : Nat :=
  match chanOf code with
  | none => 0
  | some c =>
    match x.chan c with
    | [] => 1
    | h :: _ => if h.tag = 3 ∧ markerGuard t c = false then 2 else 0

/-- Both sources read, and popped where MOD does not peek; one channel named twice is popped once (R16, R42, R46) (log 16). Where one
source's channel is empty and the other's head is an unguarded marker, R42 does not say which comes first: the read waits (DESIGN CHOICE,
log 58). -/
def fetch (x : Elem) (t : Trigger) (coord : Word) (dst sa sb : BitVec 4) (peekA peekB : Bool) : Fetch :=
  if srcState x t sa = 1 ∨ srcState x t sb = 1 then .empty
  else if srcState x t sa = 2 ∨ srcState x t sb = 2 then .marker
  else
    let a := readSrc x coord sa
    let b := readSrc x coord sb
    let pa := if peekA then [] else a.2.2.toList
    let pb := if peekB then [] else b.2.2.toList
    let ps := if sa = sb ∧ (chanOf sa).isSome then (if pa = [] then pb else pa) else pa ++ pb
    let dr := dst.toNat
    .got ⟨a.1, b.1, if dr < 8 then x.dreg dr else 0, a.2.1, b.2.1, if dr < 8 then x.dflag dr else false⟩ ps
      (ps.foldl (fun x p => x.popIn p.1) x)

/-! ## Beats and write-back -/

/-- The datapath after a beat: the next beat of the slot's guard, or idle (R41). -/
def nextDp (x : Elem) (slot beat : Nat) : Dp :=
  if beat < (x.trig slot).nb.toNat then .beat slot (beat + 1) else .idle

/-- A result written to its destination (R146). -/
def writeDst (x : Elem) (dst : BitVec 4) (ot : BitVec 2) (r : Word) (rf : Bool) : Elem :=
  match outChan dst with
  | some c => x.pushOut c ⟨r, ot, rf, none, none⟩
  | none => if dst.toNat < 8 then x.setD dst.toNat r rf else x

/-- The predicate-write clause (R46, R146): PU[3] enables, PU[2:0] names the predicate. -/
def writePu (x : Elem) (pu : BitVec 4) (ps : BitVec 2) (cond : Bool) : Elem :=
  if bit pu 3 then x.setP (bits pu 2 0) (psValue ps cond) else x

/-- The operations that an element has issued and that are at work: its requests, the runs of its pumps, its commands (R279). Of a binding
it is the firing in progress; a firing that has not begun is not issued (DEDUCED, log 62). -/
def openDeps (s : State) (e : ERef) : List Dep :=
  let x := s.elem e
  let r := s.region e.rref
  ownRequests s e ++
  (x.pumps.filter (fun p => p.2.run)).map (fun p => Dep.run e p.1 p.2.no) ++
  (r.cons.filter (fun c => c.el == e.el && c.state == 0)).map (fun c => Dep.con e.rref c.seq) ++
  (r.wells.filter (fun c => c.el == e.el && c.state == 0)).map (fun c => Dep.well e.rref c.seq) ++
  s.copies.flatMap (fun p => (p.2.filter (fun j => match j.who with
    | .elem f _ => f == e
    | _ => false)).map (fun j => Dep.copy j.id)) ++
  (x.topx.map (fun b => Dep.topx e b.handle)) ++
  (match x.firing with
   | some f => if f.bind.isNone then [Dep.topx e f.op.handle] else [Dep.fire e f.id]
   | none => []) ++
  s.groups.flatMap (fun g => (g.2.calls.filter (fun c =>
    c.inst == some e.inst && c.reg == e.reg && c.el == e.el)).map (fun c => Dep.call g.1 c.num) ++
    (match g.2.round with
     | some r => if r.el = e ∨ r.by_.contains e then [Dep.round g.1 r.num] else []
     | none => []))

/-- The stores of an element that are not performed at every scope, by number. -/
def ownStores (s : State) (e : ERef) : List Nat :=
  (s.stores.filter (fun p => p.inst == e.inst && p.reg == e.reg && p.el == e.el)).map Pending.id

/-- An operation is still at work. -/
def depOpen (s : State) : Dep → Bool
  | .request e id => (s.elem e).outstanding.contains id
  | .store id => s.stores.any (fun p => p.id == id)
  | .run e pm no => let p := (s.elem e).pump pm; p.run && p.no == no
  | .con r seq => (s.region r).cons.any (fun c => c.seq == seq && c.state == 0)
  | .well r seq => (s.region r).wells.any (fun c => c.seq == seq && c.state == 0)
  | .copy id => s.copies.any (fun p => p.2.any (fun j => j.id == id))
  | .topx e h =>
    let x := s.elem e
    x.topx.any (fun b => b.handle == h) || (match x.firing with
      | some f => f.bind.isNone && f.op.handle == h
      | none => false)
  | .fire e id => ((s.elem e).firing.map Firing.id) == some id
  | .call slot num => (s.group slot).calls.any (fun c => c.num == num)
  | .round slot num => ((s.group slot).round.map Round.num) == some num

/-- What happens before an operation that an element issues now and is not over: its own operations and stores, and those it has acquired
(R279). -/
def before (s : State) (e : ERef) : List Dep :=
  openDeps s e ++ (ownStores s e).map Dep.store ++ (s.elem e).hb.filter (depOpen s)

/-- The region of an element releases; the release carries what happens before it (R280, R289). -/
def releaseAt (s : State) (inst reg : Nat) (deps : List Dep) : Release × State :=
  let r := release s (s.physReg inst reg)
  ({ r.1 with deps := deps }, r.2)

/-- What an element acquires happens before whatever it issues from now on (R280). -/
def acquireAt (s : State) (e : ERef) (r : Release) : State :=
  (acquire s (s.physReg e.inst e.reg) r).modElem e (fun x => { x with hb := (x.hb ++ r.deps).filter (depOpen s) })

def acquireOptAt (s : State) (e : ERef) : Option Release → State
  | none => s
  | some r => acquireAt s e r

/-- What some elements have done happens before whatever each of them does from now on (R280, R289). -/
def joinElems (s : State) (es : List ERef) : State :=
  let ds := (es.flatMap (before s)).eraseDups
  es.foldl (fun t e => t.modElem e (fun x => { x with hb := ds })) s

/-- A token that has just been written into a boundary route carries its region's release and what happens before it (R281, R289). -/
def outRelease (s : State) (e : ERef) (dst : BitVec 4) : State :=
  match outChan dst with
  | none => s
  | some c =>
    if (s.inst e.inst).img.routes.any
        (fun r => r.srcReg == e.reg && r.srcEl == e.el && r.outC == c && r.via.isSome) then
      let r := releaseAt s e.inst e.reg (before s e)
      r.2.modElem e (fun x =>
        { x with outs := kset x.outs c ((x.out c).dropLast ++ ((x.out c).getLast?.map
            (fun t => { t with rel := some r.1 })).toList) })
    else s

/-- The output channel the destination names has no place (R38, R41). -/
def dstFull (x : Elem) (dst : BitVec 4) : Bool :=
  match outChan dst with
  | some c => !x.outRoom c
  | none => false

def State.curElem (s : State) : Elem := s.elem s.cur
def State.curCoord (s : State) : Word := coordOf s.cur.reg s.cur.el
def State.curTrig (s : State) : Trigger := s.curElem.trig s.curSlot

/-- The datapath of the current element waits, still occupied, for an operand or for a place (R41, R42). -/
def hold (s : State) : State := s.modElem s.cur (fun x => { x with dp := .operand s.curSlot s.curBeat })

/-- A precise trap at the current slot. -/
def trapCur (s : State) (cause : Nat) (info info2 : Word) : State := trapAt s s.cur s.curSlot cause 0 0 info info2

/-- An instruction that completes in its beat: sources read, its result written, its clause applied, the datapath
advanced; it waits for an operand or an output place and traps on an unguarded marker (R40 to R42, R146). -/
def datapath (s : State) (dst sa sb : BitVec 4) (peekA peekB : Bool) (ot : BitVec 2) (pu : BitVec 4) (ps : BitVec 2)
    (f : Src → Res) : State :=
  let x := s.curElem
  if dstFull x dst then hold s
  else
    match fetch x s.curTrig s.curCoord dst sa sb peekA peekB with
    | .empty => hold s
    | .marker => trapCur s 0x012 0 0
    | .got src _ x1 =>
      let r := f src
      let x2 := writePu (writeDst x1 dst ot r.r r.rf) pu ps r.cond
      outRelease (s.setElem s.cur { x2 with dp := nextDp x2 s.curSlot s.curBeat }) s.cur dst

/-- Format A (R46). -/
def runA (g : FmtA) (s : State) (f : Src → Res) : Out :=
  .next (datapath s g.dst g.sa g.sb (bit g.mod 1) (bit g.mod 0) g.ot g.pu g.ps f)

/-- Format I (R49, R53): it always pops, and writes tokens of tag 0; b is the immediate, with flag 0. -/
def runI (g : FmtI) (s : State) (imm : Word) (f : Src → Res) : Out :=
  .next (datapath s g.dst g.sa 13 false false 0 0 0 (fun x => f { x with b := imm, fb := false }))

/-- Format K (R49, R53). -/
def runK (dst : BitVec 4) (s : State) (f : Src → Res) : Out :=
  .next (datapath s dst 13 13 false false 0 0 0 f)

/-- An instruction that completes in its beat and may also change the part, or trap: `f` gets what was read and the
state with the pops made, and answers its result with the new state. -/
def systemOp (s : State) (dst sa sb : BitVec 4) (peekA peekB : Bool) (ot : BitVec 2) (pu : BitVec 4) (ps : BitVec 2)
    (f : Src → State → Except Stop (Res × State)) : State :=
  let x := s.curElem
  if dstFull x dst then hold s
  else
    match fetch x s.curTrig s.curCoord dst sa sb peekA peekB with
    | .empty => hold s
    | .marker => trapCur s 0x012 0 0
    | .got src _ x1 =>
      match f src (s.setElem s.cur x1) with
      | .error (.trap c a i j) => trapAt s s.cur s.curSlot c 0 a i j
      | .error (.fatal c a i j) => asyncFault s s.cur s.curSlot 0 c 0 a i j
      | .error _ => hold s
      | .ok (r, s1) =>
        outRelease (s1.modElem s.cur (fun y =>
          let z := writePu (writeDst y dst ot r.r r.rf) pu ps r.cond
          { z with dp := nextDp z s.curSlot s.curBeat })) s.cur dst

/-- Format S (R52). -/
def runS (g : FmtS) (s : State) (f : Src → State → Except Stop (Res × State)) : Out :=
  .next (systemOp s g.dst g.sa 13 (bit g.mod 1) false g.ot g.pu g.ps f)

/-- Format Y (R52, R53). -/
def runY (g : FmtY) (s : State) (f : Src → State → Except Stop (Res × State)) : Out :=
  .next (systemOp s g.dst g.sa 13 false false 0 g.pu g.ps f)

/-- No result and no condition. -/
def noRes : Res := ⟨0, false, false⟩

/-! ## Instructions that wait (R113, R168) -/

/-- What the work of a waiting instruction sees: the element, its slot, what it read. -/
structure Job where
  e : ERef
  slot : Nat
  src : Src
  deriving DecidableEq, Repr

abbrev Work := Job → State → Except Stop (Res × State)

/-- Which field of the word says where the result goes, its tag and its clause. -/
structure Sink where
  dst : BitVec 4
  ot : BitVec 2
  pu : BitVec 4
  ps : BitVec 2
  deriving DecidableEq, Repr

/-- KIND of an element's access in a fault record (R268): a load or store, an atomic, a command's read at issue. -/
def kindOf : Instr → Nat
  | .ld _ | .st _ | .ldx _ | .stx _ => 0
  | .atom _ | .atomr _ => 1
  | _ => 4

/-- The commands that wait and write DST once their own stores are performed (R113, R114, R200, R234, R254). -/
def isWaitingCommand : Instr → Bool
  | .grule _ | .bdinit _ | .bdins _ | .bdfind _ | .bdget _ | .bdsort _ | .poolcfg _ | .bcstat _ | .bcwait _ => true
  | .gstat _ | .dpost _ | .dsend _ | .drecv _ | .dqry _ | .cgload _ | .cseq _ => true
  | _ => false

/-- The region of an element releases as a waiting command of it writes DST (R280, R289). -/
def commandRelease (i : Instr) (e : ERef) (s : State) : State :=
  if isWaitingCommand i then (release s (s.physReg e.inst e.reg)).2 else s

/-- What an instruction that may wait comes to: its work ends, and its result is written, or it waits with the datapath occupied; a trap
undoes the pops (R341). -/
def conclude (w : Wait) (e : ERef) (k : Sink) (o : Except Stop (Res × State)) (s : State) : State :=
  match o with
  | .ok (r, s1) =>
    outRelease ((commandRelease w.ins e s1).modElem e (fun y =>
      let z := writePu (writeDst y k.dst k.ot r.r r.rf) k.pu k.ps r.cond
      { z with dp := nextDp z w.slot w.beat })) e k.dst
  | .error (.trap c a i j) =>
    trapAt (s.modElem e (fun y => w.popped.reverse.foldl (fun y p => y.unpop p.1 p.2) y)) e w.slot c 0 a i j
  | .error (.fatal c a i j) =>
    asyncFault (s.modElem e (fun y => { y with dp := nextDp y w.slot w.beat })) e w.slot 0 c 0 a i j
  | .error (.access va wr st t) =>
    addAcc (s.modElem e (fun y => { y with dp := .work w })) (elemRq s e w.slot (kindOf w.ins)) va wr st t
  | .error .wait => s.modElem e (fun y => { y with dp := .work w })
  | .error .later => s.modElem e (fun y => { y with dp := .work w })
  | .error (.keep t) => t.modElem e (fun y => { y with dp := .work w })

/-- The work of an instruction that waits goes on, while its output channel has a place (R35); after a hold it goes on from the held
access, and keeps what it has made while that access awaits others (R267). Where a condition does not hold yet, it begins again. -/
def settle (w : Wait) (e : ERef) (k : Sink) (f : Work) (s : State) : State :=
  if dstFull (s.elem e) k.dst then s
  else
  let o := workOf (.element e) (f ⟨e, w.slot, w.src⟩) s
  conclude w e k o (match o with
    | .error (.access _ _ _ _) => s
    | .error .later => s
    | _ => dropJournal s (.element e))

/-- The work of an instruction as it issues. -/
def issueWork (w : Wait) (e : ERef) (k : Sink) (f : Work) (s : State) : State :=
  conclude w e k (newWork (.element e) (f ⟨e, w.slot, w.src⟩) s) s

/-- The course of a waiting instruction at its issue. -/
def waiting (s : State) (ins : Instr) (sa sb : BitVec 4) (peekA peekB : Bool) (k : Sink) (f : Work) : State :=
  let x := s.curElem
  if dstFull x k.dst then hold s
  else
    match fetch x s.curTrig s.curCoord k.dst sa sb peekA peekB with
    | .empty => hold s
    | .marker => trapCur s 0x012 0 0
    | .got src popped x1 =>
      issueWork ⟨s.curSlot, s.curBeat, ins, src, popped, s.now⟩ s.cur k f (s.setElem s.cur x1)

/-- Format M (R50). -/
def sinkM (g : FmtM) : Sink := ⟨g.dst, g.ot, 0, 0⟩
def runM (g : FmtM) (ins : Instr) (s : State) (k : Sink) (f : Work) : Out :=
  .next (waiting s ins g.sa g.sb (bit g.mod 1) (bit g.mod 0) k f)

/-- Format E (R51, R53): it always pops, and writes tokens of tag 0. -/
def sinkE (g : FmtE) : Sink := ⟨g.dst, 0, 0, 0⟩
def runE (g : FmtE) (ins : Instr) (s : State) (f : Work) : Out :=
  .next (waiting s ins g.sa g.sb false false (sinkE g) f)

/-- A result that is a word with no flag. -/
def word (w : Word) : Res := ⟨w, false, false⟩

/-- A waiting command of format E reads memory as its own engine access, KIND 4 (R268), whose race is the fatal fault 0x091 (R290), after
what its element has issued (R180). -/
def jobRq (j : Job) (s : State) : Rq :=
  let q := elemRq s j.e j.slot 4
  { q with hb := q.hb ++ ownRequests s j.e, prec := false }

/-- A pointer's alignment (R110). -/
def aligned (p : Word) (n : Nat) : Except Stop Unit := if p.toNat % n = 0 then .ok () else trap0 0x023

/-- Some operations are stores that are performed at a scope. -/
def widenDeps (s : State) (hb : List Dep) (sc : Scope) : State :=
  if hb = [] then s else widenWhere s (fun p => hb.contains (.store p.id)) sc

/-- A request among some operations is not performed yet. -/
def requestOpen (s : State) (hb : List Dep) : Bool :=
  hb.any (fun d => match d with
    | .request _ _ => depOpen s d
    | _ => false)

/-- Every earlier memory operation of the element, and what it has acquired, is performed at a scope (R114, R279). -/
def flush (j : Job) (sc : Scope) (s : State) : State := widenDeps (widenElem s j.e sc) (s.elem j.e).hb sc

/-- An engine command waits until the element's earlier requests, and those that happen before it, are performed, then the stores are, at
part scope (R114, R279). -/
def settled (j : Job) (sc : Scope) (s : State) : Except Stop State :=
  if (s.elem j.e).outstanding = [] ∧ requestOpen s (s.elem j.e).hb = false then .ok (flush j sc s) else .error .wait

end Sys2Proof.Machine
end

