-- ==== Sys2Proof/Machine/Channel.lean ====
section
/-! DEFINITION. The marker and channel instructions (spec/10_instr_channels_tiles_memory.md R169), the charge
instructions (spec/07_instr_contraction_tiles.md R117), the signal and instant instructions (spec/20_instants_signals.md
R297 to R308), and nop, halt, trap, csrr and csrw (spec/23_faults_traps.md R351, R352). -/

namespace Sys2Proof.Machine

/-! ## Markers and channels (R169) -/

/-- The head of the channel a source code names. -/
def headOf (x : Elem) (code : BitVec 4) : Option Token :=
  match chanOf code with
  | none => none
  | some c => (x.chan c).head?

def headTag (s : State) (code : BitVec 4) : BitVec 2 := ((headOf s.curElem code).map Token.tag).getD 0

/-- mark: the payload's kind must be 0x01 or 0x02, else trap 0x030 (R169). -/
def wkMark (x : Src) (s : State) : Except Stop (Res × State) :=
  if bits x.a 31 24 = 1 ∨ bits x.a 31 24 = 2 then .ok (⟨x.a, x.fa, false⟩, s) else trap0 0x030

def execMark (f : FmtS) (s : State) : Out := runS f s wkMark

/-- fwd: the head token unchanged; a configuration token raises trap 0x030 (R169). -/
def wkFwd (tag : BitVec 2) (x : Src) (s : State) : Except Stop (Res × State) :=
  if tag = 3 ∧ bits x.a 31 24 = 3 then trap0 0x030 else .ok (⟨x.a, x.fa, false⟩, s)

def execFwd (f : FmtS) (s : State) : Out :=
  .next (systemOp s f.dst f.sa 13 (bit f.mod 1) false (headTag s f.sa) f.pu f.ps (wkFwd (headTag s f.sa)))

/-- tagr: the head's tag; its condition is that the tag is T (R169). -/
def execTagr (f : FmtS) (s : State) : Out :=
  runS f s (fun x t => .ok (⟨(headTag s f.sa).zeroExtend 32, x.fa, (headTag s f.sa).toNat == bits f.sli 1 0⟩, t))

/-- The tokens skip pops: at most N, before the first marker (R169). -/
def skipRun (x : Elem) (c n : Nat) : List Token := ((x.chan c).takeWhile (fun t => t.tag != 3)).take n

/-- skip never waits on its operand and never traps (R42, R169) (log 13). -/
def execSkip (f : FmtS) (s : State) : Out :=
  let x := s.curElem
  if dstFull x f.dst then .next (hold s)
  else
    let c := (chanOf f.sa).getD 0
    let run := skipRun x c (f.sli.toNat + 1)
    let x1 := { x with inp := kset x.inp c ((x.chan c).drop run.length) }
    let x2 := writePu (writeDst x1 f.dst f.ot (wd run.length) (run.any Token.exc)) f.pu f.ps
      (run.length == f.sli.toNat + 1)
    .next (outRelease (s.setElem s.cur { x2 with dp := nextDp x2 s.curSlot s.curBeat }) s.cur f.dst)

/-! ## Charges (R117) -/

def qOf (x : Elem) (f : FmtS) : Word := kget 0 x.q (bits f.sli 1 0)
def setQ (s : State) (f : FmtS) (v : Word) : State :=
  s.modElem s.cur (fun x => { x with q := kset x.q (bits f.sli 1 0) v })

/-- The rule registers once the writes of cycles before this one have reached them, those of one cycle by EY × 8 + EX (R116). -/
def Region.rulesAt (x : Region) (now : Nat) : KMap Rule :=
  (sortBy (fun (a b : RuleWrite) => a.at_ < b.at_ || (a.at_ == b.at_ && a.el < b.el)) (x.ruleNew.filter (fun w => w.at_ < now))).foldl
    (fun m w => kset m w.n w.rule) x.rules

/-- A rule register as an operation that issues now reads it (R115, R116): none where it is unloaded. -/
def State.ruleReg (s : State) (r : RRef) (n : Nat) : Option Rule :=
  (((s.region r).rulesAt s.now).find? (fun p => p.1 == n)).map Prod.snd

/-- A rule register is written; operations of this cycle still read what it held (R116). -/
def writeRule (s : State) (e : ERef) (n : Nat) (g : Rule) : State :=
  s.modRegion e.rref (fun x =>
    { x with rules := x.rulesAt s.now, ruleNew := x.ruleNew.filter (fun w => s.now ≤ w.at_) ++ [⟨s.now, e.el, n, g⟩] })

/-- The rule that the element's rule select names; unloaded is trap 0x02A (R115). -/
def ruleSel (s : State) : Except Stop Rule :=
  match s.ruleReg s.cur.rref s.curElem.rs with
  | some g => .ok g
  | none => trap0 0x02A

def execQset (f : FmtS) (s : State) : Out := runS f s (fun x t => .ok (noRes, setQ t f x.a))

def execQget (f : FmtS) (s : State) : Out := runS f s (fun _ t => .ok (word (qOf t.curElem f), t))

/-- qfuse: r := cadd(g, SA, q); q := r (R117). -/
def wkQfuse (f : FmtS) (x : Src) (s : State) : Except Stop (Res × State) :=
  match ruleSel s with
  | .error e => .error e
  | .ok g =>
    let r := cadd g x.a (qOf s.curElem f)
    .ok (⟨r.1, x.fa || r.2, false⟩, setQ s f r.1)

def execQfuse (f : FmtS) (s : State) : Out := runS f s (wkQfuse f)

/-- qinv: r := cneg(g, q); q := r (R117). -/
def wkQinv (f : FmtS) (_ : Src) (s : State) : Except Stop (Res × State) :=
  match ruleSel s with
  | .error e => .error e
  | .ok g =>
    let r := cneg g (qOf s.curElem f)
    .ok (⟨r.1, r.2, false⟩, setQ s f r.1)

def execQinv (f : FmtS) (s : State) : Out := runS f s (wkQinv f)

/-- A charge test: 1 or 0, its condition, the source's flag only (R117). -/
def wkQtest (f : FmtS) (t : Rule → Word → Word → Bool) (x : Src) (s : State) : Except Stop (Res × State) :=
  match ruleSel s with
  | .error e => .error e
  | .ok g => .ok (⟨bw (t g x.a (qOf s.curElem f)), x.fa, t g x.a (qOf s.curElem f)⟩, s)

def execQeq (f : FmtS) (s : State) : Out := runS f s (wkQtest f ceq)

/-- What qchk tests: SA is canonical and the fusion raises nothing (R117). -/
def qchkOk (g : Rule) (a q : Word) : Bool := canonical g a && !(cadd g a q).2

def execQchk (f : FmtS) (s : State) : Out := runS f s (wkQtest f qchkOk)

def execQsel (f : FmtS) (s : State) : Out :=
  runS f s (fun _ t => .ok (noRes, t.modElem t.cur (fun x => { x with rs := bits f.sli 2 0 })))

/-! ## Signals (R297 to R300, R306 to R308) -/

/-- The signal bound to a slot of an element. -/
def sigOf (s : State) (e : ERef) (slot : Nat) : Option Nat :=
  match s.image e with
  | none => none
  | some g => (g.binds.find? (fun p => p.1 == slot)).map Prod.snd

def sigDecl (s : State) (inst sig : Nat) : SigDecl := (s.inst inst).img.signals.getD sig ⟨none, []⟩

/-- The acts on a signal that an element has seen; those of its own region at once (R298). -/
def actsSeen (s : State) (e : ERef) (sig : Nat) : List SigAct :=
  (s.inst e.inst).acts.filter (fun a => a.sig == sig && (a.reg == e.reg || a.seen.contains (e.reg, e.el)))

def SigAct.isCede (a : SigAct) : Bool := a.emit.isNone

/-- Every emitter has ceded among these acts (R297). -/
def allCeded (d : SigDecl) (acts : List SigAct) : Bool :=
  d.emitters.all (fun m => acts.any (fun a => a.isCede && a.reg == m.1 && a.el == m.2))

/-- A signal's status as an element sees it: present, absent, or unknown (R297). -/
def sigStatus (s : State) (e : ERef) (sig : Nat) : Option Bool :=
  let acts := actsSeen s e sig
  if acts.any (fun a => a.emit.isSome) then some true
  else if allCeded (sigDecl s e.inst sig) acts then some false
  else none

/-- A valued signal is final when every emitter has ceded; a pure one when its status is known (R297). -/
def sigFinal (s : State) (e : ERef) (sig : Nat) : Bool :=
  match (sigDecl s e.inst sig).combine with
  | none => (sigStatus s e sig).isSome
  | some _ => allCeded (sigDecl s e.inst sig) (actsSeen s e sig)

/-- Element order (R299). -/
def SigAct.order (a : SigAct) : Nat := a.reg * 64 + a.el

/-- The combined value and flag of the emissions (R299). -/
def combineSig (c : Combine) (acts : List SigAct) : Word × Bool :=
  let es := acts.filterMap (fun a => a.emit.map (fun e => (a.order, e)))
  let ws := es.map (fun p => p.2.1)
  let fl := es.any (fun p => p.2.2)
  match c with
  | .or => (ws.foldl (· ||| ·) 0, fl)
  | .max => (ws.foldl (fun a w => if sx a < sx w then w else a) (ws.headD 0), fl)
  | .min => (ws.foldl (fun a w => if sx w < sx a then w else a) (ws.headD 0), fl)
  | .sum => let r := sat32 ((ws.map (fun w => sx w)).foldl (· + ·) 0); (r.1, fl || r.2)
  | .first =>
    match (sortBy (fun (p q : Nat × Word × Bool) => p.1 < q.1) es).head? with
    | none => (0, false)
    | some p => p.2

def addAct (s : State) (e : ERef) (sig : Nat) (emit : Option (Word × Bool)) : State :=
  s.modInst e.inst (fun i => { i with acts := i.acts ++ [⟨sig, e.reg, e.el, emit, []⟩] })

def hasCeded (s : State) (e : ERef) (sig : Nat) : Bool :=
  (s.inst e.inst).acts.any (fun a => a.sig == sig && a.isCede && a.reg == e.reg && a.el == e.el)

/-- The element cedes a signal that it has not ceded yet (R300). -/
def cede (s : State) (e : ERef) (sig : Nat) : State := if hasCeded s e sig then s else addAct s e sig none

/-- The signals whose emitter lists name the element. -/
def emitsOf (s : State) (e : ERef) : List Nat :=
  (List.range (s.inst e.inst).img.signals.length).filter
    (fun k => (sigDecl s e.inst k).emitters.contains (e.reg, e.el))

/-- The element cedes every signal it could still emit (R294, R300, R308 rxend). -/
def cedeAll (s : State) (e : ERef) : State := (emitsOf s e).foldl (fun t k => cede t e k) s

/-- emit and emitv: an emission after a cede of the same instant is trap 0x140 (R300, R308). -/
def wkEmit (slot : Nat) (v : Word × Bool) (s : State) : Except Stop (Res × State) :=
  match sigOf s s.cur slot with
  | none => .ok (noRes, s)
  | some k => if hasCeded s s.cur k then trap0 0x140 else .ok (noRes, addAct s s.cur k (some v))

def execEmit (f : FmtS) (s : State) : Out := runS f s (fun _ t => wkEmit f.sli.toNat (0, false) t)

def execEmitv (f : FmtS) (s : State) : Out := runS f s (fun x t => wkEmit f.sli.toNat (x.a, x.fa) t)

def execCede (f : FmtS) (s : State) : Out :=
  runS f s (fun _ t => .ok (noRes, match sigOf t t.cur f.sli.toNat with
    | none => t
    | some k => cede t t.cur k))

def execRxend (f : FmtS) (s : State) : Out :=
  runS f s (fun _ t => .ok (noRes, (cedeAll t t.cur).modElem t.cur (fun x => { x with ended := true })))

def execDlyr (f : FmtS) (s : State) : Out :=
  runS f s (fun _ t => .ok (word (kget 0 t.curElem.dlLat (bits f.sli 1 0)), t))

def execDlyw (f : FmtS) (s : State) : Out :=
  runS f s (fun x t => .ok (noRes, t.modElem t.cur (fun y => { y with dlPend := kset y.dlPend (bits f.sli 1 0) x.a })))

/-- sigv waits while the signal is not final (R308). -/
def wkSigv (f : FmtS) : Work := fun j s =>
  match sigOf s j.e f.sli.toNat with
  | none => .ok (noRes, s)
  | some k =>
    if sigFinal s j.e k then
      let present := sigStatus s j.e k == some true
      match (sigDecl s j.e.inst k).combine with
      | none => .ok (⟨bw present, false, present⟩, s)
      | some c =>
        let v := if present then combineSig c (actsSeen s j.e k) else (0, false)
        .ok (⟨v.1, v.2, present⟩, s)
    else .error .wait

def sinkS (f : FmtS) : Sink := ⟨f.dst, f.ot, f.pu, f.ps⟩

def execSigv (f : FmtS) (s : State) : Out :=
  .next (waiting s (.sigv f) f.sa 13 (bit f.mod 1) false (sinkS f) (wkSigv f))

/-- icnt reads 0 in a stage that is not clocked (R293, R308). -/
def execIcnt (f : FmtS) (s : State) : Out :=
  runS f s (fun _ t => .ok (word (if (t.inst t.cur.inst).img.clocked then (t.inst t.cur.inst).icnt else 0), t))

/-! ## nop, halt, trap and the CSRs (R351, R352) -/

def execNop (f : FmtY) (s : State) : Out := runY f s (fun _ t => .ok (noRes, t))

def execHalt (f : FmtY) (s : State) : Out :=
  runY f s (fun _ t =>
    let t1 := if (t.inst t.cur.inst).img.clocked then cedeAll t t.cur else t
    .ok (noRes, t1.modElem t.cur (fun x => { x with halted := true })))

/-- trap takes the precise trap 0x010; its SA is read, and popped where it is a channel (R341, R351). -/
def execTrap (f : FmtY) (s : State) : Out :=
  match fetch s.curElem s.curTrig s.curCoord f.dst f.sa 13 false false with
  | .empty => .next (hold s)
  | .marker => .next (trapCur s 0x012 0 0)
  | .got src _ x1 => .next (trapCur (s.setElem s.cur x1) 0x010 (f.idx.zeroExtend 32) src.a)

/-- The flags of d0 to d7 as bits [7:0] (R352 flags). -/
def flagsWord (x : Elem) : Word :=
  wd ((List.range 8).foldl (fun a k => a + (if x.dflag k then 2 ^ k else 0)) 0)

def launchWord : Origin → Word
  | .queue _ i => wd (i % 2 ^ 31)
  | .glaunch _ _ n => wd (2 ^ 31 + n % 2 ^ 31)

/-- The value of a CSR (R352). -/
def csrValue (s : State) (e : ERef) (n : Nat) : Word :=
  let g := s.graph (s.inst e.inst).graph
  match n with
  | 0 => wd (s.cycles e.rref)
  | 1 => (s.elem e).cych
  | 2 => wd (s.clock (s.physReg e.inst e.reg))
  | 3 => wd (s.inst e.inst).ctx
  | 4 => launchWord g.origin
  | 5 => flagsWord (s.elem e)
  | 6 => (s.elem e).mdcnt
  | 7 => if g.elog = 0 then 0 else wd g.xcount
  | _ => wd (s.physReg e.inst e.reg)

def execCsrr (f : FmtY) (s : State) : Out :=
  runY f s (fun _ t =>
    let v := csrValue t t.cur f.idx.toNat
    .ok (word v, if f.idx = 0 then
      t.modElem t.cur (fun x => { x with cych := wd (t.cycles t.cur.rref / 2 ^ 32) }) else t))

/-- csrw flags (R352). -/
def execCsrw (f : FmtY) (s : State) : Out :=
  runY f s (fun x t => .ok (noRes, t.modElem t.cur (fun y =>
    { y with fl := (List.range 8).foldl (fun m k => kset m k (bit x.a k)) y.fl })))

end Sys2Proof.Machine
end

