-- ==== Sys2Proof/Machine/Alu.lean ====
section
/-! DEFINITION. The results of the integer, floating-point, packed, conversion, immediate and constant instructions
(spec/09_instr_scalar_vector.md R149 to R160), as functions of what was read. -/

namespace Sys2Proof.Machine

/-! ## Integer and logic (R149 to R152) -/

def rAdd (x : Src) : Res := x.plain (x.a + x.b)
def rSub (x : Src) : Res := x.plain (x.a - x.b)
def rMul (x : Src) : Res := x.plain (x.a * x.b)
def rMulh (x : Src) : Res := x.plain (BitVec.ofInt 32 (Int.fdiv (sx x.a * sx x.b) (2 ^ 32)))
def rMulhu (x : Src) : Res := x.plain (wd (x.a.toNat * x.b.toNat / 2 ^ 32))
def rOr (x : Src) : Res := x.plain (x.a ||| x.b)
def rAnd (x : Src) : Res := x.plain (x.a &&& x.b)
def rXor (x : Src) : Res := x.plain (x.a ^^^ x.b)
def rAndn (x : Src) : Res := x.plain (x.a &&& ~~~x.b)

/-- The amount is read in full; 32 and above shift everything out (R150). -/
def rShl (x : Src) : Res := x.plain (if x.b.toNat < 32 then x.a <<< x.b.toNat else 0)
def rShr (x : Src) : Res := x.plain (if x.b.toNat < 32 then x.a >>> x.b.toNat else 0)
def rSra (x : Src) : Res :=
  x.plain (if x.b.toNat < 32 then x.a.sshiftRight x.b.toNat else if bit x.a 31 then 0xFFFFFFFF else 0)

def rMin (x : Src) : Res := x.plain (if sx x.a ≤ sx x.b then x.a else x.b)
def rMax (x : Src) : Res := x.plain (if sx x.a ≤ sx x.b then x.b else x.a)
def rMinu (x : Src) : Res := x.plain (if x.a.toNat ≤ x.b.toNat then x.a else x.b)
def rMaxu (x : Src) : Res := x.plain (if x.a.toNat ≤ x.b.toNat then x.b else x.a)
def rCmpeq (x : Src) : Res := x.cmp (x.a == x.b)
def rCmpne (x : Src) : Res := x.cmp (x.a != x.b)
def rCmplt (x : Src) : Res := x.cmp (decide (sx x.a < sx x.b))
def rCmple (x : Src) : Res := x.cmp (decide (sx x.a ≤ sx x.b))
def rCmpltu (x : Src) : Res := x.cmp (decide (x.a.toNat < x.b.toNat))
def rCmpleu (x : Src) : Res := x.cmp (decide (x.a.toNat ≤ x.b.toNat))

/-- sel (R151): the unchosen source's flag does not enter. -/
def rSel (x : Src) : Res :=
  if x.d ≠ 0 then ⟨x.a, x.fd || x.fa, false⟩ else ⟨x.b, x.fd || x.fb, false⟩

/-- The offset and the width of a bit field, cut at bit 31 (R152). -/
def bfOff (b : Word) : Nat := bits b 4 0
def bfWidth (b : Word) : Nat := min (bits b 13 8) (32 - bfOff b)

def bfMask (b : Word) : Word := wd ((2 ^ bfWidth b - 1) * 2 ^ bfOff b)

def rBfx (x : Src) : Res :=
  x.plain (if bfWidth x.b = 0 then 0 else (x.a >>> bfOff x.b) &&& wd (2 ^ bfWidth x.b - 1))

def rBfi (x : Src) : Res :=
  let m := bfMask x.b
  let r := if bfWidth x.b = 0 then x.d else (x.d &&& ~~~m) ||| ((x.a <<< bfOff x.b) &&& m)
  ⟨r, x.flagD false, false⟩

/-- Number of zero bits before the first one bit from the top. -/
def clzGo (a : Word) : Nat → Nat → Nat
  | 0, n => n
  | k + 1, n => if bit a k then n else clzGo a k (n + 1)

def ctzGo (a : Word) : Nat → Nat → Nat
  | 0, n => n
  | k + 1, n => if bit a n then n else ctzGo a k (n + 1)

def popGo (a : Word) : Nat → Nat
  | 0 => 0
  | k + 1 => (if bit a k then 1 else 0) + popGo a k

def rClz (x : Src) : Res := x.plain (wd (clzGo x.a 32 0))
def rCtz (x : Src) : Res := x.plain (wd (ctzGo x.a 32 0))
def rPopc (x : Src) : Res := x.plain (wd (popGo x.a 32))
def rAdds (x : Src) : Res := x.excd (sat32 (sx x.a + sx x.b))
def rSubs (x : Src) : Res := x.excd (sat32 (sx x.a - sx x.b))
def rAbs (x : Src) : Res := x.excd (sat32 (sx x.a).natAbs)

/-! ## Scalar f32 (R156 to R158) -/

def rFadd (x : Src) : Res := x.fp (rne32s (FVal.add (fv x.a) (fv x.b)))
def rFsub (x : Src) : Res := x.fp (rne32s (FVal.add (fv x.a) (FVal.neg (fv x.b))))
def rFmul (x : Src) : Res := x.fp (rne32s (FVal.mul (fv x.a) (fv x.b)))
def rFmac (x : Src) : Res := x.fpD (rne32s (FVal.add (fv x.d) (FVal.mul (fv x.a) (fv x.b))))

/-- a below b, -0 below +0. -/
def fLess (a b : FVal) : Bool :=
  let c := FVal.cmp a b
  c == -1 || (c == 0 && a.sign && !b.sign)

def fPick (less : Bool) (x : Src) : Res :=
  if (fv x.a).isNan || (fv x.b).isNan then x.fp nanRes
  else x.plain (if less then x.a else x.b)

def rFmin (x : Src) : Res := fPick (fLess (fv x.a) (fv x.b)) x
def rFmax (x : Src) : Res := fPick (!fLess (fv x.a) (fv x.b)) x

def fCmp (x : Src) (p : Int → Bool) : Res :=
  x.cmp (!(fv x.a).isNan && !(fv x.b).isNan && p (FVal.cmp (fv x.a) (fv x.b)))

def rFcmpeq (x : Src) : Res := fCmp x (· == 0)
def rFcmplt (x : Src) : Res := fCmp x (· == -1)
def rFcmple (x : Src) : Res := fCmp x (fun c => c == 0 || c == -1)
def rExp2 (x : Src) : Res := x.fp (exp2R (fv x.a))
def rLog2 (x : Src) : Res := x.fp (log2R (fv x.a))
def rRcp (x : Src) : Res := x.fp (rcpR (fv x.a))
def rRsq (x : Src) : Res := x.fp (rsqR (fv x.a))

/-! ## Packed pairs (R159) -/

def lane (w : Word) (i : Nat) : Nat := bits w (16 * i + 15) (16 * i)

/-- Two lanes of a function of formats f, and the OR of their exceptions. -/
def lanes (f : FFmt) (g : FVal → FVal → FVal → FVal) (x : Src) : FRes :=
  let h := fun i => f.round false true (g (f.decode (lane x.d i)) (f.decode (lane x.a i)) (f.decode (lane x.b i)))
  ((h 0).1 + 2 ^ 16 * (h 1).1, (h 0).2 || (h 1).2)

def rBadd2 (x : Src) : Res := x.fp (lanes bf16 (fun _ a b => FVal.add a b) x)
def rBmul2 (x : Src) : Res := x.fp (lanes bf16 (fun _ a b => FVal.mul a b) x)
def rBmac2 (x : Src) : Res := x.fpD (lanes bf16 (fun d a b => FVal.add d (FVal.mul a b)) x)
def rHadd2 (x : Src) : Res := x.fp (lanes f16 (fun _ a b => FVal.add a b) x)
def rHmul2 (x : Src) : Res := x.fp (lanes f16 (fun _ a b => FVal.mul a b) x)
def rHmac2 (x : Src) : Res := x.fpD (lanes f16 (fun d a b => FVal.add d (FVal.mul a b)) x)

/-! ## Conversions (R160) -/

/-- A value rounded to an integer, ties to even, and clamped; NaN gives 0 and raises invalid conversion. -/
def cvtInt : FVal → Word × Bool
  | .nan => (0, true)
  | .inf s => (if s then BitVec.ofNat 32 2147483648 else BitVec.ofNat 32 2147483647, true)
  | .fin s m e => sat32 (FVal.toInt s (FFmt.onGrid m e 0))

def rCvtfi (x : Src) : Res := x.excd (cvtInt (fv x.a))

/-- A converted integer never raises (R160). -/
def rCvtif (x : Src) : Res := x.plain (wd (rne32 (FVal.ofInt (sx x.a))).1)

/-- Two narrowed values in one word. -/
def narrow2 (f : FFmt) (x : Src) : FRes :=
  let p := f.round false false (fv x.a)
  let q := f.round false false (fv x.b)
  (p.1 + 2 ^ 16 * q.1, p.2 || q.2)

def rCvtfb (x : Src) : Res := x.fp (narrow2 bf16 x)
def rCvtfh (x : Src) : Res := x.fp (narrow2 f16 x)

/-- A widened value: exact, the sign of a zero kept; a NaN raises. -/
def widenF (f : FFmt) (c : Nat) : FRes := rne32s (f.decode c)

def rCvtbf (x : Src) : Res := x.fp (widenF bf16 (lane x.a 0))
def rCvthf (x : Src) : Res := x.fp (widenF f16 (lane x.a 0))

/-- The funnel of cvtf4 and cvtf5: the new byte enters at bits [31:24]. -/
def funnel (f : FFmt) (sat : Bool) (x : Src) : FRes :=
  let p := rne8 (fv x.a) f sat
  (p.1 * 2 ^ 24 + x.b.toNat / 256, p.2)

def rCvtf4 (x : Src) : Res := x.fp (funnel e4m3 false x)
def rCvtf4s (x : Src) : Res := x.fp (funnel e4m3 true x)
def rCvtf5 (x : Src) : Res := x.fp (funnel e5m2 false x)
def rCvtf5s (x : Src) : Res := x.fp (funnel e5m2 true x)

def byteOf (w : Word) (n : Nat) : Nat := bits w (8 * n + 7) (8 * n)

def rCvt4f (x : Src) : Res := x.fp (widenF e4m3 (byteOf x.a (bits x.b 1 0)))
def rCvt5f (x : Src) : Res := x.fp (widenF e5m2 (byteOf x.a (bits x.b 1 0)))

/-! ## Immediates and constants (R153 to R155) -/

/-- IMM14 sign-extended. -/
def immS (i : BitVec 14) : Word := i.signExtend 32
/-- The shift amount IMM14[4:0]. -/
def immSh (i : BitVec 14) : Word := wd (bits i 4 0)
/-- The offset and width of bfxi and bfii, laid out as bfx reads its SB (R152, R153). -/
def immBf (i : BitVec 14) : Word := wd (bits i 10 5 * 256 + bits i 4 0)

/-- ldk (R154). -/
def rLdk (hs : BitVec 2) (v : BitVec 16) (x : Src) : Res :=
  if hs = 0 then ⟨(x.d &&& 0xFFFF0000) ||| v.zeroExtend 32, x.fd, false⟩
  else if hs = 1 then ⟨(x.d &&& 0x0000FFFF) ||| (v.zeroExtend 32 <<< 16), x.fd, false⟩
  else if hs = 2 then ⟨v.zeroExtend 32, false, false⟩
  else ⟨v.signExtend 32, false, false⟩

/-- ldkf (R154). -/
def rLdkf (v : BitVec 16) : Res :=
  let p := widenF bf16 v.toNat
  ⟨wd p.1, p.2, false⟩

end Sys2Proof.Machine
end

