-- ==== Sys2Proof/Machine/MemInstr.lean ====
section
/-! DEFINITION. Loads, stores, atomics, MDONE, the block-transfer window and the ring instructions
(spec/10_instr_channels_tiles_memory.md R166, R167, R180 to R187), the atomic engines (R183) and the sinks' log
(spec/09_instr_scalar_vector.md R162 to R164). -/

namespace Sys2Proof.Machine

/-! ## Addresses (R166) -/

def width (sz : BitVec 2) : Nat := 2 ^ sz.toNat

/-- The data-form offsets of the block-transfer window (R184). -/
def inWindow (off : Word) : Bool := decide (0xFFFF0000 ≤ off.toNat)

def isFar (f : FmtM) : Bool := bit f.aux 2

/-- The base of a pump whose BK is far (R166, R176). -/
def farBase (p : Pump) : Option Nat :=
  if bits (nthW p.words 0) 21 20 = 1 then
    some ((nthW p.words 1).toNat + 2 ^ 32 * bits (nthW p.words 2) 23 0) else none

/-- The virtual address of an access: data form or far form; a far form through a pump of another base kind is trap
0x0A3, a misaligned address trap 0x0A0 (R166). -/
def vaOf (f : FmtM) (j : Job) (off : Word) (s : State) : Except Stop Nat :=
  let w := width f.sz
  let base := if isFar f then farBase ((s.elem j.e).pump f.pms.toNat) else some (s.inst j.e.inst).img.dataBase
  match base with
  | none => trap0 0x0A3
  | some b =>
    let va := (b + off.toNat) % 2 ^ 56
    if va % w ≠ 0 then .error (.trap 0x0A0 va 0 0) else .ok va

/-- A data-form access in the window that is not the store the window takes is trap 0x0A8 (R166) (log 14), and so is a misaligned one (DESIGN CHOICE, log 63). -/
def notWindow (f : FmtM) (off : Word) : Except Stop Unit :=
  if !isFar f && inWindow off then trap0 0x0A8 else .ok ()

/-! ## Atomic engines (R183) -/

/-- The engine that owns a line: a region of the die that holds it, by any fixed function (log 8); a peer's engines are
numbered from 1,000. -/
def ownerOf (s : State) (key : Nat) : Nat :=
  let h := homeOfKey key
  let a := addrOfKey key
  let pick := if s.ownerTab = [] then 0 else s.ownerTab.getD (a / 64 % s.ownerTab.length) 0 % 24
  if h = 0 then a / 2 ^ 36 * 24 + pick
  else if h = 1 then a / 2 ^ 26 * 24 + pick
  else 1000 + h

/-- The port a request of region x and element el enters at (R183, R250). -/
def portOf (owner x el : Nat) : Nat :=
  if owner = x then el else if owner < 192 ∧ owner / 24 = x / 24 then 64 else 65

def State.engine (s : State) (g : Nat) : Engine := kget {} s.engines g
def State.modEngine (s : State) (g : Nat) (f : Engine → Engine) : State :=
  { s with engines := kset s.engines g (f (s.engine g)) }

/-- Two requests of one element, or of one wellhead command, whose order at a line is kept (R248, R251). -/
def sameSource : Req → Req → Bool
  | .wellhead r seq _, .wellhead r' seq' _ => r == r' && seq == seq'
  | a, b => a == b

/-- A request arrives at its port. Requests from other dies and parts may arrive in any order, but those of one source to one line
(R251): the part's choice says how many of the last to come at port 65 it precedes (log 8). -/
def enqueue (s : State) (eng : Nat) (r : EngReq) : State :=
  if r.port = 65 then
    let c := s.choose
    let passed := ((s.engine eng).reqs.reverse.takeWhile (fun x => !sameSource x.req r.req || x.key / 64 != r.key / 64)).take c.1
    c.2.modEngine eng (fun x =>
      { x with reqs := x.reqs.take (x.reqs.length - passed.length) ++ r :: x.reqs.drop (x.reqs.length - passed.length) })
  else s.modEngine eng (fun x => { x with reqs := x.reqs ++ [r] })

/-- Whether the engine serves an ordinary access: its line is hot, or a request to it is queued (R167, R183). -/
def engineHas (s : State) (eng key : Nat) : Bool :=
  (s.engine eng).hot.contains (key / 64) || (s.engine eng).reqs.any (fun r => r.key / 64 == key / 64)

/-- The part's own HBM4 and cisterns, and peers' HBM4, have atomic engines (R182, R183). -/
def hasEngine (l : Loc) : Bool := decide (l.home ≤ 2)

def extend (sext : Bool) (w : Nat) (v : Nat) : Word :=
  if sext ∧ 2 ^ (8 * w - 1) ≤ v then wd (v + (2 ^ 32 - 2 ^ (8 * w))) else wd v

def signedN (w v : Nat) : Int := if 2 ^ (8 * w - 1) ≤ v then (v : Int) - 2 ^ (8 * w) else v

/-- The new value of an atomic form over w bytes (R58, R182). -/
def atomNew (form w old : Nat) (b d : Word) : Nat :=
  let m := 2 ^ (8 * w)
  let bv := b.toNat % m
  match form with
  | 0 => (old + bv) % m
  | 1 => old &&& bv
  | 2 => old ||| bv
  | 3 => old ^^^ bv
  | 4 => if signedN w old ≤ signedN w bv then old else bv
  | 5 => if signedN w old ≤ signedN w bv then bv else old
  | 6 => bv
  | _ => if old = bv then d.toNat % m else old

/-- What the engine writes and whether it raised (R182, R258). -/
def engNew (op : EngOp) (w old : Nat) (b d : Word) : Nat × Bool :=
  match op with
  | .form f => (atomNew f w old b d, false)
  | .load _ => (old, false)
  | .store => (b.toNat % 2 ^ (8 * w), false)
  | .addF32 => rne32s (FVal.add (fv (wd old)) (fv b))
  | .addI32 => ((old + b.toNat) % 2 ^ 32, false)

/-! ## Returns to mi (R167) -/

def addRet (s : State) (e : ERef) (id : Nat) (tag : BitVec 2) (v : Option Word) : State :=
  s.modElem e (fun x => { x with rets := x.rets ++ [⟨id, tag, v⟩] })

def fillRet (s : State) (e : ERef) (id : Nat) (v : Word) : State :=
  s.modElem e (fun x =>
    { x with rets := x.rets.map (fun r => if r.id = id then { r with val := some v } else r)
             outst := x.outst.filter (· != id) })

def addOut (s : State) (e : ERef) (id : Nat) : State := s.modElem e (fun x => { x with outst := x.outst ++ [id] })

/-! ## Loads and stores (R180) -/

/-- An ordinary access of an element in physical region x is served by its line's engine: the line lies outside the issuer's die, or it is
hot there (R183, R250). -/
def served (s : State) (x : Nat) (l : Loc) : Bool :=
  hasEngine l && (portOf (ownerOf s l.key) x 0 == 65 || engineHas s (ownerOf s l.key) l.key)

/-- An ordinary access is asked of its line's engine. Where its page carries stamps, the race check is made as it is served, and, its trap
being precise (R290, R341), its slot keeps the datapath until then (DEDUCED, log 66). -/
def askEngine (j : Job) (l : Loc) (r : EngReq) (s : State) : Except Stop State :=
  let t := enqueue { s with fresh := s.fresh + 1 } (ownerOf s l.key) r
  let u := match r.op with
    | .load _ => addRet t j.e r.id r.tag none
    | _ => addOut t j.e r.id
  if l.stamped then .error (.keep (u.modElem j.e (fun x => { x with asked := some r.id }))) else .ok u

/-- The datum of a load: read now, or asked of its line's engine. -/
def loadAt (f : FmtM) (j : Job) (va : Nat) (s : State) : Except Stop State :=
  let q := elemRq s j.e j.slot 0
  let w := width f.sz
  let sext := bit f.aux 1
  match xlate s q va false with
  | .error e => .error e
  | .ok (l, s1) =>
    let x := s.physReg j.e.inst j.e.reg
    if served s x l then
      if hbQueued s q.hb l.key w false then .error .later
      else askEngine j l ⟨portOf (ownerOf s l.key) x j.e.el, .element j.e, s1.fresh, j.slot,
        .load sext, l.key, va, w, 0, 0, true, l.stamped, f.ot, l.log⟩ s1
    else
      match readAt q l va w s1 with
      | .error e => .error e
      | .ok (bs, s2) =>
        .ok (addRet { s2 with fresh := s2.fresh + 1 } j.e s2.fresh f.ot (some (extend sext w (leNat bs))))

/-- One exception record of a sink (R162 to R164): eight words, appended to the graph's log, COUNT after it, or counted in XDROP
where the launch names none; beyond CAP it is counted in LOST. -/
def logRecord (s : State) (g : Nat) (ws : List Word) : State :=
  let x := s.graph g
  if x.elog = 0 then s.modGraph g (fun x => { x with xdrop := min (x.xdrop + 1) 0xFFFFFFFF })
  else if x.xcap ≤ x.xcount then
    let lost := min (x.xlost + 1) 0xFFFFFFFF
    (frontWrite s g x.ctx [(x.elog + 4, leBytes 4 lost)] none).modGraph g (fun x => { x with xlost := lost })
  else
    (frontWrite s g x.ctx [(x.elog + 64 + 32 * x.xcount, bytesOfWords (ws.set 6 (wd x.xcount))),
      (x.elog, leBytes 4 (x.xcount + 1))] none).modGraph g (fun x => { x with xcount := x.xcount + 1 })

/-- The graph number of an access of the front end that is of no graph. -/
def noGraph : Nat := 2 ^ 32

/-- A write of a record to the graph's exception log that is not made yet (R163). -/
def holdsRecord (s : State) (gi : Nat) (f : FrontWrite) : Bool :=
  gi != noGraph && f.graph == gi && f.parts.any (fun q => decide ((s.graph gi).elog + 64 ≤ q.1))

/-- Records whose writes are not made, and of which one cannot be, or whose graph ends, are not written and do not count as written, so that
no later one leaves a place empty (R163). -/
def dropRecords (s : State) (gi : Nat) : State :=
  let gone := s.fronts.filter (fun p => holdsRecord s gi p.2)
  { s with
    fronts := s.fronts.filter (fun p => !holdsRecord s gi p.2)
    accs := s.accs.filter (fun a => !gone.any (fun p => a.req == Req.front p.1)) }.modGraph gi
      (fun x => { x with xcount := x.xcount - gone.length })

/-- What a sink has to log up to the first event that is not over is logged (R163). -/
def flushLog (s : State) (e : ERef) : State :=
  let ready := (s.elem e).logq.takeWhile (fun i => i.awaits.isNone)
  if ready = [] then s
  else
    let s1 := (widenElem s e .part).modElem e (fun x => { x with logq := x.logq.dropWhile (fun i => i.awaits.isNone) })
    ready.foldl (fun t i => i.recs.foldl (fun t ws => logRecord t (t.inst e.inst).graph ws) t) s1

/-- An event of a sink that is over is logged, after those issued before it (R163). -/
def logEvent (s : State) (e : ERef) (recs : List (List Word)) : State :=
  flushLog (s.modElem e (fun x => { x with logq := x.logq ++ [⟨none, recs⟩] })) e

/-- An event of a sink that runs: its records take their place when it is over. -/
def logLater (s : State) (e : ERef) (id : Nat) (recs : List (List Word)) : State :=
  s.modElem e (fun x => { x with logq := x.logq ++ [⟨some id, recs⟩] })

/-- The event of a number is over; `add` are records that its end gives. -/
def logOver (s : State) (e : ERef) (id : Nat) (add : List (List Word)) : State :=
  flushLog (s.modElem e (fun x =>
    { x with logq := x.logq.map (fun i => if i.awaits = some id then ⟨none, i.recs ++ add⟩ else i) })) e

/-- The event of a number does not come about: its place among the sink's events is free (R163). -/
def dropLog (s : State) (e : ERef) (id : Nat) : State :=
  flushLog (s.modElem e (fun x => { x with logq := x.logq.filter (fun i => i.awaits != some id) })) e

/-- w0 to w7 of a sink's record of a store (R162 KIND 0). -/
def storeRecord (s : State) (j : Job) (va : Nat) : List Word :=
  [coordOf j.e.reg j.e.el, wd (j.slot * 2 ^ 24),
    if (s.inst j.e.inst).img.clocked then (s.inst j.e.inst).icnt else 0,
    wd va, wd (va / 2 ^ 32), 0xFFFFFFFF, 0, 0]

def isSink (s : State) (e : ERef) : Bool :=
  match s.image e with
  | some g => g.sink
  | none => false

/-- A store of the low w bytes of a datum, or its request at the engine that holds its line; a sink logs a flagged one once the store
is performed at part scope (R161 to R163, R180). -/
def storeTo (f : FmtM) (j : Job) (va : Nat) (b : Word) (fb : Bool) (s : State) : Except Stop State :=
  let q := elemRq s j.e j.slot 0
  let w := width f.sz
  let bs := (bytesOfWord b).take w
  match xlate s q va true with
  | .error e => .error e
  | .ok (l, s1) =>
    let x := s.physReg j.e.inst j.e.reg
    let logs := fb && isSink s j.e
    let rec_ := storeRecord s j va
    if hbQueued s q.hb l.key w true then .error .later
    else if served s x l then
      let id := s1.fresh
      askEngine j l ⟨portOf (ownerOf s l.key) x j.e.el, .element j.e, id, j.slot, .store, l.key, va, w, b, 0, false, l.stamped, 0, l.log⟩
        (if logs then logLater s1 j.e id [rec_] else s1)
    else
      match raceCheck s1 q l.stamped va l.key w true with
      | .error e => .error e
      | .ok s2 =>
        let s3 := stored (storeAt s2 j.e q.die (keyed l.key bs)) q.ctx va w
        .ok (if logs then logEvent s3 j.e [rec_] else s3)

/-- The index register's offset of ldx and stx: a + sx(i) * w modulo 2^32 (R180). -/
def indexed (f : FmtM) (a i : Word) : Word := a + i * wd (width f.sz)

/-- .inc: the offset register advanced by the width, its flag kept (R180). -/
def incReg (f : FmtM) (j : Job) (s : State) : State :=
  if bit f.aux 0 then s.modElem j.e (fun x => x.setD f.sa.toNat (j.src.a + wd (width f.sz)) j.src.fa) else s

/-- A load at an offset. -/
def doLd (f : FmtM) (off : Word) (inc : Bool) : Work := fun j s =>
  match notWindow f off, vaOf f j off s with
  | .error e, _ => .error e
  | _, .error e => .error e
  | .ok _, .ok va =>
    match loadAt f j va s with
    | .error e => .error e
    | .ok s1 => .ok (noRes, if inc then incReg f j s1 else s1)

/-- An access whose slot waits until its engine has served it (R250, R341): it is not performed yet, or its work is over. -/
def afterAsked (j : Job) (s : State) (f : State → Except Stop (Res × State)) (done : State → State) : Except Stop (Res × State) :=
  match (s.elem j.e).asked with
  | none => f s
  | some id =>
    if (s.elem j.e).outstanding.contains id then .error .wait
    else .ok (noRes, done (s.modElem j.e (fun x => { x with asked := none })))

def wkLd (f : FmtM) (off : Word) (inc : Bool) : Work := fun j s =>
  afterAsked j s (fun s => doLd f off inc j s) (fun s => if inc then incReg f j s else s)

def workLd (f : FmtM) : Work := fun j s => wkLd f j.src.a true j s
def workLdx (f : FmtM) : Work := fun j s => wkLd f (indexed f j.src.a j.src.b) false j s

/-- Nothing is written to a destination register or channel. -/
def sinkNone (f : FmtM) : Sink := ⟨12, f.ot, 0, 0⟩

def execLd (f : FmtM) (s : State) : Out := runM f (.ld f) s (sinkNone f) (fun j => doLd f j.src.a true j)
def execLdx (f : FmtM) (s : State) : Out := runM f (.ldx f) s (sinkNone f) (fun j => doLd f (indexed f j.src.a j.src.b) false j)

def chanKey (die ch : Nat) : Nat := die * 64 + ch

/-- The store the window takes: it queues a copy on a channel of the issuing die (R184), and is performed when the channel accepts it,
so that a sink logs a flagged one then (R162). A copy that runs counts among the channel's 16 (DESIGN CHOICE, log 63). -/
def windowStore (f : FmtM) (j : Job) (off : Word) (s : State) : Except Stop State :=
  let ch := (off.toNat - 0xFFFF0000) / 16
  if f.sz ≠ 2 ∨ off.toNat % 16 ≠ 0 ∨ 64 ≤ ch then trap0 0x0A8
  else if j.src.b.toNat % 64 ≠ 0 then trap0 0x023
  else
    let die := s.dieOf j.e.inst j.e.reg
    let k := chanKey die ch
    let q := kget [] s.copies k
    if q.length < 16 then
      let job : CopyJob := ⟨.elem j.e j.slot, (s.inst j.e.inst).ctx, [j.src.b], 0, false, false, s.fresh, before s j.e⟩
      let s1 := { s with copies := kset s.copies k (q ++ [job]), fresh := s.fresh + 1 }
      let va := ((s.inst j.e.inst).img.dataBase + off.toNat) % 2 ^ 56
      .ok (if j.src.fb && isSink s j.e then logEvent s1 j.e [storeRecord s j va] else s1)
    else .error .wait

def doSt (f : FmtM) : Work := fun j s =>
  if !isFar f && inWindow j.src.a then
    match windowStore f j j.src.a s with
    | .error e => .error e
    | .ok s1 => .ok (noRes, incReg f j s1)
  else
    match vaOf f j j.src.a s with
    | .error e => .error e
    | .ok va =>
      match storeTo f j va j.src.b j.src.fb s with
      | .error e => .error e
      | .ok s1 => .ok (noRes, incReg f j s1)

def workSt (f : FmtM) : Work := fun j s => afterAsked j s (doSt f j) (incReg f j)

/-- stx: the index register is the one DST names; the window takes only st.w (R180, R184). -/
def doStx (f : FmtM) : Work := fun j s =>
  let off := indexed f j.src.a j.src.d
  match notWindow f off, vaOf f j off s with
  | .error e, _ => .error e
  | _, .error e => .error e
  | .ok _, .ok va =>
    match storeTo f j va j.src.b j.src.fb s with
    | .error e => .error e
    | .ok s1 => .ok (noRes, s1)

def workStx (f : FmtM) : Work := fun j s => afterAsked j s (doStx f j) id

/-- Sources of an instruction whose DST names a register it reads (R168): the result goes nowhere. -/
def runSrcM (f : FmtM) (ins : Instr) (s : State) (w : Work) : Out :=
  let x := s.curElem
  match fetch x s.curTrig s.curCoord f.dst f.sa f.sb (bit f.mod 1) (bit f.mod 0) with
  | .empty => .next (hold s)
  | .marker => .next (trapCur s 0x012 0 0)
  | .got src popped x1 =>
    .next (issueWork ⟨s.curSlot, s.curBeat, ins, src, popped, s.now⟩ s.cur (sinkNone f) w (s.setElem s.cur x1))

def execSt (f : FmtM) (s : State) : Out := runM f (.st f) s (sinkNone f) (doSt f)
def execStx (f : FmtM) (s : State) : Out := runSrcM f (.stx f) s (doStx f)

/-! ## Atomics (R182) -/

def wkAtom (f : FmtM) (ret : Bool) : Work := fun j s =>
  match notWindow { f with aux := 0 } j.src.a, vaOf { f with aux := 0 } j j.src.a s with
  | .error e, _ => .error e
  | _, .error e => .error e
  | .ok _, .ok va =>
    match xlate s (elemRq s j.e j.slot 1) va true with
    | .error e => .error e
    | .ok (l, s1) =>
      if hasEngine l = false then .error (.fatal 0x0A6 va 0 0)
      else
        let own := ownerOf s l.key
        let id := s1.fresh
        let s2 := enqueue { s1 with fresh := s1.fresh + 1 } own
          ⟨portOf own (s.physReg j.e.inst j.e.reg) j.e.el, .element j.e, id, j.slot, .form f.aux.toNat, l.key,
            va, width f.sz, j.src.b, j.src.d, ret, l.stamped, f.ot, l.log⟩
        .ok (noRes, if ret then addRet s2 j.e id f.ot none else addOut s2 j.e id)

def workAtom (f : FmtM) : Work := wkAtom f false
def workAtomr (f : FmtM) : Work := wkAtom f true

def execAtom (f : FmtM) (s : State) : Out := runSrcM f (.atom f) s (workAtom f)
def execAtomr (f : FmtM) (s : State) : Out := runSrcM f (.atomr f) s (workAtomr f)

/-- The first port with a request, searching upward from one past the last served and wrapping at 65 (R183). -/
def nextPort (e : Engine) : Option Nat :=
  ((List.range 66).map (fun i => (e.last + 1 + i) % 66)).find? (fun p => e.reqs.any (fun r => r.port == p))

/-- The element a requester belongs to. -/
def reqElem : Req → Option ERef
  | .element e => some e
  | .pump e _ => some e
  | _ => none

/-- A region's wellhead commands of a number changed. -/
def modWells (s : State) (rr : RRef) (seq : Nat) (f : WellCmd → WellCmd) : State :=
  s.modRegion rr (fun x => { x with wells := x.wells.map (fun c => if c.seq = seq then f c else c) })

/-- Some request of a requester is still at an engine. -/
def atEngine (s : State) (r : Req) : Bool := s.engines.any (fun p => p.2.reqs.any (fun x => x.req == r))

/-- The outcome of a SCAT add is the wellhead's: a raised event enters the command's exception (R258); the last add of a row that is
applied makes the row done (R259). -/
def scatEvent (s : State) (r : Req) (exc : Bool) : State :=
  match r with
  | .wellhead rr seq _ =>
    modWells s rr seq (fun c => { c with exc := c.exc || exc, done := if atEngine s r then c.done else c.done + 1 })
  | _ => s

/-- A command leaves its wellhead's queue. -/
def dropWell (s : State) (r : RRef) (seq : Nat) : State :=
  { s with wells := s.wells.map (fun p => (p.1, p.2.filter (fun x => x != (r, seq)))) }

/-- A SCAT add that fails: its command's record shows it (R342). -/
def scatFail (s : State) (r : Req) (cause : Nat) : State :=
  match r with
  | .wellhead rr seq _ => dropWell (modWells s rr seq (fun c => { c with state := 2, cause := cause })) rr seq
  | _ => s

/-- A wellhead command's handle (R255). -/
def wellHandle (reg seq : Nat) : Word := wd (0xA * 2 ^ 28 + reg * 2 ^ 16 + seq)

/-- The handle of the wellhead command that a request belongs to (R255, R348), 0 for an element's request. -/
def reqHandle : Req → Word
  | .wellhead rr seq _ => wellHandle rr.reg seq
  | _ => 0

/-- The element that issued a request of an engine. -/
def engIssuer (s : State) (r : EngReq) : ERef :=
  match r.req with
  | .element e => e
  | .pump e _ => e
  | .wellhead rr seq _ => ⟨rr.inst, rr.reg, (((s.region rr).wells.find? (fun c => c.seq == seq)).map WellCmd.el).getD 0⟩
  | _ => ⟨0, 0, 0⟩

/-- The request leaves the engine, which next looks past its port (R183). -/
def leaveEngine (s : State) (g : Nat) (r : EngReq) : State :=
  s.modEngine g (fun e => { e with last := r.port, reqs := removeFirst (fun x => x.port == r.port) e.reqs })

/-- The context of a request at an engine. -/
def reqCtx (s : State) : Req → Nat
  | .element e => (s.inst e.inst).ctx
  | .pump e _ => (s.inst e.inst).ctx
  | .wellhead rr _ _ => (s.inst rr.inst).ctx
  | _ => 0

/-- The bytes a request finds. -/
def engOld (s : State) (r : EngReq) : List Byte :=
  let bs := (List.range r.w).map (fun i => memGet s.mem (r.key + i))
  if s.unspec = [] then bs else freed s (reqCtx s r.req) r.va bs

/-- One request served: read, computed and written as one indivisible step. The line becomes hot; of the lines that are, the one served
longest ago goes where there would be 65 (R182; R183 says how many an engine holds and not which: DESIGN CHOICE, log 65). -/
def serveReq (s : State) (g : Nat) (r : EngReq) : State :=
  let s := widenWhere s (fun p => p.bytes.any (fun b => decide (r.key ≤ b.1) && decide (b.1 < r.key + r.w))) .system
  let old := leNat (engOld s r)
  let v := engNew r.op r.w old r.b r.d
  let s := match r.op with
    | .load _ => s
    | _ => stored (writeThrough s (keyed r.key (leBytes r.w v.1))) (reqCtx s r.req) r.va r.w
  let s := (leaveEngine s g r).modEngine g (fun e =>
    { e with hot := (r.key / 64 :: e.hot.filter (· != r.key / 64)).take 64 })
  let ret := match r.op with
    | .load sext => extend sext r.w old
    | _ => wd old
  match reqElem r.req with
  | some e => logOver (fillRet s e r.id ret) e r.id []
  | none => scatEvent s r.req v.2

/-- The race check of an element's ordinary access, made as its engine serves it (R289, R290): the access may go on, with its stamp set, or
why it may not. Atomics and the adds of a SCAT make none (R287). -/
def servedCheck (s : State) (r : EngReq) : Except Stop State :=
  match r.op, r.req with
  | .load _, .element e => raceCheck s (elemRq s e r.slot 0) r.stamped r.va r.key r.w false
  | .store, .element e => raceCheck s (elemRq s e r.slot 0) r.stamped r.va r.key r.w true
  | _, _ => .ok s

/-- A precise trap of an access that its engine does not perform: its pops are undone, and nothing of it is left (R341). -/
def servedTrap (s : State) (g : Nat) (r : EngReq) (e : ERef) (cause addr : Nat) (info info2 : Word) : State :=
  let popped := match (s.elem e).dp with
    | .work w => w.popped
    | _ => []
  let s1 := (leaveEngine s g r).modElem e (fun x =>
    { popped.reverse.foldl (fun y p => y.unpop p.1 p.2) x with
      asked := none, outst := x.outst.filter (· != r.id), rets := x.rets.filter (fun t => t.id != r.id) })
  trapAt (dropLog s1 e r.id) e r.slot cause 0 addr info info2

/-- A request that fails leaves its engine with its graph's fault; what its sink was to log of it is over (R162, R163). -/
def engineFail (s : State) (g : Nat) (r : EngReq) (cause : Nat) (info info2 : Word) : State :=
  let s1 := scatFail (leaveEngine s g r) r.req cause
  let s2 := match reqElem r.req with
    | some e => dropLog s1 e r.id
    | none => s1
  asyncFault s2 (engIssuer s r) r.slot 9 cause (reqHandle r.req) r.va info info2

/-- The home of a request is the memory of a peer that has lapsed since it was asked (R251). -/
def peerLost (s : State) (r : EngReq) : Bool :=
  let h := homeOfKey r.key
  decide (4 ≤ h) && decide (h < 4 + 16 * 64) && (s.group ((h - 4) / 64)).lapsed.contains ((h - 4) % 64)

/-- A request whose home is a peer that is not live any more (R251), one whose line ECC cannot correct (R340 0x0E0), one that races as it
is performed (R290), else one served. -/
def serveOrFail (s : State) (g : Nat) (r : EngReq) : State :=
  if peerLost s r then engineFail s g r 0x0B1 0 0
  else
    match badIn s r.key r.w, servedCheck s r with
    | some b, _ => engineFail s g r 0x0E0 (wd b.1) (wd b.2)
    | none, .error (.trap c a i k) => servedTrap s g r (engIssuer s r) c a i k
    | none, .error _ => serveReq s g r
    | none, .ok t => serveReq t g r

def execAtomicEngineServe (eng : Nat) (s : State) : Out :=
  match nextPort (s.engine eng) with
  | none => notNow "ATOMIC_ENGINE_SERVE"
  | some p =>
    match (s.engine eng).reqs.find? (fun r => r.port == p) with
    | none => notNow "ATOMIC_ENGINE_SERVE"
    | some r => .next (serveOrFail s eng r)

/-- A completion token of an engine: pushed onto mi, or held while mi is full, in order (R35). -/
def pushMi (s : State) (e : ERef) (t : Token) : State :=
  s.modElem e (fun x => if x.owed = [] ∧ x.inRoom 4 then x.pushIn 4 t else { x with owed := x.owed ++ [t] })

/-- An engine's work ends: the issuer's region releases, and the completion token is pushed (R280, R289). -/
def pushDone (s : State) (e : ERef) (t : Token) : State := pushMi (release s (s.physReg e.inst e.reg)).2 e t

/-- A return reaches mi when mi has a place: the oldest load's, once it is known, in issue order (R167), else a completion
token that was held (R35). Where both stand, the load's goes first, and tokens of different engines keep the order in which they were made
(DESIGN CHOICE, log 63). -/
def execLoadReturn (e : ERef) (s : State) : Out :=
  let x := s.elem e
  match x.rets.head?.bind Ret.val, x.rets, x.owed with
  | some v, r :: rs, _ =>
    when (x.inRoom 4) "LOAD_RETURN"
      (s.setElem e (Elem.pushIn { x with rets := rs } 4 ⟨v, r.tag, false, none, none⟩))
  | _, _, t :: ts => when (x.inRoom 4) "LOAD_RETURN" (s.setElem e (Elem.pushIn { x with owed := ts } 4 t))
  | _, _, _ => notNow "LOAD_RETURN"

/-! ## MDONE (R181, R284) -/

def doneOf (s : State) (e : ERef) : Option DoneDecl :=
  match s.image e with
  | some g => g.done
  | none => none

/-- An MDONE takes its count; its token is armed where the element has done wiring, with its set and its release (R181, R289). -/
def armMdone (s : State) (e : ERef) (tag : BitVec 2) : State :=
  let count (x : Elem) : Elem := { x with mdcnt := x.mdcnt + 1 }
  if (doneOf s e).isSome then
    let r := releaseAt s e.inst e.reg (before s e)
    r.2.modElem e (fun x =>
      { count x with mdq := x.mdq ++ [⟨x.mdcnt + 1, tag, x.outstanding, ownStores s e, r.1, []⟩] })
  else s.modElem e count

/-- The accesses of the element's pumps that have ended are performed (R181); a running pump's are not in the set. -/
def workMdone (f : FmtM) : Work := fun j s =>
  if bit f.aux 0 then
    if (s.elem j.e).outstanding = [] then
      let sc := match doneOf s j.e with
        | some d => d.scope
        | none => .system
      .ok (noRes, armMdone (widenElem s j.e sc) j.e f.ot)
    else .error .wait
  else .ok (noRes, armMdone s j.e f.ot)

def execMdone (f : FmtM) (s : State) : Out := runM f (.mdone f) s (sinkNone f) (workMdone f)

/-- The wires of an element's done tokens, by number behind the routes. -/
def wiresOf (s : State) (e : ERef) : List (Nat × Nat × Nat × Nat) :=
  let g := (s.inst e.inst).img
  ((List.range g.doneWires.length).zip g.doneWires).filterMap (fun p =>
    if p.2.1 = e.reg ∧ p.2.2.1 = e.el then some (g.routes.length + p.1, p.2.2.2.1, p.2.2.2.2.1, p.2.2.2.2.2) else none)

/-- Tokens in flight toward an input channel, on any route or done wire (R369). -/
def inFlightTo (s : State) (inst reg el c : Nat) : Nat :=
  let i := s.inst inst
  let rs := (List.range i.img.routes.length).zip i.img.routes
  let a := rs.foldl (fun n p =>
    if p.2.dstReg = reg ∧ p.2.dstEl = el ∧ p.2.inC = c then n + (kget [] i.flight p.1).length else n) 0
  let ws := (List.range i.img.doneWires.length).zip i.img.doneWires
  ws.foldl (fun n p =>
    if p.2.2.2.1 = reg ∧ p.2.2.2.2.1 = el ∧ p.2.2.2.2.2 = c then
      n + (kget [] i.flight (i.img.routes.length + p.1)).length else n) a

/-- A destination channel has a place once every token in flight toward it is counted (R369). -/
def destRoom (s : State) (inst reg el c : Nat) : Bool :=
  decide (((s.elem ⟨inst, reg, el⟩).chan c).length + inFlightTo s inst reg el c < 16)

/-- Copies of a done token leave on the wires whose destinations have room, each on its own (R181, R369): the wires they took. -/
def sendDone (inst : Nat) (t : Token) : List (Nat × Nat × Nat × Nat) → State → List Nat × State
  | [], s => ([], s)
  | w :: ws, s =>
    if destRoom s inst w.2.1 w.2.2.1 w.2.2.2 then
      let r := sendDone inst t ws (s.modInst inst (fun i => { i with flight := kset i.flight w.1 (kget [] i.flight w.1 ++ [t]) }))
      (w.1 :: r.1, r.2)
    else sendDone inst t ws s

/-- The done token of the oldest armed MDONE leaves once its set is performed at the `.done` scope, a copy to each destination as that has
room (R181). -/
def execMdoneToken (e : ERef) (s : State) : Out :=
  let x := s.elem e
  match x.mdq, doneOf s e with
  | m :: ms, some d =>
    let ws := (wiresOf s e).filter (fun w => !m.sent.contains w.1)
    let r := sendDone e.inst ⟨m.count, m.tag, false, none, some m.rel⟩ ws (widenIds s m.stores d.scope)
    when (m.ops.all (fun o => !x.outstanding.contains o) && (ws == [] || r.1 != [])) "MDONE_TOKEN"
      (r.2.modElem e (fun y => { y with mdq := if r.1.length = ws.length then ms else { m with sent := m.sent ++ r.1 } :: ms }))
  | _, _ => notNow "MDONE_TOKEN"

/-! ## Ring objects (R186, R187) -/

/-- The ring logic's accesses: they neither check nor set stamps (log 10). -/
def ringRq (j : Job) (s : State) : Rq := { jobRq j s with charge := none }

/-- A ring object's header: its words, or trap 0x0A4 where it breaks R186 or does not stand at cistern level. A HEAD, ACQ or TAIL of 2^31
or more breaks nothing (DESIGN CHOICE, log 63). A header that has been read is not looked up again after a hold (R267). -/
def ringHeader (q : Rq) (va : Nat) (s : State) : Except Stop (List Word × State) :=
  match (if (taped s).isSome then .ok 1 else (placeAt s q va false).map Loc.home) with
  | .error e => .error e
  | .ok (home : Nat) =>
    if home ≠ 1 then trap0 0x0A4
    else
      match readWords q va 16 s with
      | .error e => .error e
      | .ok (ws, s1) =>
        let w0 := nthW ws 0
        if bits w0 31 24 = 0x9E ∧ bits w0 23 5 = 0 ∧ bits w0 4 0 ≤ 16 ∧ (ws.drop 4).all (· == 0) then .ok (ws, s1)
        else trap0 0x0A4

def ringN (ws : List Word) : Nat := 2 ^ bits (nthW ws 0) 4 0
/-- The address of record n (R186). -/
def recVA (va : Nat) (ws : List Word) (n : Nat) : Nat := va + 64 + 16 * (n % ringN ws)

/-- n lies in [tail, acq) of counts modulo 2^31 (R187). -/
def inRing (ws : List Word) (n : Nat) : Bool :=
  let m := 2 ^ 31
  let acq := (nthW ws 2).toNat
  let tail := (nthW ws 3).toNat
  decide (n < m) && decide ((n + m - tail) % m < (acq + m - tail) % m)

/-- A RAWAIT of another element of the context waits on the ring, and came before: the ring logic serves requests in arrival order, those
of one cycle by logical region, then by EY × 8 + EX (R186). -/
def rawaitBefore (s : State) (j : Job) (va since : Nat) : Bool :=
  s.elems.any (fun p =>
    p.1 != j.e && (s.inst p.1.inst).ctx == (s.inst j.e.inst).ctx && (s.inst p.1.inst).status == .running &&
    (match p.2.dp with
     | .work w =>
       (match w.ins with
        | .rawait _ => dataVA s p.1.inst w.src.a.toNat == va && (w.since < since || (w.since == since && actKey p.1 < actKey j.e))
        | _ => false)
     | _ => false))

/-- When a waiting instruction of the element came, now where it has just been issued. -/
def sinceOf (s : State) (e : ERef) : Nat :=
  match (s.elem e).dp with
  | .work w => w.since
  | _ => s.now

/-- The ring that a requester works on: an element's rawait, rrel or rget, or a copy that is writing its record (R186). -/
def ringOf (s : State) : Req → Option (Nat × Nat)
  | .element e =>
    match (s.elem e).dp with
    | .work w =>
      match w.ins with
      | .rawait _ | .rrel _ | .rget _ => some ((s.inst e.inst).ctx, dataVA s e.inst w.src.a.toNat)
      | _ => none
    | _ => none
  | .copy die ch => (kget [] s.copies (chanKey die ch)).head?.bind (fun j => if j.written then some (j.ctx, j.ring) else none)
  | _ => none

/-- A request of the ring is under way: an access of it is held after others were made. The ring logic serves one at a time (R186, R267). -/
def ringLocked (s : State) (ctx va : Nat) (r : Req) : Bool :=
  s.journals.any (fun p => p.1 != r && ringOf s p.1 == some (ctx, va))

/-- A request of the ring logic has its turn, or has begun. -/
def ringTurn (s : State) (q : Rq) (e : ERef) (va : Nat) : Bool :=
  s.tape.isSome || (s.inTurn (.ring q.ctx va) (actKey e) && !ringLocked s q.ctx va q.req)

def wkRawait (f : FmtM) : Work := fun j s =>
  match aligned j.src.a 64 with
  | .error e => .error e
  | .ok _ =>
    let q := ringRq j s
    let va := dataVA s j.e.inst j.src.a.toNat
    let ring : Arena := .ring q.ctx va
    match ringHeader q va s with
    | .error e => .error e
    | .ok (ws, s1) =>
      if ringTurn s q j.e va = false then .error .wait
      else if nthW ws 1 = nthW ws 2 then
        if bit f.aux 0 then .ok (word 0xFFFFFFFF, s1.act ring (actKey j.e)) else .error .wait
      else if rawaitBefore s j va (sinceOf s j.e) then .error .wait
      else
        let n := (nthW ws 2).toNat
        match writeWord q (va + 8) (wd ((n + 1) % 2 ^ 31)) s1 with
        | .error e => .error e
        | .ok s2 =>
          let rel := (s2.ringRels.find? (fun p => p.1 == (q.ctx, recVA va ws n))).map Prod.snd
          .ok (word (wd n), acquireOptAt (s2.act ring (actKey j.e)) j.e rel)

def workRawait (f : FmtM) : Work := fun j => wkRawait f j

def execRawait (f : FmtM) (s : State) : Out := runM f (.rawait f) s (sinkM f) (workRawait f)

/-- Released records at the tail are freed (R187 rrel's loop), at most NREC of them. -/
def rrelLoop (q : Rq) (va : Nat) (ws : List Word) : Nat → Nat → State → Except Stop (Nat × State)
  | 0, tail, s => .ok (tail, s)
  | k + 1, tail, s =>
    if tail = (nthW ws 2).toNat then .ok (tail, s)
    else
      match readWords q (recVA va ws tail + 4) 1 s with
      | .error e => .error e
      | .ok (rw, s1) =>
        if bit (nthW rw 0) 31 then
          match writeWord q (recVA va ws tail + 4) (nthW rw 0 &&& 0x7FFFFFFF) s1 with
          | .error e => .error e
          | .ok s2 => rrelLoop q va ws k ((tail + 1) % 2 ^ 31) s2
        else .ok (tail, s1)

def wkRrel : Work := fun j s =>
  match aligned j.src.a 64 with
  | .error e => .error e
  | .ok _ =>
    let q := ringRq j s
    let va := dataVA s j.e.inst j.src.a.toNat
    let ring : Arena := .ring q.ctx va
    match ringHeader q va s with
    | .error e => .error e
    | .ok (ws, s1) =>
      let n := j.src.b.toNat
      if ringTurn s q j.e va = false then .error .wait
      else if inRing ws n then
        match readWords q (recVA va ws n + 4) 1 s1 with
        | .error e => .error e
        | .ok (rw, s2) =>
          if bit (nthW rw 0) 31 then trap0 0x0A5
          else
            match writeWord q (recVA va ws n + 4) (nthW rw 0 ||| 0x80000000) s2 with
            | .error e => .error e
            | .ok s3 =>
              match rrelLoop q va ws (ringN ws) (nthW ws 3).toNat s3 with
              | .error e => .error e
              | .ok (tail, s4) =>
                match writeWord q (va + 12) (wd tail) s4 with
                | .error e => .error e
                | .ok s5 => .ok (noRes, s5.act ring (actKey j.e))
      else trap0 0x0A5

def workRrel (_ : FmtM) : Work := fun j => wkRrel j

def execRrel (f : FmtM) (s : State) : Out := runM f (.rrel f) s (sinkM f) (workRrel f)

def wkRget (f : FmtM) : Work := fun j s =>
  match aligned j.src.a 64 with
  | .error e => .error e
  | .ok _ =>
    let q := ringRq j s
    let va := dataVA s j.e.inst j.src.a.toNat
    let ring : Arena := .ring q.ctx va
    match ringHeader q va s with
    | .error e => .error e
    | .ok (ws, s1) =>
      let n := j.src.b.toNat
      if ringTurn s q j.e va = false then .error .wait
      else if inRing ws n then
        match readWords q (recVA va ws n) 4 s1 with
        | .error e => .error e
        | .ok (rw, s2) =>
          .ok (word (nthW rw (bits f.aux 1 0)), s2.act ring (actKey j.e))
      else .ok (⟨0, true, false⟩, s1.act ring (actKey j.e))

def workRget (f : FmtM) : Work := fun j => wkRget f j

def execRget (f : FmtM) (s : State) : Out := runM f (.rget f) s (sinkM f) (workRget f)

end Sys2Proof.Machine
end

