-- ==== Sys2Proof/Machine/Tile.lean ====
section
/-! DEFINITION. Tile handles and tile tables (spec/06_block_tensors.md R98 to R104, spec/10 R170 to R175, R370) and the
pumps (spec/10 R176 to R179, spec/06 R105 to R107). -/

namespace Sys2Proof.Machine

/-! ## Handles (R98, R104) -/

def hLvl (h : Word) : Nat := bits h 31 30
def hGen (h : Word) : Nat := bits h 29 24
def hPlace (h : Word) : Nat := bits h 23 16
def hElem (h : Word) : Nat := bits h 15 10
def hSlot (h : Word) : Nat := bits h 9 0

def specLvl (w : Word) : Nat := bits w 31 30
def specFmt (w : Word) : Nat := bits w 29 26
def specRows (w : Word) : Nat := 32 * (bits w 13 7 + 1)
def specCols (w : Word) : Nat := 32 * (bits w 6 0 + 1)
/-- A spec word's reserved fields are clear (R170, R171). -/
def specOk (w : Word) : Bool := decide (specLvl w ≤ 2) && decide (specFmt w ≤ 10) && bits w 25 14 == 0
def specBytes (w : Word) : Nat :=
  match EFmt.ofCode (specFmt w) with
  | none => 0
  | some f => f.bytes (specRows w * specCols w)

/-- The tile table a handle's level and place name: a region's, or a C-die's from 192 (R100). -/
def tabOf (s : State) (inst lvl place : Nat) : Nat :=
  if lvl = 2 then 192 + s.physDie inst place else s.physReg inst place

/-- PLACE and ELEM name something in the running stage (R104). -/
def placeOk (g : StageImage) (lvl place el : Nat) : Bool :=
  if lvl = 0 then (g.elemImage place el).isSome
  else if lvl = 1 then g.regions.any (fun r => r.reg == place) && el == 0
  else if lvl = 2 then g.regions.any (fun r => r.reg / 24 == place) && el == 0
  else false

/-- The entry a handle names, whatever its state. -/
def entryOf (s : State) (inst : Nat) (h : Word) : Nat × Nat := (tabOf s inst (hLvl h) (hPlace h), hSlot h)

/-- A handle that names an entry of this generation in a state accepted (R104). A handle whose LVL is not the level of the entry it
names is none of R104's cases: it is taken as stale (DESIGN CHOICE, log 58). -/
def handleIn (s : State) (inst : Nat) (h : Word) (pendingToo : Bool) : Bool :=
  let t := s.tile (entryOf s inst h)
  placeOk (s.inst inst).img (hLvl h) (hPlace h) (hElem h) && t.gen == hGen h && specLvl t.spec == hLvl h &&
  (t.state == .allocated || (pendingToo && t.state == .pending))

def live (s : State) (inst : Nat) (h : Word) : Bool := handleIn s inst h false

/-- The entry of a live handle, else trap 0x020. -/
def needTile (s : State) (inst : Nat) (h : Word) : Except Stop (Nat × Nat) :=
  if live s inst h then .ok (entryOf s inst h) else trap0 0x020

def addUse (s : State) (t : Nat × Nat) : State := s.modTile t (fun x => { x with uses := x.uses + 1 })
def dropUse (s : State) (t : Nat × Nat) : State := s.modTile t (fun x => { x with uses := x.uses - 1 })

/-- The entry returns to free, its generation incremented modulo 64 (R100). -/
def freeEntry (s : State) (t : Nat × Nat) : State :=
  s.modTile t (fun x => { x with state := .free, gen := (x.gen + 1) % 64, f := false, fset := false, rel := none })

/-! ## Storage (R99) -/

def share (bytes : Nat) : Nat := (ceilDiv bytes 64 + 63) / 64 * 64

/-- Entries of a table that hold storage. -/
def heldTiles (s : State) (tab : Nat) : List Tile :=
  (s.tiles.filter (fun p => p.1.1 == tab && p.2.state != .free)).map Prod.snd

/-- Bytes of an element's SRAM in use: its element-level tiles and its shares of the region's. -/
def elemUsed (s : State) (tab el : Nat) : Nat :=
  (heldTiles s tab).foldl (fun n t =>
    if specLvl t.spec = 1 then n + share t.size else if t.el = el then n + t.size else n) 0

/-- Bytes of a die's cistern in use by tiles and by the cistern data of placed stages (R99). -/
def cisternUsed (s : State) (die : Nat) : Nat :=
  let a := (heldTiles s (192 + die)).foldl (fun n t => n + t.size) 0
  s.insts.foldl (fun n p =>
    if p.2.status = .running then
      p.2.img.objs.foldl (fun n o =>
        match o.level with
        | .cistern d => if s.physDie p.1 d = die then n + o.contents.length else n
        | _ => n) n
    else n) a

def cisternSize (die : Nat) : Nat := if die = 0 ∨ die = 4 then 62 * 2 ^ 20 else 64 * 2 ^ 20

/-- A tile of a level and size fits its storage (R99). -/
def fits (s : State) (tab lvl el size : Nat) : Bool :=
  if lvl = 0 then decide (elemUsed s tab el + size ≤ 2 ^ 19)
  else if lvl = 1 then (List.range 64).all (fun e => decide (elemUsed s tab e + share size ≤ 2 ^ 19))
  else decide (cisternUsed s (tab - 192) + size ≤ cisternSize (tab - 192))

/-- A free entry of a table, the oracle's choice among them (R100, log 8). -/
def freeSlot (s : State) (tab : Nat) : Option (Nat × State) :=
  let fs := (List.range 1024).filter (fun k => (s.tile (tab, k)).state == .free)
  if fs = [] then none
  else
    let c := s.choose
    some (pickRound 0 fs c.1, c.2)

def handleWord (lvl gen place el slot : Nat) : Word :=
  wd (lvl * 2 ^ 30 + gen * 2 ^ 24 + place * 2 ^ 16 + el * 2 ^ 10 + slot)

/-- A tile allocated: zero-filled, F := 0, its entry's current GEN in the handle (R171). Where the table is full and the storage is too small
as well the spec gives the two traps no order: 0x022 comes before 0x02E (R104; DESIGN CHOICE, log 67). -/
def allocTile (s : State) (inst reg el : Nat) (spec : Word) : Except Stop (Word × State) :=
  let lvl := specLvl spec
  let place := if lvl = 2 then reg / 24 else reg
  let tab := tabOf s inst lvl place
  match freeSlot s tab with
  | none => trap0 0x022
  | some (k, s1) =>
    let size := specBytes spec
    if fits s1 tab lvl el size then
      let gen := (s1.tile (tab, k)).gen
      let s2 := s1.modTile (tab, k) (fun x =>
        { x with state := .allocated, spec := spec, size := size, inst := inst, reg := reg
                 el := if lvl = 0 then el else 0, bank := Config.freeBank s1.fresh, stripe := Config.freeStripe s1.fresh, uses := 0, f := false, fset := false
                 rel := none })
      .ok (handleWord lvl gen place (if lvl = 0 then el else 0) k,
        { s2 with mem := memClear s2.mem (tileKey tab k 0) size, fresh := s2.fresh + 1 })
    else trap0 0x02E

/-! ## talloc, tfree, tcfg, tqry (R171 to R174) -/

/-- A request of an element at a table takes its turn in the order of its cycle (R103). -/
def atTable {α : Type} (e : ERef) (tab : Nat) (s : State) (r : Except Stop (α × State)) : Except Stop (α × State) :=
  if s.inTurn (.table tab) (tableKey e.el) then
    match r with
    | .ok (a, t) => .ok (a, t.act (.table tab) (tableKey e.el))
    | .error x => .error x
  else .error .wait

def workTalloc (_ : FmtM) : Work := fun j s =>
  if specOk j.src.a then
    let place := if specLvl j.src.a = 2 then j.e.reg / 24 else j.e.reg
    atTable j.e (tabOf s j.e.inst (specLvl j.src.a) place) s
      (match allocTile s j.e.inst j.e.reg j.e.el j.src.a with
       | .error e => .error e
       | .ok (h, s1) => .ok (word h, s1))
  else trap0 0x024

def execTalloc (f : FmtM) (s : State) : Out := runM f (.talloc f) s (sinkM f) (workTalloc f)

def workTfree (_ : FmtM) : Work := fun j s =>
  let t := entryOf s j.e.inst j.src.a
  atTable j.e t.1 s <|
  if live s j.e.inst j.src.a then
    .ok (noRes, if (s.tile t).uses = 0 then freeEntry s t else s.modTile t (fun x => { x with state := .pending }))
  else if handleIn s j.e.inst j.src.a true then .ok (noRes, s)
  else trap0 0x020

def execTfree (f : FmtM) (s : State) : Out := runM f (.tfree f) s (sinkM f) (workTfree f)

/-- tcfg: its result is SA, flag and all (R32, R173). 0x024 is tested before 0x02E (DESIGN CHOICE, log 63). -/
def workTcfg (_ : FmtM) : Work := fun j s =>
  let t := entryOf s j.e.inst j.src.a
  let x := s.tile t
  atTable j.e t.1 s <|
  if handleIn s j.e.inst j.src.a true = false then trap0 0x020
  else if x.uses ≠ 0 ∨ x.state = .pending then trap0 0x021
  else if specOk j.src.b = false then trap0 0x024
  else if specLvl j.src.b ≠ specLvl x.spec ∨ x.size < specBytes j.src.b then trap0 0x02E
  else .ok (⟨j.src.a, j.src.fa, false⟩, s.modTile t (fun x => { x with spec := j.src.b, f := false }))

def execTcfg (f : FmtM) (s : State) : Out := runM f (.tcfg f) s (sinkM f) (workTcfg f)

/-- tqry's value; a stale handle reads 0 in every field but state, which reads 2 for a free-pending one (R174). -/
def tqryValue (s : State) (inst : Nat) (h : Word) (field : Nat) : Word :=
  let x := s.tile (entryOf s inst h)
  if field = 1 then (if live s inst h then 1 else if handleIn s inst h true then 2 else 0)
  else if live s inst h then
    match field with
    | 0 => x.spec
    | 2 => wd x.uses
    | 3 => bw x.f
    | _ => wd (specBytes x.spec)
  else 0

def workTqry (f : FmtM) : Work := fun j s =>
  atTable j.e (entryOf s j.e.inst j.src.a).1 s (.ok (word (tqryValue s j.e.inst j.src.a f.aux.toNat), s))

def execTqry (f : FmtM) (s : State) : Out := runM f (.tqry f) s (sinkM f) (workTqry f)

/-! ## tld and tst (R175) -/

/-- A tile access, checked under R286 to R290 and R362 when it issues; a tile has no virtual address for a record to name (R348). -/
def tileRace (s : State) (q : Rq) (t : Nat × Nat) (off n : Nat) (wr : Bool) : Except Stop State :=
  match (if wr then none else badIn s (tileKey t.1 t.2 off) n) with
  | some b => .error (.fatal 0x0E0 0 (wd b.1) (wd b.2))
  | none =>
    match q.charge with
    | none => .ok s
    | some x => raceAll q x (fun _ => 0) wr (granules (tileKey t.1 t.2 off) n) s

def queueTile (s : State) (t : Nat × Nat) (r : TileReq) : State :=
  addUse { s with tileReqs := kset s.tileReqs t.1 (kget [] s.tileReqs t.1 ++ [r]) } t

/-- The entry that a tld or tst names: of a live handle, or the one that it has been using while it waited on F (R101, R104). -/
def accessTile (s : State) (j : Job) : Except Stop (Nat × Nat) :=
  if (s.elem j.e).waitUse.isSome then .ok (entryOf s j.e.inst j.src.a) else needTile s j.e.inst j.src.a

/-- A wait on F uses the handle from its beginning on, and takes the access's turn at the table then (R101, R103). -/
def waitOnF (s : State) (e : ERef) (t : Nat × Nat) : Stop :=
  if (s.elem e).waitUse.isSome then .wait
  else .keep (((addUse s t).act (.table t.1) (tableKey e.el)).modElem e (fun x => { x with waitUse := some t }))

/-- The wait on F is over. -/
def dropWaitUse (s : State) (e : ERef) : State :=
  match (s.elem e).waitUse with
  | none => s
  | some t => (dropUse s t).modElem e (fun x => { x with waitUse := none })

/-- F of a tile may still change by what the element itself has asked before, or by a set that is due: its tests of F come after that
(R175, R370). -/
def tagOpen (s : State) (e : ERef) (t : Nat × Nat) : Bool :=
  (s.tile t).fset || (kget [] s.tileReqs t.1).any (fun r => r.e == e && r.entry == t.2 && (r.setTag || r.clrTag))

/-- tld: with .wf it acquires the release behind F before its access is checked (R280, R289). -/
def workTld (f : FmtM) : Work := fun j s =>
  atTable j.e (entryOf s j.e.inst j.src.a).1 s <|
  match accessTile s j with
  | .error e => .error e
  | .ok t =>
    let x := s.tile t
    let i := j.src.b.toNat
    if specBytes x.spec / 4 ≤ i then trap0 0x02F
    else if bit f.aux 1 ∧ (x.f = false ∨ tagOpen s j.e t = true) then .error (waitOnF s j.e t)
    else
      let s0 := dropWaitUse s j.e
      let s1 := if bit f.aux 1 then acquireOptAt s0 j.e x.rel else s0
      match tileRace s1 (elemRq s1 j.e j.slot 0) t (4 * i) 4 false with
      | .error e => .error e
      | .ok s2 =>
        let id := s2.fresh
        .ok (noRes, addRet (queueTile { s2 with fresh := s2.fresh + 1 } t
          ⟨j.e, s.now, id, j.slot, false, t.2, i, 0, false, bit f.aux 0, []⟩) j.e id f.ot none)

def execTld (f : FmtM) (s : State) : Out := runM f (.tld f) s (sinkNone f) (workTld f)

/-- tst: its word index is the register DST names (R168, R175). -/
def workTst (f : FmtM) : Work := fun j s =>
  atTable j.e (entryOf s j.e.inst j.src.a).1 s <|
  match accessTile s j with
  | .error e => .error e
  | .ok t =>
    let x := s.tile t
    let i := j.src.d.toNat
    if specBytes x.spec / 4 ≤ i then trap0 0x02F
    else if bit f.aux 1 ∧ (x.f = true ∨ tagOpen s j.e t = true) then .error (waitOnF s j.e t)
    else
      let s0 := dropWaitUse s j.e
      match tileRace s0 (elemRq s0 j.e j.slot 0) t (4 * i) 4 true with
      | .error e => .error e
      | .ok s1 =>
        let id := s1.fresh
        .ok (noRes, addOut (queueTile { s1 with fresh := s1.fresh + 1 } t
          ⟨j.e, s.now, id, j.slot, true, t.2, i, j.src.b, bit f.aux 0, false, if bit f.aux 0 then before s1 j.e else []⟩) j.e id)

def execTst (f : FmtM) (s : State) : Out := runSrcM f (.tst f) s (workTst f)

/-- The request a table serves next: the earliest, and of one cycle the lowest element (R103). -/
def nextTileReq (rs : List TileReq) : Option TileReq :=
  (sortBy (fun (a b : TileReq) => a.at_ < b.at_ || (a.at_ == b.at_ && a.e.el < b.e.el)) rs).head?

/-- One request performed at its table (R175, R370). Its race check was made as it issued: a table performs its requests as they reached it,
and an engine's access comes behind them (R103), so that no write comes between. A line that has gone bad since faults (R340). -/
def serveTile (s : State) (tab : Nat) (r : TileReq) : State :=
  let t := (tab, r.entry)
  let k := tileKey tab r.entry (4 * r.index)
  let s := { s with tileReqs := kset s.tileReqs tab (removeFirst (fun x => x.id == r.id) (kget [] s.tileReqs tab)) }
  let s := dropUse s t
  if r.write then
    let s := writeThrough s (keyed k (bytesOfWord r.data))
    fillRet (if r.setTag then
      s.modTile t (fun x => { x with fset := true, fReg := s.physReg r.e.inst r.e.reg, fDeps := r.hb }) else s) r.e r.id 0
  else
    match badIn s k 4 with
    | some b => asyncFault s r.e r.slot 0 0x0E0 0 0 (wd b.1) (wd b.2)
    | none =>
      let v := wd (leNat (readBytes s (s.agentOf r.e) k 4))
      fillRet (if r.clrTag then s.modTile t (fun x => { x with f := false }) else s) r.e r.id v

/-- Requests stand at a tile table: an engine's access comes after them, in the order in which they reached it, elements first (R103). -/
def tableBusy (s : State) (tab : Nat) : Bool := !(kget [] s.tileReqs tab).isEmpty

/-- No request stands at the tables of some handles. -/
def tablesFree (s : State) (inst : Nat) (hs : List Word) : Bool := hs.all (fun h => !tableBusy s (entryOf s inst h).1)

/-- An engine's access of a tile, checked under R287, in its turn behind the requests at the table (R103). -/
def engineTile (q : Rq) (t : Nat × Nat) (off n : Nat) (wr : Bool) (s : State) : Except Stop State :=
  if tableBusy s t.1 then .error .later else tileRace s q t off n wr

def execTileTableServe (tab : Nat) (s : State) : Out :=
  match nextTileReq (kget [] s.tileReqs tab) with
  | none => notNow "TILE_TABLE_SERVE"
  | some r => .next (serveTile s tab r)

/-- F := 1 after a tst.set is performed, or a filling; the tag carries the release of the region that set it, with what came before the set
(R280, R370). -/
def setFull (s : State) (t : Nat × Nat) (x : Nat) (deps : List Dep) : State :=
  let r := release s x
  r.2.modTile t (fun y =>
    { y with f := true, fset := false, fDeps := [], rel := some { r.1 with deps := deps.filter (depOpen s) }, fills := y.fills + 1 })

def execTileFullSet (tab slot : Nat) (s : State) : Out :=
  let x := s.tile (tab, slot)
  when x.fset "TILE_FULL_SET" (setFull s (tab, slot) x.fReg x.fDeps)

def execTileEntryFree (tab slot : Nat) (s : State) : Out :=
  let x := s.tile (tab, slot)
  when (x.state == .pending && x.uses == 0) "TILE_ENTRY_FREE" (freeEntry s (tab, slot))

/-! ## Pumps (R176 to R179) -/

namespace PumpCfg
def mode (ws : List Word) : Nat := bits (nthW ws 0) 23 22
def bk (ws : List Word) : Nat := bits (nthW ws 0) 21 20
def sz (ws : List Word) : Nat := bits (nthW ws 0) 19 18
def tag (ws : List Word) : BitVec 2 := BitVec.ofNat 2 (bits (nthW ws 0) 17 16)
def bound (ws : List Word) (k : Nat) : Nat :=
  (if k % 2 = 0 then bits (nthW ws (3 + k / 2)) 15 0 else bits (nthW ws (3 + k / 2)) 31 16) + 1
def stride (ws : List Word) (k : Nat) : Int := sx (nthW ws (5 + k))
def th (ws : List Word) : Word := nthW ws 9
def iters (ws : List Word) : Nat := bound ws 0 * bound ws 1 * bound ws 2 * bound ws 3
/-- The unit the base and the strides are multiples of. -/
def unit (ws : List Word) : Nat := if mode ws = 0 then 2 ^ sz ws else if mode ws = 3 then 64 else 4
/-- B3 replaced (R178 PGO). -/
def setB3 (ws : List Word) (n : Nat) : List Word :=
  ws.set 4 (wd ((n - 1) * 2 ^ 16 + bits (nthW ws 4) 15 0))
end PumpCfg

/-- The least and the greatest of the offsets a run reaches (R176). -/
def reach (ws : List Word) : Int × Int :=
  (List.range 4).foldl (fun r k =>
    let x := PumpCfg.stride ws k * ((PumpCfg.bound ws k : Int) - 1)
    (r.1 + min x 0, r.2 + max x 0)) (0, 0)

/-- A descriptor meets R176. With BK 10, whose BASE0 is a handle, it is the byte offset BASE1 that is to be a multiple of the unit
(log 59). The shape tests of a PCFG whose TH or BASE handle is stale are made on whatever the entry then holds (DESIGN CHOICE, log 63: R178
gives 0x020 at PGO). -/
def pumpOk (s : State) (inst : Nat) (ws : List Word) : Bool :=
  let m := PumpCfg.mode ws
  let u := PumpCfg.unit ws
  let thRows := specRows (s.tile (entryOf s inst (PumpCfg.th ws))).spec
  bits (nthW ws 0) 31 24 == 0x9D && bits (nthW ws 0) 15 0 == 0 && decide (PumpCfg.bk ws ≤ 2) &&
  (if m = 0 then decide (PumpCfg.sz ws ≤ 2) else PumpCfg.sz ws == 2 && decide (PumpCfg.bk ws ≤ 1)) &&
  PumpCfg.tag ws != 3 &&
  (if PumpCfg.bk ws = 0 then nthW ws 2 == 0 else if PumpCfg.bk ws = 1 then bits (nthW ws 2) 31 24 == 0 else true) &&
  (if m = 0 then nthW ws 9 == 0xFFFFFFFF else true) && (if m = 3 then true else nthW ws 10 == 0) &&
  bits (nthW ws 11) 31 24 == 0 && (ws.drop 12).all (· == 0) &&
  (if PumpCfg.bk ws = 2 then (nthW ws 2).toNat % u == 0 else (nthW ws 1).toNat % u == 0) &&
  (List.range 4).all (fun k => Int.emod (PumpCfg.stride ws k) u == 0) &&
  (if m = 1 then PumpCfg.iters ws % thRows == 0 else true) &&
  (if m = 0 ∧ PumpCfg.bk ws = 2 then
    let r := reach ws
    let b : Int := (nthW ws 2).toNat
    decide (0 ≤ b + r.1) &&
    decide (b + r.2 + 2 ^ PumpCfg.sz ws ≤ specBytes (s.tile (entryOf s inst (nthW ws 1))).spec)
   else true)

/-- The handles a running pump counts in uses (R178). -/
def pumpHandles (ws : List Word) : List Word :=
  (if PumpCfg.mode ws = 0 then [] else [PumpCfg.th ws]) ++ (if PumpCfg.bk ws = 2 then [nthW ws 1] else [])

/-- The tables of some handles, where an action of the cycle is in turn (R103). -/
def tablesInTurn (s : State) (inst : Nat) (hs : List Word) (key : Nat) : Bool :=
  hs.all (fun h => s.inTurn (.table (entryOf s inst h).1) key)

def actTables (s : State) (inst : Nat) (hs : List Word) (key : Nat) : State :=
  hs.foldl (fun t h => t.act (.table (entryOf s inst h).1) key) s

/-- pcfg: the shapes that it tests are looked at in the tables' turn (R103, R178). -/
def workPcfg (f : FmtM) : Work := fun j s =>
  if ((s.elem j.e).pump f.pms.toNat).run then trap0 0x0A2
  else
    match aligned j.src.a 64 with
    | .error e => .error e
    | .ok _ =>
      match settled j .part s with
      | .error e => .error e
      | .ok s0 =>
        match readWords (jobRq j s0) (dataVA s j.e.inst j.src.a.toNat) 16 s0 with
        | .error e => .error e
        | .ok (ws, s1) =>
          if tablesInTurn s1 j.e.inst (pumpHandles ws) (tableKey j.e.el) = false then .error (waitHere (.element j.e) s1)
          else if pumpOk s1 j.e.inst ws then
            .ok (noRes, (actTables s1 j.e.inst (pumpHandles ws) (tableKey j.e.el)).modElem j.e (fun x =>
              x.setPump f.pms.toNat { x.pump f.pms.toNat with words := ws, c := [0, 0, 0, 0], iter := 0 }))
          else trap0 0x0A3

def execPcfg (f : FmtM) (s : State) : Out := runM f (.pcfg f) s (sinkM f) (workPcfg f)

/-! ### Coded streams (R105 to R107) -/

def codeLen (ct : List Byte) (sym : Nat) : Nat := (ct.getD (4 + sym) 0).toNat
def codeW0 (ct : List Byte) : Word := wd (leNat (ct.take 4))
def codeExp (ct : List Byte) : Nat := bits (codeW0 ct) 19 16
def codeN (ct : List Byte) : Nat := bits (codeW0 ct) 8 0
def codeFmt (ct : List Byte) : Nat := bits (codeW0 ct) 23 20

/-- A code table meets R105. -/
def codesOk (ct : List Byte) : Bool :=
  let w := codeW0 ct
  bits w 31 24 == 0xE7 && [3, 4, 5, 9].contains (codeFmt ct) && decide (1 ≤ codeExp ct) && decide (codeExp ct ≤ 8) &&
  bits w 15 9 == 0 && decide (1 ≤ codeN ct) && decide (codeN ct ≤ 256) &&
  (List.range 256).all (fun k => if k < codeN ct then decide (codeLen ct k ≤ 16) else codeLen ct k == 0) &&
  decide (((List.range 256).map (fun k => if codeLen ct k = 0 then 0 else 2 ^ (16 - codeLen ct k))).foldl (· + ·) 0 ≤ 2 ^ 16)

/-- The used symbols in canonical order with their lengths (R105). -/
def codeOrder (ct : List Byte) : List (Nat × Nat) :=
  sortBy (fun (a b : Nat × Nat) => a.2 < b.2)
    (((List.range 256).map (fun k => (k, codeLen ct k))).filter (fun p => p.2 != 0))

/-- The codes: (symbol, length, code), each next one (previous + 1) shifted by the increase in length (R105). -/
def codesFrom : List (Nat × Nat) → Option (Nat × Nat) → List (Nat × Nat × Nat)
  | [], _ => []
  | (sym, len) :: r, prev =>
    let c := match prev with
      | none => 0
      | some (pl, pc) => (pc + 1) * 2 ^ (len - pl)
    (sym, len, c) :: codesFrom r (some (len, c))

def codesOf (ct : List Byte) : List (Nat × Nat × Nat) := codesFrom (codeOrder ct) none

/-- The elements of a symbol, packed from bit 0 of its XP field (R69, R105). The decoder writes only the three defined t2 codes (R67,
R216): a reserved one it writes as 0, which is what it reads as. -/
def symElems (ct : List Byte) (w sym : Nat) : List Nat :=
  let x := leNat ((ct.drop (264 + 8 * sym)).take 8)
  (List.range (codeExp ct)).map (fun i =>
    let v := x / 2 ^ (w * i) % 2 ^ w
    if codeFmt ct = 9 ∧ v = 2 then 0 else v)

/-- What decoding comes to: more bits are needed, no codeword matches, or the elements. -/
inductive Coded where
  | more
  | bad
  | full (es : List Nat)
  deriving DecidableEq, Repr

/-- Bits taken from bit 0 of each byte upward; the first bit is the most significant of a codeword (R106). -/
def decodeBits (ct : List Byte) (codes : List (Nat × Nat × Nat)) (w : Nat) : List Bool → Nat → Nat → List Nat → Coded
  | [], _, _, es => if 1024 ≤ es.length then .full (es.take 1024) else .more
  | b :: bs, len, code, es =>
    if 1024 ≤ es.length then .full (es.take 1024)
    else
      let len := len + 1
      let code := 2 * code + b.toNat
      match codes.find? (fun c => c.2.1 == len && c.2.2 == code) with
      | some c => decodeBits ct codes w bs 0 0 (es ++ symElems ct w c.1)
      | none => if 16 ≤ len then .bad else decodeBits ct codes w bs len code es

def bitsOfBytes (bs : List Byte) : List Bool := bs.flatMap (fun b => (List.range 8).map (fun i => bit b i))

/-- The segment at an address decoded, a line of 64 bytes at a time while more bits are needed (R106); it counts as one access, once
at each page that it comes to (R273). -/
def decodeSeg (q : Rq) (ct : List Byte) (w va lim : Nat) : Nat → List Byte → State → Except Stop (List Nat × State)
  | 0, _, _ => fatal0 0x0C8
  | k + 1, have_, s =>
    if lim ≤ have_.length then fatal0 0x0C8
    else
      match readVA (if have_ = [] then q else goOn s q ((va + have_.length) % 2 ^ 56)) (va + have_.length) 64 s with
      | .error e => .error e
      | .ok (b, s1) =>
        match decodeBits ct (codesOf ct) w (bitsOfBytes (have_ ++ b)) 0 0 [] with
        | .full es => .ok (es, s1)
        | .bad => fatal0 0x0C8
        | .more => decodeSeg q ct w va lim k (have_ ++ b) s1

/-- Values of w bits packed into bytes, element 0 lowest (R69). -/
def packBits (w : Nat) : List Nat → Nat
  | [] => 0
  | v :: vs => v % 2 ^ w + 2 ^ w * packBits w vs

def packElems (w : Nat) (vs : List Nat) : List Byte := leBytes (vs.length * w / 8) (packBits w vs)

/-! ### PGO, PSTOP, PQRY -/

/-- The code table of a mode 11 run, as the element's earlier operations left it; one that is not aligned to 64 bytes breaks R105. The whole
of its layout is read, 2,312 bytes, whatever NSYM is (DESIGN CHOICE, log 63: R107 gives no size). -/
def codeTable (j : Job) (ws : List Word) (s : State) : Except Stop (List Byte × State) :=
  if PumpCfg.mode ws ≠ 3 then .ok ([], s)
  else if (nthW ws 10).toNat % 64 ≠ 0 then trap0 0x0C9
  else if (s.elem j.e).outstanding ≠ [] then .error .wait
  else
    match readVA (jobRq j s) (dataVA s j.e.inst (nthW ws 10).toNat) (264 + 8 * 256) s with
    | .error e => .error e
    | .ok (ct, s1) => if codesOk ct then .ok (ct, s1) else trap0 0x0C9

/-- pgo: a pump starts, its code table copied (R107, R178) (log 17). -/
def workPgo (f : FmtM) : Work := fun j s =>
  let p := (s.elem j.e).pump f.pms.toNat
  if p.run then trap0 0x0A2
  else if 65536 < j.src.a.toNat then trap0 0x0A3
  else
    let ws := if j.src.a = 0 then p.words else PumpCfg.setB3 p.words j.src.a.toNat
    if tablesInTurn s j.e.inst (pumpHandles ws) (tableKey j.e.el) = false then .error .wait
    else if (pumpHandles ws).any (fun h => !live s j.e.inst h) then trap0 0x020
    else if pumpOk s j.e.inst ws = false then trap0 0x0A3
    else
      match codeTable j ws s with
      | .error e => .error e
      | .ok (ct, s1) =>
        let s2 := (pumpHandles ws).foldl (fun t h => addUse t (entryOf s j.e.inst h)) { s1 with fresh := s1.fresh + 1 }
        .ok (noRes, (actTables s2 j.e.inst (pumpHandles ws) (tableKey j.e.el)).modElem j.e (fun x => x.setPump f.pms.toNat
          { words := ws, c := [0, 0, 0, 0], iter := 0, run := true, done := false, waitf := false, fin := false
            slot := j.slot, ct := ct, before := x.outstanding, hb := before s j.e, no := s1.fresh }))

def execPgo (f : FmtM) (s : State) : Out := runM f (.pgo f) s (sinkM f) (workPgo f)

/-- A run ends: the pump's uses end with it, in their tables' turn (R103, R178, R179). -/
def endPump (s : State) (e : ERef) (pm : Nat) (p : Pump) : State :=
  let s := dropJournal s (.pump e pm)
  let s := (pumpHandles p.words).foldl (fun t h => dropUse t (entryOf s e.inst h)) s
  { s.modElem e (fun x => x.setPump pm p) with accs := s.accs.filter (fun a => a.req != .pump e pm) }

def workPstop (f : FmtM) : Work := fun j s =>
  let p := (s.elem j.e).pump f.pms.toNat
  if p.run then
    if tablesInTurn s j.e.inst (pumpHandles p.words) (tableKey j.e.el) = false then .error .wait
    else
      .ok (noRes, actTables (endPump s j.e f.pms.toNat { p with run := false, waitf := false, fin := false }) j.e.inst
        (pumpHandles p.words) (tableKey j.e.el))
  else .ok (noRes, s)

def execPstop (f : FmtM) (s : State) : Out := runM f (.pstop f) s (sinkM f) (workPstop f)

/-- The offset within the run of the next access (R178). -/
def pumpOff (p : Pump) : Int :=
  (List.range 4).foldl (fun a k => a + PumpCfg.stride p.words k * (p.c.getD k 0 : Nat)) 0

/-- The pump's access is held by a translation fault (R179 HOLD). -/
def pumpHeld (s : State) (e : ERef) (pm : Nat) : Bool :=
  s.accs.any (fun a => a.req == .pump e pm &&
    (match a.st with
     | .held _ | .fault _ => true
     | _ => false))

def pqryValue (s : State) (e : ERef) (pm sel : Nat) : Word :=
  let p := (s.elem e).pump pm
  if sel ≤ 3 then wd (p.c.getD sel 0)
  else if sel = 4 then
    wd (p.run.toNat * 2 ^ 31 + (pumpHeld s e pm).toNat * 2 ^ 30 + p.waitf.toNat * 2 ^ 29 + p.done.toNat * 2 ^ 28 +
      PumpCfg.mode p.words * 2 ^ 26)
  else if sel = 5 then wd (PumpCfg.bound p.words 3)
  else BitVec.ofInt 32 (((if PumpCfg.bk p.words = 2 then nthW p.words 2 else nthW p.words 1).toNat : Int) + pumpOff p)

def workPqry (f : FmtM) : Work := fun j s => .ok (word (pqryValue s j.e f.pms.toNat f.aux.toNat), s)

def execPqry (f : FmtM) (s : State) : Out := runM f (.pqry f) s (sinkM f) (workPqry f)

/-! ### A pump's accesses (R178) -/

/-- Counters after an iteration, level 0 innermost. -/
def bump (ws : List Word) : Nat → List Nat → List Nat
  | _, [] => []
  | k, c :: cs => if c + 1 < PumpCfg.bound ws k then (c + 1) :: cs else 0 :: bump ws (k + 1) cs

/-- The pump after an iteration is issued. -/
def advance (p : Pump) : Pump :=
  { p with
    c := bump p.words 0 p.c, iter := p.iter + 1, waitf := false
    fin := decide (PumpCfg.iters p.words ≤ p.iter + 1) }

/-- The virtual address of the next access; in the window it is the fatal fault 0x0A8 (R166). Where an access begins is tested alone: a row
or a segment that begins below the window may run into it (DESIGN CHOICE, log 63). -/
def pumpVA (s : State) (e : ERef) (p : Pump) : Except Stop Nat :=
  let o := pumpOff p
  if PumpCfg.bk p.words = 1 then
    .ok (Int.emod (((farBase p).getD 0 : Nat) + o) (2 ^ 56)).toNat
  else
    let off := Int.emod ((nthW p.words 1).toNat + o) (2 ^ 32)
    if 0xFFFF0000 ≤ off then fatal0 0x0A8 else .ok (dataVA s e.inst off.toNat)

/-- Where a segment ends: at the next one, the least positive stride of a level that runs, else 2,048 bytes (log 11). -/
def segLimit (ws : List Word) : Nat :=
  let ss := (List.range 4).filterMap (fun k =>
    if 1 < PumpCfg.bound ws k ∧ PumpCfg.stride ws k ≠ 0 then some (PumpCfg.stride ws k).natAbs else none)
  ss.foldl min 2048

/-- A drain pump finds a tile full: what comes behind the tag comes before the pump's own accesses too (R279, R280). -/
def pumpAcquire (s : State) (e : ERef) (pm : Nat) (r : Option Release) : State :=
  (acquireOptAt s e r).modElem e (fun x =>
    let p := x.pump pm
    x.setPump pm { p with hb := (p.hb ++ ((r.map Release.deps).getD [])).filter (depOpen s) })

/-- One iteration: the state with the access made, and the token for mi in mode 00 (log 31). A code table whose FMT is not the tile's
format is no case of the spec: its elements are packed at the table's width, row by row, at the tile's own row size (DESIGN CHOICE,
log 58). -/
def pumpIter (s : State) (e : ERef) (pm : Nat) (p : Pump) : Except Stop (Option Token × State) :=
  let ws := p.words
  let q := pumpRq s e pm p.slot
  let t := entryOf s e.inst (PumpCfg.th ws)
  let x := s.tile t
  let cols := specCols x.spec
  let rows := specRows x.spec
  let row := p.iter % rows
  let w := match EFmt.ofCode (specFmt x.spec) with
    | some f => f.width
    | none => 8
  let rb := cols * w / 8
  match PumpCfg.mode ws with
  | 0 =>
    let n := 2 ^ PumpCfg.sz ws
    if PumpCfg.bk ws = 2 then
      let bt := entryOf s e.inst (nthW ws 1)
      let off := (((nthW ws 2).toNat : Int) + pumpOff p).toNat
      match engineTile q bt off n false s with
      | .error er => .error er
      | .ok s1 =>
        .ok (some ⟨wd (leNat (readBytes s1 q.agent (tileKey bt.1 bt.2 off) n)), PumpCfg.tag ws, false, none, none⟩, s1)
    else
      match pumpVA s e p with
      | .error er => .error er
      | .ok va =>
        match readVA q va n s with
        | .error er => .error er
        | .ok (bs, s1) => .ok (some ⟨wd (leNat bs), PumpCfg.tag ws, false, none, none⟩, s1)
  | 1 =>
    if row = 0 ∧ x.f then .error .wait
    else
      match pumpVA s e p with
      | .error er => .error er
      | .ok va =>
        match readVA q va rb s with
        | .error er => .error er
        | .ok (bs, s1) =>
          match engineTile q t (row * rb) rb true s1 with
          | .error er => .error er
          | .ok s2 =>
            let s3 := writeThrough s2 (keyed (tileKey t.1 t.2 (row * rb)) bs)
            .ok (none, if row + 1 = rows then setFull s3 t (s.physReg e.inst e.reg) p.hb else s3)
  | 2 =>
    if row = 0 ∧ x.f = false then .error .wait
    else
      let s0 := if row = 0 then pumpAcquire s e pm x.rel else s
      let q := pumpRq s0 e pm p.slot
      match engineTile q t (row * rb) rb false s0 with
      | .error er => .error er
      | .ok s1 =>
        match pumpVA s e p with
        | .error er => .error er
        | .ok va =>
          match writeVA q va (readBytes s1 q.agent (tileKey t.1 t.2 (row * rb)) rb) s1 with
          | .error er => .error er
          | .ok s2 =>
            .ok (none, if row + 1 = rows ∨ PumpCfg.iters ws ≤ p.iter + 1 then
              s2.modTile t (fun y => { y with f := false }) else s2)
  | _ =>
    if x.f then .error .wait
    else
      match pumpVA s e p with
      | .error er => .error er
      | .ok va =>
        let cw := match EFmt.ofCode (codeFmt p.ct) with
          | some f => f.width
          | none => 8
        match decodeSeg q p.ct cw va (segLimit ws) 33 [] s with
        | .error er => .error er
        | .ok (es, s1) =>
          match engineTile q t 0 (specBytes x.spec) true s1 with
          | .error er => .error er
          | .ok s2 =>
            let rowsOf := (List.range 32).map (fun r =>
              keyed (tileKey t.1 t.2 (r * rb)) (packElems cw ((es.drop (32 * r)).take 32)))
            .ok (none, setFull (writeThrough s2 rowsOf.flatten) t (s.physReg e.inst e.reg) p.hb)

/-- A pump can make an access: it runs, in a running stage whose graph has no fault, none of its accesses is held, mi has a place
for its token, its tiles' tables are in turn, and the operations issued before its PGO are performed. -/
def pumpReady (s : State) (e : ERef) (pm : Nat) : Bool :=
  let x := s.elem e
  let p := x.pump pm
  p.run && !p.fin && !accPending s (.pump e pm) && (PumpCfg.mode p.words != 0 || x.inRoom 4) &&
  (s.graph (s.inst e.inst).graph).fault.isNone && (s.inst e.inst).status == .running &&
  p.before.all (fun o => !x.outstanding.contains o) && tablesInTurn s e.inst (pumpHandles p.words) (tableEngine e.el)

/-- The pump's next access waits on its tile's F (R178, R179 WAITF). -/
def waitsOnF (s : State) (e : ERef) (p : Pump) : Bool :=
  let x := s.tile (entryOf s e.inst (PumpCfg.th p.words))
  let first := p.iter % specRows x.spec == 0
  match PumpCfg.mode p.words with
  | 0 => false
  | 1 => first && x.f
  | 2 => first && !x.f
  | _ => x.f

/-- One access of a running pump (R178, R179); the shape of a decoded tile is log 19. -/
def execPumpAccess (e : ERef) (pm : Nat) (s : State) : Out :=
  let p := (s.elem e).pump pm
  let r : Req := .pump e pm
  if pumpReady s e pm = false then notNow "PUMP_ACCESS"
  else
    match workOf r (fun u => pumpIter u e pm p) s with
    | .ok (tok, s1) =>
      .next ((actTables s1 e.inst (pumpHandles p.words) (tableEngine e.el)).modElem e (fun y =>
        match tok with
        | some t => (y.setPump pm (advance { p with before := [], hb := (y.pump pm).hb })).pushIn 4 t
        | none => y.setPump pm (advance { p with before := [], hb := (y.pump pm).hb })))
    | .error .wait =>
      if p.waitf || !waitsOnF s e p then notNow "PUMP_ACCESS"
      else .next ((dropJournal s r).modElem e (fun y => y.setPump pm { p with waitf := true }))
    | .error .later => notNow "PUMP_ACCESS"
    | .error (.keep _) => notNow "PUMP_ACCESS"
    | .error (.access va wr st t) => .next (addAcc s (pumpRq s e pm p.slot) va wr st t)
    | .error (.trap c a i j) => .next (asyncFault (dropJournal s r) e p.slot (1 + pm) c 0 a i j)
    | .error (.fatal c a i j) => .next (asyncFault (dropJournal s r) e p.slot (1 + pm) c 0 a i j)

/-- The end of a run: the end-of-stream marker is pushed when mi has a place; RUN, DONE and the counters follow (R178). -/
def execPumpRunEnd (e : ERef) (pm : Nat) (s : State) : Out :=
  let x := s.elem e
  let p := x.pump pm
  when (p.run && p.fin && x.inRoom 4 && tablesInTurn s e.inst (pumpHandles p.words) (tableEngine e.el)) "PUMP_RUN_END"
    ((actTables (endPump s e pm { p with run := false, done := true, fin := false, waitf := false, c := [0, 0, 0, 0], iter := 0 })
      e.inst (pumpHandles p.words) (tableEngine e.el)).modElem
      e (fun y => y.pushIn 4 ⟨0x01000000 ||| wd (bits (nthW p.words 11) 23 0), 3, false, none, none⟩))

end Sys2Proof.Machine
end

