-- ==== Sys2Proof/Machine/Directory.lean ====
section
/-! DEFINITION. Rule registers, directories and pools: grule, the directory commands and poolcfg
(spec/07_instr_contraction_tiles.md R110 to R123, spec/06_block_tensors.md R87 to R97). -/

namespace Sys2Proof.Machine

/-! ## Reads and writes of the objects -/

def readHdr (q : Rq) (va : Nat) (s : State) : Except Stop (Hdr × State) :=
  match readWords q va 16 s with
  | .error e => .error e
  | .ok (ws, s1) => .ok (⟨ws⟩, s1)

def readEnt (q : Rq) (va i : Nat) (s : State) : Except Stop (Ent × State) :=
  match readWords q (va + 64 * (i + 1)) 16 s with
  | .error e => .error e
  | .ok (ws, s1) => .ok (⟨ws⟩, s1)

/-- The first valid entry from index i that a test accepts, over n entries (R119, R120, R128 probe); `chk` is what the reader requires of
a valid entry at an index (R94). Which of several entries that match a probe gives, the spec does not say: the lowest index (DESIGN
CHOICE, log 58). -/
def probeFrom (q : Rq) (va : Nat) (chk : Nat → Ent → Except Stop Unit) (p : Ent → Bool) : Nat → Nat → State → Except Stop (Option (Nat × Ent) × State)
  | 0, _, s => .ok (none, s)
  | n + 1, i, s =>
    match readEnt q va i s with
    | .error e => .error e
    | .ok (e, s1) =>
      if e.v then
        match chk i e with
        | .error x => .error x
        | .ok _ => if p e then .ok (some (i, e), s1) else probeFrom q va chk p n (i + 1) s1
      else probeFrom q va chk p n (i + 1) s1

/-- A reader that requires nothing of the entries: the directory logic (R119, R120). -/
def anyEnt (_ : Nat) (_ : Ent) : Except Stop Unit := .ok ()

/-- The charge words of two tuples agree under a rule (R120). -/
def tupleEq (g : Rule) (xs ys : List Word) : Bool := (xs.zip ys).all (fun p => ceq g p.1 p.2)

/-- The part's index area: what it holds is unspecified (R92). -/
def indexArea (ctx va lim : Nat) (s : State) : State :=
  if s.unspec.contains (ctx, va + 64 + 64 * lim, 8 * lim) then s
  else { s with unspec := (ctx, va + 64 + 64 * lim, 8 * lim) :: s.unspec }

/-- Before a probe, the index is rebuilt where IXV is 0, and IXV set (R92) (log 54). A probe after a program's store to an entry or to
COUNT without IXV cleared, which R92 forbids, goes over the entries as they now stand (DESIGN CHOICE, log 58). -/
def ensureIndex (q : Rq) (va : Nat) (h : Hdr) (s : State) : Except Stop (Hdr × State) :=
  if h.ixv then .ok (h, s)
  else
    let w := setBitW h.w0 10 true
    match writeWord q va w (indexArea q.ctx va h.lim s) with
    | .error e => .error e
    | .ok s1 => .ok (⟨h.ws.set 0 w⟩, s1)

/-- An entry appended in the order of R91: every word but V, then V, then COUNT; SRT is cleared, the index kept in step (R92). -/
def appendEnt (q : Rq) (va : Nat) (h : Hdr) (ws : List Word) (s : State) : Except Stop State :=
  let w12 := nthW ws 12
  match writeWords q (va + 64 * (h.count + 1)) (ws.set 12 (setBitW w12 31 false)) s with
  | .error e => .error e
  | .ok s1 =>
    match writeWord q (va + 64 * (h.count + 1) + 48) (setBitW w12 31 true) s1 with
    | .error e => .error e
    | .ok s2 =>
      match writeWord q (va + 8) (wd (h.count + 1)) s2 with
      | .error e => .error e
      | .ok s3 => writeWord q va (setBitW h.w0 11 false) (indexArea q.ctx va h.lim s3)

/-- A directory command's pointer and its address: aligned to n, else trap 0x023 (R110). -/
def ptrVA (j : Job) (p : Word) (n : Nat) (s : State) : Except Stop Nat :=
  if p.toNat % n = 0 then .ok (dataVA s j.e.inst p.toNat) else trap0 0x023

/-- The rule in a rule register of the region; unloaded is trap 0x02A (R115). -/
def needRule (s : State) (r : RRef) (n : Nat) : Except Stop Rule :=
  match s.ruleReg r n with
  | some g => .ok g
  | none => trap0 0x02A

/-- A directory that another operation writes (R93); at issue there is neither product nor entry to name (R349). -/
def busyTrap {α : Type} : Except Stop α := .error (.trap 0x10A 0 0 0xFFFFFFFF)

/-- A sort holds the directory: BUSY with OPH 0; its readers wait (R122). -/
def Hdr.sorting (h : Hdr) : Bool := h.busy && h.oph == 0

/-! ## grule (R85, R116) -/

def workGrule (f : FmtE) : Work := fun j s => do
  let va ← ptrVA j j.src.a 32 s
  let s0 ← settled j .part s
  let (ws, s1) ← readWords (jobRq j s0) va 8 s0
  match ruleOf ws with
  | none => trap0 0x028
  | some g => .ok (noRes, writeRule s1 j.e (bits f.dst 2 0) g)

/-- grule's DST names a rule register, not a destination (R113). -/
def execGrule (f : FmtE) (s : State) : Out :=
  .next (waiting s (.grule f) f.sa f.sb false false ⟨12, 0, 0, 0⟩ (workGrule f))

/-! ## bdinit, bdins, bdfind, bdget, bdsort (R118 to R122) -/

/-- V cleared in the first n entries (R118). -/
def clearV (q : Rq) (va : Nat) : Nat → State → Except Stop State
  | 0, s => .ok s
  | n + 1, s => do
    let (e, s1) ← readEnt q va n s
    let s2 ← writeWord q (va + 64 * (n + 1) + 48) (setBitW e.w12 31 false) s1
    clearV q va n s2

/-- bdinit. COUNT above LIM, which R118 does not check, names no more than the LIM entries that the directory has; so do bdfind and bdsort
(DESIGN CHOICE, log 58). -/
def workBdinit : Work := fun j s => do
  let va ← ptrVA j j.src.a 64 s
  let s0 ← settled j .part s
  let q := jobRq j s0
  let (h, s1) ← readHdr q va s0
  if h.shapeOk = false ∨ h.limOk = false then trap0 0x024
  else if h.busy then busyTrap
  else if h.lim < j.src.b.toNat then trap0 0x024
  else
    let s2 ← clearV q va (min h.count h.lim) s1
    let s3 ← if j.src.b = 0 then .ok s2 else writeWord q (va + 12) j.src.b s2
    let s4 ← writeWord q (va + 8) 0 s3
    let s5 ← writeWord q va (setBitW (setBitW h.w0 11 true) 10 false) s4
    .ok (word (wd h.lim), s5)

def execBdinit (f : FmtE) (s : State) : Out := runE f (.bdinit f) s workBdinit

/-- bdins (R119). R119 has no cause for a directory whose header breaks R87: the header's fields are taken as they stand, here and in bdfind,
bdget and bdsort (DESIGN CHOICE, log 67). -/
def workBdins : Work := fun j s => do
  let va ← ptrVA j j.src.a 64 s
  let im ← ptrVA j j.src.b 64 s
  let s0 ← settled j .part s
  let q := jobRq j s0
  let (h, s1) ← readHdr q va s0
  if h.busy then busyTrap
  else
    let g ← needRule s1 j.e.rref h.rule
    let (ws, s2) ← readWords q im 16 s1
    let e : Ent := ⟨ws⟩
    if e.ok h.nleg = false then trap0 0x024
    else if (e.qs h.nleg).all (canonical g) = false ∨ selects g h.dirs (e.qs h.nleg) h.flux = false then trap0 0x029
    else
      let (h, s3) ← ensureIndex q va h s2
      let (found, s4) ← probeFrom q va anyEnt (fun x => tupleEq g (x.qs h.nleg) (e.qs h.nleg)) (min h.count h.lim) 0 s3
      match found with
      | some (i, _) => .ok (word (0x80000000 ||| wd i), s4)
      | none =>
        if h.count = h.cap then .ok (word 0xFFFFFFFF, s4)
        else
          let w12 := setBitW (setBitW (setBitW e.w12 31 true) 30 false) 29 false
          let s5 ← appendEnt q va h (ws.set 12 w12) s4
          .ok (word (wd h.count), s5)

def execBdins (f : FmtE) (s : State) : Out := runE f (.bdins f) s workBdins

/-- bdfind (R120), the header's fields as they stand (DESIGN CHOICE, log 67). -/
def workBdfind : Work := fun j s => do
  let va ← ptrVA j j.src.a 64 s
  let kv ← ptrVA j j.src.b 4 s
  let s0 ← settled j .part s
  let q := jobRq j s0
  let (h, s1) ← readHdr q va s0
  if h.sorting then .error .wait
  else
    let g ← needRule s1 j.e.rref h.rule
    let (key, s2) ← readWords q kv h.nleg s1
    let (h, s3) ← ensureIndex q va h s2
    let (found, s4) ← probeFrom q va anyEnt (fun x => tupleEq g (x.qs h.nleg) key) (min h.count h.lim) 0 s3
    match found with
    | some (i, _) => .ok (word (wd i), s4)
    | none => .ok (word 0xFFFFFFFF, s4)

def execBdfind (f : FmtE) (s : State) : Out := runE f (.bdfind f) s workBdfind

/-- bdget (R121), the header's fields as they stand (DESIGN CHOICE, log 67). -/
def workBdget : Work := fun j s => do
  let va ← ptrVA j j.src.a 64 s
  let s0 ← settled j .part s
  let q := jobRq j s0
  let (h, s1) ← readHdr q va s0
  let k := bits j.src.b 3 0
  let i := bits j.src.b 31 4
  if h.sorting then .error .wait
  else if i = 0x0FFFFFFF then .ok (word (nthW h.ws k), s1)
  else if h.count ≤ i then .ok (⟨0, true, false⟩, s1)
  else do
    let (e, s2) ← readEnt q va i s1
    .ok (word (nthW e.ws k), s2)

def execBdget (f : FmtE) (s : State) : Out := runE f (.bdget f) s workBdget

def readEnts (q : Rq) (va : Nat) : List Nat → State → Except Stop (List Ent × State)
  | [], s => .ok ([], s)
  | i :: is, s => do
    let (e, s1) ← readEnt q va i s
    let (es, s2) ← readEnts q va is s1
    .ok (e :: es, s2)

def writeEnts (q : Rq) (va : Nat) : Nat → List Ent → State → Except Stop State
  | _, [], s => .ok s
  | i, e :: es, s => do
    let s1 ← writeWords q (va + 64 * (i + 1)) e.ws s
    writeEnts q va (i + 1) es s1

/-- A contraction of the context that runs or is stopped and meets a test (R122, R123). -/
def contractionNaming (s : State) (ctx : Nat) (p : Nat → Contraction → Bool) : Bool :=
  s.regions.any (fun r =>
    (s.inst r.1.inst).ctx == ctx && r.2.cons.any (fun c => decide (c.state ≤ 1) && p r.1.inst c))

/-- The virtual address of a pointer word of a contraction's descriptor (R124). -/
def descVA (s : State) (inst : Nat) (c : Contraction) (k : Nat) : Nat := dataVA s inst (nthW c.desc k).toNat

/-- bdsort: BUSY with OPH 0 stands in the header for as long as the sort takes (R122); the header's other fields as they stand (DESIGN CHOICE,
log 67). -/
def workBdsort : Work := fun j s => do
  let va ← ptrVA j j.src.a 64 s
  let s0 ← settled j .part s
  let q := jobRq j s0
  let (h, s1) ← readHdr q va s0
  if h.busy then busyTrap
  else if contractionNaming s1 q.ctx (fun i c => descVA s1 i c 1 == va || descVA s1 i c 2 == va) then .error .wait
  else
    let s2 ← writeWord q (va + 20) 0 s1
    let s3 ← writeWord q va (setBitW h.w0 9 true) s2
    let (es, s4) ← readEnts q va (List.range (min h.count h.lim)) s3
    let s5 ← writeEnts q va 0 (sortBy (fun (a b : Ent) => tupleLt (a.qs h.nleg) (b.qs h.nleg)) es) s4
    let s6 ← writeWord q va (setBitW (setBitW h.w0 11 true) 10 true) (indexArea q.ctx va h.lim s5)
    .ok (word (wd h.count), s6)

def execBdsort (f : FmtE) (s : State) : Out := runE f (.bdsort f) s workBdsort

/-! ## poolcfg (R123) -/

/-- AVAIL raised by n, clamped at NBLK, and whether it clamped. -/
def raiseAvail (nblk avail n : Nat) : Nat × Bool := if nblk < avail + n then (nblk, true) else (avail + n, false)

/-- A pool's place in the order of a cycle: a POOLCFG first, then allocations (R97, R143). -/
def poolArena (s : State) (inst va : Nat) : Arena := .pool (s.inst inst).ctx va

def workPoolcfg : Work := fun j s => do
  let va ← ptrVA j j.src.a 64 s
  let s0 ← settled j .part s
  let q := jobRq j s0
  let (ws, s1) ← readWords q va 16 s0
  let p : PoolHdr := ⟨ws⟩
  let reset := bit j.src.b 31
  let n := bits j.src.b 30 0
  if p.ok = false then trap0 0x024
  else if reset && contractionNaming s1 q.ctx (fun i c => descVA s1 i c 4 == va) then trap0 0x027
  else if s.inTurn (poolArena s j.e.inst va) 0 = false then .error .wait
  else
    let taken := if reset then 0 else p.taken
    let r := raiseAvail p.nblk (if reset then 0 else p.avail) n
    let s2 ← writeWord q (va + 8) (wd r.1) s1
    let s3 ← if reset then writeWord q (va + 12) 0 s2 else .ok s2
    .ok (⟨wd (r.1 - taken), r.2, false⟩, s3.act (poolArena s j.e.inst va) 0)

def execPoolcfg (f : FmtE) (s : State) : Out := runE f (.poolcfg f) s workPoolcfg

end Sys2Proof.Machine
end

