-- ==== Sys2Proof/Machine/Block.lean ====
section
/-! DEFINITION. Blocks of directory entries: where they stand, their elements, reductions over elements, and what becomes
of an engine's work that stops (spec/06_block_tensors.md R88 to R95, spec/05_number_formats.md R69, R75 to R80,
spec/23_faults_traps.md R342). -/

namespace Sys2Proof.Machine

/-- Where a block's bytes stand: a virtual address, or an offset into a tile. -/
inductive Place where
  | mem (va : Nat)
  | tile (t : Nat × Nat) (off : Nat)
  deriving DecidableEq, Repr

/-- The place that an H bit, ADDR0 and ADDR1 name; a stale handle is the fatal fault 0x10C (R94, R104). -/
def blockPlace (s : State) (inst : Nat) (h : Bool) (a0 a1 : Nat) : Except Stop Place :=
  if h then
    if live s inst (wd a0) then .ok (.tile (entryOf s inst (wd a0)) a1) else fatal0 0x10C
  else .ok (.mem (a0 + 2 ^ 32 * a1))

/-- The sequencer's place at a tile table: behind every element and its engines (R103). -/
def tableSequencer : Nat := 127

/-- n bytes at an offset from a place, checked under R287; at a tile the access takes its turn (R103). -/
def readPlace (q : Rq) (p : Place) (off n : Nat) (s : State) : Except Stop (List Byte × State) :=
  match p with
  | .mem va => readVA q (va + off) n s
  | .tile t o =>
    match engineTile q t (o + off) n false (s.act (.table t.1) tableSequencer) with
    | .error e => .error e
    | .ok s1 => .ok (readBytes s1 q.agent (tileKey t.1 t.2 (o + off)) n, s1)

/-- A block that reaches beyond the tile that H = 1 names is no case of the spec: the bytes go on in the tile's own storage (DESIGN
CHOICE, log 58). -/
def writePlace (q : Rq) (p : Place) (off : Nat) (bs : List Byte) (s : State) : Except Stop State :=
  match p with
  | .mem va => writeVA q (va + off) bs s
  | .tile t o =>
    match engineTile q t (o + off) bs.length true (s.act (.table t.1) tableSequencer) with
    | .error e => .error e
    | .ok s1 => .ok (writeThrough s1 (keyed (tileKey t.1 t.2 (o + off)) bs))

/-- The code of the element at a position, packed from bit 0 upward (R69). -/
def codeAt (w : Nat) (bs : List Byte) (p : Nat) : Nat :=
  leNat ((bs.drop (p * w / 8)).take (w / 8 + 1)) / 2 ^ (p * w % 8) % 2 ^ w

/-- Written words put at their positions. -/
def writeAt (q : Rq) (p : Place) : List (Nat × Word) → State → Except Stop State
  | [], s => .ok s
  | (i, v) :: r, s =>
    match writePlace q p (4 * i) (bytesOfWord v) s with
    | .error e => .error e
    | .ok s1 => writeAt q p r s1

/-- An operand's element at a position: absent where the position is null (R95) or omitted (R80). -/
abbrev Opnd := Nat → Option Nat

def fzero : FVal := .fin false 0 0

/-- One product of a floating reduction; an absent factor gives a zero term (R77, R80, R95). -/
def fprod (fa fb : FFmt) (a b : Option Nat) : FVal :=
  match a, b with
  | some x, some y => FVal.mul (fa.decode x) (fb.decode y)
  | _, _ => fzero

/-- One product of an integer reduction and whether a reserved t2 code was read (R67, R78, R216). -/
def iprod (fa fb : EFmt) (a b : Option Nat) : Int × Bool :=
  let x := a.map fa.int
  let y := b.map fb.int
  ((match x, y with
    | some u, some v => u.1 * v.1
    | _, _ => 0),
   ((x.map Prod.snd).getD false || (y.map Prod.snd).getD false))

/-- The positions of one group of 32 (R77). -/
def groupAt (k g : Nat) : List Nat := (List.range (min 32 (k - 32 * g))).map (32 * g + ·)

/-- dotreduce over k positions from the given group, for floating formats (R77). A position that a bitmap omits is a zero term, so that the
sparse operation gives the dense one's bits; a group of which it keeps no position then gives its accumulator, and +0 for one of -0, as the
dense group does (R76, R80; log 7). -/
def freduce (fa fb : FFmt) (a b : Opnd) (k : Nat) : Nat → Nat → Word × Bool → Word × Bool
  | 0, _, r => r
  | n + 1, g, r =>
    let v := dotgroup r.1 ((groupAt k g).map (fun i => fprod fa fb (a i) (b i)))
    freduce fa fb a b k n (g + 1) (v.1, r.2 || v.2)

/-- The same for integer and ternary formats (R78). -/
def ireduce (fa fb : EFmt) (a b : Opnd) (k : Nat) : Nat → Nat → Word × Bool → Word × Bool
  | 0, _, r => r
  | n + 1, g, r =>
    let ps := (groupAt k g).map (fun i => iprod fa fb (a i) (b i))
    let v := sat32 (sx r.1 + (ps.map Prod.fst).foldl (· + ·) 0)
    ireduce fa fb a b k n (g + 1) (v.1, r.2 || v.2 || ps.any Prod.snd)

/-- dotreduce (R77, R78): the result and whether anything raised. -/
def dotreduce (fa fb : EFmt) (acc : Word) (a b : Opnd) (k : Nat) : Word × Bool :=
  match fa.float, fb.float with
  | some x, some y => freduce x y a b k (ceilDiv k 32) 0 (acc, false)
  | _, _ => ireduce fa fb a b k (ceilDiv k 32) 0 (acc, false)

/-- An engine's work that stops: its access waits for its translation, or the graph has an asynchronous fault (R267,
R342); a condition that does not hold yet makes the step not possible. -/
def engineStop (s : State) (name : String) (q : Rq) (e : ERef) (engine : Nat) (handle : Word) : Stop → Out
  | .access va wr st t => .next (addAcc s q va wr st t)
  | .wait => notNow name
  | .later => notNow name
  | .keep _ => notNow name
  | .trap c a i j => .next (asyncFault (dropJournal s q.req) e q.slot engine c handle a i j)
  | .fatal c a i j => .next (asyncFault (dropJournal s q.req) e q.slot engine c handle a i j)

/-- What waits on a hold, or has met its fault there. -/
def stuck (a : Acc) : Bool :=
  match a.st with
  | .held _ => true
  | .fault _ => true
  | _ => false

/-- Work of a graph goes on only while no fatal fault of it stands (R343). -/
def graphUp (s : State) (inst : Nat) : Bool :=
  (s.inst inst).status == .running && (s.graph (s.inst inst).graph).fault.isNone

end Sys2Proof.Machine
end

