-- ==== Sys2Proof/Machine/Collective.lean ====
section
/-! DEFINITION. Group slots and collectives: cgload, crun, cwait, bar, cseq, and the collective engine's steps
(spec/11_collectives.md R189 to R206). -/

namespace Sys2Proof.Machine

/-! ## Objects (R193, R197) -/

namespace CObj
def tpl (ws : List Word) : Nat := bits (nthW ws 0) 23 20
def red (ws : List Word) : Nat := bits (nthW ws 0) 19 16
def opc (ws : List Word) : Nat := bits (nthW ws 0) 15 0
def g (ws : List Word) : Nat := bits (nthW ws 1) 15 8
def count (ws : List Word) : Nat := (nthW ws 2).toNat
def root (ws : List Word) : Nat := bits (nthW ws 3) 5 0
def buf (ws : List Word) (k : Nat) : Word := nthW ws (4 + k)
def ops (ws : List Word) : Nat := (nthW ws 8).toNat
end CObj

/-- The element width of a reduction (R195). -/
def redWidth (red : Nat) : Nat := if red = 4 then 2 else 4

/-- The header meets R193. That a template whose BUF1 to BUF3 are not 0xFFFF_FFFF is no object is read from "templates use BUF0 only" and
"0xFFFF_FFFF unused" (DEDUCED, log 66). A template whose BUF0 is 0xFFFF_FFFF is an object all the same, and that is then its buffer's offset, which
crun does not look at for alignment (DESIGN CHOICE, log 67). -/
def cobjOk (ws : List Word) : Bool :=
  let t := CObj.tpl ws
  let n := CObj.count ws
  bits (nthW ws 0) 31 24 == 0xCE && decide (t ≤ 2) && decide (CObj.red ws ≤ 5) && (t == 0 || CObj.opc ws == 0) &&
  bits (nthW ws 1) 31 16 == 0 && bits (nthW ws 1) 7 0 == 0 && bits (nthW ws 3) 31 6 == 0 &&
  (t == 2 || CObj.root ws == 0) && (ws.drop 9).all (· == 0) &&
  (if t = 0 then decide (1 ≤ n) && decide (n ≤ 4096)
   else if t = 1 then decide (1 ≤ n) && decide (n ≤ 16777216) && CObj.red ws != 0
   else decide (4 ≤ n) && decide (n ≤ 16777216) && n % 4 == 0 && CObj.red ws == 0) &&
  (t == 0 || (CObj.ops ws == 0 && (List.range 3).all (fun k => CObj.buf ws (k + 1) == 0xFFFFFFFF)))

namespace COp
def type (r : List Word) : Nat := bits (nthW r 0) 31 28
def peer (r : List Word) : Nat := bits (nthW r 0) 27 22
def buf (r : List Word) : Nat := bits (nthW r 0) 21 20
def buf2 (r : List Word) : Nat := bits (nthW r 0) 19 18
def key (r : List Word) : Nat := bits (nthW r 0) 15 0
def off (r : List Word) : Nat := (nthW r 1).toNat
def off2 (r : List Word) : Nat := (nthW r 2).toNat
def len (r : List Word) : Nat := (nthW r 3).toNat
def thr (r : List Word) : Nat := bits (nthW r 4) 31 16
def sucs (r : List Word) : List Nat := [bits (nthW r 5) 31 16, bits (nthW r 5) 15 0].filter (· != 0xFFFF)
/-- Whether the operation runs on a rank. -/
def on (r : List Word) (k : Nat) : Bool := if k < 32 then bit (nthW r 6) k else bit (nthW r 7) (k - 32)
def takes (r : List Word) : Bool := type r == 2 || type r == 3
end COp

/-- A record's own fields meet R197. A record may name a buffer that is 0xFFFF_FFFF, which then is an offset like any other: no rule refuses
it (DESIGN CHOICE, log 65). -/
def copOk (n red : Nat) (r : List Word) : Bool :=
  let t := COp.type r
  decide (1 ≤ t) && decide (t ≤ 4) && bits (nthW r 0) 17 16 == 0 && bits (nthW r 4) 15 0 == 0 &&
  (t == 4 || (COp.buf2 r == 0 && COp.off2 r == 0)) && (t != 4 || (COp.peer r == 0 && COp.key r == 0)) &&
  decide (1 ≤ COp.len r) && decide (COp.len r ≤ 1048576) &&
  (t != 3 || (red != 0 && COp.len r % redWidth red == 0)) && (COp.sucs r).all (· < n)

/-- The byte ranges an operation touches: start, length, whether it writes. -/
def copTouch (ws r : List Word) : List (Nat × Nat × Bool) :=
  let at_ (b o : Nat) := (CObj.buf ws b).toNat + o
  if COp.type r = 4 then
    [(at_ (COp.buf r) (COp.off r), COp.len r, false), (at_ (COp.buf2 r) (COp.off2 r), COp.len r, true)]
  else [(at_ (COp.buf r) (COp.off r), COp.len r, COp.type r != 1)]

def overlaps (a b : Nat × Nat × Bool) : Bool :=
  (a.2.2 || b.2.2) && decide (a.1 < b.1 + b.2.1) && decide (b.1 < a.1 + a.2.1)

/-- The operations that a set reaches along successors that run on a rank, in at most n rounds. -/
def reachOps (recs : List (List Word)) (run : List Word → Bool) : Nat → List Nat → List Nat
  | 0, xs => xs
  | n + 1, xs =>
    let ys := (xs ++ xs.flatMap (fun i => (COp.sucs (recs.getD i [])).filter (fun k => run (recs.getD k [])))).eraseDups
    if ys.length = xs.length then xs else reachOps recs run n ys

/-- A successor path leads from i to k. -/
def pathTo (recs : List (List Word)) (run : List Word → Bool) (i k : Nat) : Bool :=
  ((COp.sucs (recs.getD i [])).filter (fun j => run (recs.getD j []))).any (fun j =>
    (reachOps recs run recs.length [j]).contains k)

/-- The partners of a send of rank r (R199). -/
def partners (recs : List (List Word)) (r : Nat) (sd : List Word) : List (List Word) :=
  recs.filter (fun q => COp.takes q && COp.on q (COp.peer sd) && COp.peer q == r && COp.key q == COp.key sd)

/-- What R193 and R199 ask of a graph whatever its group: its records, RED, no cycle of successors. -/
def cgraphForm (ws : List Word) (recs : List (List Word)) : Bool :=
  let red := CObj.red ws
  recs.all (copOk recs.length red) && (red == 0 || recs.any (fun r => COp.type r == 3)) &&
  (List.range recs.length).all (fun i => !pathTo recs (fun _ => true) i i)

/-- What R199 asks of a graph in a group of P members. -/
def cgraphFits (ws : List Word) (recs : List (List Word)) (p : Nat) : Bool :=
  let ix := List.range recs.length
  recs.all (fun r => COp.type r == 4 || decide (COp.peer r < p)) &&
  (List.range p).all (fun k =>
    recs.all (fun sd =>
      if COp.type sd = 1 ∧ COp.on sd k then
        let ps := partners recs k sd
        ps.length == 1 && ps.all (fun q => COp.len q == COp.len sd)
      else true) &&
    ix.all (fun i => ix.all (fun m =>
      let a := recs.getD i []
      let b := recs.getD m []
      if i < m ∧ COp.on a k ∧ COp.on b k ∧ (copTouch ws a).any (fun x => (copTouch ws b).any (overlaps x)) then
        pathTo recs (fun q => COp.on q k) i m || pathTo recs (fun q => COp.on q k) m i
      else true)))

/-- There is a number of members, of the 64 that a group has at most, for which R199 does not refuse the graph. -/
def cgraphFitsSome (ws : List Word) (recs : List (List Word)) : Bool := (List.range 64).any (fun p => cgraphFits ws recs (p + 1))

/-- The graph meets R199 for P members. -/
def cgraphOk (ws : List Word) (recs : List (List Word)) (p : Nat) : Bool := cgraphForm ws recs && cgraphFits ws recs p

/-! ## Reductions (R195) -/

/-- An element as a reduction reads it. -/
def redRead (red c : Nat) : Word := if red = 4 then wd (f32.round false true (bf16.decode c)).1 else wd c

def redOp (red : Nat) (acc v : Word) : Word × Bool :=
  match red with
  | 2 => let r := rFmax ⟨acc, v, 0, false, false, false⟩; (r.r, r.rf)
  | 3 => let r := rFmin ⟨acc, v, 0, false, false, false⟩; (r.r, r.rf)
  | 5 => sat32 (sx acc + sx v)
  | _ => let r := rne32s (FVal.add (fv acc) (fv v)); (wd r.1, r.2)

/-- The code written: bf16 of the sum for sum.bf16; a NaN is the canonical one of the buffer's format, and raises, be it the only
member's own (R73, R195). -/
def redFin (red : Nat) (acc : Word) : Nat × Bool :=
  if red = 4 then rnebf (fv acc)
  else if red = 5 then (acc.toNat, false)
  else if (fv acc).isNan then (f32.nanCode, true)
  else (acc.toNat, false)

/-- Values folded in increasing rank, the lowest rank's first. -/
def redFold (red : Nat) : List Word → Word × Bool → Word × Bool
  | [], r => r
  | v :: vs, r =>
    let o := redOp red r.1 v
    redFold red vs (o.1, r.2 || o.2)

/-- One element of an owned chunk over every rank's value. -/
def redElem (red : Nat) (vs : List Word) : Nat × Bool :=
  let a := redFold red (vs.drop 1) (vs.headD 0, false)
  let f := redFin red a.1
  (f.1, a.2 || f.2)

/-- The elements [lo, hi) of chunk j (R195). -/
def chunkRange (n p j : Nat) : Nat × Nat :=
  let c := ceilDiv n p
  (min n (j * c), min n ((j + 1) * c))

def chunkBytes (red n p j : Nat) (bs : List Byte) : List Byte :=
  let r := chunkRange n p j
  (bs.drop (r.1 * redWidth red)).take ((r.2 - r.1) * redWidth red)

/-! ## Groups and calls (R189 to R192) -/

def numAfter (n : Nat) : Nat := if n = 0xFFFFFF then 1 else n + 1
/-- The distance between two numbers of the cycle 1 to 0xFFFFFF. -/
def numDist (a b : Nat) : Nat := (a + 0xFFFFFF - b) % 0xFFFFFF

/-- A number whose call or round has been issued or opened here: it lies in the half of the cycle behind the next one. -/
def numPast (next n : Nat) : Bool := decide (1 ≤ numDist next n) && decide (numDist next n ≤ 0x7FFFFF)

def callWord (slot num : Nat) : Word := wd (slot * 2 ^ 24 + num)
def barObj : Nat := 1000

def noColl : Coll := ⟨[], [], 0, 0, 0, none, 0⟩

/-- The ranks a call must hear from (R192). -/
def peersOf (s : State) (g : Group) (c : Call) : List Nat :=
  (List.range g.p).filter (fun k => k != g.rank &&
    (c.pkt.tpl != 0 || (kget noColl s.colls c.obj).recs.any (fun r =>
      COp.on r k || (COp.type r != 4 && COp.peer r == k))))

def send (s : State) (ps : List OutPkt) : State := { s with sent := s.sent ++ ps }

/-- The start packets of a call may leave: what its issuer did before a bar or a crun with `.rel` is performed (R202, R204, R280). A call
of a group of one, which has none to send, waits for the same (DEDUCED, log 66). -/
def startsDue (s : State) (c : Call) : Bool := !c.sent && c.awaits.all (fun d => !depOpen s d)

/-- The start packets of the call that is first in its slot leave (R192 step 2). -/
def sendStarts (s : State) (slot : Nat) : State :=
  let g := s.group slot
  match g.calls with
  | [] => s
  | c :: cs =>
    if startsDue s c then
      send (s.modGroup slot (fun g => { g with calls := { c with sent := true } :: cs })) ((peersOf s g c).map (fun k => .start slot k c.pkt))
    else s

/-- A fault of the collective engine for a call (R206, R349): call number, and the rank that sent an abort or 0xFF. -/
def collFault (s : State) (slot : Nat) (c : Call) (cause rank : Nat) : State :=
  match c.inst with
  | some i => asyncFault s ⟨i, c.reg, c.el⟩ c.cslot 8 cause (callWord slot c.num) 0 (wd c.num) (wd rank)
  | none => hardFaultAt s c.graph 8 cause 0 (callWord slot c.num) 0 (wd c.num) (wd rank)

/-- A call enters its slot; an abort that came before it is raised at its issue, once (R191, R192). -/
def addCall (s : State) (slot : Nat) (c : Call) : State :=
  let g := s.group slot
  let s1 := s.modGroup slot (fun g =>
    { g with calls := g.calls ++ [c], next := numAfter g.next, aborts := g.aborts.filter (fun a => a.1 != c.num) })
  let s2 := if g.calls = [] then sendStarts s1 slot else s1
  match g.aborts.find? (fun a => a.1 == c.num) with
  | none => s2
  | some a => collFault s2 slot c a.2.1 a.2.2

/-! ## cgload (R201) -/

/-- The slot of a group number that the context may use. -/
def slotOf (s : State) (ctx g : Nat) : Option Nat :=
  (List.range 16).find? (fun k => (s.group k).valid && (s.group k).g == g && (s.group k).gctx == ctx)

def recordsOf : Nat → List Word → List (List Word)
  | 0, _ => []
  | n + 1, ws => ws.take 8 :: recordsOf n (ws.drop 8)

/-- The records of a graph object. -/
def loadRecs (q : Rq) (base : Nat) (ws : List Word) (s : State) : Except Stop (List (List Word) × State) :=
  if CObj.tpl ws = 0 then
    match readWords q ((base + CObj.ops ws) % 2 ^ 56) (8 * CObj.count ws) s with
    | .error e => .error e
    | .ok (rw, s1) => .ok (recordsOf (CObj.count ws) rw, s1)
  else .ok ([], s)

/-- An object read and checked: its words, its records, its slot (R201 steps 1 and 2). A graph that R199 refuses whatever P is, is refused
before its slot is looked for; for the P of its slot once that is found. -/
def loadObj (q : Rq) (base va : Nat) (s : State) : Except Stop (List Word × List (List Word) × Nat × State) := do
  let (ws, s1) ← readWords q va 16 s
  if cobjOk ws = false then trap0 0x033
  else if CObj.tpl ws = 0 ∧ CObj.ops ws % 32 ≠ 0 then trap0 0x023
  else
    let (recs, s2) ← loadRecs q base ws s1
    if CObj.tpl ws = 0 ∧ (cgraphForm ws recs = false ∨ cgraphFitsSome ws recs = false) then trap0 0x033
    else
      match slotOf s2 q.ctx (CObj.g ws) with
      | none => trap0 0x034
      | some k =>
        if CObj.tpl ws = 0 ∧ cgraphFits ws recs (s2.group k).p = false then trap0 0x033 else .ok (ws, recs, k, s2)

/-- A free entry of the engine's table of 256 objects: the lowest, which the spec does not say (R201; DESIGN CHOICE, log 65). -/
def freeColl (s : State) : Option Nat := (List.range 256).find? (fun i => !khas s.colls i)

def collHandle (slot i : Nat) : Word := wd (0xC * 2 ^ 28 + slot * 2 ^ 24 + i)

def workCgload : Work := fun j s => do
  let va ← ptrVA j j.src.a 64 s
  let s0 ← settled j .part s
  let (ws, recs, k, s1) ← loadObj (jobRq j s0) (dataVA s0 j.e.inst 0) va s0
  match freeColl s1 with
  | none => trap0 0x035
  | some i =>
    .ok (word (collHandle k i),
      { s1 with
        colls := kset s1.colls i
          (⟨ws, recs, k, (s1.group k).gen, dataVA s1 j.e.inst 0, some j.e.inst, (s1.inst j.e.inst).graph⟩ : Coll) })

def execCgload (f : FmtE) (s : State) : Out := runE f (.cgload f) s workCgload

/-! ## crun, bar, cseq, cwait (R202 to R205) -/

/-- The slot and object of a live handle, else trap 0x031 (R200, R202, R205). The context that may use the slot is looked at as the object is
loaded, not again here (DESIGN CHOICE, log 65). -/
def collOf (s : State) (h : Word) : Except Stop (Nat × Nat × Coll) :=
  let slot := bits h 27 24
  let i := bits h 7 0
  match s.colls.find? (fun p => p.1 == i) with
  | none => trap0 0x031
  | some (_, c) =>
    if bits h 31 28 = 0xC ∧ bits h 23 8 = 0 ∧ c.slot = slot ∧ c.gen = (s.group slot).gen ∧ (s.group slot).valid then
      .ok (slot, i, c)
    else trap0 0x031

/-- The alignment a displaced buffer needs: the element's width; 4 for a broadcast, 1 for a graph with no reduction
(log 28). -/
def collAlign (ws : List Word) : Nat :=
  if CObj.red ws = 0 then (if CObj.tpl ws = 2 then 4 else 1) else redWidth (CObj.red ws)

def dispOk (ws : List Word) (d : Word) : Bool :=
  (List.range 4).all (fun k => CObj.buf ws k == 0xFFFFFFFF || (CObj.buf ws k + d).toNat % collAlign ws == 0)

/-- What a call that releases awaits of its issuer's earlier operations: those at work, an exchange round only where a list of the issuer is
bound or lands in it, since a post is over with its dpost (R202, R204, R235, R280; DEDUCED, log 66). -/
def callAwaits (s : State) (e : ERef) : List Dep :=
  (openDeps s e).filter (fun d => match d with
    | .round slot _ => (((s.group slot).round.map (fun r => r.binds ++ r.land.toList)).getD []).any (fun l => l.el == e)
    | _ => true)

/-- A call made by an element. -/
def newCall (s : State) (j : Job) (slot : Nat) (pkt : StartPkt) (obj : Nat) (disp : Word) (rel acq : Bool)
    (rls : Option Release) : Call :=
  { num := pkt.num, pkt := pkt, obj := obj, inst := some j.e.inst, graph := (s.inst j.e.inst).graph, reg := j.e.reg
    el := j.e.el, cslot := j.slot, disp := disp, rel := rel, acq := acq, issued := s.now, started := false, snap := []
    counters := [], ran := [], opsDone := [], got := [], vals := [], exc := false, tmo := (s.group slot).tmo, rls := rls, cur := none
    awaits := if rel then callAwaits s j.e else [] }

def workCrun (f : FmtE) : Work := fun j s => do
  let (slot, i, c) ← collOf s j.src.a
  if dispOk c.words j.src.b = false then trap0 0x023
  else if 8 ≤ (s.group slot).calls.length ∨ s.inTurn (.calls slot) (actKey j.e) = false then .error .wait
  else
    let rel := bit f.fn 0
    let s1 ← settled j .part s
    let s0 := if rel then widenElem s1 j.e .group else s1
    let r := releaseAt s0 j.e.inst j.e.reg (before s0 j.e)
    let s2 := if rel then r.2 else s0
    let ws := c.words
    let pkt : StartPkt := ⟨(s2.group slot).next, CObj.tpl ws, CObj.red ws, CObj.count ws, CObj.opc ws⟩
    let call := newCall s2 j slot pkt i j.src.b rel (bit f.fn 1) (if rel && bit f.fn 1 then some r.1 else none)
    .ok (word (callWord slot pkt.num), (addCall s2 slot call).act (.calls slot) (actKey j.e))

def execCrun (f : FmtE) (s : State) : Out := runE f (.crun f) s (workCrun f)

/-- A call's number is outstanding on this member. -/
def callOpen (s : State) (slot num : Nat) : Bool := (s.group slot).calls.any (fun c => c.num == num)

/-- What a completed call left for those who wait on it: its events, and what it releases. -/
def endedOf (s : State) (slot num : Nat) : Bool × Option Release :=
  match (s.group slot).ended.find? (fun p => p.1 == num) with
  | none => (false, none)
  | some p => p.2

/-- cseq (R205). -/
def workCseq : Work := fun j s =>
  match collOf s j.src.a with
  | .error e => .error e
  | .ok (slot, _, _) => .ok (word (wd (s.group slot).next), s)

def execCseq (f : FmtE) (s : State) : Out := runE f (.cseq f) s workCseq

/-- cwait (R203). It goes by d alone: a call that has left its slot with its graph's fatal fault returns at once with flag 0, and a word
from before a FORM is taken as one of the new group's (R189, R192; DESIGN CHOICE, log 65). -/
def workCwait : Work := fun j s =>
  let slot := bits j.src.a 31 24
  let num := bits j.src.a 23 0
  let d := numDist (s.group slot).next num
  if 16 ≤ slot ∨ (s.group slot).valid = false ∨ num = 0 ∨ d = 0 then trap0 0x032
  else if 64 < d then .ok (word 0, s)
  else if callOpen s slot num then .error .wait
  else
    let r := endedOf s slot num
    .ok (⟨0, r.1, false⟩, acquireOptAt s j.e r.2)

def execCwait (f : FmtE) (s : State) : Out := runE f (.cwait f) s workCwait

/-- bar takes its number once its slot has fewer than eight calls outstanding; it releases what its issuer did before it at
group scope: the stores now, what is at work before its start packets leave (R204). -/
def startBar (j : Job) (s : State) : Except Stop (Word × State) := do
  let (slot, _, _) ← collOf s j.src.a
  if 8 ≤ (s.group slot).calls.length ∨ s.inTurn (.calls slot) (actKey j.e) = false then .error .wait
  else
    let s1 ← settled j .part s
    let s0 := widenElem s1 j.e .group
    let r := releaseAt s0 j.e.inst j.e.reg (before s0 j.e)
    let pkt : StartPkt := ⟨(r.2.group slot).next, 15, 0, 0, 0⟩
    .ok (callWord slot pkt.num, 
      (addCall r.2 slot (newCall r.2 j slot pkt barObj 0 true true (some r.1))).act (.calls slot) (actKey j.e))

/-- bar's wait ends when the call whose word it took has completed (R204). -/
def workBar (w : Word) : Work := fun j s =>
  let slot := bits w 31 24
  if callOpen s slot (bits w 23 0) then .error .wait
  else .ok (word w, acquireOptAt s j.e (endedOf s slot (bits w 23 0)).2)

/-- The course of a bar: its call word stands in the b value it read, 0 (its SB is code 13) until it takes its number. -/
def settleBar (w : Wait) (e : ERef) (k : Sink) (s : State) : State :=
  if w.src.b = 0 then
    match startBar ⟨e, w.slot, w.src⟩ s with
    | .ok (n, s1) => s1.modElem e (fun y => { y with dp := .work { w with src := { w.src with b := n } } })
    | .error er => conclude w e k (.error er) s
  else settle w e k (workBar w.src.b) s

def execBar (f : FmtE) (s : State) : Out :=
  let x := s.curElem
  .next (
    if dstFull x f.dst then hold s
    else
      match fetch x s.curTrig s.curCoord f.dst f.sa 13 false false with
      | .empty => hold s
      | .marker => trapCur s 0x012 0 0
      | .got src popped x1 =>
        settleBar ⟨s.curSlot, s.curBeat, .bar f, src, popped, s.now⟩ s.cur (sinkE f) (s.setElem s.cur x1))

/-! ## Groups formed and dissolved (R189, R190) -/

/-- The result of a FORM (R190 GSTAT), the lowest code that applies (log 33). Result 3 looks at the other slots alone: that a slot
formed anew with the G it held is not "already held" is the model's (DESIGN CHOICE, log 67). -/
def formResult (s : State) (slot gn p rank : Nat) : Nat :=
  let g := s.group slot
  if p = 0 ∨ 64 < p ∨ p ≤ rank then 1
  else if kget 0 g.map rank ≠ s.naddr then 2
  else if (List.range 16).any (fun k => k != slot && (s.group k).valid && (s.group k).g == gn &&
      (s.group k).gctx == g.gctx) then 3
  else if g.valid ∧ (g.calls ≠ [] ∨ g.round.isSome) then 4
  else 0

/-- What a slot keeps through a FORM or a DISSOLVE: its registers, and packets that came before the group was formed here (R190). What stands
at a slot that is valid, and idle, is its old group's, and is gone with it (DESIGN CHOICE, log 65). -/
def regrouped (g : Group) : Group :=
  { ({} : Group) with
    g := g.g
    p := g.p
    rank := g.rank
    map := g.map
    tmo := g.tmo
    gctx := g.gctx
    gen := g.gen + 1
    starts := if g.valid then [] else g.starts
    chunks := if g.valid then [] else g.chunks
    aborts := if g.valid then [] else g.aborts
    early := if g.valid then [] else g.early
    roundAborts := if g.valid then [] else g.roundAborts }

/-- The group of a FORM (R189, R190). -/
def formed (g : Group) (gn p rank now : Nat) : Group :=
  { regrouped g with
    valid := true
    g := gn
    p := p
    rank := rank
    last := (List.range p).map (fun k => (k, now)) }

/-- GSTAT as it reads: BUSY, and the result of the last FORM or DISSOLVE (R190). -/
def gstatRead (g : Group) : Word := wd ((if g.gctl.isSome then 2 ^ 31 else 0) + g.gstat)

/-- GCTL as it reads (R190): 0 while the slot is not valid, where its other fields have no group to tell of (DESIGN CHOICE, log 65). -/
def gctlRead (g : Group) : Word := if g.valid then wd (2 ^ 29 + g.g * 2 ^ 16 + g.p * 2 ^ 8 + g.rank) else 0

/-- A write of GCTL that is not answered yet is this one, or there is none: the write and its answer are then one step (log 60). -/
def gctlIs (g : Group) (p : Word → Bool) : Bool :=
  match g.gctl with
  | none => true
  | some v => p v

/-- A call of a number has left the slot: packets of it that come late are of no call to come (R192). -/
def callGone (g : Group) (num : Nat) : Bool := g.valid && numPast g.next num && !g.calls.any (fun c => c.num == num)

/-- GCTL with FORM; a write with FORM and DISSOLVE both is taken as DISSOLVE (DESIGN CHOICE, log 63). -/
def execGroupForm (slot : Nat) (v : Word) (s : State) : Out :=
  let r := formResult s slot (bits v 23 16) (bits v 14 8) (bits v 5 0)
  when (slot < 16 && !s.recovery && bit v 31 && !bit v 30 && gctlIs (s.group slot) (· == v)) "GROUP_FORM"
    (if r = 0 then s.modGroup slot (fun g => formed g (bits v 23 16) (bits v 14 8) (bits v 5 0) s.now)
     else s.modGroup slot (fun g => { g with gstat := r, gctl := none }))

def execGroupDissolve (slot : Nat) (s : State) : Out :=
  let g := s.group slot
  when (slot < 16 && !s.recovery && gctlIs g (fun v => bit v 30)) "GROUP_DISSOLVE"
    (if g.valid ∧ (g.calls ≠ [] ∨ g.round.isSome) then s.modGroup slot (fun g => { g with gstat := 4, gctl := none })
     else s.modGroup slot regrouped)

/-! ## The engine's accesses (R287, R268) -/

def collRq (s : State) (slot : Nat) (c : Call) : Rq :=
  let die := match c.inst with
    | some i => s.dieOf i c.reg
    | none => 0
  ⟨.collective slot c.num, c.graph, (s.group slot).gctx, die, 4, c.cslot, ⟨2 ^ 32, 0, none, 1000⟩, some 255, none, false, true, []⟩

def collStop (s : State) (name : String) (slot : Nat) (c : Call) : Stop → Out
  | .access va wr st t => .next (addAcc s (collRq s slot c) va wr st t)
  | .keep _ => notNow name
  | .later => notNow name
  | .wait => notNow name
  | .trap cause a i k | .fatal cause a i k =>
    let s := dropJournal s (.collective slot c.num)
    .next (match c.inst with
      | some inst => asyncFault s ⟨inst, c.reg, c.el⟩ c.cslot 8 cause (callWord slot c.num) a i k
      | none => hardFaultAt s c.graph 8 cause 0 (callWord slot c.num) a i k)

def modCall (s : State) (slot num : Nat) (f : Call → Call) : State :=
  s.modGroup slot (fun g => { g with calls := replaceFirst (fun c => c.num == num) f g.calls })

def collEntry (s : State) (c : Call) : Coll := kget noColl s.colls c.obj

/-- The address of a byte of a call's buffer (R202). -/
def bufVA (s : State) (c : Call) (b off : Nat) : Nat :=
  ((collEntry s c).base + (CObj.buf (collEntry s c).words b + c.disp).toNat + off) % 2 ^ 56

/-- The call goes on while its graph has no fatal fault. -/
def callUp (s : State) (slot : Nat) (c : Call) : Bool :=
  (s.graph c.graph).fault.isNone && !accPending s (.collective slot c.num)

/-! ## Chunks (R195, R196) -/

/-- Every rank's codes of this member's own chunk, in increasing rank; none while one is missing. -/
def ownValues (g : Group) (c : Call) (red n : Nat) : Option (List (List Byte)) :=
  (List.range g.p).mapM (fun k =>
    if k = g.rank then some (chunkBytes red n g.p g.rank c.snap)
    else (g.chunks.find? (fun x => x.num == c.num && x.rank == k && x.key == g.rank && !x.final)).map ChunkPkt.bytes)

/-- A reduced chunk: element by element over the ranks, and whether anything raised. -/
def reduceChunk (red : Nat) (vs : List (List Byte)) (len : Nat) : List Byte × Bool :=
  let w := redWidth red
  let es := (List.range len).map (fun x => redElem red (vs.map (fun bs => redRead red (leNat ((bs.drop (x * w)).take w)))))
  (es.flatMap (fun e => leBytes w e.1), es.any Prod.snd)

/-- A started allreduce whose own chunk has every value finishes it and sends it (R195). -/
def absorb (s : State) (slot : Nat) : State :=
  let g := s.group slot
  match g.calls.head? with
  | none => s
  | some c =>
    let ws := (collEntry s c).words
    let n := CObj.count ws
    let red := CObj.red ws
    let r := chunkRange n g.p g.rank
    if c.started ∧ c.pkt.tpl = 1 ∧ c.vals = [] ∧ r.1 < r.2 then
      match ownValues g c red n with
      | none => s
      | some vs =>
        let o := reduceChunk red vs (r.2 - r.1)
        let s1 := modCall s slot c.num (fun c => { c with vals := [(g.rank, 0, o.1)], exc := c.exc || o.2 })
        send s1 (((List.range g.p).filter (· != g.rank)).map (fun k => .chunk slot k ⟨g.rank, c.num, g.rank, true, o.1⟩))
    else s

/-! ## Packets and the start of a call (R192) -/

def execCollectiveStartPacket (slot rank : Nat) (p : StartPkt) (s : State) : Out :=
  when (slot < 16 && decide (rank < 64)) "COLLECTIVE_START_PACKET"
    (if callGone (s.group slot) p.num then s else s.modGroup slot (fun g => { g with starts := g.starts ++ [(rank, p)] }))

def execCollectiveChunkPacket (slot : Nat) (p : ChunkPkt) (s : State) : Out :=
  when (slot < 16 && decide (p.rank < 64)) "COLLECTIVE_CHUNK_PACKET"
    (if callGone (s.group slot) p.num then s
     else absorb (s.modGroup slot (fun g => { g with chunks := g.chunks ++ [p] })) slot)

/-- A mismatch: the fault 0x1A0, and an abort packet to every member. -/
def mismatch (s : State) (slot : Nat) (c : Call) : State :=
  let g := s.group slot
  send (collFault s slot c 0x1A0 0xFF)
    (((List.range g.p).filter (· != g.rank)).map (fun k => .abort slot k c.num 0x1A0))

/-- What a template reads when it starts, and what it sends. -/
def startTemplate (slot : Nat) (c : Call) (s : State) : Except Stop State :=
  let g := s.group slot
  let ws := (collEntry s c).words
  let n := CObj.count ws
  let others := (List.range g.p).filter (· != g.rank)
  if c.pkt.tpl = 1 then
    match readVA (collRq s slot c) (bufVA s c 0 0) (n * redWidth (CObj.red ws)) s with
    | .error e => .error e
    | .ok (bs, s1) =>
      let s2 := modCall s1 slot c.num (fun c => { c with started := true, snap := bs })
      .ok (absorb (send s2 ((others.filter (fun j => (chunkRange n g.p j).1 < (chunkRange n g.p j).2)).map (fun j =>
        .chunk slot j ⟨g.rank, c.num, j, false, chunkBytes (CObj.red ws) n g.p j bs⟩))) slot)
  else if c.pkt.tpl = 2 ∧ g.rank = CObj.root ws then
    match readVA (collRq s slot c) (bufVA s c 0 0) n s with
    | .error e => .error e
    | .ok (bs, s1) =>
      .ok (send (modCall s1 slot c.num (fun c => { c with started := true }))
        (others.map (fun k => .chunk slot k ⟨g.rank, c.num, 0, true, bs⟩)))
  else .ok (modCall s slot c.num (fun c => { c with started := true }))

/-- The call that is first in its slot sends its start packets, once what it awaits is performed, and starts by a second step, once those of
its peers are here (R192). -/
def execCollectiveCallStart (slot num : Nat) (s : State) : Out :=
  let g := s.group slot
  match g.calls.head? with
  | none => notNow "COLLECTIVE_CALL_START"
  | some c =>
    let mine := g.starts.filter (fun p => p.2.num == num)
    if c.num ≠ num ∨ c.started ∨ callUp s slot c = false then notNow "COLLECTIVE_CALL_START"
    else if c.sent = false then when (startsDue s c) "COLLECTIVE_CALL_START" (sendStarts s slot)
    else if mine.any (fun p => p.2 != c.pkt) then .next (mismatch s slot c)
    else if (peersOf s g c).all (fun k => mine.any (fun p => p.1 == k)) = false then notNow "COLLECTIVE_CALL_START"
    else if c.pkt.tpl = 2 ∧ g.p ≤ CObj.root (collEntry s c).words then .next (mismatch s slot c)
    else
      match workOf (.collective slot num) (fun u => (startTemplate slot c u).map (fun t => ((), t))) s with
      | .ok (_, t) => .next t
      | .error e => collStop s "COLLECTIVE_CALL_START" slot c e

/-- A call has not started within TMO of its issue (R192 step 5). -/
def execCollectiveStartTimeout (slot num : Nat) (s : State) : Out :=
  match (s.group slot).calls.find? (fun c => c.num == num) with
  | none => notNow "COLLECTIVE_START_TIMEOUT"
  | some c =>
    when (!c.started && decide (c.issued + c.tmo * 1000000 ≤ s.now) && (s.graph c.graph).fault.isNone)
      "COLLECTIVE_START_TIMEOUT" (collFault s slot c 0x1A1 0xFF)

/-- An abort: 0x1A0 or 0x1A2 for the call of that number; one not issued yet raises it at its issue (R192). -/
def execCollectiveAbortPacket (slot rank num cause : Nat) (s : State) : Out :=
  let g := s.group slot
  when (slot < 16 && (cause == 0x1A0 || cause == 0x1A2)) "COLLECTIVE_ABORT_PACKET"
    (match g.calls.find? (fun c => c.num == num) with
     | some c => collFault s slot c cause rank
     | none =>
       if callGone g num then s
       else s.modGroup slot (fun g => { g with aborts := g.aborts ++ [(num, cause, rank)] }))

/-! ## Chunk graphs (R197, R198) -/

def counterOf (c : Call) (k : Nat) : Nat := kget 0 c.counters k

/-- The chunk an operation takes. -/
def chunkFor (g : Group) (c : Call) (r : List Word) : Option ChunkPkt :=
  g.chunks.find? (fun x => x.num == c.num && x.rank == COp.peer r && x.key == COp.key r && !x.final &&
    x.bytes.length == COp.len r)

def opEligible (s : State) (slot : Nat) (c : Call) (op : Nat) : Bool :=
  let g := s.group slot
  let recs := (collEntry s c).recs
  let r := recs.getD op []
  decide (op < recs.length) && COp.on r g.rank && !c.ran.contains op && decide (COp.thr r ≤ counterOf c op) &&
  (!COp.takes r || (chunkFor g c r).isSome)

/-- buf[x] := op(buf[x], v) over a chunk (R198); sum.bf16 writes the bf16 of its sum (log 29). -/
def reduceInto (red : Nat) (old new : List Byte) : List Byte × Bool := reduceChunk red [old, new] (old.length / redWidth red)

/-- An operation runs, and its event. -/
def runOp (slot : Nat) (c : Call) (r : List Word) (s : State) : Except Stop (Bool × State) :=
  let g := s.group slot
  let q := collRq s slot c
  let red := CObj.red (collEntry s c).words
  let va := bufVA s c (COp.buf r) (COp.off r)
  match COp.type r with
  | 1 => do
    let (bs, s1) ← readVA q va (COp.len r) s
    .ok (false, send s1 [.chunk slot (COp.peer r) ⟨g.rank, c.num, COp.key r, false, bs⟩])
  | 4 => do
    let (bs, s1) ← readVA q va (COp.len r) s
    let s2 ← writeVA q (bufVA s c (COp.buf2 r) (COp.off2 r)) bs s1
    .ok (false, s2)
  | t =>
    match chunkFor g c r with
    | none => .error .wait
    | some p =>
      let s0 := s.modGroup slot (fun g => { g with chunks := removeFirst (· == p) g.chunks })
      if t = 2 then
        match writeVA q va p.bytes s0 with
        | .error e => .error e
        | .ok s1 => .ok (false, s1)
      else do
        let (bs, s1) ← readVA q va (COp.len r) s0
        let o := reduceInto red bs p.bytes
        let s2 ← writeVA q va o.1 s1
        .ok (o.2, s2)

def bumpAll (cs : KMap Nat) : List Nat → KMap Nat
  | [] => cs
  | k :: ks => bumpAll (kset cs k (kget 0 cs k + 1)) ks

/-- The operation that goes on or starts: the one whose accesses are not all made, else the eligible one of the lowest number (R198,
R267). -/
def opNext (s : State) (slot : Nat) (c : Call) (op : Nat) : Bool :=
  if khas s.journals (.collective slot c.num) then c.cur == some op
  else opEligible s slot c op && (List.range op).all (fun i => !opEligible s slot c i)

/-- An operation runs; its completion counts at each successor that runs here (R198). -/
def execChunkGraphOpStart (slot num op : Nat) (s : State) : Out :=
  let g := s.group slot
  match g.calls.head? with
  | none => notNow "CHUNK_GRAPH_OP_START"
  | some c =>
    let recs := (collEntry s c).recs
    let r := recs.getD op []
    if c.num = num ∧ c.started ∧ c.pkt.tpl = 0 ∧ callUp s slot c ∧ opNext s slot c op then
      match workOf (.collective slot num) (runOp slot c r) s with
      | .error e => collStop (modCall s slot num (fun c => { c with cur := some op })) "CHUNK_GRAPH_OP_START" slot c e
      | .ok (x, t) =>
        .next (modCall t slot num (fun c =>
          { c with
            cur := none
            ran := op :: c.ran
            exc := c.exc || x
            counters := bumpAll c.counters ((COp.sucs r).filter (fun k => COp.on (recs.getD k []) g.rank)) }))
    else notNow "CHUNK_GRAPH_OP_START"

/-! ## Completion (R195, R196, R198, R204) -/

/-- The chunks a template writes on this member, as (byte offset, bytes); none while one is missing (log 32). -/
def templateWrites (g : Group) (c : Call) (ws : List Word) : Option (List (Nat × List Byte)) :=
  let n := CObj.count ws
  let w := redWidth (CObj.red ws)
  let final (k key : Nat) := (g.chunks.find? (fun x => x.num == c.num && x.rank == k && x.key == key && x.final)).map
    ChunkPkt.bytes
  if c.pkt.tpl = 1 then
    ((List.range g.p).filter (fun j => (chunkRange n g.p j).1 < (chunkRange n g.p j).2)).mapM (fun j =>
      (if j = g.rank then (c.vals.head?).map (fun v => v.2.2) else final j j).map
        (fun bs => ((chunkRange n g.p j).1 * w, bs)))
  else if g.rank = CObj.root ws then some []
  else (final (CObj.root ws) 0).map (fun bs => [(0, bs)])

/-- Everything of the call that is to be written now; none while the call is not done. -/
def callWrites (s : State) (slot : Nat) (c : Call) : Option (List (Nat × List Byte)) :=
  let g := s.group slot
  let e := collEntry s c
  if c.pkt.tpl = 15 then some []
  else if c.pkt.tpl = 0 then
    if (List.range e.recs.length).all (fun i => !COp.on (e.recs.getD i []) g.rank || c.ran.contains i) then some [] else none
  else templateWrites g c e.words

def writeParts (q : Rq) (va : Nat) : List (Nat × List Byte) → State → Except Stop State
  | [], s => .ok s
  | (o, bs) :: r, s =>
    match writeVA q ((va + o) % 2 ^ 56) bs s with
    | .error e => .error e
    | .ok s1 => writeParts q va r s1

/-- The call leaves its slot; the next one's start packets leave (R192 steps 1 and 2). -/
def endCall (s : State) (slot : Nat) (c : Call) : State :=
  sendStarts (s.modGroup slot (fun g =>
    { g with
      calls := g.calls.drop 1
      ended := ((c.num, c.exc, c.rls) :: g.ended).take 64
      starts := g.starts.filter (fun p => p.2.num != c.num)
      chunks := g.chunks.filter (fun p => p.num != c.num) })) slot

def execCollectiveCallComplete (slot num : Nat) (s : State) : Out :=
  match (s.group slot).calls.head? with
  | none => notNow "COLLECTIVE_CALL_COMPLETE"
  | some c =>
    if c.num = num ∧ c.started ∧ callUp s slot c then
      match callWrites s slot c with
      | none => notNow "COLLECTIVE_CALL_COMPLETE"
      | some parts =>
        match workOf (.collective slot num) (fun u =>
            (writeParts (collRq s slot c) (bufVA s c 0 0) parts u).map (fun t => ((), t))) s with
        | .ok (_, t) => .next (endCall t slot c)
        | .error e => collStop s "COLLECTIVE_CALL_COMPLETE" slot c e
    else notNow "COLLECTIVE_CALL_COMPLETE"

end Sys2Proof.Machine
end

