-- ==== Sys2Proof/Machine/Contraction.lean ====
section
/-! DEFINITION. Block contractions: bcon, bcres, bcstat, bcwait and the sequencer's steps
(spec/07_instr_contraction_tiles.md R124 to R135, spec/06_block_tensors.md R91 to R97, spec/13_ragged_sparse_ternary.md
R217, R218). -/

namespace Sys2Proof.Machine

/-! ## The descriptor (R124, R126) -/

namespace ConDesc
def np (ws : List Word) : Nat := bits (nthW ws 0) 23 22 + 1
def acc (ws : List Word) : Bool := bit (nthW ws 0) 21
def nomig (ws : List Word) : Bool := bit (nthW ws 0) 20
def fa (ws : List Word) : Nat := bits (nthW ws 0) 19 16
def fb (ws : List Word) : Nat := bits (nthW ws 0) 15 12
/-- The contracted pairs: (A leg, B leg). -/
def pairs (ws : List Word) : List (Nat × Nat) :=
  (List.range (np ws)).map (fun j => (bits (nthW ws 5) (8 * j + 6) (8 * j + 4), bits (nthW ws 5) (8 * j + 2) (8 * j)))
def nc (ws : List Word) : Nat := bits (nthW ws 6) 27 24
/-- The C legs: whether from B, and the leg. -/
def outs (ws : List Word) : List (Bool × Nat) :=
  (List.range (nc ws)).map (fun i => (bit (nthW ws 6) (4 * i + 3), bits (nthW ws 6) (4 * i + 2) (4 * i)))
def thr (ws : List Word) : Nat := let n := bits (nthW ws 7) 15 0; if n = 0 then 64 else n
end ConDesc

/-- The result format of a format pair; none for a pair outside R126. -/
def conResult : EFmt → EFmt → Option EFmt
  | .bf16, .bf16 => some .f32
  | .f16, .f16 => some .f32
  | .e4m3, .e4m3 => some .f32
  | .e4m3, .e5m2 => some .f32
  | .e5m2, .e4m3 => some .f32
  | .e5m2, .e5m2 => some .f32
  | .i8, .i8 => some .i32
  | .n8, .n8 => some .i32
  | .i8, .t2 => some .i32
  | .t2, .i8 => some .i32
  | _, _ => none

/-- The formats of A and B with the result's. -/
def conFmts (ws : List Word) : Option (EFmt × EFmt × EFmt) :=
  match EFmt.ofCode (ConDesc.fa ws), EFmt.ofCode (ConDesc.fb ws) with
  | some a, some b => (conResult a b).map (fun r => (a, b, r))
  | _, _ => none

/-- The legs of A, or of B, that the pairs and OUT name. -/
def aLegs (ws : List Word) : List Nat :=
  (ConDesc.pairs ws).map Prod.fst ++ ((ConDesc.outs ws).filter (fun o => !o.1)).map Prod.snd
def bLegs (ws : List Word) : List Nat :=
  (ConDesc.pairs ws).map Prod.snd ++ ((ConDesc.outs ws).filter (fun o => o.1)).map Prod.snd

/-- The descriptor meets R124 and R127's row for cause 0x024. -/
def conDescOk (ws : List Word) : Bool :=
  bits (nthW ws 0) 31 24 == 0xBC && bits (nthW ws 0) 11 0 == 0 &&
  (List.range 4).all (fun j =>
    if j < ConDesc.np ws then !bit (nthW ws 5) (8 * j + 7) && !bit (nthW ws 5) (8 * j + 3)
    else bits (nthW ws 5) (8 * j + 7) (8 * j) == 0) &&
  bits (nthW ws 6) 31 28 == 0 && decide (1 ≤ ConDesc.nc ws) && decide (ConDesc.nc ws ≤ 6) &&
  (List.range 6).all (fun i => if i < ConDesc.nc ws then true else bits (nthW ws 6) (4 * i + 3) (4 * i) == 0) &&
  bits (nthW ws 7) 31 16 == 0 && (ws.drop 8).all (· == 0) &&
  (aLegs ws).all (· ≤ 5) && (bLegs ws).all (· ≤ 5) && decide (aLegs ws).Nodup && decide (bLegs ws).Nodup &&
  (conFmts ws).isSome

/-! ## Records and handles (R112, R133) -/

def conHandle (reg seq : Nat) : Word := wd (reg * 2 ^ 16 + seq)

def nextSeq (n : Nat) : Nat := if n = 0xFFFF then 1 else n + 1

/-- The record of a number among the last 64 of a region (R133). -/
def findCon (x : Region) (seq : Nat) : Option Contraction := (x.cons.reverse.take 64).find? (fun c => c.seq == seq)

/-- A contraction that is at work, whether or not its record is still kept. -/
def liveCon (x : Region) (seq : Nat) : Option Contraction :=
  x.cons.reverse.find? (fun c => c.seq == seq)

def modCon (s : State) (r : RRef) (seq : Nat) (f : Contraction → Contraction) : State :=
  s.modRegion r (fun x => { x with cons := (replaceFirst (fun c => c.seq == seq) f x.cons.reverse).reverse })

/-- A new record joins; records of ended contractions beyond the last 64 are dropped. -/
def addCon (x : Region) (c : Contraction) : Region :=
  let n := x.cons.length - 63
  { x with cons := (x.cons.take n).filter (fun d => decide (d.state ≤ 1)) ++ x.cons.drop n ++ [c], cseq := nextSeq x.cseq }

/-- The region and number a contraction handle names; 0x025 where it names no kept record (R135). -/
def conOf (s : State) (inst : Nat) (h : Word) : Except Stop (RRef × Contraction) :=
  let r : RRef := ⟨inst, bits h 23 16⟩
  if bits h 31 24 ≠ 0 ∨ !(s.inst inst).img.regions.any (fun x => x.reg == r.reg) then trap0 0x025
  else
    match findCon (s.region r) (bits h 15 0) with
    | some c => .ok (r, c)
    | none => trap0 0x025

/-! ## BCON (R127) -/

/-- BUSY and OPH, or STOP, of a directory's header written; these writes neither check nor set stamps (R132). -/
def writeHdr (q : Rq) (va : Nat) (w0 : Word) (oph : Option Word) (s : State) : Except Stop State :=
  match writeWord { q with charge := none } va w0 s with
  | .error e => .error e
  | .ok s1 =>
    match oph with
    | none => .ok s1
    | some h => writeWord { q with charge := none } (va + 20) h s1

/-- bcon: the descriptor is checked, and the contraction queued (R124 to R127); it waits for a sort of A or B (R122); a pointer in it that is not aligned is 0x023
(log 20). -/
def workBcon : Work := fun j s => do
  let va ← ptrVA j j.src.a 64 s
  let s0 ← settled j .part s
  let q := jobRq j s0
  let (ws, s1) ← readWords q va 16 s0
  if conDescOk ws = false then trap0 0x024
  else
    let a ← ptrVA j (nthW ws 1) 64 s
    let b ← ptrVA j (nthW ws 2) 64 s
    let c ← ptrVA j (nthW ws 3) 64 s
    let p ← ptrVA j (nthW ws 4) 64 s
    if c = a ∨ c = b then trap0 0x024
    else
      let (ha, s2) ← readHdr q a s1
      let (hb, s3) ← readHdr q b s2
      let (hc, s4) ← readHdr q c s3
      let (pw, s5) ← readWords q p 16 s4
      if ha.sorting ∨ hb.sorting then .error .wait
      else if hc.busy then busyTrap
      else if PoolHdr.ok ⟨pw⟩ = false then trap0 0x024
      else
        let g ← needRule s5 j.e.rref hc.rule
        let seq := (s5.region j.e.rref).cseq
        let h := conHandle j.e.reg seq
        let s6 ← writeHdr q c (setBitW hc.w0 9 true) (some h) s5
        .ok (word h, s6.modRegion j.e.rref (fun x => addCon x
          { seq := seq, resume := 0, state := 0, cause := 0, retired := 0, alloc := 0, migr := 0, xk := none
            el := j.e.el, slot := j.slot, desc := ws, rule := g, na := ha.count, nb := hb.count, i := 0, j := 0
            walked := false, stopped := none, queue := [], written := [], owners := [], exc := false }))

def execBcon (f : FmtE) (s : State) : Out := runE f (.bcon f) s workBcon

/-! ## BCRES, BCSTAT, BCWAIT (R135) -/

/-- bcres: its result is SA, flag and all (R32, R135). -/
def workBcres : Work := fun j s => do
  let (r, c) ← conOf s j.e.inst j.src.a
  if c.state ≠ 1 ∨ j.src.b ≠ wd c.resume then trap0 0x026
  else
    let s0 ← settled j .part s
    let q := jobRq j s0
    let va := dataVA s j.e.inst (nthW c.desc 3).toNat
    let (hc, s1) ← readHdr q va s0
    let s2 ← writeHdr q va (setBitW hc.w0 8 false) none s1
    .ok (⟨j.src.a, j.src.fa, false⟩, modCon s2 r c.seq (fun c => { c with state := 0, stopped := none }))

def execBcres (f : FmtE) (s : State) : Out := runE f (.bcres f) s workBcres

/-- A field of the status record (R133). -/
def conField (r : RRef) (c : Contraction) : Nat → Word
  | 0 => wd c.resume
  | 1 => wd c.state
  | 2 => wd c.cause
  | 3 => wd c.retired
  | 4 => wd c.alloc
  | 5 => wd c.migr
  | 6 => wd (c.xk.getD 0xFFFFFFFF)
  | _ => wd (r.reg * 2 ^ 16 + c.el * 2 ^ 8 + c.slot)

def workBcstat : Work := fun j s => do
  let (r, c) ← conOf s j.e.inst j.src.a
  if 7 < j.src.b.toNat then trap0 0x02B else .ok (word (conField r c j.src.b.toNat), s)

def execBcstat (f : FmtE) (s : State) : Out := runE f (.bcstat f) s workBcstat

def workBcwait : Work := fun j s => do
  let (_, c) ← conOf s j.e.inst j.src.a
  if c.state = 0 then .error .wait else .ok (word (wd c.state), s)

def execBcwait (f : FmtE) (s : State) : Out := runE f (.bcwait f) s workBcwait

/-! ## Checks of the run (R94, R127, second group) -/

/-- A fatal fault of the contraction at product k, with the C entry's index where there is one (R349). -/
def conFatal {α : Type} (cause k : Nat) (c : Option Nat) : Except Stop α :=
  .error (.fatal cause 0 (wd k) (match c with
    | some i => wd i
    | none => 0xFFFFFFFF))

/-- The headers agree with each other and with the descriptor (R127, cause 0x106). -/
def consistent (g : Rule) (ws : List Word) (a b c : Hdr) : Bool :=
  a.rule == b.rule && b.rule == c.rule &&
  a.nleg + b.nleg == ConDesc.nc ws + 2 * ConDesc.np ws && ConDesc.nc ws == c.nleg &&
  (aLegs ws).all (· < a.nleg) && (bLegs ws).all (· < b.nleg) &&
  (ConDesc.pairs ws).all (fun p => a.isOut p.1 != b.isOut p.2) &&
  ((List.range (ConDesc.nc ws)).zip (ConDesc.outs ws)).all (fun p =>
    c.isOut p.1 == (if p.2.1 then b.isOut p.2.2 else a.isOut p.2.2)) &&
  c.flux == (cadd g a.flux b.flux).1

/-- The three headers as bcon's sequencer reads them (R94, R127). Where they meet several of its causes the spec gives no order: 0x109 is looked
for first, then 0x108, then 0x106 (DESIGN CHOICE, log 67). -/
def checkHdrs (g : Rule) (ws : List Word) (k : Nat) (a b c : Hdr) : Except Stop Unit :=
  if !(a.ok && b.ok && c.ok) then conFatal 0x109 k none
  else if !(canonical g a.flux && canonical g b.flux && canonical g c.flux) then conFatal 0x108 k none
  else if !consistent g ws a b c then conFatal 0x106 k none
  else .ok ()

/-- A header that a product reads again (R94). -/
def checkHdr (g : Rule) (k c : Nat) (h : Hdr) : Except Stop Unit :=
  if !h.ok then conFatal 0x109 k (some c)
  else if !canonical g h.flux then conFatal 0x108 k (some c)
  else .ok ()

/-- Any valid entry that the sequencer reads (R94); where it meets several rows of the table, for which the spec gives no order, 0x109 goes
before 0x108 and this before 0x10C (DESIGN CHOICE, log 67). -/
def soundEnt (s : State) (inst : Nat) (g : Rule) (nleg : Nat) (e : Ent) (k : Nat) (c : Option Nat) : Except Stop Unit :=
  if !e.ok nleg then conFatal 0x109 k c
  else if !(e.qs nleg).all (canonical g) then conFatal 0x108 k c
  else if e.h && !live s inst (wd e.addr0) then conFatal 0x10C k c
  else .ok ()

/-- An entry that a product takes: sound, and its format the one given (R127, cause 0x107). -/
def checkEnt (s : State) (inst : Nat) (g : Rule) (nleg : Nat) (fmt : EFmt) (e : Ent) (k : Nat) (c : Option Nat) :
    Except Stop Unit :=
  match soundEnt s inst g nleg e k c with
  | .error x => .error x
  | .ok _ => if e.fmt != fmt.code then conFatal 0x107 k c else .ok ()

/-- The C legs' values of a pair of entries: charges, or dimensions. -/
def fromLegs {α : Type} (ws : List Word) (a b : Nat → α) : List α :=
  (ConDesc.outs ws).map (fun o => if o.1 then b o.2 else a o.2)

/-! ## The walk (R128) -/

/-- What the walk comes to: the next permitted pair, or its end. -/
inductive Found where
  | pair (i j : Nat) (a b : Ent)
  | ended
  deriving DecidableEq, Repr

/-- The next permitted pair from (i, j) in the walk's order; `n` bounds the pairs looked at. -/
def nextPair (q : Rq) (inst : Nat) (c : Contraction) (va vb na nb : Nat) (fm : EFmt × EFmt × EFmt) (la lb : Nat) :
    Nat → Nat → Nat → State → Except Stop (Found × State)
  | 0, _, _, s => .ok (.ended, s)
  | n + 1, i, j, s =>
    if na ≤ i then .ok (.ended, s)
    else if nb ≤ j then nextPair q inst c va vb na nb fm la lb n (i + 1) 0 s
    else
      match readEnt q va i s with
      | .error e => .error e
      | .ok (ea, s1) =>
        if ea.v = false then nextPair q inst c va vb na nb fm la lb n (i + 1) 0 s1
        else
          match checkEnt s1 inst c.rule la fm.1 ea c.resume none, readEnt q vb j s1 with
          | .error e, _ => .error e
          | _, .error e => .error e
          | .ok _, .ok (eb, s2) =>
            if eb.v = false then nextPair q inst c va vb na nb fm la lb n i (j + 1) s2
            else
              match checkEnt s2 inst c.rule lb fm.2.1 eb c.resume none with
              | .error e => .error e
              | .ok _ =>
                let ps := ConDesc.pairs c.desc
                if ps.all (fun p => ceq c.rule (ea.q p.1) (eb.q p.2)) then
                  if ps.all (fun p => ea.dim p.1 == eb.dim p.2) then .ok (.pair i j ea eb, s2)
                  else conFatal 0x105 c.resume none
                else nextPair q inst c va vb na nb fm la lb n i (j + 1) s2

/-- Allocation's outcome: a resumable stop, or the new entry's words. -/
inductive Alloc where
  | stop (cause : Nat)
  | fresh (ws : List Word)
  deriving DecidableEq, Repr

/-- Sixteen words of an entry the sequencer makes (R97 step 6). An SX above 255 does not fit its field and has no check: it runs into
the bits above (DESIGN CHOICE, log 58). Nor has BASE + i × BSIZE a check: past 56 bits of address it runs into ADDR1's high bits, past 32 bits
of a byte offset it wraps (DESIGN CHOICE, log 67). -/
def newEnt (qs : List Word) (dims : List Nat) (p : PoolHdr) (blk : Nat) : List Word :=
  let d (i : Nat) := dims.getD i 0
  let x (i : Nat) := if i < dims.length then p.s i - ceilDiv (d i) 32 else 0
  let a := if p.h then (p.base0, p.base1 + blk * p.bsize)
    else
      let v := p.base0 + 2 ^ 32 * p.base1 + blk * p.bsize
      (v % 2 ^ 32, v / 2 ^ 32)
  (List.range 6).map (fun i => qs.getD i 0) ++
  [wd (d 0 + 2 ^ 16 * d 1), wd (d 2 + 2 ^ 16 * d 3), wd (d 4 + 2 ^ 16 * d 5), wd a.1, wd a.2,
    wd (x 0 + 2 ^ 8 * x 1 + 2 ^ 16 * x 2 + 2 ^ 24 * x 3),
    wd (2 ^ 31 + 2 ^ 30 + 2 ^ 29 + (if p.h then 2 ^ 28 else 0) + 2 ^ 26 + p.fmt * 2 ^ 22 + x 5 * 2 ^ 8 + x 4), 0, 0, 0]

/-- A result block allocated for a new C entry (R97 steps 1 to 5); a POOLCFG of this cycle has gone before (R97, R143). -/
def allocBlock (q : Rq) (inst : Nat) (vp : Nat) (hc : Hdr) (fr : EFmt) (k : Nat) (qs : List Word) (dims : List Nat)
    (s : State) : Except Stop (Alloc × State) := do
  if hc.count = hc.cap then .ok (.stop 0x103, s)
  else
    let (pw, s0) ← readWords q vp 16 s
    let s1 := s0.act (poolArena s0 inst vp) 1
    let p : PoolHdr := ⟨pw⟩
    if p.taken = p.avail then .ok (.stop 0x104, s1)
    else if !(p.ok && p.ndim == hc.nleg && p.fmt == fr.code &&
        ((List.range dims.length).zip dims).all (fun d => decide (ceilDiv d.2 32 ≤ p.s d.1))) then conFatal 0x10B k none
    else
      let blk := p.taken
      let pl ← (match blockPlace s1 inst p.h p.base0 p.base1 with
        | .ok x => .ok x
        | .error _ => conFatal 0x10C k none)
      let s2 ← writeWord q (vp + 12) (wd (blk + 1)) s1
      let s3 ← writePlace q pl (blk * p.bsize) (List.replicate p.bsize 0) s2
      .ok (.fresh (newEnt qs dims p blk), s3)

/-- The stored dimensions of the contracted pairs: the larger of the two (R129). -/
def pairDims (ws : List Word) (a b : Ent) : List Nat :=
  (ConDesc.pairs ws).map (fun p => max (a.stored p.1) (b.stored p.2))

/-- Tile steps of a product (R217). -/
def tileSteps (ws : List Word) (a b : Ent) (cst : List Nat) : Nat :=
  prodN ((pairDims ws a b ++ cst).map (· / 32))

/-- One step of the walk: the next pair's product is queued, the walk stops, or it ends (R128). -/
def enumerateOne (r : RRef) (c : Contraction) (s : State) : Except Stop State := do
  let q := seqRq s r c.seq c.slot
  let vp := descVA s r.inst c 4
  let va := descVA s r.inst c 1
  let vb := descVA s r.inst c 2
  let vc := descVA s r.inst c 3
  let (ha, s1) ← readHdr q va s
  let (hb, s2) ← readHdr q vb s1
  let (hc, s3) ← readHdr q vc s2
  checkHdrs c.rule c.desc c.resume ha hb hc
  match conFmts c.desc with
  | none => conFatal 0x107 c.resume none
  | some fm =>
    let (fd, s4) ← nextPair q r.inst c va vb c.na c.nb fm ha.nleg hb.nleg ((c.na + 1) * (c.nb + 1) + 1) c.i c.j s3
    match fd with
    | .ended => .ok (modCon s4 r c.seq (fun c => { c with walked := true }))
    | .pair i j ea eb =>
      let t := fromLegs c.desc ea.q eb.q
      let ds := fromLegs c.desc ea.dim eb.dim
      let (hc, s5) ← ensureIndex q vc hc s4
      let (found, s6) ← probeFrom q vc (fun n e => soundEnt s5 r.inst c.rule hc.nleg e c.resume (some n))
        (fun x => tupleEq c.rule (x.qs hc.nleg) t) hc.count 0 s5
      match found with
      | some (n, e) =>
        checkEnt s6 r.inst c.rule hc.nleg fm.2.2 e c.resume (some n)
        if e.dims hc.nleg != ds then conFatal 0x107 c.resume (some n)
        else
          .ok (modCon s6 r c.seq (fun c =>
            { c with
              i := i, j := j + 1, resume := c.resume + 1
              queue := c.queue ++ [⟨c.resume, i, j, n, tileSteps c.desc ea eb (e.storeds hc.nleg)⟩] }))
      | none =>
        let (al, s7) ← allocBlock q r.inst vp hc fm.2.2 c.resume t ds s6
        match al with
        | .stop cause => .ok (modCon s7 r c.seq (fun c => { c with i := i, j := j, stopped := some cause }))
        | .fresh ws =>
          let s8 ← appendEnt q vc hc ws s7
          .ok (modCon s8 r c.seq (fun c =>
            { c with
              i := i, j := j + 1, resume := c.resume + 1, alloc := c.alloc + 1
              queue := c.queue ++
                [⟨c.resume, i, j, hc.count, tileSteps c.desc ea eb ((⟨ws⟩ : Ent).storeds hc.nleg)⟩] }))

/-- The contraction's issuer. -/
def conElem (r : RRef) (c : Contraction) : ERef := ⟨r.inst, r.reg, c.el⟩

/-- The requests of a contraction's walk and products, but those of some products. -/
def ofCon (r : RRef) (seq : Nat) (but : List Nat) : Req → Bool
  | .sequencer x n => x == r && n == seq
  | .product x n k => x == r && n == seq && !but.contains k
  | _ => false

/-- What the contraction had still to read or write for its walk and products is dropped, but for some products. -/
def dropCon (s : State) (r : RRef) (seq : Nat) (but : List Nat) : State :=
  { s with
    accs := s.accs.filter (fun a => !ofCon r seq but a.req)
    journals := s.journals.filter (fun p => !ofCon r seq but p.1) }

/-- BUSY, STOP and OPH cleared in the C directory's header. -/
def clearHdr (q : Rq) (vc : Nat) (s : State) : Except Stop State :=
  match readHdr q vc s with
  | .error e => .error e
  | .ok (h, s1) => writeHdr q vc (setBitW (setBitW h.w0 9 false) 8 false) (some 0) s1

/-- The contraction's fault at its header, against its issuer (R342). -/
def headerFault (s : State) (r : RRef) (c : Contraction) (cause addr : Nat) (info info2 : Word) : State :=
  asyncFault s (conElem r c) c.slot 3 cause (conHandle r.reg c.seq) addr info info2

/-- A contraction that ends by a fault or is abandoned: its STATE changes once BUSY, STOP and OPH are cleared, which a translation fault
holds (R93, R132, R134). A header that cannot be reached at all stays as it is, and its cause is a fault of the graph (R266). -/
def finishCon (s : State) (r : RRef) (c : Contraction) : State :=
  let q := headerRq s r c.seq c.slot
  let st := c.ending.getD c.state
  let ended (t : State) : State := modCon t r c.seq (fun c => { c with state := st, ending := none })
  match workOf q.req (fun u => (clearHdr q (descVA u r.inst c 3) u).map (fun t => ((), t))) s with
  | .ok (_, t) => ended t
  | .error (.access va wr st t) => addAcc s q va wr st t
  | .error (.fatal k a i j) => headerFault (ended (dropJournal s q.req)) r c k a i j
  | .error _ => ended (dropJournal s q.req)

/-- The contraction is to end in a STATE, and ends once the products whose writes have begun are written (R134). -/
def endAs (s : State) (r : RRef) (c : Contraction) (st : Nat) : State :=
  let left := c.queue.filter (fun p => c.writing.contains p.k)
  let s1 := modCon (dropCon s r c.seq (left.map Prod.k)) r c.seq (fun c => { c with ending := some st, queue := left, stopped := none })
  if left ≠ [] ∨ accPending s1 (.header r c.seq) = true then s1 else finishCon s1 r { c with ending := some st }

/-- The record of a contraction's fault. -/
def conFault (s : State) (r : RRef) (c : Contraction) (cause addr : Nat) (info info2 : Word) : FaultRec :=
  faultAt s (conElem r c) c.slot 3 false cause (conHandle r.reg c.seq) addr info info2

/-- A contraction whose work fails, at a product or in its walk: it ends in STATE 3 where its fault is the graph's cause, else in STATE 4
(R127, R134, R342). -/
def failCon (s : State) (r : RRef) (seq : Nat) (k : Option Nat) (cause : Nat) : State :=
  match liveCon (s.region r) seq with
  | none => s
  | some c =>
    let first := match (s.graph (s.inst r.inst).graph).fault with
      | none => true
      | some f => (conFault s r c cause 0 0 0).before f
    let c1 := { c with queue := c.queue.filter (fun p => some p.k != k), cause := if first then cause else c.cause }
    endAs (modCon s r seq (fun _ => c1)) r c1 (c.ending.getD (if first then 3 else 4))

/-- The product that a request works for. -/
def reqProd : Req → Option Nat
  | .product _ _ k => some k
  | _ => none

/-- A step of the sequencer that stops. -/
def conStop (s : State) (name : String) (r : RRef) (c : Contraction) (q : Rq) (e : Stop) : Out :=
  let s1 := match e with
    | .fatal cause _ _ _ => failCon s r c.seq (reqProd q.req) cause
    | .trap cause _ _ _ => failCon s r c.seq (reqProd q.req) cause
    | _ => s
  engineStop s1 name q (conElem r c) 3 (conHandle r.reg c.seq) e

def execContractionEnumerate (r : RRef) (seq : Nat) (s : State) : Out :=
  match liveCon (s.region r) seq with
  | none => notNow "CONTRACTION_ENUMERATE"
  | some c =>
    if c.state = 0 ∧ c.ending = none ∧ c.walked = false ∧ c.stopped = none ∧ accPending s (.sequencer r seq) = false ∧
        graphUp s r.inst then
      match workOf (.sequencer r seq) (fun u => (enumerateOne r c u).map (fun t => ((), t))) s with
      | .ok (_, t) => .next t
      | .error e => conStop s "CONTRACTION_ENUMERATE" r c (seqRq s r seq c.slot) e
    else notNow "CONTRACTION_ENUMERATE"

/-! ## Products (R129, R130) -/

/-- The index an operand's leg takes: of its pair in the reduction, or of its C leg. -/
def legIndex (pairLeg : List Nat) (outLeg : List (Option Nat)) (red x : List Nat) (l : Nat) : Nat :=
  match ((List.range pairLeg.length).zip pairLeg).find? (fun p => p.2 == l) with
  | some p => red.getD p.1 0
  | none =>
    match ((List.range outLeg.length).zip outLeg).find? (fun p => p.2 == some l) with
    | some p => x.getD p.1 0
    | none => 0

/-- An operand block's element at an index; a null position is absent (R95, R129). -/
def blockAt (f : EFmt) (e : Ent) (nleg : Nat) (bs : List Byte) (idx : List Nat) : Option Nat :=
  if (idx.zip (e.dims nleg)).all (fun p => decide (p.1 < p.2)) then
    some (codeAt f.width bs (elemPos e.lay (e.storeds nleg) idx))
  else none

/-- A block of an entry read whole, as stored (log 21). -/
def readBlock (q : Rq) (inst nleg : Nat) (f : EFmt) (e : Ent) (k : Nat) (c : Nat) (s : State) :
    Except Stop (Place × List Byte × State) :=
  match blockPlace s inst e.h e.addr0 e.addr1 with
  | .error _ => conFatal 0x10C k (some c)
  | .ok p =>
    match readPlace q p 0 (f.bytes (prodN (e.storeds nleg))) s with
    | .error er => .error er
    | .ok (bs, s1) => .ok (p, bs, s1)

/-- Every logical position of a block. -/
def positions (dims : List Nat) : List (List Nat) := (List.range (prodN dims)).map (unflatten dims)

/-- Product k written (R129); what it reads of the directories it checks (R94). A contraction that is outstanding counts in no tile's uses, be
it one that its entries or its pool name by H = 1: it names directories, and a block's handle is met as its product comes, where one that
has been freed is 0x10C (R94, R100; DESIGN CHOICE, log 65). -/
def productOne (r : RRef) (c : Contraction) (p : Prod) (s : State) : Except Stop State := do
  let q := prodRq s r c.seq p.k c.slot (kget r.reg c.owners p.c)
  match conFmts c.desc with
  | none => conFatal 0x107 p.k (some p.c)
  | some fm =>
    let (ha, s1) ← readHdr q (descVA s r.inst c 1) s
    let (hb, s2) ← readHdr q (descVA s r.inst c 2) s1
    let (ea, s3) ← readEnt q (descVA s r.inst c 1) p.i s2
    let (eb, s4) ← readEnt q (descVA s r.inst c 2) p.j s3
    let (ec, s5) ← readEnt q (descVA s r.inst c 3) p.c s4
    let nc := ConDesc.nc c.desc
    checkHdr c.rule p.k p.c ha
    checkHdr c.rule p.k p.c hb
    checkEnt s5 r.inst c.rule ha.nleg fm.1 ea p.k (some p.c)
    checkEnt s5 r.inst c.rule hb.nleg fm.2.1 eb p.k (some p.c)
    checkEnt s5 r.inst c.rule nc fm.2.2 ec p.k (some p.c)
    let (_, ba, s6) ← readBlock q r.inst ha.nleg fm.1 ea p.k p.c s5
    let (_, bb, s7) ← readBlock q r.inst hb.nleg fm.2.1 eb p.k p.c s6
    let (pc, bc, s8) ← readBlock q r.inst nc fm.2.2 ec p.k p.c s7
    let keep := ConDesc.acc c.desc || c.written.contains p.c
    let rs := pairDims c.desc ea eb
    let outA := (ConDesc.outs c.desc).map (fun o => if o.1 then none else some o.2)
    let outB := (ConDesc.outs c.desc).map (fun o => if o.1 then some o.2 else none)
    let pa := (ConDesc.pairs c.desc).map Prod.fst
    let pb := (ConDesc.pairs c.desc).map Prod.snd
    let vals := (positions (ec.dims nc)).map (fun x =>
      let at_ := elemPos ec.lay (ec.storeds nc) x
      let acc := if keep then wd (codeAt 32 bc at_) else 0
      (at_, dotreduce fm.1 fm.2.1 acc
        (fun i => blockAt fm.1 ea ha.nleg ba ((List.range ha.nleg).map (legIndex pa outA (unflatten rs i) x)))
        (fun i => blockAt fm.2.1 eb hb.nleg bb ((List.range hb.nleg).map (legIndex pb outB (unflatten rs i) x)))
        (prodN rs)))
    let s9 ← writeAt q pc (vals.map (fun v => (v.1, v.2.1))) s8
    let exc := vals.any (fun v => v.2.2)
    .ok (modCon s9 r c.seq (fun c =>
      { c with
        queue := c.queue.filter (fun x => x.k != p.k)
        writing := c.writing.filter (· != p.k)
        retired := c.retired + 1
        written := if c.written.contains p.c then c.written else p.c :: c.written
        exc := c.exc || exc
        xk := if exc then some (match c.xk with
            | some m => min m p.k
            | none => p.k) else c.xk }))

/-- A queued product may start once every lower one of its block is written (R130). -/
def productReady (c : Contraction) (k : Nat) : Option Prod :=
  match c.queue.find? (fun p => p.k == k) with
  | none => none
  | some p => if c.queue.any (fun x => x.c == p.c && decide (x.k < k)) then none else some p

/-- A product goes on while its graph does; one whose writes have begun is accepted work, which is completed (R134, R343). -/
def productUp (s : State) (r : RRef) (c : Contraction) (k : Nat) : Bool :=
  c.state == 0 && ((c.ending.isNone && graphUp s r.inst) || (c.writing.contains k && (s.inst r.inst).status == .running))

/-- A product that waits at a write has begun to write. -/
def markWriting (s : State) (r : RRef) (seq k : Nat) : Stop → State
  | .access _ true _ _ => modCon s r seq (fun c => { c with writing := k :: c.writing.filter (· != k) })
  | _ => s

def execContractionProduct (r : RRef) (seq k : Nat) (s : State) : Out :=
  match liveCon (s.region r) seq with
  | none => notNow "CONTRACTION_PRODUCT"
  | some c =>
    match productReady c k with
    | none => notNow "CONTRACTION_PRODUCT"
    | some p =>
      if accPending s (.product r seq k) = false ∧ productUp s r c k then
        match workOf (.product r seq k) (fun u => (productOne r c p u).map (fun t => ((), t))) s with
        | .ok (_, t) => .next (if c.ending.isSome ∧ c.queue.length = 1 then finishCon t r { c with queue := [] } else t)
        | .error e => conStop (markWriting s r seq k e) "CONTRACTION_PRODUCT" r c (prodRq s r seq k c.slot (kget r.reg c.owners p.c)) e
      else notNow "CONTRACTION_PRODUCT"

/-! ## Migration (R131, R218) -/

/-- Products queued at a region's sequencer: its own that it still owns, and those of groups migrated to it. -/
def queuedAt (s : State) (r : RRef) : Nat :=
  s.regions.foldl (fun n x =>
    if x.1.inst = r.inst then
      x.2.cons.foldl (fun n c => n + (c.queue.filter (fun p => kget x.1.reg c.owners p.c == r.reg)).length) n
    else n) 0

/-- Adjacent in one die's grid of 4 x 6 regions. -/
def adjacent (a b : Nat) : Bool :=
  let dy := ((a % 24 / 6 : Nat) : Int) - (b % 24 / 6 : Nat)
  let dx := ((a % 6 : Nat) : Int) - (b % 6 : Nat)
  a / 24 == b / 24 && dy.natAbs + dx.natAbs == 1

/-- A product has begun to read or to write and is not over (R131, R371). -/
def begun (s : State) (r : RRef) (seq : Nat) (p : Prod) : Bool :=
  accPending s (.product r seq p.k) || khas s.journals (.product r seq p.k)

/-- The groups that may migrate: (C entry, tile steps); of none has a product started (R131). -/
def groupsOf (s : State) (r : RRef) (c : Contraction) : List (Nat × Nat) :=
  let cs := (c.queue.map Prod.c).eraseDups.filter (fun x =>
    !c.written.contains x && !khas c.owners x && !c.queue.any (fun p => p.c == x && begun s r c.seq p))
  cs.map (fun x => (x, ((c.queue.filter (fun p => p.c == x)).map Prod.steps).foldl (· + ·) 0))

/-- One group goes before another: more tile steps, then the lower C entry (R218). -/
def groupBefore (a b : Nat × Nat) : Bool := b.2 < a.2 || (b.2 == a.2 && a.1 < b.1)

/-- The group with most tile steps, the lowest C entry of equals (R218). -/
def heaviest (gs : List (Nat × Nat)) : Option (Nat × Nat) := (sortBy groupBefore gs).head?

/-- A contraction whose groups may migrate: it runs, permits it, and its sequencer's queue holds more than its threshold (R131). -/
def mayMigrate (s : State) (r : RRef) (c : Contraction) : Bool :=
  c.state == 0 && c.ending.isNone && !ConDesc.nomig c.desc && decide (ConDesc.thr c.desc < queuedAt s r)

/-- No group of another contraction of the sequencer goes before this one (R218). -/
def firstGroup (s : State) (r : RRef) (g : Nat × Nat) : Bool :=
  !(s.region r).cons.any (fun c => mayMigrate s r c && (groupsOf s r c).any (fun x => groupBefore x g))

/-- Where a group goes: the lowest-numbered adjacent region of the stage whose queue is empty (R131, R218). -/
def migrateTo (s : State) (r : RRef) : Option Nat :=
  (sortBy (fun (a b : Nat) => a < b) (((s.inst r.inst).img.regions.map RegionDecl.reg).filter
    (fun x => adjacent r.reg x && queuedAt s ⟨r.inst, x⟩ == 0))).head?

def execGroupMigration (r : RRef) (seq : Nat) (s : State) : Out :=
  match liveCon (s.region r) seq with
  | none => notNow "GROUP_MIGRATION"
  | some c =>
    match heaviest (groupsOf s r c), migrateTo s r with
    | some g, some d =>
      when (mayMigrate s r c && firstGroup s r g && graphUp s r.inst) "GROUP_MIGRATION"
        (modCon s r seq (fun c => { c with owners := kset c.owners g.1 d, migr := c.migr + 1 }))
    | _, _ => notNow "GROUP_MIGRATION"

/-! ## Stop and completion (R132) -/

/-- The header written, the record's state changed, the token pushed. -/
def endCon (r : RRef) (c : Contraction) (tag : BitVec 2) (s : State) : Except Stop State := do
  let q := headerRq s r c.seq c.slot
  let vc := descVA s r.inst c 3
  let (hc, s1) ← readHdr q vc s
  let s2 ← (if tag = 1 then writeHdr q vc (setBitW hc.w0 8 true) none s1
    else writeHdr q vc (setBitW hc.w0 9 false) (some 0) s1)
  let s3 := modCon s2 r c.seq (fun c =>
    if tag = 1 then { c with state := 1, cause := c.stopped.getD 0 } else { c with state := 2 })
  .ok (pushDone (if tag = 1 then countFault s3 (c.stopped.getD 0) else s3) (conElem r c) ⟨conHandle r.reg c.seq, tag, c.exc, none, none⟩)

def execContractionStop (r : RRef) (seq : Nat) (s : State) : Out :=
  match liveCon (s.region r) seq with
  | none => notNow "CONTRACTION_STOP"
  | some c =>
    if c.state = 0 ∧ c.ending = none ∧ c.stopped ≠ none ∧ c.queue = [] ∧ accPending s (.header r seq) = false ∧
        graphUp s r.inst then
      match workOf (.header r seq) (fun u => (endCon r c 1 u).map (fun t => ((), t))) s with
      | .ok (_, t) => .next t
      | .error e => conStop s "CONTRACTION_STOP" r c (headerRq s r seq c.slot) e
    else notNow "CONTRACTION_STOP"

/-- A contraction ends: every product is written, or it was to end otherwise and its header write was held (R132, R134). -/
def execContractionComplete (r : RRef) (seq : Nat) (s : State) : Out :=
  match liveCon (s.region r) seq with
  | none => notNow "CONTRACTION_COMPLETE"
  | some c =>
    if accPending s (.header r seq) then notNow "CONTRACTION_COMPLETE"
    else if c.ending.isSome then when (c.queue == []) "CONTRACTION_COMPLETE" (finishCon s r c)
    else if c.state = 0 ∧ c.walked = true ∧ c.stopped = none ∧ c.queue = [] ∧ accPending s (.sequencer r seq) = false ∧
        graphUp s r.inst then
      match workOf (.header r seq) (fun u => (endCon r c 0 u).map (fun t => ((), t))) s with
      | .ok (_, t) => .next t
      | .error e => conStop s "CONTRACTION_COMPLETE" r c (headerRq s r seq c.slot) e
    else notNow "CONTRACTION_COMPLETE"

/-- What a stage's contractions come to when it ends: those that are running or stopped end in STATE 4, one in STATE 3 whose fault another's
has come before too. Products whose writes have begun are completed first, those that a hold keeps as well, and the others are dropped
(R134). -/
def abandonCons (s : State) (inst : Nat) : State :=
  let f := (s.graph (s.inst inst).graph).fault
  let mine (r : RRef) (c : Contraction) : Bool := (f.map (fun f => f.engine == 3 && f.handle == conHandle r.reg c.seq)).getD false
  let one (r : RRef) (t : State) (c : Contraction) : State :=
    if c.state = 3 then (if mine r c then t else modCon t r c.seq (fun c => { c with state := 4, cause := 0 }))
    else if 1 < c.state ∨ c.ending.isSome then t
    else endAs t r c 4
  s.regions.foldl (fun t x => if x.1.inst = inst then x.2.cons.foldl (one x.1) t else t) s

/-- A contraction of a stage whose end waits for its header (R132). -/
def consEnding (s : State) (inst : Nat) : Bool :=
  s.regions.any (fun x => x.1.inst == inst && x.2.cons.any (fun c => c.ending.isSome))

end Sys2Proof.Machine
end

