-- ==== Sys2Proof/Machine/Copy.lean ====
section
/-! DEFINITION. Completion records and interrupts (spec/21_queues_graphs_launch.md R313, R314), and the copy channels
(spec/10_instr_channels_tiles_memory.md R184 to R186). Channel ch of C-die d is (d, ch); die 8 holds the copies of copy
packets, one channel per queue, and die 9 those of copy nodes, one channel per graph instance. -/

namespace Sys2Proof.Machine

/-! ## Interrupts and completion records -/

def raiseIrq (s : State) (v : Nat) : State := { s with irqs := s.irqs ++ [v] }

/-- A queue's and a mailbox's vectors, whose numbers the spec leaves to the host (log 12). -/
def queueVector (q : Nat) : Nat := 4096 + q
def mailVector (n : Nat) : Nat := 8192 + n

/-- The writes of a completion record: STATUS, XDROP, then DONE, at system scope (R314); address 0 means no record. -/
def completionWrites (comp status xdrop : Nat) : List (Nat × List Byte) :=
  if comp = 0 then [] else [(comp + 4, leBytes 4 status), (comp + 8, leBytes 8 xdrop), (comp, leBytes 4 1)]

/-- A completion record, then the interrupt. -/
def writeCompletion (s : State) (ctx comp status xdrop : Nat) (irq : Option Nat) : State :=
  frontWrite s noGraph ctx (completionWrites comp status xdrop) irq

/-- A packet completes: its record, then its interrupt and its place among the open ones (R313, R314). -/
def completePacket (s : State) (q index comp : Nat) (int : Bool) (status xdrop : Nat) : State :=
  frontWriteFor (some (q, index)) s noGraph (s.queue q).ctx (completionWrites comp status xdrop)
    (if int then some (queueVector q) else none)

def dropWait (s : State) (q index : Nat) : State :=
  s.modQueue q (fun x => { x with waits := x.waits.filter (fun p => p.1 != index) })

/-! ## Templates (R185) -/

namespace Tpl
def src (ws : List Word) : Nat := (nthW ws 1).toNat + 2 ^ 32 * (nthW ws 2).toNat
def dst (ws : List Word) : Nat := (nthW ws 3).toNat + 2 ^ 32 * (nthW ws 4).toNat
def len (ws : List Word) : Nat := (nthW ws 5).toNat
def rows (ws : List Word) : Nat := (nthW ws 6).toNat
def spitch (ws : List Word) : Int := sx (nthW ws 7)
def dpitch (ws : List Word) : Int := sx (nthW ws 8)
def ring (ws : List Word) : Nat := (nthW ws 9).toNat
def cookie (ws : List Word) : Word := nthW ws 10
end Tpl

/-- LEN and ROWS within the limits of R185. -/
def tplSizes (ws : List Word) : Bool :=
  decide (1 ≤ Tpl.len ws) && decide (Tpl.len ws ≤ 16777216) && decide (1 ≤ Tpl.rows ws) && decide (Tpl.rows ws ≤ 65536)

def tplOk (ws : List Word) : Bool :=
  bits (nthW ws 0) 31 24 == 0xC7 && bits (nthW ws 0) 23 0 == 0 && bits (nthW ws 2) 31 24 == 0 &&
  bits (nthW ws 4) 31 24 == 0 && tplSizes ws && (ws.drop 11).all (· == 0)

/-! ## Who copies -/

/-- The graph whose copy it is; none for a packet's. -/
def jobGraph (s : State) (j : CopyJob) : Option Nat :=
  match j.who with
  | .elem e _ => some (s.inst e.inst).graph
  | .packet _ _ _ _ => none
  | .node g => some g

/-- Who makes a copy's accesses: an element's are charged to its region (R287); KIND 5 (R268). -/
def copyRq (s : State) (die ch : Nat) (j : CopyJob) : Rq :=
  let outside : Agent := ⟨2 ^ 32, 0, none, 1000⟩
  match j.who with
  | .elem e slot =>
    ⟨.copy die ch, (s.inst e.inst).graph, j.ctx, die, 5, slot, s.dieAgent e.rref, some (s.physReg e.inst e.reg), none, false, true, []⟩
  | .packet _ _ _ _ => ⟨.copy die ch, noGraph, j.ctx, 0, 5, 0, outside, some 255, none, false, true, []⟩
  | .node g => ⟨.copy die ch, g, j.ctx, 0, 5, 0, outside, some 255, none, false, true, []⟩

def State.copyHead (s : State) (die ch : Nat) : Option CopyJob := (kget [] s.copies (chanKey die ch)).head?

def modHead (s : State) (die ch : Nat) (f : CopyJob → CopyJob) : State :=
  { s with copies := kset s.copies (chanKey die ch) (match kget [] s.copies (chanKey die ch) with
      | [] => []
      | j :: js => f j :: js) }

def dropHead (s : State) (die ch : Nat) : State :=
  { s with copies := kset s.copies (chanKey die ch) ((kget [] s.copies (chanKey die ch)).drop 1) }

/-- A copy meets a fatal cause: an asynchronous fault of its graph, or the packet's STATUS (R184, R314, R342, R348). -/
def copyFail (s : State) (die ch : Nat) (j : CopyJob) (cause addr : Nat) (i k : Word) : State :=
  match j.who with
  | .elem e slot => asyncFault (dropHead s die ch) e slot 6 cause 0 addr i k
  | .packet q index comp int => completePacket (dropHead s die ch) q index comp int cause 0
  | .node g => hardFaultAt (dropHead s die ch) g 6 cause 0 0 addr i k

def copyStop (s : State) (name : String) (die ch : Nat) (j : CopyJob) : Stop → Out
  | .access va wr st t => .next (addAcc s (copyRq s die ch j) va wr st t)
  | .wait => notNow name
  | .later => notNow name
  | .keep _ => notNow name
  | .trap c a i k => .next (copyFail (dropJournal s (.copy die ch)) die ch j c a i k)
  | .fatal c a i k => .next (copyFail (dropJournal s (.copy die ch)) die ch j c a i k)

/-! ## COPY_START (R184) -/

/-- The template of a job: an element's stands in the data region, a node's at an address, a packet brings its own. -/
def jobTpl (q : Rq) (j : CopyJob) (s : State) : Except Stop (List Word × State) :=
  match j.who with
  | .elem e _ => readWords q (dataVA s e.inst (nthW j.tpl 0).toNat) 16 s
  | .packet _ _ _ _ => .ok (j.tpl, s)
  | .node _ => readWords q ((nthW j.tpl 0).toNat + 2 ^ 32 * (nthW j.tpl 1).toNat) 16 s

/-- The issuer's earlier operations, and those that happen before the copy, are performed at part scope (R184, R279). -/
def issuerSettled (s : State) (j : CopyJob) : Option State :=
  match j.who with
  | .elem e _ =>
    if (s.elem e).outstanding = [] ∧ requestOpen s j.hb = false then some (widenDeps (widenElem s e .part) j.hb .part) else none
  | _ => some s

/-- A queued copy begun: its template is read and checked as it starts, after its issuer's earlier operations, where the spec does not say
whether that is then or as the channel accepts it (R184; DESIGN CHOICE, log 67). -/
def startCopy (die ch : Nat) (j : CopyJob) (s : State) : Except Stop State :=
  match issuerSettled s j with
  | none => .error .wait
  | some s0 =>
    match jobTpl (copyRq s die ch j) j s0 with
    | .error e => .error e
    | .ok (ws, s1) =>
      match j.who with
      | .packet _ _ _ _ => .ok (modHead s1 die ch (fun x => { x with started := true }))
      | _ =>
        let ring := match j.who with
          | .elem e _ => dataVA s e.inst (Tpl.ring ws)
          | _ => 0
        if tplOk ws then .ok (modHead s1 die ch (fun x => { x with started := true, tpl := ws, ring := ring })) else fatal0 0x0A7

/-- A copy that its channel has accepted runs, a fault of its graph notwithstanding (R184, R343). -/
def execCopyStart (die ch : Nat) (s : State) : Out :=
  match s.copyHead die ch with
  | none => notNow "COPY_START"
  | some j =>
    if j.started = false ∧ accPending s (.copy die ch) = false then
      match workOf (.copy die ch) (fun u => (startCopy die ch j u).map (fun t => ((), t))) s with
      | .ok (_, t) => .next t
      | .error e => copyStop s "COPY_START" die ch j e
    else notNow "COPY_START"

/-! ## COPY_END (R186) -/

/-- The rows copied: row r from SRC + r x SPITCH to DST + r x DPITCH. -/
def copyRows (q : Rq) (ws : List Word) : Nat → Nat → State → Except Stop State
  | 0, _, s => .ok s
  | n + 1, r, s =>
    let at_ (a : Nat) (p : Int) : Nat := (Int.emod ((a : Int) + r * p) (2 ^ 56)).toNat
    match readVA q (at_ (Tpl.src ws) (Tpl.spitch ws)) (Tpl.len ws) s with
    | .error e => .error e
    | .ok (bs, s1) =>
      match writeVA q (at_ (Tpl.dst ws) (Tpl.dpitch ws)) bs s1 with
      | .error e => .error e
      | .ok s2 => copyRows q ws n (r + 1) s2

/-- Record HEAD written and HEAD incremented, or none while the ring is full or serves another first; the record carries the release of
the issuer's region, with what came before the copy (R186, R280). -/
def ringRecord (q : Rq) (e : ERef) (hb : List Dep) (ws : List Word) (s : State) : Except Stop (Option State) :=
  if Tpl.ring ws % 64 ≠ 0 then fatal0 0x0A4
  else
    let q := { q with charge := none }
    let va := dataVA s e.inst (Tpl.ring ws)
    match ringHeader q va s with
    | .error er => .error er
    | .ok (hd, s1) =>
      let head := (nthW hd 1).toNat
      let tail := (nthW hd 3).toNat
      if (head + 2 ^ 31 - tail) % 2 ^ 31 = ringN hd ∨ ringTurn s q e va = false then .ok none
      else
        match writeWords q (recVA va hd head)
            [Tpl.cookie ws, wd (Tpl.rows ws), wd (Tpl.len ws * Tpl.rows ws), wd head] s1 with
        | .error er => .error er
        | .ok s2 =>
          match writeWord q (va + 4) (wd ((head + 1) % 2 ^ 31)) s2 with
          | .error er => .error er
          | .ok s3 =>
            let r := releaseAt s3 e.inst e.reg (hb.filter (depOpen s3))
            .ok (some ({ r.2 with ringRels := kset r.2.ringRels (q.ctx, recVA va hd head) r.1 }.act (.ring q.ctx va) (actKey e)))

/-- A started copy ends: its writes performed, then its record, its completion record, or its node's end. Once the rows are written the
record is work of its own, taken up again after a hold from the held access (R267). -/
def endCopy (die ch : Nat) (j : CopyJob) (s : State) : Except Stop State :=
  let q := copyRq s die ch j
  match (if j.written then .ok s else copyRows q j.tpl (Tpl.rows j.tpl) 0 s) with
  | .error e => .error e
  | .ok s1 =>
    match j.who with
    | .packet qn index comp int => .ok (completePacket (dropHead s1 die ch) qn index comp int 0 0)
    | .node _ => .ok (dropHead s1 die ch)
    | .elem e _ =>
      match ringRecord q e j.hb j.tpl (if j.written then s1 else { s1 with tape := none }) with
      | .ok (some s2) => .ok (dropHead s2 die ch)
      | .ok none => if j.written then .error .wait else .ok (modHead s1 die ch (fun x => { x with written := true }))
      | .error (.access va wr st t) =>
        if j.written then .error (.access va wr st t) else .ok (modHead s1 die ch (fun x => { x with written := true }))
      | .error er => .error er

def execCopyEnd (die ch : Nat) (s : State) : Out :=
  match s.copyHead die ch with
  | none => notNow "COPY_END"
  | some j =>
    if j.started ∧ accPending s (.copy die ch) = false then
      match workOf (.copy die ch) (fun u => (endCopy die ch j u).map (fun t => ((), t))) s with
      | .ok (_, t) => .next t
      | .error e => copyStop s "COPY_END" die ch j e
    else notNow "COPY_END"

end Sys2Proof.Machine
end

