-- ==== Sys2Proof/Machine/Exchange.lean ====
section
/-! DEFINITION. Demand-posted exchange: dpost, dsend, drecv, dwait, dqry, and the exchange unit's and the arbiter's steps
(spec/14_demand_posted_exchange.md R220 to R241). -/

namespace Sys2Proof.Machine

/-! ## Lists (R221 to R223) -/

namespace XHdr
def g (ws : List Word) : Nat := bits (nthW ws 0) 23 16
def nlist (ws : List Word) : Nat := bits (nthW ws 0) 15 8
def nent (ws : List Word) : Nat := bits (nthW ws 0) 6 0
def round (ws : List Word) : Nat := (nthW ws 1).toNat
def bound (ws : List Word) : Nat := (nthW ws 2).toNat
end XHdr

namespace XEnt
def rank (e : List Word) : Nat := bits (nthW e 0) 5 0
def buf (e : List Word) : Nat := (nthW e 1).toNat
def len (e : List Word) : Nat := (nthW e 2).toNat
def post (e : List Word) : Nat := (nthW e 3).toNat
def sent (e : List Word) : Nat := (nthW e 4).toNat
/-- CAP and FILL of a zone. -/
def cap (e : List Word) : Nat := (nthW e 2).toNat
def fill (e : List Word) : Nat := (nthW e 3).toNat
end XEnt

def xhdrOk (kind maxList : Nat) (ws : List Word) : Bool :=
  bits (nthW ws 0) 31 24 == kind && decide (1 ≤ XHdr.nlist ws) && decide (XHdr.nlist ws ≤ maxList) &&
  !bit (nthW ws 0) 7 && decide (1 ≤ XHdr.nent ws) && decide (XHdr.nent ws ≤ 64) && (ws.drop 3).all (· == 0)

def sendEntOk (e : List Word) : Bool :=
  bits (nthW e 0) 31 6 == 0 && decide (XEnt.len e < 2 ^ 31) && decide (XEnt.post e < 2 ^ 31) &&
  decide (XEnt.sent e ≤ XEnt.len e) && (e.drop 5).all (· == 0)

def zoneOk (e : List Word) : Bool :=
  bits (nthW e 0) 31 6 == 0 && decide (XEnt.fill e ≤ XEnt.cap e) && (e.drop 4).all (· == 0)

/-- No two zones name one rank (R223). -/
def zonesDistinct (es : List (List Word)) : Bool := decide ((es.map XEnt.rank).Nodup)

/-! ## What every command does first (R234, R240) -/

/-- The list header at SA, read under R114, and its group's slot; a list in no cistern and no HBM4 is invalid. -/
def readXHdr (j : Job) (s : State) : Except Stop (Nat × List Word × State) := do
  let va ← ptrVA j j.src.a 64 s
  let s0 ← settled j .part s
  let (ws, s1) ← readWords (jobRq j s0) va 16 s0
  .ok (va, ws, s1)

/-- A list stands in HBM4 or a cistern (R234), else 0x036 (log 35). What has been found is on the tape of the command's accesses, so that
no access made before a hold is translated again (R267). -/
def inPart (j : Job) (va : Nat) (s : State) : Except Stop State :=
  match taped s with
  | some (_, t) => .ok t
  | none =>
    match xlate s (jobRq j s) va false with
    | .error e => .error e
    | .ok (l, _) => if l.home ≤ 1 then .ok (logged s [0]) else trap0 0x036

def slotFor (j : Job) (ws : List Word) (s : State) : Except Stop Nat :=
  match slotOf s (s.inst j.e.inst).ctx (XHdr.g ws) with
  | some k => .ok k
  | none => trap0 0x034

/-- A checked send list and its slot (R221, R222, R235). -/
def readSend (j : Job) (s : State) : Except Stop (Nat × XList × List Word × State) := do
  let (va, ws, s0) ← readXHdr j s
  let s1 ← inPart j va s0
  if xhdrOk 0xD5 64 ws = false then trap0 0x036
  else
    let (ew, s2) ← readWords (jobRq j s1) (va + 64) (8 * XHdr.nent ws) s1
    let es := recordsOf (XHdr.nent ws) ew
    if es.all sendEntOk = false then trap0 0x036
    else
      let slot ← slotFor j ws s2
      if es.any (fun e => decide ((s2.group slot).p ≤ XEnt.rank e)) then trap0 0x036
      else .ok (slot, ⟨va, dataVA s2 j.e.inst 0, es, j.e⟩, ws, s2)

def readLanding (j : Job) (s : State) : Except Stop (Nat × XList × State) := do
  let (va, ws, s0) ← readXHdr j s
  let s1 ← inPart j va s0
  if xhdrOk 0xD6 1 ws = false then trap0 0x036
  else
    let (ew, s2) ← readWords (jobRq j s1) (va + 64) (8 * XHdr.nent ws) s1
    let es := recordsOf (XHdr.nent ws) ew
    if es.all zoneOk = false ∨ zonesDistinct es = false then trap0 0x036
    else
      let slot ← slotFor j ws s2
      .ok (slot, ⟨va, dataVA s2 j.e.inst 0, es, j.e⟩, s2)

/-! ## Rounds -/

def modRound (s : State) (slot : Nat) (f : Round → Round) : State :=
  s.modGroup slot (fun g => { g with round := g.round.map f })

def State.open_ (s : State) (slot : Nat) : Nat := (((s.group slot).round).map Round.num).getD 0

/-- A fault of the exchange unit, reported against the element that opened the round (R240, R349) (log 36). -/
def exchFault (s : State) (r : Round) (cause rank : Nat) : State :=
  asyncFault s r.el r.slot 7 cause 0 0 (wd r.num) (wd rank)

/-- The abort packets of a round (R240). -/
def abortRound (s : State) (slot num cause : Nat) : State :=
  let g := s.group slot
  send s (((List.range g.p).filter (· != g.rank)).map (fun k => .roundAbort slot k num cause))

/-- A fault on this member and its abort packets. -/
def exchFail (s : State) (slot : Nat) (r : Round) (cause rank : Nat) : State :=
  abortRound (exchFault s r cause rank) slot r.num cause

/-- Round RNEXT opens (R220); bytes and a landing list that came before it join it, and an abort of it is raised, once: 0x181 for another
member's, 0x180 where this part's arbiter has timed out waiting for this part's row. -/
def openRound (s : State) (slot : Nat) (j : Job) (nlist : Nat) (land : Option XList) : State :=
  let g := s.group slot
  let n := g.rnext
  let r : Round :=
    { num := n, nlist := nlist, posts := 0, row := [], posted := [], rowSent := false, binds := [], boundAt := 0
      land := land, landed := [], ends := [], grant := none, grantAt := 0, grantBase := [], phase := 0, quanta := 0
      sentTo := [], tailDone := false
      early := g.early.filter (fun p => p.pkt.round == n), left := none, el := j.e, slot := j.slot, tmo := g.tmo
      by_ := land.toList.map XList.el }
  let s1 := s.modGroup slot (fun g =>
    { g with round := some r, rnext := numAfter n, nextLand := none, calendar := none
             early := g.early.filter (fun p => p.pkt.round != n)
             roundAborts := g.roundAborts.filter (fun a => a.1 != n) })
  match g.roundAborts.find? (fun a => a.1 == n) with
  | none => s1
  | some a => exchFault s1 r a.2.2 a.2.1

def addRow (row : KMap Nat) : List (List Word) → KMap Nat
  | [] => row
  | e :: es => addRow (kset row (XEnt.rank e) (kget 0 row (XEnt.rank e) + XEnt.post e)) es

def rowList (g : Group) (row : KMap Nat) : List Nat := (List.range g.p).map (kget 0 row)

/-- The row goes to the arbiter once NLIST lists are posted. -/
def sendRow (s : State) (slot : Nat) : State :=
  match (s.group slot).round with
  | none => s
  | some r =>
    if r.posts = r.nlist ∧ r.rowSent = false then
      send (modRound s slot (fun r => { r with rowSent := true, posted := r.row })) [.row slot r.num (rowList (s.group slot) r.row)]
    else s

/-! ## dpost, dsend, drecv (R235 to R237) -/

/-- The zones of a landing list with FILL as it stands (R228). -/
def readFills (q : Rq) (va : Nat) : List (Nat × List Word) → State → Except Stop (List (List Word) × State)
  | [], s => .ok ([], s)
  | (i, e) :: es, s =>
    match readWords q (va + 64 + 32 * i + 12) 1 s with
    | .error x => .error x
    | .ok (w, s1) =>
      match readFills q va es s1 with
      | .error x => .error x
      | .ok (r, s2) => .ok (e.set 3 (nthW w 0) :: r, s2)

def numbered {α : Type} (xs : List α) : List (Nat × α) := (List.range xs.length).zip xs

/-- The landing list that came before its round, as the round starts: its bytes land at the FILL of then (R228). -/
def startLanding (j : Job) (slot : Nat) (s : State) : Except Stop (Option XList × State) :=
  match (s.group slot).nextLand with
  | none => .ok (none, s)
  | some l =>
    match readFills { jobRq j s with charge := some 255 } l.va (numbered l.ents) s with
    | .error x => .error x
    | .ok (es, s1) => .ok (some { l with ents := es }, s1)

/-- An element has posted to the round, or bound a list in it. -/
def takesPart (e : ERef) (r : Round) : Round := { r with by_ := if r.by_.contains e then r.by_ else e :: r.by_ }

/-- A list's posts join the open round. -/
def joinRound (j : Job) (slot : Nat) (l : XList) (s : State) : Except Stop (Res × State) :=
  let n := s.open_ slot
  match writeWord (jobRq j s) (l.va + 4) (wd n) s with
  | .error e => .error e
  | .ok s1 =>
    .ok (word (wd n),
      sendRow (modRound s1 slot (fun r => { takesPart j.e r with posts := r.posts + 1, row := addRow r.row l.ents })) slot)

/-- What a dpost that opens its round, and one that joins an open one, has found of its slot: after a hold it goes on from its accesses only
where it finds the same (R235, R267). -/
def opensMark (g : Group) : List Byte := bytesOfWords (wd g.rnext :: (match g.nextLand with
  | none => []
  | some l => [wd l.va, wd (l.va / 2 ^ 32)]))
def joinsMark (r : Round) : List Byte := bytesOfWords [wd r.num, 0, 0, 0]

/-- The slot is looked at once the list is read: its round is open or is opened by this list. -/
def workDpost : Work := fun j s => do
  let (slot, l, ws, s1) ← readSend j s
  match (s1.group slot).round with
  | none =>
    let (land, s2) ← startLanding j slot (tapeMark s1 (opensMark (s1.group slot)))
    joinRound j slot l (openRound s2 slot j (XHdr.nlist ws) land)
  | some r =>
    if r.posts = r.nlist then .error (waitHere (.element j.e) s1)
    else if XHdr.nlist ws ≠ r.nlist then trap0 0x036
    else joinRound j slot l (tapeMark s1 (joinsMark r))

def execDpost (f : FmtE) (s : State) : Out := runE f (.dpost f) s workDpost

/-- dsend: lists of one cycle are bound in their order; its result is SA, flag and all (R32, R237). -/
def workDsend : Work := fun j s => do
  let (slot, l, ws, s1) ← readSend j s
  match (s1.group slot).round with
  | none => trap0 0x039
  | some r =>
    if XHdr.round ws ≠ r.num ∨ r.nlist ≤ r.binds.length then trap0 0x039
    else if s.inTurn (.lists slot) (actKey j.e) = false then .error (waitHere (.element j.e) s1)
    else
      match writeWord (jobRq j s1) (l.va + 8) (wd r.num) s1 with
      | .error e => .error e
      | .ok s2 =>
        .ok (⟨j.src.a, j.src.fa, false⟩,
          (modRound s2 slot (fun r => { takesPart j.e r with binds := r.binds ++ [l], boundAt := s.now })).act (.lists slot) (actKey j.e))

def execDsend (f : FmtE) (s : State) : Out := runE f (.dsend f) s workDsend

def workDrecv : Work := fun j s => do
  let (slot, l, s1) ← readLanding j s
  let g := s1.group slot
  match g.round with
  | some r =>
    if r.land.isSome then trap0 0x038
    else .ok (word (wd r.num), modRound s1 slot (fun r => { takesPart j.e r with land := some l }))
  | none =>
    if g.nextLand.isSome then trap0 0x038
    else .ok (word (wd g.rnext), s1.modGroup slot (fun g => { g with nextLand := some l }))

def execDrecv (f : FmtE) (s : State) : Out := runE f (.drecv f) s workDrecv

/-! ## dwait, dqry (R238, R239) -/

def roundStatus (any : Bool) (left : Nat) : Word := wd ((if any then 2 ^ 31 else 0) + left)

/-- What dwait takes at its issue: the round in BOUND, and its slot (R238); the number RNEXT itself is waited for (log 37). -/
def startDwait (j : Job) (s : State) : Except Stop (Word × State) := do
  let (_, ws, s1) ← readXHdr j s
  let slot ← slotFor j ws s1
  let b := XHdr.bound ws
  if b = 0 ∨ 64 < numDist (s1.group slot).rnext b then trap0 0x039 else .ok (callWord slot b, s1)

/-- dwait's wait ends with the round it took (R229, R238). -/
def workDwait (w : Word) : Work := fun _ s =>
  match (s.group (bits w 31 24)).rounds.find? (fun p => p.1 == bits w 23 0) with
  | some p => .ok (word (roundStatus p.2.1 p.2.2), s)
  | none => .error .wait

/-- The course of a dwait: its slot and round stand in the b value it read, 0 (its SB is code 13) until it has them. -/
def settleDwait (w : Wait) (e : ERef) (k : Sink) (s : State) : State :=
  if w.src.b = 0 then
    match workOf (.element e) (startDwait ⟨e, w.slot, w.src⟩) s with
    | .ok (n, s1) => settle { w with src := { w.src with b := n } } e k (workDwait n) s1
    | .error er => conclude w e k (.error er) s
  else settle w e k (workDwait w.src.b) s

/-- A dwait as it issues. -/
def issueDwait (w : Wait) (e : ERef) (k : Sink) (s : State) : State :=
  match newWork (.element e) (startDwait ⟨e, w.slot, w.src⟩) s with
  | .ok (n, s1) => issueWork { w with src := { w.src with b := n } } e k (workDwait n) s1
  | .error er => conclude w e k (.error er) s

def execDwait (f : FmtE) (s : State) : Out :=
  let x := s.curElem
  .next (
    if dstFull x f.dst then hold s
    else
      match fetch x s.curTrig s.curCoord f.dst f.sa 13 false false with
      | .empty => hold s
      | .marker => trapCur s 0x012 0 0
      | .got src popped x1 =>
        issueDwait ⟨s.curSlot, s.curBeat, .dwait f, src, popped, s.now⟩ s.cur (sinkE f) (s.setElem s.cur x1))

/-- The open round's state (R239, selector 2). -/
def roundState (g : Group) : Nat :=
  match g.round with
  | none => 0
  | some r => if r.rowSent = false then 1 else if r.grant.isNone then 2 else if r.left.isNone then 3 else 4

def quantaOf (g : Group) (rank : Nat) : Nat × Nat × Nat := kget (0, 0, 0) g.quanta rank

def queryItem (s : State) (slot sel : Nat) : Nat :=
  let g := s.group slot
  match sel with
  | 0 => g.rnext
  | 1 => s.open_ slot
  | 2 => roundState g
  | 3 => g.term % 2 ^ 26 * 64 + g.arb
  | 4 => g.nph
  | 5 => (quantaOf g g.rank).1
  | 6 => (quantaOf g g.rank).2.1
  | 7 => (quantaOf g g.rank).2.2
  | _ => g.lastLeft

def workDqry : Work := fun j s => do
  let (_, ws, s1) ← readXHdr j s
  let slot ← slotFor j ws s1
  if 8 < j.src.b.toNat then trap0 0x037 else .ok (word (wd (queryItem s1 slot j.src.b.toNat)), s1)

def execDqry (f : FmtE) (s : State) : Out := runE f (.dqry f) s workDqry

/-! ## The calendar (R225, R226) -/

/-- The quanta of a cell; the diagonal takes none. -/
def quantaAt (rows : KMap (List Nat)) (a b : Nat) : Nat :=
  if a = b then 0 else ceilDiv ((kget [] rows a).getD b 0) 4096

/-- One phase's pairs: sources in increasing rank, each with the lowest destination not taken. -/
def phasePairs (p : Nat) (q : Nat → Nat → Nat) : List Nat → List Nat → List (Nat × Nat)
  | [], _ => []
  | a :: as, taken =>
    match (List.range p).find? (fun d => !taken.contains d && d != a && decide (0 < q a d)) with
    | none => phasePairs p q as taken
    | some d => (a, d) :: phasePairs p q as (d :: taken)

def minQuanta (q : Nat → Nat → Nat) : List (Nat × Nat) → Nat
  | [] => 0
  | [x] => q x.1 x.2
  | x :: xs => min (q x.1 x.2) (minQuanta q xs)

/-- The phases, at most n more of them, and then the tail as phases of one pair each. -/
def calendarOf (p : Nat) : Nat → List (List Nat) → List (List (Nat × Nat) × Nat)
  | 0, m =>
    (List.range p).flatMap (fun a => (List.range p).filterMap (fun d =>
      let v := (m.getD a []).getD d 0
      if 0 < v then some ([(a, d)], v) else none))
  | n + 1, m =>
    let q (a b : Nat) := (m.getD a []).getD b 0
    let ps := phasePairs p q (List.range p) []
    if ps = [] then []
    else
      let l := minQuanta q ps
      (ps, l) :: calendarOf p n ((List.range p).map (fun a => (List.range p).map (fun d =>
        if ps.contains (a, d) then q a d - l else q a d)))

/-! ## Grant records (R227) -/

end Sys2Proof.Machine

namespace Sys2Proof.Grant
open Sys2Proof.Machine

def round (g : Grant) : Nat := (nthW g.words 0).toNat
def term (g : Grant) : Nat := (nthW g.words 1).toNat
def nph (g : Grant) : Nat := bits (nthW g.words 2) 7 0
def arb (g : Grant) : Nat := bits (nthW g.words 3) 5 0
/-- The ranks toward which the member sends tail quanta: TAILQ and TAILH. -/
def tail (g : Grant) : List Nat :=
  (List.range 64).filter (fun d => if d < 32 then bit (nthW g.words 4) d else bit (nthW g.words 5) (d - 32))
/-- The entry of a phase. -/
def phase (g : Grant) (p : Nat) : Phase :=
  let w := nthW g.words (9 + 2 * p)
  ⟨(nthW g.words (8 + 2 * p)).toNat, if bit w 31 then some (bits w 29 24) else none, if bit w 23 then some (bits w 21 16) else none⟩
def phases (g : Grant) : List Phase := (List.range g.nph).map g.phase

end Sys2Proof.Grant

namespace Sys2Proof.Machine

/-- The two words of a phase entry. -/
def phaseWords (l : Nat) (dst src : Option Nat) : List Word :=
  [wd l, wd ((match dst with
    | some d => 2 ^ 31 + d * 2 ^ 24
    | none => 0) + (match src with
    | some k => 2 ^ 23 + k * 2 ^ 16
    | none => 0))]

/-- The bits of a set of ranks from one up, 32 of them. -/
def rankBits (ds : List Nat) (base : Nat) : Word :=
  wd ((List.range 32).foldl (fun n k => if ds.contains (base + k) then n + 2 ^ k else n) 0)

/-- A member's grant record; the quanta of the tail's pairs stay in the arbiter's calendar. -/
def grantFor (round term arb rank : Nat) (cal : List (List (Nat × Nat) × Nat)) : Grant :=
  let ph := cal.take 128
  let tl := (cal.drop 128).filterMap (fun c => (c.1.find? (fun x => x.1 == rank)).map Prod.snd)
  let from_ := (cal.drop 128).filterMap (fun c => (c.1.find? (fun x => x.2 == rank)).map Prod.fst)
  ⟨[wd round, wd term, wd ph.length, wd arb, rankBits tl 0, rankBits tl 32, 0, 0] ++
    ph.flatMap (fun c => phaseWords c.2 ((c.1.find? (fun x => x.1 == rank)).map Prod.snd)
      ((c.1.find? (fun x => x.2 == rank)).map Prod.fst)), from_⟩

/-- With every row in, the arbiter makes the calendar and sends each member its record. -/
def execArbiterCalendar (slot : Nat) (rows : List (Nat × List Nat)) (s : State) : Out :=
  let g := s.group slot
  match g.round with
  | none => notNow "ARBITER_CALENDAR"
  | some r =>
    let all := kset rows g.rank (rowList g r.posted)
    when (g.valid && g.arb == g.rank && r.rowSent && g.calendar.isNone && (List.range g.p).all (khas all))
      "ARBITER_CALENDAR"
      (let cal := calendarOf g.p 128 ((List.range g.p).map (fun a => (List.range g.p).map (quantaAt all a)))
       send (s.modGroup slot (fun g => { g with calendar := some cal }))
        ((List.range g.p).map (fun k => .grant slot k (grantFor r.num g.term g.arb k cal))))

/-- A grant record of the open round and the current term is taken; one of an older term is discarded (R227, R231). -/
def execGrantRecordReceive (slot : Nat) (gr : Grant) (s : State) : Out :=
  let g := s.group slot
  if gr.term < g.term then .next s
  else
    match g.round with
    | none => notNow "GRANT_RECORD_RECEIVE"
    | some r =>
      when (r.rowSent && r.num == gr.round && gr.term == g.term && r.grant.isNone) "GRANT_RECORD_RECEIVE"
        (s.modGroup slot (fun g =>
          { g with
            round := some { r with grant := some gr, grantAt := s.now, grantBase := r.sentTo, phase := 0, quanta := 0 }
            nph := gr.nph }))

/-! ## Streams (R228) -/

/-- The pieces of a round's stream toward a destination: address and length, in bind order and then entry order. -/
def streamOf (r : Round) (d : Nat) : List (Nat × Nat) :=
  r.binds.flatMap (fun l => (l.ents.filter (fun e => XEnt.rank e == d)).map (fun e =>
    (l.base + XEnt.buf e + XEnt.sent e, XEnt.len e - XEnt.sent e)))

def streamLen (r : Round) (d : Nat) : Nat := ((streamOf r d).map Prod.snd).foldl (· + ·) 0

/-- The pieces of bytes [off, off + n) of a stream. -/
def cut : List (Nat × Nat) → Nat → Nat → List (Nat × Nat)
  | [], _, _ => []
  | (va, k) :: ps, off, n =>
    if k ≤ off then cut ps (off - k) n
    else
      let m := min (k - off) n
      (if m = 0 then [] else [(va + off, m)]) ++ cut ps 0 (n - m)

/-- What the unit does, each by itself where an access waits for its translation (R267): the streams to other ranks, the local copy, the
report, the round end, a landing by its source and offset. -/
def sendJob : Nat := 0
def localJob : Nat := 1
def reportJob : Nat := 2
def endJob : Nat := 3
def landJob (rank off : Nat) : Nat := 4 + rank + 64 * off

def exchRq (s : State) (slot job : Nat) (r : Round) : Rq :=
  ⟨.exchange slot job, (s.inst r.el.inst).graph, (s.group slot).gctx, s.dieOf r.el.inst r.el.reg, 4, r.slot,
    ⟨2 ^ 32, 0, none, 1000⟩, some 255, none, false, true, []⟩

def readList (q : Rq) : List (Nat × Nat) → State → Except Stop (List Byte × State)
  | [], s => .ok ([], s)
  | (va, n) :: ps, s =>
    match readVA q (va % 2 ^ 56) n s with
    | .error e => .error e
    | .ok (b, s1) =>
      match readList q ps s1 with
      | .error e => .error e
      | .ok (bs, s2) => .ok (b ++ bs, s2)

/-- The bytes that leave next toward a destination: up to n more of its stream. -/
def nextBytes (slot : Nat) (r : Round) (d n : Nat) (s : State) : Except Stop (List Byte × State) :=
  let off := kget 0 r.sentTo d
  readList (exchRq s slot sendJob r) (cut (streamOf r d) off (min n (streamLen r d - off))) s

/-- Bytes leave toward a destination. -/
def sendBytes (s : State) (slot : Nat) (r : Round) (d : Nat) (bs : List Byte) : State :=
  let off := kget 0 r.sentTo d
  if bs = [] then s
  else
    send (modRound s slot (fun r => { r with sentTo := kset r.sentTo d (off + bs.length) })) [.data slot d ⟨r.num, off, bs⟩]

/-- The landing zone of a source rank (R236). -/
def zoneFor (l : XList) (rank : Nat) : Option (List Word) := l.ents.find? (fun e => XEnt.rank e == rank)

/-- What landing bytes comes to: no list yet, the fatal faults 0x183 and 0x184, or where they go (R228, R236). -/
inductive Landing where
  | none
  | fault (cause : Nat)
  | at_ (va : Nat)
  deriving DecidableEq, Repr

def landingOf (r : Round) (rank off n : Nat) : Landing :=
  match r.land with
  | none => .none
  | some l =>
    match zoneFor l rank with
    | none => .fault 0x183
    | some e =>
      if XEnt.cap e < XEnt.fill e + off + n then .fault 0x184
      else .at_ ((l.base + XEnt.buf e + XEnt.fill e + off) % 2 ^ 56)

def addLanded (r : Round) (rank n : Nat) : Round := { r with landed := kset r.landed rank (kget 0 r.landed rank + n) }

/-- Job of the unit is under way: an access of it waits, or has waited. -/
def jobOpen (s : State) (slot job : Nat) : Bool := accPending s (.exchange slot job) || khas s.journals (.exchange slot job)

/-- A job of the unit is dropped with what it has made; where it is due again it begins anew. -/
def dropJob (s : State) (slot job : Nat) : State :=
  let mine (q : Req) : Bool := q == .exchange slot job
  { s with accs := s.accs.filter (fun a => !mine a.req), journals := s.journals.filter (fun p => !mine p.1) }

/-- Every job of the unit for a slot is dropped. -/
def dropJobs (s : State) (slot : Nat) : State :=
  let mine : Req → Bool
    | .exchange k _ => k == slot
    | _ => false
  { s with accs := s.accs.filter (fun a => !mine a.req), journals := s.journals.filter (fun p => !mine p.1) }

/-- The round's work goes on: its graph has no fatal fault, and the job's access is not held. -/
def roundUp (s : State) (slot job : Nat) (r : Round) : Bool :=
  (s.graph (s.inst r.el.inst).graph).fault.isNone && !accPending s (.exchange slot job)

def exchStop (s : State) (name : String) (slot job : Nat) (r : Round) : Stop → Out
  | .access va wr st t => .next (addAcc s (exchRq s slot job r) va wr st t)
  | .wait => notNow name
  | .later => notNow name
  | .keep _ => notNow name
  | .trap c a i k | .fatal c a i k =>
    .next (abortRound (asyncFault (dropJournal s (.exchange slot job)) r.el r.slot 7 c 0 a i k) slot r.num 0x181)

/-! ## Phases, the tail, the local copy (R228, R229) -/

/-- The quanta of a grant's phases toward a destination. -/
def phaseQuanta (gr : Grant) (d : Nat) : Nat :=
  ((gr.phases.filter (fun p => p.toRank == some d)).map Phase.len).foldl (· + ·) 0

/-- The bytes a grant allows toward a destination of the tail. The record does not say the tail's quanta; with the phases' they make up
the whole of what the member posted (R226), which it knows. -/
def tailLimit (r : Round) (d : Nat) : Nat := kget 0 r.grantBase d + 4096 * ceilDiv (kget 0 r.posted d) 4096

/-- The first destination of the tail toward which bytes are still to be sent. -/
def tailNext (r : Round) (gr : Grant) : Option Nat :=
  gr.tail.find? (fun d => decide (kget 0 r.sentTo d < min (streamLen r d) (tailLimit r d)))

/-- The destinations a calendar pairs a member with, and the sources. -/
def grantTo (gr : Grant) : List Nat := (gr.phases.filterMap Phase.toRank ++ gr.tail).eraseDups
def grantFrom (gr : Grant) : List Nat := (gr.phases.filterMap Phase.fromRank ++ gr.tailFrom).eraseDups

/-- A quantum of a phase is sent, or the phase passes in which the member sends nothing. -/
def runPhase (slot : Nat) (r : Round) (ph : Phase) (s : State) : Except Stop State :=
  let step (y : Round) : Round :=
    if ph.toRank.isNone ∨ ph.len ≤ y.quanta + 1 then { y with phase := y.phase + 1, quanta := 0 } else { y with quanta := y.quanta + 1 }
  match ph.toRank with
  | none => .ok (modRound s slot step)
  | some d =>
    match nextBytes slot r d 4096 s with
    | .error e => .error e
    | .ok (bs, s1) => .ok (modRound (sendBytes s1 slot r d bs) slot step)

/-- The next quantum of the calendar or of the tail; after the last one, an end packet to every rank the calendar pairs with this
sender. -/
def sendNext (slot : Nat) (r : Round) (gr : Grant) (s : State) : Except Stop State :=
  if r.phase < gr.nph then runPhase slot r (gr.phase r.phase) s
  else
    match tailNext r gr with
    | some d =>
      match nextBytes slot r d (min 4096 (tailLimit r d - kget 0 r.sentTo d)) s with
      | .error e => .error e
      | .ok (bs, s1) => .ok (sendBytes s1 slot r d bs)
    | none =>
      .ok (send (modRound s slot (fun r => { r with tailDone := true }))
        ((grantTo gr).map (fun d => .endOf slot d r.num (kget 0 r.sentTo d))))

/-- The bytes of the stream toward the part itself that are still to be copied, once every list is bound. -/
def localLeft (g : Group) (r : Round) : Nat :=
  if r.binds.length = r.nlist then streamLen r g.rank - kget 0 r.sentTo g.rank else 0

/-- The whole local stream is copied to its zone. -/
def localCopy (slot : Nat) (r : Round) (va : Nat) (s : State) : Except Stop State :=
  let rank := (s.group slot).rank
  let off := kget 0 r.sentTo rank
  let n := localLeft (s.group slot) r
  match readList (exchRq s slot localJob r) (cut (streamOf r rank) off n) s with
  | .error e => .error e
  | .ok (bs, s1) =>
    match writeVA (exchRq s slot localJob r) va bs s1 with
    | .error e => .error e
    | .ok s2 => .ok (modRound s2 slot (fun r => addLanded { r with sentTo := kset r.sentTo rank (off + n) } rank n))

/-- Where the local stream goes, if it is to be copied now: it needs its landing list and no grant. -/
def localDue (s : State) (slot : Nat) (r : Round) : Landing :=
  let g := s.group slot
  if localLeft g r = 0 ∨ roundUp s slot localJob r = false then .none
  else landingOf r g.rank (kget 0 r.sentTo g.rank) (localLeft g r)

/-- The next thing the exchange unit does of its own: the local copy, a quantum of the calendar, the end of its streams. Once the round's end
has come, nothing more is sent for it (R229). -/
def execExchangePhase (slot : Nat) (s : State) : Out :=
  match (s.group slot).round with
  | none => notNow "EXCHANGE_PHASE"
  | some r =>
    match localDue s slot r, r.grant with
    | .fault c, _ => .next (exchFail s slot r c (s.group slot).rank)
    | .at_ va, _ =>
      match workOf (.exchange slot localJob) (fun u => (localCopy slot r va u).map (fun t => ((), t))) s with
      | .error e => exchStop s "EXCHANGE_PHASE" slot localJob r e
      | .ok (_, t) => .next t
    | .none, none => notNow "EXCHANGE_PHASE"
    | .none, some gr =>
      if r.binds.length ≠ r.nlist ∨ r.tailDone ∨ jobOpen s slot endJob ∨ roundUp s slot sendJob r = false then notNow "EXCHANGE_PHASE"
      else
        match workOf (.exchange slot sendJob) (fun u => (sendNext slot r gr u).map (fun t => ((), t))) s with
        | .error e => exchStop s "EXCHANGE_PHASE" slot sendJob r e
        | .ok (_, t) => .next t

/-- Bytes land; where the member has reported already (of a source that a changeover has left out of the calendar, log 61), FILL follows. -/
def landBytes (slot rank : Nat) (r : Round) (p : ExchPkt) (va : Nat) (s : State) : Except Stop State :=
  let q := exchRq s slot (landJob rank p.off) r
  match writeVA q va p.bytes s with
  | .error e => .error e
  | .ok s1 =>
    let zone := r.land.bind (fun l => ((List.range l.ents.length).zip l.ents).find? (fun e => XEnt.rank e.2 == rank))
    match r.left, r.land, zone with
    | some _, some l, some (i, e) =>
      writeWord q (l.va + 64 + 32 * i + 12) (wd (XEnt.fill e + kget 0 r.landed rank + p.bytes.length)) s1
    | _, _, _ => .ok s1

/-- Bytes of a source land in its zone, or wait for the round's landing list; bytes that waited land by a second step for
the same packet (R228, R236). They wait too while the member closes its zones, so that FILL and the zeros behind it are those of one moment
(R229). -/
def execExchangeDataLand (slot rank : Nat) (p : ExchPkt) (s : State) : Out :=
  let g := s.group slot
  let wait (s : State) : Out :=
    if g.valid = false ∨ numPast g.rnext p.round = false then
      .next (s.modGroup slot (fun g => { g with early := g.early ++ [⟨s.now, rank, p⟩] }))
    else notNow "EXCHANGE_DATA_LAND"
  match g.round with
  | none => wait s
  | some r =>
    if r.num ≠ p.round then wait s
    else if roundUp s slot (landJob rank p.off) r = false ∨ jobOpen s slot reportJob then notNow "EXCHANGE_DATA_LAND"
    else
      match landingOf r rank p.off p.bytes.length with
      | .none =>
        when (!r.early.any (fun x => x.rank == rank && x.pkt == p)) "EXCHANGE_DATA_LAND"
          (modRound s slot (fun r => { r with early := r.early ++ [⟨s.now, rank, p⟩] }))
      | .fault c => .next (exchFail s slot r c rank)
      | .at_ va =>
        match workOf (.exchange slot (landJob rank p.off)) (fun u => (landBytes slot rank r p va u).map (fun t => ((), t))) s with
        | .error e => exchStop s "EXCHANGE_DATA_LAND" slot (landJob rank p.off) r e
        | .ok (_, t) =>
          .next (modRound t slot (fun r =>
            addLanded { r with early := removeFirst (fun x => x.rank == rank && x.pkt == p) r.early } rank p.bytes.length))

def execExchangeEndPacket (slot rank round len : Nat) (s : State) : Out :=
  when (s.open_ slot == round && round != 0) "EXCHANGE_END_PACKET"
    (modRound s slot (fun r => { r with ends := kset r.ends rank len }))

/-! ## The end of a round (R229, R230) -/

/-- The bytes each entry toward its destination sent: its part of the bytes sent there. -/
def entrySent (sentTo : KMap Nat) : List (List Word) → KMap Nat × List Nat
  | [] => (sentTo, [])
  | e :: es =>
    let n := min (XEnt.len e - XEnt.sent e) (kget 0 sentTo (XEnt.rank e))
    let r := entrySent (kset sentTo (XEnt.rank e) (kget 0 sentTo (XEnt.rank e) - n)) es
    (r.1, n :: r.2)

def bindsSent (sentTo : KMap Nat) : List XList → List (XList × List Nat)
  | [] => []
  | l :: ls => let r := entrySent sentTo l.ents; (l, r.2) :: bindsSent r.1 ls

/-- LEFT (R229). -/
def leftOf (r : Round) : Nat :=
  min 0x7FFFFFFF (((bindsSent r.sentTo r.binds).flatMap (fun p => (p.1.ents.zip p.2).map (fun e =>
    XEnt.len e.1 - XEnt.sent e.1 - e.2))).foldl (· + ·) 0)

/-- QU of a round (R230). -/
def usedOf (r : Round) (rank : Nat) : Nat :=
  ((r.sentTo.filter (fun p => p.1 != rank)).map (fun p => ceilDiv p.2 4096)).foldl (· + ·) 0

/-- FILL updated and the rest of each zone made 0. -/
def closeZones (q : Rq) (l : XList) (landed : KMap Nat) : List (Nat × List Word) → State → Except Stop State
  | [], s => .ok s
  | (i, e) :: es, s =>
    let fill := XEnt.fill e + kget 0 landed (XEnt.rank e)
    match writeWord q (l.va + 64 + 32 * i + 12) (wd fill) s with
    | .error er => .error er
    | .ok s1 =>
      match writeVA q ((l.base + XEnt.buf e + fill) % 2 ^ 56) (List.replicate (XEnt.cap e - fill) 0) s1 with
      | .error er => .error er
      | .ok s2 => closeZones q l landed es s2

/-- Every zone of the landing list closed. -/
def closeLanding (slot : Nat) (r : Round) (s : State) : Except Stop State :=
  match r.land with
  | none => .ok s
  | some l => closeZones (exchRq s slot reportJob r) l r.landed (numbered l.ents) s

/-- The sources whose end packets a member awaits: those the calendar pairs it with, and any whose end packet has come (R229). Bytes that
landed before a changeover are no reason to await their source, which the new calendar may not pair with it. -/
def sourcesOf (gr : Grant) (r : Round) : List Nat := (grantFrom gr ++ r.ends.map Prod.fst).eraseDups

/-- The conditions under which a member is done with the round (R229). -/
def roundDone (g : Group) (r : Round) : Bool :=
  match r.grant with
  | none => false
  | some gr =>
    let others := (sourcesOf gr r).filter (· != g.rank)
    r.binds.length == r.nlist && r.tailDone && r.early == [] && localLeft g r == 0 &&
    others.all (fun k => khas r.ends k && kget 0 r.ends k == kget 0 r.landed k) &&
    (r.land.isSome || (others.all (fun k => kget 0 r.ends k == 0) && streamLen r g.rank == 0))

/-- Every byte sent to another member is acknowledged by it as performed (R229). -/
def allAcked (r : Round) (rank : Nat) (acks : List (Nat × Nat)) : Bool :=
  r.sentTo.all (fun p => p.1 == rank || p.2 == 0 || acks.contains p)

def execRoundDoneReport (slot : Nat) (acks : List (Nat × Nat)) (s : State) : Out :=
  let g := s.group slot
  match g.round with
  | none => notNow "ROUND_DONE_REPORT"
  | some r =>
    if roundDone g r = false ∨ allAcked r g.rank acks = false ∨ r.left.isSome ∨ jobOpen s slot endJob ∨
        roundUp s slot reportJob r = false then
      notNow "ROUND_DONE_REPORT"
    else
      match workOf (.exchange slot reportJob) (fun u => (closeLanding slot r u).map (fun t => ((), t))) s with
      | .error e => exchStop s "ROUND_DONE_REPORT" slot reportJob r e
      | .ok (_, t) =>
        .next (send (modRound t slot (fun r => { r with left := some (leftOf r), told := true }))
          [.report slot r.num (leftOf r) (usedOf r g.rank)])

/-- A source's counters after a round (R230), each 32 bits and saturating. -/
def addQuanta (g : Group) (rank granted used left : Nat) : Group :=
  let c := quantaOf g rank
  { g with
    quanta := kset g.quanta rank (min (c.1 + granted) 0xFFFFFFFF, min (c.2.1 + used) 0xFFFFFFFF,
      min (c.2.2 + (if left = 0 then 0 else 1)) 0xFFFFFFFF) }

/-- The quanta a calendar grants a source. -/
def grantedTo (cal : List (List (Nat × Nat) × Nat)) (rank : Nat) : Nat :=
  ((cal.filter (fun c => c.1.any (fun x => x.1 == rank))).map Prod.snd).foldl (· + ·) 0

/-- With every report in, the arbiter broadcasts round end; its counters of the other sources advance. -/
def execRoundEndBroadcast (slot : Nat) (reports : List RoundReport) (s : State) : Out :=
  let g := s.group slot
  match g.round, g.calendar with
  | some r, some cal =>
    match r.left with
    | none => notNow "ROUND_END_BROADCAST"
    | some own =>
      when (g.arb == g.rank && (List.range g.p).all (fun k => k == g.rank || reports.any (fun x => x.rank == k)))
        "ROUND_END_BROADCAST"
        (let others := (List.range g.p).filterMap (fun k =>
          if k = g.rank then none else reports.find? (fun x => x.rank == k))
         let any := own != 0 || others.any (fun x => x.left != 0)
         send (s.modGroup slot (fun g =>
            { others.foldl (fun g x => addQuanta g x.rank (grantedTo cal x.rank) x.used x.left) g with calendar := none }))
          [.roundEnd slot r.num any])
  | _, _ => notNow "ROUND_END_BROADCAST"

/-- SENT and then POST of each entry of a bound list. -/
def closeEntries (q : Rq) (va : Nat) : List (Nat × List Word × Nat) → State → Except Stop State
  | [], s => .ok s
  | (i, e, n) :: es, s =>
    let sent := XEnt.sent e + n
    match writeWords q (va + 64 + 32 * i + 12) [wd (XEnt.len e - sent), wd sent] s with
    | .error er => .error er
    | .ok s1 => closeEntries q va es s1

def closeBinds (q : Rq) : List (XList × List Nat) → State → Except Stop State
  | [], s => .ok s
  | (l, ns) :: bs, s =>
    match closeEntries q l.va (numbered (l.ents.zip ns)) s with
    | .error er => .error er
    | .ok s1 => closeBinds q bs s1

/-- The quanta the current grant gives this member as a source. -/
def grantQuanta (r : Round) : Nat :=
  match r.grant with
  | none => 0
  | some gr =>
    ((gr.phases.filter (fun p => p.toRank.isSome)).map Phase.len ++
      gr.tail.map (fun d => ceilDiv (kget 0 r.posted d) 4096 - phaseQuanta gr d)).foldl (· + ·) 0

/-- The round is over on this part: what the unit had under way for it is gone. -/
def endRound (s : State) (slot : Nat) (r : Round) (any : Bool) : State :=
  let left := r.left.getD (leftOf r)
  (dropJobs s slot).modGroup slot (fun g =>
    { addQuanta g g.rank (grantQuanta r) (usedOf r g.rank) left with
      round := none
      lapsedIn := []
      lastLeft := left
      rounds := ((r.num, any, left) :: g.rounds).take 64 })

/-- A member that has reported the round takes its end, be it after a changeover, when it was to report again (R229, R231). -/
def execRoundEndReceive (slot round : Nat) (any : Bool) (s : State) : Out :=
  match (s.group slot).round with
  | none => notNow "ROUND_END_RECEIVE"
  | some r =>
    if (r.left.isNone ∧ r.told = false) ∨ r.num ≠ round ∨ roundUp s slot endJob r = false then notNow "ROUND_END_RECEIVE"
    else
      match workOf (.exchange slot endJob) (fun u =>
          (closeBinds (exchRq s slot endJob r) (bindsSent r.sentTo r.binds) u).map (fun t => ((), t))) s with
      | .error e => exchStop s "ROUND_END_RECEIVE" slot endJob r e
      | .ok (_, t) => .next (endRound t slot r any)

/-! ## Timeouts and aborts (R229, R240) -/

/-- The round that others have opened and this member has not is aborted: this member raises the fault as it opens it (R231, R240). -/
def abortNext (s : State) (slot cause rank : Nat) : State :=
  let n := (s.group slot).rnext
  (abortRound s slot n cause).modGroup slot (fun g => { g with roundAborts := (n, rank, cause) :: g.roundAborts })

/-- A row is missing TMO after the first one reached the arbiter. Where it is this part's own and no round is open here, this member
raises the fault when it opens that round, as it would an abort (R240). -/
def execExchangePostTimeout (slot missing firstRow : Nat) (s : State) : Out :=
  let g := s.group slot
  let due (tmo : Nat) : Bool := g.valid && g.arb == g.rank && decide (missing < g.p) && decide (firstRow + tmo * 1000000 ≤ s.now)
  match g.round with
  | none => when (due g.tmo && missing == g.rank) "EXCHANGE_POST_TIMEOUT" (abortNext s slot 0x180 g.rank)
  | some r =>
    when (due r.tmo && g.calendar.isNone && (missing != g.rank || !r.rowSent) &&
        (s.graph (s.inst r.el.inst).graph).fault.isNone) "EXCHANGE_POST_TIMEOUT" (exchFail s slot r 0x180 missing)

/-- Bytes have been held TMO with no DRECV: those of the rank given, a source's or the local stream's (R229, R240). -/
def heldLong (g : Group) (r : Round) (now : Nat) : Option Nat :=
  match r.early.find? (fun x => decide (x.at_ + r.tmo * 1000000 ≤ now)) with
  | some x => some x.rank
  | none => if 0 < localLeft g r ∧ r.boundAt + r.tmo * 1000000 ≤ now then some g.rank else none

def execLandingListTimeout (slot : Nat) (s : State) : Out :=
  match (s.group slot).round with
  | none => notNow "LANDING_LIST_TIMEOUT"
  | some r =>
    match heldLong (s.group slot) r s.now with
    | none => notNow "LANDING_LIST_TIMEOUT"
    | some rank =>
      when (r.land.isNone && (s.graph (s.inst r.el.inst).graph).fault.isNone) "LANDING_LIST_TIMEOUT"
        (exchFail s slot r 0x182 rank)

def execExchangeSendTimeout (slot : Nat) (s : State) : Out :=
  let g := s.group slot
  match g.round with
  | none => notNow "EXCHANGE_SEND_TIMEOUT"
  | some r =>
    when (r.rowSent && r.grant.isSome && decide (r.binds.length < r.nlist) && decide (r.grantAt + r.tmo * 1000000 ≤ s.now) &&
        (s.graph (s.inst r.el.inst).graph).fault.isNone) "EXCHANGE_SEND_TIMEOUT" (exchFail s slot r 0x185 g.rank)

/-- An abort of a round that is not open here is kept for a round that this member opens later; one of a round that has ended is of none
(R240). -/
def keepRoundAbort (s : State) (slot round rank : Nat) : State :=
  let g := s.group slot
  if g.valid && numPast g.rnext round then s
  else s.modGroup slot (fun g => { g with roundAborts := (round, rank, 0x181) :: g.roundAborts })

/-- An abort packet: 0x181 for the open round, or for a round that this member opens later (R240). -/
def execExchangeAbortPacket (slot rank round : Nat) (s : State) : Out :=
  let g := s.group slot
  when (slot < 16) "EXCHANGE_ABORT_PACKET"
    (match g.round with
     | some r =>
       if r.num = round then exchFault s r 0x181 rank else keepRoundAbort s slot round rank
     | none => keepRoundAbort s slot round rank)

/-! ## The arbiter's lease (R231) -/

/-- A sign of life of a rank: this part's own is sent, a peer's is received. -/
def signOfLife (s : State) (slot rank : Nat) (p : OutPkt) : State :=
  let g := s.group slot
  if rank = g.rank then send s [p]
  else s.modGroup slot (fun g => { g with
    last := kset g.last rank s.now, lapsed := g.lapsed.filter (· != rank), lapsedIn := g.lapsedIn.filter (· != rank) })

def execArbiterBeacon (slot rank : Nat) (s : State) : Out :=
  let g := s.group slot
  when (g.valid && rank == g.arb) "ARBITER_BEACON" (signOfLife s slot rank (.beacon slot g.term))

def execMemberHeartbeat (slot rank : Nat) (s : State) : Out :=
  let g := s.group slot
  when (g.valid && decide (rank < g.p)) "MEMBER_HEARTBEAT" (signOfLife s slot rank (.heartbeat slot))

/-- The arbiter aborts the open round for members other than the arbiter that have stopped being live in it: the one open on this part, or
the next one where only others have posted to it (R231). -/
def abortLapsed (s : State) (slot : Nat) (ranks : List Nat) : State :=
  match ranks, (s.group slot).round with
  | [], _ => s
  | k :: _, some r => exchFail s slot r 0x181 k
  | k :: _, none => abortNext s slot 0x181 k

/-- The next round, which is not open on this part, is open in the group: some other member has posted to it. No packet tells the members of
it, so the oracle says whether it is so (log 36). -/
def postedElsewhere (s : State) : Bool × State := (s.choose.1 == 1, s.choose.2)

/-- A peer's last sign of life is 100 µs old; the arbiter aborts a round that is open as the member lapses. A member that is not the arbiter
keeps who has lapsed in the round, for the case that it claims the term (R231). -/
def execLivenessLapse (slot rank : Nat) (s : State) : Out :=
  let g := s.group slot
  when (g.valid && decide (rank < g.p) && rank != g.rank && !g.lapsed.contains rank &&
      decide (kget 0 g.last rank + 100000 ≤ s.now)) "LIVENESS_LAPSE"
    (let o := if g.round.isSome then (true, s) else postedElsewhere s
     let s1 := o.2.modGroup slot (fun g => { g with lapsed := g.lapsed ++ [rank] })
     if o.1 = false then s1
     else if g.arb = g.rank then abortLapsed s1 slot [rank]
     else if g.arb = rank then s1
     else s1.modGroup slot (fun g => { g with lapsedIn := g.lapsedIn ++ [rank] }))

/-- A new term: older grants are gone, and the open round posts again what is left of its row (log 36). Quanta leave whole, each by one
step, so that this falls between two of them; one whose bytes wait to be read has not begun to leave, and is gone with its grant (R231); so
is a report that had begun, which falls due again under the new calendar. -/
def changeover (s : State) (slot term arb : Nat) : State :=
  let s0 := dropJob (dropJob s slot sendJob) slot reportJob
  let s1 := s0.modGroup slot (fun g =>
    { g with
      term := term
      arb := arb
      quanta := []
      calendar := none
      round := g.round.map (fun r =>
        { r with
          grant := none
          phase := 0
          quanta := 0
          tailDone := false
          ends := []
          left := none
          posted := r.row.map (fun p => (p.1, p.2 - kget 0 r.sentTo p.1)) }) })
  match (s1.group slot).round with
  | none => s1
  | some r => if r.rowSent then send s1 [.row slot r.num (rowList (s1.group slot) r.posted)] else s1

/-- The lowest live rank claims the next term after its wait. As the arbiter it aborts the open round for a member that has lapsed in it
(R231). -/
def execArbiterClaim (slot : Nat) (s : State) : Out :=
  let g := s.group slot
  when (g.valid && g.arb != g.rank && g.lapsed.contains g.arb && (List.range g.rank).all g.lapsed.contains &&
      decide (kget 0 g.last g.arb + 100000 + 10000 * g.rank ≤ s.now)) "ARBITER_CLAIM"
    (abortLapsed (changeover (send s [.claim slot (g.term + 1)]) slot (g.term + 1) g.rank) slot g.lapsedIn)

/-- The claim with the highest term, and the lowest rank among equal terms, is accepted. -/
def execClaimAccept (slot rank term : Nat) (s : State) : Out :=
  let g := s.group slot
  when (g.valid && decide (rank < g.p)) "CLAIM_ACCEPT"
    (if g.term < term ∨ (g.term = term ∧ rank < g.arb) then changeover s slot term rank else s)

end Sys2Proof.Machine
end

