-- ==== Sys2Proof/Machine/TileOp.lean ====
section
/-! DEFINITION. Tile operations: topb, topx and the dot-product unit (spec/07_instr_contraction_tiles.md R136 to R142,
spec/13_ragged_sparse_ternary.md R209 to R216). Kinds are numbered as FN[3:0] (R60): dot 0, dotu 1, dots 2, dott 3, sacc 4,
addt 5, copyt 6, scant 7. -/

namespace Sys2Proof.Machine

/-! ## The descriptor (R137, R138) -/

namespace TDesc
def fa (ws : List Word) : Nat := bits (nthW ws 0) 23 20
def fb (ws : List Word) : Nat := bits (nthW ws 0) 19 16
def fd (ws : List Word) : Nat := bits (nthW ws 0) 15 12
def ka (ws : List Word) : Bool := bit (nthW ws 0) 11
def kb (ws : List Word) : Bool := bit (nthW ws 0) 10
def note (ws : List Word) : Bool := bit (nthW ws 0) 9
def sat (ws : List Word) : Bool := bit (nthW ws 0) 8
def trb (ws : List Word) : Bool := bit (nthW ws 0) 7
def n (ws : List Word) : Nat := bits (nthW ws 1) 31 16
def m (ws : List Word) : Nat := bits (nthW ws 1) 15 0
def k (ws : List Word) : Nat := bits (nthW ws 2) 15 0
def ha (ws : List Word) : Word := nthW ws 3
def hb (ws : List Word) : Word := nthW ws 4
def hc (ws : List Word) : Word := nthW ws 5
def hd (ws : List Word) : Word := nthW ws 6
def hm (ws : List Word) : Word := nthW ws 7
end TDesc

/-- No tile (R137). -/
def noTile (h : Word) : Bool := h == 0xFFFFFFFF

/-- The formats of A and B that a dot kind takes to f32: bf16, f16 and each pair of 8-bit ones (R138). -/
def dotTriples : List (Nat × Nat × Nat) :=
  [(1, 1, 0), (2, 2, 0)] ++ [3, 4].flatMap (fun a => [3, 4].map (fun b => (a, b, 0)))

/-- copyt's: every format to itself, f32 to the four narrower ones and back, i4 to i8 (R140). -/
def copyTriples : List (Nat × Nat × Nat) :=
  (List.range 11).map (fun f => (f, f, f)) ++
  (List.range 4).flatMap (fun k => let g := k + 1; [(0, 0, g), (g, g, 0)]) ++ [(7, 7, 5)]

/-- The format triples of a kind (R138, R140). -/
def triples (kind : Nat) : List (Nat × Nat × Nat) :=
  if kind = 0 ∨ kind = 2 then (5, 5, 7) :: dotTriples
  else
    match kind with
    | 1 => [5, 8].map (fun b => (8, b, 7))
    | 3 => [(5, 9, 7)]
    | 4 => [(0, 10, 0)]
    | 5 => [(0, 0, 0), (7, 7, 7)]
    | 6 => copyTriples
    | 7 => [(0, 0, 0)]
    | _ => []

/-- Whether an operand stands (some true), is missing or not wanted as the table asks (R138). -/
def operandsOk (kind : Nat) (ws : List Word) : Bool :=
  let a := !noTile (TDesc.ha ws)
  let b := !noTile (TDesc.hb ws)
  let c := !noTile (TDesc.hc ws)
  let m := !noTile (TDesc.hm ws)
  !noTile (TDesc.hd ws) &&
  (kind == 7 || a) && (b == (kind != 6)) && (m == (kind == 2 || kind == 4)) &&
  (if kind ≤ 3 ∨ kind = 7 then true else c == (kind == 4))

/-- The operand M is kept: KB keeps it in dots (R214); another kind's M has no keep bit. -/
def keepM (kind : Nat) (ws : List Word) : Bool := kind == 2 && TDesc.kb ws

/-- The handles a firing empties (R139, R214) (log 23). -/
def emptied (kind : Nat) (ws : List Word) : List Word :=
  ((if TDesc.ka ws then [] else [TDesc.ha ws]) ++ (if TDesc.kb ws then [] else [TDesc.hb ws]) ++
    (if keepM kind ws then [] else [TDesc.hm ws])).filter (fun h => !noTile h && h != TDesc.hd ws)

/-- The descriptor is no reserved combination (R138). -/
def topDescOk (kind : Nat) (ws : List Word) : Bool :=
  bits (nthW ws 0) 31 24 == 0x70 && bits (nthW ws 0) 6 0 == 0 && bits (nthW ws 2) 31 16 == 0 &&
  (ws.drop 8).all (· == 0) && TDesc.n ws % 32 == 0 && TDesc.m ws % 32 == 0 && TDesc.k ws % 32 == 0 &&
  (triples kind).contains (TDesc.fa ws, TDesc.fb ws, TDesc.fd ws) && operandsOk kind ws &&
  !(TDesc.ka ws && TDesc.kb ws && TDesc.hd ws == TDesc.hc ws && (emptied kind ws).isEmpty)

/-- Every handle the descriptor names. -/
def topHandles (ws : List Word) : List Word :=
  ([TDesc.ha ws, TDesc.hb ws, TDesc.hc ws, TDesc.hd ws, TDesc.hm ws].filter (fun h => !noTile h)).eraseDups

/-- A tile has the shape and the format. -/
def shaped (s : State) (inst : Nat) (h : Word) (rows cols fmt : Nat) : Bool :=
  let sp := (s.tile (entryOf s inst h)).spec
  noTile h || (specRows sp == rows && specCols sp == cols && specFmt sp == fmt)

def swapIf (b : Bool) (r c : Nat) : Nat × Nat := if b then (c, r) else (r, c)

/-- The tiles have what the table of R138 requires, M of dots what R212 does. For scant's C the table says "initial state, row 0" and no shape:
the model asks f32 and N columns, of any number of rows (DESIGN CHOICE, log 67). -/
def shapesOk (s : State) (inst kind : Nat) (ws : List Word) : Bool :=
  let m := TDesc.m ws
  let n := TDesc.n ws
  let k := TDesc.k ws
  let t := TDesc.trb ws
  let sp (h : Word) := (s.tile (entryOf s inst h)).spec
  let atLeast (h : Word) (c : Nat) := specFmt (sp h) == 10 && decide (c ≤ specRows (sp h) * specCols (sp h))
  let mn (h : Word) (f : Nat) := shaped s inst h m n f
  mn (TDesc.hd ws) (TDesc.fd ws) &&
  (if kind ≤ 3 then
    let b := swapIf t k n
    shaped s inst (TDesc.ha ws) m k (TDesc.fa ws) && shaped s inst (TDesc.hb ws) b.1 b.2 (TDesc.fb ws) &&
    mn (TDesc.hc ws) (TDesc.fd ws) &&
    (kind != 2 || shaped s inst (TDesc.hm ws) n (32 * ceilDiv k 1024) 7)
  else if kind = 4 then
    mn (TDesc.ha ws) 0 && atLeast (TDesc.hb ws) m && mn (TDesc.hc ws) 0 && atLeast (TDesc.hm ws) n
  else if kind = 6 then
    let a := swapIf t m n
    shaped s inst (TDesc.ha ws) a.1 a.2 (TDesc.fa ws)
  else
    let b := swapIf t m n
    mn (TDesc.ha ws) (TDesc.fa ws) && shaped s inst (TDesc.hb ws) b.1 b.2 (TDesc.fb ws) &&
    (kind != 7 || noTile (TDesc.hc ws) || (specFmt (sp (TDesc.hc ws)) == 0 && specCols (sp (TDesc.hc ws)) == n)))

def isSystolic (s : State) (r : RRef) : Bool := (s.inst r.inst).img.regions.any (fun x => x.reg == r.reg && x.systolic)

/-- What a systolic region allows (R142, R214). A B larger than the array, for which R142 names no cause, is refused as a reserved
combination (DESIGN CHOICE, log 58). -/
def systolicOk (s : State) (e : ERef) (kind : Nat) (ws : List Word) : Bool :=
  !isSystolic s e.rref ||
    (e.el == 0 && kind != 2 && (3 < kind || (decide (TDesc.k ws ≤ 256) && decide (TDesc.n ws ≤ 256))))

/-- The checks a topb or topx makes at issue, the tables' turn before the handles are looked at (R103, R110, R111, R136, R138, R142). Their
order is the model's (DESIGN CHOICE, log 63). -/
def topCheck (kind : Nat) (j : Job) (s : State) : Except Stop (List Word × State) := do
  let va ← ptrVA j j.src.a 64 s
  let s0 ← settled j .part s
  let (ws, s1) ← readWords (jobRq j s0) va 16 s0
  if topDescOk kind ws = false ∨ systolicOk s1 j.e kind ws = false then trap0 0x024
  else if tablesInTurn s1 j.e.inst (topHandles ws) (tableKey j.e.el) = false then .error (waitHere (.element j.e) s1)
  else if (topHandles ws).any (fun h => !live s1 j.e.inst h) then trap0 0x020
  else if shapesOk s1 j.e.inst kind ws = false then trap0 0x02D
  else .ok (ws, s1)

def useAll (s : State) (inst : Nat) (ws : List Word) : State :=
  (topHandles ws).foldl (fun t h => addUse t (entryOf s inst h)) s
def unuseAll (s : State) (inst : Nat) (ws : List Word) : State :=
  (topHandles ws).foldl (fun t h => dropUse t (entryOf s inst h)) s

def topHandle (x : Bool) (e : ERef) (low : Nat) : Word :=
  wd (2 ^ 30 + (if x then 2 ^ 29 else 0) + e.reg * 2 ^ 16 + e.el * 2 ^ 10 + low)

/-! ## Elements of tiles -/

/-- Who makes a firing's accesses: they are charged to the binding's region, and a race is asynchronous (R287, R290). -/
def bindRq (s : State) (e : ERef) (slot : Nat) : Rq := { elemRq s e slot 0 with utlb := none, prec := false }

/-- A tile's bytes read whole. -/
def readTile (q : Rq) (inst : Nat) (h : Word) (s : State) : Except Stop (List Byte × State) :=
  if noTile h then .ok ([], s)
  else
    let t := entryOf s inst h
    readPlace q (.tile t 0) 0 (specBytes (s.tile t).spec) s

/-- The initial state of a scant binding: row 0 of C, or +0 (R140). -/
def scanInit (q : Rq) (inst : Nat) (ws : List Word) (s : State) : Except Stop (List Word × State) :=
  if noTile (TDesc.hc ws) then .ok (List.replicate (TDesc.n ws) 0, s)
  else
    let t := entryOf s inst (TDesc.hc ws)
    match readPlace q (.tile t 0) 0 (4 * TDesc.n ws) s with
    | .error e => .error e
    | .ok (bs, s1) => .ok (wordsOf bs, s1)

/-! ## topb and topx (R136) -/

def topKind (f : FmtE) : Nat := bits f.fn 3 0

def freeBind (x : Elem) : Option Nat := (List.range 4).find? (fun i => !khas x.binds i)

def workTopb (f : FmtE) : Work := fun j s => do
  let kind := topKind f
  let (ws, s1) ← topCheck kind j s
  match freeBind (s1.elem j.e) with
  | none => trap0 0x02C
  | some i =>
    let (dl, s2) ← (if kind = 7 then scanInit (bindRq s1 j.e j.slot) j.e.inst ws s1 else .ok ([], s1))
    let h := topHandle false j.e i
    .ok (word h, (actTables (useAll s2 j.e.inst ws) j.e.inst (topHandles ws) (tableKey j.e.el)).modElem j.e (fun x =>
      { x with binds := kset x.binds i ⟨kind, ws, j.src.b.toNat, 0, h, j.slot, dl, false, none, before s1 j.e⟩ }))

def execTopb (f : FmtE) (s : State) : Out := runE f (.topb f) s (workTopb f)

/-- A further topx waits until one of the four places frees. A scant's initial state is taken as it issues, as a binding's is as it binds: the
spec speaks of a binding alone (R136, R140; DESIGN CHOICE, log 67). -/
def workTopx (f : FmtE) : Work := fun j s => do
  let kind := topKind f
  let (ws, s1) ← topCheck kind j s
  if 4 ≤ (s1.elem j.e).topx.length then .error (waitHere (.element j.e) s1)
  else
    let (dl, s2) ← (if kind = 7 then scanInit (bindRq s1 j.e j.slot) j.e.inst ws s1 else .ok ([], s1))
    let h := topHandle true j.e (s2.elem j.e).topxSeq
    .ok (word h, (actTables (useAll s2 j.e.inst ws) j.e.inst (topHandles ws) (tableKey j.e.el)).modElem j.e (fun x =>
      { x with
        topx := x.topx ++ [⟨kind, ws, 1, 0, h, j.slot, dl, false, none, before s1 j.e⟩]
        topxSeq := (x.topxSeq + 1) % 1024 }))

def execTopx (f : FmtE) (s : State) : Out := runE f (.topx f) s (workTopx f)

/-! ## What a firing computes (R140, R212, R213) -/

/-- A tile's element [r, c] in its row-major storage, `cols` wide. -/
def tileAt (w cols : Nat) (bs : List Byte) (r c : Nat) : Nat := codeAt w bs (r * cols + c)

def fmtOf (code : Nat) : EFmt := (EFmt.ofCode code).getD .f32

/-- The operands of a firing, read whole. -/
structure Opnds where
  a : List Byte
  b : List Byte
  c : List Byte
  m : List Byte
  deriving DecidableEq, Repr

/-- B[k, j] as stored: transposed under TRB. -/
def bAt (ws : List Word) (w rows cols : Nat) (bs : List Byte) (k j : Nat) : Nat :=
  if TDesc.trb ws then tileAt w rows bs j k else tileAt w cols bs k j

/-- Whether the bitmap keeps position k of column j (R212). -/
def keeps (ws : List Word) (m : List Byte) (j k : Nat) : Bool :=
  codeAt 32 m (j * (32 * ceilDiv (TDesc.k ws) 1024) + k / 32) / 2 ^ (k % 32) % 2 == 1

/-- The kept positions of a block before k. -/
def keptBefore (ws : List Word) (m : List Byte) (j k : Nat) : Nat :=
  ((List.range (k % 64)).filter (fun i => keeps ws m j (k / 64 * 64 + i))).length

/-- B[k, j] of a dot kind: in dots the n-th kept value stands at row n of its block (R213), and the others are omitted. -/
def dotB (kind : Nat) (ws : List Word) (o : Opnds) (j k : Nat) : Option Nat :=
  let w := (fmtOf (TDesc.fb ws)).width
  let at_ (r : Nat) := bAt ws w (TDesc.k ws) (TDesc.n ws) o.b r j
  if kind = 2 then
    if keeps ws o.m j k then some (at_ (k / 64 * 64 + keptBefore ws o.m j k)) else none
  else some (at_ k)

/-- copyt's conversion of one code (R140); the reserved t2 code reads as 0 and raises, and is not written (R67). Where FD = FA the code is copied, a NaN with its sign and payload and with nothing raised, after R140's 'copies
the bits' and not R65 and R73 (DESIGN CHOICE, log 63). -/
def convCode (fa fd : Nat) (sat : Bool) (c : Nat) : Nat × Bool :=
  if fa = fd then (if fa = 9 ∧ c = 2 then (0, true) else (c, false))
  else
    match (fmtOf fa).float, (fmtOf fd).float with
    | some a, some d => if fd = 0 then rne32s (a.decode c) else d.round (sat && decide (3 ≤ fd)) false (a.decode c)
    | _, _ =>
      let v := signedN 4 c
      if v > 127 then (127, true) else if v < -128 then (128, true) else (c % 256, false)

/-- D[i, j] of every kind but scant, as a code, and whether anything raised (R140). -/
def topElem (kind : Nat) (ws : List Word) (o : Opnds) (i j : Nat) : Nat × Bool :=
  let n := TDesc.n ws
  let m := TDesc.m ws
  let fa := fmtOf (TDesc.fa ws)
  let fb := fmtOf (TDesc.fb ws)
  let c := if o.c = [] then 0 else wd (tileAt 32 n o.c i j)
  let r : Word × Bool :=
    if kind ≤ 3 then
      dotreduce fa fb c (fun k => some (tileAt fa.width (TDesc.k ws) o.a i k)) (dotB kind ws o j) (TDesc.k ws)
    else if kind = 4 then saccOp c (wd (tileAt 32 n o.a i j)) (codeAt 8 o.b i) (codeAt 8 o.m j)
    else
      let x := wd (tileAt 32 n o.a i j)
      let y := wd (bAt ws 32 m n o.b i j)
      if TDesc.fa ws = 0 then dotgroup x [fv y] else sat32 (sx x + sx y)
  if kind = 6 then
    convCode (TDesc.fa ws) (TDesc.fd ws) (TDesc.sat ws)
      (if TDesc.trb ws then tileAt fa.width m o.a j i else tileAt fa.width n o.a i j)
  else (r.1.toNat, r.2)

/-- One column of scant: the values from row i on, and the state after (R140). -/
def scanCol (ws : List Word) (o : Opnds) (j : Nat) : Nat → Nat → Word → List (Nat × Bool) × Word
  | 0, _, h => ([], h)
  | k + 1, i, h =>
    let n := TDesc.n ws
    let g := if o.a = [] then FVal.fin false 1 0 else fv (wd (tileAt 32 n o.a i j))
    let v := dotgroup (wd (bAt ws 32 (TDesc.m ws) n o.b i j)) [FVal.mul g (fv h)]
    let r := scanCol ws o j k (i + 1) v.1
    ((v.1.toNat, v.2) :: r.1, r.2)

/-- D row-major, with what raised, and the delay node after the firing. -/
def topResult (b : Bind) (o : Opnds) : List (Nat × Bool) × List Word :=
  let ws := b.words
  let n := TDesc.n ws
  let m := TDesc.m ws
  if b.kind = 7 then
    let cols := (List.range n).map (fun j => scanCol ws o j m 0 (nthW b.delay j))
    ((List.range (m * n)).map (fun p => ((cols.getD (p % n) ([], 0)).1).getD (p / n) (0, false)), cols.map Prod.snd)
  else ((List.range (m * n)).map (fun p => topElem b.kind ws o (p / n) (p % n)), b.delay)

/-- The 32 x 32 sub-tiles of D in which something raised, row-major (R162). -/
def excSubs (ws : List Word) (d : List (Nat × Bool)) : List (Nat × Nat) :=
  let n := TDesc.n ws
  (List.range ((TDesc.m ws / 32) * (n / 32))).map (fun t => (t / (n / 32), t % (n / 32))) |>.filter (fun t =>
    (List.range 1024).any (fun p => (d.getD ((t.1 * 32 + p / 32) * n + t.2 * 32 + p % 32) (0, false)).2))

/-! ## Firing (R139) -/

/-- A firing in progress will empty the tile (R139, R143). -/
def claimed (s : State) (t : Nat × Nat) : Bool :=
  s.elems.any (fun p =>
    match p.2.firing with
    | some f => f.bind.isSome && (emptied f.op.kind f.op.words).any (fun h => entryOf s p.1.inst h == t)
    | none => false)

/-- A binding is eligible (R139). -/
def bindReady (s : State) (inst : Nat) (b : Bind) : Bool :=
  let ws := b.words
  let ent (h : Word) := entryOf s inst h
  (topHandles ws).all (fun h => h == TDesc.hd ws || ((s.tile (ent h)).f && !claimed s (ent h))) &&
  (TDesc.hd ws == TDesc.hc ws || !(s.tile (ent (TDesc.hd ws))).f)

def noBind : Bind := ⟨0, [], 0, 0, 0, 0, [], false, none, []⟩

/-- What the unit takes next: a queued topx first, then the lowest-numbered eligible binding. -/
def nextFiring (s : State) (e : ERef) : Option (Option Nat × Bind) :=
  let x := s.elem e
  match x.topx with
  | b :: _ => some (none, b)
  | [] =>
    ((List.range 4).find? (fun i => khas x.binds i && bindReady s e.inst (kget noBind x.binds i))).map
      (fun i => (some i, kget noBind x.binds i))

/-- A binding of a lower-numbered element that would empty or fill a tile of this one is eligible too, at an idle unit: it goes first
(R103, R139, R143). -/
def lowerFirst (s : State) (e : ERef) (b : Bind) : Bool :=
  let mine := (topHandles b.words).map (entryOf s e.inst)
  s.elems.any (fun p =>
    decide (p.1.el < e.el) && p.2.firing.isNone && graphUp s p.1.inst &&
    (match nextFiring s p.1 with
     | some (some _, c) => (TDesc.hd c.words :: emptied c.kind c.words).any (fun h => mine.contains (entryOf s p.1.inst h))
     | _ => false))

/-- The full operands of a binding are found full: their releases are acquired (R289). -/
def acquireOpnds (s : State) (e : ERef) (ws : List Word) : State :=
  (topHandles ws).foldl (fun t h =>
    if h = TDesc.hd ws then t else acquireOptAt t e (s.tile (entryOf s e.inst h)).rel) s

/-- What comes before a firing: what came before its command, and behind a binding's operands (R280). -/
def firingDeps (s : State) (e : ERef) (bound : Bool) (b : Bind) : List Dep :=
  (b.hb ++ (if bound then (topHandles b.words).flatMap (fun h =>
    if h = TDesc.hd b.words then [] else (((s.tile (entryOf s e.inst h)).rel).map Release.deps).getD []) else [])).filter (depOpen s)

/-- The 64-byte lines of B that a dots firing reads: of column j, the rows of each block of 64 below its number of kept values (R213). -/
def keptLines (ws : List Word) (m : List Byte) : List Nat :=
  let w := (fmtOf (TDesc.fb ws)).width
  let k := TDesc.k ws
  let n := TDesc.n ws
  ((List.range n).flatMap (fun j =>
    ((List.range k).filter (fun i => keeps ws m j i)).map (fun i =>
      let r := i / 64 * 64 + keptBefore ws m j i
      (if TDesc.trb ws then j * k + r else r * n + j) * w / 8 / 64))).eraseDups

/-- Lines of a tile checked, each as a read of its own. -/
def checkLines (q : Rq) (t : Nat × Nat) : List Nat → State → Except Stop State
  | [], s => .ok s
  | l :: ls, s =>
    match engineTile q t (64 * l) 64 false s with
    | .error e => .error e
    | .ok s1 => checkLines q t ls s1

/-- B as a firing takes it: the copy that a systolic array holds, loaded at the first firing and after B is filled again (R142); in dots
only the kept rows are read (R213); else the tile read whole. With it, what the array holds afterwards. -/
def readB (q : Rq) (e : ERef) (b : Bind) (m : List Byte) (s : State) :
    Except Stop ((List Byte × Option (Nat × List Byte)) × State) :=
  let ws := b.words
  let t := entryOf s e.inst (TDesc.hb ws)
  if b.kind = 2 then
    match checkLines q t (keptLines ws m) s with
    | .error x => .error x
    | .ok s1 => .ok ((readBytes s1 q.agent (tileKey t.1 t.2 0) (specBytes (s.tile t).spec), none), s1)
  else
    let sys := isSystolic s e.rref && decide (b.kind ≤ 3)
    match (if sys then b.held.filter (fun h => h.1 == (s.tile t).fills) else none) with
    | some h => .ok ((h.2, some h), s)
    | none =>
      match readTile q e.inst (TDesc.hb ws) s with
      | .error x => .error x
      | .ok (bs, s1) => .ok ((bs, if sys then some ((s.tile t).fills, bs) else none), s1)

/-- A firing begun: its operands read, its result written to D, its place taken among its sink's events. A TOPX firing's records stand where it
starts, as a binding's do; that this is its place in R163's issue order, and not that of its TOPX, is the model's (DESIGN CHOICE, log 67). -/
def fireOne (s : State) (e : ERef) (i : Option Nat) (b : Bind) : Except Stop State := do
  let q := bindRq s e b.slot
  let ws := b.words
  let s0 := if i.isSome then acquireOpnds s e ws else s
  let (a, s1) ← readTile q e.inst (TDesc.ha ws) s0
  let (m, s2) ← readTile q e.inst (TDesc.hm ws) s1
  let (bb, s3) ← readB q e b m s2
  let (c, s4) ← (if b.kind = 7 then .ok ([], s3) else readTile q e.inst (TDesc.hc ws) s3)
  let r := topResult b ⟨a, bb.1, c, m⟩
  let s5 ← writePlace q (.tile (entryOf s e.inst (TDesc.hd ws)) 0) 0
    (packElems (fmtOf (TDesc.fd ws)).width (r.1.map Prod.fst)) s4
  let id := s5.fresh
  let s6 := { s5 with fresh := id + 1 }.modElem e (fun x =>
    { x with
      topx := if i.isNone then x.topx.drop 1 else x.topx
      firing := some ⟨i, { b with delay := r.2, held := bb.2, hb := firingDeps s e i.isSome b }, r.1.any Prod.snd, excSubs ws r.1, id⟩ })
  .ok (if isSink s e then logLater s6 e id [] else s6)

def execTileOpFiring (e : ERef) (s : State) : Out :=
  match nextFiring s e with
  | none => notNow "TILE_OP_FIRING"
  | some (i, b) =>
    if (s.elem e).firing = none ∧ graphUp s e.inst ∧ (i.isNone ∨ lowerFirst s e b = false) ∧
        tablesInTurn s e.inst (topHandles b.words) (tableEngine e.el) then
      match fireOne s e i b with
      | .ok t => .next (actTables t e.inst (topHandles b.words) (tableEngine e.el))
      | .error er => engineStop s "TILE_OP_FIRING" (bindRq s e b.slot) e 4 b.handle er
    else notNow "TILE_OP_FIRING"

/-- w0 to w7 of a sink's record of a firing's sub-tile (R162 KIND 1) (log 30). -/
def firingRecord (s : State) (e : ERef) (b : Bind) (t : Nat × Nat) : List Word :=
  [coordOf e.reg e.el, wd (2 ^ 28 + b.slot * 2 ^ 24),
    if (s.inst e.inst).img.clocked then (s.inst e.inst).icnt else 0,
    TDesc.hd b.words, 0, wd (t.1 * 2 ^ 16 + t.2), 0, 0]

/-- A sink's records of a firing, in the place of its start among the sink's events (R162, R163). -/
def logFiring (s : State) (e : ERef) (f : Firing) : State :=
  if isSink s e then logOver s e f.id (f.subs.map (firingRecord s e f.op)) else s

/-- The tags after a binding's firing: unkept operands empty, D full (R139). -/
def retag (s : State) (e : ERef) (b : Bind) : State :=
  let s1 := (emptied b.kind b.words).foldl (fun t h => t.modTile (entryOf s e.inst h) (fun y => { y with f := false })) s
  setFull s1 (entryOf s e.inst (TDesc.hd b.words)) (s.physReg e.inst e.reg) b.hb

/-- A binding after a firing: counted, and retired at its limit with a tag 0 token; NOTE pushes a tag 1 token (R136,
R137). -/
def endBinding (s : State) (e : ERef) (i : Nat) (f : Firing) : State :=
  let b := { f.op with fired := f.op.fired + 1, exc := f.op.exc || f.exc }
  let s1 := if TDesc.note b.words then pushMi s e ⟨b.handle, 1, f.exc, none, none⟩ else s
  if b.limit ≠ 0 ∧ b.limit ≤ b.fired then
    pushDone (unuseAll (s1.modElem e (fun x => { x with binds := kdel x.binds i })) e.inst b.words) e
      ⟨b.handle, 0, b.exc, none, none⟩
  else s1.modElem e (fun x => { x with binds := kset x.binds i b })

/-- NOTE pushes a tag 1 token after a TOPX firing too (R137). -/
def endFiring (s : State) (e : ERef) (f : Firing) : State :=
  let s1 := logFiring (s.modElem e (fun x => { x with firing := none })) e f
  match f.bind with
  | none =>
    let s2 := if TDesc.note f.op.words then pushMi s1 e ⟨f.op.handle, 1, f.exc, none, none⟩ else s1
    pushDone (unuseAll s2 e.inst f.op.words) e ⟨f.op.handle, 0, f.exc, none, none⟩
  | some i => endBinding (retag s1 e f.op) e i f

/-- A firing ends: the tags and uses that it changes come behind the requests of elements at their tables (R103). -/
def execTileOpFiringEnd (e : ERef) (s : State) : Out :=
  match (s.elem e).firing with
  | none => notNow "TILE_OP_FIRING_END"
  | some f =>
    when (tablesInTurn s e.inst (topHandles f.op.words) (tableEngine e.el) && tablesFree s e.inst (topHandles f.op.words)) "TILE_OP_FIRING_END"
      (actTables (endFiring s e f) e.inst (topHandles f.op.words) (tableEngine e.el))

end Sys2Proof.Machine
end

