-- ==== Sys2Proof/Machine/Issue.lean ====
section
/-! DEFINITION. When a slot fires, marker reset, and the routes of the token network (spec/03_element_and_word.md R31,
R36 to R43, R369, spec/18_memory_model.md R281). -/

namespace Sys2Proof.Machine

/-! ## Eligibility (R38, R39) -/

/-- The run of markers, or of other tokens, at a channel's head (R39). -/
def headRun (ts : List Token) (markers : Bool) : Nat := (ts.takeWhile (fun t => (t.tag == 3) == markers)).length

/-- Condition 3: the channel guard. -/
def guardOk (x : Elem) (t : Trigger) : Bool :=
  t.cge == 0 ||
    (let ts := x.chan t.cgi.toNat
     let marker := t.tge == 1 && t.tgv == 3
     decide (t.nb.toNat + 1 ≤ headRun ts marker) &&
     (t.tge == 0 || (ts.head?.map Token.tag) == some t.tgv))

/-- Condition 2: the predicates. -/
def predsOk (x : Elem) (t : Trigger) : Bool := (x.p ^^^ t.pval) &&& t.pmask == 0

/-- The signal status a guard reads: unknown where the slot is bound to nothing. -/
def guardSig (s : State) (e : ERef) (slot : Nat) : Option Bool :=
  match sigOf s e slot with
  | none => none
  | some k => sigStatus s e k

/-- Condition 4: the signal guard. -/
def signalOk (s : State) (e : ERef) (t : Trigger) : Bool :=
  if t.sgs = 1 then guardSig s e t.sgi.toNat == some true
  else if t.sgs = 2 then guardSig s e t.sgi.toNat == some false
  else true

/-- The destination field of a slot word, in the place every format has it (R46 to R52). -/
def dstOf (w : SlotWord) : BitVec 4 := w.extractLsb' 18 4

/-- Conditions 1 to 5 of one slot but for the signal guard. -/
def slotReady (x : Elem) (i : Nat) : Bool :=
  let t := x.trig i
  t.v == 1 && predsOk x t && guardOk x t && !dstFull x (dstOf (x.slotWord i))

/-- Condition 6. -/
def elemFree (x : Elem) : Bool := x.dp == .idle && !x.halted && !x.ended && !x.trapped

/-- The lowest-numbered eligible slot (R40). -/
def nextSlot (s : State) (e : ERef) : Option Nat :=
  let x := s.elem e
  if elemFree x then (List.range 16).find? (fun i => slotReady x i && signalOk s e (x.trig i)) else none

/-- The stage runs, and its regions have not stopped: they stop within 1 microsecond of a fatal fault (R343). -/
def stageIssues (s : State) (inst : Nat) : Bool :=
  let i := s.inst inst
  i.status == .running &&
  (match (s.graph i.graph).fault with
   | none => true
   | some f => decide (s.now < f.time + 1000))

/-- A slot and a beat chosen: the next step runs them (log 1), and the element's datapath takes no other beat in this cycle (R40, R41). -/
def chooseBeat (s : State) (e : ERef) (slot n : Nat) : State :=
  { s.beat e with cur := e, curSlot := slot, curBeat := n, latched := true }

def execSlotIssue (e : ERef) (s : State) : Out :=
  match nextSlot s e with
  | none => notNow "SLOT_ISSUE"
  | some i => when (stageIssues s e.inst && !s.beaten e) "SLOT_ISSUE" (chooseBeat s e i 0)

/-! ## Further beats and operand waits (R41, R42) -/

def execMultiBeatBeat (e : ERef) (s : State) : Out :=
  match (s.elem e).dp with
  | .beat i n =>
    when (stageIssues s e.inst && !dstFull (s.elem e) (dstOf ((s.elem e).slotWord i)) && !s.beaten e) "MULTI_BEAT_BEAT"
      (chooseBeat s e i n)
  | _ => notNow "MULTI_BEAT_BEAT"

/-- The source codes of a slot word, by its format; skip never waits on its operand (R42, R45). -/
def srcsOf (w : SlotWord) : List (BitVec 4) :=
  let sa := w.extractLsb' 14 4
  let sb := w.extractLsb' 10 4
  if opOf w = 0xCB then []
  else
    match (opOf w).toNat / 32 with
    | 3 => []
    | 2 => [sa]
    | 6 => [sa]
    | 7 => [sa]
    | _ => [sa, sb]

/-- No channel that the word reads is empty. -/
def operandsIn (x : Elem) (w : SlotWord) : Bool :=
  (srcsOf w).all (fun c =>
    match chanOf c with
    | none => true
    | some k => x.chan k != [])

def execChannelOperandWaitEnd (e : ERef) (s : State) : Out :=
  match (s.elem e).dp with
  | .operand i n =>
    let w := (s.elem e).slotWord i
    when (stageIssues s e.inst && operandsIn (s.elem e) w && !dstFull (s.elem e) (dstOf w) && !s.beaten e) "CHANNEL_OPERAND_WAIT_END"
      (chooseBeat s e i n)
  | _ => notNow "CHANNEL_OPERAND_WAIT_END"

/-! ## Image values (R26, R31) -/

/-- The value of an initialiser, given the launch arguments and the handles of the declared tiles. -/
def initVal (args : KMap Word) (hs : List Word) : InitVal → Word
  | .lit w => w
  | .arg n => kget 0 args n
  | .tile n => nthW hs n

def indexed0 {α : Type} (xs : List α) : KMap α := (List.range xs.length).zip xs

/-- d0 to d7, flags, predicates, charge registers, rule select and pump counters at their image values (R31, R43). -/
def restoreRegs (g : ElemImage) (args : KMap Word) (hs : List Word) (x : Elem) : Elem :=
  { x with
    d := indexed0 (g.d.map (initVal args hs)), fl := [], p := g.p, q := indexed0 (g.q.map (initVal args hs)), rs := g.rs.toNat
    pumps := x.pumps.map (fun p => (p.1, { p.2 with c := [0, 0, 0, 0], iter := 0 })) }

/-! ## Marker reset (R43) -/

def routedIns (g : StageImage) (e : ERef) : List Nat := (List.range 4).filter (g.endsRoute e)
def routedOuts (g : StageImage) (e : ERef) : List Nat := (List.range 4).filter (g.beginsRoute e)

/-- An end-of-invocation marker (R34). -/
def isEndInv (t : Token) : Bool := t.tag == 3 && bits t.w 31 24 == 2

/-- The conditions of a marker reset (R43). An element whose datapath is occupied or that is halted has no eligible slot (log 22); one that is
stopped at a trap does nothing more (R341), and the tokens of one that has ended wait in its channels until the next instant (R294). -/
def canReset (s : State) (e : ERef) : Bool :=
  let x := s.elem e
  let g := (s.inst e.inst).img
  routedIns g e != [] &&
  (routedIns g e).all (fun c => ((x.chan c).head?.map isEndInv).getD false) &&
  (nextSlot s e).isNone && !x.trapped && !x.ended && (routedOuts g e).all x.outRoom

/-- The marker pushed onto an output, with its region's release on a boundary route (R281). -/
def pushOutTok (s : State) (e : ERef) (c : Nat) (t : Token) : State :=
  outRelease (s.modElem e (fun x => x.pushOut c t)) e (BitVec.ofNat 4 (8 + c))

/-- An element has reset: in a stage that is not clocked an invocation ends once every element that ends a route has reset in it (R336). -/
def noteReset (s : State) (e : ERef) : State :=
  if (s.inst e.inst).img.clocked then s
  else s.modInst e.inst (fun i =>
    let rs := if i.resets.contains (e.reg, e.el) then i.resets else (e.reg, e.el) :: i.resets
    let all := (i.img.routes.map (fun r => (r.dstReg, r.dstEl))).all rs.contains
    if all then { i with resets := [], durs := (s.now - i.istart) :: i.durs.take 63, istart := s.now }
    else { i with resets := rs })

/-- A marker reset (R43). The marker it pushes has the first routed input's payload, and as its exception bit the OR of those of the markers
popped (R32). -/
def resetElem (s : State) (e : ERef) : State :=
  let i := s.inst e.inst
  let ins := routedIns i.img e
  let x := s.elem e
  let pay := (ins.head?.bind (fun c => (x.chan c).head?)).map Token.w
  let exc := ins.any (fun c => ((x.chan c).head?.map Token.exc).getD false)
  let args := (s.graph i.graph).args
  let x1 := ins.foldl (fun x c => x.popIn c) x
  let x2 := match i.img.elemImage e.reg e.el with
    | none => x1
    | some g => restoreRegs g args i.handles x1
  let s1 := s.setElem e x2
  noteReset ((routedOuts i.img e).foldl (fun t c => pushOutTok t e c ⟨pay.getD 0, 3, exc, none, none⟩) s1) e

def execMarkerReset (e : ERef) (s : State) : Out :=
  when (canReset s e && stageIssues s e.inst && !(s.inst e.inst).held.contains e.reg && !s.beaten e) "MARKER_RESET"
    (resetElem (s.beat e) e)

/-! ## Routes (R36, R37, R369) -/

/-- Route n of a stage can take the head of its output channel. -/
def canTake (s : State) (inst n : Nat) : Bool :=
  let i := s.inst inst
  match i.img.routes[n]? with
  | none => false
  | some r =>
    (s.elem ⟨inst, r.srcReg, r.srcEl⟩).out r.outC != [] && !i.copied.contains n && destRoom s inst r.dstReg r.dstEl r.inC

/-- The head taken, with the route's tag; it leaves its channel when the last route has taken it. -/
def takeRoute (s : State) (inst n : Nat) (r : RouteDecl) : State :=
  let e : ERef := ⟨inst, r.srcReg, r.srcEl⟩
  match (s.elem e).out r.outC with
  | [] => s
  | t :: ts =>
    let all := (s.inst inst).img.routesFrom r.srcReg r.srcEl r.outC
    let took := n :: (s.inst inst).copied
    let last := all.all took.contains
    let t' := { t with rtag := r.packet, rel := if r.via.isSome then t.rel else none }
    let s1 := s.modInst inst (fun i =>
      { i with
        flight := kset i.flight n (kget [] i.flight n ++ [t'])
        copied := if last then took.filter (fun k => !all.contains k) else took })
    if last then s1.modElem e (fun x => { x with outs := kset x.outs r.outC ts }) else s1

def execRouteTokenTake (inst n : Nat) (s : State) : Out :=
  match (s.inst inst).img.routes[n]? with
  | none => notNow "ROUTE_TOKEN_TAKE"
  | some r => when (canTake s inst n && (s.inst inst).status == .running) "ROUTE_TOKEN_TAKE" (takeRoute s inst n r)

/-- The oldest token in flight on a route or done wire becomes visible; its release is acquired (R280). -/
def deliver (s : State) (inst n : Nat) (reg el c : Nat) : State :=
  match kget [] (s.inst inst).flight n with
  | [] => s
  | t :: ts =>
    let s1 := s.modInst inst (fun i => { i with flight := kset i.flight n ts })
    let s2 := acquireOptAt s1 ⟨inst, reg, el⟩ t.rel
    s2.modElem ⟨inst, reg, el⟩ (fun x => x.pushIn c { t with rel := none })

def canDeliver (s : State) (inst n reg el c : Nat) : Bool :=
  kget [] (s.inst inst).flight n != [] && (s.elem ⟨inst, reg, el⟩).inRoom c && (s.inst inst).status == .running

/-- Where a plain route, a packet-mode route without a boundary node, or a done wire ends. -/
def arrivalEnd (g : StageImage) (n : Nat) : Option (Nat × Nat × Nat) :=
  match g.routes[n]? with
  | some r => if r.via.isNone then some (r.dstReg, r.dstEl, r.inC) else none
  | none => (g.doneWires[n - g.routes.length]?).map (fun w => w.2.2)

def execTokenArrival (inst n : Nat) (s : State) : Out :=
  match arrivalEnd (s.inst inst).img n with
  | none => notNow "TOKEN_ARRIVAL"
  | some d => when (canDeliver s inst n d.1 d.2.1 d.2.2) "TOKEN_ARRIVAL" (deliver s inst n d.1 d.2.1 d.2.2)

/-- The store that an operation before a token is, if it is one. -/
def Dep.store? : Dep → Option Nat
  | .store id => some id
  | _ => none

/-- A boundary node delivers once every operation that happens before the token's write is performed at its scope: those at work when the
token was written are over, whoever issued them, and the stores before it are performed there, and no others (R280, R281). -/
def execBoundaryNodeDeliver (inst n : Nat) (s : State) : Out :=
  let g := (s.inst inst).img
  match g.routes[n]? with
  | none => notNow "BOUNDARY_NODE_DELIVER"
  | some r =>
    match r.via.bind (fun b => g.boundaries[b]?) with
    | none => notNow "BOUNDARY_NODE_DELIVER"
    | some sc =>
      let deps := (((kget [] (s.inst inst).flight n).head?.bind Token.rel).map Release.deps).getD []
      when (canDeliver s inst n r.dstReg r.dstEl r.inC && deps.all (fun d => d.store?.isSome || !depOpen s d))
        "BOUNDARY_NODE_DELIVER" (deliver (widenIds s (deps.filterMap Dep.store?) sc) inst n r.dstReg r.dstEl r.inC)

end Sys2Proof.Machine
end

