-- ==== Sys2Proof/Machine/Verify.lean ====
section
/-! DEFINITION. The image verifier (spec/03_element_and_word.md R54, R55; spec/18_memory_model.md R276, R281, R282;
spec/10_instr_channels_tiles_memory.md R172, R177; spec/20_instants_signals.md R293, R307). -/

namespace Sys2Proof

/-- Scope S of element (reg, el) contains another element of the stage, by the image's logical positions (R276). -/
def Scope.contains (sc : Scope) (a b : Nat × Nat) : Bool :=
  match sc with
  | .element => a == b
  | .region => a.1 == b.1
  | .die => a.1 / 24 == b.1 / 24
  | _ => true

/-- An element's release scope (R282). -/
def StageImage.releaseScope (g : StageImage) (reg el : Nat) : Scope :=
  match (g.elemImage reg el).bind ElemImage.done with
  | some d => d.scope
  | none => .element

end Sys2Proof

namespace Sys2Proof.Machine

/-! ## Slot words in their image (R54, R307) -/

def bindOf (x : ElemImage) (slot : Nat) : Option Nat := (x.binds.find? (fun p => p.1 == slot)).map Prod.snd

/-- The slot is bound to a signal that the element may emit and that is valued or pure as asked. -/
def emitsOk (g : StageImage) (x : ElemImage) (slot : Nat) (kind : Option Bool) : Bool :=
  match (bindOf x slot).bind (fun k => g.signals[k]?) with
  | none => false
  | some d => d.emitters.contains (x.reg, x.el) && (kind.isNone || kind == some d.combine.isSome)

/-- The conditions on an instruction that its stage decides (R54, R293, R307). -/
def inStageOk (g : StageImage) (x : ElemImage) : Instr → Bool
  | .emit f => g.clocked && emitsOk g x f.sli.toNat (some false)
  | .emitv f => g.clocked && emitsOk g x f.sli.toNat (some true)
  | .cede f => g.clocked && emitsOk g x f.sli.toNat none
  | .sigv f => g.clocked && (bindOf x f.sli.toNat).isSome
  | .rxend _ | .dlyr _ | .dlyw _ => g.clocked
  | _ => true

/-- A word of a slot: not valid, or an instruction (R27, R54, R55). -/
def wordOk (g : StageImage) (x : ElemImage) (w : SlotWord) : Bool :=
  if (Trigger.ofWord w).v = 0 then true
  else
    match decodeSlot w with
    | .error _ => false
    | .ok (t, i) => inStageOk g x i && (t.sgs == 0 || (g.clocked && (bindOf x t.sgi.toNat).isSome))

/-! ## Scopes (R281, R282) -/

def boundariesOk (g : StageImage) : Bool :=
  decide (g.boundaries.length ≤ 64) &&
  g.routes.all (fun r =>
    match r.via with
    | none => true
    | some b =>
      match g.boundaries[b]? with
      | none => false
      | some sc => sc.contains (r.srcReg, r.srcEl) (r.dstReg, r.dstEl))

def doneOk (g : StageImage) (x : ElemImage) : Bool :=
  match x.done with
  | none => true
  | some d => d.dests.all (fun t =>
      d.scope.contains (x.reg, x.el) (t.1, t.2.1) && (g.releaseScope t.1 t.2.1).le d.scope)

def routeScopeOk (g : StageImage) (r : RouteDecl) : Bool :=
  let a := g.releaseScope r.srcReg r.srcEl
  let b := g.releaseScope r.dstReg r.dstEl
  b.le a ||
  (match r.via.bind (fun k => g.boundaries[k]?) with
   | none => false
   | some sc => b.le sc)

/-! ## Declared tiles (R172) and pumps (R177) -/

/-- The logical dies of a stage, in order. -/
def ldies (g : StageImage) : List Nat := sortBy (· < ·) (g.regions.map (fun r => r.reg / 24)).eraseDups

/-- The bytes of cistern-level data of a logical die. -/
def bringsData (g : StageImage) (ldie : Nat) : Nat :=
  g.objs.foldl (fun n o => if o.level = .cistern ldie then n + o.contents.length else n) 0

/-- Some placement has room for what the stage declares: entries of each table, each element's SRAM, and the cisterns, of which six offer
64 MiB and two 62 MiB (R99, R172, R328). -/
def tilesFit (g : StageImage) : Bool :=
  let onReg (r : Nat) := g.tiles.filter (fun t => specLvl t.spec != 2 && t.reg == r)
  let onDie (d : Nat) := g.tiles.filter (fun t => specLvl t.spec == 2 && t.reg / 24 == d)
  let sum (ts : List TileDecl) (f : TileDecl → Nat) : Nat := (ts.map f).foldl (· + ·) 0
  let need (d : Nat) := sum (onDie d) (fun t => specBytes t.spec) + bringsData g d
  g.regions.all (fun r =>
    let ts := onReg r.reg
    decide (ts.length ≤ 1024) &&
    (List.range 64).all (fun e => decide (sum ts (fun t =>
      if specLvl t.spec = 1 then share (specBytes t.spec) else if t.el = e then specBytes t.spec else 0) ≤ 2 ^ 19))) &&
  decide ((ldies g).length ≤ 8) &&
  (ldies g).all (fun d => decide ((onDie d).length ≤ 1024) && decide (need d ≤ 64 * 2 ^ 20)) &&
  decide (((ldies g).filter (fun d => decide (62 * 2 ^ 20 < need d))).length ≤ 6)

/-- A pump's words with its base and its tile put in. -/
def pumpWords (args : KMap Word) (hs : List Word) (p : PumpImage) : List Word :=
  let a := match p.base with
    | none => p.words
    | some v => p.words.set 1 (initVal args hs v)
  match p.th with
  | none => a
  | some v => a.set 9 (initVal args hs v)

/-- The rows of a declared tile. -/
def declRows (g : StageImage) : Option InitVal → Option Nat
  | some (.tile n) => (g.tiles[n]?).map (fun t => specRows t.spec)
  | _ => none

/-- A descriptor meets what R176 says of its own words, and of a declared tile's rows. -/
def pumpImageOk (g : StageImage) (p : PumpImage) (ws : List Word) : Bool :=
  let m := PumpCfg.mode ws
  let u := PumpCfg.unit ws
  bits (nthW ws 0) 31 24 == 0x9D && bits (nthW ws 0) 15 0 == 0 && decide (PumpCfg.bk ws ≤ 2) &&
  (if m = 0 then decide (PumpCfg.sz ws ≤ 2) else PumpCfg.sz ws == 2 && decide (PumpCfg.bk ws ≤ 1)) &&
  PumpCfg.tag ws != 3 &&
  (if PumpCfg.bk ws = 0 then nthW ws 2 == 0 else if PumpCfg.bk ws = 1 then bits (nthW ws 2) 31 24 == 0 else true) &&
  (if m = 0 then nthW ws 9 == 0xFFFFFFFF else true) && (if m = 3 then true else nthW ws 10 == 0) &&
  bits (nthW ws 11) 31 24 == 0 && (ws.drop 12).all (· == 0) &&
  (if PumpCfg.bk ws = 2 then (nthW ws 2).toNat % u == 0 else (nthW ws 1).toNat % u == 0) &&
  (List.range 4).all (fun k => Int.emod (PumpCfg.stride ws k) u == 0) &&
  (match m, declRows g p.th with
   | 1, some r => PumpCfg.iters ws % r == 0
   | _, _ => true)

/-- Whether a value is known: a launch argument is known only at a launch. -/
def known (args : Option (KMap Word)) : Option InitVal → Bool
  | some (.arg _) => args.isSome
  | _ => true

def pumpsOk (g : StageImage) (args : Option (KMap Word)) (x : ElemImage) : Bool :=
  x.pumps.all (fun p => !known args p.2.base || !known args p.2.th ||
    pumpImageOk g p.2 (pumpWords (args.getD []) [] p.2))

/-! ## Images and graphs (R55) -/

/-- What the verifier checks of an image, each with the number of the rule it stands in. -/
def imageChecks (g : StageImage) (args : Option (KMap Word)) : List (Nat × Bool) :=
  [(293, g.clocked || (g.signals == [] && g.elems.all (fun x => x.binds == []))),
   (296, decide (g.signals.length ≤ 1024)),
   (54, g.elems.all (fun x => x.slots.all (wordOk g x))),
   (282, g.elems.all (doneOk g)),
   (177, g.elems.all (pumpsOk g args)),
   (281, boundariesOk g),
   (282, g.routes.all (routeScopeOk g)),
   (172, g.tiles.all (fun t => specOk t.spec) && tilesFit g)]

def imageOk (g : StageImage) (args : Option (KMap Word)) : Bool := (imageChecks g args).all Prod.snd

/-- The checks of a graph's images, and of its length (R23). -/
def graphChecks (g : Graph) (args : Option (KMap Word)) : List (Nat × Bool) :=
  (23, decide (g.items.length ≤ 64)) :: g.items.flatMap (fun i =>
    match i with
    | .stage img => imageChecks img args
    | _ => [])

def graphOk (g : Graph) (args : Option (KMap Word)) : Bool := (graphChecks g args).all Prod.snd

/-! ## Data objects as the loader places them (R24, R253, R367) -/

/-- Every data object of a graph, with the base of its stage's data region. -/
def graphObjs (g : Graph) : List (Nat × DataObj) :=
  g.items.flatMap (fun i =>
    match i with
    | .stage img => img.objs.map (fun o => (img.dataBase, o))
    | _ => [])

/-- The 16 KiB pages an object touches. -/
def objPages (base : Nat) (o : DataObj) : List Nat :=
  let va := base + o.off
  (List.range ((va + o.contents.length + 2 ^ 14 - 1) / 2 ^ 14 - va / 2 ^ 14)).map (fun k => (va / 2 ^ 14 + k) * 2 ^ 14)

/-- Two objects of a data region do not overlap, and share no page where they need different leaves. -/
def apart (base : Nat) (a b : DataObj) : Bool :=
  (decide (a.off + a.contents.length ≤ b.off) || decide (b.off + b.contents.length ≤ a.off)) &&
  (a.level == b.level || (objPages base a).all (fun p => !(objPages base b).contains p))

def allApart (base : Nat) : List DataObj → Bool
  | [] => true
  | o :: os => os.all (apart base o) && allApart base os

/-- An object starts at a multiple of n bytes, by its offset and by its address (R367). -/
def startsAt (base n : Nat) (o : DataObj) : Bool := o.off % n == 0 && (base + o.off) % n == 0

/-- The offsets of a stage's objects are such as the loader gives (R367). -/
def offsetsOk (g : StageImage) : Bool :=
  g.objs.all (fun o => startsAt g.dataBase (if o.level = .cxl then 2 ^ 14 else 64) o &&
    decide (o.off + o.contents.length ≤ 0xFFFF0000)) && allApart g.dataBase g.objs

/-- The leaf an address has, present or not, and its level. -/
def rawLeafFrom (s : State) (va : Nat) : Nat → Nat → Option (Nat × BitVec 64)
  | 0, _ => none
  | n + 1, table =>
    let w := BitVec.ofNat 64 (leNat (readPart s (hbmKey (table + 8 * pteIndex n va)) 8))
    if n = 0 ∨ pteLeaf w then some (n, w) else if pteP w then rawLeafFrom s va n (pteAddr w) else none

def rawLeaf (s : State) (ctx va : Nat) : Option (Nat × BitVec 64) := rawLeafFrom s va 4 (s.ctx ctx).root

/-- The home address of an address by its leaf. -/
def leafHome (va : Nat) (p : Nat × BitVec 64) : Nat := pteAddr p.2 + va % 2 ^ pageLog p.1

/-- The memory ports that are trained (R253); CXL port k is link 25 + k (R363). -/
def trainedPorts (s : State) : List Nat := (List.range 4).filter (fun k => !s.downLinks.contains (25 + k))

/-- The port of a page of pooled memory: the one it was given when the context first mapped it, else the one R253 gives it now. -/
def cxlPort (s : State) (ctx a : Nat) : Option Nat :=
  match (s.ctx ctx).ports.find? (fun p => p.1 == a / 2 ^ 14) with
  | some p => some p.2
  | none => (trainedPorts s)[a / 2 ^ 14 % (trainedPorts s).length]?

/-- A page of an object is mapped as its level asks (R24). -/
def pageMapped (s : State) (ctx : Nat) (o : DataObj) (va : Nat) (home : Option Nat) : Bool :=
  match rawLeaf s ctx va with
  | none => false
  | some p =>
    pteP p.2 && pteOk p.1 p.2 &&
    (match o.level with
     | .cistern _ => pteHome p.2 == 1
     | .hbm => pteHome p.2 == 0 && pteRD p.2 == (s.ctx ctx).rd && home == some (leafHome va p)
     | .peer _ rank slot => pteHome p.2 == 2 && pteTgt p.2 == rank && pteGsl p.2 == slot && home == some (leafHome va p)
     | .cxl => pteHome p.2 == 3 && home == some (leafHome va p) && some (pteTgt p.2) == cxlPort s ctx (leafHome va p))

def objMapped (s : State) (ctx base : Nat) (o : DataObj) : Bool :=
  let ps := objPages base o
  ((List.range ps.length).zip ps).all (fun p => pageMapped s ctx o p.2 (o.pages[p.1]?))

/-- The pages of pooled memory that a graph maps keep their ports while the context lives (R253). -/
def keepPorts (s : State) (ctx : Nat) (g : Graph) : State :=
  ((graphObjs g).filter (fun p => p.2.level = .cxl)).foldl (fun (t : State) (p : Nat × DataObj) =>
    p.2.pages.foldl (fun (t : State) (a : Nat) =>
      match cxlPort t ctx a with
      | some k => t.modCtx ctx (fun c => { c with ports := kset c.ports (a / 2 ^ 14) k })
      | none => t) t) s

/-- The pages of a context's graphs that stand in pooled memory have the ports they were given; one that the host has migrated to another home
has none (R253, R273). -/
def portsKept (s : State) (ctx : Nat) : Bool :=
  s.resident.all (fun r => r.1.1 != ctx || (graphObjs r.2.graph).all (fun p =>
    p.2.level != .cxl || (objPages p.1 p.2).all (fun va =>
      match rawLeaf s ctx va with
      | none => true
      | some l => !pteP l.2 || pteHome l.2 != 3 || some (pteTgt l.2) == cxlPort s ctx (leafHome va l))))

/-! ## MAKE_RESIDENT (R24, R55, R367) -/

/-- The loader's own check: a peer object's group is formed on the part, in the slot given, with the rank below its P (R24). -/
def peersFormed (s : State) (ctx : Nat) (g : Graph) : Bool :=
  (graphObjs g).all (fun o =>
    match o.2.level with
    | .peer group rank slot => decide (slot < 16) && (s.group slot).valid && (s.group slot).g == group &&
        (s.group slot).gctx == ctx && decide (rank < (s.group slot).p)
    | _ => true)

/-- The rule that a graph breaks, if there is one (R55). -/
def brokenRule (s : State) (ctx : Nat) (g : Graph) : Option Nat :=
  ((graphChecks g none ++ [(24, peersFormed s ctx g)]).find? (fun (p : Nat × Bool) => !p.2)).map Prod.fst

/-- Page-table entries written by the loader. -/
def writePtes (s : State) : List (Nat × BitVec 64) → State
  | [] => s
  | (a, w) :: ps => writePtes (writeThrough s (keyed (hbmKey a) (leBytes 8 w.toNat))) ps

/-- The context as its driver made it, its root and its race setting fixed (R24, R262), with the loader's entries. -/
def loaded (s : State) (ctx : Nat) (p : ResidentReq) : State :=
  writePtes (s.modCtx ctx (fun c => { c with made := true, root := p.root, rd := p.rd })) p.ptes

/-- What the loader has placed is as R24 and R367 state it. -/
def placedOk (s : State) (ctx : Nat) (g : Graph) : Bool :=
  g.items.all (fun i =>
    match i with
    | .stage img => offsetsOk img
    | _ => true) && (graphObjs g).all (fun p => objMapped s ctx p.1 p.2)

/-- A graph becomes resident, or is refused with the number of the rule it breaks, and nothing of it is resident (R55). The loader's entries
leave the pooled pages of the context's other graphs at their ports (R253). -/
def execMakeResident (ctx idx : Nat) (p : ResidentReq) (s : State) : Out :=
  let c := s.ctx ctx
  if 256 ≤ idx ∨ s.recovery ∨ (c.made = true ∧ (p.root ≠ c.root ∨ p.rd ≠ c.rd)) then notNow "MAKE_RESIDENT"
  else
    match brokenRule s ctx p.graph with
    | some r => .next { s with refusals := s.refusals ++ [(ctx, idx, r)] }
    | none =>
      let s1 := loaded s ctx p
      let s2 := { s1 with resident := kset s1.resident (ctx, idx) p }
      when (placedOk s1 ctx p.graph && portsKept s2 ctx) "MAKE_RESIDENT" (keepPorts s2 ctx p.graph)

end Sys2Proof.Machine
end

