-- ==== Sys2Proof/Machine/Wellhead.lean ====
section
/-! DEFINITION. The wellheads: gath, scat, pools, gstat, rows and completion (spec/16_wellhead_gather_atomics.md R244 to
R260). -/

namespace Sys2Proof.Machine

/-! ## The gather descriptor (R244, R245) -/

namespace GDesc
def fmt (ws : List Word) : Nat := bits (nthW ws 0) 23 20
def nseg (ws : List Word) : Nat := bits (nthW ws 0) 19 16 + 1
def dim (ws : List Word) : Nat := bits (nthW ws 0) 12 0
def idx (ws : List Word) : Nat := (nthW ws 1).toNat
def offs (ws : List Word) : Nat := (nthW ws 2).toNat
def buf (ws : List Word) : Nat := (nthW ws 3).toNat
def base (ws : List Word) (k : Nat) : Nat := (nthW ws (16 + 2 * k)).toNat
def rows (ws : List Word) (k : Nat) : Nat := (nthW ws (17 + 2 * k)).toNat
def width (ws : List Word) : Nat :=
  match EFmt.ofCode (fmt ws) with
  | some f => f.width
  | none => 8
/-- The row size in bytes. -/
def rowSize (ws : List Word) : Nat := dim ws * width ws / 8
end GDesc

/-- The stride of BUF: its natural one where BSTR is 0 (R244). -/
def bufStride (op : Nat) (ws : List Word) : Nat :=
  if nthW ws 4 = 0 then (if op = 2 then 4 * GDesc.dim ws else GDesc.rowSize ws) else (nthW ws 4).toNat

/-- The formats a command accepts (R256). -/
def wellFmtOk (op fn fmt : Nat) : Bool :=
  match op with
  | 0 => fmt ≤ 10
  | 1 => if fn = 0 then fmt ≤ 10 else if fn = 1 then fmt == 0 else fmt == 7
  | _ => if fn = 1 then fmt == 1 else if fn = 3 then fmt == 7 else fmt == 0

/-- The descriptor meets R244 for a command: op 0 gath, 1 scat, 2 pools. -/
def gdescOk (op fn : Nat) (ws : List Word) : Bool :=
  bits (nthW ws 0) 31 24 == 0x6D && decide (GDesc.nseg ws ≤ 8) && bits (nthW ws 0) 15 13 == 0 && wellFmtOk op fn (GDesc.fmt ws) &&
  decide (1 ≤ GDesc.dim ws) && decide (GDesc.dim ws ≤ 4096) && GDesc.dim ws * GDesc.width ws % 32 == 0 &&
  decide (GDesc.rowSize ws ≤ 16384) && GDesc.idx ws % 4 == 0 && GDesc.buf ws % 4 == 0 && (nthW ws 4).toNat % 4 == 0 &&
  (if op = 2 then GDesc.offs ws % 4 == 0 else GDesc.offs ws == 0xFFFFFFFF) &&
  ((ws.drop 5).take 11).all (· == 0) &&
  (List.range (GDesc.nseg ws)).all (fun k =>
    GDesc.base ws k % 4 == 0 && decide (1 ≤ GDesc.rows ws k) && decide (GDesc.rows ws k ≤ 0x7FFFFFFF))

/-- The offset of a table row; none for an invalid index (R245). -/
def rowOff (ws : List Word) : Nat → Nat → Nat → Option Nat
  | 0, _, _ => none
  | n + 1, k, r =>
    if r < GDesc.rows ws k then some (GDesc.base ws k + r * GDesc.rowSize ws)
    else rowOff ws n (k + 1) (r - GDesc.rows ws k)

/-! ## gath, scat, pools (R254 to R257) -/

def countLimit (op : Nat) : Nat := if op = 2 then 1048576 else 16777216

/-- A new record joins; records of ended commands beyond the last 64 are dropped (R259). -/
def addWell (x : Region) (c : WellCmd) : Region :=
  let n := x.wells.length - 63
  { x with
    wells := (x.wells.take n).filter (fun d => d.state == 0) ++ x.wells.drop n ++ [c]
    wseq := if x.wseq = 0xFFFF then 1 else x.wseq + 1 }

/-- The course of a wellhead command at issue (R256). -/
def wkWell (op fn : Nat) : Work := fun j s => do
  let va ← ptrVA j j.src.a 64 s
  let s0 ← settled j .part s
  let q := jobRq j s0
  let (hd, s1) ← readWords q va 16 s0
  if 8 < GDesc.nseg hd then trap0 0x024
  else
  let (sg, s2) ← readWords q (va + 64) (2 * GDesc.nseg hd) s1
  let ws := hd ++ sg
  if gdescOk op fn ws = false ∨ countLimit op < j.src.b.toNat then trap0 0x024
  else
    let die := s.dieOf j.e.inst j.e.reg
    let wq := kget [] s2.wells die
    if 16 ≤ wq.length then .error (waitHere (.element j.e) s2)
    else
      let r := j.e.rref
      let seq := (s2.region r).wseq
      .ok (word (wellHandle r.reg seq),
        { s2.modRegion r (fun x => addWell x
            { seq := seq, el := j.e.el, slot := j.slot, op := op, fn := fn, desc := ws, count := j.src.b.toNat
              state := 0, served := [], done := 0, badix := 0, nloc := 0, ndie := 0, npeer := 0, ncxl := 0, cause := 0
              exc := false, vals := [] }) with
          wells := kset s2.wells die (wq ++ [(r, seq)]) })

def workGath (_ : FmtE) : Work := wkWell 0 0
def workScat (f : FmtE) : Work := wkWell 1 (bits f.fn 1 0)
def workPools (f : FmtE) : Work := wkWell 2 (bits f.fn 2 0)

def execGath (f : FmtE) (s : State) : Out := runE f (.gath f) s (workGath f)
def execScat (f : FmtE) (s : State) : Out := runE f (.scat f) s (workScat f)
def execPools (f : FmtE) (s : State) : Out := runE f (.pools f) s (workPools f)

/-! ## gstat (R259) -/

def wellField (c : WellCmd) : Nat → Word
  | 0 => wd c.state
  | 1 => wd c.done
  | 2 => wd c.badix
  | 3 => wd c.nloc
  | 4 => wd c.ndie
  | 5 => wd c.npeer
  | 6 => wd c.ncxl
  | _ => wd c.cause

def workGstat : Work := fun j s =>
  let h := j.src.a
  let r : RRef := ⟨j.e.inst, bits h 23 16⟩
  let found := ((s.region r).wells.reverse.take 64).find? (fun c => c.seq == bits h 15 0)
  match found with
  | none => trap0 0x03A
  | some c =>
    if bits h 31 24 ≠ 0xA0 then trap0 0x03A
    else if 7 < j.src.b.toNat then trap0 0x02B
    else .ok (word (wellField c j.src.b.toNat), s)

def execGstat (f : FmtE) (s : State) : Out := runE f (.gstat f) s workGstat

/-! ## Rows (R245, R247 to R249, R258) -/

def liveWell (x : Region) (seq : Nat) : Option WellCmd := x.wells.reverse.find? (fun c => c.seq == seq)

def modWell (s : State) (r : RRef) (seq : Nat) (f : WellCmd → WellCmd) : State :=
  s.modRegion r (fun x => { x with wells := (replaceFirst (fun c => c.seq == seq) f x.wells.reverse).reverse })

def isAdd (c : WellCmd) : Bool := c.op == 1 && c.fn != 0

/-- The die that holds a key of HBM4 or a cistern (R366). -/
def dieOfKey (k : Nat) : Nat := if homeOfKey k = 0 then addrOfKey k / 2 ^ 36 else addrOfKey k / 2 ^ 26

/-- Where a row is served: by the issuer's die, another die, a peer, pooled or host memory (R247, R259). -/
def homeClass (l : Loc) (die : Nat) : Nat :=
  if l.home ≤ 1 then (if dieOfKey l.key = die then 0 else 1) else if l.home = 2 then 2 else 3

/-- A row counted by the home that served it (R259 fields 1 and 3 to 6) (log 25); one that is added is done when its adds are applied. -/
def countRow (c : WellCmd) (home : Nat) : WellCmd :=
  let c := { c with done := if isAdd c then c.done else c.done + 1 }
  match home with
  | 0 => { c with nloc := c.nloc + 1 }
  | 1 => { c with ndie := c.ndie + 1 }
  | 2 => { c with npeer := c.npeer + 1 }
  | _ => { c with ncxl := c.ncxl + 1 }

/-- The scope that reaches a home (R257). -/
def homeScope (home : Nat) : Scope := if home ≤ 1 then .part else if home = 2 then .group else .system

/-- Where a row at an address is served; the issuer's earlier stores reach the home first (R257). What has been found is on the tape of
the row's accesses, so that a row that has been read is not translated again after a hold of a later access (R267). -/
def rowHome (q : Rq) (e : ERef) (va die : Nat) (wr : Bool) (s : State) : Except Stop (Nat × State) :=
  match taped s with
  | some (b, t) => .ok (leNat b, t)
  | none =>
    match placeAt s q va wr with
    | .error er => .error er
    | .ok l =>
      let h := homeClass l die
      .ok (h, logged (widenElem s e (homeScope h)) [BitVec.ofNat 8 h])

/-- The adds of one row, one per 4 bytes, entered at their engines at port 65 (R258); the row is one access (R273). -/
def queueAdds (q : Rq) (c : WellCmd) (va : Nat) : List Word → Nat → State → Except Stop State
  | [], _, s => .ok s
  | w :: ws, i, s =>
    match xlate s q (va + 4 * i) true with
    | .error e => .error e
    | .ok (l, s1) =>
      if hasEngine l = false then .error (.fatal 0x0A6 (va + 4 * i) 0 0)
      else
        let s2 := enqueue { s1 with fresh := s1.fresh + 1 } (ownerOf s1 l.key)
          ⟨65, q.req, s1.fresh, c.slot, if c.fn = 1 then .addF32 else .addI32, l.key, va + 4 * i, 4, w, 0, false, l.stamped, 0, l.log⟩
        queueAdds { q with counts := false } c va ws (i + 1) s2

/-- The bounds of the bags (R249): OFFS, count + 1 words. -/
def readBounds (q : Rq) (inst : Nat) (c : WellCmd) (s : State) : Except Stop (List Word × State) :=
  readWords q (dataVA s inst (GDesc.offs c.desc)) (c.count + 1) s

/-- The number of bags before the first whose bounds decrease. -/
def goodBags : List Word → Nat
  | a :: b :: r => if b.toNat < a.toNat then 0 else 1 + goodBags (b :: r)
  | _ => 0

/-- The list positions a command serves: 0 to count - 1, or those of its bags up to a decreasing one. The bounds and the row numbers
before a position are read once more for it, which counts as no access of its own (R273). -/
def inList (q : Rq) (inst : Nat) (c : WellCmd) (pos : Nat) (s : State) : Except Stop (Bool × State) :=
  if c.op = 2 then
    if c.count = 0 then .ok (false, s)
    else
      match readBounds { q with counts := false } inst c s with
      | .error e => .error e
      | .ok (b, s1) =>
        .ok (decide ((nthW b 0).toNat ≤ pos) && decide (pos < (nthW b (goodBags b)).toNat), s1)
  else .ok (decide (pos < c.count), s)

/-- One position served; the reads of an add are charged to no region, as its adds are (R258). -/
def serveRow (r : RRef) (c : WellCmd) (pos : Nat) (s : State) : Except Stop State := do
  let q := wellRq s r c.seq pos c.slot (isAdd c)
  let e : ERef := ⟨r.inst, r.reg, c.el⟩
  let (ok, s0) ← inList q r.inst c pos s
  if ok = false then .error .wait
  else
    let (iw, s1) ← readWords q (dataVA s r.inst (GDesc.idx c.desc + 4 * pos)) 1 s0
    let idx := (nthW iw 0).toNat
    let n := GDesc.rowSize c.desc
    let die := s.dieOf r.inst r.reg
    let bufVA := dataVA s r.inst (GDesc.buf c.desc + pos * bufStride c.op c.desc)
    let mark (t : State) (f : WellCmd → WellCmd) : State :=
      modWell t r c.seq (fun c => f { c with served := pos :: c.served })
    let bad (c : WellCmd) : WellCmd := { c with badix := c.badix + 1, exc := true }
    match rowOff c.desc (GDesc.nseg c.desc) 0 idx with
    | none =>
      let s2 ← (if c.op = 0 then writeVA q bufVA (List.replicate n 0) s1 else .ok s1)
      .ok (mark s2 bad)
    | some off =>
      let va := dataVA s r.inst off
      if c.op = 1 then
        -- applications to one row happen in increasing position
        let (lower, s2) ← readWords { q with counts := false } (dataVA s r.inst (GDesc.idx c.desc)) pos s1
        if (List.range pos).any (fun i => !c.served.contains i && (nthW lower i).toNat == idx) then .error .wait
        else
          let (row, s3) ← readVA q bufVA n s2
          let (h, s4) ← rowHome q e va die true s3
          let s5 ← (if isAdd c then queueAdds q c va (wordsOf row) 0 s4 else writeVA q va row s4)
          .ok (mark s5 (fun c => countRow c h))
      else
        let (h, s2) ← rowHome q e va die false s1
        let (row, s3) ← readVA q va n s2
        let s4 ← (if c.op = 0 then writeVA q bufVA row s3 else .ok s3)
        .ok (mark s4 (fun c => countRow (if c.op = 2 then { c with vals := kset c.vals pos row } else c) h))

/-- The record of a command that fails (R260, R342). -/
def failWell (s : State) (r : RRef) (seq cause : Nat) : State :=
  dropWell (modWell s r seq (fun c => { c with state := 2, cause := cause })) r seq

def wellStop (s : State) (name : String) (r : RRef) (c : WellCmd) (pos : Nat) (e : Stop) : Out :=
  let s1 := match e with
    | .fatal cause _ _ _ => failWell s r c.seq cause
    | .trap cause _ _ _ => failWell s r c.seq cause
    | _ => s
  engineStop s1 name (wellRq s r c.seq pos c.slot (isAdd c)) ⟨r.inst, r.reg, c.el⟩ 5 (wellHandle r.reg c.seq) e

/-- A row of a command that the wellhead has accepted is served, a fault of its graph notwithstanding (R343). -/
def execWellheadRowServe (r : RRef) (seq pos : Nat) (s : State) : Out :=
  match liveWell (s.region r) seq with
  | none => notNow "WELLHEAD_ROW_SERVE"
  | some c =>
    if c.state = 0 ∧ c.served.contains pos = false ∧ accPending s (.wellhead r seq pos) = false ∧ (s.inst r.inst).status = .running then
      match workOf (.wellhead r seq pos) (fun u => (serveRow r c pos u).map (fun t => ((), t))) s with
      | .ok (_, t) => .next t
      | .error e => wellStop s "WELLHEAD_ROW_SERVE" r c pos e
    else notNow "WELLHEAD_ROW_SERVE"

/-! ## Pooled sums and completion (R249, R257) -/

/-- The start value of a reduction. -/
def poolStart (fn : Nat) : Word := if fn = 2 then wd (f32.withSign true f32.infCode) else 0

/-- One fold step. -/
def poolOp (fn : Nat) (acc : Word) (v : Nat) : Word × Bool :=
  match fn with
  | 2 => let r := rFmax ⟨acc, wd v, 0, false, false, false⟩; (r.r, r.rf)
  | 3 => sat32 (sx acc + sx (wd v))
  | 1 => let r := rne32s (FVal.add (fv acc) (bf16.decode v)); (wd r.1, r.2)
  | _ => let r := rne32s (FVal.add (fv acc) (f32.decode v)); (wd r.1, r.2)

/-- Element x of a bag folded over its list positions; an invalid index adds +0. -/
def poolElem (c : WellCmd) (x : Nat) : List Nat → Word × Bool → Word × Bool
  | [], r => r
  | i :: is, r =>
    let v := poolOp c.fn r.1 (codeAt (GDesc.width c.desc) (kget [] c.vals i) x)
    poolElem c x is (v.1, r.2 || v.2)

/-- One bag's output row and whether anything raised. -/
def poolBag (c : WellCmd) (lo hi : Nat) : List (Word × Bool) :=
  (List.range (GDesc.dim c.desc)).map (fun x =>
    poolElem c x ((List.range (hi - lo)).map (lo + ·)) (poolStart c.fn, false))

/-- A failure of a command: its cause, address, INFO and INFO2. -/
abbrev WellFail := Nat × Nat × Word × Word

/-- The first n bags written (log 24), or those before the one whose row fails: they stay written (R260). -/
def writeBags (q : Rq) (inst : Nat) (c : WellCmd) (offs : List Word) : Nat → State → Except Stop ((Option WellFail × Bool) × State)
  | 0, s => .ok ((none, false), s)
  | b + 1, s =>
    match writeBags q inst c offs b s with
    | .ok ((none, exc), s1) =>
      let row := poolBag c (nthW offs b).toNat (nthW offs (b + 1)).toNat
      match writeWords q (dataVA s inst (GDesc.buf c.desc + b * bufStride c.op c.desc)) (row.map Prod.fst) s1 with
      | .error (.fatal k a x y) => .ok ((some (k, a, x, y), exc), s1)
      | .error e => .error e
      | .ok s2 => .ok ((none, exc || row.any Prod.snd), s2)
    | x => x

/-- The adds of a command have all been applied. -/
def addsDone (s : State) (r : RRef) (seq : Nat) : Bool :=
  !s.engines.any (fun p => p.2.reqs.any (fun x =>
    match x.req with
    | .wellhead r' seq' _ => r' == r && seq' == seq
    | _ => false))

/-- What the completion finds: with what the command fails, a bag whose row cannot be written or whose bounds decrease. -/
def finishWell (r : RRef) (c : WellCmd) (s : State) : Except Stop (Option WellFail × State) :=
  let q := wellRq s r c.seq c.count c.slot false
  if c.op = 2 ∧ c.count ≠ 0 then
    match readBounds q r.inst c s with
    | .error e => .error e
    | .ok (offs, s1) =>
      let n := goodBags offs
      let lo := (nthW offs 0).toNat
      let hi := (nthW offs n).toNat
      if (List.range (hi - lo)).all (fun i => c.served.contains (lo + i)) then
        match writeBags q r.inst c offs n s1 with
        | .error e => .error e
        | .ok ((f, exc), s2) =>
          .ok (if f.isSome then f else if n < c.count then some (0x0B0, 0, 0, 0) else none,
            modWell s2 r c.seq (fun c => { c with exc := c.exc || exc, vals := [] }))
      else .error .wait
  else if c.served.length = c.count ∧ addsDone s r c.seq then .ok (none, s)
  else .error .wait

/-- The record is complete and the token is pushed (R257 step 4). -/
def completeWell (s : State) (r : RRef) (seq : Nat) : State :=
  let s1 := dropWell (modWell s r seq (fun c => { c with state := 1 })) r seq
  match liveWell (s1.region r) seq with
  | none => s1
  | some c => pushDone s1 ⟨r.inst, r.reg, c.el⟩ ⟨wellHandle r.reg seq, 0, c.exc, none, none⟩

def execWellheadCommandComplete (r : RRef) (seq : Nat) (s : State) : Out :=
  match liveWell (s.region r) seq with
  | none => notNow "WELLHEAD_COMMAND_COMPLETE"
  | some c =>
    if c.state = 0 ∧ accPending s (.wellhead r seq c.count) = false ∧ (s.inst r.inst).status = .running then
      match workOf (.wellhead r seq c.count) (finishWell r c) s with
      | .ok (none, t) => .next (completeWell t r seq)
      | .ok (some f, t) => wellStop t "WELLHEAD_COMMAND_COMPLETE" r c c.count (.fatal f.1 f.2.1 f.2.2.1 f.2.2.2)
      | .error e => wellStop s "WELLHEAD_COMMAND_COMPLETE" r c c.count e
    else notNow "WELLHEAD_COMMAND_COMPLETE"

end Sys2Proof.Machine
end

