-- ==== Sys2Proof/Machine/Xlate.lean ====
section
/-! DEFINITION. Walks, holds and their release, invalidation, host translations and access counts
(spec/17_translation.md R265 to R274). -/

namespace Sys2Proof.Machine

/-! ## Accesses that are waiting -/

def State.acc (s : State) (r : Req) : Option Acc := s.accs.find? (fun a => a.req == r)

def setAcc (s : State) (r : Req) (st : AccSt) : State :=
  { s with accs := replaceFirst (fun a => a.req == r) (fun a => { a with st := st }) s.accs }

/-- The same where a write has come to another address. -/
def setAccAt (s : State) (r : Req) (va : Nat) (st : AccSt) : State :=
  { s with accs := replaceFirst (fun a => a.req == r) (fun a => { a with va := va, st := st }) s.accs }

def dropAcc (s : State) (r : Req) : State := { s with accs := s.accs.filter (fun a => a.req != r) }

/-- The element a requester works for (R268 REG, ELEM). -/
def issuerOf (s : State) : Req → Option ERef
  | .element e => some e
  | .pump e _ => some e
  | .wellhead r seq _ => ((s.region r).wells.find? (fun c => c.seq == seq)).map (fun c => ⟨r.inst, r.reg, c.el⟩)
  | .sequencer r seq => ((s.region r).cons.find? (fun c => c.seq == seq)).map (conElem r)
  | .product r seq _ => ((s.region r).cons.find? (fun c => c.seq == seq)).map (conElem r)
  | .header r seq => ((s.region r).cons.find? (fun c => c.seq == seq)).map (conElem r)
  | .copy die ch =>
    match (s.copyHead die ch).map CopyJob.who with
    | some (.elem e _) => some e
    | _ => none
  | .collective slot num =>
    match (s.group slot).calls.find? (fun c => c.num == num) with
    | some c => c.inst.map (fun i => ⟨i, c.reg, c.el⟩)
    | none => none
  | .exchange slot _ => (s.group slot).round.map Round.el
  | .queue _ | .packet _ _ | .node _ | .front _ => none

def pumpField : Req → Nat
  | .pump _ pm => pm + 1
  | _ => 0

/-- A contraction whose access fails: its walk and its products fail it; where its header cannot be reached at all, it ends so (R93, R342). -/
def conAccFail (s : State) (r : RRef) (seq cause : Nat) (hdr : Bool) (a : Acc) (info info2 : Word) : State :=
  match (s.region r).cons.find? (fun c => c.seq == seq) with
  | none => s
  | some c =>
    let s1 := match hdr, c.ending with
      | true, some st => modCon s r seq (fun c => { c with state := st, ending := none })
      | _, _ => failCon s r seq (reqProd a.req) cause
    asyncFault s1 (conElem r c) a.slot 3 cause (conHandle r.reg seq) a.va info info2

/-- A fault that the front end meets in its own work for a graph (R266, R348); a packet's work is for none. -/
def frontFault (s : State) (g cause va : Nat) (info info2 : Word) : State :=
  if khas s.graphs g then hardFaultAt s g 10 cause 0 0 va info info2 else noteFault s cause info info2

/-- A barrier-and completes: with no record of its own, one whose reads meet a fatal cause completes too (DESIGN CHOICE, log 42). -/
def endBarrier (s : State) (q index : Nat) : State :=
  completePacket (dropWait s q index) q index 0
    (((s.queue q).waits.find? (fun p => p.1 == index)).map (fun p => bit (nthW p.2 0) 26) |>.getD false) 0 0

/-- An access that ends its graph with a fatal cause, reported against its issuer (R266, R342). Of a write of the front end, what cannot be
written is not; the interrupt that follows it is raised and its packet is complete (R313, R315), and no record of a log comes behind it
(R163). -/
def accFail (s : State) (a : Acc) (cause : Nat) (info info2 : Word) : State :=
  let s := dropJournal (dropAcc s a.req) a.req
  match a.req with
  | .element e => asyncFault (s.modElem e (fun x => { x with dp := .idle })) e a.slot 0 cause 0 a.va info info2
  | .pump e pm => asyncFault s e a.slot (1 + pm) cause 0 a.va info info2
  | .wellhead r seq _ =>
    asyncFault (failWell s r seq cause) ((issuerOf s a.req).getD ⟨r.inst, r.reg, 0⟩) a.slot 5 cause (wellHandle r.reg seq) a.va info info2
  | .sequencer r seq => conAccFail s r seq cause false a info info2
  | .product r seq _ => conAccFail s r seq cause false a info info2
  | .header r seq => conAccFail s r seq cause true a info info2
  | .copy die ch =>
    match s.copyHead die ch with
    | some j => copyFail s die ch j cause a.va info info2
    | none => s
  | .collective slot num =>
    match (s.group slot).calls.find? (fun c => c.num == num) with
    | none => s
    | some c =>
      match c.inst with
      | some i => asyncFault s ⟨i, c.reg, c.el⟩ c.cslot 8 cause (callWord slot num) a.va info info2
      | none => hardFaultAt s c.graph 8 cause 0 (callWord slot num) a.va info info2
  | .exchange slot _ =>
    match (s.group slot).round with
    | some r => abortRound (asyncFault s r.el r.slot 7 cause 0 a.va info info2) slot r.num 0x181
    | none => s
  | .queue q => (noteFault s cause info info2).modQueue q (fun x => { x with failed := some a.va })
  | .packet q i => endBarrier (noteFault s cause info info2) q i
  | .node gi => frontFault s gi cause a.va info info2
  | .front n =>
    let f := kget ⟨0, 0, [], none, none⟩ s.fronts n
    let t := closePacket { dropRecords s a.graph with irqs := s.irqs ++ f.irq.toList } f.pkt
    frontFault { t with fronts := kdel t.fronts n } a.graph cause a.va info info2

def failAll (s : State) (cause : Nat) (info info2 : Word) : List Acc → State
  | [] => s
  | a :: as => failAll (accFail s a cause info info2) cause info info2 as

/-! ## Cached translations -/

def TlbE.base (t : TlbE) : Nat := t.page * 2 ^ t.log

/-- The entry's page and a range of n bytes from an address share a byte. -/
def TlbE.meets (t : TlbE) (ctx va n : Nat) : Bool :=
  t.ctx == ctx && decide (t.base < va + n) && decide (va < t.base + 2 ^ t.log)

/-- The C-die whose micro-TLB it is. -/
def utlbDie (s : State) : UKey → Nat
  | .elem e => s.dieOf e.inst e.reg
  | .pump e _ => s.dieOf e.inst e.reg
  | .well d => d

/-- Entries of some dies that a test accepts are dropped, with their counts, at both levels. -/
def dropTlb (s : State) (die : Nat → Bool) (t : TlbE → Bool) : State :=
  { s with
    tlb := s.tlb.map (fun p => (p.1, if die p.1 then p.2.filter (fun e => !t e) else p.2))
    utlb := s.utlb.map (fun p => (p.1, if die (utlbDie s p.1) then p.2.filter (fun e => !t e) else p.2)) }

/-- A translation enters a die's TLB in place of what it held for the address. The count of a page that stays is kept: nothing has
dropped its entry (R273). -/
def fillTlb (s : State) (die : Nat) (t : TlbE) : State :=
  let c := s.choose
  let old (e : TlbE) : Bool := e.host.isSome == t.host.isSome && e.meets t.ctx t.base (2 ^ t.log)
  let ts := kget [] c.2.tlb die
  let n := match ts.find? (fun e => old e && e.page == t.page && e.log == t.log) with
    | some e => e.count
    | none => t.count
  { c.2 with tlb := kset c.2.tlb die (tlbAdd (ts.filter (fun e => !old e)) 4096 c.1 { t with count := n }) }

/-! ## The walk (R265, R266) -/

/-- A die's walker runs up to 16 walks at once (R265). -/
def walkerRoom (s : State) (die : Nat) : Bool :=
  decide ((s.accs.filter (fun a => a.die == die && (match a.st with
    | .walking _ _ => true
    | _ => false))).length < 16)

/-- What an entry that a walk has read comes to. -/
def walkTo (s : State) (a : Acc) : Walk → State
  | .invalid n => accFail s a 0x080 0xFFFFFFFF (wd n)
  | .bad r b => accFail s a 0x0E0 (wd r) (wd b)
  | .absent _ => setAcc s a.req (.fault 0x081)
  | .next n t => setAcc s a.req (.walking n t)
  | .leaf n w => dropAcc (fillTlb s a.die ⟨a.ctx, a.va / 2 ^ pageLog n, pageLog n, w, none, 0, false⟩) a.req

/-- The front end's access at an address: where it goes or does not yet; a write goes on from there, a read is made anew by who asked
for it. Writes of one context are made in order (R266, R267). -/
def frontGo (s : State) (a : Acc) : State :=
  let stop (va : Nat) (s : State) : Front → State
    | .at_ _ => dropAcc s a.req
    | .wait st => setAccAt s a.req va st
    | .fail c i k => accFail s { a with va := va } c i k
  match a.req with
  | .front n =>
    let f := kget ⟨0, 0, [], none, none⟩ s.fronts n
    let r := directParts f.ctx f.parts s
    match r.2 with
    | [] => closePacket { dropAcc r.1 a.req with fronts := kdel r.1.fronts n, irqs := r.1.irqs ++ f.irq.toList } f.pkt
    | (va, bs) :: ps =>
      stop va { r.1 with fronts := kset r.1.fronts n { f with parts := (va, bs) :: ps } } (frontAt r.1 f.ctx va true)
  | _ => stop a.va s (frontAt s a.ctx a.va false)

/-- An earlier write of the front end for the same context is not made yet. -/
def frontBefore (s : State) (a : Acc) : Bool :=
  match a.req with
  | .front n => s.fronts.any (fun p => p.2.ctx == a.ctx && decide (p.1 < n))
  | _ => false

/-- The walks of the front end are its own. -/
def isFront : Req → Bool
  | .queue _ | .packet _ _ | .node _ | .front _ => true
  | _ => false

/-- A walk begins, or reads the entry of the level it has come to. -/
def execTranslationWalk (r : Req) (s : State) : Out :=
  match s.acc r with
  | none => notNow "TRANSLATION_WALK"
  | some a =>
    match a.st with
    | .walk =>
      if isFront r then when (!frontBefore s a) "TRANSLATION_WALK" (frontGo s a)
      else when (walkerRoom s a.die) "TRANSLATION_WALK" (walkTo s a (walkAt s a.va 3 (s.ctx a.ctx).root))
    | .walking n t => .next (walkTo s a (walkAt s a.va n t))
    | _ => notNow "TRANSLATION_WALK"

/-! ## Holds (R267, R268) -/

/-- The micro-TLB of a requester. -/
def utlbOf (s : State) : Req → Option UKey
  | .element e => some (.elem e)
  | .pump e pm => some (.pump e pm)
  | .wellhead r _ _ => some (.well (s.dieOf r.inst r.reg))
  | _ => none

/-- The leaf by which an access goes, in its micro-TLB or its die's TLB; the front end's is the one its walk finds. -/
def leafFor (s : State) (a : Acc) : Option TlbE :=
  let own := match utlbOf s a.req with
    | some u => tlbFind (kget [] s.utlb u) a.ctx a.va
    | none => none
  match isFront a.req, own with
  | true, _ =>
    match walk s a.ctx a.va with
    | .leaf n w => some ⟨a.ctx, a.va / 2 ^ pageLog n, pageLog n, w, none, 0, false⟩
    | _ => none
  | false, some t => some t
  | false, none => tlbFind (kget [] s.tlb a.die) a.ctx a.va

/-- The page an access faults on, the level its walk comes to, and log2 of the page's size; a page that no leaf maps is one of 16 KiB. -/
def faultPage (s : State) (a : Acc) : Nat × Nat × Nat :=
  match leafFor s a with
  | some t => (t.base, levelOf t.log, t.log)
  | none =>
    (a.va / 2 ^ 14 * 2 ^ 14, match walk s a.ctx a.va with
      | .invalid n | .absent n | .next n _ => n
      | .leaf n _ => n
      | .bad _ _ => 0, 14)

def Hold.holds (h : Hold) (a : Acc) (cause page : Nat) : Bool :=
  h.die == a.die && h.ctx == a.ctx && h.page == page && h.cause == cause

/-- The fault record (R268). -/
def faultRecord (s : State) (a : Acc) (hold cause : Nat) : List Word :=
  let e := (issuerOf s a.req).getD ⟨0, 0, 0⟩
  [wd a.va, wd (a.va / 2 ^ 32), wd (hold * 2 ^ 16 + a.kind * 2 ^ 12 + (if a.wr then 2 ^ 11 else 0) + cause),
   wd (a.die * 2 ^ 24 + e.reg * 2 ^ 16 + e.el * 2 ^ 8 + pumpField a.req * 2 ^ 4 + a.slot), wd a.ctx,
   wd s.xreg.recNo, 0, 0]

/-- A ring of 2^size records of n bytes is not full (R269). -/
def ringRoom (prod cons size : Nat) : Bool := decide ((prod + 2 ^ 32 - cons) % 2 ^ 32 < 2 ^ size)

def postFault (s : State) (ws : List Word) : State :=
  let x := s.xreg
  let s1 := writeThrough s (keyed (hostKey (x.fbase + 32 * (x.fprod % 2 ^ x.fsize))) (bytesOfWords ws))
  { s1 with xreg := { x with fprod := (x.fprod + 1) % 2 ^ 32, recNo := (x.recNo + 1) % 2 ^ 32 } }

/-- A fault joins the open hold of its page, or opens one and posts its record; it waits while no hold or no place in the
ring is free. -/
def execTranslationFault (r : Req) (hold : Nat) (s : State) : Out :=
  match s.acc r with
  | none => notNow "TRANSLATION_FAULT"
  | some a =>
    match a.st with
    | .fault cause =>
      let pg := faultPage s a
      match s.holds.find? (fun p => p.2.holds a cause pg.1) with
      | some p => when (p.1 == hold) "TRANSLATION_FAULT" (countFault (setAcc s r (.held hold)) cause)
      | none =>
        when (decide (hold < 1024) && !khas s.holds hold && ringRoom s.xreg.fprod s.xreg.fcons s.xreg.fsize)
          "TRANSLATION_FAULT"
          (countFault (postFault (setAcc { s with holds := kset s.holds hold ⟨a.die, a.ctx, pg.1, cause, pg.2.1, pg.2.2⟩ } r (.held hold))
            (faultRecord s a hold cause)) cause)
    | _ => notNow "TRANSLATION_FAULT"

def heldAccs (s : State) (hold : Nat) : List Acc := s.accs.filter (fun a => a.st == .held hold)

/-- Every access of a hold is to be translated again, and the hold closes. -/
def releaseHold (s : State) (hold : Nat) : State :=
  { s with
    accs := s.accs.map (fun a => if a.st = .held hold then { a with st := .walk } else a)
    holds := kdel s.holds hold }

/-- RETRY (R270). -/
def execXretryRetry (hold : Nat) (s : State) : Out :=
  if khas s.holds hold then
    let h := kget ⟨0, 0, 0, 0, 0, 14⟩ s.holds hold
    .next (releaseHold (dropTlb s (· == h.die) (fun t => t.meets h.ctx h.page (2 ^ h.log))) hold)
  else .next s

/-- ABANDON (R270). -/
def execXretryAbandon (hold : Nat) (s : State) : Out :=
  if khas s.holds hold then
    let h := kget ⟨0, 0, 0, 0, 0, 14⟩ s.holds hold
    .next (failAll { s with holds := kdel s.holds hold } 0x08A (wd hold) (wd h.level) (heldAccs s hold))
  else .next s

/-! ## Invalidation (R271) -/

/-- What an invalidation covers, as the registers stand at its start. -/
def invalOf (x : XReg) (v : Word) : Inval :=
  ⟨x.invx, bit v 30, x.inva % 2 ^ 32 / 2 ^ 14 * 2 ^ 14 + 2 ^ 32 * (x.invb % 2 ^ 24), bits v 19 0 * 2 ^ 14⟩

def execInvalidationStart (v : Word) (s : State) : Out :=
  when (bit v 31 && !s.xreg.busy && !s.recovery) "INVALIDATION_START"
    { s with xreg := { s.xreg with invc := v, busy := true, job := invalOf s.xreg v } }

/-- Whether an entry is within what an invalidation covers. -/
def Inval.covers (j : Inval) (t : TlbE) : Bool := if j.all then t.ctx == j.ctx else t.meets j.ctx j.va j.n

/-- Whether an access of a context at an address is. -/
def Inval.has (j : Inval) (ctx va : Nat) : Bool :=
  ctx == j.ctx && (j.all || (decide (j.va ≤ va) && decide (va < j.va + j.n)))

/-- Every access of a context that used a cached translation is performed at system scope. -/
def widenCtx (s : State) (ctx : Nat) : State := widenWhere s (fun p => (s.inst p.inst).ctx == ctx) .system

/-- The context of a request at an atomic engine. -/
def engCtx (s : State) (r : EngReq) : Nat :=
  match issuerOf s r.req with
  | some e => (s.inst e.inst).ctx
  | none => 0

/-- The page that a request's translation maps meets what an invalidation covers, be the request's own address outside it (R271). -/
def Inval.used (j : Inval) (ctx : Nat) (r : EngReq) : Bool :=
  ctx == j.ctx && (j.all ||
    (decide (j.va < r.va / 2 ^ r.log * 2 ^ r.log + 2 ^ r.log) && decide (r.va / 2 ^ r.log * 2 ^ r.log < j.va + j.n)))

/-- No request that used a translation which overlaps the range is still at an atomic engine. -/
def enginesClear (s : State) (j : Inval) : Bool :=
  s.engines.all (fun p => p.2.reqs.all (fun r => !j.used (engCtx s r) r))

/-- Walks of the range begin again, so that none caches what its table held before. -/
def restartWalks (s : State) (j : Inval) : State :=
  { s with
    accs := s.accs.map (fun a =>
      match a.st with
      | .walking _ _ => if j.has a.ctx a.va then { a with st := .walk } else a
      | _ => a) }

def execInvalidationComplete (s : State) : Out :=
  let j := s.xreg.job
  when (s.xreg.busy && enginesClear s j) "INVALIDATION_COMPLETE"
    (let s1 := widenCtx (restartWalks (dropTlb s (fun _ => true) j.covers) j) j.ctx
     { s1 with xreg := { s.xreg with busy := false } })

/-! ## Host pages (R272) -/

/-- The holds of a host page, in every die. -/
def pageHolds (s : State) (ctx page : Nat) : List Nat :=
  (s.holds.filter (fun p => p.2.cause == 0x088 && p.2.ctx == ctx && p.2.page == page)).map Prod.fst

/-- The host page of an address, of 4 KiB, for which a page request is made (PRESUMED: PCIe's; log 62). -/
def hostPage (va : Nat) : Nat := va / 2 ^ 12 * 2 ^ 12

/-- A host page that is not present or not writable: the access holds, without a record, and a page request is sent unless one for the
page is out. -/
def holdHost (s : State) (a : Acc) : Option State :=
  let page := hostPage a.va
  match s.holds.find? (fun p => p.2.holds a 0x088 page) with
  | some p => some (countFault (setAcc s a.req (.held p.1)) 0x088)
  | none =>
    match (List.range 1024).find? (fun k => !khas s.holds k) with
    | none => none
    | some k =>
      let s0 := countFault { s with holds := kset s.holds k ⟨a.die, a.ctx, page, 0x088, (faultPage s a).2.1, 12⟩ } 0x088
      let s1 := setAcc s0 a.req (.held k)
      some (if pageHolds s a.ctx page = [] then { s1 with sent := s1.sent ++ [.pageRequest a.ctx page a.wr] } else s1)

/-- What the host's IOMMU gave for an address, kept at the size it returned (R265). -/
def hostEntry (t : TlbE) (va addr logSize : Nat) (w : Bool) : TlbE :=
  ⟨t.ctx, va / 2 ^ logSize, logSize, t.leaf, some (addr / 2 ^ logSize * 2 ^ logSize), 0, w⟩

def execAtsTranslationCompletion (r : Req) (res : AtsResult) (s : State) : Out :=
  match s.acc r with
  | none => notNow "ATS_TRANSLATION_COMPLETION"
  | some a =>
    if a.st ≠ .ats then notNow "ATS_TRANSLATION_COMPLETION"
    else
      let held := match holdHost s a with
        | some t => .next t
        | none => notNow "ATS_TRANSLATION_COMPLETION"
      match res, leafFor s a with
      | .mapped addr logSize w, some t =>
        if logSize < 12 ∨ 56 < logSize then notNow "ATS_TRANSLATION_COMPLETION"
        else if a.wr ∧ w = false then held
        else
          let s1 := fillTlb s a.die (hostEntry t a.va addr logSize w)
          .next (if isFront r then setAcc s1 r .walk else dropAcc s1 r)
      | .mapped _ _ _, none => .next (setAcc s r .walk)
      | .notPresent, _ => held

/-- Some holds end, each with its accesses. -/
def endHolds (f : State → Nat → State) : List Nat → State → State
  | [], s => s
  | h :: hs, s => endHolds f hs (f s h)

/-- The response to a page request; the page is that of the hold named, in whichever die. -/
def execPriResponse (hold : Nat) (r : PriResult) (s : State) : Out :=
  let h := kget ⟨0, 0, 0, 0, 0, 14⟩ s.holds hold
  let hs := pageHolds s h.ctx h.page
  when (khas s.holds hold && h.cause == 0x088) "PRI_RESPONSE"
    (match r with
     | .success => endHolds releaseHold hs s
     | _ => endHolds (fun t k => failAll { t with holds := kdel t.holds k } 0x089 (wd k) (wd h.level) (heldAccs t k)) hs s)

/-- An ATS invalidation of granules of 16 KiB: host translations of the range are gone, and what used them is performed at
system scope. -/
def execAtsInvalidation (ctx va granules : Nat) (s : State) : Out :=
  let j : Inval := ⟨ctx, false, va, granules * 2 ^ 14⟩
  when (enginesClear s j) "ATS_INVALIDATION"
    (widenCtx (dropTlb s (fun _ => true) (fun t => t.host.isSome && j.covers t)) ctx)

/-! ## Access counts (R273) -/

/-- A notification is posted, or counted as lost while its ring is full (R269). -/
def postNotify (s : State) (ws : List Word) : State :=
  let x := s.xreg
  if ringRoom x.nprod x.ncons x.nsize then
    let s1 := writeThrough s (keyed (hostKey (x.nbase + 16 * (x.nprod % 2 ^ x.nsize))) (bytesOfWords ws))
    { s1 with xreg := { x with nprod := (x.nprod + 1) % 2 ^ 32 } }
  else { s with xreg := { x with lost := min (x.lost + 1) 0xFFFFFFFF } }

/-- A notification that a count at a die has made due is posted; the count has started again from 0 (R273). `idx` numbers those of the
die that are due. -/
def execAccessCountNotify (die idx : Nat) (s : State) : Out :=
  let due := s.xreg.due
  match (due.filter (fun p => p.1 == die))[idx]? with
  | none => notNow "ACCESS_COUNT_NOTIFY"
  | some p => .next (postNotify { s with xreg := { s.xreg with due := due.erase p } } p.2)

end Sys2Proof.Machine
end

