-- ==== Sys2Proof/Machine/Instant.lean ====
section
/-! DEFINITION. Work outstanding, quiescence, instant ends and their two faults (spec/20_instants_signals.md R294 to R306),
signals becoming visible (R298), and the end of a stage (spec/23_faults_traps.md R351). -/

namespace Sys2Proof.Machine

/-! ## What a stage still has outstanding -/

def State.elemsOf (s : State) (inst : Nat) : List (ERef × Elem) := s.elems.filter (fun p => p.1.inst == inst)

def State.regionsOf (s : State) (inst : Nat) : List (RRef × Region) := s.regions.filter (fun p => p.1.inst == inst)

/-- The stage a requester works for. -/
def reqInst (s : State) (r : Req) : Option Nat := (issuerOf s r).map ERef.inst

/-- Copies and calls of some elements that are not complete, and rounds that one of them has opened, posted to or bound a list in. -/
def sharedWork (s : State) (t : ERef → Bool) : Bool :=
  s.copies.any (fun p => p.2.any (fun j =>
    match j.who with
    | .elem e _ => t e
    | _ => false)) ||
  s.groups.any (fun p =>
    p.2.calls.any (fun c => (c.inst.map (fun i => t ⟨i, c.reg, c.el⟩)).getD false) ||
    (p.2.round.map (fun r => t r.el || r.by_.any t)).getD false)

/-- Accesses and engine operations of the elements a test accepts that are not complete (R283, R301, R351). -/
def workOpen (s : State) (t : ERef → Bool) : Bool :=
  s.elems.any (fun p => t p.1 && (p.2.firing.isSome || p.2.outstanding != [])) ||
  s.accs.any (fun a => ((issuerOf s a.req).map t).getD false) ||
  s.tileReqs.any (fun p => p.2.any (fun r => t r.e)) ||
  s.engines.any (fun p => p.2.reqs.any (fun r => ((issuerOf s r.req).map t).getD false)) ||
  s.regions.any (fun p =>
    p.2.cons.any (fun c => c.state == 0 && t ⟨p.1.inst, p.1.reg, c.el⟩) ||
    p.2.wells.any (fun c => c.state == 0 && t ⟨p.1.inst, p.1.reg, c.el⟩)) ||
  sharedWork s t

/-- A step that is not possible now. -/
def blocked : Out → Bool
  | .refused _ => true
  | _ => false

def isWait {α : Type} : Except Stop α → Bool
  | .error .wait => true
  | _ => false

/-! ## Elements at rest -/

/-- The work of a waiting instruction with the sink of its result; bar and dwait take up theirs by courses of their own, and glaunch,
hrapp and intr stand with the host's side of the part. -/
def waitWork (w : Wait) : Option (Sink × Work) :=
  match w.ins with
  | .talloc f => some (sinkM f, workTalloc f)
  | .tfree f => some (sinkM f, workTfree f)
  | .tcfg f => some (sinkM f, workTcfg f)
  | .tqry f => some (sinkM f, workTqry f)
  | .tld f => some (sinkNone f, workTld f)
  | .tst f => some (sinkNone f, workTst f)
  | .pcfg f => some (sinkM f, workPcfg f)
  | .pqry f => some (sinkM f, workPqry f)
  | .pgo f => some (sinkM f, workPgo f)
  | .pstop f => some (sinkM f, workPstop f)
  | .ld f => some (sinkNone f, workLd f)
  | .st f => some (sinkNone f, workSt f)
  | .ldx f => some (sinkNone f, workLdx f)
  | .stx f => some (sinkNone f, workStx f)
  | .mdone f => some (sinkNone f, workMdone f)
  | .atom f => some (sinkNone f, workAtom f)
  | .atomr f => some (sinkNone f, workAtomr f)
  | .rawait f => some (sinkM f, workRawait f)
  | .rrel f => some (sinkM f, workRrel f)
  | .rget f => some (sinkM f, workRget f)
  | .grule f => some (⟨12, 0, 0, 0⟩, workGrule f)
  | .bdinit f => some (sinkE f, workBdinit)
  | .bdins f => some (sinkE f, workBdins)
  | .bdfind f => some (sinkE f, workBdfind)
  | .bdget f => some (sinkE f, workBdget)
  | .bdsort f => some (sinkE f, workBdsort)
  | .poolcfg f => some (sinkE f, workPoolcfg)
  | .bcon f => some (sinkE f, workBcon)
  | .bcres f => some (sinkE f, workBcres)
  | .bcstat f => some (sinkE f, workBcstat)
  | .bcwait f => some (sinkE f, workBcwait)
  | .topb f => some (sinkE f, workTopb f)
  | .topx f => some (sinkE f, workTopx f)
  | .gath f => some (sinkE f, workGath f)
  | .scat f => some (sinkE f, workScat f)
  | .pools f => some (sinkE f, workPools f)
  | .gstat f => some (sinkE f, workGstat)
  | .dpost f => some (sinkE f, workDpost)
  | .dsend f => some (sinkE f, workDsend)
  | .drecv f => some (sinkE f, workDrecv)
  | .dqry f => some (sinkE f, workDqry)
  | .cgload f => some (sinkE f, workCgload)
  | .crun f => some (sinkE f, workCrun f)
  | .cwait f => some (sinkE f, workCwait)
  | .cseq f => some (sinkE f, workCseq)
  | .sigv f => some (sinkS f, wkSigv f)
  | _ => none

/-- An operation that waits for a place among others' work, at a copy channel, the wellhead or a group slot, or for the end of a call, a round
or a copy that may be another stage's: it is outstanding until it returns (R187, R203, R204, R235, R238, R301; DEDUCED, log 66). -/
def wantsPlace (w : Wait) : Bool :=
  match w.ins with
  | .st _ | .stx _ | .gath _ | .scat _ | .pools _ | .crun _ | .dpost _ | .bar _ | .cwait _ | .dwait _ | .rawait _ => true
  | _ => false

/-- A waiting instruction that waits for a condition which no work of the stage is to bring about, whatever went before it in this cycle
(R301). One that has an access on the way is outstanding, and so are glaunch, hrapp and intr, whose record or value is not written
yet. -/
def stillWaits (s : State) (e : ERef) (w : Wait) : Bool :=
  let j : Job := ⟨e, w.slot, w.src⟩
  let u : State := { s with acted := [] }
  !khas s.journals (.element e) && !wantsPlace w &&
  (match waitWork w with
   | some k => isWait (k.2 j u)
   | none => false)

/-- The element can issue nothing and its datapath does nothing. -/
def issueRest (s : State) (e : ERef) (x : Elem) : Bool :=
  match x.dp with
  | .idle => (nextSlot s e).isNone
  | .beat i _ => dstFull x (dstOf (x.slotWord i))
  | .operand i _ => !(operandsIn x (x.slotWord i) && !dstFull x (dstOf (x.slotWord i)))
  | .work w => stillWaits s e w

/-- A running pump is at rest only while it waits on a tile's F tag, with no access outstanding (R301). -/
def pumpRest (s : State) (e : ERef) (pm : Nat) (p : Pump) : Bool :=
  !p.run || (p.waitf && !accPending s (.pump e pm) && isWait (pumpIter s e pm p))

def elemRest (s : State) (e : ERef) (x : Elem) : Bool :=
  issueRest s e x && !canReset s e && x.rets == [] && x.owed == [] && blocked (execMdoneToken e s) &&
  x.firing.isNone && (nextFiring s e).isNone && x.pumps.all (fun p => pumpRest s e p.1 p.2)

/-- Every emission and cession has been seen by every element of the stage (R298, R301). -/
def actsDone (i : StageInst) : Bool :=
  i.acts.all (fun a => i.img.elems.all (fun x => x.reg == a.reg || a.seen.contains (x.reg, x.el)))

/-- A clocked stage is quiescent (R301). -/
def quiescent (s : State) (inst : Nat) : Bool :=
  let i := s.inst inst
  (s.elemsOf inst).all (fun p => elemRest s p.1 p.2) &&
  (List.range i.img.routes.length).all (fun n => !canTake s inst n) && i.flight.all (fun p => p.2 == []) &&
  !workOpen s (fun e => e.inst == inst) && !s.tiles.any (fun p => p.2.inst == inst && p.2.fset) && actsDone i

/-! ## The end of a stage (R134, R172, R351) -/

/-- Entries of tile tables that a stage holds return to free. -/
def freeTiles (s : State) (inst : Nat) : State :=
  ((s.tiles.filter (fun p => p.2.inst == inst && p.2.state != .free)).map Prod.fst).foldl freeEntry s

/-- An invocation or instant has run since its start (R336). -/
def noteDuration (s : State) (i : StageInst) : StageInst :=
  { i with durs := (s.now - i.istart) :: i.durs.take 63, istart := s.now }

/-- What a requester had still to read or write, and what it has made, is dropped. -/
def dropReqs (s : State) (t : Req → Bool) : State :=
  { s with accs := s.accs.filter (fun a => !t a.req), journals := s.journals.filter (fun p => !t p.1) }

/-- The requesters of a stage's elements, pumps, sequencers and wellhead commands. -/
def ofInst (inst : Nat) : Req → Bool
  | .element e => e.inst == inst
  | .pump e _ => e.inst == inst
  | .wellhead r _ _ => r.inst == inst
  | .sequencer r _ => r.inst == inst
  | .product r _ _ => r.inst == inst
  | .header r _ => r.inst == inst
  | _ => false

/-- What a stage held in the part is gone: its elements, regions, tiles, collective objects and cached translations. -/
def clearStage (s : State) (inst : Nat) : State :=
  let s1 := dropReqs (freeTiles s inst) (ofInst inst)
  { s1 with
    elems := s1.elems.filter (fun p => p.1.inst != inst)
    regions := s1.regions.filter (fun p => p.1.inst != inst)
    colls := s1.colls.filter (fun p => p.2.inst != some inst)
    utlb := s1.utlb.filter (fun p =>
      match p.1 with
      | .elem e => e.inst != inst
      | .pump e _ => e.inst != inst
      | .well _ => true) }

/-- The stage has ended: its regions and tiles are free (R172, R351). -/
def stageOver (s : State) (inst : Nat) : State :=
  let s2 := (clearStage s inst).modInst inst (fun i => { i with status := .ended, acts := [], flight := [], marked := false })
  { s2 with sched := { s2.sched with due := true } }

/-- The stage ends: stopped contractions are abandoned first; where the header of one is held, the stage ends once it is written
(R132, R134). A fatal cause that one of them meets there is its graph's fault, which ends the stage instead (R343). -/
def endStage (s : State) (inst : Nat) (last : State → State) : State :=
  let s1 := abandonCons s inst
  if consEnding s1 inst ∨ (s1.graph (s.inst inst).graph).fault.isSome then s1 else stageOver (last (widenInst s1 inst .part)) inst

def allHalted (s : State) (inst : Nat) : Bool := (s.elemsOf inst).all (fun p => p.2.halted)

/-- A binding that has a limit completes when it retires; one without ends with the stage (R136, R351) (log 39). -/
def bindingsDone (s : State) (inst : Nat) : Bool :=
  (s.elemsOf inst).all (fun p =>
    p.2.topx == [] && p.2.binds.all (fun b => b.2.limit == 0) && (nextFiring s p.1).isNone)

def pumpsDone (s : State) (inst : Nat) : Bool := (s.elemsOf inst).all (fun p => p.2.pumps.all (fun q => !q.2.run))

/-- A stage that is not clocked ends once its elements are halted and what they issued has completed (R351). -/
def execStageEnd (inst : Nat) (s : State) : Out :=
  let i := s.inst inst
  when (i.status == .running && !i.img.clocked && (s.graph i.graph).fault.isNone && allHalted s inst &&
      pumpsDone s inst && bindingsDone s inst && !workOpen s (fun e => e.inst == inst)) "STAGE_END"
    (endStage s inst (fun t => t.modInst inst (noteDuration t)))

/-! ## Instant ends (R294, R302) -/

/-- An element at the start of an instant: delay registers latched, reacting unless it has halted. -/
def nextInstant (x : Elem) : Elem := { x with dlLat := x.dlPend, ended := false }

/-- The cessions of halted elements, which stand from the first cycle of an instant (R294). -/
def haltedActs (s : State) (inst : Nat) : List SigAct :=
  let i := s.inst inst
  ((s.elemsOf inst).filter (fun p => p.2.halted)).flatMap (fun p =>
    (emitsOf s p.1).map (fun k => ⟨k, p.1.reg, p.1.el, none, i.img.elems.map (fun x => (x.reg, x.el))⟩))

/-- Steps 1 to 4 of R302, with the clock changes the instant held back (R337). -/
def instantEnd (s : State) (inst : Nat) : State :=
  let s1 := newEpoch (joinElems (widenInst s inst .part) ((s.elemsOf inst).map Prod.fst)) (s.inst inst).ctx
  let s2 := { s1 with
    elems := s1.elems.map (fun (p : ERef × Elem) => if p.1.inst = inst then (p.1, nextInstant p.2) else p)
    clk := (s1.inst inst).newClk.foldl (fun m (p : Nat × Nat) => kset m p.1 p.2) s1.clk }
  s2.modInst inst (fun i => { noteDuration s2 i with icnt := i.icnt + 1, acts := haltedActs s2 inst, newClk := [] })

/-- Every element has ended or halted (R302). -/
def allReacted (s : State) (inst : Nat) : Bool := (s.elemsOf inst).all (fun p => p.2.ended || p.2.halted)

/-- An instant end is due. -/
def instantDue (s : State) (inst : Nat) : Bool :=
  let i := s.inst inst
  i.img.clocked && i.status == .running && (s.graph i.graph).fault.isNone && quiescent s inst && allReacted s inst

/-- A live delta of the stage's graph waits for this safe point; it comes first (R333). While no core leads, neither it nor
a pre-emption takes place (R356). -/
def deltaDue (s : State) (inst : Nat) : Bool := (s.graph (s.inst inst).graph).live.any (fun d => !d.applied)

def execInstantEnd (inst : Nat) (s : State) : Out :=
  when (instantDue s inst && (!s.leads || (!deltaDue s inst && (allHalted s inst || !(s.inst inst).marked))))
    "INSTANT_END"
    (if allHalted s inst then endStage s inst (fun t => instantEnd t inst) else instantEnd s inst)

/-! ## Quiescence with an element reacting (R303, R304) -/

/-- The signals an element waits on (R303). -/
def waitedOn (s : State) (e : ERef) : List Nat :=
  let x := s.elem e
  match x.dp with
  | .work w =>
    match w.ins with
    | .sigv f => (sigOf s e f.sli.toNat).toList
    | _ => []
  | .idle =>
    (List.range 16).filterMap (fun i =>
      let t := x.trig i
      if slotReady x i ∧ t.sgs ≠ 0 ∧ guardSig s e t.sgi.toNat = none then sigOf s e t.sgi.toNat else none)
  | _ => []

/-- Blocked elements in element order (R299, R303). -/
def blockedElems (s : State) (inst : Nat) : List ERef :=
  sortBy (fun (a b : ERef) => a.reg * 64 + a.el < b.reg * 64 + b.el)
    (((s.elemsOf inst).filter (fun p => !p.2.ended && !p.2.halted)).map Prod.fst)

/-- The quiescence report: 32 words (R304). -/
def quiescenceReport (icnt : Word) (es : List ERef) (sigs : List Nat) : List Word :=
  let sig (i : Nat) : Nat := sigs.getD i 0xFFFF
  [wd (min es.length 0xFFFF * 2 ^ 16 + min sigs.length 0xFFFF), icnt] ++
  (List.range 16).map (fun i => ((es[i]?).map (fun e => coordOf e.reg e.el)).getD 0xFFFFFFFF) ++
  (List.range 8).map (fun i => wd (sig (2 * i + 1) * 2 ^ 16 + sig (2 * i))) ++ List.replicate 6 0

/-- Quiescence with an element reacting (R303), reported against the first blocked element (log 40). -/
def execQuiescenceFault (inst : Nat) (s : State) : Out :=
  let i := s.inst inst
  let es := blockedElems s inst
  match es.head? with
  | none => notNow "QUIESCENCE_FAULT"
  | some e =>
    let sigs := sortBy (· < ·) (es.flatMap (waitedOn s)).eraseDups
    when (i.img.clocked && i.status == .running && (s.graph i.graph).fault.isNone && quiescent s inst)
      "QUIESCENCE_FAULT"
      (raiseFault s i.graph
        { faultAt s e 0 0 false (if sigs = [] then 0x142 else 0x141) 0 0 0 0 with
          qrep := quiescenceReport i.icnt es sigs })

/-! ## SIGNAL_VISIBLE (R298) -/

/-- The oldest act on a signal that an element of another region, given by its region and number, has not seen becomes visible to it. -/
def execSignalVisible (inst : Nat) (at_ : Nat × Nat) (sig : Nat) (s : State) : Out :=
  let i := s.inst inst
  let unseen (a : SigAct) : Bool := a.sig == sig && a.reg != at_.1 && !a.seen.contains at_
  when (i.status == .running && (i.img.elemImage at_.1 at_.2).isSome && i.acts.any unseen) "SIGNAL_VISIBLE"
    (s.modInst inst (fun i => { i with acts := replaceFirst unseen (fun a => { a with seen := at_ :: a.seen }) i.acts }))

end Sys2Proof.Machine
end

