-- ==== Sys2Proof/Machine/Sched.lean ====
section
/-! DEFINITION. Placement, the region scheduler, safe points, power and clocks (spec/22_scheduling_power.md R328 to R337),
and what the loader writes (spec/02_assembly_notation.md R24, R368; spec/10 R172). -/

namespace Sys2Proof.Machine

/-! ## Power (R336) -/

/-- A stage's demand in microwatts (log 44). -/
def demand (i : StageInst) : Nat :=
  let sum := i.durs.foldl (· + ·) 0
  if i.durs = [] ∨ sum = 0 then 16700000 * i.img.regions.length
  else i.img.energy * i.durs.length * 1000000 / sum

/-- PCAP in watts (R329). -/
def pcap (s : State) : Nat := min s.sched.pbudget s.sched.thermal

/-- The demands of running stages in microwatts. -/
def puse (s : State) : Nat := ((s.insts.filter (fun p => p.2.status == .running)).map (fun p => demand p.2)).foldl (· + ·) 0

/-- PUSE as it reads: whole watts (R329) (log 44). -/
def puseRead (s : State) : Nat := min 0xFFFF (puse s / 1000000)

def fitsPower (s : State) (x : StageInst) : Bool := decide (puse s + demand x ≤ pcap s * 1000000)

/-! ## Placements (R328) -/

/-- The maps of logical dies to distinct C-dies, lowest numbers first in logical die order. -/
def dieMaps : List Nat → List Nat → List (KMap Nat)
  | [], _ => [[]]
  | d :: ds, used =>
    ((List.range 8).filter (fun p => !used.contains p)).flatMap (fun p => (dieMaps ds (p :: used)).map (fun m => (d, p) :: m))

/-- The shifts, smallest row offset first and then smallest column offset. -/
def shifts : List (Int × Int) :=
  (List.range 7).flatMap (fun (r : Nat) => (List.range 11).map (fun (c : Nat) => ((r : Int) - 3, (c : Int) - 5)))

abbrev Spot := KMap Nat × Int × Int

/-- The physical region a placement gives a logical one; none outside the grid. -/
def spotReg (p : Spot) (reg : Nat) : Option Nat :=
  let row := ((reg % 24 / 6 : Nat) : Int) + p.2.1
  let col := ((reg % 6 : Nat) : Int) + p.2.2
  if 0 ≤ row ∧ row < 4 ∧ 0 ≤ col ∧ col < 6 then some (kget 0 p.1 (reg / 24) * 24 + (row * 6 + col).toNat) else none

/-- Stages that the scheduler has picked count as running where it picked them. -/
def withPicks (s : State) : State :=
  { s with insts := s.insts.map (fun p =>
      match p.2.pick with
      | some k => (p.1, { p.2 with status := .running, dies := k.1, dRow := k.2.1, dCol := k.2.2 })
      | none => p) }

def regionsInUse (s : State) : List Nat :=
  s.insts.flatMap (fun p => if p.2.status = .running then p.2.img.regions.map (fun r => s.physReg p.1 r.reg) else [])

/-- The tile table of a saved stage's logical region, or of its logical die from 192 (log 43). -/
def savedTab (inst k : Nat) : Nat := 1000000 + inst * 256 + k

/-- The cistern tiles a stage brings to a logical die: their slots where it is saved, and their bytes. -/
def bringsTiles (s : State) (inst ldie : Nat) : List (Option Nat × Nat) :=
  let i := s.inst inst
  if i.status = .saved then
    (s.tiles.filter (fun p => p.1.1 == savedTab inst (192 + ldie) && p.2.state != .free)).map (fun p => (some p.1.2, p.2.size))
  else (i.img.tiles.filter (fun t => specLvl t.spec == 2 && t.reg / 24 == ldie)).map (fun t => (none, specBytes t.spec))

/-- Cistern tiles that stages picked and not placed yet bring to a die. -/
def pickedTiles (s : State) (die : Nat) : List (Option Nat × Nat) :=
  s.insts.flatMap (fun p =>
    match p.2.pick with
    | none => []
    | some k => (k.1.filter (fun d => d.2 == die)).flatMap (fun d => bringsTiles s p.1 d.1))

def bytesOf (ts : List (Option Nat × Nat)) : Nat := (ts.map Prod.snd).foldl (· + ·) 0

/-- A logical die's tiles and data fit the C-die: bytes, and the entries they need. `s` is the part as it is, `v` with the
picks counted. -/
def dieFits (s v : State) (inst ldie die : Nat) : Bool :=
  let ts := bringsTiles s inst ldie
  let others := pickedTiles s die
  let free (k : Nat) : Bool := (s.tile (192 + die, k)).state == .free && !others.any (fun t => t.1 == some k)
  decide (cisternUsed v die + bytesOf others + bytesOf ts + bringsData (s.inst inst).img ldie ≤ cisternSize die) &&
  ts.all (fun t => match t.1 with
    | some k => free k
    | none => true) &&
  decide (ts.length + others.length ≤ ((List.range 1024).filter (fun k => (s.tile (192 + die, k)).state == .free)).length)

/-- A region that firmware measures is not free for 200 µs (R361). -/
def measuring (s : State) (reg : Nat) : Bool := khas s.fw.measuredAt reg && decide (s.now < kget 0 s.fw.measuredAt reg + 200000)

def thirtyDays : Nat := 30 * 24 * 3600 * 1000000000

/-- The month of a region's last measurement is over: it is measured at its first free moment, before a stage is placed there (R361). -/
def overdue (s : State) (reg : Nat) : Bool := khas s.fw.measuredAt reg && decide (kget 0 s.fw.measuredAt reg + thirtyDays ≤ s.now)

def spotOk (s v : State) (inst : Nat) (p : Spot) : Bool :=
  let g := (s.inst inst).img
  let busy := regionsInUse v
  g.regions.all (fun r =>
    match spotReg p r.reg with
    | none => false
    | some x => !busy.contains x && !s.fenced.contains x && !measuring s x && !overdue s x) &&
  p.1.all (fun d => dieFits s v inst d.1 d.2)

/-- The placement of a stage, none where it cannot be placed. -/
def placeFor (s v : State) (inst : Nat) : Option Spot :=
  ((dieMaps (ldies (s.inst inst).img) []).flatMap (fun m => shifts.map (fun d => (m, d.1, d.2)))).find? (spotOk s v inst)

/-! ## Decisions (R330 to R332) -/

def isReady (i : StageInst) : Bool := (i.status == .ready || i.status == .saved) && i.pick.isNone

/-- The stage starts now: its placement, if its demand fits; an aged stage above PCAP fits alone (R332). -/
def startSpot (s v : State) (x : Nat) : Option Spot :=
  let i := s.inst x
  let powerOk := if i.aged ∧ pcap s * 1000000 < demand i then v.insts.all (fun p => p.2.status != .running) else fitsPower v i
  if powerOk then placeFor s v x else none

/-- The part as it would be with some running stages stopped: their regions, power, tiles and cistern data free. -/
def without (s : State) (xs : List Nat) : State :=
  xs.foldl (fun t x => (freeTiles t x).modInst x (fun i => { i with status := .ended, pick := none })) s

/-- Running stages in the order they are marked: lowest class first, and in it latest placed first. -/
def markOrder (v : State) (t : StageInst → Bool) : List Nat :=
  (sortBy (fun (a b : Nat × StageInst) => a.2.cls > b.2.cls || (a.2.cls == b.2.cls && a.2.placedNo > b.2.placedNo))
    (v.insts.filter (fun p => p.2.status == .running && t p.2))).map Prod.fst

/-- The shortest start of an order whose stopping lets a stage start; none where even all of it does not suffice. -/
def markSet (s v : State) (x : Nat) : List Nat → List Nat → Option (List Nat)
  | _, [] => none
  | done, y :: ys =>
    let d := done ++ [y]
    if (startSpot (without s d) (without v d) x).isSome then some d else markSet s v x d ys

/-- The stages marked for a ready stage that cannot start (R331, R332). -/
def marksFor (s v : State) (x : Nat) : List Nat :=
  let i := s.inst x
  (markSet s v x [] (markOrder v (fun j => i.aged || decide (i.cls < j.cls)))).getD []

/-- A mark for pre-emption; a stage that is not clocked holds its marker resets until the save (R333). A stage that is picked and not placed
yet keeps its mark through its placement. -/
def markStage (s : State) (x : Nat) : State :=
  if (s.inst x).status = .running ∨ (s.inst x).pick.isSome then
    s.modInst x (fun i => { i with marked := true, held := if i.img.clocked then i.held else i.img.regions.map RegionDecl.reg })
  else s

/-- A candidate of a lower class starts only if it would not at once be marked for a stage passed over (R330). -/
def notMarkedFor (s : State) (c : Nat) (passed : List Nat) : Bool :=
  let v := withPicks s
  passed.all (fun x => decide ((s.inst c).cls ≤ (s.inst x).cls) || !(marksFor s v x).contains c)

/-- Candidates tried in order; those that cannot be placed or do not fit are passed over and mark what R331 lets them. One that fits and is
withheld (R330 step 4) is neither. -/
def tryStages : List Nat → List Nat → State → State
  | [], _, s => s
  | c :: cs, passed, s =>
    let v := withPicks s
    match startSpot s v c with
    | none => tryStages cs (passed ++ [c]) ((marksFor s v c).foldl markStage s)
    | some k =>
      let t := { s.modInst c (fun i => { i with pick := some k, placedNo := s.fresh }) with fresh := s.fresh + 1 }
      tryStages cs passed (if notMarkedFor t c passed then t else s)

/-- The candidates of a decision: the oldest aged stage alone, else every ready one by class and order. -/
def candidates (s : State) : List Nat :=
  let ready := s.insts.filter (fun p => isReady p.2)
  let order := sortBy (fun (a b : Nat × StageInst) => a.2.readyNo < b.2.readyNo) (ready.filter (fun p => p.2.aged))
  match order with
  | a :: _ => [a.1]
  | [] =>
    (sortBy (fun (a b : Nat × StageInst) => a.2.cls < b.2.cls || (a.2.cls == b.2.cls && a.2.readyNo < b.2.readyNo))
      ready).map Prod.fst

def execSchedulerDecision (s : State) : Out :=
  when (s.leads && s.sched.due) "SCHEDULER_DECISION"
    (let t := tryStages (candidates s) [] s
     { t with sched := { t.sched with due := false } })

/-- A ready stage of the same or a higher class that cannot be placed or does not fit (R331). -/
def someoneWaits (s : State) (cls : Nat) : Bool :=
  let v := withPicks s
  s.insts.any (fun p => isReady p.2 && decide (p.2.cls ≤ cls) && (startSpot s v p.1).isNone)

def execQuantumExpiry (inst : Nat) (s : State) : Out :=
  let i := s.inst inst
  let q := kget 2000 s.sched.quant i.cls
  when (s.leads && i.status == .running && q != 0 && decide (i.qstart + q * 1000 ≤ s.now)) "QUANTUM_EXPIRY"
    (let t := s.modInst inst (fun i => { i with qstart := s.now })
     if someoneWaits s i.cls then markStage t inst else t)

def execStageAged (inst : Nat) (s : State) : Out :=
  let i := s.inst inst
  when (isReady i && !i.aged && decide (i.readyAt + s.sched.age * 1000 ≤ s.now)) "STAGE_AGED"
    (let t := s.modInst inst (fun i => { i with aged := true })
     { t with sched := { t.sched with due := true } })

/-! ## Homes of data objects (R24, R368) -/

/-- The key of byte i of an object's home. -/
def objKey (s : State) (ctx base : Nat) (o : DataObj) (i : Nat) : Nat :=
  let va := base + o.off
  let p := va % 2 ^ 14 + i
  let home := o.pages.getD (p / 2 ^ 14) 0 + p % 2 ^ 14
  match o.level with
  | .hbm => hbmKey home
  | .peer _ rank slot => peerKey slot rank home
  | .cxl => cxlKey home
  | .cistern _ =>
    match rawLeaf s ctx (va + i) with
    | some w => cisternKey (leafHome (va + i) w)
    | none => cisternKey 0

/-- An object's contents with the handles of declared tiles put in. -/
def objBytes (hs : List Word) (o : DataObj) : List Byte :=
  o.handles.foldl (fun bs p => bs.take p.1 ++ bytesOfWord (nthW hs p.2) ++ bs.drop (p.1 + 4)) o.contents

/-- An object's contents stand in its home, and none of them is unspecified any more (R92, R368). -/
def writeObj (s : State) (ctx base : Nat) (hs : List Word) (o : DataObj) : State :=
  let bs := objBytes hs o
  stored (writeThrough s ((List.range bs.length).zip bs |>.map (fun p => (objKey s ctx base o p.1, p.2)))) ctx (base + o.off) bs.length

def cisternObjs (g : StageImage) : List DataObj :=
  g.objs.filter (fun o =>
    match o.level with
    | .cistern _ => true
    | _ => false)

/-- Below the area of the leader's mirror, which no graph reaches (R356). -/
def offMirror (a : Nat) : Bool := !(a / 2 ^ 26 == 0 || a / 2 ^ 26 == 4) || decide (a % 2 ^ 26 < 62 * 2 ^ 20)

/-- The cistern pages of a stage's data, by the context's leaves; none where a leaf is not of the die the object goes to, or reaches the
mirror. -/
def cisternPages (s : State) (inst : Nat) : Option (List Nat) :=
  let i := s.inst inst
  ((cisternObjs i.img).flatMap (fun o => (objPages i.img.dataBase o).map (fun p => (o, p)))).mapM
    (fun p =>
      match rawLeaf s i.ctx p.2, p.1.level with
      | some w, .cistern d =>
        let a := leafHome p.2 w
        if pteHome w.2 = 1 ∧ a / 2 ^ 26 = s.physDie inst d ∧ offMirror a then some (a / 2 ^ 14) else none
      | _, _ => none)

/-- The loader has mapped the stage's cistern data on its dies, apart from every other running stage's (log 43). -/
def cisternMapped (s : State) (inst : Nat) : Bool :=
  match cisternPages s inst with
  | none => false
  | some ps => s.insts.all (fun p => p.1 == inst || p.2.status != .running ||
      !((cisternPages s p.1).getD []).any ps.contains)

/-! ## Deltas and the regions they touch (R317, R319) -/

namespace Delta
def reg (h : BitVec 64) : Nat := bits h 63 56
def el (h : BitVec 64) : Nat := bits h 55 50
def item (h : BitVec 64) : Nat := bits h 49 46
def index (h : BitVec 64) : Nat := bits h 45 42
def stage (h : BitVec 64) : Nat := bits h 41 36
end Delta

abbrev DEntry := BitVec 64 × BitVec 64

/-- Touched regions of a live delta in the running stage (R319 step 1). -/
def touched (x : GraphInst) (es : List DEntry) : List Nat :=
  ((es.filter (fun e => Delta.item e.1 != 7 && Delta.stage e.1 == x.item)).map (fun e => Delta.reg e.1)).eraseDups

/-! ## STAGE_PLACEMENT (R31, R172, R328, R368) -/

/-- The regions whose marker resets wait in a stage that is placed: all of a stage that is marked, else those that a live delta waits for
(R319, R333). -/
def heldAt (s : State) (i : StageInst) : List Nat :=
  if i.img.clocked then []
  else if i.marked then i.img.regions.map RegionDecl.reg
  else (((s.graph i.graph).live.filter (fun d => !d.applied)).flatMap (fun d => touched (s.graph i.graph) d.entries)).eraseDups

/-- The stage runs at its placement, its clocks at 900 MHz and their windows begun (R337). -/
def occupy (s : State) (inst : Nat) (k : Spot) : State :=
  let s1 := s.modInst inst (fun i =>
    { i with status := .running, pick := none, aged := false, held := heldAt s i, qstart := s.now
             placedNo := s.fresh, dies := k.1, dRow := k.2.1, dCol := k.2.2, newClk := [] })
  let regs := (s1.inst inst).img.regions.map (fun r => s1.physReg inst r.reg)
  { s1 with
    fresh := s1.fresh + 1
    clk := regs.foldl (fun m r => kset m r 900) s1.clk
    win := regs.foldl (fun m r => kset m r { start := s.now }) s1.win }

/-- The placement that was picked can still be made (R328): since then a region may have been fenced, an entry or room of a cistern
taken. -/
def stillFits (s : State) (inst : Nat) (k : Spot) : Bool :=
  let t := s.modInst inst (fun i => { i with pick := none })
  spotOk t (withPicks t) inst k

/-- The stage waits again, as one that cannot be placed where it was picked for, until the next decision. -/
def unpick (s : State) (inst : Nat) : State :=
  let t := s.modInst inst (fun i => { i with pick := none, marked := false, held := [] })
  { t with sched := { t.sched with due := true } }

/-- The declared tiles allocated, in order, with their handles. -/
def allocDecls (inst : Nat) : List TileDecl → State → Except Stop (List Word × State)
  | [], s => .ok ([], s)
  | t :: ts, s =>
    match allocTile s inst t.reg t.el t.spec with
    | .error e => .error e
    | .ok (h, s1) =>
      let e := entryOf s1 inst h
      match allocDecls inst ts (writeThrough s1 (keyed (tileKey e.1 e.2 0) t.contents)) with
      | .error e => .error e
      | .ok (hs, s2) => .ok (h :: hs, s2)

/-- An element's image values (R31). -/
def initElem (args : KMap Word) (hs : List Word) (g : ElemImage) : Elem :=
  restoreRegs g args hs
    { slots := indexed0 g.slots
      pumps := g.pumps.map (fun p => (p.1, { words := pumpWords args hs p.2 }))
      dlLat := indexed0 (g.dl.map (initVal args hs))
      dlPend := indexed0 (g.dl.map (initVal args hs)) }

def initElems (s : State) (inst : Nat) (args : KMap Word) (hs : List Word) : State :=
  (s.inst inst).img.elems.foldl (fun t g => t.setElem ⟨inst, g.reg, g.el⟩ (initElem args hs g)) s

def writeObjs (s : State) (inst : Nat) (hs : List Word) : State :=
  let i := s.inst inst
  i.img.objs.foldl (fun t o => writeObj t i.ctx i.img.dataBase hs o) s

/-- The loader has rewritten leaves for a placement: no cached translation of the stage's cistern pages outlives them (R24, R271). -/
def remap (s : State) (inst : Nat) (ptes : List (Nat × BitVec 64)) : State :=
  let i := s.inst inst
  let ps := (cisternObjs i.img).flatMap (objPages i.img.dataBase)
  dropTlb (writePtes s ptes) (fun _ => true) (fun t => ps.any (fun va => t.meets i.ctx va (2 ^ 14)))

/-- What the loader has mapped is as R24, R253 and R368 state it. -/
def mappedFor (s : State) (inst : Nat) : Bool := cisternMapped s inst && portsKept s (s.inst inst).ctx

def execStagePlacement (inst : Nat) (ptes : List (Nat × BitVec 64)) (s : State) : Out :=
  let i := s.inst inst
  match i.status, i.pick, s.leads with
  | .ready, some k, true =>
    let s1 := occupy (remap s inst ptes) inst k
    if stillFits s inst k = false then .next (unpick s inst)
    else if mappedFor s1 inst = false then notNow "STAGE_PLACEMENT"
    else
      match allocDecls inst i.img.tiles s1 with
      | .error _ => .next (unpick s inst)
      | .ok (hs, s2) =>
        let args := (s2.graph i.graph).args
        let s3 := initElems (writeObjs s2 inst hs) inst args hs
        let s4 := s3.modInst inst (fun i =>
          { i with handles := hs, icnt := 0, istart := s.now, durs := [], resets := [], acts := [], flight := [], copied := [] })
        .next (newEpoch (i.img.regions.foldl (fun t r => t.modRegion ⟨inst, r.reg⟩ (fun _ => {})) s4) i.ctx)
  | _, _, _ => notNow "STAGE_PLACEMENT"

/-! ## Saves (R333, R334) -/

/-- The bytes of one home moved to another, in place of all that stood there (R334). -/
def moveHome (m : List (Nat × Byte)) (a b : Nat) : List (Nat × Byte) :=
  memPutAll (m.filter (fun p => homeOfKey p.1 != a && homeOfKey p.1 != b))
    ((m.filter (fun p => homeOfKey p.1 == a)).map (fun p => (keyOf b (addrOfKey p.1), p.2)))

/-- A stage's tiles of one table moved to another with their entries and contents. -/
def moveTiles (s : State) (inst a b : Nat) : State :=
  (s.tiles.filter (fun p => p.1.1 == a && p.2.inst == inst && p.2.state != .free)).foldl (fun t p =>
    let u := freeEntry { t with mem := moveHome t.mem (2000 + a * 1024 + p.1.2) (2000 + b * 1024 + p.1.2) } p.1
    { u with tiles := kset u.tiles (b, p.1.2) p.2 }) s

/-- The tables of a stage: its logical regions, and its logical dies from 192, each with the physical one. -/
def tabPairs (s : State) (inst : Nat) : List (Nat × Nat) :=
  let g := (s.inst inst).img
  g.regions.map (fun r => (savedTab inst r.reg, s.physReg inst r.reg)) ++
    (ldies g).map (fun d => (savedTab inst (192 + d), 192 + s.physDie inst d))

def saveTiles (s : State) (inst : Nat) : State :=
  (tabPairs s inst).foldl (fun t p => moveTiles t inst p.2 p.1) s

/-- Saved entries return to the tables of the placement, and their saved names are gone. -/
def restoreTiles (s : State) (inst : Nat) : State :=
  (tabPairs s inst).foldl (fun t p =>
    let u := moveTiles t inst p.1 p.2
    { u with tiles := u.tiles.filter (fun x => x.1.1 != p.1) }) s

/-- Where a saved stage's cistern data is kept (log 43). -/
def savedDataKey (inst off : Nat) : Nat := keyOf 1100 (inst * 2 ^ 32 + off)

def saveData (s : State) (inst : Nat) : State :=
  let i := s.inst inst
  (cisternObjs i.img).foldl (fun t o =>
    (List.range o.contents.length).foldl (fun t k =>
      let key := objKey s i.ctx i.img.dataBase o k
      { t with mem := memPut (memPut t.mem (savedDataKey inst (o.off + k)) (memGet t.mem key)) key 0 }) t) s

def restoreData (s : State) (inst : Nat) : State :=
  let i := s.inst inst
  (cisternObjs i.img).foldl (fun t o =>
    (List.range o.contents.length).foldl (fun t k =>
      let key := savedDataKey inst (o.off + k)
      { t with mem := memPut (memPut t.mem (objKey s i.ctx i.img.dataBase o k) (memGet t.mem key)) key 0 }) t) s

/-- An element's registers after a save: those the live map names, and image values for the others (R334). -/
def keepRegs (args : KMap Word) (hs : List Word) (g : ElemImage) (m : Option LiveMap) (x : Elem) : Elem :=
  match m with
  | none => x
  | some m =>
    let y := initElem args hs g
    { x with
      d := (List.range 8).map (fun k => (k, if m.d.contains k then x.dreg k else y.dreg k))
      fl := (List.range 8).map (fun k => (k, m.d.contains k && x.dflag k))
      p := BitVec.ofNat 8 ((List.range 8).foldl (fun a k =>
        a + (if (if m.p.contains k then bit x.p k else bit y.p k) then 2 ^ k else 0)) 0)
      q := (List.range 4).map (fun k => (k, kget 0 (if m.q.contains k then x.q else y.q) k))
      dlLat := (List.range 4).map (fun k => (k, kget 0 (if m.dl.contains k then x.dlLat else y.dlLat) k))
      dlPend := (List.range 4).map (fun k => (k, kget 0 (if m.dl.contains k then x.dlPend else y.dlPend) k)) }

/-- What a save keeps of an element (R334); the copies of B that systolic arrays hold and its datapath are lost. -/
def keepElem (s : State) (inst : Nat) (args : KMap Word) (p : ERef × Elem) : ERef × Elem :=
  let i := s.inst inst
  if p.1.inst = inst then
    match i.img.elemImage p.1.reg p.1.el with
    | none => p
    | some g =>
      (p.1, { keepRegs args i.handles g (if i.img.clocked then g.liveInstant else g.liveMarker) p.2 with
        slots := [], ended := false, cych := 0, dp := .idle, binds := p.2.binds.map (fun b => (b.1, { b.2 with held := none })) })
  else p

/-- A micro-TLB of the stage's elements or pumps: not in the table of R334. -/
def utlbOfStage (inst : Nat) : UKey → Bool
  | .elem e => e.inst == inst
  | .pump e _ => e.inst == inst
  | .well _ => false

/-- The stage is saved: every operation performed at system scope, hot lines written back, its regions free. -/
def saveStage (s : State) (inst : Nat) : State :=
  let s1 := widenInst s inst .system
  let args := (s1.graph (s1.inst inst).graph).args
  let regs := (s1.inst inst).img.regions.map (fun r => s1.physReg inst r.reg)
  let s2 := saveTiles (saveData { s1 with
    elems := s1.elems.map (keepElem s1 inst args)
    regions := s1.regions.map (fun (p : RRef × Region) => if p.1.inst = inst then (p.1, { p.2 with wells := [] }) else p)
    engines := s1.engines.map (fun (p : Nat × Engine) => if regs.contains p.1 then (p.1, { p.2 with hot := [] }) else p)
    utlb := s1.utlb.filter (fun p => !utlbOfStage inst p.1) } inst) inst
  let s3 := s2.modInst inst (fun i =>
    { i with status := .saved, marked := false, aged := false, held := [], readyAt := s.now, readyNo := s2.fresh, acts := [] })
  { s3 with fresh := s3.fresh + 1, sched := { s3.sched with due := true } }

/-- Nothing that an element has issued is still on its way (R283): no instruction at its datapath, no run of a pump, no firing, queued or
eligible, no return or completion token owed to mi, no token of an MDONE that could leave. -/
def elemDone (s : State) (e : ERef) (x : Elem) : Bool :=
  x.dp == .idle && x.pumps.all (fun p => !p.2.run) && x.topx == [] && (nextFiring s e).isNone && x.rets == [] && x.owed == [] &&
  blocked (execMdoneToken e s)

/-- The drain condition of R319 step 2, with the conditions of R283, for some regions of a stage that is not clocked. -/
def drained (s : State) (inst : Nat) (t : Nat → Bool) : Bool :=
  (s.elemsOf inst).all (fun p => !t p.1.reg || ((p.2.halted || canReset s p.1) && elemDone s p.1 p.2)) &&
  !workOpen s (fun e => e.inst == inst && t e.reg) &&
  !s.tiles.any (fun p => p.2.fset && (s.inst inst).img.regions.any (fun r => t r.reg && s.physReg inst r.reg == p.2.fReg))

/-- A marked stage is saved at its safe point; a stage whose elements are all halted ends instead (R333, R335) (log 45). -/
def execPreemptionSave (inst : Nat) (s : State) : Out :=
  let i := s.inst inst
  let up := s.leads && i.marked && i.status == .running && (s.graph i.graph).fault.isNone && !allHalted s inst && !deltaDue s inst
  if i.img.clocked then
    when (up && instantDue s inst) "PREEMPTION_SAVE" (saveStage (instantEnd s inst) inst)
  else
    when (up && drained s inst (fun _ => true) && i.flight.all (fun p => p.2 == [])) "PREEMPTION_SAVE" (saveStage s inst)

/-- An element's slots, and the registers that no live map kept, at their image values as they stand at the resume (R31, R334). -/
def resumeElem (s : State) (inst : Nat) (g : ElemImage) (x : Elem) : Elem :=
  let i := s.inst inst
  { keepRegs (s.graph i.graph).args i.handles g (if i.img.clocked then g.liveInstant else g.liveMarker) x with
    slots := indexed0 g.slots }

/-- A saved stage starts on its new placement (R328, R334); an invocation begins with it (R336). -/
def execStageResume (inst : Nat) (ptes : List (Nat × BitVec 64)) (s : State) : Out :=
  let i := s.inst inst
  match i.status, i.pick, s.leads with
  | .saved, some k, true =>
    let s1 := occupy (remap s inst ptes) inst k
    if stillFits s inst k = false then .next (unpick s inst)
    else if mappedFor s1 inst = false then notNow "STAGE_RESUME"
    else
      let s2 := restoreData (restoreTiles s1 inst) inst
      let s3 := i.img.elems.foldl (fun t g => t.modElem ⟨inst, g.reg, g.el⟩ (resumeElem s2 inst g)) s2
      .next (newEpoch (s3.modInst inst (fun i => { i with acts := haltedActs s3 inst, istart := s.now, resets := [] })) i.ctx)
  | _, _, _ => notNow "STAGE_RESUME"

/-! ## Clocks (R337) -/

def clampClk (n : Nat) : Nat := min 1100 (max 450 n)

/-- The clock a controller asks for at the end of a window of some length. -/
def windowClk (s : State) (m : ClkWin) (len : Nat) (w : ClockWindow) (clk : Nat) : Nat :=
  if pcap s < w.power ∨ len ≤ 4 * m.out then clampClk (clk - 25)
  else if len ≤ 4 * m.full ∧ puse s + w.raiseW * 1000000 ≤ pcap s * 1000000 then clampClk (clk + 25)
  else clk

/-- The running stage on a physical region. -/
def stageOn (s : State) (reg : Nat) : Option Nat :=
  (s.insts.find? (fun p => p.2.status == .running && p.2.img.regions.any (fun r => s.physReg p.1 r.reg == reg))).map Prod.fst

/-- A window of 1 µs has ended, and another begins; in a clocked stage a change takes effect at its instant end. -/
def execClockWindow (reg : Nat) (w : ClockWindow) (s : State) : Out :=
  let m := kget {} s.win reg
  let s1 := { s with win := kset s.win reg { start := s.now } }
  let ask (clk : Nat) : Nat := windowClk s m (s.now - m.start) w clk
  when (decide (reg < 192) && decide (m.start + 1000 ≤ s.now)) "CLOCK_WINDOW"
    (match stageOn s reg with
     | some inst =>
       if (s.inst inst).img.clocked then
         s1.modInst inst (fun i => { i with newClk := kset i.newClk reg (ask (kget (s.clock reg) i.newClk reg)) })
       else { s1 with clk := kset s.clk reg (ask (s.clock reg)) }
     | none => { s1 with clk := kset s.clk reg (ask (s.clock reg)) })

/-- Firmware moves the thermal limit, and with it PCAP (R354); it runs once its images are verified (R358). -/
def execThermalLimitChange (watts : Nat) (s : State) : Out :=
  when (s.fw.bootst == 3) "THERMAL_LIMIT_CHANGE" { s with sched := { s.sched with thermal := watts, due := true } }

end Sys2Proof.Machine
end

