-- ==== Sys2Proof/Machine/Launch.lean ====
section
/-! DEFINITION. Queues and their packets, deltas, graphs and their nodes, pending launches, host rings and mailboxes, and
glaunch, gcond, hrapp, intr (spec/21_queues_graphs_launch.md R311 to R326). -/

namespace Sys2Proof.Machine

/-! ## Packets (R312, R313) -/

def bothEnds (lo hi : Word) : Nat := lo.toNat + 2 ^ 32 * bits hi 23 0

namespace Pkt
def type (ws : List Word) : Nat := bits (nthW ws 0) 31 28
def ord (ws : List Word) : Bool := bit (nthW ws 0) 27
def int (ws : List Word) : Bool := bit (nthW ws 0) 26
def isLive (ws : List Word) : Bool := bit (nthW ws 0) 25
def graph (ws : List Word) : Nat := bits (nthW ws 1) 7 0
def addr (ws : List Word) (k : Nat) : Nat := bothEnds (nthW ws k) (nthW ws (k + 1))
end Pkt

/-- The byte offset of the first field that breaks its rule. -/
def firstBreak : List (Bool × Nat) → Option Nat
  | [] => none
  | (ok, o) :: r => if ok then firstBreak r else some o

def zeroFrom (ws : List Word) (k : Nat) : List (Bool × Nat) :=
  (List.range (16 - k)).map (fun i => (nthW ws (k + i) == 0, 4 * (k + i)))

/-- An address's high word has its upper byte clear. -/
def hiOk (ws : List Word) (k : Nat) : Bool × Nat := (bits (nthW ws k) 31 24 == 0, 4 * k)

/-- Where a packet of a known type breaks R313 or R185. -/
def packetBreak (ws : List Word) : Option Nat :=
  match Pkt.type ws with
  | 1 => firstBreak ([(bits (nthW ws 0) 24 0 == 0, 0), (bits (nthW ws 1) 31 8 == 0, 4), hiOk ws 3, hiOk ws 6, hiOk ws 8] ++
      zeroFrom ws 9)
  | 2 => firstBreak ([(bits (nthW ws 0) 25 0 == 0, 0), hiOk ws 2, hiOk ws 4,
      (decide (1 ≤ Tpl.len ws) && decide (Tpl.len ws ≤ 16777216), 20),
      (decide (1 ≤ Tpl.rows ws) && decide (Tpl.rows ws ≤ 65536), 24), hiOk ws 10] ++ zeroFrom ws 11)
  | 3 => firstBreak ([(bits (nthW ws 0) 25 0 == 0, 0), hiOk ws 2, hiOk ws 4, hiOk ws 6, hiOk ws 8, hiOk ws 10] ++
      zeroFrom ws 11)
  | _ => firstBreak ([(bits (nthW ws 0) 25 0 == 0, 0), ((nthW ws 1).toNat % 4 == 0, 4), hiOk ws 2] ++ zeroFrom ws 4)

def qlog (x : Queue) : Nat := bits x.size 4 0
def qclass (x : Queue) : Nat := bits x.size 9 8

/-- The packet at QREAD, as the front end reads it. -/
def packetRead (s : State) (q : Nat) : FrontRead :=
  let x := s.queue q
  directRead s x.ctx (x.base + 64 * (x.read % 2 ^ qlog x)) 64

def packetAt (s : State) (q : Nat) : Option (List Word) :=
  match packetRead s q with
  | .got bs => some (wordsOf bs)
  | .stop _ _ => none

/-- A running queue with a packet that may start (R312 ORD). -/
def startable (s : State) (q : Nat) : Bool :=
  let x := s.queue q
  x.state == 1 && x.read != x.write &&
  (match packetAt s q with
   | none => false
   | some ws => !Pkt.ord ws || !x.open_.contains ((x.read + 2 ^ 32 - 1) % 2 ^ 32))

/-- What the front end serves next: a class, and in it a pending launch (none) or a queue, round-robin (R312, R322). -/
def serves (s : State) : Option (Option Nat) :=
  (List.range 4).findSome? (fun c =>
    if s.pendLaunch.any (fun p => p.cls == c) then some none
    else
      let last := kget 63 s.rrob c
      ((List.range 64).map (fun k => (last + 1 + k) % 64)).findSome? (fun q =>
        if qclass (s.queue q) = c ∧ startable s q then some (some q) else none))

/-- A packet starts: QREAD advances past it, and it is open until it completes (log 26). -/
def startPacket (s : State) (q : Nat) : State :=
  let s1 := s.modQueue q (fun x => { x with read := (x.read + 1) % 2 ^ 32, open_ := x.open_ ++ [x.read], failed := none })
  { s1 with rrob := kset s1.rrob (qclass (s.queue q)) q }

/-- The error state of a queue (R315); its cause is one of R340's, and counts (R363). -/
def queueError (s : State) (q cause type where_ : Nat) : State :=
  let x := s.queue q
  frontWrite ((countFault s cause).modQueue q (fun x => { x with state := 2, failed := none })) noGraph x.ctx
    [(x.err, bytesOfWords [wd cause, wd x.read, wd type, wd where_, 0, 0, 0, 0])] (some (queueVector q))

/-! ## Deltas (R317, R318) -/

/-- An entry meets R318 for a graph. -/
def entryOk (g : Graph) (e : DEntry) : Bool :=
  let h := e.1
  let v := e.2
  bits h 35 30 == 0 && bits h 29 22 == 0xE5 && bits h 21 0 == 0 &&
  (if Delta.item h = 7 then Delta.stage h == 0 && Delta.reg h == 0 && Delta.el h == 0
   else
    match g.items[Delta.stage h]? with
    | some (.stage img) => (img.elemImage (Delta.reg h) (Delta.el h)).isSome
    | _ => false) &&
  (match Delta.item h with
   | 0 => true
   | 1 => decide (Delta.index h < 8) && bits v 63 32 == 0
   | 2 => Delta.index h == 0 && bits v 63 16 == 0
   | 3 => decide (Delta.index h < 4) && bits v 63 32 == 0
   | 4 => decide (Delta.index h < 4) && bits v 63 32 == 0
   | 5 => Delta.index h == 0 && bits v 63 3 == 0
   | 6 => decide (Delta.index h < 4) && v == 0
   | 7 => true
   | _ => false)

/-- The index of the first entry that breaks R318. -/
def firstBadEntry (g : Graph) : Nat → List DEntry → Option Nat
  | _, [] => none
  | i, e :: es => if entryOk g e then firstBadEntry g (i + 1) es else some i

/-- Element i of a list set, the list filled up to it. -/
def setPad {α : Type} (d : α) (xs : List α) (i : Nat) (v : α) : List α :=
  (xs ++ List.replicate (i + 1 - xs.length) d).set i v

/-- An entry applied to the image of its element (R317). -/
def applyElem (e : DEntry) (x : ElemImage) : ElemImage :=
  let i := Delta.index e.1
  let v : Word := BitVec.ofNat 32 e.2.toNat
  match Delta.item e.1 with
  | 0 => { x with slots := setPad 0 x.slots i e.2 }
  | 1 => { x with d := setPad (.lit 0) x.d i (.lit v) }
  | 2 =>
    let m := BitVec.ofNat 8 (bits e.2 15 8)
    { x with p := (x.p &&& ~~~m) ||| (BitVec.ofNat 8 (bits e.2 7 0) &&& m) }
  | 3 => { x with q := setPad (.lit 0) x.q i (.lit v) }
  | 4 => { x with dl := setPad (.lit 0) x.dl i (.lit v) }
  | 5 => { x with rs := BitVec.ofNat 3 e.2.toNat }
  | _ => x

def applyImage (e : DEntry) (img : StageImage) : StageImage :=
  { img with elems := replaceFirst (fun x => x.reg == Delta.reg e.1 && x.el == Delta.el e.1) (applyElem e) img.elems }

/-- An entry applied to a graph's images. -/
def applyEntry (e : DEntry) (g : Graph) : Graph :=
  if Delta.item e.1 = 7 then g
  else
    match g.items[Delta.stage e.1]? with
    | some (.stage img) => ⟨g.items.set (Delta.stage e.1) (.stage (applyImage e img))⟩
    | _ => g

/-- Entries apply in list order. -/
def applyDelta (es : List DEntry) (g : Graph) : Graph := es.foldl (fun g e => applyEntry e g) g

/-- The launch arguments a delta supplies (R317). -/
def deltaArgs (es : List DEntry) : KMap Word :=
  es.foldl (fun m e => if Delta.item e.1 = 7 then kset m (Delta.index e.1) (BitVec.ofNat 32 e.2.toNat) else m) []

/-- The entries of a delta's bytes; a remainder short of an entry is none (log 27). -/
def entriesOf : Nat → List Byte → List DEntry
  | 0, _ => []
  | n + 1, bs =>
    (BitVec.ofNat 64 (leNat (bs.take 8)), BitVec.ofNat 64 (leNat ((bs.drop 8).take 8))) :: entriesOf n (bs.drop 16)

/-- A delta read by the front end: unreadable (R316 0x1C5), not readable now, or its entries. -/
inductive DeltaRead where
  | fatal
  | notYet (va : Nat) (st : AccSt)
  | got (es : List DEntry)
  deriving DecidableEq, Repr

/-- An address of 0 means no delta (R313). `bad` is where a read for the launch has failed in a hold: in the delta, that read has met a
fatal cause (R316). -/
def readDelta (s : State) (bad : Option Nat) (ctx va len : Nat) : DeltaRead :=
  if va = 0 then .got []
  else if bad.any (fun b => decide (va ≤ b) && decide (b < va + len / 16 * 16)) then .fatal
  else
    match directRead s ctx va (len / 16 * 16) with
    | .got bs => .got (entriesOf (len / 16) bs)
    | .stop a (.wait st) => .notYet a st
    | .stop _ _ => .fatal

/-! ## Graph instances (R319, R321) -/

/-- A launch's end as its record, its queue and its interrupt show it (R313, R314, R325) (log 42). -/
def completeOrigin (s : State) (o : Origin) (ctx comp : Nat) (int : Bool) (status xdrop : Nat) : State :=
  match o with
  | .queue q i => completePacket s q i comp int status xdrop
  | .glaunch q _ _ =>
    writeCompletion s ctx comp status xdrop (if int then some (queueVector q) else none)

/-- Why a collective node's object is not loaded: a cause of R201 or R199, or an access of the front end that does not go (R266). -/
inductive NodeStop where
  | cause (c : Nat)
  | stop (va : Nat) (f : Front)
  deriving DecidableEq, Repr

def frontWords (s : State) (ctx va n : Nat) : Except NodeStop (List Word) :=
  match directRead s ctx va (4 * n) with
  | .got bs => .ok (wordsOf bs)
  | .stop a f => .error (.stop a f)

/-- The object read and checked in the order of R201, and an entry of the engine's table: its words, its records, its slot, its entry
(log 34). -/
def loadNodeObj (s : State) (ctx obj base : Nat) : Except NodeStop (List Word × List (List Word) × Nat × Nat) := do
  if obj % 64 ≠ 0 then .error (.cause 0x023)
  else
    let ws ← frontWords s ctx obj 16
    if cobjOk ws = false then .error (.cause 0x033)
    else if CObj.tpl ws = 0 ∧ CObj.ops ws % 32 ≠ 0 then .error (.cause 0x023)
    else
      let rw ← (if CObj.tpl ws = 0 then frontWords s ctx ((base + CObj.ops ws) % 2 ^ 56) (8 * CObj.count ws) else .ok [])
      let recs := if CObj.tpl ws = 0 then recordsOf (CObj.count ws) rw else []
      if CObj.tpl ws = 0 ∧ cgraphForm ws recs = false then .error (.cause 0x033)
      else
        if CObj.tpl ws = 0 ∧ cgraphFitsSome ws recs = false then .error (.cause 0x033)
        else
        match slotOf s ctx (CObj.g ws), freeColl s with
        | none, _ => .error (.cause 0x034)
        | some k, f =>
          if CObj.tpl ws = 0 ∧ cgraphFits ws recs (s.group k).p = false then .error (.cause 0x033)
          else
            match f with
            | none => .error (.cause 0x035)
            | some i => .ok (ws, recs, k, i)

/-- The collective node's object loaded and its call made (R321); not yet while an access of it holds or its slot has eight calls. A
cause ends the graph (log 34). -/
def startNodeCall (s : State) (gi : Nat) (obj base : Nat) : State :=
  let x := s.graph gi
  match loadNodeObj s x.ctx obj base with
  | .error (.cause c) => hardFault s gi 8 c 0 0 0
  | .error (.stop va (.wait st)) => frontHold s (.node gi) gi x.ctx va st
  | .error (.stop va (.fail c i k)) => hardFaultAt s gi 8 c 0 0 va i k
  | .error (.stop _ (.at_ _)) => s
  | .ok (ws, recs, k, i) =>
    if 8 ≤ (s.group k).calls.length then s
    else
      let s1 := { s with colls := kset s.colls i (⟨ws, recs, k, (s.group k).gen, base, none, gi⟩ : Coll) }
      let pkt : StartPkt := ⟨(s.group k).next, CObj.tpl ws, CObj.red ws, CObj.count ws, CObj.opc ws⟩
      let c : Call :=
        { num := pkt.num, pkt := pkt, obj := i, inst := none, graph := gi, reg := 0, el := 0, cslot := 0, disp := 0
          rel := true, acq := true, issued := s.now, started := false, snap := [], counters := [], ran := []
          opsDone := [], got := [], vals := [], exc := false, tmo := (s.group k).tmo, rls := none }
      (addCall s1 k c).modGraph gi (fun x => { x with call := some (k, pkt.num) })

/-- The graph's current item starts (R321, R330): a stage becomes ready, and its placement is the start of its node; with any other node
the epoch advances here (R289). -/
def startItem (s : State) (gi : Nat) : State :=
  let x := s.graph gi
  match x.graph.items[x.item]? with
  | some (.stage img) =>
    let k := s.fresh
    let i : StageInst :=
      { graph := gi, item := x.item, ctx := x.ctx, cls := x.cls, img := img, readyAt := s.now, readyNo := s.fresh }
    { s.modGraph gi (fun x => { x with stage := some k }) with
      insts := kset s.insts k i, fresh := s.fresh + 1, sched := { s.sched with due := true } }
  | some (.copy t) =>
    let s1 := newEpoch s x.ctx
    { s1 with
      fresh := s1.fresh + 1
      copies := kset s1.copies (chanKey 9 gi) [⟨.node gi, x.ctx, [wd t, wd (t / 2 ^ 32)], 0, false, false, s1.fresh, []⟩] }
  | some (.collective _ obj base) => startNodeCall (newEpoch s x.ctx) gi obj base
  | some _ => newEpoch s x.ctx
  | none => s

/-- CAP of the exception log that a launch names, as the front end reads it when the launch starts (R163). Where that read meets a fatal
cause the launch starts all the same with a CAP of 0, so that every record counts in LOST (DESIGN CHOICE, log 63). -/
def readCap (s : State) (bad : Option Nat) (ctx elog : Nat) : DeltaRead × Nat :=
  if elog = 0 then (.got [], 0)
  else if bad.any (fun b => decide (elog + 8 ≤ b) && decide (b < elog + 12)) then (.fatal, 0)
  else
    match directRead s ctx (elog + 8) 4 with
    | .got bs => (.got [], leNat bs)
    | .stop a (.wait st) => (.notYet a st, 0)
    | .stop _ _ => (.fatal, 0)

/-- A new instance of a graph (R319). Its exception log counts from 0, which its header shows at once (R163). -/
def newGraph (s : State) (o : Origin) (ctx cls res : Nat) (g : Graph) (args : KMap Word) (ws : List Word) (cap : Nat) : State :=
  let gi := s.fresh
  let elog := Pkt.addr ws 5
  let x : GraphInst :=
    { origin := o, ctx := ctx, cls := cls, res := res, graph := g, args := args, item := 0, stage := none, call := none
      conds := [], fault := none, nflt := 0, elog := elog, comp := Pkt.addr ws 7, int := Pkt.int ws
      xcount := 0, xdrop := 0, xcap := cap, xlost := 0, live := [], done := false }
  let s1 := { s with graphs := kset s.graphs gi x, fresh := s.fresh + 1 }
  startItem (if elog = 0 then s1 else frontWrite s1 gi ctx [(elog, leBytes 8 0)] none) gi

/-- The running instance that the latest earlier launch of a queue started of a graph (R319), which its context and its index name (R316). -/
def liveTarget (s : State) (q ctx res : Nat) : Option Nat :=
  let mine := s.graphs.filter (fun p =>
    p.2.res == res && p.2.ctx == ctx && (match p.2.origin with
      | .queue k _ => k == q
      | .glaunch _ _ _ => false))
  let last := mine.foldl (fun m p => max m p.1) 0
  if mine.any (fun p => p.1 == last && !p.2.done) then some last else none

/-- A live delta joins its instance; a stage that is not clocked holds the resets of its touched regions (R319 step 2). -/
def addLive (s : State) (gi : Nat) (d : LiveDelta) : State :=
  let s1 := s.modGraph gi (fun x => { x with live := x.live ++ [d] })
  match (s1.graph gi).stage with
  | none => s1
  | some k =>
    s1.modInst k (fun i =>
      if i.status = .running ∧ i.img.clocked = false then { i with held := (i.held ++ touched (s.graph gi) d.entries).eraseDups }
      else i)

/-- What a launch comes to: a cause with its place, an access that is to hold, or the part with it started. -/
inductive Launched where
  | refused (cause where_ : Nat)
  | holds (va : Nat) (st : AccSt)
  | started (s : State)
  deriving DecidableEq, Repr

/-- A launch: its graph, its delta, the verifier, and a new instance or a live delta (R55, R316 to R319). `bad` is where a read for it has
failed, `start` what taking the packet does. -/
def launch (s : State) (bad : Option Nat) (o : Origin) (q ctx cls : Nat) (ws : List Word) (start : State → State) : Launched :=
  match s.resident.find? (fun p => p.1 == (ctx, Pkt.graph ws)) with
  | none => .refused 0x1C2 4
  | some (_, r) =>
    match readDelta s bad ctx (Pkt.addr ws 2) (nthW ws 4).toNat with
    | .fatal => .refused 0x1C5 8
    | .notYet va st => .holds va st
    | .got es =>
      match firstBadEntry r.graph 0 es with
      | some i => .refused 0x1C4 i
      | none =>
        match (if Pkt.isLive ws then liveTarget s q ctx (Pkt.graph ws) else none) with
        | some gi =>
          if graphOk (applyDelta es (s.graph gi).graph) (some (s.graph gi).args) then
            let s1 := start s
            .started (addLive { s1 with fresh := s1.fresh + 1 } gi
              { origin := o, entries := es, comp := Pkt.addr ws 7, int := Pkt.int ws, seq := s1.fresh })
          else .refused 0x1C3 4
        | none =>
          let g := applyDelta es r.graph
          if graphOk g (some (deltaArgs es)) then
            match readCap s bad ctx (Pkt.addr ws 5) with
            | (.notYet va st, _) => .holds va st
            | (_, cap) => .started (newGraph (start s) o ctx cls (Pkt.graph ws) g (deltaArgs es) ws cap)
          else .refused 0x1C3 4

/-- The front end serves this queue now, and the packet at its QREAD is of a type asked for. -/
def servedPacket (s : State) (q : Nat) (t : Nat → Bool) : Option (List Word) :=
  if s.leads ∧ serves s = some (some q) then
    match packetAt s q with
    | some ws => if t (Pkt.type ws) then some ws else none
    | none => none
  else none

/-- A running queue's next packet cannot be read now: where, and why. -/
def packetHeld (s : State) (q : Nat) : Option (Nat × AccSt) :=
  let x := s.queue q
  if s.leads ∧ x.state = 1 ∧ x.read ≠ x.write ∧ accPending s (.queue q) = false then
    match packetRead s q with
    | .stop va (.wait st) => some (va, st)
    | _ => none
  else none

/-- A pending launch reads as a queue of its own. -/
def pendQueue (num : Nat) : Nat := 64 + num

/-- A graph launch; the front end meets a reserved TYPE here too (R315, R316, R319). A read that its translation holds waits as the queue's
(R267); a read of the packet itself that fails in a hold is made again (log 42). -/
def execGraphLaunchPacket (q : Nat) (s : State) : Out :=
  let x := s.queue q
  match packetHeld s q, servedPacket s q (fun t => t == 1 || t == 0 || decide (4 < t)) with
  | some h, _ => .next (frontHold s (.queue q) noGraph x.ctx h.1 h.2)
  | none, none => notNow "GRAPH_LAUNCH_PACKET"
  | none, some ws =>
    if Pkt.type ws ≠ 1 then .next (queueError s q 0x1C0 (Pkt.type ws) 0)
    else
      match packetBreak ws with
      | some w => .next (queueError s q 0x1C1 1 w)
      | none =>
        if accPending s (.queue q) then notNow "GRAPH_LAUNCH_PACKET"
        else
          match launch s x.failed (.queue q x.read) q x.ctx (qclass x) ws (fun t => startPacket t q) with
          | .refused c w => .next (queueError s q c 1 w)
          | .holds va st => .next (frontHold s (.queue q) noGraph x.ctx va st)
          | .started t => .next t

/-! ## Copy, barrier-and and signal packets (R313) -/

/-- A copy packet as the template its channel runs. -/
def packetTpl (ws : List Word) : List Word :=
  [0xC7000000] ++ (ws.drop 1).take 8 ++ [0, 0, 0, 0, 0, 0, 0]

/-- A copy of an address of 0, which means none, copies nothing and completes (R313) (DESIGN CHOICE, log 42). -/
def execCopyPacket (q : Nat) (s : State) : Out :=
  match servedPacket s q (· == 2) with
  | none => notNow "COPY_PACKET"
  | some ws =>
    match packetBreak ws with
    | some w => .next (queueError s q 0x1C1 2 w)
    | none =>
      let x := s.queue q
      let s1 := startPacket s q
      let j : CopyJob := ⟨.packet q x.read (Pkt.addr ws 9) (Pkt.int ws), x.ctx, packetTpl ws, 0, false, false, s1.fresh, []⟩
      if Pkt.addr ws 1 = 0 ∨ Pkt.addr ws 3 = 0 then .next (completePacket s1 q x.read (Pkt.addr ws 9) (Pkt.int ws) 0 0)
      else .next { s1 with fresh := s1.fresh + 1, copies := kset s1.copies (chanKey 8 q) (kget [] s1.copies (chanKey 8 q) ++ [j]) }

/-- Every completion record that a barrier-and names has DONE = 1. -/
def barrierReady (s : State) (q : Nat) (ws : List Word) : Bool :=
  (List.range 5).all (fun k =>
    let a := Pkt.addr ws (1 + 2 * k)
    a == 0 || directRead s (s.queue q).ctx a 4 == .got [1, 0, 0, 0])

/-- The first record of a barrier-and that the front end cannot read now, and why. -/
def barrierStop (s : State) (q : Nat) (ws : List Word) : Option (Nat × Front) :=
  (List.range 5).findSome? (fun k =>
    let a := Pkt.addr ws (1 + 2 * k)
    if a = 0 then none
    else
      match directRead s (s.queue q).ctx a 4 with
      | .got _ => none
      | .stop va f => some (va, f))

/-- Every earlier packet of the queue has completed. -/
def signalReady (s : State) (q index : Nat) : Bool := (s.queue q).open_.head? == some index

def waitsFor (s : State) (q type : Nat) (t : Nat → List Word → Bool) : Option (Nat × List Word) :=
  (s.queue q).waits.find? (fun p => Pkt.type p.2 == type && t p.1 p.2)

/-- A packet of a type that waits after it has started. -/
def startWaiting (s : State) (q type : Nat) (name : String) : Out :=
  match servedPacket s q (· == type) with
  | none => notNow name
  | some ws =>
    match packetBreak ws with
    | some w => .next (queueError s q 0x1C1 type w)
    | none => .next ((startPacket s q).modQueue q (fun x => { x with waits := x.waits ++ [((s.queue q).read, ws)] }))

/-- A started barrier-and whose records are done completes; one of which a record cannot be read waits for its translation, or meets its
fault (R266, R267); else the one at QREAD starts. -/
def execBarrierAndPacket (q : Nat) (s : State) : Out :=
  match waitsFor s q 3 (fun _ ws => barrierReady s q ws),
      waitsFor s q 3 (fun i ws => !accPending s (.packet q i) && (barrierStop s q ws).isSome) with
  | some (i, _), _ => .next (endBarrier s q i)
  | none, some (i, ws) =>
    match barrierStop s q ws with
    | some (va, .wait st) => .next (frontHold s (.packet q i) noGraph (s.queue q).ctx va st)
    | some (_, .fail c a b) => .next (endBarrier (noteFault s c a b) q i)
    | _ => notNow "BARRIER_AND_PACKET"
  | none, none => startWaiting s q 3 "BARRIER_AND_PACKET"

/-- A signal's value written, then its interrupt and its completion; an address of 0 means none (R313). -/
def writeSignal (s : State) (q index : Nat) (ws : List Word) : State :=
  frontWriteFor (some (q, index)) s noGraph (s.queue q).ctx
    (if Pkt.addr ws 1 = 0 then [] else [(Pkt.addr ws 1, bytesOfWord (nthW ws 3))]) (if Pkt.int ws then some (queueVector q) else none)

/-- A started signal writes its value once the packets before it have completed; else the one at QREAD starts. -/
def execSignalPacket (q : Nat) (s : State) : Out :=
  match waitsFor s q 4 (fun i _ => signalReady s q i) with
  | some (i, ws) => .next (writeSignal (dropWait s q i) q i ws)
  | none => startWaiting s q 4 "SIGNAL_PACKET"

/-! ## Queue registers with an effect (R311, R315); in recovery the part takes no such write (R358) -/

def execQueueDoorbell (q v : Nat) (s : State) : Out :=
  when (decide (q < 64) && !s.recovery) "QUEUE_DOORBELL" (s.modQueue q (fun x => { x with write := v % 2 ^ 32 }))

def execQueueReset (q : Nat) (s : State) : Out :=
  when (decide (q < 64) && !s.recovery) "QUEUE_RESET" (s.modQueue q (fun x => { x with state := 1 }))

def execQueueSkip (q : Nat) (s : State) : Out :=
  when (decide (q < 64) && !s.recovery) "QUEUE_SKIP" (s.modQueue q (fun x => { x with state := 1, read := (x.read + 1) % 2 ^ 32 }))

/-! ## LIVE_DELTA_APPLY (R319) -/

/-- The channels of configuration tokens that a delta names. -/
def tokenPlaces (es : List DEntry) : List (Nat × Nat × Nat) :=
  (es.filter (fun e => Delta.item e.1 == 6)).map (fun e => (Delta.reg e.1, Delta.el e.1, Delta.index e.1))

/-- Step 3: slots and image values of the running stage. -/
def writeEntry (inst : Nat) (s : State) (e : DEntry) : State :=
  let s1 := s.modInst inst (fun i => { i with img := applyImage e i.img })
  if Delta.item e.1 = 0 then
    s1.modElem ⟨inst, Delta.reg e.1, Delta.el e.1⟩ (fun x => { x with slots := kset x.slots (Delta.index e.1) e.2 })
  else s1

/-- Each drained region releases, and each restarted region acquires every release, with the stores that came before it (R280, R289). -/
def exchangeReleases (inst : Nat) (rs : List Nat) (s : State) : State :=
  let r := rs.foldl (fun (p : List Release × State) x =>
    let y := release p.2 (p.2.physReg inst x)
    (p.1 ++ [y.1], y.2)) ([], s)
  joinElems (rs.foldl (fun t x => r.1.foldl (fun t y => acquire t (t.physReg inst x) y) t) r.2)
    ((s.elems.map Prod.fst).filter (fun e => e.inst == inst && rs.contains e.reg))

/-- The entries of a delta for the item a graph is at. -/
def itemEntries (x : GraphInst) (d : LiveDelta) : List DEntry :=
  d.entries.filter (fun e => Delta.item e.1 != 7 && Delta.stage e.1 == x.item)

/-- Steps 3 and 4 for a running stage whose touched regions have drained; the resets of a region that another delta waits for stay held. -/
def applyLive (s : State) (x : GraphInst) (inst : Nat) (d : LiveDelta) : State :=
  let rs := touched x d.entries
  let s1 := rs.foldl (fun t r => widenRegion t inst r .part) s
  let s2 := exchangeReleases inst rs ((itemEntries x d).foldl (writeEntry inst) s1)
  s2.modInst inst (fun i => { i with held :=
      if i.marked then i.held
      else if i.img.clocked then i.held.filter (fun r => !rs.contains r)
      else (removeFirst (fun y => !y.applied) x.live |>.filter (fun y => !y.applied) |>.flatMap (fun y => touched x y.entries)).eraseDups })

/-- The touched regions have drained (step 2). -/
def liveReady (s : State) (x : GraphInst) (inst : Nat) (d : LiveDelta) : Bool :=
  if (s.inst inst).img.clocked then instantDue s inst else drained s inst (touched x d.entries).contains

/-- The configuration token of a delta (R34). -/
def liveTok (d : LiveDelta) : Token := ⟨wd (3 * 2 ^ 24 + (Config.deltaSeq d.seq).toNat), 3, false, none, none⟩

/-- Tokens go to the tails of their channels in the order of their deltas, each once its channel has a place beside those that tokens in
flight have taken (R369): what is left of one delta's places, with the channels that an earlier token still waits for. -/
def giveToks (inst : Nat) (t : Token) : List (Nat × Nat × Nat) → List (Nat × Nat × Nat) → State →
    State × List (Nat × Nat × Nat)
  | [], _, s => (s, [])
  | p :: ps, wait, s =>
    let e : ERef := ⟨inst, p.1, p.2.1⟩
    if !wait.contains p && destRoom s inst p.1 p.2.1 p.2.2 then giveToks inst t ps wait (s.modElem e (fun y => y.pushIn p.2.2 t))
    else
      let r := giveToks inst t ps (p :: wait) s
      (r.1, p :: r.2)

def giveAll (inst : Nat) : List LiveDelta → List (Nat × Nat × Nat) → State → State × List LiveDelta
  | [], _, s => (s, [])
  | d :: ds, wait, s =>
    let r := giveToks inst (liveTok d) d.toks wait s
    let q := giveAll inst ds (wait ++ r.2) r.1
    (q.1, { d with toks := r.2 } :: q.2)

/-- Step 5 as far as it can go, and the completion of the deltas that are through with it. -/
def serveLive (s : State) (gi : Nat) : State :=
  let x := s.graph gi
  let r := match x.stage with
    | some k => giveAll k x.live [] s
    | none => (s, x.live.map (fun (d : LiveDelta) => { d with toks := [] }))
  let through (d : LiveDelta) : Bool := d.applied && d.toks == []
  let t := r.1.modGraph gi (fun x => { x with live := r.2.filter (fun d => !through d) })
  (r.2.filter through).foldl (fun (t : State) (d : LiveDelta) => completeOrigin t d.origin x.ctx d.comp d.int 0 0) t

/-- The first live delta that is not applied; the images of its graph take its entries, and its places are those of the running stage. -/
def takeLive (s : State) (gi : Nat) (d : LiveDelta) (toks : List (Nat × Nat × Nat)) : State :=
  s.modGraph gi (fun x =>
    { x with
      graph := applyDelta d.entries x.graph
      live := replaceFirst (fun y => !y.applied) (fun y => { y with applied := true, toks := toks }) x.live })

/-- Some configuration token can go to its channel. -/
def tokDue (s : State) (x : GraphInst) : Bool :=
  match x.stage with
  | none => x.live.any (fun d => d.applied)
  | some k => x.live.any (fun d => d.toks.any (fun p => destRoom s k p.1 p.2.1 p.2.2))

/-- A live delta is applied at its safe point, or its configuration tokens go on; it completes when all of them are delivered. -/
def execLiveDeltaApply (gi : Nat) (s : State) : Out :=
  let x := s.graph gi
  if s.leads = false ∨ x.fault.isSome then notNow "LIVE_DELTA_APPLY"
  else
    match x.live.find? (fun d => !d.applied), x.stage with
    | none, _ => when (tokDue s x) "LIVE_DELTA_APPLY" (serveLive s gi)
    | some d, none => .next (serveLive (takeLive s gi d []) gi)
    | some d, some k =>
      if (s.inst k).status = .running ∧ touched x d.entries ≠ [] then
        if liveReady s x k d then .next (serveLive (takeLive (applyLive s x k d) gi d (tokenPlaces (itemEntries x d))) gi)
        else when (tokDue s x) "LIVE_DELTA_APPLY" (serveLive s gi)
      else
        .next (serveLive (takeLive (s.modInst k (fun i =>
          { i with img := (itemEntries x d).foldl (fun g e => applyImage e g) i.img })) gi d []) gi)

/-! ## GRAPH_ITEM_END (R321) -/

/-- The graph completes: its record, and the live deltas that no stage is left for (R314, R319) (log 41). -/
def completeGraph (s : State) (gi : Nat) : State :=
  let x := s.graph gi
  let s1 := x.live.foldl (fun t d => completeOrigin t d.origin x.ctx d.comp d.int 0 0) s
  let s2 := s1.modGraph gi (fun x => { x with done := true, live := [], conds := [], stage := none, call := none })
  completeOrigin s2 x.origin x.ctx x.comp x.int 0 x.xdrop

/-- Where the graph goes after its item. -/
def nextItem (x : GraphInst) : Nat :=
  match x.graph.items[x.item]? with
  | some (.cond w i) => if kget 0 x.conds w ≠ 0 then i else x.item + 1
  | _ => x.item + 1

/-- The item has ended (R321); a stage's state is gone with it. -/
def itemEnded (s : State) (gi : Nat) : Bool :=
  let x := s.graph gi
  match x.graph.items[x.item]? with
  | some (.stage _) => (x.stage.map (fun k => (s.inst k).status == .ended)).getD false
  | some (.copy _) => kget [] s.copies (chanKey 9 gi) == []
  | some (.exchange g) =>
    match slotOf s x.ctx g with
    | some k => (s.group k).round.isNone
    | none => true
  | some (.collective _ _ _) => (x.call.map (fun c => !callOpen s c.1 c.2)).getD false
  | some (.cond _ _) => true
  | none => true

/-- The node-boundary edge: every operation of the item is performed at system scope, and the next starts (R280). -/
def advanceGraph (s : State) (gi : Nat) : State :=
  let x := s.graph gi
  let s1 := match x.stage with
    | some k => { widenInst s k .system with insts := kdel s.insts k }
    | none => s
  let s2 := { s1 with colls := s1.colls.filter (fun p => p.2.inst.isSome || p.2.graph != gi) }
  let s3 := s2.modGraph gi (fun x =>
    { x with item := nextItem x, stage := none, call := none, live := x.live.map (fun d => { d with toks := [] }) })
  if nextItem x < x.graph.items.length then startItem s3 gi else completeGraph s3 gi

/-- An item that has ended is followed by the next; a collective node whose object could not be read yet starts here. Both are the front end's,
which does nothing while no core leads (R356). -/
def execGraphItemEnd (gi : Nat) (s : State) : Out :=
  let x := s.graph gi
  if s.leads = false ∨ khas s.graphs gi = false ∨ x.done ∨ x.fault.isSome ∨ accPending s (.node gi) then notNow "GRAPH_ITEM_END"
  else if itemEnded s gi then .next (advanceGraph s gi)
  else
    match x.graph.items[x.item]?, x.call with
    | some (.collective _ obj base), none => .next (startNodeCall s gi obj base)
    | _, _ => notNow "GRAPH_ITEM_END"

/-! ## The pending-launch store (R322, R325) -/

/-- The first entry of the lowest class; one the front end refuses does not run, and its cause goes to its record. -/
def execPendingLaunchTake (s : State) : Out :=
  let c := (List.range 4).find? (fun c => s.pendLaunch.any (fun p => p.cls == c))
  match c.bind (fun c => s.pendLaunch.find? (fun p => p.cls == c)) with
  | none => notNow "PENDING_LAUNCH_TAKE"
  | some p =>
    if s.leads = false ∨ serves s ≠ some none ∨ accPending s (.queue (pendQueue p.num)) then notNow "PENDING_LAUNCH_TAKE"
    else
      let take (t : State) : State :=
        { t with
          queues := kdel t.queues (pendQueue p.num)
          pendLaunch := removeFirst (fun y => y.num == p.num) t.pendLaunch }
      let refuse (cause : Nat) : Out := .next (writeCompletion (countFault (take s) cause) p.ctx (Pkt.addr p.words 7) cause 0 none)
      match launch s (s.queue (pendQueue p.num)).failed (.glaunch p.q p.index p.num) p.q p.ctx p.cls p.words take with
      | .refused cause _ => refuse cause
      | .holds va st => .next (frontHold s (.queue (pendQueue p.num)) noGraph p.ctx va st)
      | .started t => .next t

def sinkY (f : FmtY) : Sink := ⟨f.dst, 0, f.pu, f.ps⟩

/-- glaunch (R325): its result carries SA's flag by the write-back of R146. Launches of one cycle are numbered in element order. -/
def workGlaunch (f : FmtY) : Work := fun j s => do
  let va ← ptrVA j j.src.a 64 s
  let s0 ← settled j .part s
  let (ws, s1) ← readWords (jobRq j s0) va 16 s0
  if Pkt.type ws ≠ 1 ∨ (packetBreak ws).isSome then trap0 0x03B
  else if s1.inTurn .host (actKey j.e) = false then .error (waitHere (.element j.e) s1)
  else if 64 ≤ s1.pendLaunch.length then .ok ((⟨0xFFFFFFFF, j.src.fa, false⟩ : Res), s1)
  else
    let i := s1.inst j.e.inst
    let o : Nat × Nat := match (s1.graph i.graph).origin with
      | .queue q k => (q, k)
      | .glaunch q k _ => (q, k)
    let p : PendLaunch := ⟨s1.launchNo, bits f.idx 1 0, i.ctx, o.1, o.2, ws⟩
    let s2 : State := { s1 with pendLaunch := s1.pendLaunch ++ [p], launchNo := s1.launchNo + 1 }
    .ok ((⟨wd s1.launchNo, j.src.fa, true⟩ : Res), s2.act .host (actKey j.e))

def execGlaunch (f : FmtY) (s : State) : Out :=
  .next (waiting s (.glaunch f) f.sa 13 false false (sinkY f) (workGlaunch f))

/-- gcond: the condition word is swapped, in element order where several come in one cycle (R325, R327). -/
def wkGcond (f : FmtY) (x : Src) (s : State) : Except Stop (Res × State) :=
  let gi := (s.inst s.cur.inst).graph
  let n := f.idx.toNat
  if s.inTurn .host (actKey s.cur) = false then .error .wait
  else
    .ok (word (kget 0 (s.graph gi).conds n),
      (s.modGraph gi (fun y => { y with conds := kset y.conds n x.a })).act .host (actKey s.cur))

def execGcond (f : FmtY) (s : State) : Out := runY f s (wkGcond f)

/-! ## Host rings and mailboxes (R323 to R325) -/

def State.ring (s : State) (n : Nat) : Ring := kget {} s.rings n
def State.modRing (s : State) (n : Nat) (f : Ring → Ring) : State := { s with rings := kset s.rings n (f (s.ring n)) }
def State.mailbox (s : State) (n : Nat) : Mail := kget {} s.mail n

/-- A record written and RPROD advanced; the first since the last interrupt starts the timer (R324). -/
def appendRing (s : State) (n : Nat) (ws : List Word) : State :=
  let x := s.ring n
  let s1 := writeThrough s (keyed (hostKey (x.base + 32 * (x.prod.toNat % 2 ^ x.size))) (bytesOfWords ws))
  s1.modRing n (fun x =>
    { x with prod := x.prod + 1, u := x.u + 1, timer := if x.timer.isNone then some s.now else x.timer })

def workHrapp (f : FmtY) : Work := fun j s =>
  let n := f.idx.toNat
  let x := s.ring n
  let i := s.inst j.e.inst
  if x.size = 0 ∨ x.ctx ≠ i.ctx then trap0 0x03C
  else if (x.prod - x.cons).toNat = 2 ^ x.size then .error .wait
  else
    match settled j .system s with
    | .error e => .error e
    | .ok s1 =>
      if s.inTurn .host (actKey j.e) = false then .error .wait else
      .ok (noRes, appendRing (s1.act .host (actKey j.e)) n [j.src.a, if i.img.clocked then i.icnt else 0, coordOf j.e.reg j.e.el, x.prod, 0, 0, 0, 0])

def execHrapp (f : FmtY) (s : State) : Out :=
  .next (waiting s (.hrapp f) f.sa 13 false false (sinkY f) (workHrapp f))

/-- A value posted to a mailbox (R325). -/
def postMail (s : State) (n : Nat) (v : Word) : State :=
  let m := s.mailbox n
  if m.pend then { s with mail := kset s.mail n { m with value := v, ovr := min (m.ovr + 1) 0xFFFF } }
  else raiseIrq { s with mail := kset s.mail n { m with value := v, pend := true } } (mailVector n)

def workIntr (f : FmtY) : Work := fun j s =>
  match settled j .system s with
  | .error e => .error e
  | .ok s1 =>
    if s.inTurn .host (actKey j.e) = false then .error .wait
    else .ok (noRes, postMail (s1.act .host (actKey j.e)) f.idx.toNat j.src.a)

def execIntr (f : FmtY) (s : State) : Out :=
  .next (waiting s (.intr f) f.sa 13 false false (sinkY f) (workIntr f))

def ringInterrupt (s : State) (n : Nat) : State :=
  raiseIrq (s.modRing n (fun x => { x with u := 0, timer := none })) (s.ring n).vec

/-- U reaches C (R324). -/
def execRingCountInterrupt (n : Nat) (s : State) : Out :=
  let x := s.ring n
  when (decide (n < 16) && decide (0 < x.u) && decide (bits x.coal 31 16 ≤ x.u)) "RING_COUNT_INTERRUPT" (ringInterrupt s n)

/-- T has passed since the first record (R324), in units of 0.1 microseconds. -/
def execRingTimerExpiry (n : Nat) (s : State) : Out :=
  match (s.ring n).timer with
  | none => notNow "RING_TIMER_EXPIRY"
  | some t => when (decide (t + bits (s.ring n).coal 13 0 * 100 ≤ s.now)) "RING_TIMER_EXPIRY" (ringInterrupt s n)

/-- A host write of 0 to PEND (R325). -/
def execMailboxClear (n : Nat) (s : State) : Out :=
  when (decide (n < 16) && !s.recovery) "MAILBOX_CLEAR" { s with mail := kset s.mail n { s.mailbox n with pend := false } }

end Sys2Proof.Machine
end

