-- ==== Sys2Proof/Machine/FaultEnd.lean ====
section
/-! DEFINITION. How a fatal fault ends a graph, and the graph error record (spec/23_faults_traps.md R343 to R349). -/

namespace Sys2Proof.Machine

/-- The stage of a graph, as an element reference's stage; none between stages. -/
def graphStage (s : State) (gi : Nat) : Option Nat := (s.graph gi).stage

/-- An element of the graph's stage. -/
def inGraph (s : State) (gi : Nat) (e : ERef) : Bool := graphStage s gi == some e.inst

/-- A copy at the head of its channel cannot go on by itself: an access of it is held, or it waits for what nothing is to bring about. -/
def headBlocked (s : State) (die ch : Nat) (j : CopyJob) : Bool :=
  let u : State := { s with acted := [] }
  s.accs.any (fun a => a.req == .copy die ch && stuck a) ||
  (!accPending s (.copy die ch) && blocked (if j.started then execCopyEnd die ch u else execCopyStart die ch u))

/-- The copies of a graph in a channel go on: its head is another's, or one that can. -/
def channelOpen (s : State) (gi : Nat) (p : Nat × List CopyJob) : Bool :=
  p.2.any (fun j => jobGraph s j == some gi) &&
  (match p.2 with
   | [] => false
   | j :: _ => jobGraph s j != some gi || !headBlocked s (p.1 / 64) (p.1 % 64) j)

/-- A wellhead command that was accepted goes on until it is complete or an access of it is held (log 51). -/
def wellOpen (s : State) (r : RRef) (c : WellCmd) : Bool :=
  c.state == 0 && !s.accs.any (fun a => stuck a && (match a.req with
    | .wellhead r' seq _ => r' == r && seq == c.seq
    | _ => false))

/-- What was accepted before its requester stopped and is not complete: it completes first (R343 step 2, R344) (log 51). -/
def acceptedOpen (s : State) (gi : Nat) : Bool :=
  s.copies.any (channelOpen s gi) ||
  s.elems.any (fun p => inGraph s gi p.1 && p.2.firing.isSome) ||
  s.tileReqs.any (fun p => p.2.any (fun r => inGraph s gi r.e)) ||
  s.engines.any (fun p => p.2.reqs.any (fun r => ((issuerOf s r.req).map (inGraph s gi)).getD false)) ||
  s.regions.any (fun p => graphStage s gi == some p.1.inst && p.2.wells.any (wellOpen s p.1))

/-- A channel whose head is a copy of the graph that cannot go on, with another of the graph behind it. -/
def blockedChannel (s : State) (gi : Nat) : Option (Nat × Nat) :=
  (s.copies.find? (fun p =>
    match p.2 with
    | j :: js => jobGraph s j == some gi && js.any (fun k => jobGraph s k == some gi)
    | [] => false)).map (fun p => (p.1 / 64, p.1 % 64))

/-! ## Step 3: calls, rounds and holds -/

/-- The graph's calls of a slot leave it with the packets that have come for them, and an abort packet for each goes to every other member
(R192 step 6). -/
def abortCalls (s : State) (gi slot : Nat) : State :=
  let g := s.group slot
  let mine := g.calls.filter (fun c => c.graph == gi)
  if mine = [] then s
  else
    let s1 := send s (mine.flatMap (fun c =>
      ((List.range g.p).filter (· != g.rank)).map (fun k => .abort slot k c.num 0x1A2)))
    let s2 := s1.modGroup slot (fun g =>
      { g with
        calls := g.calls.filter (fun c => c.graph != gi)
        starts := g.starts.filter (fun p => !mine.any (fun c => c.num == p.2.num))
        chunks := g.chunks.filter (fun p => !mine.any (fun c => c.num == p.num)) })
    if (g.calls.head?.map (fun c => c.graph == gi)).getD false then sendStarts s2 slot else s2

/-- The graph's open round of a slot ends with its abort packets, and its calendar with it (R227, R240). -/
def abortOwnRound (s : State) (gi slot : Nat) : State :=
  match (s.group slot).round with
  | none => s
  | some r =>
    if inGraph s gi r.el then
      (abortRound s slot r.num 0x181).modGroup slot (fun g => { g with round := none, nextLand := none, lapsedIn := [], calendar := none })
    else s

/-- A requester works for the graph. -/
def ofGraph (s : State) (gi : Nat) : Req → Bool
  | .copy die ch => (s.copyHead die ch).bind (jobGraph s) == some gi
  | .collective slot num => (s.group slot).calls.any (fun c => c.num == num && c.graph == gi)
  | .exchange slot _ => ((s.group slot).round.map (fun r => inGraph s gi r.el)).getD false
  | .node g => g == gi
  | .front n => s.fronts.any (fun p => p.1 == n && p.2.graph == gi)
  | .queue _ | .packet _ _ => false
  | r => ((graphStage s gi).map (fun k => ofInst k r)).getD false

/-- Some accesses are dropped, and leave their holds; a hold that then has none closes (R343 step 3). -/
def leaveWhere (s : State) (mine : Acc → Bool) : State :=
  let accs := s.accs.filter (fun a => !mine a)
  { s with
    accs := accs
    holds := s.holds.filter (fun p =>
      !(s.accs.filter mine).any (fun a => a.st == .held p.1) || accs.any (fun a => a.st == .held p.1)) }

/-- The copy at the head of a channel is dropped, so that those behind it go on. -/
def passHead (s : State) (die ch : Nat) : State :=
  dropHead (dropJournal (leaveWhere s (fun a => a.req == .copy die ch)) (.copy die ch)) die ch

/-- The graph's accesses leave every hold, and what its front end had still to write is dropped: a record so lost does not count as
written (R163, R343). -/
def leaveHolds (s : State) (gi : Nat) : State :=
  let t := dropRecords s gi
  { dropReqs (leaveWhere t (fun a => a.graph == gi || ofGraph t gi a.req)) (ofGraph t gi) with
    fronts := t.fronts.filter (fun p => p.2.graph != gi) }

def abortAll (s : State) (gi : Nat) : State :=
  (List.range 16).foldl (fun t k => abortOwnRound (abortCalls t gi k) gi k) (leaveHolds s gi)

/-! ## Step 4: the records -/

def originQueue : Origin → Nat
  | .queue q _ => q
  | .glaunch q _ _ => q

def originIndex : Origin → Nat
  | .queue _ i => i
  | .glaunch _ i _ => i

/-- The 64 words of an error record (R348). -/
def errorRecord (index nflt : Nat) (f : FaultRec) : List Word :=
  [wd (f.engine * 2 ^ 28 + (if f.prec then 2 ^ 27 else 0) + f.cause), wd index, f.coord, wd (f.reg * 2 ^ 24 + f.slot), f.handle,
    wd f.addr, wd (f.addr / 2 ^ 32 % 2 ^ 24), f.info, f.info2, f.icnt, wd nflt, wd f.cycle, wd (f.cycle / 2 ^ 32)] ++
  List.replicate 19 0 ++ (List.range 32).map (nthW f.qrep)

/-- The record stands in its place of the queue's four, and ERRCNT counts it (R347). -/
def writeErrorRecord (s : State) (q : Nat) (ws : List Word) : State :=
  let n := kget 0 s.errCnt q
  { s with
    errRecs := kset s.errRecs (q * 4 + n.toNat % 4) ws
    errCnt := kset s.errCnt q (n + 1) }

/-- COUNT and LOST of the exception log (R163). -/
def writeLogHeader (s : State) (gi : Nat) : State :=
  let x := s.graph gi
  if x.elog = 0 then s else frontWrite s gi x.ctx [(x.elog, leBytes 4 x.xcount ++ leBytes 4 x.xlost)] none

/-! ## Step 5 -/

/-- What the graph's stage held is gone: its regions, tiles, calls' objects, copies, wellhead commands, saved tiles. -/
def freeGraph (s : State) (gi : Nat) : State :=
  let s1 := match graphStage s gi with
    | none => s
    | some k =>
      let t := clearStage (widenInst s k .system) k
      { t with insts := kdel t.insts k, wells := t.wells.map (fun (p : Nat × List (RRef × Nat)) =>
          (p.1, p.2.filter (fun r => r.1.inst != k))) }
  { s1 with
    copies := kdel (s1.copies.map (fun (p : Nat × List CopyJob) => (p.1, p.2.filter (fun j =>
      match j.who with
      | .elem e _ => !inGraph s gi e
      | _ => true)))) (chanKey 9 gi)
    colls := s1.colls.filter (fun p => p.2.inst.isSome || p.2.graph != gi)
    sched := { s1.sched with due := true } }

/-- The graph's completion record and those of its live deltas, with the cause (R314, R343 step 5). -/
def completeFaulted (s : State) (gi cause : Nat) : State :=
  let x := s.graph gi
  let s1 := s.modGraph gi (fun x => { x with done := true, live := [], conds := [], stage := none, call := none })
  completeOrigin (x.live.foldl (fun t d => completeOrigin t d.origin x.ctx d.comp d.int cause 0) s1) x.origin x.ctx x.comp x.int
    cause x.xdrop

/-- Steps 3 to 5 of R343. -/
def endFaulted (s : State) (gi : Nat) (f : FaultRec) : State :=
  let x := s.graph gi
  let s1 := writeErrorRecord (abortAll s gi) (originQueue x.origin) (errorRecord (originIndex x.origin) x.nflt f)
  completeFaulted (freeGraph (writeLogHeader s1 gi) gi) gi f.cause

/-- The graph ends once what was accepted is complete; its contractions end first, in STATE 4. A product whose writes had begun, and the
clearing of a header, are waited for where a hold keeps them, until the host resolves it (R132, R134). -/
def execFatalFaultGraphEnd (gi : Nat) (s : State) : Out :=
  let x := s.graph gi
  match x.fault with
  | none => notNow "FATAL_FAULT_GRAPH_END"
  | some f =>
    if x.done ∨ acceptedOpen s gi then notNow "FATAL_FAULT_GRAPH_END"
    else
      match blockedChannel s gi, x.stage with
      | some p, _ => .next (passHead s p.1 p.2)
      | none, none => .next (endFaulted s gi f)
      | none, some k =>
        let s1 := abandonCons s k
        if consEnding s1 k then (if s1.regions = s.regions then notNow "FATAL_FAULT_GRAPH_END" else .next s1)
        else .next (endFaulted s1 gi ((s1.graph gi).fault.getD f))

end Sys2Proof.Machine
end

