-- ==== Sys2Proof/Machine/Firmware.lean ====
section
/-! DEFINITION. Boot and reset, the leader lease and the mirror, attestation, margins, errors and links, the lifetime record
(spec/24_firmware_and_part.md R354 to R363). -/

namespace Sys2Proof.Machine

/-! ## The lifetime record (R363) -/

def satAdd (cap a b : Nat) : Nat := min cap (a + b)

def cap32 : Nat := 0xFFFFFFFF

/-- Every counter of a map grows by another's. -/
def addCounts {κ : Type} [DecidableEq κ] (cap : Nat) (m n : AMap κ Nat) : AMap κ Nat :=
  n.foldl (fun m p => kset m p.1 (satAdd cap (kget 0 m p.1) p.2)) m

/-- One record's counts added to another's. -/
def addLife (a b : Life) : Life :=
  { hours := satAdd cap32 a.hours b.hours
    boots := satAdd cap32 a.boots b.boots
    leaders := satAdd cap32 a.leaders b.leaders
    fencedCnt := satAdd cap32 a.fencedCnt b.fencedCnt
    temp := addCounts cap32 a.temp b.temp
    volt := addCounts cap32 a.volt b.volt
    fault := addCounts cap32 a.fault b.fault
    link := addCounts cap32 a.link b.link
    ecc := addCounts 0xFFFF a.ecc b.ecc }

/-- Counts that no core has added to the record yet. -/
def State.count (s : State) (b : Life) : State := { s with lifePend := addLife s.lifePend b }

/-- What is pending joins the record. -/
def flushLife (s : State) : State := { s with life := addLife s.life s.lifePend, lifePend := {} }

/-- A core gives a sign of life (R357 FWALIVE). -/
def beat (s : State) (core : Nat) : State := { s with fw := { s.fw with beats := kset s.fw.beats core s.now } }

/-- FWALIVE: the cores that gave one within 5 ms (log 47). -/
def fwAlive (s : State) : Nat :=
  (List.range 10).foldl (fun a c =>
    a + (if khas s.fw.beats c ∧ s.now ≤ kget 0 s.fw.beats c + 5000000 then 2 ^ c else 0)) 0

/-- When the lease lapses or has lapsed (R355). -/
def State.lapseTime (s : State) : Nat := if s.fw.leader.isNone then s.fw.lapsedAt else s.fw.renewed + 5000000

def State.leaseHeld (s : State) : Bool := s.fw.leader.isSome && decide (s.now < s.lapseTime)

/-- FWLEAD: the term and the leader; all ones while no core leads (R355, R357). -/
def fwLead (s : State) : Word :=
  if s.leaseHeld then wd (s.fw.term * 2 ^ 8 + s.fw.leader.getD 0) else 0xFFFFFFFF

/-- A verified image of the core runs (R358). -/
def coreRuns (s : State) (core : Nat) : Bool :=
  decide (core < 10) && s.fw.bootst == 3 && s.fw.cores.testBit core

/-- Every 60 s a core adds its counts and what is pending. -/
def execLifetimeRecordUpdate (core : Nat) (u : LifeUpdate) (s : State) : Out :=
  when (coreRuns s core) "LIFETIME_RECORD_UPDATE"
    (beat (flushLife (s.count
      { hours := u.hours
        temp := u.temps.map (fun p => ((p.1, p.2.1), p.2.2))
        volt := u.volts.map (fun p => ((p.1, p.2.1), p.2.2)) })) core)

/-- A place the record has a count for. -/
def eccPlaced : EccPlace → Bool
  | .cistern d b => d < 8 && b < 64
  | .hbm st c => st < 8 && c < 64
  | .element r e b => r < 192 && e < 64 && b < 32

/-- Offset, bytes and value of every count of the record that is not 0 by its layout (R363). -/
def lifeFields (l : Life) : List (Nat × Nat × Nat) :=
  [(0, 4, 0x4C520001), (4, 4, l.hours), (8, 4, l.boots), (12, 4, l.leaders), (16, 4, l.fencedCnt)] ++
  (l.temp.filter (fun p => p.1.1 < 10 && p.1.2 < 16)).map (fun p => (64 + 4 * (p.1.1 * 16 + p.1.2), 4, p.2)) ++
  (l.volt.filter (fun p => p.1.1 < 10)).map (fun p => (704 + 8 * p.1.1 + (if p.1.2 then 0 else 4), 4, p.2)) ++
  (l.fault.filter (fun p => p.1 < 512)).map (fun p => (784 + 4 * p.1, 4, p.2)) ++
  (l.link.filter (fun p => p.1 < 49)).map (fun p => (2832 + 4 * p.1, 4, p.2)) ++
  (l.ecc.filter (fun p => eccPlaced p.1)).map (fun p =>
    match p.1 with
    | .cistern d b => (3072 + 2 * (d * 64 + b), 2, p.2)
    | .hbm st c => (4096 + 2 * (st * 64 + c), 2, p.2)
    | .element r e b => (5120 + 2 * ((r * 64 + e) * 32 + b), 2, p.2))

/-- The record's length in bytes. -/
def lifeBytes : Nat := 791552

/-- The record copied to a host address, performed at system scope. -/
def copyRecord (s : State) (a : Nat) : State :=
  let k := hostKey a
  let bs := (lifeFields s.life).flatMap (fun f => keyed (k + f.1) (leBytes f.2.1 f.2.2))
  { s with
    mem := memPutAll (memClear s.mem k lifeBytes) bs
    stores := (s.stores.map (fun p => { p with bytes := p.bytes.filter (fun q => q.1 < k || k + lifeBytes ≤ q.1) })).filter
      (fun p => p.bytes != []) }

/-- LRBASE as R357 states it: 4 KiB aligned, [31:24] of its high word 0. -/
def lrbaseOk (a : Nat) : Bool := a % 4096 == 0 && decide (a < 2 ^ 56)

/-- A write of LRCMD with GO makes it BUSY, or sets FAIL where LRBASE breaks R357 (R363). -/
def lrGo (s : State) : State :=
  { s with fw := if lrbaseOk s.fw.lrbase then { s.fw with lrbusy := true, lrdone := false, lrfail := false }
                 else { s.fw with lrdone := false, lrfail := true } }

/-- The record is copied, and DONE is set. -/
def lrCopy (s : State) : State :=
  let t := copyRecord s s.fw.lrbase
  { t with fw := { t.fw with lrbusy := false, lrdone := true } }

/-- LRCMD with GO (R357, R363): while it is BUSY, its copy is made; else it is written. The part in recovery takes no such write (R358). -/
def execLrcmdGo (s : State) : Out :=
  if s.fw.lrbusy then .next (lrCopy s) else when (!s.recovery) "LRCMD_GO" (lrGo s)

/-! ## Boot and reset (R356, R358) -/

/-- What is outside the part: CXL memory, host memory, peers' memory. -/
def outside (k : Nat) : Bool := 2 ≤ homeOfKey k && homeOfKey k ≤ 1027

/-- The part right after a reset: the record, the fuses, and what is outside the part stay. -/
def resetKeeping (s : State) (life : Life) : State :=
  { State.reset with
    life := life
    fw := { State.reset.fw with svn := s.fw.svn, keyHash := s.fw.keyHash, lapsedAt := s.now }
    mem := s.mem.filter (fun p => outside p.1)
    agenda := s.agenda
    now := s.now
    oracle := s.oracle
    fresh := s.fresh }

/-- The supply is lost: counts not added yet are lost (R363). -/
def execPowerLoss (s : State) : Out := .next (resetKeeping s s.life)

/-- An orderly reset: the leader has not renewed for 1 ms; each core adds its counts (R356, R363). -/
def execOrderlyReset (s : State) : Out :=
  when (s.fw.on && decide (s.fw.renewed + 1000000 ≤ s.now)) "ORDERLY_RESET"
    (resetKeeping s (addLife s.life s.lifePend))

/-- The header of an image (R359). -/
def ImgHdr.svn (h : List Word) : Nat := bits (nthW h 1) 31 16
def ImgHdr.core (h : List Word) : Nat := bits (nthW h 1) 15 0
def ImgHdr.len (h : List Word) : Nat := (nthW h 2).toNat
def ImgHdr.sigoff (h : List Word) : Nat := (nthW h 15).toNat

/-- The header is one of R359 for its payload: 16 words, the first stage's with CORE 0 and another's not. -/
def ImgHdr.ok (first : Bool) (x : BootImage) : Bool :=
  x.header.length == 16 && nthW x.header 0 == 0x5CEF0B07 && (ImgHdr.core x.header == 0) == first &&
  ImgHdr.len x.header == x.bytes && x.bytes % 64 == 0 && (x.header.drop 3).take 12 == x.digest

/-- The bytes of an RSA-3072 signature, behind which the SLH-DSA one stands (R359). -/
def rsaBytes : Nat := 384

/-- Why an image does not run: the reason of BOOTST (R358), its checks in the order of R358; the signatures stand where SIGOFF says (R359). -/
def imageReason (fuse keyHash : Nat) (first : Bool) (x : BootImage) : Option Nat :=
  if ImgHdr.ok first x = false then some 1
  else if x.rsaAt.contains (ImgHdr.sigoff x.header) = false then some 2
  else if x.slhAt.contains (ImgHdr.sigoff x.header + rsaBytes) = false then some 3
  else if x.keyHash ≠ keyHash then some 5
  else if ImgHdr.svn x.header < fuse then some 4
  else none

/-- Why the first stage does not run (R358 steps 1 to 3). -/
def firstReason (fuse keyHash : Nat) (xs : List BootImage) : Option Nat :=
  match xs.head? with
  | none => some 1
  | some x => imageReason fuse keyHash true x

/-- Why the first of the other images that fails does not run (R358 step 4) (log 46). -/
def restReason (fuse keyHash : Nat) (xs : List BootImage) : Option Nat := (xs.drop 1).findSome? (imageReason fuse keyHash false)

/-- What an image measures as: its header, which holds its version and the digest of its payload (log 46). -/
def imageMeasure (x : BootImage) : Nat := leNat (bytesOfWords x.header)

/-- The cores that the images run on. -/
def imageCores (xs : List BootImage) : Nat := xs.foldl (fun m x => m ||| ImgHdr.core x.header) 0

/-- The measurement blocks (R360): each depends on what it measures alone. -/
def measureBlocks (images : List BootImage) (svn keyHash : Nat) : KMap Nat :=
  [(1, Config.romMeasure), (2, (images.head?.map imageMeasure).getD 0)] ++
  (List.range 10).filterMap (fun c =>
    (images.drop 1).findSome? (fun x =>
      if (ImgHdr.core x.header).testBit c then some (3 + c, imageMeasure x) else none)) ++
  [(13, keyHash * 2 ^ 16 + svn)]

/-- A region's margin as measured: steps of 5 mV, at most ten; a region that needs more is fenced (R361). -/
def setMargin (s : State) (reg steps : Nat) : State :=
  let s1 := { s with fw := { s.fw with measuredAt := kset s.fw.measuredAt reg s.now } }
  if steps ≤ 10 then { s1 with fw := { s1.fw with margins := kset s1.fw.margins reg (5 * steps) } }
  else
    if s1.fenced.contains reg then s1 else { s1.count { fencedCnt := 1 } with fenced := reg :: s1.fenced }

/-- Every region is measured at boot (R361). -/
def bootMargins (s : State) (steps : List Nat) : State :=
  ((List.range 192).zip steps).foldl (fun t p => setMargin t p.1 p.2) s

/-- The part once every image is verified: the fused SVN risen where an image asks for it, kept to its 16 bits, the lease lapsed from here
(R355, R357, R358, R360). -/
def booted (s : State) (b : BootInput) : State :=
  let svn := max s.fw.svn (b.askSvn.getD 0 % 2 ^ 16)
  { s with fw := { s.fw with
      on := true, boot := none, bootst := 3, reason := 0, svn := svn, cores := imageCores b.images, devKey := Config.deviceKey s.fresh
      measures := measureBlocks b.images svn s.fw.keyHash, leader := none, ready := false, lapsedAt := s.now }
           fresh := s.fresh + 1 }

/-- A stage of the boot is over: BOOTST goes on, or the part is left in recovery with a reason (R357, R358). -/
def bootTo (s : State) (stage : Nat) : Option Nat → State
  | none => { s with fw := { s.fw with bootst := stage } }
  | some r => { s with fw := { s.fw with boot := none, bootst := 15, reason := r } }

/-- The next stage of the boot under way: the first stage verified, all images verified, the cores running (R357 BOOTST, R358). -/
def bootStep (s : State) (b : BootInput) : State :=
  match s.fw.bootst with
  | 0 => bootTo s 1 (firstReason s.fw.svn s.fw.keyHash b.images)
  | 1 => bootTo s 2 (restReason s.fw.svn s.fw.keyHash b.images)
  | _ => bootMargins (booted s b) b.margins

/-- Secure boot, a stage at each step from the ROM's on (R357, R358) (log 64); the switches give the part its address (R190). -/
def execPowerOn (b : BootInput) (s : State) : Out :=
  if s.fw.on then when (s.fw.boot == some b) "POWER_ON" (bootStep s b)
  else
    when (b.margins.length == 192) "POWER_ON"
      { s.count { boots := 1 } with naddr := b.naddr % 2 ^ 32, fw := { s.fw with on := true, boot := some b, bootst := 0, reason := 0 } }

/-- SPDM: the measurements asked for, as they stand, signed under the device key of this boot (R360). -/
def execSpdmRequest (blocks : List Nat) (s : State) : Out :=
  let ms := blocks.filterMap (fun k => if khas s.fw.measures k then some (k, kget 0 s.fw.measures k) else none)
  when (s.fw.bootst == 3) "SPDM_REQUEST"
    { s with fw := { s.fw with reports := s.fw.reports ++ [(Config.spdmSign s.fw.devKey ms, ms)] } }

/-! ## The lease and the mirror (R355, R356) -/

/-- The leader renews. -/
def execLeaseRenew (s : State) : Out :=
  when (s.leaseHeld) "LEASE_RENEW"
    (beat { s with fw := { s.fw with renewed := s.now } } (s.fw.leader.getD 0))

/-- A claim of a core that runs: no effect while the lease is held; once it has lapsed and the core's own wait is over, the core leads and
the term advances, in the 24 bits that FWLEAD shows (R355, R357). -/
def execLeaseClaim (core : Nat) (s : State) : Out :=
  if coreRuns s core = false then notNow "LEASE_CLAIM"
  else if s.leaseHeld then .next (beat s core)
  else if s.now < s.lapseTime + 500000 * core then notNow "LEASE_CLAIM"
  else
    let s1 := s.count { leaders := if s.fw.leader.isNone then 0 else 1 }
    .next (beat { s1 with fw := { s1.fw with
      leader := some core, term := (s1.fw.term + 1) % 2 ^ 24, renewed := s.now, ready := false } } core)

/-- The items whose two mirrored copies do not both stand and agree (R356). -/
def torn (s : State) : List MirrorItem := (s.mirror.filter (fun p => p.2.1 != p.2.2 || p.2.1.isNone)).map Prod.fst

/-- The graphs that an item of the mirror is state of: of a queue those launched from it, of a resident graph its instances, of a stage its
graph, of a group slot those with a call or a round in it. -/
def itemGraphs (s : State) : MirrorItem → List Nat
  | .graph g => [g]
  | .queue q => (s.graphs.filter (fun p => originQueue p.2.origin == q)).map Prod.fst
  | .resident c i => (s.graphs.filter (fun p => p.2.ctx == c && p.2.res == i)).map Prod.fst
  | .launch _ => []
  | .stage k => [(s.inst k).graph]
  | .group n => (s.group n).calls.map Call.graph ++ ((s.group n).round.map (fun r => (s.inst r.el.inst).graph)).toList

/-- A graph at work ends by a mirror that disagrees. -/
def tearGraph (s : State) (g : Nat) : State :=
  if khas s.graphs g && !(s.graph g).done then hardFault s g 11 0x1E2 0 0 0 else s

/-- A pending launch whose entry disagrees is no launch any more (log 64). -/
def tearLaunches (s : State) (is : List MirrorItem) : State :=
  { s with pendLaunch := s.pendLaunch.filter (fun p => !is.contains (.launch p.num)) }

/-- The new leader, a core, loads the mirror; a graph whose copies disagree ends with 0x1E2, and the front end resumes (log 49). -/
def execMirrorLoad (core : Nat) (s : State) : Out :=
  when (s.leaseHeld && !s.fw.ready && s.fw.leader == some core) "MIRROR_LOAD"
    (let is := torn s
     let s1 := (is.flatMap (itemGraphs s)).eraseDups.foldl tearGraph (tearLaunches s is)
     beat { s1 with fw := { s1.fw with ready := true }, sched := { s1.sched with due := true } } core)

/-! ## Margins (R361) -/

/-- A region is measured once its month is over, at its first free moment: until then no stage is placed there. -/
def execMarginMeasurement (reg steps : Nat) (s : State) : Out :=
  when (decide (reg < 192) && s.fw.bootst == 3 && (stageOn s reg).isNone && (!khas s.fw.measuredAt reg || overdue s reg)) "MARGIN_MEASUREMENT" (setMargin s reg steps)

/-! ## Errors and links (R362) -/

/-- Errors that scrubbing or an access found are counted, by firmware that runs (R358). -/
def execEccScrub (errs : List EccErr) (s : State) : Out :=
  let s1 := s.count { ecc := errs.map (fun e => (e.place, e.corrected)) }
  when (s.fw.bootst == 3) "ECC_SCRUB" { s1 with fw := { s1.fw with errors := s1.fw.errors ++ errs.map (fun e => (s.now, e)) } }

/-- The region of a bank; of one that is in no region, that of its die (HBM4 stack n stands at C-die n) which the bank's number gives
(log 48). -/
def placeOn (p : EccPlace) (reg bank : Nat) : Bool :=
  match p with
  | .element r _ b => r == reg && b == bank
  | .cistern d b => d * 24 + b % 24 == reg && b == bank
  | .hbm st c => st * 24 + c % 24 == reg && c == bank

def oneDay : Nat := 24 * 3600 * 1000000000

/-- A bank is a hard fault: more than 1,024 corrected errors in 24 h, or a second uncorrectable one. -/
def bankBad (s : State) (p : EccPlace) : Bool :=
  let mine := s.fw.errors.filter (fun e => e.2.place == p)
  decide (1024 < ((mine.filter (fun e => s.now < e.1 + oneDay)).map (fun e => e.2.corrected)).foldl (· + ·) 0) ||
  decide (2 ≤ (mine.filter (fun e => e.2.uncorrectable)).length)

/-- Its region is fenced, and a graph occupying it ends with 0x1E0. -/
def execHardFaultFence (reg bank : Nat) (s : State) : Out :=
  when (s.fw.bootst == 3 && decide (reg < 192) && !s.fenced.contains reg && s.fw.errors.any (fun e => placeOn e.2.place reg bank && bankBad s e.2.place))
    "HARD_FAULT_FENCE"
    (let s1 := s.count { fencedCnt := 1 }
     let s2 := { s1 with fenced := reg :: s1.fenced }
     match stageOn s reg with
     | none => s2
     | some k => hardFault s2 (s.inst k).graph 11 0x1E0 reg (wd reg) (wd bank))

/-- Graphs whose traffic the link carries, as the part's routing has it (log 8): one choice for each running stage. -/
def faultLinked : List Nat → State → State
  | [], s => s
  | k :: ks, s =>
    let c := s.choose
    faultLinked ks (if c.1 % 2 = 1 then hardFault c.2 (c.2.inst k).graph 11 0x1E1 0 0 0 else c.2)

/-- Links in the order of R363: Nirsor ports 0 to 23, host, CXL ports 25 to 28, die links from 29. -/
def execLinkRetrain (link : Nat) (ok : Bool) (s : State) : Out :=
  if 49 ≤ link ∨ s.downLinks.contains link then notNow "LINK_RETRAIN"
  else
    let s1 := s.count { link := [(link, 1)] }
    let n := if ok then 0 else kget 0 s.fw.linkFails link + 1
    let s2 := { s1 with fw := { s1.fw with linkFails := kset s1.fw.linkFails link n } }
    if n < 3 then .next s2
    else
      let s3 := { s2 with downLinks := link :: s2.downLinks }
      .next (if 29 ≤ link then
          faultLinked ((s3.insts.filter (fun p => p.2.status == .running)).map Prod.fst) s3
        else s3)

end Sys2Proof.Machine
end

