-- ==== Sys2Proof/Machine/FloatOps.lean ====
section
/-! DEFINITION. The scalar floating-point, packed and conversion instructions of format A (spec/09_instr_scalar_vector.md R156 to
R160). -/

namespace Sys2Proof.Machine

/-- fadd (R156, R157). -/
def execFadd (f : FmtA) (s : State) : Out := runA f s rFadd

/-- fsub (R156, R157). -/
def execFsub (f : FmtA) (s : State) : Out := runA f s rFsub

/-- fmul (R156, R157). -/
def execFmul (f : FmtA) (s : State) : Out := runA f s rFmul

/-- fmac (R156, R157). -/
def execFmac (f : FmtA) (s : State) : Out := runA f s rFmac

/-- fmin (R156, R157). -/
def execFmin (f : FmtA) (s : State) : Out := runA f s rFmin

/-- fmax (R156, R157). -/
def execFmax (f : FmtA) (s : State) : Out := runA f s rFmax

/-- fcmpeq (R156, R157). -/
def execFcmpeq (f : FmtA) (s : State) : Out := runA f s rFcmpeq

/-- fcmplt (R156, R157). -/
def execFcmplt (f : FmtA) (s : State) : Out := runA f s rFcmplt

/-- fcmple (R156, R157). -/
def execFcmple (f : FmtA) (s : State) : Out := runA f s rFcmple

/-- exp2 (R158). -/
def execExp2 (f : FmtA) (s : State) : Out := runA f s rExp2

/-- log2 (R158). -/
def execLog2 (f : FmtA) (s : State) : Out := runA f s rLog2

/-- rcp (R158). -/
def execRcp (f : FmtA) (s : State) : Out := runA f s rRcp

/-- rsq (R158). -/
def execRsq (f : FmtA) (s : State) : Out := runA f s rRsq

/-- badd2 (R159). -/
def execBadd2 (f : FmtA) (s : State) : Out := runA f s rBadd2

/-- bmul2 (R159). -/
def execBmul2 (f : FmtA) (s : State) : Out := runA f s rBmul2

/-- bmac2 (R159). -/
def execBmac2 (f : FmtA) (s : State) : Out := runA f s rBmac2

/-- hadd2 (R159). -/
def execHadd2 (f : FmtA) (s : State) : Out := runA f s rHadd2

/-- hmul2 (R159). -/
def execHmul2 (f : FmtA) (s : State) : Out := runA f s rHmul2

/-- hmac2 (R159). -/
def execHmac2 (f : FmtA) (s : State) : Out := runA f s rHmac2

/-- cvtfi (R160). -/
def execCvtfi (f : FmtA) (s : State) : Out := runA f s rCvtfi

/-- cvtif (R160). -/
def execCvtif (f : FmtA) (s : State) : Out := runA f s rCvtif

/-- cvtfb (R160). -/
def execCvtfb (f : FmtA) (s : State) : Out := runA f s rCvtfb

/-- cvtfh (R160). -/
def execCvtfh (f : FmtA) (s : State) : Out := runA f s rCvtfh

/-- cvtbf (R160). -/
def execCvtbf (f : FmtA) (s : State) : Out := runA f s rCvtbf

/-- cvthf (R160). -/
def execCvthf (f : FmtA) (s : State) : Out := runA f s rCvthf

/-- cvtf4 (R160). -/
def execCvtf4 (f : FmtA) (s : State) : Out := runA f s rCvtf4

/-- cvtf4s (R160). -/
def execCvtf4s (f : FmtA) (s : State) : Out := runA f s rCvtf4s

/-- cvtf5 (R160). -/
def execCvtf5 (f : FmtA) (s : State) : Out := runA f s rCvtf5

/-- cvtf5s (R160). -/
def execCvtf5s (f : FmtA) (s : State) : Out := runA f s rCvtf5s

/-- cvt4f (R160). -/
def execCvt4f (f : FmtA) (s : State) : Out := runA f s rCvt4f

/-- cvt5f (R160). -/
def execCvt5f (f : FmtA) (s : State) : Out := runA f s rCvt5f

end Sys2Proof.Machine
end

