-- ==== Sys2Proof/Machine/Immediate.lean ====
section
/-! DEFINITION. The immediate instructions of format I and the constants and predicate operations of format K
(spec/09_instr_scalar_vector.md R153 to R155). -/

namespace Sys2Proof.Machine

/-- addi (R153): add with the immediate for b. -/
def execAddi (f : FmtI) (s : State) : Out := runI f s (immS f.imm) rAdd

/-- andi (R153): and with the immediate for b. -/
def execAndi (f : FmtI) (s : State) : Out := runI f s (immS f.imm) rAnd

/-- ori (R153): or with the immediate for b. -/
def execOri (f : FmtI) (s : State) : Out := runI f s (immS f.imm) rOr

/-- xori (R153): xor with the immediate for b. -/
def execXori (f : FmtI) (s : State) : Out := runI f s (immS f.imm) rXor

/-- shli (R153): shl with the immediate for b. -/
def execShli (f : FmtI) (s : State) : Out := runI f s (immSh f.imm) rShl

/-- shri (R153): shr with the immediate for b. -/
def execShri (f : FmtI) (s : State) : Out := runI f s (immSh f.imm) rShr

/-- srai (R153): sra with the immediate for b. -/
def execSrai (f : FmtI) (s : State) : Out := runI f s (immSh f.imm) rSra

/-- muli (R153): mul with the immediate for b. -/
def execMuli (f : FmtI) (s : State) : Out := runI f s (immS f.imm) rMul

/-- mini (R153): min with the immediate for b. -/
def execMini (f : FmtI) (s : State) : Out := runI f s (immS f.imm) rMin

/-- maxi (R153): max with the immediate for b. -/
def execMaxi (f : FmtI) (s : State) : Out := runI f s (immS f.imm) rMax

/-- cmpeqi (R153): cmpeq with the immediate for b. -/
def execCmpeqi (f : FmtI) (s : State) : Out := runI f s (immS f.imm) rCmpeq

/-- cmpnei (R153): cmpne with the immediate for b. -/
def execCmpnei (f : FmtI) (s : State) : Out := runI f s (immS f.imm) rCmpne

/-- cmplti (R153): cmplt with the immediate for b. -/
def execCmplti (f : FmtI) (s : State) : Out := runI f s (immS f.imm) rCmplt

/-- cmpltui (R153): cmpltu with the immediate for b. -/
def execCmpltui (f : FmtI) (s : State) : Out := runI f s (immS f.imm) rCmpltu

/-- cmplei (R153): cmple with the immediate for b. -/
def execCmplei (f : FmtI) (s : State) : Out := runI f s (immS f.imm) rCmple

/-- cmpleui (R153): cmpleu with the immediate for b. -/
def execCmpleui (f : FmtI) (s : State) : Out := runI f s (immS f.imm) rCmpleu

/-- bfxi (R153): bfx with the immediate for b. -/
def execBfxi (f : FmtI) (s : State) : Out := runI f s (immBf f.imm) rBfx

/-- bfii (R153): bfi with the immediate for b. -/
def execBfii (f : FmtI) (s : State) : Out := runI f s (immBf f.imm) rBfi

/-- addsi (R153): adds with the immediate for b. -/
def execAddsi (f : FmtI) (s : State) : Out := runI f s (immS f.imm) rAdds

/-- ldk (R154). -/
def execLdk (f : FmtK) (s : State) : Out := runK f.dst s (rLdk f.hs f.imm)

/-- ldkf (R154). -/
def execLdkf (f : FmtK) (s : State) : Out := runK f.dst s (fun _ => rLdkf f.imm)

/-- The current element's predicates changed and its beat done: plog and pset read and write predicates alone (R155). -/
def predOp (s : State) (g : BitVec 8 → BitVec 8) : State :=
  s.modElem s.cur (fun x => { x with p := g x.p, dp := nextDp x s.curSlot s.curBeat })

/-- plog's new predicates: pD takes T[2 pA + pB] (R155). -/
def plogP (f : FmtK) (p : BitVec 8) : BitVec 8 :=
  let pd := bits f.dst 2 0
  let pa := bit p (bits f.imm 6 4)
  let pb := bit p (bits f.imm 2 0)
  let v := bit f.imm (8 + (2 * pa.toNat + pb.toNat))
  if v then p ||| (1 <<< pd) else p &&& ~~~((1 : BitVec 8) <<< pd)

/-- plog (R155). -/
def execPlog (f : FmtK) (s : State) : Out := .next (predOp s (plogP f))

/-- pset's new predicates: VALUE where MASK is 1 (R155). -/
def psetP (f : FmtK) (p : BitVec 8) : BitVec 8 :=
  let mask := f.imm.extractLsb' 8 8
  (p &&& ~~~mask) ||| (f.imm.extractLsb' 0 8 &&& mask)

/-- pset (R155). -/
def execPset (f : FmtK) (s : State) : Out := .next (predOp s (psetP f))

/-- pget (R155). -/
def execPget (f : FmtK) (s : State) : Out :=
  runK f.dst s (fun _ => ⟨s.curElem.p.zeroExtend 32, false, false⟩)

end Sys2Proof.Machine
end

