-- ==== Sys2Proof/Machine/Integer.lean ====
section
/-! DEFINITION. The integer and logic instructions of format A (spec/09_instr_scalar_vector.md R146, R149 to R152). -/

namespace Sys2Proof.Machine

/-- add (R149). -/
def execAdd (f : FmtA) (s : State) : Out := runA f s rAdd

/-- sub (R149). -/
def execSub (f : FmtA) (s : State) : Out := runA f s rSub

/-- mul (R149). -/
def execMul (f : FmtA) (s : State) : Out := runA f s rMul

/-- mulh (R149). -/
def execMulh (f : FmtA) (s : State) : Out := runA f s rMulh

/-- mulhu (R149). -/
def execMulhu (f : FmtA) (s : State) : Out := runA f s rMulhu

/-- or (R149). -/
def execOr (f : FmtA) (s : State) : Out := runA f s rOr

/-- and (R149). -/
def execAnd (f : FmtA) (s : State) : Out := runA f s rAnd

/-- xor (R149). -/
def execXor (f : FmtA) (s : State) : Out := runA f s rXor

/-- andn (R149). -/
def execAndn (f : FmtA) (s : State) : Out := runA f s rAndn

/-- shl (R150). -/
def execShl (f : FmtA) (s : State) : Out := runA f s rShl

/-- shr (R150). -/
def execShr (f : FmtA) (s : State) : Out := runA f s rShr

/-- sra (R150). -/
def execSra (f : FmtA) (s : State) : Out := runA f s rSra

/-- min (R149). -/
def execMin (f : FmtA) (s : State) : Out := runA f s rMin

/-- max (R149). -/
def execMax (f : FmtA) (s : State) : Out := runA f s rMax

/-- minu (R149). -/
def execMinu (f : FmtA) (s : State) : Out := runA f s rMinu

/-- maxu (R149). -/
def execMaxu (f : FmtA) (s : State) : Out := runA f s rMaxu

/-- cmpeq (R149). -/
def execCmpeq (f : FmtA) (s : State) : Out := runA f s rCmpeq

/-- cmpne (R149). -/
def execCmpne (f : FmtA) (s : State) : Out := runA f s rCmpne

/-- cmplt (R149). -/
def execCmplt (f : FmtA) (s : State) : Out := runA f s rCmplt

/-- cmpltu (R149). -/
def execCmpltu (f : FmtA) (s : State) : Out := runA f s rCmpltu

/-- cmple (R149). -/
def execCmple (f : FmtA) (s : State) : Out := runA f s rCmple

/-- cmpleu (R149). -/
def execCmpleu (f : FmtA) (s : State) : Out := runA f s rCmpleu

/-- sel (R151). -/
def execSel (f : FmtA) (s : State) : Out := runA f s rSel

/-- bfx (R152). -/
def execBfx (f : FmtA) (s : State) : Out := runA f s rBfx

/-- bfi (R152). -/
def execBfi (f : FmtA) (s : State) : Out := runA f s rBfi

/-- clz (R149). -/
def execClz (f : FmtA) (s : State) : Out := runA f s rClz

/-- ctz (R149). -/
def execCtz (f : FmtA) (s : State) : Out := runA f s rCtz

/-- popc (R149). -/
def execPopc (f : FmtA) (s : State) : Out := runA f s rPopc

/-- adds (R149). -/
def execAdds (f : FmtA) (s : State) : Out := runA f s rAdds

/-- subs (R149). -/
def execSubs (f : FmtA) (s : State) : Out := runA f s rSubs

/-- abs (R149). -/
def execAbs (f : FmtA) (s : State) : Out := runA f s rAbs

end Sys2Proof.Machine
end

