-- ==== Sys2Proof/Machine/Regs.lean ====
section
/-! DEFINITION. The registers of BAR 0 as the host reads them, and its writes of those that have no event of their own (spec/11 R190,
spec/17 R269, spec/21 R311, R323 and R325, spec/22 R329, spec/23 R347, spec/24 R357). -/

namespace Sys2Proof.Machine

/-- What a write of an offset does: a new state, nothing (a read-only register), an event of its own, no register. -/
inductive RegWrite where
  | sets (s : State)
  | readOnly
  | ownEvent
  | absent
  deriving DecidableEq, Repr

/-- The written value as the register's width holds it: bits [n-1:0] (log 50). -/
def field (v : BitVec 64) (n : Nat) : Nat := v.toNat % 2 ^ n

/-- Queue registers (R311). -/
def writeQueueReg (s : State) (q off : Nat) (v : BitVec 64) : RegWrite :=
  match off with
  | 0x00 => .sets (s.modQueue q (fun x => { x with base := field v 56 }))
  | 0x08 => .sets (s.modQueue q (fun x => { x with size := BitVec.ofNat 32 (field v 32) }))
  | 0x10 => .ownEvent
  | 0x18 => .readOnly
  | 0x20 => .sets (s.modQueue q (fun x => { x with err := field v 56 }))
  | 0x28 => .ownEvent
  | 0x30 => .sets (s.modQueue q (fun x => { x with ctx := field v 16 }))
  | _ => .absent

def setXreg (s : State) (x : XReg) : RegWrite := .sets { s with xreg := x }

/-- Translation registers (R269). -/
def writeXlateReg (s : State) (off : Nat) (v : BitVec 64) : RegWrite :=
  let x := s.xreg
  match off with
  | 0x00 => setXreg s { x with fbase := field v 56 }
  | 0x08 => setXreg s { x with fsize := field v 5 }
  | 0x10 => .readOnly
  | 0x18 => setXreg s { x with fcons := field v 32 }
  | 0x20 => setXreg s { x with nbase := field v 56 }
  | 0x28 => setXreg s { x with nsize := field v 5 }
  | 0x30 => .readOnly
  | 0x38 => setXreg s { x with ncons := field v 32 }
  | 0x40 => setXreg s { x with thr := field v 17 }
  | 0x48 => .readOnly
  | 0x50 => .ownEvent
  | 0x58 => setXreg s { x with inva := field v 32 / 2 ^ 14 * 2 ^ 14 }
  | 0x60 => setXreg s { x with invb := field v 24 }
  | 0x68 => .ownEvent
  | 0x70 => setXreg s { x with invx := field v 16 }
  | _ => .absent

/-- Host-ring registers (R323). -/
def writeRingReg (s : State) (n off : Nat) (v : BitVec 64) : RegWrite :=
  match off with
  | 0x00 => .sets (s.modRing n (fun x => { x with base := field v 56 }))
  | 0x08 => .sets (s.modRing n (fun x => { x with size := field v 5 }))
  | 0x10 => .readOnly
  | 0x18 => .sets (s.modRing n (fun x => { x with cons := BitVec.ofNat 32 (field v 32) }))
  | 0x20 => .sets (s.modRing n (fun x => { x with coal := BitVec.ofNat 32 (field v 32) }))
  | 0x28 => .sets (s.modRing n (fun x => { x with vec := field v 11 }))
  | 0x30 => .sets (s.modRing n (fun x => { x with ctx := field v 16 }))
  | _ => .absent

/-- Scheduler registers (R329); a change of PCAP is a scheduler event (R330). -/
def writeSchedReg (s : State) (off : Nat) (v : BitVec 64) : RegWrite :=
  let x := s.sched
  if off < 0x20 ∧ off % 8 = 0 then .sets { s with sched := { x with quant := kset x.quant (off / 8) (field v 20) } }
  else
    match off with
    | 0x20 => .sets { s with sched := { x with age := field v 20 } }
    | 0x28 => .sets { s with sched := { x with pbudget := field v 16, due := true } }
    | 0x30 => .readOnly
    | 0x38 => .readOnly
    | 0x40 => .readOnly
    | 0x48 => .readOnly
    | 0x50 => .readOnly
    | _ => .absent

/-- Firmware registers (R357). A write of LRCMD without GO, or while it is BUSY, changes nothing (log 47). -/
def writeFwReg (s : State) (off : Nat) (v : BitVec 64) : RegWrite :=
  let a := s.fw.lrbase
  match off with
  | 0x00 => .readOnly
  | 0x08 => .readOnly
  | 0x10 => .readOnly
  | 0x18 => .readOnly
  | 0x20 => .sets { s with fw := { s.fw with lrbase := a / 2 ^ 32 * 2 ^ 32 + field v 32 } }
  | 0x28 => .sets { s with fw := { s.fw with lrbase := field v 32 * 2 ^ 32 + a % 2 ^ 32 } }
  | 0x30 => .sets (if bit v 31 ∧ s.fw.lrbusy = false then lrGo s else s)
  | _ => .absent

/-- Group registers (R190). A write of GCTL with FORM or DISSOLVE makes the slot BUSY until its result is written; one while it is BUSY is
dropped (log 60). A write of GMAP or GCTX to a valid slot changes the formed group's map or context at once (DESIGN CHOICE, log 63). -/
def writeGroupReg (s : State) (k off : Nat) (v : BitVec 64) : RegWrite :=
  if 0x100 ≤ off ∧ off < 0x300 ∧ off % 8 = 0 then
    .sets (s.modGroup k (fun x => { x with map := kset x.map ((off - 0x100) / 8) (field v 32) }))
  else
    match off with
    | 0x00 =>
      let w : Word := v.setWidth 32
      .sets (s.modGroup k (fun x =>
        { x with gctl := if x.gctl.isNone ∧ (bit w 31 ∨ bit w 30) then some w else x.gctl }))
    | 0x08 => .sets (s.modGroup k (fun x => { x with tmo := field v 17 }))
    | 0x10 => .sets (s.modGroup k (fun x => { x with gctx := field v 16 }))
    | 0x18 => .readOnly
    | _ => .absent

/-- A write at an offset of BAR 0. -/
def writeReg (s : State) (addr : Nat) (v : BitVec 64) : RegWrite :=
  if 0x10000 ≤ addr ∧ addr < 0x11000 then writeQueueReg s ((addr - 0x10000) / 0x40) (addr % 0x40) v
  else if 0x40000 ≤ addr ∧ addr < 0x40078 then writeXlateReg s (addr - 0x40000) v
  else if 0x50000 ≤ addr ∧ addr < 0x50400 then writeRingReg s ((addr - 0x50000) / 0x40) (addr % 0x40) v
  else if 0x50400 ≤ addr ∧ addr < 0x50480 then (if addr % 8 = 0 then .ownEvent else .absent)
  else if 0x60000 ≤ addr ∧ addr < 0x60058 then writeSchedReg s (addr - 0x60000) v
  else if 0x70000 ≤ addr ∧ addr < 0x80200 then .readOnly
  else if 0x90000 ≤ addr ∧ addr < 0x90038 then writeFwReg s (addr - 0x90000) v
  else if 0xA0000 ≤ addr ∧ addr < 0xA4000 then writeGroupReg s ((addr - 0xA0000) / 0x400) (addr % 0x400) v
  else if addr = 0xA4000 then .readOnly
  else .absent

/-! ## Reads -/

def readQueueReg (s : State) (q off : Nat) : Option Nat :=
  let x := s.queue q
  match off with
  | 0x00 => some x.base
  | 0x08 => some x.size.toNat
  | 0x10 => some x.write
  | 0x18 => some x.read
  | 0x20 => some x.err
  | 0x28 => some x.state
  | 0x30 => some x.ctx
  | _ => none

/-- XRETRY is written only and reads as 0 (log 53). -/
def readXlateReg (s : State) (off : Nat) : Option Nat :=
  let x := s.xreg
  match off with
  | 0x00 => some x.fbase
  | 0x08 => some x.fsize
  | 0x10 => some x.fprod
  | 0x18 => some x.fcons
  | 0x20 => some x.nbase
  | 0x28 => some x.nsize
  | 0x30 => some x.nprod
  | 0x38 => some x.ncons
  | 0x40 => some x.thr
  | 0x48 => some x.lost
  | 0x50 => some 0
  | 0x58 => some x.inva
  | 0x60 => some x.invb
  | 0x68 => some (x.invc.toNat % 2 ^ 31 + (if x.busy then 2 ^ 31 else 0))
  | 0x70 => some x.invx
  | _ => none

def readRingReg (s : State) (n off : Nat) : Option Nat :=
  let x := s.ring n
  match off with
  | 0x00 => some x.base
  | 0x08 => some x.size
  | 0x10 => some x.prod.toNat
  | 0x18 => some x.cons.toNat
  | 0x20 => some x.coal.toNat
  | 0x28 => some x.vec
  | 0x30 => some x.ctx
  | _ => none

/-- A mailbox (R325). -/
def readMail (s : State) (n : Nat) : Nat :=
  let m := s.mailbox n
  m.value.toNat + (if m.pend then 2 ^ 32 else 0) + m.ovr * 2 ^ 48

/-- FENCEi: bit k is set when physical region 64i + k is fenced (R329). -/
def fenceReg (s : State) (i : Nat) : Nat :=
  (List.range 64).foldl (fun a k => a + (if s.fenced.contains (64 * i + k) then 2 ^ k else 0)) 0

def readSchedReg (s : State) (off : Nat) : Option Nat :=
  if off < 0x20 ∧ off % 8 = 0 then some (kget 2000 s.sched.quant (off / 8))
  else
    match off with
    | 0x20 => some s.sched.age
    | 0x28 => some s.sched.pbudget
    | 0x30 => some (pcap s)
    | 0x38 => some (puseRead s)
    | 0x40 => some (fenceReg s 0)
    | 0x48 => some (fenceReg s 1)
    | 0x50 => some (fenceReg s 2)
    | _ => none

def flagBit (b : Bool) (n : Nat) : Nat := if b then 2 ^ n else 0

def readFwReg (s : State) (off : Nat) : Option Nat :=
  match off with
  | 0x00 => some (fwLead s).toNat
  | 0x08 => some (fwAlive s)
  | 0x10 => some (s.fw.bootst + s.fw.reason * 2 ^ 8)
  | 0x18 => some s.fw.svn
  | 0x20 => some (s.fw.lrbase % 2 ^ 32)
  | 0x28 => some (s.fw.lrbase / 2 ^ 32)
  | 0x30 => some (flagBit s.fw.lrbusy 31 + flagBit s.fw.lrdone 30 + flagBit s.fw.lrfail 29)
  | _ => none

def readGroupReg (s : State) (k off : Nat) : Option Nat :=
  let g := s.group k
  if 0x100 ≤ off ∧ off < 0x300 ∧ off % 8 = 0 then some (kget 0 g.map ((off - 0x100) / 8))
  else
    match off with
    | 0x00 => some (gctlRead g).toNat
    | 0x08 => some g.tmo
    | 0x10 => some g.gctx
    | 0x18 => some (gstatRead g).toNat
    | _ => none

/-- Eight bytes of the error records: two words of record n of a queue (R347, R348). -/
def readErrRec (s : State) (off : Nat) : Option Nat :=
  if off % 8 = 0 then
    let ws := kget [] s.errRecs (off / 0x100)
    some ((nthW ws (off % 0x100 / 4)).toNat + 2 ^ 32 * (nthW ws (off % 0x100 / 4 + 1)).toNat)
  else none

/-- What the host reads at an offset of BAR 0, where a register is. -/
def readReg (s : State) (addr : Nat) : Option Nat :=
  if 0x10000 ≤ addr ∧ addr < 0x11000 then readQueueReg s ((addr - 0x10000) / 0x40) (addr % 0x40)
  else if 0x40000 ≤ addr ∧ addr < 0x40078 then readXlateReg s (addr - 0x40000)
  else if 0x50000 ≤ addr ∧ addr < 0x50400 then readRingReg s ((addr - 0x50000) / 0x40) (addr % 0x40)
  else if 0x50400 ≤ addr ∧ addr < 0x50480 then (if addr % 8 = 0 then some (readMail s ((addr - 0x50400) / 8)) else none)
  else if 0x60000 ≤ addr ∧ addr < 0x60058 then readSchedReg s (addr - 0x60000)
  else if 0x70000 ≤ addr ∧ addr < 0x80000 then readErrRec s (addr - 0x70000)
  else if 0x80000 ≤ addr ∧ addr < 0x80200 then
    (if addr % 8 = 0 then some (kget 0 s.errCnt ((addr - 0x80000) / 8)).toNat else none)
  else if 0x90000 ≤ addr ∧ addr < 0x90038 then readFwReg s (addr - 0x90000)
  else if 0xA0000 ≤ addr ∧ addr < 0xA4000 then readGroupReg s ((addr - 0xA0000) / 0x400) (addr % 0x400)
  else if addr = 0xA4000 then some s.naddr
  else none

/-! ## REGISTER_WRITE -/

/-- A read-only register takes no write; a register whose write is an event is written by that event (log 53). The part in recovery takes
no write (R358). -/
def execRegisterWrite (addr : Nat) (v : BitVec 64) (s : State) : Out :=
  match writeReg s addr v with
  | .sets t => when (!s.recovery) "REGISTER_WRITE" t
  | .readOnly => .next s
  | .ownEvent => notNow "REGISTER_WRITE"
  | .absent => .fault (.noRegister addr)

end Sys2Proof.Machine
end

