-- ==== Sys2Proof/Machine/Resume.lean ====
section
/-! DEFINITION. A waiting instruction takes up its work again (spec/07 R113, spec/10 R168). -/

namespace Sys2Proof.Machine

/-- The work of a waiting instruction from where it stands. An instruction that never waits stays as it is. -/
def resume (w : Wait) (e : ERef) (s : State) : State :=
  match w.ins with
  | .bar f => settleBar w e (sinkE f) s
  | .dwait f => settleDwait w e (sinkE f) s
  | .glaunch f => settle w e (sinkY f) (workGlaunch f) s
  | .hrapp f => settle w e (sinkY f) (workHrapp f) s
  | .intr f => settle w e (sinkY f) (workIntr f) s
  | _ =>
    match waitWork w with
    | some k => settle w e k.1 k.2 s
    | none => s

/-- The work goes on where no access of it waits for a translation and the graph has no fault; it ends with its write-back, or
waits still. It takes the datapath's beat of the cycle, so that what it does comes before what the element issues next (R40). -/
def execWaitingInstructionResume (e : ERef) (s : State) : Out :=
  match (s.elem e).dp with
  | .work w =>
    when (!accPending s (.element e) && (s.graph (s.inst e.inst).graph).fault.isNone &&
        (s.inst e.inst).status == .running && !(s.elem e).halted && !s.beaten e) "WAITING_INSTRUCTION_RESUME"
      (resume w e (s.beat e))
  | _ => notNow "WAITING_INSTRUCTION_RESUME"

end Sys2Proof.Machine
end

