-- ==== Sys2Proof/Machine/Dispatch.lean ====
section
/-! DEFINITION. One arm per instruction and step: its meaning. -/

namespace Sys2Proof.Machine

def exec (i : Instr) (s : State) : Host.Outcome State Fault Refusal :=
  match i with
  | .add f => Sys2Proof.Machine.execAdd f s
  | .sub f => Sys2Proof.Machine.execSub f s
  | .mul f => Sys2Proof.Machine.execMul f s
  | .mulh f => Sys2Proof.Machine.execMulh f s
  | .mulhu f => Sys2Proof.Machine.execMulhu f s
  | .or f => Sys2Proof.Machine.execOr f s
  | .and f => Sys2Proof.Machine.execAnd f s
  | .xor f => Sys2Proof.Machine.execXor f s
  | .andn f => Sys2Proof.Machine.execAndn f s
  | .shl f => Sys2Proof.Machine.execShl f s
  | .shr f => Sys2Proof.Machine.execShr f s
  | .sra f => Sys2Proof.Machine.execSra f s
  | .min f => Sys2Proof.Machine.execMin f s
  | .max f => Sys2Proof.Machine.execMax f s
  | .minu f => Sys2Proof.Machine.execMinu f s
  | .maxu f => Sys2Proof.Machine.execMaxu f s
  | .cmpeq f => Sys2Proof.Machine.execCmpeq f s
  | .cmpne f => Sys2Proof.Machine.execCmpne f s
  | .cmplt f => Sys2Proof.Machine.execCmplt f s
  | .cmpltu f => Sys2Proof.Machine.execCmpltu f s
  | .cmple f => Sys2Proof.Machine.execCmple f s
  | .cmpleu f => Sys2Proof.Machine.execCmpleu f s
  | .sel f => Sys2Proof.Machine.execSel f s
  | .bfx f => Sys2Proof.Machine.execBfx f s
  | .bfi f => Sys2Proof.Machine.execBfi f s
  | .clz f => Sys2Proof.Machine.execClz f s
  | .ctz f => Sys2Proof.Machine.execCtz f s
  | .popc f => Sys2Proof.Machine.execPopc f s
  | .adds f => Sys2Proof.Machine.execAdds f s
  | .subs f => Sys2Proof.Machine.execSubs f s
  | .abs f => Sys2Proof.Machine.execAbs f s
  | .fadd f => Sys2Proof.Machine.execFadd f s
  | .fsub f => Sys2Proof.Machine.execFsub f s
  | .fmul f => Sys2Proof.Machine.execFmul f s
  | .fmac f => Sys2Proof.Machine.execFmac f s
  | .fmin f => Sys2Proof.Machine.execFmin f s
  | .fmax f => Sys2Proof.Machine.execFmax f s
  | .fcmpeq f => Sys2Proof.Machine.execFcmpeq f s
  | .fcmplt f => Sys2Proof.Machine.execFcmplt f s
  | .fcmple f => Sys2Proof.Machine.execFcmple f s
  | .exp2 f => Sys2Proof.Machine.execExp2 f s
  | .log2 f => Sys2Proof.Machine.execLog2 f s
  | .rcp f => Sys2Proof.Machine.execRcp f s
  | .rsq f => Sys2Proof.Machine.execRsq f s
  | .badd2 f => Sys2Proof.Machine.execBadd2 f s
  | .bmul2 f => Sys2Proof.Machine.execBmul2 f s
  | .bmac2 f => Sys2Proof.Machine.execBmac2 f s
  | .hadd2 f => Sys2Proof.Machine.execHadd2 f s
  | .hmul2 f => Sys2Proof.Machine.execHmul2 f s
  | .hmac2 f => Sys2Proof.Machine.execHmac2 f s
  | .cvtfi f => Sys2Proof.Machine.execCvtfi f s
  | .cvtif f => Sys2Proof.Machine.execCvtif f s
  | .cvtfb f => Sys2Proof.Machine.execCvtfb f s
  | .cvtfh f => Sys2Proof.Machine.execCvtfh f s
  | .cvtbf f => Sys2Proof.Machine.execCvtbf f s
  | .cvthf f => Sys2Proof.Machine.execCvthf f s
  | .cvtf4 f => Sys2Proof.Machine.execCvtf4 f s
  | .cvtf4s f => Sys2Proof.Machine.execCvtf4s f s
  | .cvtf5 f => Sys2Proof.Machine.execCvtf5 f s
  | .cvtf5s f => Sys2Proof.Machine.execCvtf5s f s
  | .cvt4f f => Sys2Proof.Machine.execCvt4f f s
  | .cvt5f f => Sys2Proof.Machine.execCvt5f f s
  | .addi f => Sys2Proof.Machine.execAddi f s
  | .andi f => Sys2Proof.Machine.execAndi f s
  | .ori f => Sys2Proof.Machine.execOri f s
  | .xori f => Sys2Proof.Machine.execXori f s
  | .shli f => Sys2Proof.Machine.execShli f s
  | .shri f => Sys2Proof.Machine.execShri f s
  | .srai f => Sys2Proof.Machine.execSrai f s
  | .muli f => Sys2Proof.Machine.execMuli f s
  | .mini f => Sys2Proof.Machine.execMini f s
  | .maxi f => Sys2Proof.Machine.execMaxi f s
  | .cmpeqi f => Sys2Proof.Machine.execCmpeqi f s
  | .cmpnei f => Sys2Proof.Machine.execCmpnei f s
  | .cmplti f => Sys2Proof.Machine.execCmplti f s
  | .cmpltui f => Sys2Proof.Machine.execCmpltui f s
  | .cmplei f => Sys2Proof.Machine.execCmplei f s
  | .cmpleui f => Sys2Proof.Machine.execCmpleui f s
  | .bfxi f => Sys2Proof.Machine.execBfxi f s
  | .bfii f => Sys2Proof.Machine.execBfii f s
  | .addsi f => Sys2Proof.Machine.execAddsi f s
  | .ldk f => Sys2Proof.Machine.execLdk f s
  | .ldkf f => Sys2Proof.Machine.execLdkf f s
  | .plog f => Sys2Proof.Machine.execPlog f s
  | .pset f => Sys2Proof.Machine.execPset f s
  | .pget f => Sys2Proof.Machine.execPget f s
  | .talloc f => Sys2Proof.Machine.execTalloc f s
  | .tfree f => Sys2Proof.Machine.execTfree f s
  | .tcfg f => Sys2Proof.Machine.execTcfg f s
  | .tqry f => Sys2Proof.Machine.execTqry f s
  | .tld f => Sys2Proof.Machine.execTld f s
  | .tst f => Sys2Proof.Machine.execTst f s
  | .pcfg f => Sys2Proof.Machine.execPcfg f s
  | .pqry f => Sys2Proof.Machine.execPqry f s
  | .pgo f => Sys2Proof.Machine.execPgo f s
  | .pstop f => Sys2Proof.Machine.execPstop f s
  | .ld f => Sys2Proof.Machine.execLd f s
  | .st f => Sys2Proof.Machine.execSt f s
  | .ldx f => Sys2Proof.Machine.execLdx f s
  | .stx f => Sys2Proof.Machine.execStx f s
  | .mdone f => Sys2Proof.Machine.execMdone f s
  | .atom f => Sys2Proof.Machine.execAtom f s
  | .atomr f => Sys2Proof.Machine.execAtomr f s
  | .rawait f => Sys2Proof.Machine.execRawait f s
  | .rrel f => Sys2Proof.Machine.execRrel f s
  | .rget f => Sys2Proof.Machine.execRget f s
  | .grule f => Sys2Proof.Machine.execGrule f s
  | .bdinit f => Sys2Proof.Machine.execBdinit f s
  | .bdins f => Sys2Proof.Machine.execBdins f s
  | .bdfind f => Sys2Proof.Machine.execBdfind f s
  | .bdget f => Sys2Proof.Machine.execBdget f s
  | .bdsort f => Sys2Proof.Machine.execBdsort f s
  | .poolcfg f => Sys2Proof.Machine.execPoolcfg f s
  | .bcon f => Sys2Proof.Machine.execBcon f s
  | .bcres f => Sys2Proof.Machine.execBcres f s
  | .bcstat f => Sys2Proof.Machine.execBcstat f s
  | .bcwait f => Sys2Proof.Machine.execBcwait f s
  | .topb f => Sys2Proof.Machine.execTopb f s
  | .topx f => Sys2Proof.Machine.execTopx f s
  | .gath f => Sys2Proof.Machine.execGath f s
  | .scat f => Sys2Proof.Machine.execScat f s
  | .pools f => Sys2Proof.Machine.execPools f s
  | .gstat f => Sys2Proof.Machine.execGstat f s
  | .dpost f => Sys2Proof.Machine.execDpost f s
  | .dsend f => Sys2Proof.Machine.execDsend f s
  | .drecv f => Sys2Proof.Machine.execDrecv f s
  | .dwait f => Sys2Proof.Machine.execDwait f s
  | .dqry f => Sys2Proof.Machine.execDqry f s
  | .cgload f => Sys2Proof.Machine.execCgload f s
  | .crun f => Sys2Proof.Machine.execCrun f s
  | .cwait f => Sys2Proof.Machine.execCwait f s
  | .bar f => Sys2Proof.Machine.execBar f s
  | .cseq f => Sys2Proof.Machine.execCseq f s
  | .emit f => Sys2Proof.Machine.execEmit f s
  | .emitv f => Sys2Proof.Machine.execEmitv f s
  | .cede f => Sys2Proof.Machine.execCede f s
  | .rxend f => Sys2Proof.Machine.execRxend f s
  | .dlyr f => Sys2Proof.Machine.execDlyr f s
  | .dlyw f => Sys2Proof.Machine.execDlyw f s
  | .sigv f => Sys2Proof.Machine.execSigv f s
  | .icnt f => Sys2Proof.Machine.execIcnt f s
  | .mark f => Sys2Proof.Machine.execMark f s
  | .fwd f => Sys2Proof.Machine.execFwd f s
  | .tagr f => Sys2Proof.Machine.execTagr f s
  | .skip f => Sys2Proof.Machine.execSkip f s
  | .qset f => Sys2Proof.Machine.execQset f s
  | .qget f => Sys2Proof.Machine.execQget f s
  | .qfuse f => Sys2Proof.Machine.execQfuse f s
  | .qinv f => Sys2Proof.Machine.execQinv f s
  | .qeq f => Sys2Proof.Machine.execQeq f s
  | .qchk f => Sys2Proof.Machine.execQchk f s
  | .qsel f => Sys2Proof.Machine.execQsel f s
  | .nop f => Sys2Proof.Machine.execNop f s
  | .halt f => Sys2Proof.Machine.execHalt f s
  | .trap f => Sys2Proof.Machine.execTrap f s
  | .csrr f => Sys2Proof.Machine.execCsrr f s
  | .csrw f => Sys2Proof.Machine.execCsrw f s
  | .glaunch f => Sys2Proof.Machine.execGlaunch f s
  | .gcond f => Sys2Proof.Machine.execGcond f s
  | .hrapp f => Sys2Proof.Machine.execHrapp f s
  | .intr f => Sys2Proof.Machine.execIntr f s
  | .slotIssue e => Sys2Proof.Machine.execSlotIssue e s
  | .multiBeatBeat e => Sys2Proof.Machine.execMultiBeatBeat e s
  | .channelOperandWaitEnd e => Sys2Proof.Machine.execChannelOperandWaitEnd e s
  | .markerReset e => Sys2Proof.Machine.execMarkerReset e s
  | .routeTokenTake inst route => Sys2Proof.Machine.execRouteTokenTake inst route s
  | .tokenArrival inst route => Sys2Proof.Machine.execTokenArrival inst route s
  | .boundaryNodeDeliver inst route => Sys2Proof.Machine.execBoundaryNodeDeliver inst route s
  | .waitingInstructionResume e => Sys2Proof.Machine.execWaitingInstructionResume e s
  | .loadReturn e => Sys2Proof.Machine.execLoadReturn e s
  | .tileTableServe tab => Sys2Proof.Machine.execTileTableServe tab s
  | .tileFullSet tab slot => Sys2Proof.Machine.execTileFullSet tab slot s
  | .tileEntryFree tab slot => Sys2Proof.Machine.execTileEntryFree tab slot s
  | .pumpAccess e pm => Sys2Proof.Machine.execPumpAccess e pm s
  | .pumpRunEnd e pm => Sys2Proof.Machine.execPumpRunEnd e pm s
  | .mdoneToken e => Sys2Proof.Machine.execMdoneToken e s
  | .atomicEngineServe eng => Sys2Proof.Machine.execAtomicEngineServe eng s
  | .tileOpFiring e => Sys2Proof.Machine.execTileOpFiring e s
  | .tileOpFiringEnd e => Sys2Proof.Machine.execTileOpFiringEnd e s
  | .contractionEnumerate r seq => Sys2Proof.Machine.execContractionEnumerate r seq s
  | .contractionProduct r seq k => Sys2Proof.Machine.execContractionProduct r seq k s
  | .groupMigration r seq => Sys2Proof.Machine.execGroupMigration r seq s
  | .contractionStop r seq => Sys2Proof.Machine.execContractionStop r seq s
  | .contractionComplete r seq => Sys2Proof.Machine.execContractionComplete r seq s
  | .wellheadRowServe r seq pos => Sys2Proof.Machine.execWellheadRowServe r seq pos s
  | .wellheadCommandComplete r seq => Sys2Proof.Machine.execWellheadCommandComplete r seq s
  | .copyStart die ch => Sys2Proof.Machine.execCopyStart die ch s
  | .copyEnd die ch => Sys2Proof.Machine.execCopyEnd die ch s
  | .groupForm slot v => Sys2Proof.Machine.execGroupForm slot v s
  | .groupDissolve slot => Sys2Proof.Machine.execGroupDissolve slot s
  | .collectiveStartPacket slot rank p => Sys2Proof.Machine.execCollectiveStartPacket slot rank p s
  | .collectiveCallStart slot num => Sys2Proof.Machine.execCollectiveCallStart slot num s
  | .collectiveChunkPacket slot p => Sys2Proof.Machine.execCollectiveChunkPacket slot p s
  | .chunkGraphOpStart slot num op => Sys2Proof.Machine.execChunkGraphOpStart slot num op s
  | .collectiveCallComplete slot num => Sys2Proof.Machine.execCollectiveCallComplete slot num s
  | .collectiveAbortPacket slot rank num cause => Sys2Proof.Machine.execCollectiveAbortPacket slot rank num cause s
  | .collectiveStartTimeout slot num => Sys2Proof.Machine.execCollectiveStartTimeout slot num s
  | .arbiterCalendar slot rows => Sys2Proof.Machine.execArbiterCalendar slot rows s
  | .grantRecordReceive slot g => Sys2Proof.Machine.execGrantRecordReceive slot g s
  | .exchangePhase slot => Sys2Proof.Machine.execExchangePhase slot s
  | .exchangeDataLand slot rank p => Sys2Proof.Machine.execExchangeDataLand slot rank p s
  | .roundDoneReport slot acks => Sys2Proof.Machine.execRoundDoneReport slot acks s
  | .roundEndBroadcast slot reports => Sys2Proof.Machine.execRoundEndBroadcast slot reports s
  | .roundEndReceive slot round any => Sys2Proof.Machine.execRoundEndReceive slot round any s
  | .exchangePostTimeout slot missing firstRow => Sys2Proof.Machine.execExchangePostTimeout slot missing firstRow s
  | .landingListTimeout slot => Sys2Proof.Machine.execLandingListTimeout slot s
  | .exchangeSendTimeout slot => Sys2Proof.Machine.execExchangeSendTimeout slot s
  | .exchangeAbortPacket slot rank round => Sys2Proof.Machine.execExchangeAbortPacket slot rank round s
  | .arbiterBeacon slot rank => Sys2Proof.Machine.execArbiterBeacon slot rank s
  | .memberHeartbeat slot rank => Sys2Proof.Machine.execMemberHeartbeat slot rank s
  | .livenessLapse slot rank => Sys2Proof.Machine.execLivenessLapse slot rank s
  | .arbiterClaim slot => Sys2Proof.Machine.execArbiterClaim slot s
  | .claimAccept slot rank term => Sys2Proof.Machine.execClaimAccept slot rank term s
  | .translationWalk r => Sys2Proof.Machine.execTranslationWalk r s
  | .translationFault r hold => Sys2Proof.Machine.execTranslationFault r hold s
  | .xretryRetry hold => Sys2Proof.Machine.execXretryRetry hold s
  | .xretryAbandon hold => Sys2Proof.Machine.execXretryAbandon hold s
  | .invalidationStart v => Sys2Proof.Machine.execInvalidationStart v s
  | .invalidationComplete => Sys2Proof.Machine.execInvalidationComplete s
  | .priResponse hold r => Sys2Proof.Machine.execPriResponse hold r s
  | .atsInvalidation ctx va granules => Sys2Proof.Machine.execAtsInvalidation ctx va granules s
  | .accessCountNotify die idx => Sys2Proof.Machine.execAccessCountNotify die idx s
  | .instantEnd inst => Sys2Proof.Machine.execInstantEnd inst s
  | .quiescenceFault inst => Sys2Proof.Machine.execQuiescenceFault inst s
  | .queueDoorbell q v => Sys2Proof.Machine.execQueueDoorbell q v s
  | .graphLaunchPacket q => Sys2Proof.Machine.execGraphLaunchPacket q s
  | .copyPacket q => Sys2Proof.Machine.execCopyPacket q s
  | .barrierAndPacket q => Sys2Proof.Machine.execBarrierAndPacket q s
  | .signalPacket q => Sys2Proof.Machine.execSignalPacket q s
  | .queueReset q => Sys2Proof.Machine.execQueueReset q s
  | .queueSkip q => Sys2Proof.Machine.execQueueSkip q s
  | .liveDeltaApply gi => Sys2Proof.Machine.execLiveDeltaApply gi s
  | .graphItemEnd gi => Sys2Proof.Machine.execGraphItemEnd gi s
  | .pendingLaunchTake => Sys2Proof.Machine.execPendingLaunchTake s
  | .ringCountInterrupt n => Sys2Proof.Machine.execRingCountInterrupt n s
  | .ringTimerExpiry n => Sys2Proof.Machine.execRingTimerExpiry n s
  | .mailboxClear n => Sys2Proof.Machine.execMailboxClear n s
  | .makeResident ctx idx p => Sys2Proof.Machine.execMakeResident ctx idx p s
  | .stagePlacement inst ptes => Sys2Proof.Machine.execStagePlacement inst ptes s
  | .stageEnd inst => Sys2Proof.Machine.execStageEnd inst s
  | .schedulerDecision => Sys2Proof.Machine.execSchedulerDecision s
  | .quantumExpiry inst => Sys2Proof.Machine.execQuantumExpiry inst s
  | .stageAged inst => Sys2Proof.Machine.execStageAged inst s
  | .preemptionSave inst => Sys2Proof.Machine.execPreemptionSave inst s
  | .stageResume inst ptes => Sys2Proof.Machine.execStageResume inst ptes s
  | .clockWindow reg w => Sys2Proof.Machine.execClockWindow reg w s
  | .fatalFaultGraphEnd gi => Sys2Proof.Machine.execFatalFaultGraphEnd gi s
  | .registerWrite addr v => Sys2Proof.Machine.execRegisterWrite addr v s
  | .powerOn b => Sys2Proof.Machine.execPowerOn b s
  | .orderlyReset => Sys2Proof.Machine.execOrderlyReset s
  | .leaseRenew => Sys2Proof.Machine.execLeaseRenew s
  | .leaseClaim core => Sys2Proof.Machine.execLeaseClaim core s
  | .mirrorLoad core => Sys2Proof.Machine.execMirrorLoad core s
  | .spdmRequest blocks => Sys2Proof.Machine.execSpdmRequest blocks s
  | .marginMeasurement reg steps => Sys2Proof.Machine.execMarginMeasurement reg steps s
  | .eccScrub errs => Sys2Proof.Machine.execEccScrub errs s
  | .linkRetrain link ok => Sys2Proof.Machine.execLinkRetrain link ok s
  | .hardFaultFence reg bank => Sys2Proof.Machine.execHardFaultFence reg bank s
  | .lifetimeRecordUpdate core u => Sys2Proof.Machine.execLifetimeRecordUpdate core u s
  | .lrcmdGo => Sys2Proof.Machine.execLrcmdGo s
  | .signalVisible inst at_ sig => Sys2Proof.Machine.execSignalVisible inst at_ sig s
  | .exchangeEndPacket slot rank round len => Sys2Proof.Machine.execExchangeEndPacket slot rank round len s
  | .atsTranslationCompletion r a => Sys2Proof.Machine.execAtsTranslationCompletion r a s
  | .thermalLimitChange watts => Sys2Proof.Machine.execThermalLimitChange watts s
  | .powerLoss => Sys2Proof.Machine.execPowerLoss s

end Sys2Proof.Machine
end

