-- ==== Sys2Proof/Machine/Fetch.lean ====
section
/-! DEFINITION. What a step does around the meaning it runs: the word of the chosen slot decoded, time and cycle counts
moved, the agenda's other entries (logs 1 and 5). -/

namespace Sys2Proof.Machine

/-- The instruction of the slot that SLOT_ISSUE, MULTI_BEAT_BEAT or CHANNEL_OPERAND_WAIT_END chose. -/
def fetchSlot (s : State) : Except Reject (Trigger × Instr) := decodeSlot (s.curElem.slotWord s.curSlot)

/-- Some slot of the element is held by condition 5 of R38 alone (R337 OUT). -/
def heldByOut (s : State) (e : ERef) (x : Elem) : Bool :=
  elemFree x && (List.range 16).any (fun i =>
    let t := x.trig i
    t.v == 1 && predsOk x t && guardOk x t && signalOk s e t && dstFull x (dstOf (x.slotWord i)))

/-- Whether a region counts towards OUT, and towards FULL, as the part stands (R337). -/
def regionOut (s : State) (r : RRef) : Bool := s.elems.any (fun p => p.1.rref == r && heldByOut s p.1 p.2)
def regionFull (s : State) (r : RRef) : Bool :=
  s.elems.any (fun p => p.1.rref == r && (List.range 4).any (fun c => !p.2.inRoom c))

/-- A controller's window goes on for dt nanoseconds. -/
def ClkWin.add (w : ClkWin) (dt : Nat) (o f : Bool) : ClkWin :=
  { w with out := w.out + (if o then dt else 0), full := w.full + (if f then dt else 0) }

/-- dt nanoseconds pass for a region of a running stage: its cycles count at its own clock (R352), and its controller measures (R337). -/
def passRegion (dt : Nat) (s t : State) (r : RRef) : State :=
  let x := s.physReg r.inst r.reg
  { t.modRegion r (fun g => { g with cyc := g.cyc + dt * s.clock x }) with
    win := kset t.win x ((kget {} t.win x).add dt (regionOut s r) (regionFull s r)) }

/-- dt nanoseconds pass. -/
def passTime (dt : Nat) (s : State) : State :=
  if dt = 0 then s
  else
    s.insts.foldl (fun t p =>
      if p.2.status = .running then p.2.img.regions.foldl (fun t r => passRegion dt s t ⟨p.1, r.reg⟩) t else t)
      { s with now := s.now + dt }

/-- The chosen instruction's place is taken: the choice is used up. -/
def unlatch (s : State) : State := { s with latched := false }

/-- A write of memory by an agent outside the part, performed at system scope; what it writes is no longer unspecified (R92). -/
def applyPoke (s : State) (key : Nat) (bytes : List Byte) : State := storedKeys (writeThrough s (keyed key bytes)) key bytes.length

/-- A write that arrives from a peer part: it is charged to no region, so the granules of HBM4 and of the cisterns that it touches take
the stamp 0xFF of the context (R287, R288). -/
def applyPeerWrite (s : State) (ctx key : Nat) (bytes : List Byte) : State :=
  let s1 := applyPoke s key bytes
  if homeOfKey key ≤ 1 then
    { s1 with stamps := (granules key bytes.length).foldl (fun m g => kset m g ⟨(s.ctx ctx).epoch, 255, 1, ctx⟩) s1.stamps }
  else s1

/-- A line of the top 2 MiB of the cistern of C0 or C4, where the leader's mirror stands (R356): which copy it is of. -/
def mirrorLine (line : Nat) : Option Bool :=
  let a := addrOfKey (64 * line)
  if homeOfKey (64 * line) = 1 ∧ (a / 2 ^ 26 = 0 ∨ a / 2 ^ 26 = 4) ∧ 62 * 2 ^ 20 ≤ a % 2 ^ 26 then some (a / 2 ^ 26 == 4) else none

/-- One copy of an item's mirrored state is lost; of which item the line holds it is the part's own (log 8). -/
def hurtMirror (s : State) (second : Bool) : State :=
  let c := s.choose
  match s.mirror[c.1 % s.mirror.length]? with
  | none => s
  | some m => { c.2 with mirror := kset c.2.mirror m.1 (if second then (m.2.1, none) else (none, m.2.2)) }

/-- A line of memory whose data ECC can no longer correct (R340 0x0E0), with the region and bank a fault reports (R349). -/
def badLine (s : State) (line reg bank : Nat) : State :=
  let s1 := { s with badLines := kset s.badLines line (reg, bank) }
  match mirrorLine line with
  | none => s1
  | some b => hurtMirror s1 b

/-! ## The mirror (R356) -/

/-- The front-end state: queue indices, resident graphs, pending launches, the scheduler's queues, group slots, and the graphs (R356). -/
def mirrorItems (s : State) : List (MirrorItem × MirrorRec) :=
  (s.graphs.filter (fun p => !p.2.done)).map (fun p => (.graph p.1, .graph p.2.origin p.2.cls p.2.item p.2.stage)) ++
  s.queues.map (fun p => (.queue p.1, .queue p.2.read p.2.write)) ++
  s.resident.map (fun p => (.resident p.1.1 p.1.2, .resident)) ++
  s.pendLaunch.map (fun p => (.launch p.num, .launch p)) ++
  s.insts.map (fun p => (.stage p.1, .stage p.2.status p.2.cls p.2.readyNo)) ++
  s.groups.map (fun p => (.group p.1, .group p.2.valid p.2.gen))

/-- The leader mirrors what a step has changed of it, in both copies; what it has not changed stays as it stands there. -/
def keepMirror (s t : State) : State :=
  if t.leads then
    let old := mirrorItems s
    { t with
      mirror := (mirrorItems t).map (fun p =>
        match t.mirror.find? (fun m => m.1 == p.1) with
        | some m => if old.contains p then m else (p.1, some p.2, some p.2)
        | none => (p.1, some p.2, some p.2)) }
  else t

/-- What a step of the part comes to, with the leader's mirror. -/
def mirrored (s : State) : Out → Out
  | .next t => .next (keepMirror s t)
  | x => x

end Sys2Proof.Machine
end

