-- ==== Sys2Proof/Machine/Step.lean ====
section
/-! DEFINITION. One step of the part (log 1). -/

namespace Sys2Proof.Machine

/-- One step: the slot instruction that was chosen, else the next entry of the agenda, else nothing (the part idles). -/
def step (s : State) : Host.Outcome State Fault Refusal :=
  if s.latched then
    match fetchSlot s with
    | .ok (_, i) => mirrored s (exec i (unlatch s))
    | .error _ => .refused .notAnInstruction
  else
    match s.agenda with
    | [] => .next s
    | (dt, a) :: rest =>
      match a with
      | .step i => mirrored s (exec i (passTime dt { s with agenda := rest }))
      | .widen id sc => .next (widenOne (passTime dt { s with agenda := rest }) id sc)
      | .poke k bs => .next (applyPoke (passTime dt { s with agenda := rest }) k bs)
      | .peerWrite c k bs => .next (applyPeerWrite (passTime dt { s with agenda := rest }) c k bs)
      | .decay line reg bank => .next (badLine (passTime dt { s with agenda := rest }) line reg bank)

/-- An instruction word placed in slot ts0 of the current element and chosen, so that the next step runs it (log 1). A
slot word is 64 bits, its first byte the least significant (R5, R44). -/
def State.withFetchWord (s : State) (nbits w : Nat) : State :=
  { s.modElem s.cur (fun x => { x with slots := kset x.slots 0 (BitVec.ofNat 64 (w % 2 ^ nbits)) }) with
    curSlot := 0
    curBeat := 0
    latched := true }

end Sys2Proof.Machine
end

