-- ==== Sys2Proof/Safety.lean ====
section
/-! DEFINITION. The terms the claims are stated in: what a slot reads, what its write-back leaves, and what an instruction
answers. -/

namespace Sys2Proof.Machine

/-! ## A safe state -/

/-- Memory stands in its canonical form (log 2). -/
def State.Canonical (s : State) : Prop := Memory.wf s.mem

/-- What every step keeps: memory in its canonical form (log 2); the stores that are not performed at every scope each once, under
numbers that are used up, none of them at system scope, where a store is in memory (R276, R277; log 5); one requester waits for one
access to be translated, and no work stands half done between two steps (R267); a channel holds at most 16 tokens (R35). -/
structure State.Good (s : State) : Prop where
  memory : s.Canonical
  once : (s.stores.map Pending.id).Nodup
  below : ∀ p ∈ s.stores, p.id < s.fresh
  narrower : ∀ p ∈ s.stores, p.scope ≠ .system
  oneAccess : (s.accs.map Acc.req).Nodup
  noTape : s.tape = none
  channels : ∀ e c, ((s.elem e).chan c).length ≤ 16

/-- A stage runs and its graph has no fatal fault. -/
def Up (s : State) (inst : Nat) : Prop :=
  (s.inst inst).status = .running ∧ (s.graph (s.inst inst).graph).fault = none

/-- Some core leads, has loaded the mirror, and its lease has not lapsed (R355, R356). -/
def Leads (s : State) : Prop := s.fw.ready = true ∧ s.now < s.fw.renewed + 5000000

/-- Graph gi of t has a fault of this cause and issuing engine. -/
def Faulted (t : State) (gi cause engine : Nat) : Prop :=
  ∃ r, (t.graph gi).fault = some r ∧ r.cause = cause ∧ r.engine = engine

/-- A stage has ended: its elements and its tiles are gone, and the scheduler is to decide (R172, R330, R351). -/
structure Ended (t : State) (inst : Nat) : Prop where
  status : (t.inst inst).status = .ended
  elements : ∀ e : ERef, e.inst = inst → t.elem e = {}
  tiles : ∀ k, (t.tile k).inst = inst → (t.tile k).state = .free
  due : t.sched.due = true

/-- The accesses that are to be translated, by requester, are distinct: one requester waits for one access at a time (R267). -/
def OneAccess (s : State) : Prop := (s.accs.map Acc.req).Nodup

/-! ## Slots (R38, R39) -/

/-- Slots of the stage still issue: it runs, and a fatal fault of its graph is less than 1 microsecond old (R343). -/
def Issues (s : State) (inst : Nat) : Prop :=
  (s.inst inst).status = .running ∧ ∀ f, (s.graph (s.inst inst).graph).fault = some f → s.now < f.time + 1000

/-- The state in which slot i, beat n of element e is the next to run (log 1); its datapath has its beat of this cycle (R40, R41). -/
def chosen (s : State) (e : ERef) (i n : Nat) : State := { s.beat e with cur := e, curSlot := i, curBeat := n, latched := true }

/-- The conditions 1 to 5 of a slot (R38, R39). -/
structure Eligible (s : State) (e : ERef) (i : Nat) : Prop where
  valid : ((s.elem e).trig i).v = 1
  preds : ∀ k, k < 8 → bit ((s.elem e).trig i).pmask k = true → bit (s.elem e).p k = bit ((s.elem e).trig i).pval k
  guard : ((s.elem e).trig i).cge = 1 → ∃ h, ((s.elem e).chan ((s.elem e).trig i).cgi.toNat).head? = some h ∧
    ((s.elem e).trig i).nb.toNat < ((s.elem e).chan ((s.elem e).trig i).cgi.toNat).length ∧
    (((s.elem e).trig i).tge = 1 → h.tag = ((s.elem e).trig i).tgv) ∧
    ∀ m t, m ≤ ((s.elem e).trig i).nb.toNat → ((s.elem e).chan ((s.elem e).trig i).cgi.toNat)[m]? = some t →
      (t.tag = 3 ↔ ((s.elem e).trig i).tge = 1 ∧ ((s.elem e).trig i).tgv = 3)
  signal : (((s.elem e).trig i).sgs = 1 → guardSig s e ((s.elem e).trig i).sgi.toNat = some true) ∧
    (((s.elem e).trig i).sgs = 2 → guardSig s e ((s.elem e).trig i).sgi.toNat = some false)
  room : dstFull (s.elem e) (dstOf ((s.elem e).slotWord i)) = false

/-- The element's tokens on mi, and those that wait for a place there, end with these: completion tokens keep their order (R35). -/
def MiGets (s t : State) (e : ERef) (ks : List Token) : Prop :=
  (t.elem e).chan 4 ++ (t.elem e).owed = (s.elem e).chan 4 ++ (s.elem e).owed ++ ks ∧
    (((s.elem e).chan 4).length ≤ 16 → ((t.elem e).chan 4).length ≤ 16)

/-! ## The course of a slot's instruction -/

/-- The output the destination names has a place, and the sources can be read: `src` is what they hold, `popped` the
tokens taken, `x` the element after that (R38, R41, R42). -/
structure Reads (s : State) (dst sa sb : BitVec 4) (peekA peekB : Bool) (src : Src) (popped : List (Nat × Token))
    (x : Elem) : Prop where
  room : dstFull s.curElem dst = false
  got : fetch s.curElem s.curTrig s.curCoord dst sa sb peekA peekB = .got src popped x

/-- A source code's word and flag (R47): a data register, the head of a channel, code 14 the coordinate word, code 13 the
word 0. -/
def sourceValue (x : Elem) (coord : Word) (code : BitVec 4) : Word × Bool :=
  if code.toNat < 8 then (x.dreg code.toNat, x.dflag code.toNat)
  else if code.toNat < 13 then
    match x.chan (code.toNat - 8) with
    | [] => (0, false)
    | t :: _ => (t.w, t.exc)
  else if code = 14 then (coord, false)
  else (0, false)

/-- A source code takes the head of channel c: it names the channel, and is not peeked. -/
def takes (code : BitVec 4) (peek : Bool) (c : Nat) : Bool := !peek && chanOf code == some c

/-- The part once the current element's sources are taken. -/
def taken (s : State) (x : Elem) : State := s.setElem s.cur x

/-- What the work of the current slot sees. -/
def curJob (s : State) (src : Src) : Job := ⟨s.cur, s.curSlot, src⟩

/-- The result written back: destination, predicate-write clause, datapath, a boundary route's release (R146, R281). -/
def written (t : State) (e : ERef) (slot beat : Nat) (k : Sink) (r : Res) : State :=
  outRelease (t.modElem e (fun y =>
    let z := writePu (writeDst y k.dst k.ot r.r r.rf) k.pu k.ps r.cond
    { z with dp := nextDp z slot beat })) e k.dst

/-- The current slot's instruction is over: its result is written back into state t, after the release of its region where it is a waiting
command (R280, R289). -/
def concluded (s : State) (i : Instr) (t : State) (k : Sink) (r : Res) : State :=
  written (commandRelease i s.cur t) s.cur s.curSlot s.curBeat k r

/-- The current slot's instruction completes: from state t its result r, which meets p, is written back. -/
def Yields (s : State) (i : Instr) (t : State) (k : Sink) (p : Res → Prop) : Prop :=
  ∃ r, exec i s = .next (concluded s i t k r) ∧ p r

/-- The current slot's instruction completes: from state t its result r is written back. -/
def Gives (s : State) (i : Instr) (t : State) (k : Sink) (r : Res) : Prop :=
  exec i s = .next (concluded s i t k r)

def sinkA (f : FmtA) : Sink := ⟨f.dst, f.ot, f.pu, f.ps⟩
def sinkI (f : FmtI) : Sink := ⟨f.dst, 0, 0, 0⟩
def sinkK (f : FmtK) : Sink := ⟨f.dst, 0, 0, 0⟩

/-- Format A's sources, popped unless MOD peeks (R46). -/
abbrev ReadsA (s : State) (f : FmtA) (src : Src) (popped : List (Nat × Token)) (x : Elem) : Prop :=
  Reads s f.dst f.sa f.sb (bit f.mod 1) (bit f.mod 0) src popped x

/-- Format I's source (R49). -/
abbrev ReadsI (s : State) (f : FmtI) (src : Src) (popped : List (Nat × Token)) (x : Elem) : Prop :=
  Reads s f.dst f.sa 13 false false src popped x

/-- Format K reads the prior value of its destination alone (R49). -/
abbrev ReadsK (s : State) (f : FmtK) (src : Src) (popped : List (Nat × Token)) (x : Elem) : Prop :=
  Reads s f.dst 13 13 false false src popped x

/-- Format M's sources (R50). -/
abbrev ReadsM (s : State) (f : FmtM) (src : Src) (popped : List (Nat × Token)) (x : Elem) : Prop :=
  Reads s f.dst f.sa f.sb (bit f.mod 1) (bit f.mod 0) src popped x

/-- Format E's sources (R51). -/
abbrev ReadsE (s : State) (f : FmtE) (src : Src) (popped : List (Nat × Token)) (x : Elem) : Prop :=
  Reads s f.dst f.sa f.sb false false src popped x

/-- Format S's source (R52). -/
abbrev ReadsS (s : State) (f : FmtS) (src : Src) (popped : List (Nat × Token)) (x : Elem) : Prop :=
  Reads s f.dst f.sa 13 (bit f.mod 1) false src popped x

/-- Format Y's source (R52). -/
abbrev ReadsY (s : State) (f : FmtY) (src : Src) (popped : List (Nat × Token)) (x : Elem) : Prop :=
  Reads s f.dst f.sa 13 false false src popped x

/-! ## Frames -/

/-- A byte as the last store in the order of its unit leaves it: what an agent reads that sees that store (R277). -/
def latest (s : State) (k : Nat) : Byte := readSeen s.mem (fun _ => true) s.stores k

/-- Key j stands in a unit of the n bytes from key k. -/
def touches (k n j : Nat) : Bool := (List.range n).any (fun m => unitOf (k + m) == unitOf j)

/-- Every agent reads every byte of memory as before. -/
def SameMemory (s t : State) : Prop := ∀ a k, readByte t.mem a t.stores k = readByte s.mem a s.stores k

/-- What no instruction of the datapath changes by itself: every other element, memory, the requests at tile tables and
atomic engines, the engines' commands, and the registers the host and the driver see. -/
structure OthersSame (s t : State) : Prop where
  memory : SameMemory s t
  elements : ∀ e, e ≠ s.cur → t.elem e = s.elem e
  regions : t.regions = s.regions
  requests : t.tileReqs = s.tileReqs ∧ t.engines = s.engines ∧ t.accs = s.accs ∧ t.copies = s.copies ∧ t.wells = s.wells
  tiles : t.tiles = s.tiles
  host : t.queues = s.queues ∧ t.rings = s.rings ∧ t.mail = s.mail ∧ t.xreg = s.xreg ∧ t.sched = s.sched ∧ t.fw = s.fw ∧
    t.life = s.life ∧ t.groups = s.groups ∧ t.errRecs = s.errRecs ∧ t.errCnt = s.errCnt

/-- The register a destination code names, if it names one. -/
def dstReg (dst : BitVec 4) : Option Nat := if dst.toNat < 8 then some dst.toNat else none

/-- Within the element: each data register but the destination keeps its word and its flag. -/
def RegsSame (s t : State) (dst : BitVec 4) : Prop :=
  ∀ k, some k ≠ dstReg dst → (t.elem s.cur).dreg k = (s.elem s.cur).dreg k ∧ (t.elem s.cur).dflag k = (s.elem s.cur).dflag k

/-- Within the element: each predicate but the one the clause names is as it was. -/
def PredsSame (s t : State) (pu : BitVec 4) : Prop :=
  ∀ k, k < 8 → (bit pu 3 = true → k ≠ bits pu 2 0) → bit (t.elem s.cur).p k = bit (s.elem s.cur).p k

/-- Within the element: charge registers, rule select, delay registers, pumps, returns, bindings and slots. -/
def SpecialSame (s t : State) : Prop :=
  let x := s.elem s.cur
  let y := t.elem s.cur
  y.q = x.q ∧ y.rs = x.rs ∧ y.dlLat = x.dlLat ∧ y.dlPend = x.dlPend ∧ y.pumps = x.pumps ∧ y.rets = x.rets ∧
  y.binds = x.binds ∧ y.topx = x.topx ∧ y.slots = x.slots ∧ y.mdcnt = x.mdcnt ∧ y.mdq = x.mdq ∧ y.halted = x.halted ∧
  y.ended = x.ended ∧ y.cych = x.cych

/-! ## Traps and waits of an instruction -/

/-- The current element stands trapped at its slot with nothing of the instruction done: channels, registers, predicates and memory
are as they were, and the graph's fault, if it is its first, is this one (R341, R346). A channel holds at most 16 tokens (R35; StepKeepsInvariant
says that of every channel), which a token that is put back keeps to. -/
structure Traps (s t : State) (cause addr : Nat) : Prop where
  stopped : (t.elem s.cur).trapped = true ∧ (t.elem s.cur).dp = .idle
  channels : (∀ c, (s.curElem.chan c).length ≤ 16) → ∀ c, (t.elem s.cur).chan c = s.curElem.chan c
  regs : RegsSame s t 12
  preds : (t.elem s.cur).p = s.curElem.p
  others : OthersSame s t
  fault : (s.graph (s.inst s.cur.inst).graph).fault = none → ∃ r, (t.graph (s.inst s.cur.inst).graph).fault = some r ∧
    r.prec = true ∧ r.cause = cause ∧ r.addr = addr ∧ r.slot = s.curSlot ∧ r.coord = coordOf s.cur.reg s.cur.el

/-- The instruction waits with its datapath occupied, what it popped kept with it, all else of the machine as it was (R113, R168). -/
def Waits (s : State) (i : Instr) (src : Src) (popped : List (Nat × Token)) (x : Elem) : Prop :=
  exec i s = .next (s.setElem s.cur { x with dp := .work ⟨s.curSlot, s.curBeat, i, src, popped, s.now⟩ })

/-! ## Addresses of loads and stores (R166) -/

/-- The base of an access: the stage's data base, or that of a pump of the far kind. -/
def baseOf (s : State) (f : FmtM) : Option Nat :=
  if bit f.aux 2 then
    let w := ((s.elem s.cur).pump f.pms.toNat).words
    if bits (nthW w 0) 21 20 = 1 then some ((nthW w 1).toNat + 2 ^ 32 * bits (nthW w 2) 23 0) else none
  else some (s.inst s.cur.inst).img.dataBase

/-- The bytes an access takes. -/
def accessBytes (f : FmtM) : Nat := 2 ^ f.sz.toNat

/-- A data-form offset of the block-transfer window (R184). -/
def windowed (f : FmtM) (off : Word) : Prop := bit f.aux 2 = false ∧ 0xFFFF0000 ≤ off.toNat

/-- The virtual address an access of offset off goes to. -/
def goesTo (s : State) (f : FmtM) (off : Word) (va : Nat) : Prop :=
  ∃ b, baseOf s f = some b ∧ va = (b + off.toNat) % 2 ^ 56 ∧ va % accessBytes f = 0

/-- A request joins those of an engine: behind all of them, or, where it comes from another die or part, before some of the last to come,
none of them of its requester to its line (R183, R251). -/
def Joins (rs rs' : List EngReq) (r : EngReq) : Prop :=
  ∃ pre post, rs = pre ++ post ∧ rs' = pre ++ r :: post ∧ (r.port ≠ 65 → post = []) ∧
    ∀ q ∈ post, ¬ (q.req = r.req ∧ q.key / 64 = r.key / 64)

/-- The access of the current slot at va is translated, its home can be reached, no race is found: it goes to place l. -/
structure Reaches (s : State) (x : Elem) (kind : Nat) (wr : Bool) (va n : Nat) (l : Loc) (s1 s2 : State) : Prop where
  translated : xlate (taken s x) (elemRq (taken s x) s.cur s.curSlot kind) va wr = .ok (l, s1)
  ordered : raceCheck s1 (elemRq (taken s x) s.cur s.curSlot kind) l.stamped va l.key n wr = .ok s2

/-- The part's, or a peer's, atomic engine stands between the current element and the line (R167, R183, R250). -/
def viaEngine (s : State) (l : Loc) : Bool := served s (s.physReg s.cur.inst s.cur.reg) l

/-! ## Objects in memory -/

/-- A directory stands at va as the requester reads it: its header and its first entries; the reads change nothing, as those of
addresses whose translations the requester holds. -/
structure Stands (s : State) (q : Rq) (va : Nat) (h : Hdr) (es : List Ent) : Prop where
  header : readHdr q va s = .ok (h, s)
  entries : ∀ i e, es[i]? = some e → readEnt q va i s = .ok (e, s)
  counted : es.length = h.count

/-- The requests of the current element, and those that happen before it, are performed, so that a command which comes after them goes on
(R114, R279). -/
def Settled (s : State) (x : Elem) : Prop := x.outstanding = [] ∧ requestOpen (taken s x) x.hb = false

/-- The requester of a command of the current slot, whose reads come after what its element has asked and whose races are fatal faults, and
its address of a pointer (R110, R113, R180, R290). -/
def cmdRq (s : State) : Rq :=
  { elemRq s s.cur s.curSlot 4 with hb := (s.elem s.cur).hb ++ ownRequests s s.cur, prec := false }
def ptrAt (s : State) (p : Word) : Nat := ((s.inst s.cur.inst).img.dataBase + p.toNat) % 2 ^ 56

/-- The state in which a format E command reads memory: its sources taken, the element's stores performed at part scope (R114). -/
def cmdState (s : State) (src : Src) (x : Elem) : State := flush (curJob s src) .part (taken s x)

/-! ## Values of formats -/

/-- The exact value of a finite operand. -/
def FVal.q : FVal → ℚ
  | .fin s m e => (if s then -1 else 1) * (m : ℚ) * (2 : ℚ) ^ e
  | _ => 0

def FVal.isFin : FVal → Bool
  | .fin _ _ _ => true
  | _ => false

/-- The code is what q rounds to in a format that has infinities, under a sign for zeros: the nearest value, of two the one whose code is
even; the infinity, and the event, where |q| is at or above the middle between the largest value and the next one there would be (R71,
R72). -/
def RoundsTo (f : FFmt) (neg : Bool) (q : ℚ) (code : Nat) (exc : Bool) : Prop :=
  let top := (f.decode f.maxFin).q
  let half := (2 : ℚ) ^ ((Int.ofNat (f.maxFin / 2 ^ f.mb) - 1) + f.emin) / 2
  (exc = true ↔ top + half ≤ |q|) ∧ (exc = true → code = f.withSign neg f.infCode) ∧
  (exc = false → (f.decode code).isFin = true ∧ (f.decode code).sign = neg ∧
    ∀ c, c < 2 ^ (f.mb + f.eb + 1) → (f.decode c).isFin = true →
      |q - (f.decode code).q| ≤ |q - (f.decode c).q| ∧
      (|q - (f.decode code).q| = |q - (f.decode c).q| → (f.decode c).q ≠ (f.decode code).q → code % 2 = 0))

/-- A product without a value: of a NaN, or of a zero and an infinity (R75). -/
def NoProduct (x y : FVal) : Prop :=
  x = .nan ∨ y = .nan ∨ (x.isZero = true ∧ ∃ g, y = .inf g) ∨ (y.isZero = true ∧ ∃ g, x = .inf g)

/-- An infinite product of sign g. -/
def InfProduct (x y : FVal) (g : Bool) : Prop :=
  ¬ NoProduct x y ∧ (x.isFin = false ∨ y.isFin = false) ∧ g = (x.sign != y.sign)

/-- The sum of two values, rounded once (R157): a zero sum is negative only where both are. -/
def SumIs (f : FFmt) (x y : FVal) (code : Nat) (exc : Bool) : Prop :=
  ((x = .nan ∨ y = .nan ∨ ∃ g, x = .inf g ∧ y = .inf (!g)) → code = f.nanCode ∧ exc = true) ∧
  (∀ g, (x = .inf g ∧ y ≠ .nan ∧ y ≠ .inf (!g)) ∨ (y = .inf g ∧ x ≠ .nan ∧ x ≠ .inf (!g)) →
    code = f.withSign g f.infCode ∧ exc = false) ∧
  (x.isFin = true → y.isFin = true →
    RoundsTo f (if x.q + y.q = 0 then x.sign && y.sign else decide (x.q + y.q < 0)) (x.q + y.q) code exc)

/-- The product of two values, rounded once (R157). -/
def ProductIs (f : FFmt) (x y : FVal) (code : Nat) (exc : Bool) : Prop :=
  (NoProduct x y → code = f.nanCode ∧ exc = true) ∧
  (∀ g, InfProduct x y g → code = f.withSign g f.infCode ∧ exc = false) ∧
  (x.isFin = true → y.isFin = true → RoundsTo f (x.sign != y.sign) (x.q * y.q) code exc)

/-- A product added to d, rounded once at the end (R157). -/
def MulAddIs (f : FFmt) (d x y : FVal) (code : Nat) (exc : Bool) : Prop :=
  ((d = .nan ∨ NoProduct x y ∨ ∃ g, d = .inf g ∧ InfProduct x y (!g)) → code = f.nanCode ∧ exc = true) ∧
  (∀ g, (d = .inf g ∧ ¬ NoProduct x y ∧ ¬ InfProduct x y (!g)) ∨ (InfProduct x y g ∧ d ≠ .nan ∧ d ≠ .inf (!g)) →
    code = f.withSign g f.infCode ∧ exc = false) ∧
  (d.isFin = true → x.isFin = true → y.isFin = true →
    let q := d.q + x.q * y.q
    RoundsTo f (if q = 0 then d.sign && (x.sign != y.sign) else decide (q < 0)) q code exc)

/-- x lies below y; both are no NaN. -/
def FVal.Below (x y : FVal) : Prop :=
  (x = .inf true ∧ y ≠ .nan ∧ y ≠ .inf true) ∨ (y = .inf false ∧ x ≠ .nan ∧ x ≠ .inf false) ∨
    (x.isFin = true ∧ y.isFin = true ∧ x.q < y.q)

/-- x and y are one value; the zeros are. -/
def FVal.Equal (x y : FVal) : Prop := (x = y ∧ x ≠ .nan) ∨ (x.isFin = true ∧ y.isFin = true ∧ x.q = y.q)

/-- n is the integer nearest to q, the even one of two. -/
def NearestInt (q : ℚ) (n : ℤ) : Prop := |q - n| ≤ 1 / 2 ∧ (|q - n| = 1 / 2 → n % 2 = 0)

/-! ## The instructions of the datapath alone (spec/09 R146) -/

/-- Format A's instructions with the operands f. -/
def scalarA (f : FmtA) : List Instr :=
  [.add f, .sub f, .mul f, .mulh f, .mulhu f, .or f, .and f, .xor f, .andn f, .shl f, .shr f, .sra f, .min f, .max f,
    .minu f, .maxu f, .cmpeq f, .cmpne f, .cmplt f, .cmpltu f, .cmple f, .cmpleu f, .sel f, .bfx f, .bfi f, .clz f,
    .ctz f, .popc f, .adds f, .subs f, .abs f] ++
  [.fadd f, .fsub f, .fmul f, .fmac f, .fmin f, .fmax f, .fcmpeq f, .fcmplt f, .fcmple f, .exp2 f, .log2 f, .rcp f,
    .rsq f, .badd2 f, .bmul2 f, .bmac2 f, .hadd2 f, .hmul2 f, .hmac2 f, .cvtfi f, .cvtif f, .cvtfb f, .cvtfh f,
    .cvtbf f, .cvthf f, .cvtf4 f, .cvtf4s f, .cvtf5 f, .cvtf5s f, .cvt4f f, .cvt5f f]

/-- Format I's instructions. -/
def scalarI (f : FmtI) : List Instr :=
  [.addi f, .andi f, .ori f, .xori f, .shli f, .shri f, .srai f, .muli f, .mini f, .maxi f, .cmpeqi f, .cmpnei f,
    .cmplti f, .cmpltui f, .cmplei f, .cmpleui f, .bfxi f, .bfii f, .addsi f]

/-- Format K's instructions that write a destination. -/
def scalarK (f : FmtK) : List Instr := [.ldk f, .ldkf f, .pget f]

/-- Format M's instructions whose DST names a result or nothing. -/
def formatM (f : FmtM) : List Instr :=
  [.talloc f, .tfree f, .tcfg f, .tqry f, .pcfg f, .pqry f, .pgo f, .pstop f, .mdone f, .rawait f, .rrel f, .rget f]

/-- Format M's instructions that write no register; st, stx, tst, atom and atomr may read the one DST names (R168). -/
def formatMNone (f : FmtM) : List Instr := [.tld f, .tst f, .ldx f, .stx f, .atom f, .atomr f]

/-- Format E's instructions with a result; grule's DST names a rule register. -/
def formatE (f : FmtE) : List Instr :=
  [.bdinit f, .bdins f, .bdfind f, .bdget f, .bdsort f, .poolcfg f, .bcon f, .bcres f, .bcstat f, .bcwait f, .topb f, .topx f,
    .gath f, .scat f, .pools f, .gstat f, .dpost f, .dsend f, .drecv f, .dwait f, .dqry f, .cgload f, .crun f, .cwait f, .bar f,
    .cseq f]

/-- Format S's instructions. -/
def formatS (f : FmtS) : List Instr :=
  [.emit f, .emitv f, .cede f, .rxend f, .dlyr f, .dlyw f, .sigv f, .icnt f, .mark f, .fwd f, .tagr f, .skip f, .qset f, .qget f,
    .qfuse f, .qinv f, .qeq f, .qchk f, .qsel f]

/-- Format Y's instructions but csrw, which writes flags. -/
def formatY (f : FmtY) : List Instr := [.nop f, .halt f, .trap f, .csrr f, .glaunch f, .gcond f, .hrapp f, .intr f]

/-- Every other element is as it was. -/
def OtherElements (s t : State) : Prop := ∀ e, e ≠ s.cur → t.elem e = s.elem e

/-- Within the element, what no instruction of formats M and E writes: predicates, charges, delay registers, slots, its part in the
stage, the latched half of the cycle count. -/
def CoreSame (s t : State) : Prop :=
  let x := s.elem s.cur
  let y := t.elem s.cur
  y.p = x.p ∧ y.q = x.q ∧ y.rs = x.rs ∧ y.dlLat = x.dlLat ∧ y.dlPend = x.dlPend ∧ y.slots = x.slots ∧ y.halted = x.halted ∧
  y.ended = x.ended ∧ y.cych = x.cych

/-- Within the element, what no instruction of formats S and Y writes: pumps, returns, tile operations, slots, MDONEs. -/
def WorkSame (s t : State) : Prop :=
  let x := s.elem s.cur
  let y := t.elem s.cur
  y.pumps = x.pumps ∧ y.rets = x.rets ∧ y.binds = x.binds ∧ y.topx = x.topx ∧ y.slots = x.slots ∧ y.mdcnt = x.mdcnt ∧
  y.mdq = x.mdq

/-- The formats of the part. -/
def formats : List FFmt := [f32, bf16, f16, e4m3, e5m2]

end Sys2Proof.Machine
end

