-- ==== Sys2Proof/Certificates/Slice0/Obligations.lean ====
section
/-! DEFINITION. The statements for the provers. Each docstring names the rules of the spec it formalises. -/

open Sys2Proof Sys2Proof.Machine

/-! ## The whole machine -/

/-- R190, R269, R329, R355: after reset no core leads, no queue is enabled, no stage or graph stands, a group's TMO is 1,000 ms,
ANTHR 256, every class's quantum 2,000 microseconds, AGE 10,000, PBUDGET 3,200 W, and the step invariant holds. The model's own
choices, which no rule gives: every byte of memory reads as 0 (log 2), the registers without a stated value hold 0, and each
region's clock stands at reset at the 900 MHz that R337 has each placement set and R1 names as the nominal clock (log 3). -/
def Obligations.ResetValues : Prop :=
  let s := State.reset
  s.Good ∧ (∀ k, (s.group k).tmo = 1000 ∧ (s.group k).valid = false) ∧ s.xreg.thr = 256 ∧
  (∀ c, kget 2000 s.sched.quant c = 2000) ∧ s.sched.age = 10000 ∧ s.sched.pbudget = 3200 ∧ s.fw.leader = none ∧ s.fw.on = false ∧
  (∀ q, (s.queue q).state = 0 ∧ (s.queue q).read = 0 ∧ (s.queue q).write = 0) ∧ s.insts = [] ∧ s.graphs = [] ∧ s.elems = [] ∧
  (∀ t, (s.tile t).state = .free ∧ (s.tile t).gen = 0) ∧ (∀ n, (s.mailbox n).pend = false) ∧ (∀ n, (s.ring n).size = 0) ∧
  (∀ r, s.clock r = 900) ∧ (∀ e k, (s.elem e).dreg k = 0 ∧ (s.elem e).dflag k = false) ∧
  ∀ a k, readByte s.mem a s.stores k = 0

/-- R358, R35, R276, R277, R267: every step keeps the invariant (canonical memory, log 2; each pending store once; no tape of
half-made work between steps; one access to be translated for each requester; a channel's at most 16 tokens); time does not go
back, the fused SVN never falls and rises only where a boot ends, and the key hashes stay. -/
def Obligations.StepKeepsInvariant : Prop :=
  ∀ s t : State, step s = .next t →
    (s.Good → t.Good) ∧ s.now ≤ t.now ∧ s.fresh ≤ t.fresh ∧ s.fw.svn ≤ t.fw.svn ∧
    (s.fw.svn < t.fw.svn → s.fw.boot ≠ none ∧ t.fw.boot = none ∧ t.fw.bootst = 3) ∧ t.fw.keyHash = s.fw.keyHash

/-- R38, R44, R55, R277, R356: where a slot has been chosen and its word decodes to an instruction, the next step is that
instruction's meaning at that state, the choice used up, with the leader's mirror of it, which is all that changes beside; a word
that is none is refused. Else the next entry of the model's agenda (log 1) runs, after the time it names: a step of the part, a
store performed more widely, or a write from outside, which every agent then reads, with each earlier store of a unit it writes
to, as the order of the unit has them (R277). -/
def Obligations.StepRunsDecodedInstruction : Prop :=
  ∀ s : State,
    (s.latched = true →
      (∀ t i, decodeSlot ((s.elem s.cur).slotWord s.curSlot) = .ok (t, i) → step s = mirrored s (exec i { s with latched := false })) ∧
      (∀ r, decodeSlot ((s.elem s.cur).slotWord s.curSlot) = .error r → step s = .refused .notAnInstruction)) ∧
    (s.latched = false →
      (s.agenda = [] → step s = .next s) ∧
      ∀ dt a rest, s.agenda = (dt, a) :: rest → ∃ u, u = passTime dt { s with agenda := rest } ∧ u.now = s.now + dt ∧ u.agenda = rest ∧
        u.mem = s.mem ∧ u.stores = s.stores ∧ u.elems = s.elems ∧
        (∀ i, a = .step i → step s = mirrored s (exec i u)) ∧
        (∀ id sc, a = .widen id sc → ∃ t, step s = .next t ∧ ∀ p ∈ s.stores, (s.stores.map Pending.id).Nodup → p.id = id → sc ≠ .system →
          p.scope ≠ .system → { p with scope := Scope.max p.scope sc } ∈ t.stores) ∧
        (∀ k bs, a = .poke k bs → Memory.wf s.mem → ∃ t, step s = .next t ∧ ∀ g j, readByte t.mem g t.stores j =
          if k ≤ j ∧ j < k + bs.length then bs.getD (j - k) 0 else if touches k bs.length j then latest s j
            else readByte s.mem g s.stores j) ∧
        (∀ c k bs, a = .peerWrite c k bs → Memory.wf s.mem → ∃ t, step s = .next t ∧ ∀ g j, readByte t.mem g t.stores j =
          if k ≤ j ∧ j < k + bs.length then bs.getD (j - k) 0 else if touches k bs.length j then latest s j
            else readByte s.mem g s.stores j) ∧
        (∀ l r b, a = .decay l r b → ∃ t, step s = .next t ∧ SameMemory s t ∧ kget (0, 0) t.badLines l = (r, b))) ∧
    (∀ t, ∃ m, keepMirror s t = { t with mirror := m } ∧ mirrored s (.next t) = .next (keepMirror s t) ∧
      (t.leads = false → m = t.mirror)) ∧
    (∀ x, (∀ t, x ≠ .next t) → mirrored s x = x) ∧
    ∀ nbits w, nbits ≤ 64 → (s.withFetchWord nbits w).latched = true ∧
      fetchSlot (s.withFetchWord nbits w) = decodeSlot (BitVec.ofNat 64 (w % 2 ^ nbits))

/-- R44 to R56: decoding what the encoder writes for a well-formed trigger and action gives both back, from the word and from its
eight bytes, the first at the lowest address; a word that decodes is what the encoder writes for what was read, which is
well-formed; a word whose opcode names no instruction is refused. -/
def Obligations.DecodeInvertsEncode : Prop :=
  (∀ (t : Trigger) (i : Instr), WellFormed t i = true →
    decodeSlot (encode t i) = .ok (t, i) ∧ decodeTableWord 64 (encode t i).toNat = some i ∧
    ∀ rest, decodeBytes (leBytes 8 (encode t i).toNat ++ rest) = .ok ((t, i), rest)) ∧
  (∀ (w : SlotWord) (t : Trigger) (i : Instr), decodeSlot w = .ok (t, i) → WellFormed t i = true ∧ encode t i = w) ∧
  ∀ w : SlotWord, (∀ i : Instr, i.opcode ≠ some (opOf w)) → ∃ r, decodeSlot w = .error r

/-- R117, R153, R155, R160, R168, R352: words the spec writes out, each read as the instruction it stands for, with its trigger. -/
def Obligations.DecodeSampleWords : Prop :=
  let always : Trigger := ⟨0, 0, 0, 0, 0, 0, 0, 0, 0, 1⟩
  decodeSlot 0x0404_8A00_4804_6280 = .ok (⟨4, 4, 1, 0, 1, 1, 0, 0, 0, 1⟩, .fadd ⟨1, 1, 8, 10, 0, 0, 0⟩) ∧
  decodeSlot 0x0000_8000_5026_3FFB = .ok (⟨0, 0, 1, 0, 0, 0, 0, 0, 0, 1⟩, .addi ⟨9, 8, 0x3FFB⟩) ∧
  decodeSlot 0x8080_0000_58B0_FE00 = .ok (⟨0x80, 0x80, 0, 0, 0, 0, 0, 0, 0, 1⟩, .pset ⟨12, 0, 0xFE00⟩) ∧
  decodeSlot 0x1000_0000_5854_0403 = .ok (⟨0x10, 0, 0, 0, 0, 0, 0, 0, 0, 1⟩, .plog ⟨5, 0, 0x0403⟩) ∧
  decodeSlot 0x0000_9000_7402_4AE0 = .ok (⟨0, 0, 1, 1, 0, 0, 0, 0, 0, 1⟩, .qeq ⟨0, 9, 2, 11, 2, 0, 0⟩) ∧
  decodeSlot 0x0000_0000_7833_4000 = .ok (always, .nop ⟨12, 13, 0, 0, 0⟩) ∧
  decodeSlot 0x0000_C800_7873_4000 = .ok (⟨0, 0, 1, 4, 1, 0, 0, 0, 0, 1⟩, .halt ⟨12, 13, 0, 0, 0⟩) ∧
  decodeSlot 0x0000_C800_3873_4000 = .error .notValid ∧
  decodeSlot 0x0000_0000_47C0_0000 = .error .reservedOp

/-! ## Operands, write-back, frames -/

/-- R42, R46, R47: where both sources can be read and the output has a place, they are read: each gives its word and flag, d the
prior value of a destination register, and each channel that a source names without peeking loses its head, once. The model's
choice (DEDUCED, log 16): where both sources name one channel and neither peeks, both read its head and it is popped once. -/
def Obligations.SourcesAreRead : Prop :=
  ∀ (s : State) (dst sa sb : BitVec 4) (pa pb : Bool),
    srcState s.curElem s.curTrig sa = 0 → srcState s.curElem s.curTrig sb = 0 → dstFull s.curElem dst = false →
    ∃ src popped x, Reads s dst sa sb pa pb src popped x ∧
      (src.a, src.fa) = sourceValue s.curElem s.curCoord sa ∧
      (src.b, src.fb) = sourceValue s.curElem s.curCoord sb ∧
      (dst.toNat < 8 → src.d = s.curElem.dreg dst.toNat ∧ src.fd = s.curElem.dflag dst.toNat) ∧
      (∀ c, x.chan c = if takes sa pa c || takes sb pb c then (s.curElem.chan c).drop 1 else s.curElem.chan c) ∧
      { x with inp := s.curElem.inp } = s.curElem

/-- R146, R46: write-back. A data register gets the result and its flag and the other registers keep theirs; an output channel
gets one token more, with the result, the tag and the flag; an enabled clause writes its predicate with 0, 1, the condition or its
complement, and the others stay. R41: a slot of NB + 1 beats: a beat below NB is followed by the next, the last leaves the
datapath idle. -/
def Obligations.WriteBackRule : Prop :=
  (∀ (t : State) (e : ERef) (slot beat : Nat) (k : Sink) (r : Res),
     let y := t.elem e
     let z := (written t e slot beat k r).elem e
     psValue k.ps r.cond = (if k.ps = 0 then false else if k.ps = 1 then true else if k.ps = 2 then r.cond else !r.cond) ∧
     (∀ n, (z.dreg n, z.dflag n) = if some n = dstReg k.dst then (r.r, r.rf) else (y.dreg n, y.dflag n)) ∧
     (∀ c, (z.out c).map (fun a => (a.w, a.tag, a.exc)) = (y.out c).map (fun a => (a.w, a.tag, a.exc)) ++
       (if outChan k.dst = some c then [(r.r, k.ot, r.rf)] else [])) ∧
     (∀ n, n < 8 → bit z.p n = if bit k.pu 3 = true ∧ bits k.pu 2 0 = n then psValue k.ps r.cond else bit y.p n) ∧
     z.dp = nextDp y slot beat ∧
     (∀ a, SameMemory t (written t e slot beat k r) ∧ (a ≠ e → (written t e slot beat k r).elem a = t.elem a))) ∧
  (∀ (t : State) (e : ERef) (slot beat : Nat) (k : Sink) (r : Res),
     ((written t e slot beat k r).elem e).dp =
       if beat < ((t.elem e).trig slot).nb.toNat then .beat slot (beat + 1) else .idle)

/-- R146: an instruction of formats A, I and K changes, whether it completes, waits or traps, no memory, no other element, no
register but its destination, no predicate but its clause's, and none of the element's other state. R113, R117, R168, R308, R351:
the same of formats M, E, S and Y, whether they complete, wait or trap: no other element, no register but the destination (and the
offset register that `.inc` advances), no predicate but the clause's, and no state of the element that is another format's; where
the form stores nothing, every agent reads every byte as before. -/
def Obligations.DatapathFrame : Prop :=
  (∀ (s t : State) (i : Instr), exec i s = .next t →
     (∀ f : FmtA, i ∈ scalarA f → OthersSame s t ∧ RegsSame s t f.dst ∧ PredsSame s t f.pu ∧ SpecialSame s t) ∧
     (∀ f : FmtI, i ∈ scalarI f → OthersSame s t ∧ RegsSame s t f.dst ∧ PredsSame s t 0 ∧ SpecialSame s t) ∧
     (∀ f : FmtK, i ∈ scalarK f → OthersSame s t ∧ RegsSame s t f.dst ∧ PredsSame s t 0 ∧ SpecialSame s t)) ∧
  (∀ (s t : State) (i : Instr), exec i s = .next t →
     (∀ f : FmtM, i ∈ formatM f → OtherElements s t ∧ RegsSame s t f.dst ∧ CoreSame s t) ∧
     (∀ f : FmtM, i ∈ formatMNone f → OtherElements s t ∧ RegsSame s t 12 ∧ CoreSame s t) ∧
     (∀ f : FmtM, i ∈ [Instr.ld f, .st f] → OtherElements s t ∧ CoreSame s t ∧ ∀ k, (bit f.aux 0 = true → k ≠ f.sa.toNat) →
       (t.elem s.cur).dreg k = (s.elem s.cur).dreg k ∧ (t.elem s.cur).dflag k = (s.elem s.cur).dflag k) ∧
     (∀ f : FmtM, i ∈ [Instr.ld f, .ldx f, .tld f, .tst f, .tfree f, .tcfg f, .tqry f, .pqry f, .pgo f, .pstop f, .rget f, .atom f,
       .atomr f] → SameMemory s t) ∧
     (∀ f : FmtE, i ∈ formatE f → OtherElements s t ∧ RegsSame s t f.dst ∧ CoreSame s t) ∧
     (∀ f : FmtE, i = .grule f → OtherElements s t ∧ RegsSame s t 12 ∧ CoreSame s t) ∧
     (∀ f : FmtS, i ∈ formatS f → OthersSame s t ∧ RegsSame s t f.dst ∧ PredsSame s t f.pu ∧ WorkSame s t) ∧
     (∀ f : FmtY, i ∈ formatY f → OtherElements s t ∧ RegsSame s t f.dst ∧ PredsSame s t f.pu ∧ WorkSame s t) ∧
     (∀ f : FmtY, i = .csrw f → OthersSame s t ∧ PredsSame s t f.pu ∧ WorkSame s t ∧
       ∀ k, some k ≠ dstReg f.dst → (t.elem s.cur).dreg k = (s.elem s.cur).dreg k) ∧
     (∀ f : FmtY, i ∈ [Instr.nop f, .halt f, .trap f, .csrr f, .gcond f] → OthersSame s t) ∧
     ∀ f : FmtK, i ∈ [Instr.plog f, .pset f] → OthersSame s t ∧ RegsSame s t 12 ∧ SpecialSame s t)

/-- R38, R41, R42, R341: an instruction of any format waits with its datapath occupied and all else as it was while its output has
no place or a source is empty (skip, which reads no head, for its output alone; st, tst, atom and the like have none); on a marker
at the head of a source that its guard does not name it traps with cause 0x012 at its slot. The model's choice (log 58): an empty
source waits although the other's head is an unguarded marker. R341, R346: a precise trap leaves the element stopped with all its
registers as they were, and reports cause, issuer, slot and values in the graph's fault; a fault that another precedes, in time
and then in order, only counts. The order of faults of one time is the issuer's region, then its own before its engines', then EY
x 8 + EX (the model's reading, log 15). -/
def Obligations.TrapEntryAndOperandWait : Prop :=
  (∀ s : State,
     let x := s.curElem
     let state := srcState x s.curTrig
     let waits (i : Instr) : Prop := exec i s = .next (s.setElem s.cur { x with dp := .operand s.curSlot s.curBeat })
     let course (i : Instr) (dst sa sb : BitVec 4) : Prop :=
       (dstFull x dst = true ∨ state sa = 1 ∨ state sb = 1 → waits i) ∧
       (dstFull x dst = false → state sa ≠ 1 → state sb ≠ 1 → state sa = 2 ∨ state sb = 2 →
         exec i s = .next (trapAt s s.cur s.curSlot 0x012 0 0 0 0))
     (∀ f : FmtA, ∀ i ∈ scalarA f, course i f.dst f.sa f.sb) ∧
     (∀ f : FmtI, ∀ i ∈ scalarI f, course i f.dst f.sa 13) ∧
     (∀ f : FmtK, ∀ i ∈ scalarK f, dstFull x f.dst = true → waits i) ∧
     (∀ f : FmtM, ∀ i ∈ formatM f, i ≠ .mdone f → course i f.dst f.sa f.sb) ∧
     (∀ f : FmtM, ∀ i ∈ [Instr.mdone f, .ld f, .st f] ++ formatMNone f, course i 12 f.sa f.sb) ∧
     (∀ f : FmtE, ∀ i ∈ formatE f, i ≠ .bar f → i ≠ .dwait f → course i f.dst f.sa f.sb) ∧
     (∀ f : FmtE, course (.bar f) f.dst f.sa 13 ∧ course (.dwait f) f.dst f.sa 13 ∧ course (.grule f) 12 f.sa f.sb) ∧
     (∀ f : FmtS, ∀ i ∈ formatS f, i ≠ .skip f → course i f.dst f.sa 13) ∧
     (∀ f : FmtS, dstFull x f.dst = true → waits (.skip f)) ∧
     (∀ f : FmtY, ∀ i ∈ .csrw f :: formatY f, i ≠ .trap f → course i f.dst f.sa 13) ∧
     ∀ f : FmtY, course (.trap f) 12 f.sa 13) ∧
  (∀ (s : State) (e : ERef) (slot cause addr : Nat) (h i j : Word),
     let g := (s.inst e.inst).graph
     let t := trapAt s e slot cause h addr i j
     t.elem e = { s.elem e with trapped := true, dp := .idle } ∧
     (∀ a, a ≠ e → t.elem a = s.elem a) ∧ SameMemory s t ∧
     (∀ eng, eng ≠ 0 → (faultAt s e slot eng false cause h addr i j).order = e.reg * 256 + 128 + e.el) ∧
     (∃ r : FaultRec, r.prec = true ∧ r.cause = cause ∧ r.order = e.reg * 256 + e.el ∧ r.coord = coordOf e.reg e.el ∧ r.slot = slot ∧ r.handle = h ∧
       r.addr = addr ∧ r.info = i ∧ r.info2 = j ∧ r.time = s.now ∧ r.icnt = (s.inst e.inst).icnt ∧
       ((s.graph g).fault = none → (t.graph g).fault = some r ∧ (t.graph g).nflt = (s.graph g).nflt) ∧
       (∀ q, (s.graph g).fault = some q →
         (t.graph g).fault = (if r.time < q.time ∨ (r.time = q.time ∧ r.order < q.order) then some r else some q) ∧
         (t.graph g).nflt = min ((s.graph g).nflt + 1) 0xFFFFFFFF)) ∧
     (∀ k, k ≠ g → t.graph k = s.graph k))

/-! ## Scalar instructions -/

/-- R149, R146: add, sub and mul modulo 2^32; mulh and mulhu the high words of the products; min, max, minu, maxu; adds, subs and
abs saturate, and raise exactly where they clamp, which is their condition. The flag joins the sources'. R149, R150: or, and, xor
and andn bit by bit; a shift reads its whole amount, and one of 32 or more shifts everything out (sra leaves copies of bit 31).
R149, R151: a compare writes 1 where it holds and 0 elsewhere, and that is its condition; sel takes SA where the prior value of
DST is not 0 and SB where it is, and the flag of the other source does not enter. R152, R149: bfx takes the field of SA at offset
SB[4:0] and width SB[13:8], cut at bit 31, and bfi puts the low bits of SA there in DST's prior value; clz, ctz and popc count, 32
for the word 0. -/
def Obligations.IntegerResults : Prop :=
  (∀ (s : State) (f : FmtA) (src : Src) (popped : List (Nat × Token)) (x : Elem), ReadsA s f src popped x →
     let a := src.a
     let b := src.b
     let fr := src.fa || src.fb
     let plain (i : Instr) (p : Word → Prop) : Prop := Yields s i (taken s x) (sinkA f) (fun r => p r.r ∧ r.rf = fr)
     let sat (i : Instr) (v : Int) : Prop := Yields s i (taken s x) (sinkA f) (fun r =>
       r.r.toInt = max (-2147483648) (min 2147483647 v) ∧ r.cond = decide (r.r.toInt ≠ v) ∧ r.rf = (fr || r.cond))
     plain (.add f) (fun r => r.toNat = (a.toNat + b.toNat) % 2 ^ 32) ∧
     plain (.sub f) (fun r => (r.toNat + b.toNat) % 2 ^ 32 = a.toNat) ∧
     plain (.mul f) (fun r => r.toNat = a.toNat * b.toNat % 2 ^ 32) ∧
     plain (.mulh f) (fun r => r.toInt * 2 ^ 32 ≤ a.toInt * b.toInt ∧ a.toInt * b.toInt < (r.toInt + 1) * 2 ^ 32) ∧
     plain (.mulhu f) (fun r => r.toNat = a.toNat * b.toNat / 2 ^ 32) ∧
     plain (.min f) (fun r => r.toInt = min a.toInt b.toInt) ∧
     plain (.max f) (fun r => r.toInt = max a.toInt b.toInt) ∧
     plain (.minu f) (fun r => r.toNat = min a.toNat b.toNat) ∧
     plain (.maxu f) (fun r => r.toNat = max a.toNat b.toNat) ∧
     sat (.adds f) (a.toInt + b.toInt) ∧
     sat (.subs f) (a.toInt - b.toInt) ∧
     sat (.abs f) |a.toInt|) ∧
  (∀ (s : State) (f : FmtA) (src : Src) (popped : List (Nat × Token)) (x : Elem), ReadsA s f src popped x →
     let a := src.a
     let b := src.b
     let bitwise (i : Instr) (p : Nat → Bool) : Prop := Yields s i (taken s x) (sinkA f) (fun r =>
       (∀ k, k < 32 → bit r.r k = p k) ∧ r.rf = (src.fa || src.fb))
     bitwise (.or f) (fun k => bit a k || bit b k) ∧
     bitwise (.and f) (fun k => bit a k && bit b k) ∧
     bitwise (.xor f) (fun k => xor (bit a k) (bit b k)) ∧
     bitwise (.andn f) (fun k => bit a k && !bit b k) ∧
     bitwise (.shl f) (fun k => decide (b.toNat ≤ k) && bit a (k - b.toNat)) ∧
     bitwise (.shr f) (fun k => bit a (k + b.toNat)) ∧
     bitwise (.sra f) (fun k => if k + b.toNat < 32 then bit a (k + b.toNat) else bit a 31)) ∧
  (∀ (s : State) (f : FmtA) (src : Src) (popped : List (Nat × Token)) (x : Elem), ReadsA s f src popped x →
     let a := src.a
     let b := src.b
     let cmp (i : Instr) (c : Prop) : Prop := Yields s i (taken s x) (sinkA f) (fun r =>
       (c → r.r = 1 ∧ r.cond = true) ∧ (¬ c → r.r = 0 ∧ r.cond = false) ∧ r.rf = (src.fa || src.fb))
     cmp (.cmpeq f) (a = b) ∧ cmp (.cmpne f) (a ≠ b) ∧
     cmp (.cmplt f) (a.toInt < b.toInt) ∧ cmp (.cmple f) (a.toInt ≤ b.toInt) ∧
     cmp (.cmpltu f) (a.toNat < b.toNat) ∧ cmp (.cmpleu f) (a.toNat ≤ b.toNat) ∧
     Yields s (.sel f) (taken s x) (sinkA f) (fun r =>
       (src.d ≠ 0 → r.r = a ∧ r.rf = (src.fd || src.fa)) ∧ (src.d = 0 → r.r = b ∧ r.rf = (src.fd || src.fb)))) ∧
  (∀ (s : State) (f : FmtA) (src : Src) (popped : List (Nat × Token)) (x : Elem), ReadsA s f src popped x →
     let a := src.a
     let off := bits src.b 4 0
     let w := bits src.b 13 8
     let y (i : Instr) (p : Res → Prop) : Prop := Yields s i (taken s x) (sinkA f) p
     y (.bfx f) (fun r => (∀ k, k < 32 → bit r.r k = (decide (k < w ∧ k + off < 32) && bit a (k + off))) ∧
       r.rf = (src.fa || src.fb)) ∧
     y (.bfi f) (fun r => (∀ k, k < 32 → bit r.r k = if off ≤ k ∧ k < off + w then bit a (k - off) else bit src.d k) ∧
       r.rf = (src.fa || src.fb || src.fd)) ∧
     y (.clz f) (fun r => r.r.toNat ≤ 32 ∧ (∀ k, k < r.r.toNat → bit a (31 - k) = false) ∧
       (r.r.toNat < 32 → bit a (31 - r.r.toNat) = true)) ∧
     y (.ctz f) (fun r => r.r.toNat ≤ 32 ∧ (∀ k, k < r.r.toNat → bit a k = false) ∧
       (r.r.toNat < 32 → bit a r.r.toNat = true)) ∧
     y (.popc f) (fun r => r.r.toNat = ((List.range 32).filter (fun k => bit a k)).length))

/-- R156, R157: each completes and writes its result. fadd, fsub, fmul and fmac round the exact value once, and any NaN gives the
canonical one and raises; fmin and fmax give a source, -0 below +0; the compares hold of no NaN. R159: the packed instructions
complete and work on the halves of the words alone, each rounded once, with the OR of both events. -/
def Obligations.ScalarFloatResults : Prop :=
  (∀ (s : State) (f : FmtA) (src : Src) (popped : List (Nat × Token)) (x : Elem), ReadsA s f src popped x →
     let a := fv src.a
     let b := fv src.b
     let fr := src.fa || src.fb
     let nan := a = .nan ∨ b = .nan
     let zeros := a.isZero = true ∧ b.isZero = true
     let does (i : Instr) (fl : Bool) (p : Nat → Bool → Prop) : Prop := ∃ r exc,
       exec i s = .next (written (taken s x) s.cur s.curSlot s.curBeat (sinkA f) r) ∧ p r.r.toNat exc ∧ r.rf = (fl || exc)
     let picks (i : Instr) (left right : Prop) : Prop := does i fr (fun c exc =>
       (nan → c = 0x7FC00000 ∧ exc = true) ∧ (¬ nan → exc = false ∧ (left → c = src.a.toNat) ∧ (right → c = src.b.toNat) ∧
         (c = src.a.toNat ∨ c = src.b.toNat)))
     let cmp (i : Instr) (c : Prop) : Prop := ∃ r, exec i s = .next (written (taken s x) s.cur s.curSlot s.curBeat (sinkA f) r) ∧
       (c → r.r = 1 ∧ r.cond = true) ∧ (¬ c → r.r = 0 ∧ r.cond = false) ∧ r.rf = fr
     (∀ i ∈ [Instr.fadd f, .fsub f, .fmul f, .fmac f, .fmin f, .fmax f, .fcmpeq f, .fcmplt f, .fcmple f, .badd2 f, .bmul2 f, .bmac2 f,
       .hadd2 f, .hmul2 f, .hmac2 f], ∃ t, exec i s = .next t ∧ ∀ e, e ≠ s.cur → t.elem e = s.elem e) ∧
     does (.fadd f) fr (SumIs f32 a b) ∧ does (.fsub f) fr (SumIs f32 a (FVal.neg b)) ∧ does (.fmul f) fr (ProductIs f32 a b) ∧
     does (.fmac f) (fr || src.fd) (MulAddIs f32 (fv src.d) a b) ∧
     picks (.fmin f) (FVal.Below a b ∨ (zeros ∧ a.sign = true)) (FVal.Below b a ∨ (zeros ∧ b.sign = true)) ∧
     picks (.fmax f) (FVal.Below b a ∨ (zeros ∧ a.sign = false)) (FVal.Below a b ∨ (zeros ∧ b.sign = false)) ∧
     cmp (.fcmpeq f) (FVal.Equal a b) ∧ cmp (.fcmplt f) (FVal.Below a b) ∧ cmp (.fcmple f) (FVal.Below a b ∨ FVal.Equal a b)) ∧
  (∀ (s : State) (f : FmtA) (src : Src) (popped : List (Nat × Token)) (x : Elem), ReadsA s f src popped x →
     let fr := src.fa || src.fb
     let low (w : Word) : Nat := w.toNat % 65536
     let high (w : Word) : Nat := w.toNat / 65536
     let pair (i : Instr) (m : FFmt) (fl : Bool) (p : FVal → FVal → FVal → Nat → Bool → Prop) : Prop := ∃ r el eh,
       exec i s = .next (written (taken s x) s.cur s.curSlot s.curBeat (sinkA f) r) ∧
       p (m.decode (low src.d)) (m.decode (low src.a)) (m.decode (low src.b)) (low r.r) el ∧
       p (m.decode (high src.d)) (m.decode (high src.a)) (m.decode (high src.b)) (high r.r) eh ∧ r.rf = (fl || el || eh)
     pair (.badd2 f) bf16 fr (fun _ a b => SumIs bf16 a b) ∧ pair (.bmul2 f) bf16 fr (fun _ a b => ProductIs bf16 a b) ∧
     pair (.bmac2 f) bf16 (fr || src.fd) (MulAddIs bf16) ∧ pair (.hadd2 f) f16 fr (fun _ a b => SumIs f16 a b) ∧
     pair (.hmul2 f) f16 fr (fun _ a b => ProductIs f16 a b) ∧ pair (.hmac2 f) f16 (fr || src.fd) (MulAddIs f16))

/-- R71, R72: rounding gives the nearest value of the format, of two the one whose code is even; it overflows exactly where the
magnitude, rounded with no upper limit to the exponent, exceeds the largest finite value, and gives the largest value where it
saturates, else the infinity, or the NaN of e4m3, which has none. -/
def Obligations.RoundingIsNearest : Prop :=
  ∀ (f : FFmt) (sat sg s : Bool) (m : Nat) (e : Int), f ∈ formats → 0 < m →
    let v := (FVal.fin s m e).q
    let r := f.round sat sg (.fin s m e)
    let top := (f.decode f.maxFin).q
    let half := (2 : ℚ) ^ ((Int.ofNat (f.maxFin / 2 ^ f.mb) - 1) + f.emin) / 2
    (r.2 = false →
      (f.decode r.1).isFin = true ∧ (f.decode r.1).sign = s ∧
      ∀ c, c < 2 ^ (f.mb + f.eb + 1) → (f.decode c).isFin = true →
        |v - (f.decode r.1).q| ≤ |v - (f.decode c).q| ∧
        (|v - (f.decode r.1).q| = |v - (f.decode c).q| → (f.decode c).q ≠ (f.decode r.1).q → r.1 % 2 = 0)) ∧
    (r.2 = true ↔ if f = e4m3 then top + half < |v| else top + half ≤ |v|) ∧
    (r.2 = true → r.1 = if sat then f.withSign s f.maxFin else if f = e4m3 then f.nanCode else f.withSign s f.infCode)

/-- R158: exp2, log2, rcp and rsq at the special operands and where the result is exact; rcp rounds 1/a to nearest, its overflow
at tiny operands with it; rsq gives the f32 value nearest to 1/sqrt a, with no other value's middle between; the sources' flags
and the pole, NaN and overflow events enter the flag. -/
def Obligations.FloatFunctionResults : Prop :=
  ∀ (s : State) (f : FmtA) (src : Src) (popped : List (Nat × Token)) (x : Elem), ReadsA s f src popped x →
    let a := fv src.a
    let is (i : Instr) (w : Word) (exc : Bool) : Prop := Yields s i (taken s x) (sinkA f) (fun r =>
      r.r = w ∧ r.rf = (src.fa || src.fb || exc))
    let exact (i : Instr) (q : ℚ) : Prop := Yields s i (taken s x) (sinkA f) (fun r =>
      (fv r.r).isFin = true ∧ (fv r.r).q = q ∧ r.rf = (src.fa || src.fb))
    (∃ r e l q, exec (.exp2 f) s = .next e ∧ exec (.rcp f) s = .next r ∧ exec (.log2 f) s = .next l ∧
      exec (.rsq f) s = .next q) ∧
    (a = .nan → is (.exp2 f) 0x7FC00000 true ∧ is (.log2 f) 0x7FC00000 true ∧ is (.rcp f) 0x7FC00000 true ∧
      is (.rsq f) 0x7FC00000 true) ∧
    (a = .inf false → is (.exp2 f) 0x7F800000 false ∧ is (.log2 f) 0x7F800000 false ∧ is (.rcp f) 0 false ∧
      is (.rsq f) 0 false) ∧
    (a = .inf true → is (.exp2 f) 0 false ∧ is (.log2 f) 0x7FC00000 true ∧ is (.rcp f) 0x80000000 false ∧
      is (.rsq f) 0x7FC00000 true) ∧
    (a.isZero = true → is (.exp2 f) 0x3F800000 false ∧ is (.log2 f) 0xFF800000 true ∧
      is (.rcp f) (if a.sign then 0xFF800000 else 0x7F800000) true ∧
      is (.rsq f) (if a.sign then 0xFF800000 else 0x7F800000) true) ∧
    (a.isNeg = true → a.isFin = true → is (.log2 f) 0x7FC00000 true ∧ is (.rsq f) 0x7FC00000 true) ∧
    (a.isFin = true → 128 ≤ a.q → is (.exp2 f) 0x7F800000 true) ∧
    (∀ n : Int, a.isFin = true → a.q = n → -149 ≤ n → n ≤ 127 → exact (.exp2 f) ((2 : ℚ) ^ n)) ∧
    (∀ n : Int, a.isFin = true → a.q = (2 : ℚ) ^ n → exact (.log2 f) n) ∧
    (∀ n : Int, a.isFin = true → a.q = (2 : ℚ) ^ n → -127 ≤ n → exact (.rcp f) ((2 : ℚ) ^ (-n))) ∧
    (∀ n : Int, a.isFin = true → a.q = -(2 : ℚ) ^ n → -127 ≤ n → exact (.rcp f) (-(2 : ℚ) ^ (-n))) ∧
    (∀ n : Int, a.isFin = true → a.q = (2 : ℚ) ^ (2 * n) → exact (.rsq f) ((2 : ℚ) ^ (-n))) ∧
    (a.isFin = true → a.isZero = false → ∃ r exc, Gives s (.rcp f) (taken s x) (sinkA f) r ∧
      RoundsTo f32 a.sign (1 / a.q) r.r.toNat exc ∧ r.rf = (src.fa || src.fb || exc)) ∧
    (a.isFin = true → 0 < a.q → Yields s (.rsq f) (taken s x) (sinkA f) (fun r =>
      let v := (fv r.r).q
      (fv r.r).isFin = true ∧ 0 < v ∧ r.rf = (src.fa || src.fb) ∧
      ∀ c, c < 2 ^ 32 → (f32.decode c).isFin = true → 0 ≤ (f32.decode c).q →
        let mid := (v + (f32.decode c).q) / 2
        (v < (f32.decode c).q → 1 ≤ a.q * mid ^ 2) ∧ ((f32.decode c).q < v → a.q * mid ^ 2 ≤ 1) ∧
        (a.q * mid ^ 2 = 1 → v ≠ (f32.decode c).q → r.r.toNat % 2 = 0)))

/-- R158: the value that exp2 and log2 round to f32, once, lies within 2^-200 of the exact one, relatively for exp2: exp2 of a
finite operand between -150 and 128, log2 of a positive one; exp2 at or below -150 gives +0. -/
def Obligations.ExpAndLogAccuracy : Prop :=
  ∀ (s : State) (f : FmtA) (src : Src) (popped : List (Nat × Token)) (x : Elem), ReadsA s f src popped x →
    let a := fv src.a
    let gives (i : Instr) (p : Nat → Prop) : Prop := Yields s i (taken s x) (sinkA f) (fun r =>
      r.rf = (src.fa || src.fb) ∧ p r.r.toNat)
    (a.isFin = true → a.q ≤ -150 → gives (.exp2 f) (fun c => c = 0)) ∧
    (a.isFin = true → -150 < a.q → a.q < 128 → gives (.exp2 f) (fun c => ∃ q : ℚ,
      |(q : ℝ) - (2 : ℝ) ^ (a.q : ℝ)| ≤ (2 : ℝ) ^ (a.q : ℝ) / 2 ^ 200 ∧ RoundsTo f32 false q c false)) ∧
    (a.isFin = true → 0 < a.q → gives (.log2 f) (fun c => ∃ q : ℚ,
      |(q : ℝ) - Real.logb 2 (a.q : ℝ)| ≤ 1 / 2 ^ 200 ∧ RoundsTo f32 (decide (q < 0)) q c false))

/-- R160: cvtfi gives the nearest integer, the even one of two, clamped, and its condition is that it raised; cvtif never raises;
the narrowings round each source, the funnels put the new byte in bits [31:24]; the widenings are exact and raise for a NaN alone. -/
def Obligations.ConversionResults : Prop :=
  ∀ (s : State) (f : FmtA) (src : Src) (popped : List (Nat × Token)) (x : Elem), ReadsA s f src popped x →
    let a := fv src.a
    let b := fv src.b
    let fr := src.fa || src.fb
    let y (i : Instr) (p : Res → Prop) : Prop := Yields s i (taken s x) (sinkA f) p
    let two (i : Instr) (m : FFmt) : Prop := y i (fun r =>
      r.r.toNat % 65536 = (m.round false false a).1 ∧ r.r.toNat / 65536 = (m.round false false b).1 ∧
      r.rf = (fr || (m.round false false a).2 || (m.round false false b).2))
    let funnel (i : Instr) (m : FFmt) (sat : Bool) : Prop := y i (fun r =>
      r.r.toNat / 2 ^ 24 = (m.round sat false a).1 ∧ r.r.toNat % 2 ^ 24 = src.b.toNat / 256 ∧
      r.rf = (fr || (m.round sat false a).2))
    let wide (i : Instr) (v : FVal) : Prop := y i (fun r =>
      (v = .nan → r.r = 0x7FC00000 ∧ r.rf = true) ∧
      (v ≠ .nan → (fv r.r).isFin = v.isFin ∧ (fv r.r).sign = v.sign ∧ (fv r.r).isNan = false ∧ (fv r.r).q = v.q ∧ r.rf = fr))
    (∀ i ∈ [Instr.cvtfi f, .cvtif f, .cvtfb f, .cvtfh f, .cvtbf f, .cvthf f, .cvtf4 f, .cvtf4s f, .cvtf5 f, .cvtf5s f, .cvt4f f, .cvt5f f],
      ∃ t, exec i s = .next t ∧ ∀ e, e ≠ s.cur → t.elem e = s.elem e) ∧
    y (.cvtfi f) (fun r => r.rf = (fr || r.cond) ∧
      (a = .nan → r.r = 0 ∧ r.cond = true) ∧
      (∀ g, a = .inf g → r.r.toInt = (if g then -2147483648 else 2147483647) ∧ r.cond = true) ∧
      (a.isFin = true → ∃ n : Int, NearestInt a.q n ∧ r.r.toInt = max (-2147483648) (min 2147483647 n) ∧
        r.cond = decide (r.r.toInt ≠ n))) ∧
    (∃ r, exec (.cvtif f) s = .next (written (taken s x) s.cur s.curSlot s.curBeat (sinkA f) r) ∧
      RoundsTo f32 (decide (src.a.toInt < 0)) (src.a.toInt : ℚ) r.r.toNat false ∧ r.rf = fr) ∧
    two (.cvtfb f) bf16 ∧ two (.cvtfh f) f16 ∧
    funnel (.cvtf4 f) e4m3 false ∧ funnel (.cvtf4s f) e4m3 true ∧ funnel (.cvtf5 f) e5m2 false ∧ funnel (.cvtf5s f) e5m2 true ∧
    wide (.cvtbf f) (bf16.decode (src.a.toNat % 65536)) ∧ wide (.cvthf f) (f16.decode (src.a.toNat % 65536)) ∧
    wide (.cvt4f f) (e4m3.decode (src.a.toNat / 2 ^ (8 * (src.b.toNat % 4)) % 256)) ∧
    wide (.cvt5f f) (e5m2.decode (src.a.toNat / 2 ^ (8 * (src.b.toNat % 4)) % 256))

/-- R153: an instruction of format I computes what its counterpart of format A computes with b replaced by the immediate, of flag
0; it writes tag 0 and no predicate. R154: ldk replaces the low or the high half of its destination, or extends its constant by
zeros or by its sign, flag as the form says; ldkf widens a bf16. R155: plog writes its truth table's entry for two predicates into
a third, pset the values of its mask, and nothing else but the datapath changes; pget reads the eight predicates. -/
def Obligations.ImmediateAndConstantResults : Prop :=
  (∀ (s : State) (f : FmtI) (src : Src) (popped : List (Nat × Token)) (x : Elem), ReadsI s f src popped x →
     let as (i : Instr) (v : Word) (c : FmtA → Instr) : Prop :=
       ∃ r, exec i s = .next (written (taken s x) s.cur s.curSlot s.curBeat ⟨f.dst, 0, 0, 0⟩ r) ∧
         ∀ (s' : State) (g : FmtA) (popped' : List (Nat × Token)) (x' : Elem),
           ReadsA s' g ⟨src.a, v, src.d, src.fa, false, src.fd⟩ popped' x' →
           exec (c g) s' = .next (written (taken s' x') s'.cur s'.curSlot s'.curBeat (sinkA g) r)
     let v := f.imm.signExtend 32
     let amount : Word := (f.imm.extractLsb' 0 5).zeroExtend 32
     let field : Word := ((f.imm.extractLsb' 5 6) ++ (0 : BitVec 3) ++ (f.imm.extractLsb' 0 5)).zeroExtend 32
     as (.addi f) v .add ∧ as (.andi f) v .and ∧ as (.ori f) v .or ∧ as (.xori f) v .xor ∧
     as (.shli f) amount .shl ∧ as (.shri f) amount .shr ∧ as (.srai f) amount .sra ∧
     as (.muli f) v .mul ∧ as (.mini f) v .min ∧ as (.maxi f) v .max ∧
     as (.cmpeqi f) v .cmpeq ∧ as (.cmpnei f) v .cmpne ∧ as (.cmplti f) v .cmplt ∧ as (.cmplei f) v .cmple ∧
     as (.cmpltui f) v .cmpltu ∧ as (.cmpleui f) v .cmpleu ∧ as (.bfxi f) field .bfx ∧ as (.bfii f) field .bfi ∧
     as (.addsi f) v .adds) ∧
  (∀ (s : State) (f : FmtK) (src : Src) (popped : List (Nat × Token)) (x : Elem), ReadsK s f src popped x →
     Yields s (.ldk f) (taken s x) (sinkK f) (fun r =>
       (f.hs = 0 → (∀ k, k < 16 → bit r.r k = bit f.imm k) ∧ (∀ k, 16 ≤ k → bit r.r k = bit src.d k) ∧ r.rf = src.fd) ∧
       (f.hs = 1 → (∀ k, k < 16 → bit r.r k = bit src.d k ∧ bit r.r (k + 16) = bit f.imm k) ∧ r.rf = src.fd) ∧
       (f.hs = 2 → r.r.toNat = f.imm.toNat ∧ r.rf = false) ∧
       (f.hs = 3 → r.r.toInt = f.imm.toInt ∧ r.rf = false)) ∧
     Yields s (.ldkf f) (taken s x) (sinkK f) (fun r =>
       (bf16.decode f.imm.toNat = .nan → r.r = 0x7FC00000 ∧ r.rf = true) ∧
       (bf16.decode f.imm.toNat ≠ .nan → r.r.toNat = 65536 * f.imm.toNat ∧ r.rf = false))) ∧
  (∀ (s : State) (f : FmtK),
     let x := s.elem s.cur
     let preds (i : Instr) (p : Nat → Bool) : Prop := ∃ q : BitVec 8,
       exec i s = .next (s.setElem s.cur { x with p := q, dp := nextDp x s.curSlot s.curBeat }) ∧ ∀ k, k < 8 → bit q k = p k
     let pa := bit x.p (bits f.imm 6 4)
     let pb := bit x.p (bits f.imm 2 0)
     preds (.plog f) (fun k => if k = bits f.dst 2 0 then
       bit f.imm (8 + (if pa then 2 else 0) + (if pb then 1 else 0)) else bit x.p k) ∧
     preds (.pset f) (fun k => if bit f.imm (8 + k) then bit f.imm k else bit x.p k) ∧
     ∀ (src : Src) (popped : List (Nat × Token)) (y : Elem), ReadsK s f src popped y →
       Yields s (.pget f) (taken s y) (sinkK f) (fun r => r.r.toNat = x.p.toNat ∧ r.rf = false))

/-! ## Channels, charges, signals, the element's own registers -/

/-- R169: mark pushes its word where the word's kind is 0x01 or 0x02 and traps with 0x030 elsewhere; fwd pushes the head token
unchanged, tag and flag with it, and traps so on a configuration token; tagr reads the head's tag; skip takes the run of tokens
before the first marker, at most N, and never waits for it. The model's reading (DEDUCED, log 13): skip's flag is the OR of those
of the tokens it pops. -/
def Obligations.ChannelInstructionResults : Prop :=
  ∀ (s : State) (f : FmtS),
    (∀ (src : Src) (popped : List (Nat × Token)) (x : Elem), ReadsS s f src popped x →
      (bits src.a 31 24 = 1 ∨ bits src.a 31 24 = 2 →
        Gives s (.mark f) (taken s x) (sinkS f) ⟨src.a, src.fa, false⟩) ∧
      (bits src.a 31 24 ≠ 1 → bits src.a 31 24 ≠ 2 →
        exec (.mark f) s = .next (trapAt s s.cur s.curSlot 0x030 0 0 0 0)) ∧
      (∀ c h r, chanOf f.sa = some c → s.curElem.chan c = h :: r →
        (¬ (h.tag = 3 ∧ bits h.w 31 24 = 3) →
          Gives s (.fwd f) (taken s x) ⟨f.dst, h.tag, f.pu, f.ps⟩ ⟨h.w, h.exc, false⟩) ∧
        (h.tag = 3 → bits h.w 31 24 = 3 →
          exec (.fwd f) s = .next (trapAt s s.cur s.curSlot 0x030 0 0 0 0)) ∧
        Yields s (.tagr f) (taken s x) (sinkS f) (fun r =>
          r.r.toNat = h.tag.toNat ∧ r.rf = h.exc ∧ r.cond = decide (h.tag.toNat = bits f.sli 1 0)))) ∧
    (∀ c, chanOf f.sa = some c → dstFull s.curElem f.dst = false →
      let n := min (f.sli.toNat + 1) ((s.curElem.chan c).takeWhile (fun t => t.tag != 3)).length
      let x := { s.curElem with inp := kset s.curElem.inp c ((s.curElem.chan c).drop n) }
      Yields s (.skip f) (s.setElem s.cur x) (sinkS f) (fun r =>
        r.r = BitVec.ofNat 32 n ∧ r.cond = decide (n = f.sli.toNat + 1) ∧
        r.rf = ((s.curElem.chan c).take n).any Token.exc))

/-- R84, R85: a rule record is valid only with one to four components, each cyclic of order 2 to 65,535 with the width of its
order or U(1) of width 2 to 16, in 32 bits altogether. R86: under a valid rule canonical charges form a group where nothing
raises: the fusion of canonical charges is canonical, adds the fields, is the same in either order and in either grouping, and a
charge fused with its inverse gives 0. -/
def Obligations.ChargesFormAGroup : Prop :=
  (∀ (ws : List Word) (g : Rule), ruleOf ws = some g →
     g.length = bits (nthW ws 0) 1 0 + 1 ∧ widthSum g ≤ 32 ∧ bits (nthW ws 0) 31 24 = 0xA7 ∧
     ∀ c ∈ g, (c.z = true → 2 ≤ c.n ∧ c.n ≤ 65535 ∧ 2 ^ (c.w - 1) < c.n ∧ c.n ≤ 2 ^ c.w) ∧
       (c.z = false → 2 ≤ c.w ∧ c.w ≤ 16)) ∧
  (∀ (ws : List Word) (g : Rule) (x y z : Word), ruleOf ws = some g →
     canonical g x = true → canonical g y = true → canonical g z = true →
     ((cadd g x y).2 = false → canonical g (cadd g x y).1 = true ∧
       valuesOf g (cadd g x y).1 =
         (g.zip ((valuesOf g x).zip (valuesOf g y))).map (fun p =>
           if p.1.z then (p.2.1 + p.2.2) % (p.1.n : Int) else p.2.1 + p.2.2)) ∧
     cadd g x y = cadd g y x ∧
     ((cadd g x y).2 = false → (cadd g y z).2 = false → (cadd g (cadd g x y).1 z).2 = false →
       (cadd g x (cadd g y z).1).2 = false → cadd g (cadd g x y).1 z = cadd g x (cadd g y z).1) ∧
     ((cneg g x).2 = false → cadd g x (cneg g x).1 = (0, false)) ∧
     (ceq g x y = true ↔ x = y))

/-- R117: the charge instructions over charge register SLI[1:0] and the selected rule; without that rule qfuse, qinv, qeq and qchk
trap with 0x02A and change nothing. -/
def Obligations.ChargeInstructionResults : Prop :=
  ∀ (s : State) (f : FmtS) (src : Src) (popped : List (Nat × Token)) (x : Elem), ReadsS s f src popped x →
    let n := bits f.sli 1 0
    let q : Word := kget 0 x.q n
    let withQ (v : Word) : State := s.setElem s.cur { x with q := kset x.q n v }
    let g := s.ruleReg s.cur.rref x.rs
    Gives s (.qset f) (withQ src.a) (sinkS f) ⟨0, false, false⟩ ∧
    Gives s (.qget f) (taken s x) (sinkS f) ⟨q, false, false⟩ ∧
    Gives s (.qsel f) (s.setElem s.cur { x with rs := bits f.sli 2 0 }) (sinkS f) ⟨0, false, false⟩ ∧
    (∀ p, g = some p →
      Gives s (.qfuse f) (withQ (cadd p src.a q).1) (sinkS f)
        ⟨(cadd p src.a q).1, src.fa || (cadd p src.a q).2, false⟩ ∧
      Gives s (.qinv f) (withQ (cneg p q).1) (sinkS f) ⟨(cneg p q).1, (cneg p q).2, false⟩ ∧
      Yields s (.qeq f) (taken s x) (sinkS f) (fun r =>
        r.cond = ceq p src.a q ∧ r.r = (if r.cond then 1 else 0) ∧ r.rf = src.fa) ∧
      Yields s (.qchk f) (taken s x) (sinkS f) (fun r =>
        r.cond = (canonical p src.a && !(cadd p src.a q).2) ∧ r.r = (if r.cond then 1 else 0) ∧ r.rf = src.fa)) ∧
    (g = none → ∀ i, i ∈ [Instr.qfuse f, .qinv f, .qeq f, .qchk f] →
      exec i s = .next (trapAt s s.cur s.curSlot 0x02A 0 0 0 0))

/-- R297, R300, R308: emit and emitv add an emission of the signal bound to the slot they name, with the value and flag of the
source for emitv; after a cession they trap with 0x140 and change nothing; cede closes the element's part in the signal, once;
rxend ends the element and closes its part in every signal it could emit. -/
def Obligations.SignalEmissionResults : Prop :=
  ∀ (s : State) (f : FmtS) (src : Src) (popped : List (Nat × Token)) (x : Elem), ReadsS s f src popped x →
    let e := s.cur
    (∀ k, sigOf s e f.sli.toNat = some k → hasCeded s e k = false →
      (∃ t, exec (.emit f) s = .next t ∧ (t.inst e.inst).acts = (s.inst e.inst).acts ++ [⟨k, e.reg, e.el, some (0, false), []⟩] ∧
        sigStatus t e k = some true) ∧
      (∃ t, exec (.emitv f) s = .next t ∧
        (t.inst e.inst).acts = (s.inst e.inst).acts ++ [⟨k, e.reg, e.el, some (src.a, src.fa), []⟩] ∧
        sigStatus t e k = some true) ∧
      (∃ t, exec (.cede f) s = .next t ∧ (t.inst e.inst).acts = (s.inst e.inst).acts ++ [⟨k, e.reg, e.el, none, []⟩])) ∧
    (∀ k, sigOf s e f.sli.toNat = some k → hasCeded s e k = true →
      exec (.emit f) s = .next (trapAt s e s.curSlot 0x140 0 0 0 0) ∧
      exec (.emitv f) s = .next (trapAt s e s.curSlot 0x140 0 0 0 0) ∧
      ∃ t, exec (.cede f) s = .next t ∧ (t.inst e.inst).acts = (s.inst e.inst).acts) ∧
    (∃ t, exec (.rxend f) s = .next t ∧ (t.elem e).ended = true ∧ ∀ k ∈ emitsOf s e, hasCeded t e k = true)

/-- R299, R302, R308: the delay registers read what the last instant latched and are written for the next; icnt reads the instant
counter, 0 in a stage that is not clocked; sigv waits until the signal is final in its region and then gives its presence, or the
combination of its emissions. R299: the combinations of a valued signal's emissions: the OR, the greatest and the least as signed
words, and the exact sum clamped once, each with the OR of all flags; and the first emission of the earliest emitter. -/
def Obligations.SignalReadResults : Prop :=
  (∀ (s : State) (f : FmtS) (src : Src) (popped : List (Nat × Token)) (x : Elem), ReadsS s f src popped x →
     let e := s.cur
     let n := bits f.sli 1 0
     Gives s (.dlyr f) (taken s x) (sinkS f) ⟨kget 0 x.dlLat n, false, false⟩ ∧
     Gives s (.dlyw f) (s.setElem e { x with dlPend := kset x.dlPend n src.a }) (sinkS f) ⟨0, false, false⟩ ∧
     Gives s (.icnt f) (taken s x) (sinkS f)
       ⟨if (s.inst e.inst).img.clocked then (s.inst e.inst).icnt else 0, false, false⟩ ∧
     (∀ k, sigOf s e f.sli.toNat = some k →
       (sigFinal s e k = false → ∃ t, exec (.sigv f) s = .next t ∧
         (t.elem e).dp = .work ⟨s.curSlot, s.curBeat, .sigv f, src, popped, s.now⟩ ∧ RegsSame s t 12) ∧
       (sigFinal s e k = true → Yields s (.sigv f) (taken s x) (sinkS f) (fun r =>
         let present := sigStatus s e k == some true
         r.cond = present ∧
         ((sigDecl s e.inst k).combine = none → r.r = (if present then 1 else 0) ∧ r.rf = false) ∧
         ∀ c, (sigDecl s e.inst k).combine = some c →
           (r.r, r.rf) = if present then combineSig c (actsSeen s e k) else (0, false))))) ∧
  (∀ (acts : List SigAct) (a : SigAct) (w : Word) (b : Bool), a ∈ acts → a.emit = some (w, b) →
     let vs := acts.filterMap (fun a => a.emit.map Prod.fst)
     let fl := acts.any (fun a => (a.emit.map Prod.snd).getD false)
     let sum := (vs.map BitVec.toInt).sum
     (∀ k, k < 32 → bit (combineSig .or acts).1 k = vs.any (fun v => bit v k)) ∧ (combineSig .or acts).2 = fl ∧
     ((combineSig .max acts).1 ∈ vs ∧ (∀ v ∈ vs, v.toInt ≤ (combineSig .max acts).1.toInt)) ∧ (combineSig .max acts).2 = fl ∧
     ((combineSig .min acts).1 ∈ vs ∧ (∀ v ∈ vs, (combineSig .min acts).1.toInt ≤ v.toInt)) ∧ (combineSig .min acts).2 = fl ∧
     (combineSig .sum acts).1.toInt = max (-2147483648) (min 2147483647 sum) ∧
     (combineSig .sum acts).2 = (fl || decide ((combineSig .sum acts).1.toInt ≠ sum)) ∧
     ∃ pre d post, acts = pre ++ d :: post ∧ d.emit = some (combineSig .first acts) ∧
       (∀ c ∈ acts, c.emit.isSome = true → d.reg * 64 + d.el ≤ c.reg * 64 + c.el) ∧
       (∀ c ∈ pre, c.emit.isSome = true → d.reg * 64 + d.el < c.reg * 64 + c.el))

/-- R351, R352: nop writes its clause alone; halt ends the element's part in the stage, and in a clocked stage closes its part in
every signal; csrw sets the eight flags and nothing else; csrr reads what the register's row says, with flag 0. R341, R351: trap
takes the precise trap 0x010: its source is read, and popped if it is a channel, INFO is its code and INFO2 the value. -/
def Obligations.ElementRegisterResults : Prop :=
  (∀ (s : State) (f : FmtY) (src : Src) (popped : List (Nat × Token)) (x : Elem), ReadsY s f src popped x →
     let e := s.cur
     let k : Sink := ⟨f.dst, 0, f.pu, f.ps⟩
     let i := s.inst e.inst
     let g := s.graph i.graph
     let reads (n : Nat) (v : Nat) : Prop := f.idx.toNat = n → n ≠ 0 → Yields s (.csrr f) (taken s x) k (fun r =>
       r.r = BitVec.ofNat 32 v ∧ r.rf = false)
     Gives s (.nop f) (taken s x) k ⟨0, false, false⟩ ∧
     (∃ t, exec (.halt f) s = .next t ∧ (t.elem e).halted = true ∧
       (i.img.clocked = true → ∀ n ∈ emitsOf s e, hasCeded t e n = true) ∧
       (i.img.clocked = false → (t.inst e.inst).acts = i.acts)) ∧
     (∃ t, exec (.csrw f) s = .next t ∧ (∀ n, n < 8 → (t.elem e).dflag n = if some n = dstReg f.dst then false else bit src.a n) ∧
       (∀ n, some n ≠ dstReg f.dst → (t.elem e).dreg n = x.dreg n)) ∧
     (f.idx = 0 → Yields s (.csrr f)
       (s.setElem e { x with cych := BitVec.ofNat 32 ((s.region e.rref).cyc / 1000 / 2 ^ 32) }) k
       (fun r => r.r = BitVec.ofNat 32 ((s.region e.rref).cyc / 1000) ∧ r.rf = false)) ∧
     reads 1 x.cych.toNat ∧ reads 2 (s.clock (s.physReg e.inst e.reg)) ∧ reads 3 i.ctx ∧
     (∀ q n, g.origin = .queue q n → reads 4 (n % 2 ^ 31)) ∧
     (∀ q n m, g.origin = .glaunch q n m → reads 4 (2 ^ 31 + m % 2 ^ 31)) ∧
     (f.idx = 5 → Yields s (.csrr f) (taken s x) k (fun r => r.r.toNat < 256 ∧ ∀ n, n < 8 → bit r.r n = x.dflag n)) ∧
     reads 6 x.mdcnt.toNat ∧ reads 7 (if g.elog = 0 then 0 else g.xcount) ∧ reads 8 (s.physReg e.inst e.reg)) ∧
  (∀ (s : State) (f : FmtY) (src : Src) (popped : List (Nat × Token)) (x : Elem), ReadsY s f src popped x →
     let g := (s.inst s.cur.inst).graph
     ∃ t, exec (.trap f) s = .next t ∧ t.elem s.cur = { x with trapped := true, dp := .idle } ∧
       ((s.graph g).fault = none → ∃ r, (t.graph g).fault = some r ∧ r.cause = 0x010 ∧ r.prec = true ∧
         r.info.toNat = f.idx.toNat ∧ r.info2 = src.a ∧ r.slot = s.curSlot ∧ r.coord = coordOf s.cur.reg s.cur.el) ∧
       OthersSame s t)

/-- R38, R39, R40, R41, R42, R113: of a free element's eligible slots the lowest issues, and none where none is eligible; the next
beat follows once its output has a place, an instruction that waits for an operand once each of its channels holds a token, and
one whose work waits goes on; each takes the datapath's one beat of the cycle (log 56). R43, R336: an element with no eligible
slot and an end-of-invocation marker at the head of each of its routed inputs resets: it takes them, its registers, flags,
predicates and charge state stand at the image's values, its pump counters at 0, its signal slots, delay registers and mi as they
were, and each routed output gets a marker with the payload of its lowest routed input. The marker's exception bit is the OR of
those taken (R32). R294: an element that has ended takes no tokens in its instant, so it does not reset. The model's reading
(DEDUCED, log 22): an element that is occupied or halted has no eligible slot and resets too. -/
def Obligations.SlotIssueResults : Prop :=
  (∀ (s : State) (e : ERef), Issues s e.inst →
     let x := s.elem e
     let free := x.dp = .idle ∧ x.halted = false ∧ x.ended = false ∧ x.trapped = false
     let b := s.beat e
     (s.beaten e = true → ∀ i ∈ [Instr.slotIssue e, .multiBeatBeat e, .channelOperandWaitEnd e, .waitingInstructionResume e,
       .markerReset e], ¬ ∃ t, exec i s = .next t) ∧
     (∀ i, free → s.beaten e = false → i < 16 → Eligible s e i → (∀ m, m < i → ¬ Eligible s e m) →
       exec (.slotIssue e) s = .next (chosen s e i 0)) ∧
     (¬ free ∨ (∀ i, i < 16 → ¬ Eligible s e i) → ¬ ∃ t, exec (.slotIssue e) s = .next t) ∧
     (∀ i n, x.dp = .beat i n → s.beaten e = false → dstFull x (dstOf (x.slotWord i)) = false →
       exec (.multiBeatBeat e) s = .next (chosen s e i n)) ∧
     (∀ i n, x.dp = .operand i n → s.beaten e = false → dstFull x (dstOf (x.slotWord i)) = false →
       (∀ code ∈ srcsOf (x.slotWord i), ∀ c, chanOf code = some c → x.chan c ≠ []) →
       exec (.channelOperandWaitEnd e) s = .next (chosen s e i n)) ∧
     (∀ w, x.dp = .work w → (∀ a ∈ s.accs, a.req ≠ .element e) → khas s.journals (.element e) = false → Up s e.inst →
       x.halted = false → s.beaten e = false →
       exec (.waitingInstructionResume e) s = .next (resume w e b) ∧
       (∀ f, w.ins = .bcwait f → dstFull x f.dst = true → resume w e b = b) ∧
       (∀ f r, w.ins = .bcwait f → dstFull x f.dst = false → conOf s e.inst w.src.a = .ok r →
         resume w e b = if r.2.state = 0 then b.modElem e (fun y => { y with dp := .work w })
           else written (commandRelease w.ins e b) e w.slot w.beat (sinkE f) ⟨BitVec.ofNat 32 r.2.state, false, false⟩) ∧
       (∀ f, w.ins = .mdone f → bit f.aux 0 = true → x.outstanding = [] →
         ((resume w e b).elem e).mdcnt = x.mdcnt + 1 ∧ ((resume w e b).elem e).dp = nextDp x w.slot w.beat))) ∧
  (∀ (s : State) (e : ERef) (m : ElemImage),
     let x := s.elem e
     let i := s.inst e.inst
     let into (c : Nat) : Prop := c < 4 ∧ i.img.endsRoute e c = true
     let outof (c : Nat) : Prop := c < 4 ∧ i.img.beginsRoute e c = true
     Issues s e.inst → e.reg ∉ i.held → i.img.elemImage e.reg e.el = some m →
     (x.ended = true → ¬ ∃ t, exec (.markerReset e) s = .next t) ∧
     (x.trapped = false → x.ended = false → s.beaten e = false → (x.dp ≠ .idle ∨ x.halted = true ∨ ∀ n, n < 16 → ¬ Eligible s e n) →
     (∃ c, into c) → (∀ c, into c → ∃ h ts, x.chan c = h :: ts ∧ h.tag = 3 ∧ bits h.w 31 24 = 2) →
     (∀ c, outof c → (x.out c).length < 2) →
     ∃ t, exec (.markerReset e) s = .next t ∧ SameMemory s t ∧
       (∀ c, into c → (t.elem e).chan c = (x.chan c).drop 1) ∧ (∀ c, ¬ into c → (t.elem e).chan c = x.chan c) ∧
       (∀ k, (t.elem e).dreg k = ((m.d.map (initVal (s.graph i.graph).args i.handles)).getD k 0)) ∧
       (∀ k, (t.elem e).dflag k = false) ∧ (t.elem e).p = m.p ∧ (∀ k, kget 0 (t.elem e).q k = (m.q.map (initVal (s.graph i.graph).args i.handles)).getD k 0) ∧
       (t.elem e).rs = m.rs.toNat ∧
       (∀ p, ((t.elem e).pump p).c = [0, 0, 0, 0] ∧ ((t.elem e).pump p).iter = 0 ∧ ((t.elem e).pump p).words = (x.pump p).words ∧
         ((t.elem e).pump p).run = (x.pump p).run) ∧
       (t.elem e).slots = x.slots ∧ (t.elem e).dlLat = x.dlLat ∧ (t.elem e).dlPend = x.dlPend ∧ (t.elem e).owed = x.owed ∧
       (t.elem e).rets = x.rets ∧
       (∀ c, outof c → ∃ k h ts, into k ∧ (∀ j, into j → k ≤ j) ∧ x.chan k = h :: ts ∧
         ((t.elem e).out c).map (fun a => (a.w, a.tag, a.exc)) = (x.out c).map (fun a => (a.w, a.tag, a.exc)) ++
            [(h.w, 3, (List.range 4).any (fun j => i.img.endsRoute e j && ((x.chan j).head?.map Token.exc).getD false))]) ∧
       (∀ c, c < 4 → ¬ outof c → (t.elem e).out c = x.out c)))

/-- R36, R37, R280, R281, R369: a route takes the head of its output channel where the destination has a place for it and for
every token on the way there, with its route tag; the channel loses the head when its last route has taken it. Tokens arrive in
order, the region acquiring a release that comes with one; a boundary node delivers only when what the source had at work at the
token's write is over, with the stores that happen before that write performed at its scope, and no others, but for those that
come earlier in the order of a unit that is performed everywhere (R277). -/
def Obligations.TokenNetworkResults : Prop :=
  ∀ (s : State) (inst n : Nat), (s.inst inst).status = .running →
    let i := s.inst inst
    let g := i.img
    let arrives (u t : State) (reg el c : Nat) (tk : Token) (ts : List Token) : Prop :=
      let e : ERef := ⟨inst, reg, el⟩
      kget [] (t.inst inst).flight n = ts ∧ (t.elem e).chan c = (s.elem e).chan c ++ [{ tk with rel := none }] ∧
      (∀ a, a ≠ e → t.elem a = s.elem a) ∧ t.mem = u.mem ∧ t.stores = u.stores ∧
      (∀ rel, tk.rel = some rel → rel.num ≤ kget 0 (kget [] t.acq (s.physReg inst reg)) rel.reg)
    (∀ r tk ts, g.routes[n]? = some r → (s.elem ⟨inst, r.srcReg, r.srcEl⟩).out r.outC = tk :: ts → n ∉ i.copied →
      ((s.elem ⟨inst, r.dstReg, r.dstEl⟩).chan r.inC).length + inFlightTo s inst r.dstReg r.dstEl r.inC < 16 →
      let e : ERef := ⟨inst, r.srcReg, r.srcEl⟩
      let last := ∀ m ∈ g.routesFrom r.srcReg r.srcEl r.outC, m = n ∨ m ∈ i.copied
      ∃ t, exec (.routeTokenTake inst n) s = .next t ∧ SameMemory s t ∧
        kget [] (t.inst inst).flight n = kget [] i.flight n ++
          [{ tk with rtag := r.packet, rel := if r.via.isSome then tk.rel else none }] ∧
        (∀ m, m ≠ n → kget [] (t.inst inst).flight m = kget [] i.flight m) ∧
        (last → (t.elem e).out r.outC = ts ∧ ∀ m ∈ g.routesFrom r.srcReg r.srcEl r.outC, m ∉ (t.inst inst).copied) ∧
        (¬ last → (t.elem e).out r.outC = tk :: ts ∧ n ∈ (t.inst inst).copied)) ∧
    (∀ r, g.routes[n]? = some r →
      16 ≤ ((s.elem ⟨inst, r.dstReg, r.dstEl⟩).chan r.inC).length + inFlightTo s inst r.dstReg r.dstEl r.inC →
      ¬ ∃ t, exec (.routeTokenTake inst n) s = .next t) ∧
    (∀ d tk ts, arrivalEnd g n = some d → kget [] i.flight n = tk :: ts → ((s.elem ⟨inst, d.1, d.2.1⟩).chan d.2.2).length < 16 →
      ∃ t, exec (.tokenArrival inst n) s = .next t ∧ arrives s t d.1 d.2.1 d.2.2 tk ts) ∧
    (∀ r b sc tk ts, g.routes[n]? = some r → r.via = some b → g.boundaries[b]? = some sc → kget [] i.flight n = tk :: ts →
      ((s.elem ⟨inst, r.dstReg, r.dstEl⟩).chan r.inC).length < 16 →
      let deps := (tk.rel.map Release.deps).getD []
      let works : Prop := ∃ d ∈ deps, d.store? = none ∧ depOpen s d = true
      let ids := deps.filterMap Dep.store?
      (works → ¬ ∃ t, exec (.boundaryNodeDeliver inst n) s = .next t) ∧
      (¬ works → (s.stores.map Pending.id).Nodup →
        ∃ t, exec (.boundaryNodeDeliver inst n) s = .next t ∧ arrives (widenIds s ids sc) t r.dstReg r.dstEl r.inC tk ts ∧
          (∀ p ∈ t.stores, p.id ∈ ids → sc.rank ≤ p.scope.rank) ∧
          (sc ≠ .system → (∀ q ∈ s.stores, q.scope ≠ .system) → ∀ p ∈ s.stores, p.id ∉ ids → p ∈ t.stores) ∧
          ∀ p ∈ s.stores, p.id ∉ ids → p.bytes ≠ [] →
            (∀ q ∈ s.stores, q.id ∈ ids → ∀ b ∈ p.bytes, inUnits q.bytes b.1 = false) → p ∈ t.stores))

/-! ## Memory -/

/-- R166, R167, R180, R250, R251: ld and ldx form their address. A load of a line outside the element's die, or of one that is hot
or has a request queued, is asked of the line's engine, at the port of its issuer; it joins behind the element's earlier requests
to the line. Another that is free of races reads its bytes as its element sees them, extended by zeros or by its sign. The return
is owed to mi behind the element's earlier ones. R279: it sees the stores that happen before it, at whatever scope they are
performed, and waits while such a request to its line is queued. `.inc` advances the offset register and keeps its flag. No byte
of memory changes. R290, R341: on a page with stamps the slot keeps its datapath, and the offset register its value, until the
engine has served the access, of a load or of a store. The model's readings (DEDUCED, logs 5 and 66): a load of a line that no
engine serves has its bytes in the step that issues it, and where an access of a stamped page waits for its check. -/
def Obligations.LoadResults : Prop :=
  (∀ (s : State) (f : FmtM) (src : Src) (popped : List (Nat × Token)) (x : Elem),
    Reads s 12 f.sa f.sb (bit f.mod 1) (bit f.mod 0) src popped x → f.sz.toNat ≤ 2 →
    let n := accessBytes f
    let loads (i : Instr) (off : Word) (inc : Bool) : Prop := ∀ va l s1,
      ¬ windowed f off → goesTo s f off va → xlate (taken s x) (elemRq (taken s x) s.cur s.curSlot 0) va false = .ok (l, s1) →
      let passed (t : State) : Prop := (t.elem s.cur).dp = nextDp x s.curSlot s.curBeat ∧
        (∀ k, (t.elem s.cur).dreg k = if inc ∧ k = f.sa.toNat then src.a + BitVec.ofNat 32 n else x.dreg k) ∧
        ∀ k, (t.elem s.cur).dflag k = if inc ∧ k = f.sa.toNat then src.fa else x.dflag k
      (hbQueued s x.hb l.key n false = true → Waits s i src popped x) ∧
      (hbQueued s x.hb l.key n false = false → viaEngine s l = true → ∃ t r, exec i s = .next t ∧ SameMemory s t ∧
        (t.elem s.cur).rets = x.rets ++ [⟨s1.fresh, f.ot, none⟩] ∧
        Joins (s.engine (ownerOf s l.key)).reqs (t.engine (ownerOf s l.key)).reqs r ∧ r.id = s1.fresh ∧ r.req = .element s.cur ∧
        r.port = portOf (ownerOf s l.key) (s.physReg s.cur.inst s.cur.reg) s.cur.el ∧ r.key = l.key ∧ r.va = va ∧ r.w = n ∧
        r.op = .load (bit f.aux 1) ∧ r.ret = true ∧ r.stamped = l.stamped ∧
        (l.stamped = false → passed t) ∧
        (l.stamped = true → (t.elem s.cur).dp = .work ⟨s.curSlot, s.curBeat, i, src, popped, s.now⟩ ∧
          (t.elem s.cur).asked = some s1.fresh ∧ (t.elem s.cur).d = x.d ∧ (t.elem s.cur).fl = x.fl)) ∧
      (hbQueued s x.hb l.key n false = false → viaEngine s l = false →
        (∃ s2, raceCheck s1 (elemRq (taken s x) s.cur s.curSlot 0) l.stamped va l.key n false = .ok s2) →
        badIn s l.key n = none → (∀ k, k < n → inUnspec s (s.inst s.cur.inst).ctx (va + k) = false) →
        ∃ t id v, exec i s = .next t ∧ SameMemory s t ∧ passed t ∧
          (t.elem s.cur).rets = x.rets ++ [⟨id, f.ot, some (BitVec.ofNat 32 (if bit f.aux 1 then
            (if 2 ^ (8 * n - 1) ≤ v then v + 2 ^ 32 - 2 ^ (8 * n) else v) else v))⟩] ∧
          ((∀ p ∈ s.stores, Dep.store p.id ∈ x.hb → ∀ k, k < n → inUnits p.bytes (l.key + k) = false) →
            v = leNat (readBytes s (s.agentOf s.cur) l.key n)) ∧
          ∀ pre p post bs, s.Good → s.stores = pre ++ p :: post → Dep.store p.id ∈ x.hb → p.bytes = keyed l.key bs → bs.length = n →
            (∀ y ∈ post, ∀ b ∈ y.bytes, b.1 < l.key ∨ l.key + n ≤ b.1) → v = leNat bs)
    loads (.ld f) src.a (bit f.aux 0) ∧
    loads (.ldx f) (src.a + src.b * BitVec.ofNat 32 (accessBytes f)) false) ∧
  ∀ (s : State) (e : ERef) (w : Wait) (id : Nat) (f : FmtM), (s.elem e).dp = .work w → (s.elem e).asked = some id →
    w.ins ∈ [Instr.ld f, .ldx f, .st f, .stx f] → (s.elem e).halted = false → (∀ a ∈ s.accs, a.req ≠ .element e) →
    khas s.journals (.element e) = false → Up s e.inst → s.beaten e = false →
    let x := s.elem e
    let inc : Prop := bit f.aux 0 = true ∧ w.ins ∈ [Instr.ld f, .st f]
    (id ∈ x.outstanding → exec (.waitingInstructionResume e) s = .next ((s.beat e).modElem e (fun y => { y with dp := .work w }))) ∧
    (id ∉ x.outstanding → ∃ t, exec (.waitingInstructionResume e) s = .next t ∧ SameMemory s t ∧ t.engines = s.engines ∧
      (t.elem e).dp = nextDp x w.slot w.beat ∧ (t.elem e).asked = none ∧ (t.elem e).rets = x.rets ∧
      (∀ k, (inc ∧ k = f.sa.toNat → (t.elem e).dreg k = w.src.a + BitVec.ofNat 32 (accessBytes f) ∧ (t.elem e).dflag k = w.src.fa)) ∧
      ∀ k, ¬ (inc ∧ k = f.sa.toNat) → (t.elem e).dreg k = x.dreg k ∧ (t.elem e).dflag k = x.dflag k)

/-- R161, R166, R180, R289: st and stx write the low bytes of their data at the address they form, performed at element scope:
their own element reads them there, and in their units what stands before them in the unit's order (R277), every other agent reads
what it read, and no other byte changes for any agent; a page with stamps keeps theirs. R250, R251: a store to a line outside the
element's die, or to one that is hot or has a request queued, is asked of the line's engine, behind the element's earlier requests
to it. R279: it waits while a request to its line that happens before it is queued. R290, R341: on a page with stamps the slot
keeps its datapath until the engine has served it (DEDUCED, log 66). -/
def Obligations.StoreResults : Prop :=
  ∀ (s : State) (f : FmtM) (src : Src) (popped : List (Nat × Token)) (x : Elem), f.sz.toNat ≤ 2 →
    let n := accessBytes f
    let stores (i : Instr) (off : Word) (inc : Bool) : Prop := ∀ va l s1,
      ¬ windowed f off → goesTo s f off va → xlate (taken s x) (elemRq (taken s x) s.cur s.curSlot 0) va true = .ok (l, s1) →
      (src.fb = false ∨ isSink s s.cur = false) →
      let passed (t : State) : Prop := (t.elem s.cur).dp = nextDp x s.curSlot s.curBeat ∧
        (∀ k, (t.elem s.cur).dreg k = if inc ∧ k = f.sa.toNat then src.a + BitVec.ofNat 32 n else x.dreg k) ∧
        ∀ k, (t.elem s.cur).dflag k = if inc ∧ k = f.sa.toNat then src.fa else x.dflag k
      (hbQueued s x.hb l.key n true = true → Waits s i src popped x) ∧
      (hbQueued s x.hb l.key n true = false → viaEngine s l = true → ∃ t r, exec i s = .next t ∧ SameMemory s t ∧
        (t.elem s.cur).outst = x.outst ++ [s1.fresh] ∧
        Joins (s.engine (ownerOf s l.key)).reqs (t.engine (ownerOf s l.key)).reqs r ∧ r.id = s1.fresh ∧ r.req = .element s.cur ∧
        r.port = portOf (ownerOf s l.key) (s.physReg s.cur.inst s.cur.reg) s.cur.el ∧ r.key = l.key ∧ r.va = va ∧ r.w = n ∧
        r.op = .store ∧ r.b = src.b ∧ r.stamped = l.stamped ∧
        (l.stamped = false → passed t) ∧
        (l.stamped = true → (t.elem s.cur).dp = .work ⟨s.curSlot, s.curBeat, i, src, popped, s.now⟩ ∧
          (t.elem s.cur).asked = some s1.fresh ∧ (t.elem s.cur).d = x.d ∧ (t.elem s.cur).fl = x.fl)) ∧
      (∀ s2, hbQueued s x.hb l.key n true = false → viaEngine s l = false →
        raceCheck s1 (elemRq (taken s x) s.cur s.curSlot 0) l.stamped va l.key n true = .ok s2 →
        ∃ t, exec i s = .next t ∧ passed t ∧ t.stamps = s2.stamps ∧ ∀ (a : Agent) (k : Nat),
          let own := a.inst = s.cur.inst ∧ a.reg = s.cur.reg ∧ a.el = some s.cur.el
          readByte t.mem a t.stores k =
            if own ∧ l.key ≤ k ∧ k < l.key + n then BitVec.ofNat 8 (src.b.toNat / 2 ^ (8 * (k - l.key)))
            else if own ∧ touches l.key n k then latest s k else readByte s.mem a s.stores k)
    (Reads s 12 f.sa f.sb (bit f.mod 1) (bit f.mod 0) src popped x → stores (.st f) src.a (bit f.aux 0)) ∧
    (ReadsM s f src popped x →
      stores (.stx f) (src.a + src.d * BitVec.ofNat 32 (accessBytes f)) false)

/-- R166: a misaligned access traps with 0x0A0 and its address, a far form through a pump that is not of the far kind with 0x0A3,
and a data-form access of the window that is not the store it takes with 0x0A8; each leaves channels, registers and memory as they
were. The model's choices: stx never stores to the window (log 14), and a misaligned access of the window traps with 0x0A8 (log
63). -/
def Obligations.AddressTraps : Prop :=
  ∀ (s : State) (f : FmtM) (src : Src) (popped : List (Nat × Token)) (x : Elem),
    Reads s 12 f.sa f.sb (bit f.mod 1) (bit f.mod 0) src popped x →
    let traps (i : Instr) (off : Word) : Prop :=
      (¬ windowed f off → ∀ b, baseOf s f = some b → (b + off.toNat) % 2 ^ 56 % accessBytes f ≠ 0 →
        ∃ t, exec i s = .next t ∧ Traps s t 0x0A0 ((b + off.toNat) % 2 ^ 56)) ∧
      (baseOf s f = none → ∃ t, exec i s = .next t ∧ Traps s t 0x0A3 0)
    traps (.ld f) src.a ∧ traps (.ldx f) (src.a + src.b * BitVec.ofNat 32 (accessBytes f)) ∧ traps (.st f) src.a ∧
    (windowed f src.a → (∃ t, exec (.ld f) s = .next t ∧ Traps s t 0x0A8 0) ∧
      (f.sz ≠ 2 ∨ src.a.toNat % 16 ≠ 0 ∨ 0xFFFF0400 ≤ src.a.toNat → ∃ t, exec (.st f) s = .next t ∧ Traps s t 0x0A8 0)) ∧
    (windowed f (src.a + src.b * BitVec.ofNat 32 (accessBytes f)) → ∃ t, exec (.ldx f) s = .next t ∧ Traps s t 0x0A8 0) ∧
    (ReadsM s f src popped x → traps (.stx f) (src.a + src.d * BitVec.ofNat 32 (accessBytes f)) ∧
      (windowed f (src.a + src.d * BitVec.ofNat 32 (accessBytes f)) → ∃ t, exec (.stx f) s = .next t ∧ Traps s t 0x0A8 0))

/-- R182, R183, R251: atom and atomr queue one request at the engine that owns the line, at the element's own port there, with
their form and operands; atomr owes a return to mi; in the window, and misaligned, they trap; outside HBM4 and the cisterns they
fail with 0x0A6. No byte changes yet. -/
def Obligations.AtomicsAreQueued : Prop :=
  ∀ (s : State) (f : FmtM) (src : Src) (popped : List (Nat × Token)) (x : Elem), ReadsM s f src popped x →
    (∀ i, i ∈ [Instr.atom f, .atomr f] →
      (0xFFFF0000 ≤ src.a.toNat → ∃ t, exec i s = .next t ∧ Traps s t 0x0A8 0) ∧
      (src.a.toNat < 0xFFFF0000 → ((s.inst s.cur.inst).img.dataBase + src.a.toNat) % 2 ^ 56 % accessBytes f ≠ 0 →
        ∃ t, exec i s = .next t ∧ Traps s t 0x0A0 (((s.inst s.cur.inst).img.dataBase + src.a.toNat) % 2 ^ 56))) ∧
    ∀ va l s1, src.a.toNat < 0xFFFF0000 →
      va = ((s.inst s.cur.inst).img.dataBase + src.a.toNat) % 2 ^ 56 → va % accessBytes f = 0 →
      xlate (taken s x) (elemRq (taken s x) s.cur s.curSlot 1) va true = .ok (l, s1) →
      (∀ ret : Bool, hasEngine l = true →
        ∃ t, exec (if ret then .atomr f else .atom f) s = .next t ∧ SameMemory s t ∧
          (∃ r, Joins (s.engine (ownerOf s l.key)).reqs (t.engine (ownerOf s l.key)).reqs r ∧
            r.port = portOf (ownerOf s l.key) (s.physReg s.cur.inst s.cur.reg) s.cur.el ∧ r.key = l.key ∧
            r.w = accessBytes f ∧ r.op = .form f.aux.toNat ∧ r.b = src.b ∧ r.d = src.d ∧ r.id = s1.fresh) ∧
          (t.elem s.cur).rets = x.rets ++ (if ret then [⟨s1.fresh, f.ot, none⟩] else []) ∧
          (t.elem s.cur).outst = x.outst ++ (if ret then [] else [s1.fresh])) ∧
      (hasEngine l = false → (s.graph (s.inst s.cur.inst).graph).fault = none → ∀ i, i ∈ [Instr.atom f, .atomr f] →
        ∃ t r, exec i s = .next t ∧ SameMemory s t ∧
          (t.graph (s.inst s.cur.inst).graph).fault = some r ∧ r.cause = 0x0A6 ∧ r.prec = false ∧ r.addr = va)

/-- R58, R182, R183: an engine serves the first port with a request from one past the last it served; it reads, computes the
form's new value over the access's bytes and writes it as one step; the old value is the return; every other byte stays, or, in
the unit it writes, is as the unit's order has it (R277). R251, R340: a request whose peer has lapsed fails its graph with 0x0B1,
one whose line ECC cannot correct with 0x0E0, from the engine (9), and changes no byte. R289, R290, R341: an element's load or
store of a page with stamps is checked as it is served, and sets its stamps there; one that races traps precisely with 0x090 and
the granule's address, what it popped put back into channels of 16 (R35), its registers as they were. The model's choice (log 65):
the line becomes hot, and the line served longest ago goes where there would be 65. -/
def Obligations.AtomicServeResults : Prop :=
  ∀ (s : State) (eng p : Nat) (r : EngReq), Memory.wf s.mem →
    r ∈ (s.engine eng).reqs → r.port = p → p < 66 →
    (∀ q ∈ (s.engine eng).reqs, q.port < 66 → (p + 65 - (s.engine eng).last) % 66 ≤ (q.port + 65 - (s.engine eng).last) % 66) →
    (s.engine eng).reqs.find? (fun q => q.port == p) = some r → (s.engine eng).last < 66 →
    (∀ e, r.req = .element e → (s.elem e).logq = []) →
    (∀ e, r.req = .element e → (s.graph (s.inst e.inst).graph).fault = none →
      let gi := (s.inst e.inst).graph
      let fails (c : Nat) : Prop :=
        ∃ t, exec (.atomicEngineServe eng) s = .next t ∧ SameMemory s t ∧ Faulted t gi c 9 ∧ (t.engine eng).last = p
      (peerLost s r = true → fails 0x0B1) ∧
      (∀ b, peerLost s r = false → badIn s r.key r.w = some b → fails 0x0E0) ∧
      (∀ c a i k, peerLost s r = false → badIn s r.key r.w = none → servedCheck s r = .error (.trap c a i k) →
        ∃ t, exec (.atomicEngineServe eng) s = .next t ∧ SameMemory s t ∧ (t.engine eng).last = p ∧ t.stamps = s.stamps ∧
          (∃ y, (t.graph gi).fault = some y ∧ y.cause = 0x090 ∧ y.engine = 0 ∧ y.prec = true ∧ y.slot = r.slot ∧ y.addr = a ∧
            y.coord = coordOf e.reg e.el) ∧
          (t.elem e).trapped = true ∧ (t.elem e).asked = none ∧ (t.elem e).d = (s.elem e).d ∧ (t.elem e).fl = (s.elem e).fl ∧
          r.id ∉ (t.elem e).outstanding ∧ ∀ w ch, (s.elem e).dp = .work w →
            let back := (w.popped.filter (fun y => y.1 == ch)).map Prod.snd
            back.length + ((s.elem e).chan ch).length ≤ 16 → (t.elem e).chan ch = back ++ (s.elem e).chan ch)) ∧
    (∀ u, badIn s r.key r.w = none → servedCheck s r = .ok u → peerLost s r = false →
    (∀ n, n < r.w → inUnspec s (reqCtx s r.req) (r.va + n) = false) →
    0 < r.w → r.w ≤ 4 → (∀ q ∈ s.stores, ∀ b ∈ q.bytes, b.1 < r.key ∨ r.key + r.w ≤ b.1) →
    let old := leNat ((List.range r.w).map (fun n => memGet s.mem (r.key + n)))
    let m := 2 ^ (8 * r.w)
    let sv (v : Nat) : Int := if m / 2 ≤ v then (v : Int) - m else v
    let b := r.b.toNat % m
    ∃ t, exec (.atomicEngineServe eng) s = .next t ∧ t.stamps = u.stamps ∧
      (∀ sg, r.op = .load sg → SameMemory s t) ∧
      ((∀ sg, r.op ≠ .load sg) → ∀ a k, k < r.key ∨ r.key + r.w ≤ k → readByte t.mem a t.stores k =
        if touches r.key r.w k then latest s k else readByte s.mem a s.stores k) ∧
      let new := leNat ((List.range r.w).map (fun n => memGet t.mem (r.key + n)))
      (r.op = .form 0 → new = (old + b) % m) ∧
      (r.op = .form 1 → ∀ k, new.testBit k = (old.testBit k && r.b.toNat.testBit k)) ∧
      (r.op = .form 2 → ∀ k, k < 8 * r.w → new.testBit k = (old.testBit k || r.b.toNat.testBit k)) ∧
      (r.op = .form 3 → ∀ k, k < 8 * r.w → new.testBit k = xor (old.testBit k) (r.b.toNat.testBit k)) ∧
      (r.op = .form 4 → sv new = min (sv old) (sv b)) ∧
      (r.op = .form 5 → sv new = max (sv old) (sv b)) ∧
      (r.op = .form 6 → new = b) ∧
      (r.op = .form 7 → new = if old = b then r.d.toNat % m else old) ∧
      (∀ sg, r.op = .load sg → new = old) ∧
      (r.op = .store → new = b) ∧
      (∀ e q, r.req = .element e → q ∈ (s.elem e).rets → q.id = r.id → (∀ sg, r.op ≠ .load sg) →
        ∃ q' ∈ (t.elem e).rets, q'.id = r.id ∧ q'.val = some (BitVec.ofNat 32 old)) ∧
      (t.engine eng).last = p ∧ (t.engine eng).hot.head? = some (r.key / 64) ∧ (t.engine eng).hot.length ≤ 64)

/-- R35, R167: returns reach mi in issue order: the oldest, once its value is known and mi has a place, is pushed with its tag and
flag 0; while it is not known no later return passes it; a completion token that mi had no place for follows as it stood. That a
load's return goes before a held completion token is the model's choice (log 63). R181, R289, R369: mdone counts, and where the
element has done wiring arms one token behind the operations that are still to be performed, with its own stores so far and its
region's release; `.wait` keeps the datapath until none is. The token leaves when its set is performed, in order, with the count
and tag, a copy to each destination that has room, the others later; it performs at the done scope the stores of its set and no
others, but for those earlier in the order of a unit that is performed everywhere (R277). -/
def Obligations.ReturnAndDoneResults : Prop :=
  (∀ (s : State) (e : ERef) (r : Ret) (rs : List Ret),
     (s.elem e).rets = r :: rs →
     (∀ v, r.val = some v → ((s.elem e).chan 4).length < 16 →
       ∃ t, exec (.loadReturn e) s = .next t ∧ (t.elem e).rets = rs ∧
         (t.elem e).chan 4 = (s.elem e).chan 4 ++ [⟨v, r.tag, false, none, none⟩] ∧ (∀ a, a ≠ e → t.elem a = s.elem a)) ∧
     (r.val = none → (s.elem e).owed = [] → ¬ ∃ t, exec (.loadReturn e) s = .next t) ∧
     (∀ c cs, r.val = none → (s.elem e).owed = c :: cs → ((s.elem e).chan 4).length < 16 →
       ∃ t, exec (.loadReturn e) s = .next t ∧ (t.elem e).rets = r :: rs ∧ (t.elem e).owed = cs ∧
         (t.elem e).chan 4 = (s.elem e).chan 4 ++ [c])) ∧
  ((∀ (s : State) (f : FmtM) (src : Src) (popped : List (Nat × Token)) (x : Elem),
     Reads s 12 f.sa f.sb (bit f.mod 1) (bit f.mod 0) src popped x →
     (bit f.aux 0 = true → x.outstanding ≠ [] → Waits s (.mdone f) src popped x) ∧
     (bit f.aux 0 = false ∨ x.outstanding = [] →
       ∃ t, exec (.mdone f) s = .next t ∧ (t.elem s.cur).mdcnt = x.mdcnt + 1 ∧
         (doneOf s s.cur = none → (t.elem s.cur).mdq = x.mdq) ∧
         ((doneOf s s.cur).isSome = true → ∃ (ids : List Nat) (rel : Release),
           (t.elem s.cur).mdq = x.mdq ++ [⟨x.mdcnt + 1, f.ot, x.outstanding, ids, rel, []⟩] ∧
           rel.reg = s.physReg s.cur.inst s.cur.reg ∧ rel.num = kget 1 s.num rel.reg ∧
           (∀ o ∈ x.outstanding, Dep.request s.cur o ∈ rel.deps) ∧ (∀ n ∈ ids, Dep.store n ∈ rel.deps) ∧
           ∀ n, n ∈ ids ↔ ∃ p ∈ t.stores, p.id = n ∧ p.inst = s.cur.inst ∧ p.reg = s.cur.reg ∧ p.el = s.cur.el) ∧
         (t.elem s.cur).d = x.d ∧ (t.elem s.cur).fl = x.fl ∧ (t.elem s.cur).inp = x.inp)) ∧
   (∀ (s : State) (e : ERef) (m : MdWait) (ms : List MdWait) (d : DoneDecl),
     (s.stores.map Pending.id).Nodup → (s.elem e).mdq = m :: ms → doneOf s e = some d →
     let ws := (wiresOf s e).filter (fun w => !m.sent.contains w.1)
     let room (u : State) (w : Nat × Nat × Nat × Nat) : Bool := destRoom u e.inst w.2.1 w.2.2.1 w.2.2.2
     ((∃ o ∈ m.ops, o ∈ (s.elem e).outstanding) → ¬ ∃ t, exec (.mdoneToken e) s = .next t) ∧
     (ws ≠ [] → (∀ w ∈ ws, room s w = false) → ¬ ∃ t, exec (.mdoneToken e) s = .next t) ∧
     ((∀ o ∈ m.ops, o ∉ (s.elem e).outstanding) → (ws = [] ∨ ∃ w ∈ ws, room s w = true) →
       ∃ (t : State) (sent : List Nat), exec (.mdoneToken e) s = .next t ∧ (∀ n ∈ sent, ∃ w ∈ ws, w.1 = n) ∧
       (∀ n, kget [] (t.inst e.inst).flight n =
         kget [] (s.inst e.inst).flight n ++ (if n ∈ sent then [⟨m.count, m.tag, false, none, some m.rel⟩] else [])) ∧
       (∀ w ∈ ws, w.1 ∉ sent → room t w = false) ∧
       ((∀ w ∈ ws, w.1 ∈ sent) → (t.elem e).mdq = ms) ∧
       ((∃ w ∈ ws, w.1 ∉ sent) → (t.elem e).mdq = { m with sent := m.sent ++ sent } :: ms) ∧
       (∀ p ∈ t.stores, p.id ∈ m.stores → d.scope.rank ≤ p.scope.rank) ∧
       (d.scope ≠ .system → (∀ q ∈ s.stores, q.scope ≠ .system) → ∀ p ∈ s.stores, p.id ∉ m.stores → p ∈ t.stores) ∧
       ∀ p ∈ s.stores, p.id ∉ m.stores → p.bytes ≠ [] →
         (∀ q ∈ s.stores, q.id ∈ m.stores → ∀ b ∈ p.bytes, inUnits q.bytes b.1 = false) → p ∈ t.stores)))

/-- R184, R185, R186, R313, R314: a store in the window queues a copy on its channel, of which 16 wait; the head copy starts once
its issuer's earlier operations, and what happens before it (R279), are performed, from a valid template (0x0A7), and ends when
its rows are written: an element's then writes its ring record and advances HEAD, waiting while the ring is full or has served a
later element in this cycle, a packet's completes its packet. The model's choices: the ring record takes its turn of the cycle
(log 56), its accesses check and set no stamps (log 10), and a copy that runs counts among the 16 (log 63). -/
def Obligations.CopyResults : Prop :=
  (∀ (s : State) (f : FmtM) (src : Src) (popped : List (Nat × Token)) (x : Elem) (ch : Nat),
    Reads s 12 f.sa f.sb (bit f.mod 1) (bit f.mod 0) src popped x → f.sz = 2 → bit f.aux 2 = false → ch < 64 →
    src.a.toNat = 0xFFFF0000 + 16 * ch →
    let die := s.dieOf s.cur.inst s.cur.reg
    let jobs := kget [] s.copies (chanKey die ch)
    (src.b.toNat % 64 ≠ 0 → ∃ t, exec (.st f) s = .next t ∧ Traps s t 0x023 0) ∧
    (src.b.toNat % 64 = 0 → 16 ≤ jobs.length → Waits s (.st f) src popped x) ∧
    (src.b.toNat % 64 = 0 → jobs.length < 16 → ∃ t, exec (.st f) s = .next t ∧
      (src.fb = false ∨ isSink s s.cur = false → SameMemory s t) ∧ kget [] t.copies (chanKey die ch) =
        jobs ++ [⟨.elem s.cur s.curSlot, (s.inst s.cur.inst).ctx, [src.b], 0, false, false, s.fresh, before (taken s x) s.cur⟩])) ∧
  (∀ (s : State) (die ch : Nat) (j : CopyJob) (js : List CopyJob), kget [] s.copies (chanKey die ch) = j :: js →
    (∀ a ∈ s.accs, a.req ≠ .copy die ch) → khas s.journals (.copy die ch) = false →
    let q := copyRq s die ch j
    let head (t : State) : List CopyJob := kget [] t.copies (chanKey die ch)
    s.tape = none →
    let ready (e : ERef) : Prop := (s.elem e).outstanding = [] ∧ requestOpen s j.hb = false
    (∀ e slot, j.started = false → j.who = .elem e slot → ¬ ready e →
      ¬ ∃ t, exec (.copyStart die ch) s = .next t) ∧
    (∀ e slot ws u, j.started = false → j.who = .elem e slot → ready e →
      readWords q (dataVA s e.inst (nthW j.tpl 0).toNat) 16 (widenDeps (widenElem s e .part) j.hb .part) = .ok (ws, u) →
      (tplOk ws = true → ∃ t, exec (.copyStart die ch) s = .next t ∧ t.mem = u.mem ∧ head t = { j with started := true, tpl := ws, ring := dataVA s e.inst (Tpl.ring ws) } :: js) ∧
      (tplOk ws = false → ∃ t, exec (.copyStart die ch) s = .next t ∧ head t = js ∧
        ((s.graph (s.inst e.inst).graph).fault = none → Faulted t (s.inst e.inst).graph 0x0A7 6))) ∧
    (∀ qn index comp int, j.started = false → j.who = .packet qn index comp int →
      ∃ t, exec (.copyStart die ch) s = .next t ∧ SameMemory s t ∧ head t = { j with started := true } :: js) ∧
    (∀ g ws u, j.started = false → j.who = .node g →
      readWords q ((nthW j.tpl 0).toNat + 2 ^ 32 * (nthW j.tpl 1).toNat) 16 s = .ok (ws, u) → tplOk ws = true →
      ∃ t, exec (.copyStart die ch) s = .next t ∧ head t = { j with started := true, tpl := ws, ring := 0 } :: js) ∧
    (∀ u, j.started = true → (if j.written then .ok s else copyRows q j.tpl (Tpl.rows j.tpl) 0 s) = .ok u →
      (∀ qn index comp int, j.who = .packet qn index comp int → ∃ t, exec (.copyEnd die ch) s = .next t ∧ head t = js ∧
        (comp = 0 → t.mem = u.mem ∧
          t.irqs = u.irqs ++ (if int then [queueVector qn] else []) ∧ (t.queue qn).open_ = ((u.queue qn).open_).filter (· != index)) ∧
        let told := completePacket (dropHead u die ch) qn index comp int 0 0
        t.mem = told.mem ∧ t.irqs = told.irqs ∧ t.fronts = told.fronts ∧ t.queues = told.queues) ∧
      (∀ g, j.who = .node g → ∃ t, exec (.copyEnd die ch) s = .next t ∧ t.mem = u.mem ∧ head t = js) ∧
      (∀ e slot hd, j.who = .elem e slot → Tpl.ring j.tpl % 64 = 0 →
        let free : Rq := { q with charge := none }
        let va := dataVA u e.inst (Tpl.ring j.tpl)
        ringHeader free va u = .ok (hd, u) →
        let n := (nthW hd 1).toNat
        let full := (n + 2 ^ 31 - (nthW hd 3).toNat) % 2 ^ 31 = 2 ^ bits (nthW hd 0) 4 0 ∨
          ringTurn u q e va = false
        (full → j.written = false → ∃ t, exec (.copyEnd die ch) s = .next t ∧ t.mem = u.mem ∧ head t = { j with written := true } :: js) ∧
        (full → j.written = true → ¬ ∃ t, exec (.copyEnd die ch) s = .next t) ∧
        (∀ v w, ¬ full → writeWords free (va + 64 + 16 * (n % 2 ^ bits (nthW hd 0) 4 0)) [Tpl.cookie j.tpl, BitVec.ofNat 32 (Tpl.rows j.tpl),
            BitVec.ofNat 32 (Tpl.len j.tpl * Tpl.rows j.tpl), nthW hd 1] u = .ok v →
          writeWord free (va + 4) (BitVec.ofNat 32 ((n + 1) % 2 ^ 31)) v = .ok w →
          ∃ t, exec (.copyEnd die ch) s = .next t ∧ t.mem = w.mem ∧ head t = js)))) ∧
  (∀ (q : Rq) (ws : List Word) (n r : Nat) (s v : State),
    copyRows q ws (n + 1) r s = .ok v ↔ ∃ bs s1 s2,
      readVA q (((Tpl.src ws : Int) + r * Tpl.spitch ws) % 2 ^ 56).toNat (Tpl.len ws) s = .ok (bs, s1) ∧
      writeVA q (((Tpl.dst ws : Int) + r * Tpl.dpitch ws) % 2 ^ 56).toNat bs s1 = .ok s2 ∧ copyRows q ws n (r + 1) s2 = .ok v)

/-- R265 to R273: a walk reads one level after another, 16 of a die at once, fills the die's TLB from a valid leaf, the count of
an entry that stands there kept (R273), faults with 0x081 where the entry is not present, and ends the graph with 0x080 where it
is not valid; a fault takes a free hold, with its record in the fault ring, or joins the open hold of its page; RETRY lets a
hold's accesses be translated again, without what the TLBs hold of the page, ABANDON ends their graphs with 0x08A; an invalidation
drops what it covers once the engines hold no request whose translation meets its range; a host translation enters the TLB at its
own size; an access through an entry with AC counts, and at the threshold a notification falls due and the count starts anew; a
notification that is due is posted, or counted as lost while its ring is full; what the front end writes goes on once it is
translated. The model's choices: the front end's walk (log 9), fprod and nprod running freely modulo 2^32 (log 26), the size of a
host entry and what an invalidation waits for (log 38). -/
def Obligations.TranslationResults : Prop :=
  ∀ (s : State),
    (∀ (r : Req) (a : Acc), s.accs.find? (fun y => y.req == r) = some a → OneAccess s →
      let gone (t : State) : Prop := ∀ y ∈ t.accs, y.req ≠ r
      let stands (t : State) (st : AccSt) : Prop := t.accs.find? (fun y => y.req == r) = some { a with st := st }
      (∀ o, isFront r = false → (a.st = .walk ∧ walkerRoom s a.die = true ∧ o = walkAt s a.va 3 (s.ctx a.ctx).root) ∨
          (∃ n tb, a.st = .walking n tb ∧ o = walkAt s a.va n tb) →
        (∀ n tb, o = .next n tb → ∃ t, exec (.translationWalk r) s = .next t ∧ stands t (.walking n tb) ∧ SameMemory s t) ∧
        (∀ n w, o = .leaf n w → ∃ t c, exec (.translationWalk r) s = .next t ∧ gone t ∧ SameMemory s t ∧
          ⟨a.ctx, a.va / 2 ^ pageLog n, pageLog n, w, none, c, false⟩ ∈ kget [] t.tlb a.die ∧
          ((∀ y ∈ kget [] s.tlb a.die, ¬ (y.host = none ∧ y.ctx = a.ctx ∧ y.page = a.va / 2 ^ pageLog n ∧ y.log = pageLog n)) → c = 0) ∧
          ∀ y ∈ kget [] s.tlb a.die, y.host = none ∧ y.ctx = a.ctx ∧ y.page = a.va / 2 ^ pageLog n ∧ y.log = pageLog n →
            (∀ z ∈ kget [] s.tlb a.die, z.host = none ∧ z.ctx = a.ctx ∧ z.page = y.page ∧ z.log = y.log → z = y) → c = y.count) ∧
        (∀ n, o = .absent n → ∃ t, exec (.translationWalk r) s = .next t ∧ stands t (.fault 0x081)) ∧
        (∀ n e, o = .invalid n → r = .element e → (s.graph (s.inst e.inst).graph).fault = none →
          ∃ t, exec (.translationWalk r) s = .next t ∧ gone t ∧ Faulted t (s.inst e.inst).graph 0x080 0) ∧
        (∀ i k e, o = .bad i k → r = .element e → (s.graph (s.inst e.inst).graph).fault = none →
          ∃ t, exec (.translationWalk r) s = .next t ∧ gone t ∧ Faulted t (s.inst e.inst).graph 0x0E0 0)) ∧
      (isFront r = false → a.st = .walk → walkerRoom s a.die = false → ¬ ∃ t, exec (.translationWalk r) s = .next t) ∧
      (∀ n u, r = .front n → a.st = .walk → (∀ p ∈ s.fronts, p.2.ctx = a.ctx → n ≤ p.1) →
        let f := kget ⟨0, 0, [], none, none⟩ s.fronts n
        directParts f.ctx f.parts s = (u, []) → ∃ t, exec (.translationWalk r) s = .next t ∧ gone t ∧ t.mem = u.mem ∧
          t.irqs = u.irqs ++ f.irq.toList ∧ khas t.fronts n = false ∧
          ∀ qn i, f.pkt = some (qn, i) → (t.queue qn).open_ = ((s.queue qn).open_).filter (· != i)) ∧
      (∀ cause h, a.st = .fault cause →
        let pg := faultPage s a
        let mine (p : Nat × Hold) : Prop := p.2.die = a.die ∧ p.2.ctx = a.ctx ∧ p.2.page = pg.1 ∧ p.2.cause = cause
        let x := s.xreg
        (∀ p, p ∈ s.holds → mine p → (∀ y ∈ s.holds, mine y → y = p) →
          ∃ t, exec (.translationFault r p.1) s = .next t ∧ stands t (.held p.1) ∧ t.xreg = x) ∧
        ((∀ p ∈ s.holds, ¬ mine p) → h < 1024 → khas s.holds h = false → (x.fprod + 2 ^ 32 - x.fcons) % 2 ^ 32 < 2 ^ x.fsize →
          Memory.wf s.mem →
          ∃ t, exec (.translationFault r h) s = .next t ∧ stands t (.held h) ∧
            (∃ p ∈ t.holds, p.1 = h ∧ mine p) ∧ t.xreg.fprod = (x.fprod + 1) % 2 ^ 32 ∧ t.xreg.recNo = (x.recNo + 1) % 2 ^ 32 ∧
            ∀ k, k < 32 → memGet t.mem (hostKey (x.fbase + 32 * (x.fprod % 2 ^ x.fsize)) + k) =
              (bytesOfWords (faultRecord s a h cause)).getD k 0) ∧
        ((∀ p ∈ s.holds, ¬ mine p) → 2 ^ x.fsize ≤ (x.fprod + 2 ^ 32 - x.fcons) % 2 ^ 32 →
          ¬ ∃ t, exec (.translationFault r h) s = .next t)) ∧
      (∀ addr log w e, isFront r = false → a.st = .ats → leafFor s a = some e → 12 ≤ log → log ≤ 56 → (a.wr = true → w = true) →
        ∃ t, exec (.atsTranslationCompletion r (.mapped addr log w)) s = .next t ∧ gone t ∧
          ∃ y ∈ kget [] t.tlb a.die, y.leaf = e.leaf ∧ y.hostW = w ∧ y.log = log ∧ y.page = a.va / 2 ^ log ∧
            y.host = some (addr / 2 ^ log * 2 ^ log))) ∧
    (∀ h, khas s.holds h = true →
      let d := kget ⟨0, 0, 0, 0, 0, 14⟩ s.holds h
      let again (t : State) : Prop := khas t.holds h = false ∧ t.accs = s.accs.map (fun a => if a.st = .held h then { a with st := .walk } else a)
      (∃ t, exec (.xretryRetry h) s = .next t ∧ again t ∧ ∀ y ∈ kget [] t.tlb d.die, y.meets d.ctx d.page (2 ^ d.log) = false) ∧
      (∃ t, exec (.xretryAbandon h) s = .next t ∧ khas t.holds h = false ∧
        ∀ a e, s.accs.filter (fun y => y.st == .held h) = [a] → a.req = .element e → (s.graph (s.inst e.inst).graph).fault = none →
          Faulted t (s.inst e.inst).graph 0x08A 0 ∧ ∀ y ∈ t.accs, y.req ≠ a.req) ∧
      (d.cause = 0x088 → ∃ t, exec (.priResponse h .success) s = .next t ∧
        (∀ k ∈ pageHolds s d.ctx d.page, khas t.holds k = false) ∧ t.accs = s.accs.map (fun a => match a.st with
          | .held k => if k ∈ pageHolds s d.ctx d.page then { a with st := .walk } else a
          | _ => a)) ∧
      (d.cause ≠ 0x088 → ¬ ∃ t, exec (.priResponse h .success) s = .next t)) ∧
    (∀ h, khas s.holds h = false → exec (.xretryRetry h) s = .next s ∧ exec (.xretryAbandon h) s = .next s) ∧
    (∀ v : Word, bit v 31 = true → s.xreg.busy = false → s.recovery = false →
      ∃ t, exec (.invalidationStart v) s = .next t ∧ t.xreg.busy = true ∧ t.xreg.job = invalOf s.xreg v) ∧
    (let idle (j : Inval) : Prop := ∀ p ∈ s.engines, ∀ y ∈ p.2.reqs,
       let page := y.va / 2 ^ y.log * 2 ^ y.log
       engCtx s y ≠ j.ctx ∨ (j.all = false ∧ (page + 2 ^ y.log ≤ j.va ∨ j.va + j.n ≤ page))
     let j := s.xreg.job
     (idle j → s.xreg.busy = true → ∃ t, exec .invalidationComplete s = .next t ∧ t.xreg.busy = false ∧
        ∀ die, ∀ y ∈ kget [] t.tlb die, y.ctx = j.ctx → j.all = false ∧ y.meets j.ctx j.va j.n = false) ∧
     (¬ idle j → ¬ ∃ t, exec .invalidationComplete s = .next t) ∧
     ∀ ctx va n, idle ⟨ctx, false, va, n * 2 ^ 14⟩ → ∃ t, exec (.atsInvalidation ctx va n) s = .next t ∧
        ∀ die, ∀ y ∈ kget [] t.tlb die, y.host.isSome = true → y.meets ctx va (n * 2 ^ 14) = false) ∧
    (∀ q e va y, bit e.leaf 61 = true → q.counts = true →
      let held (u : State) : Option TlbE := (kget [] u.tlb q.die).find? (fun z => z.host.isNone && z.hits q.ctx va)
      held s = some y →
      let u := countAccess s q e va
      (1 ≤ s.xreg.thr ∧ s.xreg.thr ≤ y.count + 1 → held u = some { y with count := 0 } ∧
        u.xreg.due = s.xreg.due ++ [(q.die, notifyRecord q.die y)]) ∧
      (s.xreg.thr = 0 ∨ y.count + 1 < s.xreg.thr → held u = some { y with count := y.count + 1 } ∧ u.xreg = s.xreg)) ∧
    ∀ die idx,
      let x := s.xreg
      let room := (x.nprod + 2 ^ 32 - x.ncons) % 2 ^ 32 < 2 ^ x.nsize
      (∀ p, (x.due.filter (fun p => p.1 == die))[idx]? = some p → ∃ t, exec (.accessCountNotify die idx) s = .next t ∧
        t.xreg.due = x.due.erase p ∧
        (room → Memory.wf s.mem → t.xreg.nprod = (x.nprod + 1) % 2 ^ 32 ∧ t.xreg.lost = x.lost ∧ ∀ k, k < 4 * p.2.length →
          memGet t.mem (hostKey (x.nbase + 16 * (x.nprod % 2 ^ x.nsize)) + k) = (bytesOfWords p.2).getD k 0) ∧
        (¬ room → t.xreg.nprod = x.nprod ∧ t.xreg.lost = min (x.lost + 1) 0xFFFFFFFF ∧ SameMemory s t)) ∧
      ((x.due.filter (fun p => p.1 == die))[idx]? = none → ¬ ∃ t, exec (.accessCountNotify die idx) s = .next t)

/-! ## Tiles and pumps -/

/-- R100, R103, R104, R171: with no action of a later place in this cycle at the table (log 56), talloc takes a free entry of the
table its level names, allocated and empty with the spec word, every byte of the tile 0, and gives the handle of its place, entry
and generation; a spec word with a reserved field, a full table and storage too small trap with 0x024, 0x022 and 0x02E. tfree
frees an entry that nothing uses, its generation advanced, leaves one in use free-pending, has no further effect on one that is,
and traps on a stale handle. R32, R102, R173, R174: tcfg gives a tile that nothing uses a new shape of its level within its size,
F := 0, its handle, bytes and generation kept, and its result is SA, flag and all; tqry reads a field of the entry and gives 0 for
a stale handle. The order of tcfg's checks of 0x024 and 0x02E is the model's choice (log 63), as is the turn of the cycle at the
table (log 56). -/
def Obligations.TileInstructionResults : Prop :=
  (∀ (s : State) (f : FmtM) (src : Src) (popped : List (Nat × Token)) (x : Elem), ReadsM s f src popped x →
     let e := s.cur
     let lvl := bits src.a 31 30
     let place := if lvl = 2 then e.reg / 24 else e.reg
     let el := if lvl = 0 then e.el else 0
     let tab := if lvl = 2 then 192 + s.physDie e.inst place else s.physReg e.inst place
     let good := lvl ≤ 2 ∧ bits src.a 29 26 ≤ 10 ∧ bits src.a 25 14 = 0
     let entry := entryOf s e.inst src.a
     (∀ k, s.inTurn (.table k) (tableKey e.el) = true) →
     (¬ good → ∃ t, exec (.talloc f) s = .next t ∧ Traps s t 0x024 0) ∧
     (good → (∀ k, k < 1024 → (s.tile (tab, k)).state ≠ .free) → ∃ t, exec (.talloc f) s = .next t ∧ Traps s t 0x022 0) ∧
     (good → (∃ k, k < 1024 ∧ (s.tile (tab, k)).state = .free) → fits s tab lvl e.el (specBytes src.a) = false →
       ∃ t, exec (.talloc f) s = .next t ∧ Traps s t 0x02E 0) ∧
     (good → (∃ k, k < 1024 ∧ (s.tile (tab, k)).state = .free) → fits s tab lvl e.el (specBytes src.a) = true →
       ∃ k u, k < 1024 ∧ (s.tile (tab, k)).state = .free ∧
         Yields s (.talloc f) u (sinkM f) (fun r => r.rf = false ∧
           r.r = BitVec.ofNat 32 (lvl * 2 ^ 30 + (s.tile (tab, k)).gen * 2 ^ 24 + place * 2 ^ 16 + el * 2 ^ 10 + k)) ∧
         (u.tile (tab, k)).state = .allocated ∧ (u.tile (tab, k)).gen = (s.tile (tab, k)).gen ∧
         (u.tile (tab, k)).spec = src.a ∧ (u.tile (tab, k)).f = false ∧ (u.tile (tab, k)).uses = 0 ∧
         (∀ y, y ≠ (tab, k) → u.tile y = s.tile y) ∧
         (∀ i, memGet u.mem i = if tileKey tab k 0 ≤ i ∧ i < tileKey tab k 0 + specBytes src.a then 0 else memGet s.mem i)) ∧
     (live s e.inst src.a = true → ∃ t, exec (.tfree f) s = .next t ∧ (∀ y, y ≠ entry → t.tile y = s.tile y) ∧
       ((s.tile entry).uses = 0 → (t.tile entry).state = .free ∧ (t.tile entry).gen = ((s.tile entry).gen + 1) % 64 ∧
         (t.tile entry).f = false) ∧
       ((s.tile entry).uses ≠ 0 → (t.tile entry).state = .pending ∧ (t.tile entry).gen = (s.tile entry).gen)) ∧
     (live s e.inst src.a = false → handleIn s e.inst src.a true = true →
       ∃ t, exec (.tfree f) s = .next t ∧ t.tiles = s.tiles) ∧
     (handleIn s e.inst src.a true = false → ∃ t, exec (.tfree f) s = .next t ∧ Traps s t 0x020 0)) ∧
  (∀ (s : State) (f : FmtM) (src : Src) (popped : List (Nat × Token)) (x : Elem), ReadsM s f src popped x →
     let e := s.cur
     let entry := entryOf s e.inst src.a
     let y := s.tile entry
     let named := handleIn s e.inst src.a true
     let busy := y.uses ≠ 0 ∨ y.state = .pending
     let fitsIn := specLvl src.b = specLvl y.spec ∧ specBytes src.b ≤ y.size
     let traps (c : Nat) : Prop := ∃ t, exec (.tcfg f) s = .next t ∧ Traps s t c 0
     s.inTurn (.table entry.1) (tableKey e.el) = true →
     (named = false → traps 0x020) ∧ (named = true → busy → traps 0x021) ∧
     (named = true → ¬ busy → specOk src.b = false → traps 0x024) ∧
     (named = true → ¬ busy → specOk src.b = true → ¬ fitsIn → traps 0x02E) ∧
     (named = true → ¬ busy → specOk src.b = true → fitsIn →
       Gives s (.tcfg f)
         (((taken s x).modTile entry (fun z => { z with spec := src.b, f := false })).act (.table entry.1) (tableKey e.el))
         (sinkM f) ⟨src.a, src.fa, false⟩) ∧
     Yields s (.tqry f) ((taken s x).act (.table entry.1) (tableKey e.el)) (sinkM f) (fun r => r.rf = false ∧
       (f.aux = 1 → r.r = if live s e.inst src.a then 1 else if named then 2 else 0) ∧
       (f.aux ≠ 1 → live s e.inst src.a = false → r.r = 0) ∧
       (live s e.inst src.a = true → (f.aux = 0 → r.r = y.spec) ∧ (f.aux = 2 → r.r = BitVec.ofNat 32 y.uses) ∧
         (f.aux = 3 → r.r = if y.f then 1 else 0) ∧ (f.aux = 4 → r.r = BitVec.ofNat 32 (specBytes y.spec)))))

/-- R101, R103, R104, R175, R280: in its turn at the table, tld and tst queue their request there and count in the tile's uses
until it is performed; `.wf` and `.we` wait for the tag, the tile in use from the beginning of the wait on, while it stands
otherwise or what the element has asked before may still change it, and `.wf` acquires the release behind it before its access is
checked; a stale handle and an index outside the tile trap with 0x020 and 0x02F. No byte changes yet. The turn of the cycle is the
model's (log 56). R103, R175, R370: a table serves its earliest request, of one cycle the lowest element's: a read returns the
tile's word and clears the tag where it asks so, a write writes that word alone; the use ends. A read of a line that ECC cannot
correct fails the graph with 0x0E0. After a `tst.set` the tag becomes full, with the release of the region that set it and what
came before; a free-pending entry that nothing uses becomes free, its generation advanced. -/
def Obligations.TileAccessResults : Prop :=
  (∀ (s : State) (f : FmtM) (src : Src) (popped : List (Nat × Token)) (x : Elem),
     let e := s.cur
     let entry := entryOf s e.inst src.a
     let y := s.tile entry
     let queued (i : Instr) (wr : Bool) (idx : Nat) (data : Word) : Prop :=
       x.waitUse = none → (s.inTurn (.table entry.1) (tableKey e.el) = false → Waits s i src popped x) ∧
       (s.inTurn (.table entry.1) (tableKey e.el) = true →
       (live s e.inst src.a = false → ∃ t, exec i s = .next t ∧ Traps s t 0x020 0) ∧
       (live s e.inst src.a = true → specBytes y.spec / 4 ≤ idx → ∃ t, exec i s = .next t ∧ Traps s t 0x02F 0) ∧
       (live s e.inst src.a = true → idx < specBytes y.spec / 4 → bit f.aux 1 = true → y.f = wr ∨ tagOpen s e entry = true →
         ∃ t, exec i s = .next t ∧ SameMemory s t ∧ t.tileReqs = s.tileReqs ∧ (t.tile entry).uses = y.uses + 1 ∧
           t.elem e = { x with dp := .work ⟨s.curSlot, s.curBeat, i, src, popped, s.now⟩, waitUse := some entry } ∧
           ∀ k, k ≠ entry → t.tile k = s.tile k) ∧
       (∀ s1, live s e.inst src.a = true → idx < specBytes y.spec / 4 →
         (bit f.aux 1 = false ∨ (y.f ≠ wr ∧ tagOpen s e entry = false)) →
         tileRace (if wr = false ∧ bit f.aux 1 = true then acquireOptAt (taken s x) e y.rel else taken s x)
           (elemRq s e s.curSlot 0) entry (4 * idx) 4 wr = .ok s1 →
         ∃ t r, exec i s = .next t ∧ SameMemory s t ∧
           kget [] t.tileReqs entry.1 = kget [] s.tileReqs entry.1 ++ [r] ∧
           r.e = e ∧ r.at_ = s.now ∧ r.write = wr ∧ r.entry = entry.2 ∧ r.index = idx ∧
           (wr = true → r.data = data ∧ r.setTag = bit f.aux 0 ∧ (t.elem e).outst = x.outst ++ [r.id]) ∧
           (wr = false → r.clrTag = bit f.aux 0 ∧ (t.elem e).rets = x.rets ++ [⟨r.id, f.ot, none⟩]) ∧
           (t.tile entry).uses = y.uses + 1 ∧ (t.tile entry).f = y.f ∧ (t.elem e).d = x.d))
     (Reads s 12 f.sa f.sb (bit f.mod 1) (bit f.mod 0) src popped x → queued (.tld f) false src.b.toNat 0) ∧
     (ReadsM s f src popped x → queued (.tst f) true src.d.toNat src.b)) ∧
  ((∀ (s : State) (tab : Nat) (r : TileReq), Memory.wf s.mem → r ∈ kget [] s.tileReqs tab →
     (∀ q ∈ kget [] s.tileReqs tab, q ≠ r → r.at_ < q.at_ ∨ (r.at_ = q.at_ ∧ r.e.el < q.e.el)) →
     let y := s.tile (tab, r.entry)
     let k := tileKey tab r.entry (4 * r.index)
     ∃ t, exec (.tileTableServe tab) s = .next t ∧ (t.tile (tab, r.entry)).uses = y.uses - 1 ∧
       (r.write = true → (∀ i, memGet t.mem i = if k ≤ i ∧ i < k + 4 then
           BitVec.ofNat 8 (r.data.toNat / 2 ^ (8 * (i - k))) else memGet s.mem i) ∧
         (t.tile (tab, r.entry)).f = y.f ∧ ((t.tile (tab, r.entry)).fset = (r.setTag || y.fset)) ∧
         (r.setTag = true → (t.tile (tab, r.entry)).fReg = s.physReg r.e.inst r.e.reg ∧ (t.tile (tab, r.entry)).fDeps = r.hb)) ∧
       (r.write = false → t.mem = s.mem ∧
        (∀ b, badIn s k 4 = some b → (t.tile (tab, r.entry)).f = y.f ∧
         ((s.graph (s.inst r.e.inst).graph).fault = none → Faulted t (s.inst r.e.inst).graph 0x0E0 0)) ∧
        (badIn s k 4 = none →
         (t.tile (tab, r.entry)).f = (!r.clrTag && y.f) ∧
         ∀ q ∈ (s.elem r.e).rets, q.id = r.id → ∃ q' ∈ (t.elem r.e).rets, q'.id = r.id ∧ q'.tag = q.tag ∧
           q'.val = some (BitVec.ofNat 32 (leNat (readBytes s (s.agentOf r.e) k 4)))))) ∧
   (∀ (s : State) (tab slot : Nat), (s.tile (tab, slot)).fset = true →
     ∃ t rel, exec (.tileFullSet tab slot) s = .next t ∧ (t.tile (tab, slot)).f = true ∧ (t.tile (tab, slot)).fset = false ∧
       (t.tile (tab, slot)).rel = some rel ∧ rel.reg = (s.tile (tab, slot)).fReg ∧ rel.num = kget 1 s.num rel.reg ∧
       rel.deps = (s.tile (tab, slot)).fDeps.filter (depOpen s) ∧ (t.tile (tab, slot)).fills = (s.tile (tab, slot)).fills + 1 ∧
       SameMemory s t) ∧
   (∀ (s : State) (tab slot : Nat), (s.tile (tab, slot)).state = .pending → (s.tile (tab, slot)).uses = 0 →
     ∃ t, exec (.tileEntryFree tab slot) s = .next t ∧ (t.tile (tab, slot)).state = .free ∧
       (t.tile (tab, slot)).gen = ((s.tile (tab, slot)).gen + 1) % 64 ∧ SameMemory s t))

/-- R107, R176, R178, R179: pcfg loads the descriptor its pointer names, once the element's earlier operations are performed, and
in its turn at the tables of the handles there (R103); pgo, in its turn at the tables of its handles, starts a run from counters
of 0, its level 3 bound replaced by a nonzero source, a coded stream's with its code table copied; pstop, in that turn, ends a run
without a marker; pqry reads a counter, the state with its HOLD bit, the bound or the address of the next access. A running pump,
a misaligned pointer and a descriptor that breaks R176 trap with 0x0A2, 0x023 and 0x0A3, a stale handle, before the descriptor is
checked, and a bad or misaligned code table with 0x020 and 0x0C9. The model's choices: the turn (log 56) and the size of a code
table (log 63). -/
def Obligations.PumpCommandResults : Prop :=
  ∀ (s : State) (f : FmtM) (src : Src) (popped : List (Nat × Token)) (x : Elem), ReadsM s f src popped x →
    let e := s.cur
    let n := f.pms.toNat
    let p := x.pump n
    let s0 := flush (curJob s src) .part (taken s x)
    let ws := if src.a = 0 then p.words else p.words.set 4 (BitVec.ofNat 32 ((src.a.toNat - 1) * 2 ^ 16 + bits (nthW p.words 4) 15 0))
    let inTurn (u : State) (rs : List Word) : Prop :=
      ∀ h ∈ pumpHandles rs, u.inTurn (.table (entryOf u e.inst h).1) (tableKey e.el) = true
    (∀ i, i ∈ [Instr.pcfg f, .pgo f] → p.run = true → ∃ t, exec i s = .next t ∧ Traps s t 0x0A2 0) ∧
    (p.run = false → src.a.toNat % 64 ≠ 0 → ∃ t, exec (.pcfg f) s = .next t ∧ Traps s t 0x023 0) ∧
    (p.run = false → src.a.toNat % 64 = 0 → ¬ Settled s x → Waits s (.pcfg f) src popped x) ∧
    (∀ rs u, p.run = false → src.a.toNat % 64 = 0 → Settled s x →
      readWords (cmdRq s0) (dataVA s e.inst src.a.toNat) 16 s0 = .ok (rs, u) → inTurn u rs → pumpOk u e.inst rs = true →
      ∃ t, exec (.pcfg f) s = .next t ∧ ((t.elem e).pump n).words = rs ∧ ((t.elem e).pump n).c = [0, 0, 0, 0] ∧
        ((t.elem e).pump n).run = false ∧ ∀ m, m ≠ n → (t.elem e).pump m = x.pump m) ∧
    (∀ rs u, p.run = false → src.a.toNat % 64 = 0 → Settled s x →
      readWords (cmdRq s0) (dataVA s e.inst src.a.toNat) 16 s0 = .ok (rs, u) →
      (s.tape = none → ¬ inTurn u rs → Waits s (.pcfg f) src popped x) ∧
      (inTurn u rs → pumpOk u e.inst rs = false → ∃ t, exec (.pcfg f) s = .next t ∧ Traps s t 0x0A3 0)) ∧
    let turn := inTurn s ws
    (p.run = false → 65536 < src.a.toNat → ∃ t, exec (.pgo f) s = .next t ∧ Traps s t 0x0A3 0) ∧
    (p.run = false → src.a.toNat ≤ 65536 → ¬ turn → Waits s (.pgo f) src popped x) ∧
    (p.run = false → src.a.toNat ≤ 65536 → turn → (∀ h ∈ pumpHandles ws, live s e.inst h = true) → pumpOk s e.inst ws = false →
      ∃ t, exec (.pgo f) s = .next t ∧ Traps s t 0x0A3 0) ∧
    (p.run = false → src.a.toNat ≤ 65536 → pumpOk s e.inst ws = true → (∀ h ∈ pumpHandles ws, live s e.inst h = true) →
      turn → PumpCfg.mode ws ≠ 3 →
      ∃ t, exec (.pgo f) s = .next t ∧ ((t.elem e).pump n).run = true ∧ ((t.elem e).pump n).done = false ∧
        ((t.elem e).pump n).words = ws ∧ ((t.elem e).pump n).c = [0, 0, 0, 0] ∧ ((t.elem e).pump n).before = x.outstanding ∧
        (∀ h ∈ pumpHandles ws, (s.tile (entryOf s e.inst h)).uses < (t.tile (entryOf s e.inst h)).uses) ∧
        ∀ m, m ≠ n → (t.elem e).pump m = x.pump m) ∧
    (p.run = false → src.a.toNat ≤ 65536 → turn → (∃ h ∈ pumpHandles ws, live s e.inst h = false) →
      ∃ t, exec (.pgo f) s = .next t ∧ Traps s t 0x020 0) ∧
    (∀ ct u, p.run = false → src.a.toNat ≤ 65536 → pumpOk s e.inst ws = true → (∀ h ∈ pumpHandles ws, live s e.inst h = true) →
      turn → PumpCfg.mode ws = 3 → (nthW ws 10).toNat % 64 = 0 → x.outstanding = [] →
      readVA (cmdRq (taken s x)) (dataVA s e.inst (nthW ws 10).toNat) (264 + 8 * 256) (taken s x) = .ok (ct, u) →
      (codesOk ct = false → ∃ t, exec (.pgo f) s = .next t ∧ Traps s t 0x0C9 0) ∧
      (codesOk ct = true → ∃ t, exec (.pgo f) s = .next t ∧ ((t.elem e).pump n).run = true ∧ ((t.elem e).pump n).words = ws ∧
        ((t.elem e).pump n).ct = ct ∧ ((t.elem e).pump n).c = [0, 0, 0, 0])) ∧
    (p.run = false → src.a.toNat ≤ 65536 → pumpOk s e.inst ws = true → (∀ h ∈ pumpHandles ws, live s e.inst h = true) →
      turn → PumpCfg.mode ws = 3 → (nthW ws 10).toNat % 64 ≠ 0 → ∃ t, exec (.pgo f) s = .next t ∧ Traps s t 0x0C9 0) ∧
    (p.run = true → ¬ inTurn s p.words → Waits s (.pstop f) src popped x) ∧
    ((p.run = true → inTurn s p.words) → ∃ t, exec (.pstop f) s = .next t ∧ ((t.elem e).pump n).run = false ∧ ((t.elem e).pump n).c = p.c ∧
      ((t.elem e).pump n).done = p.done ∧ (p.run = false → t.tiles = s.tiles)) ∧
    Yields s (.pqry f) (taken s x) (sinkM f) (fun r => r.rf = false ∧
      (f.aux.toNat ≤ 3 → r.r = BitVec.ofNat 32 (p.c.getD f.aux.toNat 0)) ∧
      (f.aux = 4 → bit r.r 31 = p.run ∧ (bit r.r 30 = true ↔ ∃ a ∈ s.accs, a.req = .pump e n ∧
        ((∃ h, a.st = .held h) ∨ ∃ c, a.st = .fault c)) ∧ bit r.r 29 = p.waitf ∧ bit r.r 28 = p.done ∧ bits r.r 27 26 = PumpCfg.mode p.words ∧
        bits r.r 25 0 = 0) ∧
      (f.aux = 5 → r.r = BitVec.ofNat 32 (PumpCfg.bound p.words 3)) ∧
      (f.aux = 6 → (r.r.toNat : Int) = Int.emod ((if PumpCfg.bk p.words = 2 then nthW p.words 2 else nthW p.words 1).toNat +
        (List.range 4).foldl (fun a k => a + PumpCfg.stride p.words k * (p.c.getD k 0 : Nat)) 0) (2 ^ 32)))

/-- R178, R276: one access of a run, once the operations that its element issued before the run are performed, and, where it is of
a tile, no request stands at its table (R103). Mode 00 pushes the element at the address of its counters on mi; mode 01 fills the
next row of an empty tile and sets the tag after the last; mode 10 writes the next row of a full tile and clears the tag after the
last; mode 11 decodes a segment into an empty tile, 32 elements to each of 32 rows, and sets the tag; each advances the counters.
R166: an access that begins in the block-transfer window fails the graph with 0x0A8, from the pump. A pump that waits for the tag
says so. When every access is issued the run ends, in its tables' turn, with the marker on mi. The model's choices: where a
segment ends (log 11), what it fills of a tile (log 19), the turn (log 56), that where an access begins is tested alone (log 63). -/
def Obligations.PumpRunResults : Prop :=
  ∀ (s : State) (e : ERef) (n : Nat),
    let x := s.elem e
    let p := x.pump n
    let ws := p.words
    let q := pumpRq s e n p.slot
    let tile := entryOf s e.inst (PumpCfg.th ws)
    let y := s.tile tile
    let rows := specRows y.spec
    let rb := specCols y.spec * ((EFmt.ofCode (specFmt y.spec)).map EFmt.width).getD 8 / 8
    let rowKey := tileKey tile.1 tile.2 (p.iter % rows * rb)
    let off := (List.range 4).foldl (fun a k => a + PumpCfg.stride ws k * (p.c.getD k 0 : Nat)) 0
    let low := Int.emod ((nthW ws 1).toNat + off) (2 ^ 32)
    let goes (va : Nat) : Prop :=
      (PumpCfg.bk ws = 0 ∧ low < 0xFFFF0000 ∧ va = ((s.inst e.inst).img.dataBase + low.toNat) % 2 ^ 56) ∨
      (PumpCfg.bk ws = 1 ∧ va = (Int.emod ((nthW ws 1).toNat + 2 ^ 32 * bits (nthW ws 2) 23 0 + off) (2 ^ 56)).toNat)
    let ready := p.run = true ∧ p.fin = false ∧ (∀ a ∈ s.accs, a.req ≠ .pump e n) ∧ khas s.journals (.pump e n) = false ∧
      Up s e.inst ∧ (∀ o ∈ p.before, o ∉ x.outstanding) ∧
      ∀ h ∈ pumpHandles ws, s.inTurn (.table (entryOf s e.inst h).1) (tableEngine e.el) = true
    let u0 := if p.iter % rows = 0 then pumpAcquire s e n y.rel else s
    let q0 := pumpRq u0 e n p.slot
    let moved (t : State) : Prop := ((t.elem e).pump n).iter = p.iter + 1 ∧ ((t.elem e).pump n).c = bump ws 0 p.c ∧
      ((t.elem e).pump n).fin = decide (PumpCfg.iters ws ≤ p.iter + 1) ∧ ((t.elem e).pump n).words = ws
    (∀ va bs u, ready → goes va → PumpCfg.mode ws = 0 → (x.chan 4).length < 16 →
      readVA q va (2 ^ PumpCfg.sz ws) s = .ok (bs, u) →
      ∃ t, exec (.pumpAccess e n) s = .next t ∧ moved t ∧
        (t.elem e).chan 4 = x.chan 4 ++ [⟨BitVec.ofNat 32 (leNat bs), PumpCfg.tag ws, false, none, none⟩]) ∧
    (∀ u bt o, ready → PumpCfg.bk ws = 2 → PumpCfg.mode ws = 0 → (x.chan 4).length < 16 →
      bt = entryOf s e.inst (nthW ws 1) → o = (((nthW ws 2).toNat : Int) + off).toNat →
      kget [] s.tileReqs bt.1 = [] → tileRace s q bt o (2 ^ PumpCfg.sz ws) false = .ok u →
      ∃ t, exec (.pumpAccess e n) s = .next t ∧ moved t ∧
        (t.elem e).chan 4 = x.chan 4 ++ [⟨BitVec.ofNat 32 (leNat (readBytes s (s.agentOf e) (tileKey bt.1 bt.2 o)
          (2 ^ PumpCfg.sz ws))), PumpCfg.tag ws, false, none, none⟩]) ∧
    (∀ va bs u v, ready → goes va → PumpCfg.mode ws = 1 → (p.iter % rows = 0 → y.f = false) →
      readVA q va rb s = .ok (bs, u) → kget [] s.tileReqs tile.1 = [] →
      tileRace u q tile (p.iter % rows * rb) rb true = .ok v → Memory.wf s.mem →
      bs.length = rb →
      ∃ t, exec (.pumpAccess e n) s = .next t ∧ moved t ∧
        (∀ a i, readByte t.mem a t.stores i = if rowKey ≤ i ∧ i < rowKey + rb then bs.getD (i - rowKey) 0
          else if touches rowKey rb i then latest s i else readByte s.mem a s.stores i) ∧
        (p.iter % rows + 1 = rows → (t.tile tile).f = true) ∧ (p.iter % rows + 1 ≠ rows → (t.tile tile).f = (v.tile tile).f)) ∧
    (ready → (PumpCfg.mode ws = 1 → p.iter % rows = 0 ∧ y.f = true) → (PumpCfg.mode ws = 2 → p.iter % rows = 0 ∧ y.f = false) →
      (PumpCfg.mode ws = 3 → y.f = true) → PumpCfg.mode ws ≠ 0 → PumpCfg.mode ws ≤ 3 → p.waitf = false →
      ∃ t, exec (.pumpAccess e n) s = .next t ∧ ((t.elem e).pump n).waitf = true ∧ SameMemory s t ∧ (t.elem e).inp = x.inp) ∧
    (∀ va u v, ready → goes va → PumpCfg.mode ws = 2 → (p.iter % rows = 0 → y.f = true) →
      kget [] s.tileReqs tile.1 = [] →
      tileRace u0 q0 tile (p.iter % rows * rb) rb false = .ok u →
      writeVA q0 va (readBytes u q0.agent rowKey rb) u = .ok v →
      ∃ t, exec (.pumpAccess e n) s = .next t ∧ moved t ∧ t.mem = v.mem ∧
        (p.iter % rows + 1 = rows ∨ PumpCfg.iters ws ≤ p.iter + 1 → (t.tile tile).f = false)) ∧
    (∀ va es u v, ready → goes va → PumpCfg.mode ws = 3 → y.f = false →
      let cw := ((EFmt.ofCode (codeFmt p.ct)).map EFmt.width).getD 8
      decodeSeg q p.ct cw va (segLimit ws) 33 [] s = .ok (es, u) → es.length = 1024 → 4 * cw ≤ rb → Memory.wf s.mem →
      kget [] s.tileReqs tile.1 = [] → tileRace u q tile 0 (specBytes y.spec) true = .ok v →
      ∃ t, exec (.pumpAccess e n) s = .next t ∧ moved t ∧ (t.tile tile).f = true ∧
        (∀ a r i, r < 32 → i < 4 * cw → readByte t.mem a t.stores (tileKey tile.1 tile.2 (r * rb) + i) =
          (packElems cw ((es.drop (32 * r)).take 32)).getD i 0) ∧
        (∀ a k, (∀ r, r < 32 → k < tileKey tile.1 tile.2 (r * rb) ∨ tileKey tile.1 tile.2 (r * rb) + 4 * cw ≤ k) →
          readByte t.mem a t.stores k =
            if (List.range 32).any (fun r => touches (tileKey tile.1 tile.2 (r * rb)) (4 * cw) k) then latest s k
            else readByte s.mem a s.stores k)) ∧
    (∀ u, ready → PumpCfg.bk ws = 0 → 0xFFFF0000 ≤ low → (PumpCfg.mode ws = 0 → (x.chan 4).length < 16) →
      (PumpCfg.mode ws = 1 → p.iter % rows = 0 → y.f = false) → (PumpCfg.mode ws = 3 → y.f = false) →
      (PumpCfg.mode ws = 2 → (p.iter % rows = 0 → y.f = true) ∧ kget [] s.tileReqs tile.1 = [] ∧
        tileRace u0 q0 tile (p.iter % rows * rb) rb false = .ok u) →
      PumpCfg.mode ws ≤ 3 →
      ∃ t, exec (.pumpAccess e n) s = .next t ∧ Faulted t (s.inst e.inst).graph 0x0A8 (1 + n) ∧ SameMemory s t) ∧
    (p.run = true → p.fin = true → (x.chan 4).length < 16 →
      (∀ h ∈ pumpHandles ws, s.inTurn (.table (entryOf s e.inst h).1) (tableEngine e.el) = true) →
      ∃ t, exec (.pumpRunEnd e n) s = .next t ∧ ((t.elem e).pump n).run = false ∧ ((t.elem e).pump n).done = true ∧
        ((t.elem e).pump n).c = [0, 0, 0, 0] ∧
        (t.elem e).chan 4 = x.chan 4 ++ [⟨0x01000000 ||| BitVec.ofNat 32 (bits (nthW ws 11) 23 0), 3, false, none, none⟩] ∧
        SameMemory s t)

/-! ## Rings, directories, pools -/

/-- R186, R187: in its turn of the cycle, while no other request of the ring is under way, and with no other element's rawait
before it, rawait takes the next record that is produced and not acquired, counting modulo 2^31, or waits for one (`.try` gives
0xFFFFFFFF); rget reads a word of an acquired record and gives 0 with its flag set for any other; rrel of a record that is not
acquired, or is released already, traps with 0x0A5, and else marks it and frees the released records at the tail. The model's
choices: the turn of the cycle (log 56), and that the ring logic's accesses check and set no race stamps (log 10). R180: their
accesses come after the element's own requests and those that happen before it. -/
def Obligations.RingInstructionResults : Prop :=
  ∀ (s : State) (f : FmtM) (src : Src) (popped : List (Nat × Token)) (x : Elem), ReadsM s f src popped x →
    let s0 := taken s x
    let q : Rq := { cmdRq s0 with charge := none }
    let va := ptrAt s src.a
    s.tape = none →
    let ring : Arena := .ring q.ctx va
    let served (t : State) : State := t.act ring (actKey s.cur)
    let turn := ringTurn s0 q s.cur va
    (src.a.toNat % 64 ≠ 0 → ∀ i, i ∈ [Instr.rawait f, .rrel f, .rget f] → ∃ t, exec i s = .next t ∧ Traps s t 0x023 0) ∧
    (∀ l u, src.a.toNat % 64 = 0 → xlate s0 q va false = .ok (l, u) → l.home ≠ 1 →
      ∀ i, i ∈ [Instr.rawait f, .rrel f, .rget f] → ∃ t, exec i s = .next t ∧ Traps s t 0x0A4 0) ∧
    ∀ l u ws, src.a.toNat % 64 = 0 → xlate s0 q va false = .ok (l, u) → l.home = 1 → readWords q va 16 s0 = .ok (ws, s0) →
      let good := bits (nthW ws 0) 31 24 = 0x9E ∧ bits (nthW ws 0) 23 5 = 0 ∧ bits (nthW ws 0) 4 0 ≤ 16 ∧ ∀ w ∈ ws.drop 4, w = 0
      let head := nthW ws 1
      let acq := nthW ws 2
      let tail := nthW ws 3
      let n := src.b.toNat
      let held := n < 2 ^ 31 ∧ (n + 2 ^ 31 - tail.toNat) % 2 ^ 31 < (acq.toNat + 2 ^ 31 - tail.toNat) % 2 ^ 31
      let rec_ := va + 64 + 16 * (n % 2 ^ bits (nthW ws 0) 4 0)
      (¬ good → ∀ i, i ∈ [Instr.rawait f, .rrel f, .rget f] → ∃ t, exec i s = .next t ∧ Traps s t 0x0A4 0) ∧
      (good → turn = false → ∀ i, i ∈ [Instr.rawait f, .rrel f, .rget f] → Waits s i src popped x) ∧
      (turn = true →
      (good → head = acq → bit f.aux 0 = false → Waits s (.rawait f) src popped x) ∧
      (good → head = acq → bit f.aux 0 = true → Gives s (.rawait f) (served s0) (sinkM f) ⟨0xFFFFFFFF, false, false⟩) ∧
      (∀ v, good → head ≠ acq → (∀ p ∈ s.elems, p.1 ≠ s.cur → ∀ w g, p.2.dp = .work w → w.ins ≠ .rawait g) → writeWord q (va + 8) (BitVec.ofNat 32 ((acq.toNat + 1) % 2 ^ 31)) s0 = .ok v →
        ∃ rel, Gives s (.rawait f) (acquireOptAt (served v) s.cur rel) (sinkM f) ⟨acq, false, false⟩) ∧
      (good → ¬ held → ∃ t, exec (.rrel f) s = .next t ∧ Traps s t 0x0A5 0) ∧
      (good → ¬ held → Gives s (.rget f) (served s0) (sinkM f) ⟨0, true, false⟩) ∧
      (∀ rw, good → held → readWords q rec_ 4 s0 = .ok (rw, s0) →
        Gives s (.rget f) (served s0) (sinkM f) ⟨nthW rw (bits f.aux 1 0), false, false⟩) ∧
      (∀ rw, good → held → readWords q (rec_ + 4) 1 s0 = .ok (rw, s0) → bit (nthW rw 0) 31 = true →
        ∃ t, exec (.rrel f) s = .next t ∧ Traps s t 0x0A5 0) ∧
      (∀ rw v w y last, good → held → readWords q (rec_ + 4) 1 s0 = .ok (rw, s0) → bit (nthW rw 0) 31 = false →
        writeWord q (rec_ + 4) (nthW rw 0 ||| 0x80000000) s0 = .ok v →
        rrelLoop q va ws (2 ^ bits (nthW ws 0) 4 0) tail.toNat v = .ok (last, w) →
        writeWord q (va + 12) (BitVec.ofNat 32 last) w = .ok y →
        Gives s (.rrel f) (served y) (sinkM f) ⟨0, false, false⟩))

/-- R85, R116, R121: grule loads a valid rule record into the rule register its destination code names, which operations of this
cycle read as it was and those of a later one as the record gives it, and traps on an invalid one with 0x028; while no sort holds
the directory, bdget reads a header word, a word of an entry, or 0 with its flag for an entry at or above COUNT. R118, R119, R120,
R122: the directory commands on a directory as it stands in memory: bdinit's and bdins's checks in their order, each with its
trap; bdins and bdfind give the first valid entry with equal charges; bdins appends at COUNT unless the directory is at its
capacity; a busy directory traps with 0x10A, and one that a sort holds makes bdfind wait; bdsort, which holds the directory
meanwhile, orders the entries by their charge tuples, equal ones in their order. The model's choices (log 58): the first of
several entries that match is given, and bdinit clears no more than min(COUNT, LIM) entries. -/
def Obligations.DirectoryCommandResults : Prop :=
  (∀ (s : State) (f : FmtE) (src : Src) (popped : List (Nat × Token)) (x : Elem),
     let s0 := cmdState s src x
     let q := cmdRq s0
     let va := ptrAt s src.a
     (Reads s 12 f.sa f.sb false false src popped x →
       (src.a.toNat % 32 ≠ 0 → ∃ t, exec (.grule f) s = .next t ∧ Traps s t 0x023 0) ∧
       (src.a.toNat % 32 = 0 → ¬ Settled s x → Waits s (.grule f) src popped x) ∧
       (∀ ws u, src.a.toNat % 32 = 0 → Settled s x → readWords q va 8 s0 = .ok (ws, u) →
         (ruleOf ws = none → ∃ t, exec (.grule f) s = .next t ∧ Traps s t 0x028 0) ∧
         (∀ g, ruleOf ws = some g → ∃ t, exec (.grule f) s = .next t ∧
           (∀ n, t.ruleReg s.cur.rref n = u.ruleReg s.cur.rref n) ∧
           ((∀ w ∈ (u.region s.cur.rref).ruleNew, w.at_ < u.now) → ∀ n now, u.now < now →
             State.ruleReg { t with now := now } s.cur.rref n =
               if n = bits f.dst 2 0 then some g else u.ruleReg s.cur.rref n)))) ∧
     (ReadsE s f src popped x → src.a.toNat % 64 = 0 → Settled s x →
       ∀ h es, Stands s0 q va h es → (h.sorting = true → Waits s (.bdget f) src popped x) ∧ (h.sorting = false →
         let i := src.b.toNat / 16
         let k := src.b.toNat % 16
         (i = 0x0FFFFFFF → Gives s (.bdget f) s0 (sinkE f) ⟨nthW h.ws k, false, false⟩) ∧
         (i ≠ 0x0FFFFFFF → h.count ≤ i → Gives s (.bdget f) s0 (sinkE f) ⟨0, true, false⟩) ∧
         (∀ e, es[i]? = some e → i ≠ 0x0FFFFFFF → Gives s (.bdget f) s0 (sinkE f) ⟨nthW e.ws k, false, false⟩)))) ∧
  (∀ (s : State) (f : FmtE) (src : Src) (popped : List (Nat × Token)) (x : Elem), ReadsE s f src popped x →
     let s0 := cmdState s src x
     let q := cmdRq s0
     let va := ptrAt s src.a
     let traps (i : Instr) (c : Nat) : Prop := ∃ t, exec i s = .next t ∧ Traps s t c 0
     (∀ i, i ∈ [Instr.bdinit f, .bdins f, .bdfind f, .bdget f, .bdsort f] → src.a.toNat % 64 ≠ 0 → traps i 0x023) ∧
     (Settled s x → src.a.toNat % 64 = 0 → ∀ h es, Stands s0 q va h es →
       let g := s0.ruleReg s.cur.rref h.rule
       let agrees (r : Rule) (key : List Word) (e : Ent) : Prop :=
         e.v = true ∧ ∀ k, k < h.nleg → ceq r (e.q k) (key.getD k 0) = true
       let first (r : Rule) (key : List Word) (es : List Ent) (n : Nat) : Prop :=
         (∃ e, es[n]? = some e ∧ agrees r key e) ∧ ∀ m e, m < n → es[m]? = some e → ¬ agrees r key e
       (h.shapeOk = false ∨ h.limOk = false → traps (.bdinit f) 0x024) ∧
       (h.shapeOk = true → h.limOk = true → h.busy = true → traps (.bdinit f) 0x10A) ∧
       (h.shapeOk = true → h.limOk = true → h.busy = false → h.lim < src.b.toNat → traps (.bdinit f) 0x024) ∧
       (∀ v w y z, h.shapeOk = true → h.limOk = true → h.busy = false → src.b.toNat ≤ h.lim →
         clearV q va (min h.count h.lim) s0 = .ok v →
         (if src.b = 0 then Except.ok v else writeWord q (va + 12) src.b v) = .ok w → writeWord q (va + 8) 0 w = .ok y →
         writeWord q va ((h.w0 ||| 0x800) &&& ~~~0x400) y = .ok z →
         Gives s (.bdinit f) z (sinkE f) ⟨BitVec.ofNat 32 h.lim, false, false⟩) ∧
       (src.b.toNat % 64 = 0 → h.busy = true → traps (.bdins f) 0x10A) ∧
       (src.b.toNat % 64 = 0 → h.busy = false → g = none → traps (.bdins f) 0x02A) ∧
       (∀ r im, src.b.toNat % 64 = 0 → h.count ≤ h.lim → h.busy = false → g = some r →
         readWords q (ptrAt s src.b) 16 s0 = .ok (im, s0) →
         let e : Ent := ⟨im⟩
         let charged := (∀ k, k < h.nleg → canonical r (e.q k) = true) ∧ selects r h.dirs (e.qs h.nleg) h.flux = true
         (e.ok h.nleg = false → traps (.bdins f) 0x024) ∧
         (e.ok h.nleg = true → ¬ charged → traps (.bdins f) 0x029) ∧
         (e.ok h.nleg = true → charged → h.ixv = true →
           (∀ n, first r (e.qs h.nleg) es n →
             Gives s (.bdins f) s0 (sinkE f) ⟨0x80000000 ||| BitVec.ofNat 32 n, false, false⟩) ∧
           ((∀ e', e' ∈ es → ¬ agrees r (e.qs h.nleg) e') →
             (h.count = h.cap → Gives s (.bdins f) s0 (sinkE f) ⟨0xFFFFFFFF, false, false⟩) ∧
             (∀ u, h.count ≠ h.cap →
               appendEnt q va h (im.set 12 ((nthW im 12 ||| 0x80000000) &&& 0x9FFFFFFF)) s0 = .ok u →
               Gives s (.bdins f) u (sinkE f) ⟨BitVec.ofNat 32 h.count, false, false⟩)))) ∧
       (src.b.toNat % 4 = 0 → h.sorting = true → Waits s (.bdfind f) src popped x) ∧
       (src.b.toNat % 4 = 0 → h.sorting = false → g = none → traps (.bdfind f) 0x02A) ∧
       (∀ r key, src.b.toNat % 4 = 0 → h.sorting = false → g = some r → readWords q (ptrAt s src.b) h.nleg s0 = .ok (key, s0) →
         key.length = h.nleg → h.ixv = true → h.count ≤ h.lim →
         (∀ n, first r key es n → Gives s (.bdfind f) s0 (sinkE f) ⟨BitVec.ofNat 32 n, false, false⟩) ∧
         ((∀ e, e ∈ es → ¬ agrees r key e) → Gives s (.bdfind f) s0 (sinkE f) ⟨0xFFFFFFFF, false, false⟩)) ∧
       (h.busy = true → traps (.bdsort f) 0x10A) ∧
       (h.busy = false → (∃ r ∈ s0.regions, (s0.inst r.1.inst).ctx = (s.inst s.cur.inst).ctx ∧ ∃ c ∈ r.2.cons, c.state ≤ 1 ∧
         (descVA s0 r.1.inst c 1 = va ∨ descVA s0 r.1.inst c 2 = va)) → Waits s (.bdsort f) src popped x) ∧
       (∀ es' u v w y, h.busy = false → h.count ≤ h.lim →
         (∀ r ∈ s0.regions, ∀ c ∈ r.2.cons, 1 < c.state) →
         List.Perm es' es → es'.Pairwise (fun a b => tupleLt (b.qs h.nleg) (a.qs h.nleg) = false) →
         (∀ k, es'.filter (fun e => decide (e.qs h.nleg = k)) = es.filter (fun e => decide (e.qs h.nleg = k))) →
         writeWord q (va + 20) 0 s0 = .ok u → writeWord q va (h.w0 ||| 0x200) u = .ok v →
         (∀ i e, es[i]? = some e → readEnt q va i v = .ok (e, v)) → writeEnts q va 0 es' v = .ok w →
         writeWord q va (h.w0 ||| 0xC00) (indexArea q.ctx va h.lim w) = .ok y →
         Gives s (.bdsort f) y (sinkE f) ⟨BitVec.ofNat 32 h.count, false, false⟩)))

/-- R123: poolcfg raises AVAIL by its argument, clamped at NBLK with the result's flag, from 0 with TAKEN where it resets, and
gives the blocks that are available and not taken; a bad header traps with 0x024, a reset of a pool a contraction uses with 0x027.
R143: where an allocation from the pool has already gone in this cycle, it waits for the next. That a poolcfg behind an allocation
waits is the model's reading of the order of a cycle (log 56). R97: a block taken from a pool is the one behind the TAKEN blocks
taken before; TAKEN is counted up and the block's BSIZE bytes are written 0; with none left allocation stops with 0x104, and a
pool that does not serve the entry fails with 0x10B. Its entry has SQ and ZF set and names the block, with the charges, the
dimensions, and the pool's format and stored dimensions. -/
def Obligations.PoolResults : Prop :=
  (∀ (s : State) (f : FmtE) (src : Src) (popped : List (Nat × Token)) (x : Elem), ReadsE s f src popped x →
     src.a.toNat % 64 = 0 → Settled s x →
     let s0 := cmdState s src x
     let q := cmdRq s0
     let va := ptrAt s src.a
     ∀ ws, readWords q va 16 s0 = .ok (ws, s0) →
       let p : PoolHdr := ⟨ws⟩
       let reset := bit src.b 31
       let used := ∃ r ∈ s0.regions, (s0.inst r.1.inst).ctx = (s.inst s.cur.inst).ctx ∧ ∃ c ∈ r.2.cons, c.state ≤ 1 ∧
         descVA s0 r.1.inst c 4 = va
       let sum := (if reset then 0 else p.avail) + src.b.toNat % 2 ^ 31
       let avail := min p.nblk sum
       let taken_ := if reset then 0 else p.taken
       (p.ok = false → ∃ t, exec (.poolcfg f) s = .next t ∧ Traps s t 0x024 0) ∧
       (p.ok = true → reset = true → used → ∃ t, exec (.poolcfg f) s = .next t ∧ Traps s t 0x027 0) ∧
       (p.ok = true → (reset = true → ¬ used) → s0.inTurn (poolArena s s.cur.inst va) 0 = false → Waits s (.poolcfg f) src popped x) ∧
       (∀ v w, p.ok = true → (reset = true → ¬ used) → s0.inTurn (poolArena s s.cur.inst va) 0 = true →
         writeWord q (va + 8) (BitVec.ofNat 32 avail) s0 = .ok v → (if reset then writeWord q (va + 12) 0 v else .ok v) = .ok w →
         Gives s (.poolcfg f) (w.act (poolArena s s.cur.inst va) 0) (sinkE f)
           ⟨BitVec.ofNat 32 (avail - taken_), decide (p.nblk < sum), false⟩)) ∧
  ((∀ (q : Rq) (inst vp : Nat) (hc : Hdr) (fr : EFmt) (k : Nat) (qs : List Word) (dims : List Nat) (s s0 : State) (pw : List Word),
     readWords q vp 16 s = .ok (pw, s0) → hc.count ≠ hc.cap →
     let p : PoolHdr := ⟨pw⟩
     let s1 := s0.act (poolArena s0 inst vp) 1
     let meets := p.ok = true ∧ p.ndim = hc.nleg ∧ p.fmt = fr.code ∧ ∀ i, i < dims.length → (dims.getD i 0 + 31) / 32 ≤ p.s i
     let taken_ := allocBlock q inst vp hc fr k qs dims s
     (p.taken = p.avail → taken_ = .ok (.stop 0x104, s1)) ∧ (p.taken ≠ p.avail → ¬ meets → taken_ = conFatal 0x10B k none) ∧
     (∀ pl u v, p.taken ≠ p.avail → meets → blockPlace s1 inst p.h p.base0 p.base1 = .ok pl →
       writeWord q (vp + 12) (BitVec.ofNat 32 (p.taken + 1)) s1 = .ok u →
       writePlace q pl (p.taken * p.bsize) (List.replicate p.bsize 0) u = .ok v →
       taken_ = .ok (.fresh (newEnt qs dims p p.taken), v))) ∧
   ∀ (qs : List Word) (dims : List Nat) (p : PoolHdr) (blk : Nat), p.ok = true → qs.length = p.ndim → dims.length = p.ndim →
     blk < p.nblk → (∀ i, i < p.ndim → 1 ≤ dims.getD i 0 ∧ dims.getD i 0 < 2 ^ 16 ∧ (dims.getD i 0 + 31) / 32 ≤ p.s i ∧
       p.s i < (dims.getD i 0 + 31) / 32 + 256) →
     (if p.h then p.base1 + blk * p.bsize < 2 ^ 32 else p.base0 + 2 ^ 32 * p.base1 + blk * p.bsize < 2 ^ 56) →
     let e : Ent := ⟨newEnt qs dims p blk⟩
     e.ok p.ndim = true ∧ e.v = true ∧ bit e.w12 30 = true ∧ bit e.w12 29 = true ∧ e.h = p.h ∧ e.fmt = p.fmt ∧ e.lay = 1 ∧ e.qs p.ndim = qs ∧ e.dims p.ndim = dims ∧
     e.storeds p.ndim = (List.range p.ndim).map (fun i => 32 * p.s i) ∧
     (p.h = true → e.addr0 = p.base0 ∧ e.addr1 = p.base1 + blk * p.bsize) ∧
     (p.h = false → e.addr0 + 2 ^ 32 * e.addr1 = p.base0 + 2 ^ 32 * p.base1 + blk * p.bsize))

/-! ## Reductions, contractions, tile operations, the wellhead -/

/-- R75, R76: one accumulation group: a NaN term, or infinities of both signs, give the canonical NaN and raise; an infinity alone
passes; all terms zero give +0; else each term is cut toward zero at the bit 47 below the largest exponent, and the exact sum is
rounded once. R66, R67, R75, R77, R78, R79, R80: a reduction goes over groups of 32 positions, each group's result the next one's
accumulator; a kept position enters its group and an omitted one adds a zero, so that the sparse result is the dense one's
wherever what meets an omitted position is finite; the integer formats add the exact sum of a group's products to the accumulator,
clamped; a reserved t2 code is 0 and raises; sacc adds one scaled term, and gives NaN for a scale of 0xFF. The model's choices: a
group with no kept position leaves its accumulator, as the dense group does, so that -0 becomes +0 and a NaN canonical (log 7),
and sacc's sum too small for a code keeps its sign as any group's does (log 58). -/
def Obligations.ReductionResults : Prop :=
  (∀ (acc : Word) (ps : List FVal),
     let ts := fv acc :: ps
     let r := dotgroup acc ps
     let posInf := FVal.inf false ∈ ts
     let negInf := FVal.inf true ∈ ts
     let nan := (∃ t ∈ ts, t.isNan = true) ∨ (posInf ∧ negInf)
     (nan → r = (0x7FC00000, true)) ∧
     (¬ nan → posInf → r = (0x7F800000, false)) ∧ (¬ nan → negInf → r = (0xFF800000, false)) ∧
     ((∀ t ∈ ts, t.isZero = true) → r = (0, false)) ∧
     (∀ emax : Int, (∀ t ∈ ts, t.isFin = true) → (∀ t ∈ ts, |t.q| < (2 : ℚ) ^ (emax + 1)) → (∃ t ∈ ts, (2 : ℚ) ^ emax ≤ |t.q|) →
       let u := (2 : ℚ) ^ (emax - 47)
       let cut (q : ℚ) : Int := if 0 ≤ q then ⌊q / u⌋ else -⌊-q / u⌋
       ∃ v : FVal, v.isFin = true ∧ v.q = ((ts.map (fun t => cut t.q)).sum : Int) * u ∧ (v.isZero = true → v.sign = false) ∧
         r = (BitVec.ofNat 32 (rne32 v).1, (rne32 v).2))) ∧
  ((∀ (fa fb : EFmt) (acc : Word) (a b : Opnd), dotreduce fa fb acc a b 0 = (acc, false)) ∧
   (∀ (fa fb : EFmt) (x y : FFmt) (acc : Word) (a b : Opnd) (n k : Nat), fa.float = some x → fb.float = some y → 1 ≤ k → k ≤ 32 →
     let r := dotreduce fa fb acc a b (32 * n)
     let t := dotreduce fa fb acc a b (32 * n + k)
     let g := dotgroup r.1 ((List.range k).map (fun i => fprod x y (a (32 * n + i)) (b (32 * n + i))))
     t = (g.1, r.2 || g.2) ∧
     ((∀ i, i < k → b (32 * n + i) = none) →
       t = if (fv r.1).isNan then (0x7FC00000, true) else if (fv r.1).isZero then (0, r.2) else r)) ∧
   (∀ (x y : FFmt) (c : Option Nat), fprod x y c none = .fin false 0 0 ∧ fprod x y none c = .fin false 0 0) ∧
   (∀ (fa fb : EFmt) (x y : FFmt) (acc : Word) (a b : Opnd) (k : Nat), fa.float = some x → fb.float = some y →
     (∀ i c, i < k → b i = none → a i = some c → (x.decode c).isFin = true) →
     dotreduce fa fb acc a b k = dotreduce fa fb acc a (fun i => some ((b i).getD 0)) k) ∧
   (∀ (fa fb : EFmt) (acc : Word) (a b : Opnd) (n k : Nat), fa.float = none ∨ fb.float = none → 1 ≤ k → k ≤ 32 →
     let r := dotreduce fa fb acc a b (32 * n)
     let value (f : EFmt) (c : Option Nat) : Int := (c.map (fun v => (f.int v).1)).getD 0
     let bad (f : EFmt) (c : Option Nat) : Bool := f == .t2 && c == some 2
     let sum := r.1.toInt + ((List.range k).map (fun i => value fa (a (32 * n + i)) * value fb (b (32 * n + i)))).sum
     let t := dotreduce fa fb acc a b (32 * n + k)
     t.1.toInt = max (-2147483648) (min 2147483647 sum) ∧
     t.2 = (r.2 || decide (t.1.toInt ≠ sum) || (List.range k).any (fun i => bad fa (a (32 * n + i)) || bad fb (b (32 * n + i))))) ∧
   (∀ (acc p : Word) (sa sb : Nat), (sa = 255 ∨ sb = 255 → saccOp acc p sa sb = (0x7FC00000, true)) ∧
     (sa ≠ 255 → sb ≠ 255 → saccOp acc p sa sb = dotgroup acc [FVal.mul (fv p) (.fin false 1 ((sa : Int) + sb - 254))])))

/-- R122, R127, R132, R135: bcon's traps in their order, and its wait for a sort of A or B; where none holds it copies the rule,
snapshots the counts, sets BUSY and OPH in C and gives a new handle, whose record runs from product 0; bcstat reads the record's
fields, bcwait waits for the end of the work, bcres resumes a stopped one at its RESUME alone; handles that name no record trap
with 0x025. That a misaligned pointer in the descriptor traps with 0x023 is the model's reading (log 20). -/
def Obligations.ContractionCommandResults : Prop :=
  ∀ (s : State) (f : FmtE) (src : Src) (popped : List (Nat × Token)) (x : Elem), ReadsE s f src popped x →
    let s0 := cmdState s src x
    let q := cmdRq s0
    let va := ptrAt s src.a
    let rr := s.cur.rref
    let traps (i : Instr) (c : Nat) : Prop := ∃ t, exec i s = .next t ∧ Traps s t c 0
    (src.a.toNat % 64 ≠ 0 → traps (.bcon f) 0x023) ∧
    (src.a.toNat % 64 = 0 → ¬ Settled s x → Waits s (.bcon f) src popped x) ∧
    (src.a.toNat % 64 = 0 → Settled s x → ∀ ws, readWords q va 16 s0 = .ok (ws, s0) →
      let at_ (n : Nat) := ptrAt s (nthW ws n)
      let even := ∀ n, 1 ≤ n → n ≤ 4 → (nthW ws n).toNat % 64 = 0
      (conDescOk ws = false → traps (.bcon f) 0x024) ∧
      (conDescOk ws = true → ¬ even → traps (.bcon f) 0x023) ∧
      (conDescOk ws = true → even → at_ 3 = at_ 1 ∨ at_ 3 = at_ 2 → traps (.bcon f) 0x024) ∧
      ∀ ha hb hc pw, conDescOk ws = true → even → at_ 3 ≠ at_ 1 → at_ 3 ≠ at_ 2 →
        readHdr q (at_ 1) s0 = .ok (ha, s0) → readHdr q (at_ 2) s0 = .ok (hb, s0) → readHdr q (at_ 3) s0 = .ok (hc, s0) →
        readWords q (at_ 4) 16 s0 = .ok (pw, s0) →
        let still := ha.sorting = false ∧ hb.sorting = false
        (¬ still → Waits s (.bcon f) src popped x) ∧
        (still → hc.busy = true → traps (.bcon f) 0x10A) ∧
        (still → hc.busy = false → PoolHdr.ok ⟨pw⟩ = false → traps (.bcon f) 0x024) ∧
        (still → hc.busy = false → PoolHdr.ok ⟨pw⟩ = true → s.ruleReg rr hc.rule = none → traps (.bcon f) 0x02A) ∧
        (∀ g v, still → hc.busy = false → PoolHdr.ok ⟨pw⟩ = true → s.ruleReg rr hc.rule = some g →
          let h := BitVec.ofNat 32 (s.cur.reg * 2 ^ 16 + (s.region rr).cseq)
          writeHdr q (at_ 3) (hc.w0 ||| 0x200) (some h) s0 = .ok v →
          ∃ u c, Gives s (.bcon f) u (sinkE f) ⟨h, false, false⟩ ∧ (u.region rr).cons.getLast? = some c ∧
            c.seq = (s.region rr).cseq ∧ c.rule = g ∧ c.na = ha.count ∧ c.nb = hb.count ∧ c.desc = ws ∧ c.resume = 0 ∧
            c.state = 0 ∧ c.queue = [] ∧ c.el = s.cur.el ∧ c.slot = s.curSlot ∧ u.mem = v.mem ∧
            (u.region rr).cseq = (if (s.region rr).cseq = 0xFFFF then 1 else (s.region rr).cseq + 1))) ∧
    (∀ stop, conOf s s.cur.inst src.a = .error stop → ∀ i, i ∈ [Instr.bcres f, .bcstat f, .bcwait f] → traps i 0x025) ∧
    ∀ r c, conOf s s.cur.inst src.a = .ok (r, c) →
      (7 < src.b.toNat → traps (.bcstat f) 0x02B) ∧
      (c.state ≠ 0 → Gives s (.bcwait f) (taken s x) (sinkE f) ⟨BitVec.ofNat 32 c.state, false, false⟩) ∧
      (c.state = 0 → Waits s (.bcwait f) src popped x) ∧
      (c.state ≠ 1 ∨ src.b ≠ BitVec.ofNat 32 c.resume → traps (.bcres f) 0x026) ∧
      (∀ h v, c.state = 1 → src.b = BitVec.ofNat 32 c.resume → Settled s x →
        readHdr q (ptrAt s (nthW c.desc 3)) s0 = .ok (h, s0) →
        writeHdr q (ptrAt s (nthW c.desc 3)) (h.w0 &&& ~~~0x100) none s0 = .ok v →
        Gives s (.bcres f) (modCon v r c.seq (fun c => { c with state := 0, stopped := none })) (sinkE f)
          ⟨src.a, src.fa, false⟩) ∧
      (src.b.toNat ≤ 7 → Yields s (.bcstat f) (taken s x) (sinkE f) (fun y => y.rf = false ∧
        y.r = BitVec.ofNat 32 ([c.resume, c.state, c.cause, c.retired, c.alloc, c.migr, c.xk.getD 0xFFFFFFFF,
          r.reg * 2 ^ 16 + c.el * 2 ^ 8 + c.slot].getD src.b.toNat 0)))

/-- R94, R97, R128: one step of the walk over the snapshots of A and B. The next permitted pair in row order, from where the walk
stands, is queued as the next product, with the C entry its tuple names, found or allocated; with no pair left the walk ends;
where C is at its capacity, or its pool has no block, the walk stops there with 0x103 or 0x104; pairs whose contracted dimensions
differ fail with 0x105, and a valid entry of C that the walk reads and that is not sound with its own cause. The model's choice
(log 58): of several entries of C that match, the lowest; those behind it are not looked at. -/
def Obligations.ContractionWalkResults : Prop :=
  ∀ (s : State) (r : RRef) (seq : Nat) (c : Contraction) (fm : EFmt × EFmt × EFmt) (ha hb hc : Hdr) (as bs cs : List Ent),
    liveCon (s.region r) seq = some c → c.state = 0 → c.ending = none → c.walked = false → c.stopped = none →
    (∀ a ∈ s.accs, a.req ≠ .sequencer r seq) → khas s.journals (.sequencer r seq) = false → Up s r.inst → conFmts c.desc = some fm →
    let q := seqRq s r c.seq c.slot
    let at_ (n : Nat) := descVA s r.inst c n
    Stands s q (at_ 1) ha as → Stands s q (at_ 2) hb bs → Stands s q (at_ 3) hc cs → c.na ≤ as.length → c.nb ≤ bs.length →
    checkHdrs c.rule c.desc c.resume ha hb hc = .ok () → hc.ixv = true →
    (∀ e ∈ as, e.v = true → checkEnt s r.inst c.rule ha.nleg fm.1 e c.resume none = .ok ()) →
    (∀ e ∈ bs, e.v = true → checkEnt s r.inst c.rule hb.nleg fm.2.1 e c.resume none = .ok ()) →
    let permitted (i j : Nat) (a b : Ent) : Prop := i < c.na ∧ j < c.nb ∧ as[i]? = some a ∧ bs[j]? = some b ∧ a.v = true ∧ b.v = true ∧
      ∀ p ∈ ConDesc.pairs c.desc, ceq c.rule (a.q p.1) (b.q p.2) = true
    let from_ (i j : Nat) : Prop := c.i < i ∨ (c.i = i ∧ c.j ≤ j)
    let next (i j : Nat) (a b : Ent) : Prop := permitted i j a b ∧ from_ i j ∧
      ∀ i' j' a' b', permitted i' j' a' b' → from_ i' j' → i < i' ∨ (i = i' ∧ j ≤ j')
    let same (a b : Ent) : Prop := ∀ p ∈ ConDesc.pairs c.desc, a.dim p.1 = b.dim p.2
    let tuple (a b : Ent) : List Word := (ConDesc.outs c.desc).map (fun o => if o.1 then b.q o.2 else a.q o.2)
    let dims (a b : Ent) : List Nat := (ConDesc.outs c.desc).map (fun o => if o.1 then b.dim o.2 else a.dim o.2)
    let agrees (a b e : Ent) : Prop := e.v = true ∧ tupleEq c.rule (e.qs hc.nleg) (tuple a b) = true
    let sound (n : Nat) (e : Ent) := soundEnt s r.inst c.rule hc.nleg e c.resume (some n)
    let failed (t : State) (cause : Nat) : Prop := (∃ d, liveCon (t.region r) c.seq = some d ∧ d.cause = cause ∧
      d.queue = c.queue.filter (fun p => c.writing.contains p.k) ∧ (d.state = 3 ∨ d.ending = some 3)) ∧ Faulted t (s.inst r.inst).graph cause 3
    let now_ (t : State) (p : Contraction → Prop) : Prop := ∃ d, liveCon (t.region r) c.seq = some d ∧ p d
    ((∀ i j a b, permitted i j a b → ¬ from_ i j) →
      ∃ t, exec (.contractionEnumerate r seq) s = .next t ∧ now_ t (fun d => d.walked = true ∧ d.queue = c.queue)) ∧
    (∀ i j a b, next i j a b → ¬ same a b → ∃ t, exec (.contractionEnumerate r seq) s = .next t ∧ failed t 0x105) ∧
    (∀ i j a b n e cause, next i j a b → same a b → cs[n]? = some e → e.v = true → sound n e = conFatal cause c.resume (some n) →
      (∀ m e', m < n → cs[m]? = some e' → e'.v = true → sound m e' = .ok () ∧ ¬ agrees a b e') →
      ∃ t, exec (.contractionEnumerate r seq) s = .next t ∧ failed t cause) ∧
    (∀ i j a b n e, next i j a b → same a b → cs[n]? = some e → agrees a b e →
      (∀ m e', m < n → cs[m]? = some e' → e'.v = true → sound m e' = .ok () ∧ ¬ agrees a b e') →
      checkEnt s r.inst c.rule hc.nleg fm.2.2 e c.resume (some n) = .ok () → e.dims hc.nleg = dims a b →
      ∃ t, exec (.contractionEnumerate r seq) s = .next t ∧ now_ t (fun d => d.resume = c.resume + 1 ∧ d.i = i ∧ d.j = j + 1 ∧
        ∃ steps, d.queue = c.queue ++ [⟨c.resume, i, j, n, steps⟩]) ∧ SameMemory s t) ∧
    (∀ i j a b, next i j a b → same a b → (∀ m e, cs[m]? = some e → e.v = true → sound m e = .ok () ∧ ¬ agrees a b e) →
      (hc.count = hc.cap → ∃ t, exec (.contractionEnumerate r seq) s = .next t ∧ SameMemory s t ∧
        now_ t (fun d => d.stopped = some 0x103 ∧ d.queue = c.queue ∧ d.resume = c.resume ∧ d.i = i ∧ d.j = j)) ∧
      (∀ pw, hc.count ≠ hc.cap → readWords q (at_ 4) 16 s = .ok (pw, s) → (⟨pw⟩ : PoolHdr).taken = (⟨pw⟩ : PoolHdr).avail →
        ∃ t, exec (.contractionEnumerate r seq) s = .next t ∧ SameMemory s t ∧
          now_ t (fun d => d.stopped = some 0x104 ∧ d.queue = c.queue ∧ d.resume = c.resume ∧ d.i = i ∧ d.j = j)) ∧
      (∀ ws u v, hc.count ≠ hc.cap →
        allocBlock q r.inst (at_ 4) hc fm.2.2 c.resume (tuple a b) (dims a b) s = .ok (.fresh ws, u) →
        appendEnt q (at_ 3) hc ws u = .ok v →
        ∃ t, exec (.contractionEnumerate r seq) s = .next t ∧ t.mem = v.mem ∧ now_ t (fun d => d.resume = c.resume + 1 ∧
          d.alloc = c.alloc + 1 ∧ ∃ steps, d.queue = c.queue ++ [⟨c.resume, i, j, hc.count, steps⟩])))

/-- R94, R129, R130: where what it reads is sound, a product is written once every lower one of its C block is, and not before:
each logical position gets the reduction of A's row with B's column onto its old value, or onto +0 where the contraction does not
accumulate and no product wrote the block; the record counts it and keeps the lowest product that raised. R131, R276: a migrated
group's products are read and written by the region that runs them. -/
def Obligations.ContractionProductResults : Prop :=
  ∀ (s : State) (r : RRef) (seq k : Nat) (c : Contraction),
    liveCon (s.region r) seq = some c →
    (∀ p, c.queue.find? (fun p => p.k == k) = some p → (∃ y ∈ c.queue, y.c = p.c ∧ y.k < k) →
      ¬ ∃ t, exec (.contractionProduct r seq k) s = .next t) ∧
    ∀ (p : Prod) (fm : EFmt × EFmt × EFmt) (ha hb : Hdr) (ea eb ec : Ent) (pa pb pc : Place) (ba bb bc : List Byte) (s6 s7 s8 u : State),
      c.queue.find? (fun p => p.k == k) = some p → (∀ y ∈ c.queue, y.c = p.c → k ≤ y.k) → c.state = 0 →
      c.ending = none → (∀ a ∈ s.accs, a.req ≠ .product r seq k) → khas s.journals (.product r seq k) = false → Up s r.inst →
      conFmts c.desc = some fm →
      let q := prodRq s r c.seq p.k c.slot (kget r.reg c.owners p.c)
      let at_ (n : Nat) := descVA s r.inst c n
      let nc := ConDesc.nc c.desc
      readHdr q (at_ 1) s = .ok (ha, s) → readHdr q (at_ 2) s = .ok (hb, s) → readEnt q (at_ 1) p.i s = .ok (ea, s) →
      readEnt q (at_ 2) p.j s = .ok (eb, s) → readEnt q (at_ 3) p.c s = .ok (ec, s) →
      let sound (h : Hdr) := checkHdr c.rule p.k p.c h = .ok ()
      let fits (n : Nat) (f : EFmt) (e : Ent) := checkEnt s r.inst c.rule n f e p.k (some p.c) = .ok ()
      sound ha → sound hb → fits ha.nleg fm.1 ea → fits hb.nleg fm.2.1 eb → fits nc fm.2.2 ec →
      readBlock q r.inst ha.nleg fm.1 ea p.k p.c s = .ok (pa, ba, s6) →
      readBlock q r.inst hb.nleg fm.2.1 eb p.k p.c s6 = .ok (pb, bb, s7) →
      readBlock q r.inst nc fm.2.2 ec p.k p.c s7 = .ok (pc, bc, s8) →
      let red := (ConDesc.pairs c.desc).map (fun p => max (ea.stored p.1) (eb.stored p.2))
      let place (xs : List Nat) := elemPos ec.lay (ec.storeds nc) xs
      let old (xs : List Nat) : Word :=
        if ConDesc.acc c.desc = true ∨ p.c ∈ c.written then BitVec.ofNat 32 (codeAt 32 bc (place xs)) else 0
      let row (xs : List Nat) (i : Nat) : Option Nat := blockAt fm.1 ea ha.nleg ba ((List.range ha.nleg).map
        (legIndex ((ConDesc.pairs c.desc).map Prod.fst) ((ConDesc.outs c.desc).map (fun o => if o.1 then none else some o.2))
          (unflatten red i) xs))
      let col (xs : List Nat) (i : Nat) : Option Nat := blockAt fm.2.1 eb hb.nleg bb ((List.range hb.nleg).map
        (legIndex ((ConDesc.pairs c.desc).map Prod.snd) ((ConDesc.outs c.desc).map (fun o => if o.1 then some o.2 else none))
          (unflatten red i) xs))
      let value (xs : List Nat) := dotreduce fm.1 fm.2.1 (old xs) (row xs) (col xs) (prodN red)
      let xs := positions (ec.dims nc)
      writeAt q pc (xs.map (fun x => (place x, (value x).1))) s8 = .ok u →
      ∃ t d, exec (.contractionProduct r seq k) s = .next t ∧ t.mem = u.mem ∧ liveCon (t.region r) c.seq = some d ∧
        d.retired = c.retired + 1 ∧ d.queue = c.queue.filter (fun y => y.k != p.k) ∧ p.c ∈ d.written ∧
        d.exc = (c.exc || xs.any (fun x => (value x).2)) ∧
        d.xk = if xs.any (fun x => (value x).2) then some (min (c.xk.getD p.k) p.k) else c.xk

/-- R131, R132, R218: a group of queued products may move to an adjacent region whose sequencer is idle, the one with most tile
steps; with its queue empty a stopped contraction sets STOP and pushes its handle with tag 1, a finished one clears BUSY and OPH
and pushes it with tag 0 and the OR of its exceptions; the record's state follows, of one that is to end otherwise once the
products whose writes had begun are written and its header is cleared. -/
def Obligations.ContractionEndResults : Prop :=
  ∀ (s : State) (r : RRef) (seq : Nat) (c : Contraction),
    liveCon (s.region r) seq = some c → c.seq = seq →
    let q := headerRq s r c.seq c.slot
    let idle := (∀ a ∈ s.accs, a.req ≠ .header r seq) ∧ khas s.journals (.header r seq) = false
    let works := c.state = 0 ∧ c.ending = none ∧ Up s r.inst
    let vc := descVA s r.inst c 3
    let e : ERef := ⟨r.inst, r.reg, c.el⟩
    let told (t : State) (tag : BitVec 2) (exc : Bool) : Prop :=
      let k : Token := ⟨BitVec.ofNat 32 (r.reg * 2 ^ 16 + c.seq), tag, exc, none, none⟩
      if (s.elem e).owed = [] ∧ ((s.elem e).chan 4).length < 16 then (t.elem e).chan 4 = (s.elem e).chan 4 ++ [k]
      else (t.elem e).owed = (s.elem e).owed ++ [k]
    (∀ g d, works → heaviest (groupsOf s r c) = some g → migrateTo s r = some d → ConDesc.nomig c.desc = false →
      ConDesc.thr c.desc < queuedAt s r →
      (∀ c' ∈ (s.region r).cons, mayMigrate s r c' = true → ∀ x ∈ groupsOf s r c', x.2 < g.2 ∨ (x.2 = g.2 ∧ g.1 ≤ x.1)) →
      adjacent r.reg d = true ∧ queuedAt s ⟨r.inst, d⟩ = 0 ∧ g.1 ∉ c.written ∧ (∀ p ∈ c.queue, p.c = g.1 → begun s r seq p = false) ∧
      ∃ t y, exec (.groupMigration r seq) s = .next t ∧ liveCon (t.region r) seq = some y ∧ kget r.reg y.owners g.1 = d ∧
        y.migr = c.migr + 1 ∧ y.queue = c.queue ∧ SameMemory s t) ∧
    (∀ st, c.ending = some st → c.queue ≠ [] → ¬ ∃ t, exec (.contractionComplete r seq) s = .next t) ∧
    (∀ h u st, c.ending = some st → c.queue = [] → idle → readHdr q vc s = .ok (h, s) → writeHdr q vc (h.w0 &&& ~~~0x300) (some 0) s = .ok u →
      ∃ t y, exec (.contractionComplete r seq) s = .next t ∧ t.mem = u.mem ∧ liveCon (t.region r) seq = some y ∧ y.state = st ∧
        y.ending = none) ∧
    (∀ h u, works → c.queue = [] → idle → (∀ a ∈ s.accs, a.req ≠ .sequencer r seq) → readHdr q vc s = .ok (h, s) →
      (∀ cause, c.stopped = some cause → writeHdr q vc (h.w0 ||| 0x100) none s = .ok u →
        ∃ t y, exec (.contractionStop r seq) s = .next t ∧ t.mem = u.mem ∧ liveCon (t.region r) seq = some y ∧ y.state = 1 ∧
          y.cause = cause ∧ told t 1 c.exc) ∧
      (c.walked = true → c.stopped = none → writeHdr q vc (h.w0 &&& ~~~0x200) (some 0) s = .ok u →
        ∃ t y, exec (.contractionComplete r seq) s = .next t ∧ t.mem = u.mem ∧ liveCon (t.region r) seq = some y ∧ y.state = 2 ∧
          told t 0 c.exc))

/-- R136, R138, R142: topb and topx check the pointer, the descriptor, its handles and its tiles' shapes; then topb takes the
lowest free binding (all four taken: 0x02C) and topx joins the element's queue of four, or waits for a place there; each tile
named is in use, the result is the handle, and an initial state of scant is row 0 of C. The model's choices: the order of the
checks (log 63), that both wait where a later action of this cycle has been taken at the tables of their tiles, before the handles
are looked at (log 56, R103), 0x024 for a B above 256 x 256 of a systolic array (log 58), and that a topx takes its initial state
as it issues (log 67). -/
def Obligations.TileOperationCommands : Prop :=
  ∀ (s : State) (f : FmtE) (src : Src) (popped : List (Nat × Token)) (x : Elem), ReadsE s f src popped x →
    let s0 := cmdState s src x
    let q := cmdRq s0
    let kind := f.fn.toNat % 16
    let inst := s.cur.inst
    let traps (i : Instr) (c : Nat) : Prop := ∃ t, exec i s = .next t ∧ Traps s t c 0
    let both (p : Instr → Prop) : Prop := p (.topb f) ∧ p (.topx f)
    let handle (b : Nat) : Word := BitVec.ofNat 32 (2 ^ 30 + b + s.cur.reg * 2 ^ 16 + s.cur.el * 2 ^ 10)
    let inUse (u : State) (ws : List Word) : Prop := ∀ h ∈ topHandles ws,
      (s0.tile (entryOf s0 inst h)).uses < (u.tile (entryOf s0 inst h)).uses
    (src.a.toNat % 64 ≠ 0 → both (fun i => traps i 0x023)) ∧
    (src.a.toNat % 64 = 0 → ¬ Settled s x → both (fun i => Waits s i src popped x)) ∧
    ∀ ws, src.a.toNat % 64 = 0 → Settled s x → readWords q (ptrAt s src.a) 16 s0 = .ok (ws, s0) → s.tape = none →
      let good := topDescOk kind ws = true ∧ systolicOk s0 s.cur kind ws = true
      let named := ∀ h ∈ topHandles ws, live s0 inst h = true
      let turn := ∀ h ∈ topHandles ws, (taken s x).inTurn (.table (entryOf (taken s x) inst h).1) (tableKey s.cur.el) = true
      (¬ good → both (fun i => traps i 0x024)) ∧
      (good → ¬ turn → both (fun i => Waits s i src popped x)) ∧
      (good → turn → ¬ named → both (fun i => traps i 0x020)) ∧
      (good → turn → named → shapesOk s0 inst kind ws = false → both (fun i => traps i 0x02D)) ∧
      (good → turn → named → shapesOk s0 inst kind ws = true →
        ((∀ n, n < 4 → khas x.binds n = true) → traps (.topb f) 0x02C) ∧
        (4 ≤ x.topx.length → Waits s (.topx f) src popped x) ∧
        ∀ dl u0, (if kind = 7 then scanInit (bindRq s0 s.cur s.curSlot) inst ws s0 else .ok ([], s0)) = .ok (dl, u0) →
          (∀ n, n < 4 → khas x.binds n = false → (∀ m, m < n → khas x.binds m = true) →
            ∃ u, Gives s (.topb f) u (sinkE f) ⟨handle n, false, false⟩ ∧ inUse u ws ∧ (u.elem s.cur).binds =
              kset x.binds n ⟨kind, ws, src.b.toNat, 0, handle n, s.curSlot, dl, false, none, before s0 s.cur⟩) ∧
          (x.topx.length < 4 →
            ∃ u, Gives s (.topx f) u (sinkE f) ⟨handle (2 ^ 29 + x.topxSeq), false, false⟩ ∧ inUse u ws ∧
              (u.elem s.cur).topx = x.topx ++ [⟨kind, ws, 1, 0, handle (2 ^ 29 + x.topxSeq), s.curSlot, dl, false, none,
                before s0 s.cur⟩]))

/-- R103, R139, R140, R142, R162, R213: an idle unit fires its queued topx, else the lowest-numbered binding whose operands are
full and whose destination is empty (or its accumulator), unless a lower-numbered element's firing goes before; it reads the
operands whole, B of a systolic array once per filling, and writes every element of D as the kind says: the dot kinds reduce over
K (dots over the kept positions alone), sacc adds a scaled term, addt adds, copyt converts, scant runs down each column from the
delay node's state, which it leaves at the last row's. The model's choices: dots over a group with no kept position (log 7),
sacc's M emptied (log 23), sacc's tiny negative sum (log 58). R136, R137, R139, R143: the end of a firing, in its tables' turn
(log 56) and once no request stands there. NOTE gives the handle with tag 1. A topx then gives its handle with tag 0 and its
exception on mi, its tiles no longer in use. A binding's firing leaves its unkept operands empty and D full, with the region's
release; it is counted; at its limit the binding is gone, its handle given with tag 0 and the OR of its firings' exceptions, its
tiles out of use. -/
def Obligations.TileFiringResults : Prop :=
  (∀ (s : State) (e : ERef) (n : Option Nat) (b : Bind),
     (s.elem e).firing = none → (s.inst e.inst).status = .running → (s.graph (s.inst e.inst).graph).fault = none →
     let x := s.elem e
     let ws := b.words
     let full (h : Word) : Prop := (s.tile (entryOf s e.inst h)).f = true
     let free (h : Word) : Prop := claimed s (entryOf s e.inst h) = false
     let eligible (b : Bind) : Prop := (∀ h ∈ topHandles b.words, h ≠ TDesc.hd b.words → full h ∧ free h) ∧
       (TDesc.hd b.words ≠ TDesc.hc b.words → ¬ full (TDesc.hd b.words))
     let binding (m : Nat) (b : Bind) : Prop := m < 4 ∧ x.binds.find? (fun p => p.1 == m) = some (m, b)
     (∃ bs, n = none ∧ x.topx = b :: bs) ∨ (∃ m, n = some m ∧ x.topx = [] ∧ binding m b ∧ eligible b ∧
       (∀ m' b', m' < m → binding m' b' → ¬ eligible b') ∧ lowerFirst s e b = false) →
     (∀ h ∈ topHandles ws, s.inTurn (.table (entryOf s e.inst h).1) (tableEngine e.el) = true) →
     let q := bindRq s e b.slot
     let s0 := if n.isSome then acquireOpnds s e ws else s
     ∀ (o : Opnds) (held : Option (Nat × List Byte)) (s1 s2 s3 s4 u : State) (hs : Nat → Nat → Word) (d : List (Nat × Bool)),
       readTile q e.inst (TDesc.ha ws) s0 = .ok (o.a, s1) → readTile q e.inst (TDesc.hm ws) s1 = .ok (o.m, s2) →
       (let h := TDesc.hb ws
        let fills := (s2.tile (entryOf s2 e.inst h)).fills
        if b.kind = 2 then readB q e b o.m s2 = .ok ((o.b, held), s3)
        else if isSystolic s2 e.rref = false ∨ 3 < b.kind then readTile q e.inst h s2 = .ok (o.b, s3) ∧ held = none
        else held = some (fills, o.b) ∧ (b.held = some (fills, o.b) ∧ s3 = s2 ∨
          (∀ bs, b.held ≠ some (fills, bs)) ∧ readTile q e.inst h s2 = .ok (o.b, s3))) →
       (if b.kind = 7 then .ok ([], s3) else readTile q e.inst (TDesc.hc ws) s3) = .ok (o.c, s4) →
       let M := TDesc.m ws
       let N := TDesc.n ws
       let K := TDesc.k ws
       let fa := fmtOf (TDesc.fa ws)
       let fb := fmtOf (TDesc.fb ws)
       let a (cols i k : Nat) : Nat := codeAt fa.width o.a (i * cols + k)
       let a32 (i j : Nat) : Word := BitVec.ofNat 32 (codeAt 32 o.a (i * N + j))
       let bk (rows cols w k j : Nat) : Nat := codeAt w o.b (if TDesc.trb ws then j * rows + k else k * cols + j)
       let b32 (i j : Nat) : Word := BitVec.ofNat 32 (bk M N 32 i j)
       let c (i j : Nat) : Word := if o.c = [] then 0 else BitVec.ofNat 32 (codeAt 32 o.c (i * N + j))
       let kept (j k : Nat) : Bool := codeAt 1 o.m (1024 * ((K + 1023) / 1024) * j + k) == 1
       let place (j k : Nat) : Nat := k / 64 * 64 + ((List.range (k % 64)).filter (fun i => kept j (k / 64 * 64 + i))).length
       let g (i j : Nat) : FVal := if o.a = [] then .fin false 1 0 else fv (a32 i j)
       let value (i j : Nat) : Nat × Bool :=
         let r : Word × Bool := match b.kind with
           | 2 => dotreduce fa fb (c i j) (fun k => some (a K i k))
               (fun k => if kept j k then some (bk K N fb.width (place j k) j) else none) K
           | 4 => saccOp (c i j) (a32 i j) (codeAt 8 o.b i) (codeAt 8 o.m j)
           | 5 => if TDesc.fa ws = 0 then dotgroup (a32 i j) [fv (b32 i j)] else sat32 ((a32 i j).toInt + (b32 i j).toInt)
           | 7 => dotgroup (b32 i j) [FVal.mul (g i j) (fv (hs i j))]
           | _ => dotreduce fa fb (c i j) (fun k => some (a K i k)) (fun k => some (bk K N fb.width k j)) K
         if b.kind = 6 then convCode (TDesc.fa ws) (TDesc.fd ws) (TDesc.sat ws) (if TDesc.trb ws then a M j i else a N i j)
         else (r.1.toNat, r.2)
       b.kind ≤ 7 →
       (∀ j, j < N → hs 0 j = nthW b.delay j) → (∀ i j, hs (i + 1) j = (dotgroup (b32 i j) [FVal.mul (g i j) (fv (hs i j))]).1) →
       d.length = M * N → (∀ i j, i < M → j < N → d.getD (i * N + j) (0, false) = value i j) →
       writePlace q (.tile (entryOf s e.inst (TDesc.hd ws)) 0) 0 (packElems (fmtOf (TDesc.fd ws)).width (d.map Prod.fst)) s4 = .ok u →
       ∃ t z, exec (.tileOpFiring e) s = .next t ∧ t.mem = u.mem ∧ (t.elem e).firing = some z ∧ z.bind = n ∧ z.op.words = ws ∧
         z.op.kind = b.kind ∧ z.op.held = held ∧ z.exc = d.any Prod.snd ∧
         z.op.delay = (if b.kind = 7 then (List.range N).map (fun j => hs M j) else b.delay) ∧
         (t.elem e).topx = (if n = none then x.topx.drop 1 else x.topx) ∧
         (∀ r c', (r, c') ∈ z.subs ↔ r < M / 32 ∧ c' < N / 32 ∧ ∃ i j, i < 32 ∧ j < 32 ∧
           (d.getD ((32 * r + i) * N + 32 * c' + j) (0, false)).2 = true)) ∧
  (∀ (s : State) (e : ERef) (z : Firing), (s.elem e).firing = some z →
     (∀ h ∈ topHandles z.op.words, s.inTurn (.table (entryOf s e.inst h).1) (tableEngine e.el) = true ∧
       kget [] s.tileReqs (entryOf s e.inst h).1 = []) →
     let b := z.op
     let note : List Token := if TDesc.note b.words then [⟨b.handle, 1, z.exc, none, none⟩] else []
     let ent (h : Word) := entryOf s e.inst h
     ∃ t, exec (.tileOpFiringEnd e) s = .next t ∧ (t.elem e).firing = none ∧ (isSink s e = false → SameMemory s t) ∧
       (z.bind = none → MiGets s t e (note ++ [⟨b.handle, 0, z.exc, none, none⟩]) ∧
         (∀ h ∈ topHandles b.words, (t.tile (ent h)).uses ≤ (s.tile (ent h)).uses - 1 ∧ (t.tile (ent h)).f = (s.tile (ent h)).f)) ∧
       (∀ n, z.bind = some n →
         let ends := b.limit ≠ 0 ∧ b.limit ≤ b.fired + 1
         (∀ h ∈ emptied b.kind b.words, ent h ≠ ent (TDesc.hd b.words) → (t.tile (ent h)).f = false) ∧
         (t.tile (ent (TDesc.hd b.words))).f = true ∧
         (∃ rel, (t.tile (ent (TDesc.hd b.words))).rel = some rel ∧ rel.reg = s.physReg e.inst e.reg) ∧
         (¬ ends → MiGets s t e note ∧
           (t.elem e).binds = kset (s.elem e).binds n { b with fired := b.fired + 1, exc := b.exc || z.exc }) ∧
         (ends → MiGets s t e (note ++ [⟨b.handle, 0, b.exc || z.exc, none, none⟩]) ∧
           khas (t.elem e).binds n = false ∧
           ∀ h ∈ topHandles b.words, (t.tile (ent h)).uses ≤ (s.tile (ent h)).uses - 1)))

/-- R244, R254 to R257, R259: gath, scat and pools check the pointer, wait for the element's earlier operations, check the
descriptor, wait for a place among the 16 of their die's wellhead, and give a new handle whose record has done no row; gstat reads
the record's fields. -/
def Obligations.WellheadCommands : Prop :=
  ∀ (s : State) (f : FmtE) (src : Src) (popped : List (Nat × Token)) (x : Elem), ReadsE s f src popped x →
    let s0 := cmdState s src x
    let q := cmdRq s0
    let va := ptrAt s src.a
    let rr := s.cur.rref
    let traps (i : Instr) (c : Nat) : Prop := ∃ t, exec i s = .next t ∧ Traps s t c 0
    let die := s.dieOf s.cur.inst s.cur.reg
    let places := kget [] s.wells die
    let n := (s.region rr).wseq
    (∀ i op fn limit, (i, op, fn, limit) ∈ [(Instr.gath f, 0, 0, 16777216), (.scat f, 1, f.fn.toNat % 4, 16777216),
        (.pools f, 2, f.fn.toNat % 8, 1048576)] →
      (src.a.toNat % 64 ≠ 0 → traps i 0x023) ∧
      (src.a.toNat % 64 = 0 → ¬ Settled s x → Waits s i src popped x) ∧
      ∀ hd, src.a.toNat % 64 = 0 → Settled s x → readWords q va 16 s0 = .ok (hd, s0) → (8 < GDesc.nseg hd → traps i 0x024) ∧
        ∀ sg, GDesc.nseg hd ≤ 8 → readWords q (va + 64) (2 * GDesc.nseg hd) s0 = .ok (sg, s0) →
        let good := gdescOk op fn (hd ++ sg) = true ∧ src.b.toNat ≤ limit
        (¬ good → traps i 0x024) ∧
        (good → 16 ≤ places.length → s.tape = none → Waits s i src popped x) ∧
        (good → places.length < 16 → ∃ u c, Gives s i u (sinkE f) ⟨BitVec.ofNat 32 (0xA0000000 + s.cur.reg * 2 ^ 16 + n), false, false⟩ ∧
          (u.region rr).wells.getLast? = some c ∧ c.seq = n ∧ c.op = op ∧ c.fn = fn ∧ c.desc = hd ++ sg ∧
          c.count = src.b.toNat ∧ c.state = 0 ∧ c.served = [] ∧ c.el = s.cur.el ∧ c.slot = s.curSlot ∧
          (u.region rr).wseq = (if n = 0xFFFF then 1 else n + 1) ∧
          kget [] u.wells die = places ++ [(rr, n)] ∧ SameMemory s0 u)) ∧
    let found := ((s.region ⟨s.cur.inst, bits src.a 23 16⟩).wells.reverse.take 64).find? (fun c => c.seq == bits src.a 15 0)
    (found = none ∨ bits src.a 31 24 ≠ 0xA0 → traps (.gstat f) 0x03A) ∧
    (∀ c, found = some c → bits src.a 31 24 = 0xA0 →
      (7 < src.b.toNat → traps (.gstat f) 0x02B) ∧
      (src.b.toNat ≤ 7 → Gives s (.gstat f) (taken s x) (sinkE f) ⟨BitVec.ofNat 32
        ([c.state, c.done, c.badix, c.nloc, c.ndie, c.npeer, c.ncxl, c.cause].getD src.b.toNat 0), false, false⟩))

/-- R245, R247, R248, R257, R258: one position of a list. Its index names a row of the segments laid end to end, or none: then
gath writes zeros into BUF, and the record counts it and takes the exception. gath copies the row into BUF, scat.set copies BUF's
row to it, the adding forms enter one add for each word at the engines, pools keeps it for its bag; a row applied to before waits
for the earlier positions. The record counts the row by its home, and as done unless adds of it are still to be applied. What an
add reads is charged to no region, as the add is. The model's choices: adds enter at port 65 (log 8); DONE leaves invalid rows out
(log 25). R249, R256, R257: completion. A gather, and a scatter whose adds are all applied, ends when every position is served;
pools folds each bag's rows in list order from its start value and writes the sums; the handle goes to mi with tag 0 and the OR of
the exceptions, and the record says that it is complete. Bounds that decrease end it with 0x0B0, a row that cannot be written with
its cause; the rows before it stay written (R260). The model's choice: bags are folded at completion (log 24). -/
def Obligations.WellheadRowResults : Prop :=
  (∀ (s : State) (r : RRef) (seq pos : Nat) (c : WellCmd) (i : Word),
     liveWell (s.region r) seq = some c → c.state = 0 → pos ∉ c.served → (∀ a ∈ s.accs, a.req ≠ .wellhead r seq pos) →
     khas s.journals (.wellhead r seq pos) = false → Up s r.inst → c.seq = seq →
     let ws := c.desc
     let e : ERef := ⟨r.inst, r.reg, c.el⟩
     let adds := c.op = 1 ∧ c.fn ≠ 0
     let q := wellRq s r seq pos c.slot (decide adds)
     let again : Rq := { q with counts := false }
     let at_ (o : Nat) := dataVA s r.inst o
     let n := GDesc.dim ws * GDesc.width ws / 8
     let stride := if nthW ws 4 = 0 then (if c.op = 2 then 4 * GDesc.dim ws else n) else (nthW ws 4).toNat
     let buf := at_ (GDesc.buf ws + pos * stride)
     let before (k : Nat) : Nat := ((List.range k).map (GDesc.rows ws)).sum
     let row (va : Nat) : Prop := ∃ k, k < GDesc.nseg ws ∧ before k ≤ i.toNat ∧ i.toNat < before (k + 1) ∧
       va = at_ (GDesc.base ws k + (i.toNat - before k) * n)
     let invalid := before (GDesc.nseg ws) ≤ i.toNat
     let listed := if c.op = 2 then ∃ b, c.count ≠ 0 ∧ readWords again (at_ (GDesc.offs ws)) (c.count + 1) s = .ok (b, s) ∧
         (nthW b 0).toNat ≤ pos ∧ pos < (nthW b (goodBags b)).toNat
       else pos < c.count
     let ordered := c.op = 1 → ∃ lower, readWords again (at_ (GDesc.idx ws)) pos s = .ok (lower, s) ∧
       ∀ m, m < pos → m ∉ c.served → nthW lower m ≠ i
     let counted (t : State) (l : Loc) : Prop := ∃ d, liveWell (t.region r) seq = some d ∧ d.served = pos :: c.served ∧
       d.done = c.done + (if adds then 0 else 1) ∧ d.exc = c.exc ∧ d.badix = c.badix ∧ d.nloc + d.ndie + d.npeer + d.ncxl = c.nloc + c.ndie + c.npeer + c.ncxl + 1 ∧
       (l.home ≤ 1 → d.npeer = c.npeer ∧ d.ncxl = c.ncxl ∧ d.nloc = c.nloc + (if dieOfKey l.key = s.dieOf r.inst r.reg then 1 else 0)) ∧
       (l.home = 2 → d.npeer = c.npeer + 1) ∧ (2 < l.home → d.ncxl = c.ncxl + 1)
     let missed (t : State) : Prop := ∃ d, liveWell (t.region r) seq = some d ∧ d.served = pos :: c.served ∧ d.done = c.done ∧
       d.badix = c.badix + 1 ∧ d.exc = true
     s.tape = none → c.op ≤ 2 → listed → readWords q (at_ (GDesc.idx ws + 4 * pos)) 1 s = .ok ([i], s) →
     (c.op = 1 → ¬ invalid → (∃ lower m, readWords again (at_ (GDesc.idx ws)) pos s = .ok (lower, s) ∧ m < pos ∧ m ∉ c.served ∧ nthW lower m = i) →
       ¬ ∃ t, exec (.wellheadRowServe r seq pos) s = .next t) ∧
     (invalid →
       (c.op ≠ 0 → ∃ t, exec (.wellheadRowServe r seq pos) s = .next t ∧ SameMemory s t ∧ missed t) ∧
       (∀ u, c.op = 0 → writeVA q buf (List.replicate n 0) s = .ok u →
         ∃ t, exec (.wellheadRowServe r seq pos) s = .next t ∧ t.mem = u.mem ∧ missed t)) ∧
     ∀ va l, ordered → row va →
       let reached (u : State) : State := widenElem u e (if l.home ≤ 1 then .part else if l.home = 2 then .group else .system)
       (∀ bs s3 u, c.op = 0 → placeAt s q va false = .ok l → readVA q va n (reached s) = .ok (bs, s3) → writeVA q buf bs s3 = .ok u →
         ∃ t, exec (.wellheadRowServe r seq pos) s = .next t ∧ t.mem = u.mem ∧ counted t l) ∧
       (∀ bs s3 u, c.op = 1 → c.fn = 0 → readVA q buf n s = .ok (bs, s3) → placeAt s3 q va true = .ok l → writeVA q va bs (reached s3) = .ok u →
         ∃ t, exec (.wellheadRowServe r seq pos) s = .next t ∧ t.mem = u.mem ∧ counted t l) ∧
       (∀ bs s3 u, adds → readVA q buf n s = .ok (bs, s3) → placeAt s3 q va true = .ok l → queueAdds q c va (wordsOf bs) 0 (reached s3) = .ok u →
         ∃ t, exec (.wellheadRowServe r seq pos) s = .next t ∧ t.mem = u.mem ∧ counted t l ∧
           ∀ m w, (wordsOf bs)[m]? = some w → ∃ eng, ∃ y ∈ (t.engine eng).reqs, y.port = 65 ∧ y.va = va + 4 * m ∧ y.w = 4 ∧ y.b = w ∧
             y.op = (if c.fn = 1 then .addF32 else .addI32)) ∧
       (∀ bs s3, c.op = 2 → placeAt s q va false = .ok l → readVA q va n (reached s) = .ok (bs, s3) →
         ∃ t, exec (.wellheadRowServe r seq pos) s = .next t ∧ t.mem = s3.mem ∧ counted t l ∧
           ∃ d, liveWell (t.region r) seq = some d ∧ kget [] d.vals pos = bs)) ∧
  ((∀ (s : State) (r : RRef) (seq : Nat) (c : WellCmd),
     liveWell (s.region r) seq = some c → c.state = 0 → (∀ a ∈ s.accs, a.req ≠ .wellhead r seq c.count) →
     khas s.journals (.wellhead r seq c.count) = false → Up s r.inst → c.seq = seq →
     let e : ERef := ⟨r.inst, r.reg, c.el⟩
     let q := wellRq s r seq c.count c.slot false
     let h : Word := BitVec.ofNat 32 (0xA0000000 + r.reg * 2 ^ 16 + seq)
     let ends (t : State) (exc : Bool) : Prop := MiGets s t e [⟨h, 0, exc, none, none⟩] ∧
       (∃ d, liveWell (t.region r) seq = some d ∧ d.state = 1 ∧ d.exc = exc ∧ d.done = c.done) ∧
       ∀ p ∈ t.wells, (r, seq) ∉ p.2
     (c.op ≠ 2 ∨ c.count = 0 → c.served.length = c.count → addsDone s r seq = true →
       ∃ t, exec (.wellheadCommandComplete r seq) s = .next t ∧ SameMemory s t ∧ ends t c.exc) ∧
     (∀ b, c.op = 2 → c.count ≠ 0 → readWords q (dataVA s r.inst (GDesc.offs c.desc)) (c.count + 1) s = .ok (b, s) →
       (∀ p, (nthW b 0).toNat ≤ p → p < (nthW b (goodBags b)).toNat → p ∈ c.served) →
       (∀ k a y z exc u, writeBags q r.inst c b (goodBags b) s = .ok ((some (k, a, y, z), exc), u) →
         ∃ t, exec (.wellheadCommandComplete r seq) s = .next t ∧ t.mem = u.mem ∧ Faulted t (s.inst r.inst).graph k 5 ∧
           ∃ d, liveWell (t.region r) seq = some d ∧ d.state = 2 ∧ d.cause = k) ∧
       ∀ exc u, writeBags q r.inst c b (goodBags b) s = .ok ((none, exc), u) →
         (goodBags b = c.count → ∃ t, exec (.wellheadCommandComplete r seq) s = .next t ∧ t.mem = u.mem ∧ ends t (c.exc || exc)) ∧
         (goodBags b < c.count → ∃ t rec_, exec (.wellheadCommandComplete r seq) s = .next t ∧
           (t.graph (s.inst r.inst).graph).fault = some rec_ ∧ rec_.cause = 0x0B0 ∧ rec_.engine = 5 ∧ rec_.handle = h ∧
           ∃ d, liveWell (t.region r) seq = some d ∧ d.state = 2 ∧ d.cause = 0x0B0))) ∧
   (∀ (c : WellCmd) (lo hi k : Nat), lo ≤ hi → k < GDesc.dim c.desc →
     let value (p : Nat) : Nat := codeAt (GDesc.width c.desc) (kget [] c.vals p) k
     let sum (hi : Nat) : Word × Bool := (poolBag c lo hi).getD k (0, false)
     let acc := (sum hi).1
     let v := value hi
     let f32s (x : FVal) : Word × Bool := (BitVec.ofNat 32 (rne32s x).1, (sum hi).2 || (rne32s x).2)
     (sum lo = if c.fn = 2 then (0xFF800000, false) else (0, false)) ∧
     (c.fn = 0 → sum (hi + 1) = f32s (FVal.add (fv acc) (f32.decode v))) ∧
     (c.fn = 1 → sum (hi + 1) = f32s (FVal.add (fv acc) (bf16.decode v))) ∧
     (c.fn = 2 → (fv acc).isNan = true ∨ (f32.decode v).isNan = true → sum (hi + 1) = (0x7FC00000, true)) ∧
     (c.fn = 2 → (fv acc).isNan = false → (f32.decode v).isNan = false → (sum (hi + 1)).2 = (sum hi).2 ∧
       (sum (hi + 1)).1 = if FVal.cmp (fv acc) (f32.decode v) = -1 ∨ (FVal.cmp (fv acc) (f32.decode v) = 0 ∧ (fv acc).sign = true ∧ (f32.decode v).sign = false)
         then BitVec.ofNat 32 v else acc) ∧
     (c.fn = 3 → (sum (hi + 1)).1.toInt = max (-2147483648) (min 2147483647 (acc.toInt + (BitVec.ofNat 32 v).toInt)) ∧
       (sum (hi + 1)).2 = ((sum hi).2 || decide ((sum (hi + 1)).1.toInt ≠ acc.toInt + (BitVec.ofNat 32 v).toInt)))))

/-! ## Groups, collectives, the exchange -/

/-- R191, R192, R197, R200 to R205: cgload checks the object with its graph, its slot, and the graph against the slot's group, in
this order, and gives a handle of a free place; crun and bar take the slot's next call number, in order of region and element in
one cycle, wait while eight calls are outstanding, and the start packets leave of a call that is first in its slot, where it
releases once what its issuer did before it is performed (R280); cwait waits for a call that is open, and gives the OR of its
exceptions; cseq reads the next number. A graph that R199 refuses for every number of members is refused before its slot is looked
for. A call out of its turn of the cycle waits. That turn (log 56), the lowest free place of the table, no check of the context
but in cgload, cwait's going by d alone (65), and what a releasing call awaits (DEDUCED, 66) are the model's. -/
def Obligations.CollectiveCommands : Prop :=
  ∀ (s : State) (f : FmtE) (src : Src) (popped : List (Nat × Token)) (x : Elem), ReadsE s f src popped x →
    let s0 := cmdState s src x
    let q := cmdRq s0
    let ctx := (s.inst s.cur.inst).ctx
    let traps (i : Instr) (c : Nat) : Prop := ∃ t, exec i s = .next t ∧ Traps s t c 0
    let callOf (slot n : Nat) : Word := BitVec.ofNat 32 (slot * 2 ^ 24 + n)
    let enters (u : State) (slot : Nat) (pkt : StartPkt) (disp : Word) (rel : Bool) : Prop :=
      let g := s.group slot
      (∃ c, (u.group slot).calls = g.calls ++ [c] ∧ c.num = g.next ∧ c.pkt = pkt ∧ c.disp = disp ∧ c.started = false ∧ c.reg = s.cur.reg ∧
        c.el = s.cur.el ∧ c.rel = rel ∧ c.awaits = (if rel then callAwaits (taken s x) s.cur else []) ∧
        (c.sent = true ↔ g.calls = [] ∧ ∀ d ∈ c.awaits, depOpen (taken s x) d = false) ∧
        u.sent = s.sent ++ if c.sent then (peersOf s g c).map (fun k => .start slot k pkt) else []) ∧
      (u.group slot).next = (if g.next = 0xFFFFFF then 1 else g.next + 1)
    (src.a.toNat % 64 ≠ 0 → traps (.cgload f) 0x023) ∧
    (src.a.toNat % 64 = 0 → ¬ Settled s x → Waits s (.cgload f) src popped x) ∧
    (∀ ws, src.a.toNat % 64 = 0 → Settled s x → readWords q (ptrAt s src.a) 16 s0 = .ok (ws, s0) →
      let graph := CObj.tpl ws = 0
      (cobjOk ws = false → traps (.cgload f) 0x033) ∧
      (cobjOk ws = true → graph → CObj.ops ws % 32 ≠ 0 → traps (.cgload f) 0x023) ∧
      ∀ recs rw, cobjOk ws = true → (graph → CObj.ops ws % 32 = 0) →
        (graph → readWords q (ptrAt s (nthW ws 8)) (8 * CObj.count ws) s0 = .ok (rw, s0) ∧ recs = recordsOf (CObj.count ws) rw) →
        (¬ graph → recs = []) →
        let formed := graph → cgraphForm ws recs = true ∧ cgraphFitsSome ws recs = true
        (¬ formed → traps (.cgload f) 0x033) ∧
        (formed → slotOf s ctx (CObj.g ws) = none → traps (.cgload f) 0x034) ∧
        ∀ slot, formed → slotOf s ctx (CObj.g ws) = some slot →
        let good := graph → cgraphFits ws recs (s.group slot).p = true
        (¬ good → traps (.cgload f) 0x033) ∧
        (good → (∀ n, n < 256 → khas s.colls n = true) → traps (.cgload f) 0x035) ∧
        (∀ n, good → n < 256 → khas s.colls n = false → (∀ m, m < n → khas s.colls m = true) →
          ∃ u c, Gives s (.cgload f) u (sinkE f) ⟨BitVec.ofNat 32 (0xC0000000 + slot * 2 ^ 24 + n), false, false⟩ ∧
            u.colls = kset s.colls n c ∧ c.words = ws ∧ c.recs = recs ∧ c.slot = slot ∧ c.gen = (s.group slot).gen)) ∧
    (∀ stop, collOf s src.a = .error stop → ∀ i, i ∈ [Instr.crun f, .cseq f] → traps i 0x031) ∧
    (∀ slot n c, collOf s src.a = .ok (slot, n, c) →
      Gives s (.cseq f) (taken s x) (sinkE f) ⟨BitVec.ofNat 32 (s.group slot).next, false, false⟩ ∧
      (dispOk c.words src.b = false → traps (.crun f) 0x023) ∧
      let turn := s.inTurn (.calls slot) (s.cur.reg * 128 + s.cur.el) = true
      (dispOk c.words src.b = true → 8 ≤ (s.group slot).calls.length ∨ ¬ turn ∨ ¬ Settled s x → Waits s (.crun f) src popped x) ∧
      (dispOk c.words src.b = true → (s.group slot).calls.length < 8 → turn → Settled s x →
        ∃ u, Gives s (.crun f) u (sinkE f) ⟨callOf slot (s.group slot).next, false, false⟩ ∧ enters u slot
          ⟨(s.group slot).next, CObj.tpl c.words, CObj.red c.words, CObj.count c.words, CObj.opc c.words⟩ src.b (bit f.fn 0))) ∧
    (let slot := bits src.a 31 24
     let n := bits src.a 23 0
     let d := ((s.group slot).next + 0xFFFFFF - n) % 0xFFFFFF
     let open_ := ∃ c ∈ (s.group slot).calls, c.num = n
     let bad := 16 ≤ slot ∨ (s.group slot).valid = false ∨ n = 0 ∨ d = 0
     (bad → traps (.cwait f) 0x032) ∧
     (¬ bad → 64 < d → Gives s (.cwait f) (taken s x) (sinkE f) ⟨0, false, false⟩) ∧
     (¬ bad → d ≤ 64 → open_ → Waits s (.cwait f) src popped x) ∧
     (∀ exc rel, ¬ bad → d ≤ 64 → ¬ open_ → (s.group slot).ended.find? (fun p => p.1 == n) = some (n, exc, rel) →
       Gives s (.cwait f) (acquireOptAt (taken s x) s.cur rel) (sinkE f) ⟨0, exc, false⟩)) ∧
    (f.sb = 13 →
      (∀ stop, collOf s src.a = .error stop → traps (.bar f) 0x031) ∧
      ∀ slot n c, collOf s src.a = .ok (slot, n, c) → Settled s x → (s.group slot).calls.length < 8 →
        s.inTurn (.calls slot) (s.cur.reg * 128 + s.cur.el) = true → ∃ u, exec (.bar f) s = .next u ∧ enters u slot ⟨(s.group slot).next, 15, 0, 0, 0⟩ 0 true ∧
          (u.elem s.cur).dp = .work ⟨s.curSlot, s.curBeat, .bar f, { src with b := callOf slot (s.group slot).next }, popped, s.now⟩) ∧
    ∀ (e : ERef) (w : Wait), (s.elem e).dp = .work w → (s.elem e).halted = false → w.ins = .bar f → w.src.b ≠ 0 →
      (∀ a ∈ s.accs, a.req ≠ .element e) → khas s.journals (.element e) = false → Up s e.inst → s.beaten e = false →
      let b := s.beat e
      let slot := bits w.src.b 31 24
      let n := bits w.src.b 23 0
      let full := dstFull (s.elem e) f.dst = true
      (full → exec (.waitingInstructionResume e) s = .next b) ∧
      (¬ full → (∃ c ∈ (s.group slot).calls, c.num = n) →
        exec (.waitingInstructionResume e) s = .next (b.modElem e (fun y => { y with dp := .work w }))) ∧
      (¬ full → (∀ c ∈ (s.group slot).calls, c.num ≠ n) → exec (.waitingInstructionResume e) s = .next (written
        (acquireOptAt b e (endedOf s slot n).2) e w.slot w.beat (sinkE f) ⟨w.src.b, false, false⟩))

/-- R189, R190, R192, R206: a FORM whose checks hold makes the slot's group anew, with a new generation, and one whose checks fail
says which in GSTAT; DISSOLVE is refused while a call or a round is open. A call that is first in its slot sends its start packets
once what it awaits is performed (R280), and starts when an equal start packet of every peer is in; one that differs faults with
0x1A0 and tells every member; TMO without a start faults with 0x1A1; an abort faults the call it names; a packet of a call that is
over is dropped (its number in the half of the cycle behind the next, log 36). The model's choices: the lowest GSTAT code, FORM on
an idle valid slot (33), which like DISSOLVE drops what stands there (65), the result written as the call completes (32), a write
and its answer in one step (60), FORM with DISSOLVE (63). R195 to R198, R204: the lowest eligible operation of a chunk graph runs:
a send, a receive, a receive that reduces, a copy; it counts at the successors that run here. A call ends when all its operations
have run, or all its chunks are in, and the next one's start packets leave. A reduction folds the ranks' values in rank order. -/
def Obligations.CollectiveCallResults : Prop :=
  (∀ (s : State) (slot : Nat), slot < 16 →
     let g := s.group slot
     (∀ v : Word, s.recovery = false → bit v 31 = true → bit v 30 = false → g.gctl = none ∨ g.gctl = some v →
       let gn := bits v 23 16
       let p := bits v 14 8
       let rank := bits v 5 0
       let bad1 := p = 0 ∨ 64 < p ∨ p ≤ rank
       let bad2 := kget 0 g.map rank ≠ s.naddr
       let bad3 := ∃ k, k < 16 ∧ k ≠ slot ∧ (s.group k).valid = true ∧ (s.group k).g = gn ∧ (s.group k).gctx = g.gctx
       let bad4 := g.valid = true ∧ (g.calls ≠ [] ∨ g.round.isSome = true)
       let fails (c : Nat) : Prop := exec (.groupForm slot v) s = .next (s.modGroup slot (fun y => { y with gstat := c, gctl := none }))
       (bad1 → fails 1) ∧ (¬ bad1 → bad2 → fails 2) ∧ (¬ bad1 → ¬ bad2 → bad3 → fails 3) ∧
       (¬ bad1 → ¬ bad2 → ¬ bad3 → bad4 → fails 4) ∧
       (¬ bad1 → ¬ bad2 → ¬ bad3 → ¬ bad4 → ∃ t, exec (.groupForm slot v) s = .next t ∧
         (t.group slot).valid = true ∧ (t.group slot).g = gn ∧ (t.group slot).p = p ∧ (t.group slot).rank = rank ∧
         (t.group slot).gen = g.gen + 1 ∧ (t.group slot).next = 1 ∧ (t.group slot).rnext = 1 ∧ (t.group slot).term = 1 ∧
         (t.group slot).arb = 0 ∧ (t.group slot).gstat = 0 ∧ (t.group slot).gctl = none ∧ (t.group slot).map = g.map ∧ (t.group slot).tmo = g.tmo)) ∧
     (s.recovery = false → (∀ v, g.gctl = some v → bit v 30 = true) → ∃ t, exec (.groupDissolve slot) s = .next t ∧
       (if g.valid = true ∧ (g.calls ≠ [] ∨ g.round.isSome = true) then t = s.modGroup slot (fun y => { y with gstat := 4, gctl := none })
         else (t.group slot).valid = false ∧ (t.group slot).gen = g.gen + 1 ∧ (t.group slot).map = g.map ∧
           (g.valid = false → (t.group slot).starts = g.starts ∧ (t.group slot).chunks = g.chunks ∧ (t.group slot).aborts = g.aborts ∧
             (t.group slot).early = g.early ∧ (t.group slot).roundAborts = g.roundAborts))) ∧
     let gone (num : Nat) : Prop := g.valid = true ∧ 1 ≤ numDist g.next num ∧ numDist g.next num ≤ 0x7FFFFF ∧ ∀ c ∈ g.calls, c.num ≠ num
     (∀ rank (p : StartPkt), rank < 64 → (gone p.num → exec (.collectiveStartPacket slot rank p) s = .next s) ∧
       (¬ gone p.num → exec (.collectiveStartPacket slot rank p) s =
         .next (s.modGroup slot (fun y => { y with starts := y.starts ++ [(rank, p)] })))) ∧
     (∀ p : ChunkPkt, p.rank < 64 → (gone p.num → exec (.collectiveChunkPacket slot p) s = .next s) ∧
       (¬ gone p.num → ∃ t, exec (.collectiveChunkPacket slot p) s = .next t ∧ (t.group slot).chunks = g.chunks ++ [p])) ∧
     (g.valid = false → ∀ (v : Word) t, exec (.groupForm slot v) s = .next t → (t.group slot).starts = g.starts ∧
       (t.group slot).chunks = g.chunks ∧ (t.group slot).aborts = g.aborts ∧ (t.group slot).early = g.early ∧
       (t.group slot).roundAborts = g.roundAborts) ∧
     (∀ rank num cause, cause = 0x1A0 ∨ cause = 0x1A2 → ∃ t, exec (.collectiveAbortPacket slot rank num cause) s = .next t ∧
       (∀ c, g.calls.find? (fun y => y.num == num) = some c → t = collFault s slot c cause rank) ∧
       (g.calls.find? (fun y => y.num == num) = none →
         (gone num → t = s) ∧ (¬ gone num → (t.group slot).aborts = g.aborts ++ [(num, cause, rank)]))) ∧
     (∀ num c, g.calls.find? (fun y => y.num == num) = some c → c.started = false → (s.graph c.graph).fault = none →
       (c.issued + c.tmo * 1000000 ≤ s.now → ∃ t, exec (.collectiveStartTimeout slot num) s = .next t ∧
         ((∀ i, c.inst = some i → (s.inst i).graph = c.graph) → Faulted t c.graph 0x1A1 8)) ∧
       (s.now < c.issued + c.tmo * 1000000 → ¬ ∃ t, exec (.collectiveStartTimeout slot num) s = .next t)) ∧
     ∀ (c : Call) (cs : List Call), g.calls = c :: cs → c.started = false → (s.graph c.graph).fault = none →
       (∀ i, c.inst = some i → (s.inst i).graph = c.graph) → (∀ a ∈ s.accs, a.req ≠ .collective slot c.num) →
       khas s.journals (.collective slot c.num) = false →
       let mine (p : Nat × StartPkt) : Prop := p ∈ g.starts ∧ p.2.num = c.num
       let others := (List.range g.p).filter (fun k => k != g.rank)
       let all := (∀ p, mine p → p.2 = c.pkt) ∧ ∀ k ∈ peersOf s g c, ∃ p, mine p ∧ p.1 = k
       let ws := (collEntry s c).words
       let n := CObj.count ws
       let width := redWidth (CObj.red ws)
       let begun (t : State) (bs : List Byte) : Prop := ∃ d, (t.group slot).calls = d :: cs ∧ d.started = true ∧ d.snap = bs ∧
         d.num = c.num ∧ d.pkt = c.pkt
       (c.sent = false → (∃ d ∈ c.awaits, depOpen s d = true) → ¬ ∃ t, exec (.collectiveCallStart slot c.num) s = .next t) ∧
       (c.sent = false → (∀ d ∈ c.awaits, depOpen s d = false) → ∃ t, exec (.collectiveCallStart slot c.num) s = .next t ∧ SameMemory s t ∧
         (t.group slot).calls = { c with sent := true } :: cs ∧ t.sent = s.sent ++ (peersOf s g c).map (fun k => .start slot k c.pkt)) ∧
       (c.sent = true →
       ((∃ p, mine p ∧ p.2 ≠ c.pkt) → ∃ t, exec (.collectiveCallStart slot c.num) s = .next t ∧ Faulted t c.graph 0x1A0 8 ∧
         t.sent = s.sent ++ others.map (fun k => .abort slot k c.num 0x1A0)) ∧
       ((∀ p, mine p → p.2 = c.pkt) → (∃ k ∈ peersOf s g c, ∀ p, mine p → p.1 ≠ k) →
         ¬ ∃ t, exec (.collectiveCallStart slot c.num) s = .next t) ∧
       (all → c.pkt.tpl ≠ 1 → c.pkt.tpl ≠ 2 → ∃ t, exec (.collectiveCallStart slot c.num) s = .next t ∧ begun t c.snap ∧ t.sent = s.sent) ∧
       (∀ bs u, all → c.pkt.tpl = 1 → readVA (collRq s slot c) (bufVA s c 0 0) (n * width) s = .ok (bs, u) →
         let m := (n + g.p - 1) / g.p
         ∃ t rest, exec (.collectiveCallStart slot c.num) s = .next t ∧ begun t bs ∧ t.mem = u.mem ∧ t.sent = u.sent ++
           (others.filter (fun j => decide (j * m < n))).map (fun j => .chunk slot j
             ⟨g.rank, c.num, j, false, (bs.drop (j * m * width)).take ((min n ((j + 1) * m) - j * m) * width)⟩) ++ rest) ∧
       (all → c.pkt.tpl = 2 → CObj.root ws < g.p →
         (g.rank ≠ CObj.root ws → ∃ t, exec (.collectiveCallStart slot c.num) s = .next t ∧ begun t c.snap ∧ t.sent = s.sent) ∧
         (∀ bs u, g.rank = CObj.root ws → readVA (collRq s slot c) (bufVA s c 0 0) n s = .ok (bs, u) →
           ∃ t, exec (.collectiveCallStart slot c.num) s = .next t ∧ begun t c.snap ∧
             t.sent = u.sent ++ others.map (fun k => .chunk slot k ⟨g.rank, c.num, 0, true, bs⟩))))) ∧
  ((∀ (s : State) (slot op : Nat) (c : Call) (cs : List Call),
     (s.group slot).calls = c :: cs → c.started = true → (s.graph c.graph).fault = none →
     (∀ a ∈ s.accs, a.req ≠ .collective slot c.num) → khas s.journals (.collective slot c.num) = false →
     let g := s.group slot
     let recs := (collEntry s c).recs
     let r := recs.getD op []
     let q := collRq s slot c
     let at_ := bufVA s c (COp.buf r) (COp.off r)
     let ran (t : State) (exc : Bool) : Prop := ∃ d, (t.group slot).calls = d :: cs ∧ d.ran = op :: c.ran ∧ d.exc = (c.exc || exc) ∧
       ∀ k, k ∈ COp.sucs r → (COp.sucs r).count k = 1 →
         kget 0 d.counters k = kget 0 c.counters k + if COp.on (recs.getD k []) g.rank then 1 else 0
     let packet (p : ChunkPkt) : Prop := g.chunks.find? (fun y => y.num == c.num && y.rank == COp.peer r && y.key == COp.key r &&
       !y.final && y.bytes.length == COp.len r) = some p
     let u (p : ChunkPkt) := s.modGroup slot (fun y => { y with chunks := removeFirst (· == p) y.chunks })
     (c.pkt.tpl = 0 → opEligible s slot c op = true → (∀ i, i < op → opEligible s slot c i = false) →
       (∀ bs v, COp.type r = 1 → readVA q at_ (COp.len r) s = .ok (bs, v) →
         ∃ t, exec (.chunkGraphOpStart slot c.num op) s = .next t ∧ ran t false ∧ t.mem = v.mem ∧
           t.sent = v.sent ++ [.chunk slot (COp.peer r) ⟨g.rank, c.num, COp.key r, false, bs⟩]) ∧
       (∀ bs v w, COp.type r = 4 → readVA q at_ (COp.len r) s = .ok (bs, v) →
         writeVA q (bufVA s c (COp.buf2 r) (COp.off2 r)) bs v = .ok w →
         ∃ t, exec (.chunkGraphOpStart slot c.num op) s = .next t ∧ ran t false ∧ t.mem = w.mem) ∧
       (∀ p v, COp.type r = 2 → packet p → writeVA q at_ p.bytes (u p) = .ok v →
         ∃ t, exec (.chunkGraphOpStart slot c.num op) s = .next t ∧ ran t false ∧ t.mem = v.mem) ∧
       (∀ p bs v w, COp.type r = 3 → packet p → readVA q at_ (COp.len r) (u p) = .ok (bs, v) →
         let o := reduceInto (CObj.red (collEntry s c).words) bs p.bytes
         writeVA q at_ o.1 v = .ok w →
         ∃ t, exec (.chunkGraphOpStart slot c.num op) s = .next t ∧ ran t o.2 ∧ t.mem = w.mem)) ∧
     (callWrites s slot c = none → ¬ ∃ t, exec (.collectiveCallComplete slot c.num) s = .next t) ∧
     (∀ parts v, callWrites s slot c = some parts → writeParts q (bufVA s c 0 0) parts s = .ok v →
       ∃ t, exec (.collectiveCallComplete slot c.num) s = .next t ∧ t.mem = v.mem ∧
         (t.group slot).ended.head? = some (c.num, c.exc, c.rls) ∧
         (cs = [] → (t.group slot).calls = [] ∧ t.sent = v.sent) ∧
         (∀ d ds, cs = d :: ds →
           let due := d.sent = false ∧ ∀ y ∈ d.awaits, depOpen t y = false
           (due → (t.group slot).calls = { d with sent := true } :: ds ∧ t.sent = v.sent ++ (peersOf v g d).map (fun k => .start slot k d.pkt)) ∧
           (¬ due → (t.group slot).calls = cs ∧ t.sent = v.sent))) ∧
     (c.pkt.tpl = 0 → (callWrites s slot c = some [] ↔ ∀ i, i < recs.length → COp.on (recs.getD i []) g.rank = true → i ∈ c.ran)) ∧
     (c.pkt.tpl = 15 → callWrites s slot c = some [])) ∧
   (∀ (vs : List Word) (v w : Word),
     let sum (red : Nat) (vs : List Word) := redFold red (vs.drop 1) (vs.headD 0, false)
     let a := sum 1 (w :: vs)
     sum 1 [w] = (w, false) ∧
     (∀ red, red = 1 ∨ red = 2 ∨ red = 3 → (fv w).isNan = true → redElem red [w] = (0x7FC00000, true)) ∧
     sum 1 ((w :: vs) ++ [v]) = (BitVec.ofNat 32 (rne32s (FVal.add (fv a.1) (fv v))).1, a.2 || (rne32s (FVal.add (fv a.1) (fv v))).2) ∧
     (let b := sum 5 (w :: vs)
      let c := sum 5 ((w :: vs) ++ [v])
      c.1.toInt = max (-2147483648) (min 2147483647 (b.1.toInt + v.toInt)) ∧ c.2 = (b.2 || decide (c.1.toInt ≠ b.1.toInt + v.toInt))) ∧
     (∀ red, red = 2 ∨ red = 3 →
       let b := sum red (w :: vs)
       let c := sum red ((w :: vs) ++ [v])
       ((fv b.1).isNan = true ∨ (fv v).isNan = true → c = (0x7FC00000, true)) ∧
       ((fv b.1).isNan = false → (fv v).isNan = false → (c.1 = b.1 ∨ c.1 = v) ∧ c.2 = b.2 ∧
         (red = 2 → FVal.cmp (fv c.1) (fv b.1) ≠ -1 ∧ FVal.cmp (fv c.1) (fv v) ≠ -1) ∧
         (red = 3 → FVal.cmp (fv b.1) (fv c.1) ≠ -1 ∧ FVal.cmp (fv v) (fv c.1) ≠ -1)))))

/-- R220 to R223, R234 to R240: the exchange commands check the list, its group and its entries; dpost opens the next round or
joins the open one, adding the entries' posts to the row, which goes to the arbiter with the last list; dsend binds a list of the
open round, in order of region and element in one cycle; drecv gives the landing list of the round that is open or opens next;
dwait waits for the end of the round that it found in BOUND; dqry reads an item. A landing list that came before its round takes
FILL as it stands when the round opens (R228; when it is read, log 62), and an abort packet that came before is spent on it
(R240). The model's choices: 0x036 for a list outside the part (log 35), dwait of RNEXT (37), the turn of the cycle (56). -/
def Obligations.ExchangeCommands : Prop :=
  ∀ (s : State) (f : FmtE) (src : Src) (popped : List (Nat × Token)) (x : Elem), ReadsE s f src popped x → s.tape = none →
    let s0 := cmdState s src x
    let q := cmdRq s0
    let va := ptrAt s src.a
    let traps (i : Instr) (c : Nat) : Prop := ∃ t, exec i s = .next t ∧ Traps s t c 0
    let lists := [Instr.dpost f, .dsend f, .drecv f]
    let all := [Instr.dpost f, .dsend f, .drecv f, .dqry f] ++ if f.sb = 13 then [.dwait f] else []
    let status (any : Bool) (left : Nat) : Word := BitVec.ofNat 32 ((if any then 2 ^ 31 else 0) + left)
    (src.a.toNat % 64 ≠ 0 → ∀ i ∈ all, traps i 0x023) ∧
    (src.a.toNat % 64 = 0 → ¬ Settled s x → ∀ i ∈ all, Waits s i src popped x) ∧
    ∀ ws l v, src.a.toNat % 64 = 0 → Settled s x → readWords q va 16 s0 = .ok (ws, s0) → xlate s0 q va false = .ok (l, v) →
      let group := slotOf s (s.inst s.cur.inst).ctx (XHdr.g ws)
      (1 < l.home → ∀ i ∈ lists, traps i 0x036) ∧
      (l.home ≤ 1 → xhdrOk 0xD5 64 ws = false → traps (.dpost f) 0x036 ∧ traps (.dsend f) 0x036) ∧
      (l.home ≤ 1 → xhdrOk 0xD6 1 ws = false → traps (.drecv f) 0x036) ∧
      (group = none → (f.sb = 13 → traps (.dwait f) 0x034) ∧ traps (.dqry f) 0x034) ∧
      (∀ slot, group = some slot →
        let g := s.group slot
        let b := (nthW ws 2).toNat
        let d := (g.rnext + 0xFFFFFF - b) % 0xFFFFFF
        (f.sb = 13 → (b = 0 ∨ 64 < d → traps (.dwait f) 0x039) ∧
          (b ≠ 0 → d ≤ 64 → slot < 256 → b < 2 ^ 24 → g.rounds.find? (fun p => p.1 == b) = none →
            let w : Wait := ⟨s.curSlot, s.curBeat, .dwait f, { src with b := BitVec.ofNat 32 (slot * 2 ^ 24 + b) }, popped, s.now⟩
            exec (.dwait f) s = .next (s0.modElem s.cur (fun y => { y with dp := .work w }))) ∧
          (∀ any left, b ≠ 0 → d ≤ 64 → slot < 256 → b < 2 ^ 24 → g.rounds.find? (fun p => p.1 == b) = some (b, any, left) →
            Gives s (.dwait f) s0 (sinkE f) ⟨status any left, false, false⟩)) ∧
        (8 < src.b.toNat → traps (.dqry f) 0x037) ∧
        (src.b.toNat ≤ 8 → Gives s (.dqry f) s0 (sinkE f) ⟨BitVec.ofNat 32
          ([g.rnext, (g.round.map Round.num).getD 0, roundState g, g.term % 2 ^ 26 * 64 + g.arb, g.nph, (quantaOf g g.rank).1,
            (quantaOf g g.rank).2.1, (quantaOf g g.rank).2.2, g.lastLeft].getD src.b.toNat 0), false, false⟩)) ∧
      ∀ ew, l.home ≤ 1 → readWords q (va + 64) (8 * XHdr.nent ws) s0 = .ok (ew, s0) →
        let es := recordsOf (XHdr.nent ws) ew
        let list : XList := ⟨va, (s.inst s.cur.inst).img.dataBase % 2 ^ 56, es, s.cur⟩
        (xhdrOk 0xD5 64 ws = true →
          (es.all sendEntOk = false → traps (.dpost f) 0x036 ∧ traps (.dsend f) 0x036) ∧
          (es.all sendEntOk = true → group = none → traps (.dpost f) 0x034 ∧ traps (.dsend f) 0x034) ∧
          ∀ slot, es.all sendEntOk = true → group = some slot →
            let g := s.group slot
            let turn := s.inTurn (.lists slot) (s.cur.reg * 128 + s.cur.el) = true
            let within := ∀ e ∈ es, XEnt.rank e < g.p
            let adds (old : KMap Nat) (row : KMap Nat) : Prop := ∀ k, kget 0 row k =
              kget 0 old k + ((es.filter (fun e => XEnt.rank e == k)).map XEnt.post).sum
            let sends (u : State) (r : Round) : Prop := u.sent = s.sent ++
              if r.posts = r.nlist ∧ r.rowSent = true then [.row slot r.num ((List.range g.p).map (kget 0 r.row))] else []
            (¬ within → traps (.dpost f) 0x036 ∧ traps (.dsend f) 0x036) ∧
            (within → g.round = none →
              traps (.dsend f) 0x039 ∧
              ∀ land v w, startLanding (curJob s src) slot s0 = .ok (land, v) →
                writeWord q (va + 4) (BitVec.ofNat 32 g.rnext) (openRound v slot (curJob s src) (XHdr.nlist ws) land) = .ok w →
                ∃ u r, Gives s (.dpost f) u (sinkE f) ⟨BitVec.ofNat 32 g.rnext, false, false⟩ ∧ u.mem = w.mem ∧
                  (u.group slot).round = some r ∧ r.num = g.rnext ∧ r.nlist = XHdr.nlist ws ∧ r.posts = 1 ∧ adds [] r.row ∧
                  (u.group slot).rnext = numAfter g.rnext ∧ r.land = land ∧ (∀ y, y ∈ r.by_ ↔ y = s.cur ∨ land.map XList.el = some y) ∧
                  (u.group slot).roundAborts = g.roundAborts.filter (fun y => y.1 != g.rnext) ∧ r.rowSent = decide (XHdr.nlist ws = 1) ∧
                  (r.rowSent = true → r.posted = r.row) ∧ sends u r) ∧
            (∀ r, within → g.round = some r →
              (r.posts = r.nlist → Waits s (.dpost f) src popped x) ∧
              (r.posts ≠ r.nlist → XHdr.nlist ws ≠ r.nlist → traps (.dpost f) 0x036) ∧
              (∀ w, r.posts ≠ r.nlist → XHdr.nlist ws = r.nlist → r.rowSent = false →
                writeWord q (va + 4) (BitVec.ofNat 32 r.num) s0 = .ok w →
                ∃ u y, Gives s (.dpost f) u (sinkE f) ⟨BitVec.ofNat 32 r.num, false, false⟩ ∧ u.mem = w.mem ∧
                  (u.group slot).round = some y ∧ y.num = r.num ∧ y.posts = r.posts + 1 ∧ y.nlist = r.nlist ∧ adds r.row y.row ∧
                  y.rowSent = decide (r.posts + 1 = r.nlist) ∧ (y.rowSent = true → y.posted = y.row) ∧ sends u y) ∧
              ((nthW ws 1).toNat ≠ r.num ∨ r.nlist ≤ r.binds.length → traps (.dsend f) 0x039) ∧
              ((nthW ws 1).toNat = r.num → r.binds.length < r.nlist → ¬ turn → Waits s (.dsend f) src popped x) ∧
              (∀ w, (nthW ws 1).toNat = r.num → r.binds.length < r.nlist → turn →
                writeWord q (va + 8) (BitVec.ofNat 32 r.num) s0 = .ok w →
                ∃ u, Gives s (.dsend f) u (sinkE f) ⟨src.a, src.fa, false⟩ ∧ u.mem = w.mem ∧
                  (u.group slot).round = some { takesPart s.cur r with binds := r.binds ++ [list], boundAt := s.now }))) ∧
        (xhdrOk 0xD6 1 ws = true →
          let good := es.all zoneOk = true ∧ (es.map XEnt.rank).Nodup
          (¬ good → traps (.drecv f) 0x036) ∧ (good → group = none → traps (.drecv f) 0x034) ∧
          ∀ slot, good → group = some slot →
            let g := s.group slot
            (∀ r, g.round = some r → r.land.isSome = true → traps (.drecv f) 0x038) ∧
            (∀ r, g.round = some r → r.land = none → Gives s (.drecv f)
              (s0.modGroup slot (fun y => { y with round := some { takesPart s.cur r with land := some list } })) (sinkE f)
              ⟨BitVec.ofNat 32 r.num, false, false⟩) ∧
            (g.round = none → g.nextLand.isSome = true → traps (.drecv f) 0x038) ∧
            (g.round = none → g.nextLand = none → Gives s (.drecv f)
              (s0.modGroup slot (fun y => { y with nextLand := some list })) (sinkE f) ⟨BitVec.ofNat 32 g.rnext, false, false⟩)) ∧
        (∀ slot, ((s.group slot).nextLand = none → startLanding (curJob s src) slot s0 = .ok (none, s0)) ∧
          ∀ (l : XList) (fill : Nat → Word), (s.group slot).nextLand = some l →
            (∀ i, i < l.ents.length → readWords { q with charge := some 255 } (l.va + 64 + 32 * i + 12) 1 s0 = .ok ([fill i], s0)) →
            startLanding (curJob s src) slot s0 =
              .ok (some { l with ents := (List.range l.ents.length).map (fun i => (l.ents.getD i []).set 3 (fill i)) }, s0)) ∧
        ∀ (e : ERef) (w : Wait), (s.elem e).dp = .work w → (s.elem e).halted = false → w.ins = .dwait f → w.src.b ≠ 0 →
          (∀ a ∈ s.accs, a.req ≠ .element e) → khas s.journals (.element e) = false → Up s e.inst → s.beaten e = false →
          let b := s.beat e
          let found := (s.group (bits w.src.b 31 24)).rounds.find? (fun p => p.1 == bits w.src.b 23 0)
          let full := dstFull (s.elem e) f.dst = true
          (full → exec (.waitingInstructionResume e) s = .next b) ∧
          (¬ full → found = none → exec (.waitingInstructionResume e) s = .next (b.modElem e (fun y => { y with dp := .work w }))) ∧
          ∀ n any left, ¬ full → found = some (n, any, left) → exec (.waitingInstructionResume e) s =
            .next (written b e w.slot w.beat (sinkE f) ⟨status any left, false, false⟩)

/-- R225, R226: the calendar. In each phase every source and every destination stands once; the phases together give each pair of
different members exactly its quanta. -/
def Obligations.CalendarIsExact : Prop :=
  ∀ (p n : Nat) (m : List (List Nat)), (∀ a, (m.getD a []).getD a 0 = 0) →
    let cal := calendarOf p n m
    (∀ c ∈ cal, (c.1.map Prod.fst).Nodup ∧ (c.1.map Prod.snd).Nodup ∧ 0 < c.2 ∧ ∀ x ∈ c.1, x.1 ≠ x.2 ∧ x.1 < p ∧ x.2 < p) ∧
    ∀ a d, a < p → d < p → a ≠ d →
      ((cal.filter (fun c => c.1.contains (a, d))).map Prod.snd).sum = (m.getD a []).getD d 0

/-- R224, R227 to R230, R236: the course of a round. The arbiter makes the calendar once every row is in and sends each member its
grant record; a record of the current term is taken and one of an older term dropped; the stream to the member itself is copied to
its zone, each phase sends at most its quanta of its stream, one after another, and then the tail; bytes land in their source's
zone behind those before, or wait for the landing list, and for a report whose zones are being closed; with all sent, landed and
acknowledged a member reports what is left, and the round ends, at a member that has reported it, be it before a changeover, with
SENT and POST of its entries written and nothing of it under way. The model's choices: when lists must be bound and what a fault
names (log 36), the tail's quanta and sources (61). -/
def Obligations.ExchangeRoundResults : Prop :=
  ∀ (s : State) (slot : Nat) (r : Round), (s.group slot).round = some r →
    let g := s.group slot
    let up (job : Nat) : Prop := (s.graph (s.inst r.el.inst).graph).fault = none ∧ (∀ a ∈ s.accs, a.req ≠ .exchange slot job) ∧
      khas s.journals (.exchange slot job) = false
    let q (job : Nat) := exchRq s slot job r
    let off (d : Nat) := kget 0 r.sentTo d
    let mine := streamLen r g.rank - off g.rank
    (∀ rows : List (Nat × List Nat), g.valid = true → g.arb = g.rank → r.rowSent = true → g.calendar = none →
      (∀ k, k < g.p → k ≠ g.rank → khas rows k = true) → g.rank < g.p →
      let row (k : Nat) : List Nat := if k = g.rank then (List.range g.p).map (kget 0 r.posted) else kget [] rows k
      let m := (List.range g.p).map (fun a => (List.range g.p).map (fun b => if a = b then 0 else ((row a).getD b 0 + 4095) / 4096))
      let cal := calendarOf g.p 128 m
      exec (.arbiterCalendar slot rows) s = .next (send (s.modGroup slot (fun y => { y with calendar := some cal }))
        ((List.range g.p).map (fun k => .grant slot k (grantFor r.num g.term g.arb k cal))))) ∧
    (∀ gr : Grant, (gr.term < g.term → exec (.grantRecordReceive slot gr) s = .next s) ∧
      (gr.term = g.term → gr.round = r.num → r.rowSent = true → r.grant = none → ∃ t, exec (.grantRecordReceive slot gr) s = .next t ∧
        (t.group slot).round = some { r with grant := some gr, grantAt := s.now, grantBase := r.sentTo, phase := 0, quanta := 0 } ∧
        (t.group slot).nph = gr.nph)) ∧
    (∀ (round term arb rank : Nat) (cal : List (List (Nat × Nat) × Nat)), round < 2 ^ 32 → term < 2 ^ 32 → arb < 64 → rank < 64 →
      (∀ c ∈ cal, c.2 < 2 ^ 32 ∧ ∀ x ∈ c.1, x.1 < 64 ∧ x.2 < 64) →
      let gr := grantFor round term arb rank cal
      let dst (c : List (Nat × Nat) × Nat) := (c.1.find? (fun x => x.1 == rank)).map Prod.snd
      gr.round = round ∧ gr.term = term ∧ gr.arb = arb ∧ gr.nph = min cal.length 128 ∧
      (∀ k c, k < 128 → cal[k]? = some c → gr.phase k = ⟨c.2, dst c, (c.1.find? (fun x => x.2 == rank)).map Prod.fst⟩) ∧
      (∀ d, d ∈ gr.tail ↔ ∃ c ∈ cal.drop 128, dst c = some d) ∧
      ∀ d, d ∈ gr.tailFrom ↔ ∃ c ∈ cal.drop 128, (c.1.find? (fun x => x.2 == rank)).map Prod.fst = some d) ∧
    (∀ l z bs u v, r.binds.length = r.nlist → mine ≠ 0 → up localJob → r.land = some l → zoneFor l g.rank = some z →
      XEnt.fill z + off g.rank + mine ≤ XEnt.cap z → readList (q localJob) (cut (streamOf r g.rank) (off g.rank) mine) s = .ok (bs, u) →
      writeVA (q localJob) ((l.base + XEnt.buf z + XEnt.fill z + off g.rank) % 2 ^ 56) bs u = .ok v →
      ∃ t y, exec (.exchangePhase slot) s = .next t ∧ t.mem = v.mem ∧ t.sent = v.sent ∧ (t.group slot).round = some y ∧
        y.sentTo = kset r.sentTo g.rank (off g.rank + mine) ∧ y.landed = kset r.landed g.rank (kget 0 r.landed g.rank + mine)) ∧
    (∀ gr, r.grant = some gr → r.binds.length = r.nlist → r.tailDone = false → up sendJob → jobOpen s slot endJob = false → mine = 0 ∨ r.land = none →
      let sends (d n : Nat) (y : Round) : Prop :=
        (n = 0 → ∃ t, exec (.exchangePhase slot) s = .next t ∧ (t.group slot).round = some y ∧ t.sent = s.sent) ∧
        ∀ bs u, n ≠ 0 → readList (q sendJob) (cut (streamOf r d) (off d) n) s = .ok (bs, u) → bs.length = n →
          ∃ t, exec (.exchangePhase slot) s = .next t ∧ (t.group slot).round = some { y with sentTo := kset r.sentTo d (off d + n) } ∧
            t.sent = s.sent ++ [.data slot d ⟨r.num, off d, bs⟩]
      (r.phase < gr.nph →
        let ph := gr.phase r.phase
        let after : Round := if ph.toRank = none ∨ ph.len ≤ r.quanta + 1 then { r with phase := r.phase + 1, quanta := 0 }
          else { r with quanta := r.quanta + 1 }
        (ph.toRank = none → ∃ t, exec (.exchangePhase slot) s = .next t ∧ (t.group slot).round = some after ∧ t.sent = s.sent) ∧
        ∀ d, ph.toRank = some d → sends d (min 4096 (streamLen r d - off d)) after) ∧
      (gr.nph ≤ r.phase →
        let limit (d : Nat) := kget 0 r.grantBase d + 4096 * ((kget 0 r.posted d + 4095) / 4096)
        let left (d : Nat) := min (streamLen r d) (limit d)
        (∀ d, gr.tail.find? (fun d => decide (off d < left d)) = some d → sends d (min 4096 (left d - off d)) r) ∧
        ((∀ d ∈ gr.tail, left d ≤ off d) → ∃ t, exec (.exchangePhase slot) s = .next t ∧
          (t.group slot).round = some { r with tailDone := true } ∧ t.sent = s.sent ++
            (gr.phases.filterMap Phase.toRank ++ gr.tail).eraseDups.map (fun d => .endOf slot d r.num (off d))))) ∧
    (∀ (rank : Nat) (p : ExchPkt), p.round = r.num → jobOpen s slot reportJob = true → ¬ ∃ t, exec (.exchangeDataLand slot rank p) s = .next t) ∧
    (∀ (rank : Nat) (p : ExchPkt), p.round = r.num → up (landJob rank p.off) → jobOpen s slot reportJob = false →
      (r.land = none → (∀ y ∈ r.early, ¬ (y.rank = rank ∧ y.pkt = p)) → ∃ t, exec (.exchangeDataLand slot rank p) s = .next t ∧
        (t.group slot).round = some { r with early := r.early ++ [⟨s.now, rank, p⟩] }) ∧
      ∀ l, r.land = some l →
        (zoneFor l rank = none → ∃ t, exec (.exchangeDataLand slot rank p) s = .next t ∧ Faulted t (s.inst r.el.inst).graph 0x183 7) ∧
        ∀ z, zoneFor l rank = some z →
          let fits := XEnt.fill z + p.off + p.bytes.length ≤ XEnt.cap z
          (¬ fits → ∃ t, exec (.exchangeDataLand slot rank p) s = .next t ∧ Faulted t (s.inst r.el.inst).graph 0x184 7) ∧
          (∀ u, fits → writeVA (q (landJob rank p.off)) ((l.base + XEnt.buf z + XEnt.fill z + p.off) % 2 ^ 56) p.bytes s = .ok u →
            let n := kget 0 r.landed rank + p.bytes.length
            let lands (v : State) : Prop := ∃ t y, exec (.exchangeDataLand slot rank p) s = .next t ∧ t.mem = v.mem ∧
              (t.group slot).round = some y ∧ y.landed = kset r.landed rank n
            (r.left = none → lands u) ∧
            ∀ i v, r.left ≠ none → l.ents[i]? = some z → (∀ j e, j < i → l.ents[j]? = some e → XEnt.rank e ≠ rank) →
              writeWord (q (landJob rank p.off)) (l.va + 64 + 32 * i + 12) (BitVec.ofNat 32 (XEnt.fill z + n)) u = .ok v → lands v)) ∧
    (∀ rank len, r.num ≠ 0 → exec (.exchangeEndPacket slot rank r.num len) s =
      .next (modRound s slot (fun y => { y with ends := kset r.ends rank len }))) ∧
    (∀ acks u, roundDone g r = true → allAcked r g.rank acks = true → r.left = none → up reportJob → jobOpen s slot endJob = false →
      closeLanding slot r s = .ok u →
      ∃ t, exec (.roundDoneReport slot acks) s = .next t ∧ t.mem = u.mem ∧
        (t.group slot).round = some { r with left := some (leftOf r), told := true } ∧
        t.sent = s.sent ++ [.report slot r.num (leftOf r) (usedOf r g.rank)]) ∧
    (∀ (reports : List RoundReport) cal own, g.calendar = some cal → r.left = some own → g.arb = g.rank →
      (∀ k, k < g.p → k ≠ g.rank → ∃ y ∈ reports, y.rank = k) →
      ∃ t any, exec (.roundEndBroadcast slot reports) s = .next t ∧ t.sent = s.sent ++ [.roundEnd slot r.num any] ∧
        (t.group slot).calendar = none ∧ (own ≠ 0 → any = true) ∧
        (any = true → own = 0 → ∃ y ∈ reports, y.left ≠ 0)) ∧
    (∀ any, r.left = none → r.told = false → ¬ ∃ t, exec (.roundEndReceive slot r.num any) s = .next t) ∧
    (∀ any u, r.left ≠ none ∨ r.told = true → up endJob → closeBinds (q endJob) (bindsSent r.sentTo r.binds) s = .ok u →
      let left := r.left.getD (leftOf r)
      ∃ t, exec (.roundEndReceive slot r.num any) s = .next t ∧ t.mem = u.mem ∧ (t.group slot).round = none ∧
        (t.group slot).rounds.head? = some (r.num, any, left) ∧ (t.group slot).lastLeft = left ∧ (t.group slot).lapsedIn = [] ∧
        ∀ job, jobOpen t slot job = false)

/-- R229, R231, R240: what ends a round early, each a fault of the member that sees it and an abort to the others: a row, a
landing list or a bound list missing for TMO (0x180, 0x182, 0x185), an abort packet (0x181), which is kept where it names a round
to come and dropped where its round has ended; this part's own row missing with no round open is kept for the round that it opens
next. Beacons and heartbeats are sent by this part and noted of a peer; 100 microseconds without one lapse it: the arbiter aborts
the round that is open on this part, or that others have posted to, which the oracle says, for a member that lapses in it, and a
new arbiter for those that lapsed in it before; the lowest live rank then claims the next term, and the highest claim is accepted.
Whom these faults are reported against, what a changeover clears, and which numbers are of ended rounds, are the model's choices
(log 36). -/
def Obligations.ExchangeFailureResults : Prop :=
  ∀ (s : State) (slot : Nat), slot < 16 →
    let g := s.group slot
    (∀ r, g.round = some r → (s.graph (s.inst r.el.inst).graph).fault = none →
      let fails (i : Instr) (cause : Nat) : Prop := ∃ t, exec i s = .next t ∧ Faulted t (s.inst r.el.inst).graph cause 7 ∧
        t.sent = s.sent ++ ((List.range g.p).filter (· != g.rank)).map (fun k => .roundAbort slot k r.num cause)
      (∀ missing first, g.valid = true → g.arb = g.rank → missing < g.p → first + r.tmo * 1000000 ≤ s.now → g.calendar = none →
        missing ≠ g.rank ∨ r.rowSent = false → fails (.exchangePostTimeout slot missing first) 0x180) ∧
      (∀ y ∈ r.early, r.land = none → y.at_ + r.tmo * 1000000 ≤ s.now → fails (.landingListTimeout slot) 0x182) ∧
      (r.land = none → r.binds.length = r.nlist → kget 0 r.sentTo g.rank < streamLen r g.rank → r.boundAt + r.tmo * 1000000 ≤ s.now →
        fails (.landingListTimeout slot) 0x182) ∧
      (r.rowSent = true → r.grant.isSome = true → r.binds.length < r.nlist → r.grantAt + r.tmo * 1000000 ≤ s.now →
        fails (.exchangeSendTimeout slot) 0x185) ∧
      (s.now < r.grantAt + r.tmo * 1000000 → ¬ ∃ t, exec (.exchangeSendTimeout slot) s = .next t) ∧
      (∀ rank, ∃ t, exec (.exchangeAbortPacket slot rank r.num) s = .next t ∧ Faulted t (s.inst r.el.inst).graph 0x181 7) ∧
      (∀ rank, g.valid = true → g.arb = g.rank → rank < g.p → rank ≠ g.rank → rank ∉ g.lapsed → kget 0 g.last rank + 100000 ≤ s.now →
        fails (.livenessLapse slot rank) 0x181) ∧
      (g.valid = true → g.arb ≠ g.rank → g.arb ∈ g.lapsed → (∀ k, k < g.rank → k ∈ g.lapsed) →
        kget 0 g.last g.arb + 100000 + 10000 * g.rank ≤ s.now → g.lapsedIn ≠ [] → ∃ t, exec (.arbiterClaim slot) s = .next t ∧
          Faulted t (s.inst r.el.inst).graph 0x181 7 ∧ (t.group slot).term = g.term + 1 ∧ (t.group slot).arb = g.rank ∧
          ∀ k, k < g.p → k ≠ g.rank → OutPkt.roundAbort slot k r.num 0x181 ∈ t.sent)) ∧
    (∀ rank num, (∀ r, g.round = some r → r.num ≠ num) → exec (.exchangeAbortPacket slot rank num) s = .next
      (if g.valid = true ∧ 1 ≤ numDist g.rnext num ∧ numDist g.rnext num ≤ 0x7FFFFF then s
       else s.modGroup slot (fun y => { y with roundAborts := (num, rank, 0x181) :: y.roundAborts }))) ∧
    (∀ first, g.round = none → g.valid = true → g.arb = g.rank → g.rank < g.p → first + g.tmo * 1000000 ≤ s.now →
      ∃ t, exec (.exchangePostTimeout slot g.rank first) s = .next t ∧
        (t.group slot).roundAborts = (g.rnext, g.rank, 0x180) :: g.roundAborts ∧
        t.sent = s.sent ++ ((List.range g.p).filter (· != g.rank)).map (fun k => .roundAbort slot k g.rnext 0x180)) ∧
    (g.valid = true →
      let heard (rank : Nat) (t : State) : Prop := kget 0 (t.group slot).last rank = s.now ∧ rank ∉ (t.group slot).lapsed ∧
        rank ∉ (t.group slot).lapsedIn
      (g.arb = g.rank → exec (.arbiterBeacon slot g.rank) s = .next (send s [.beacon slot g.term])) ∧
      (g.arb ≠ g.rank → ∃ t, exec (.arbiterBeacon slot g.arb) s = .next t ∧ heard g.arb t) ∧
      (g.rank < g.p → exec (.memberHeartbeat slot g.rank) s = .next (send s [.heartbeat slot])) ∧
      (∀ rank, rank < g.p → rank ≠ g.rank → ∃ t, exec (.memberHeartbeat slot rank) s = .next t ∧ heard rank t) ∧
      (∀ rank, rank < g.p → rank ≠ g.rank → rank ∉ g.lapsed → kget 0 g.last rank + 100000 ≤ s.now →
        let posted : Bool := s.oracle.head? == some 1
        (g.arb ≠ g.rank ∨ (g.round = none ∧ posted = false) → ∃ t, exec (.livenessLapse slot rank) s = .next t ∧
          (t.group slot).lapsed = g.lapsed ++ [rank] ∧ t.sent = s.sent ∧ (t.group slot).lapsedIn =
            g.lapsedIn ++ if (g.round.isSome = true ∨ posted = true) ∧ rank ≠ g.arb then [rank] else []) ∧
        (g.arb = g.rank → g.round = none → posted = true → ∃ t, exec (.livenessLapse slot rank) s = .next t ∧
          (t.group slot).lapsed = g.lapsed ++ [rank] ∧ (t.group slot).roundAborts = (g.rnext, rank, 0x181) :: g.roundAborts ∧
          t.sent = s.sent ++ ((List.range g.p).filter (· != g.rank)).map (fun k => .roundAbort slot k g.rnext 0x181))) ∧
      (g.arb ≠ g.rank → g.arb ∈ g.lapsed → (∀ k, k < g.rank → k ∈ g.lapsed) → kget 0 g.last g.arb + 100000 + 10000 * g.rank ≤ s.now → g.lapsedIn = [] →
        ∃ t, exec (.arbiterClaim slot) s = .next t ∧ (t.group slot).term = g.term + 1 ∧ (t.group slot).arb = g.rank ∧
          (∀ r, g.round = some r → ∃ y, (t.group slot).round = some y ∧ y.grant = none ∧ y.row = r.row ∧ y.told = r.told ∧
            y.ends = [] ∧ (∀ k, kget 0 y.posted k = kget 0 r.row k - kget 0 r.sentTo k) ∧ khas t.journals (.exchange slot sendJob) = false ∧
            ∀ a ∈ t.accs, a.req ≠ .exchange slot sendJob)) ∧
      (∀ k ks, g.arb ≠ g.rank → g.arb ∈ g.lapsed → (∀ k, k < g.rank → k ∈ g.lapsed) →
        kget 0 g.last g.arb + 100000 + 10000 * g.rank ≤ s.now → g.lapsedIn = k :: ks → g.round = none →
        ∃ t, exec (.arbiterClaim slot) s = .next t ∧ (t.group slot).term = g.term + 1 ∧ (t.group slot).arb = g.rank ∧
          (t.group slot).roundAborts = (g.rnext, k, 0x181) :: g.roundAborts ∧
          ∀ d, d < g.p → d ≠ g.rank → OutPkt.roundAbort slot d g.rnext 0x181 ∈ t.sent) ∧
      (g.arb ∉ g.lapsed → ¬ ∃ t, exec (.arbiterClaim slot) s = .next t) ∧
      ∀ rank term, rank < g.p →
        (g.term < term ∨ (g.term = term ∧ rank < g.arb) → ∃ t, exec (.claimAccept slot rank term) s = .next t ∧
          (t.group slot).term = term ∧ (t.group slot).arb = rank ∧ (t.group slot).quanta = []) ∧
        (term < g.term ∨ (g.term = term ∧ g.arb ≤ rank) → exec (.claimAccept slot rank term) s = .next s))

/-! ## The host, launches, scheduling, faults, firmware -/

/-- R320, R322 to R325: glaunch checks its packet (0x03B) and puts it into the pending-launch store, its number the result, or
gives 0xFFFFFFFF where the store is full; gcond swaps a condition word; hrapp appends a record to a host ring of its context
(0x03C), waiting while it is full; intr posts its value to a mailbox, with an interrupt where nothing is pending there. R325,
R327: those of one cycle go in the order of region and element. An instruction out of its turn of the cycle waits (log 56, the
model's choice). -/
def Obligations.HostInstructionResults : Prop :=
  ∀ (s : State) (f : FmtY) (src : Src) (popped : List (Nat × Token)) (x : Elem), ReadsY s f src popped x →
    let s0 := cmdState s src x
    let e := s.cur
    let i := s.inst e.inst
    let n := f.idx.toNat
    let turn := s.inTurn .host (e.reg * 128 + e.el) = true
    let acted (u : State) : State := u.act .host (e.reg * 128 + e.el)
    (src.a.toNat % 64 ≠ 0 → ∃ t, exec (.glaunch f) s = .next t ∧ Traps s t 0x023 0) ∧
    (src.a.toNat % 64 = 0 → ¬ Settled s x → Waits s (.glaunch f) src popped x) ∧
    (∀ ws, src.a.toNat % 64 = 0 → Settled s x → readWords (cmdRq s0) (ptrAt s src.a) 16 s0 = .ok (ws, s0) →
      let good := Pkt.type ws = 1 ∧ packetBreak ws = none
      (¬ good → ∃ t, exec (.glaunch f) s = .next t ∧ Traps s t 0x03B 0) ∧
      (good → ¬ turn → s.tape = none → Waits s (.glaunch f) src popped x) ∧
      (good → turn → 64 ≤ s.pendLaunch.length → Gives s (.glaunch f) s0 (sinkY f) ⟨0xFFFFFFFF, src.fa, false⟩) ∧
      (good → turn → s.pendLaunch.length < 64 → ∃ u p, Gives s (.glaunch f) u (sinkY f) ⟨BitVec.ofNat 32 s.launchNo, src.fa, true⟩ ∧
        u.launchNo = s.launchNo + 1 ∧ u.pendLaunch = s.pendLaunch ++ [p] ∧ p.num = s.launchNo ∧ p.cls = n % 4 ∧ p.ctx = i.ctx ∧
        p.words = ws ∧ u.mem = s0.mem)) ∧
    (¬ turn → exec (.gcond f) s = .next (hold s)) ∧
    (turn → Gives s (.gcond f) (acted ((taken s x).modGraph i.graph (fun g => { g with conds := kset g.conds n src.a }))) (sinkY f)
      ⟨kget 0 (s.graph i.graph).conds n, false, false⟩) ∧
    (let r := s.ring n
     let good := r.size ≠ 0 ∧ r.ctx = i.ctx
     let full := (r.prod - r.cons).toNat = 2 ^ r.size
     let rec_ := [src.a, if i.img.clocked then i.icnt else 0, coordOf e.reg e.el, r.prod, 0, 0, 0, 0]
     (¬ good → ∃ t, exec (.hrapp f) s = .next t ∧ Traps s t 0x03C 0) ∧
     (good → full ∨ ¬ Settled s x ∨ ¬ turn → Waits s (.hrapp f) src popped x) ∧
     (good → ¬ full → Settled s x → turn → Memory.wf s.mem → ∃ u, Gives s (.hrapp f) u (sinkY f) ⟨0, false, false⟩ ∧
       (u.ring n).prod = r.prod + 1 ∧ (u.ring n).u = r.u + 1 ∧
       (u.ring n).timer = (if r.timer.isNone then some s.now else r.timer) ∧
       ∀ k, k < 32 → memGet u.mem (hostKey (r.base + 32 * (r.prod.toNat % 2 ^ r.size)) + k) = (bytesOfWords rec_).getD k 0)) ∧
    (let m := s.mailbox n
     (¬ Settled s x ∨ ¬ turn → Waits s (.intr f) src popped x) ∧
     (Settled s x → turn → ∃ u, Gives s (.intr f) u (sinkY f) ⟨0, false, false⟩ ∧ (u.mailbox n).value = src.a ∧
       (u.mailbox n).pend = true ∧
       (m.pend = true → (u.mailbox n).ovr = min (m.ovr + 1) 0xFFFF ∧ u.irqs = s.irqs) ∧
       (m.pend = false → (u.mailbox n).ovr = m.ovr ∧ u.irqs = s.irqs ++ [mailVector n])))

/-- R311 to R316, R319, R363: the front end, while a core leads, serves the lowest class first, and in it pending launches before
queues. A packet that breaks its rules, or whose launch is refused, puts its queue into the error state with its cause, which
counts (R363), its record and its interrupt; else QREAD passes it and it is open: a launch starts its graph, a copy goes to its
channel, a barrier-and and a signal wait and complete when what they wait for is done. What the front end writes goes to its
place, or waits with its interrupt where it cannot be written now (R266, R267). The model's choices: QREAD runs on (log 26), the
bytes of a delta behind its last whole entry are not read (27), WHERE 4 of 0x1C3 (41), RESET of a disabled queue, CAP read once, a
copy of an address 0 and a barrier-and with an unreadable record (42), the front end's accesses (9), an unreadable CAP (63). -/
def Obligations.QueuePacketResults : Prop :=
  ∀ (s : State) (q : Nat),
    let x := s.queue q
    (serves s = some (some q) → x.state = 1 ∧ x.read ≠ x.write ∧ ∀ p ∈ s.pendLaunch, 4 ≤ p.cls ∨ qclass x < p.cls) ∧
    (∀ ws, Leads s → serves s = some (some q) → packetAt s q = some ws →
      let quiet : Prop := waitsFor s q 3 (fun _ y => barrierReady s q y) = none ∧
        waitsFor s q 3 (fun k y => !accPending s (.packet q k) && (barrierStop s q y).isSome) = none
      let started (t : State) : Prop := (t.queue q).read = (x.read + 1) % 2 ^ 32 ∧ (t.queue q).open_ = x.open_ ++ [x.read] ∧
        (t.queue q).state = 1
      let refused (i : Instr) (cause type where_ : Nat) : Prop := exec i s = .next (frontWrite
        ((countFault s cause).modQueue q (fun y => { y with state := 2, failed := none })) noGraph x.ctx
        [(x.err, bytesOfWords ([cause, x.read, type, where_, 0, 0, 0, 0].map (BitVec.ofNat 32)))] (some (queueVector q)))
      let type := Pkt.type ws
      (type = 0 ∨ 4 < type → refused (.graphLaunchPacket q) 0x1C0 type 0) ∧
      (∀ w, packetBreak ws = some w → (type = 1 → refused (.graphLaunchPacket q) 0x1C1 1 w) ∧
        (type = 2 → refused (.copyPacket q) 0x1C1 2 w) ∧
        (type = 3 → quiet → refused (.barrierAndPacket q) 0x1C1 3 w) ∧
        (type = 4 → waitsFor s q 4 (fun k _ => signalReady s q k) = none → refused (.signalPacket q) 0x1C1 4 w)) ∧
      (packetBreak ws = none →
        (type = 2 → Pkt.addr ws 1 = 0 ∨ Pkt.addr ws 3 = 0 → exec (.copyPacket q) s =
          .next (completePacket (startPacket s q) q x.read (Pkt.addr ws 9) (Pkt.int ws) 0 0)) ∧
        (type = 2 → Pkt.addr ws 1 ≠ 0 → Pkt.addr ws 3 ≠ 0 → ∃ t j, exec (.copyPacket q) s = .next t ∧ started t ∧
          kget [] t.copies (chanKey 8 q) = kget [] s.copies (chanKey 8 q) ++ [j] ∧ j.ctx = x.ctx ∧ j.started = false ∧
          (∃ comp int, j.who = .packet q x.read comp int) ∧ Tpl.src j.tpl = Tpl.src ws ∧ Tpl.dst j.tpl = Tpl.dst ws ∧
          Tpl.len j.tpl = Tpl.len ws ∧ Tpl.rows j.tpl = Tpl.rows ws) ∧
        (type = 3 → quiet → ∃ t, exec (.barrierAndPacket q) s = .next t ∧ started t ∧
          (t.queue q).waits = x.waits ++ [(x.read, ws)]) ∧
        (type = 4 → waitsFor s q 4 (fun k _ => signalReady s q k) = none → ∃ t, exec (.signalPacket q) s = .next t ∧ started t ∧
          (t.queue q).waits = x.waits ++ [(x.read, ws)]) ∧
        (type = 1 → (∀ a ∈ s.accs, a.req ≠ .queue q) →
          let key := (x.ctx, Pkt.graph ws)
          let r := s.resident.find? (fun p => p.1 == key)
          let d := readDelta s x.failed x.ctx (Pkt.addr ws 2) (nthW ws 4).toNat
          (r = none → refused (.graphLaunchPacket q) 0x1C2 1 4) ∧
          ∀ p, r = some p → (d = .fatal → refused (.graphLaunchPacket q) 0x1C5 1 8) ∧
            (∀ va st, d = .notYet va st → ∃ t, exec (.graphLaunchPacket q) s = .next t ∧ SameMemory s t ∧ t.queues = s.queues ∧
              accPending t (.queue q) = true) ∧
            ∀ es, d = .got es →
              (∀ k, firstBadEntry p.2.graph 0 es = some k → refused (.graphLaunchPacket q) 0x1C4 1 k) ∧
              (firstBadEntry p.2.graph 0 es = none → Pkt.isLive ws = false →
                let g := applyDelta es p.2.graph
                let gi := s.fresh
                (graphOk g (some (deltaArgs es)) = false → refused (.graphLaunchPacket q) 0x1C3 1 4) ∧
                (∀ cd cap, graphOk g (some (deltaArgs es)) = true → (∀ n o b, g.items[0]? ≠ some (.collective n o b)) →
                  readCap s x.failed x.ctx (Pkt.addr ws 5) = (cd, cap) → (∀ va st, cd ≠ .notYet va st) →
                  ∃ t, exec (.graphLaunchPacket q) s = .next t ∧ started t ∧
                    (t.graph gi).origin = .queue q x.read ∧ (t.graph gi).graph = g ∧ (t.graph gi).ctx = x.ctx ∧
                    (t.graph gi).cls = qclass x ∧ (t.graph gi).args = deltaArgs es ∧ (t.graph gi).item = 0 ∧
                    (t.graph gi).done = false ∧ (t.graph gi).fault = none ∧ (t.graph gi).elog = Pkt.addr ws 5 ∧
                    (t.graph gi).xcap = cap ∧ (t.graph gi).xcount = 0 ∧
                    (∀ img, g.items[0]? = some (.stage img) → ∃ k, (t.graph gi).stage = some k ∧ (t.inst k).img = img ∧
                      (t.inst k).status = .ready ∧ (t.inst k).graph = gi ∧ t.sched.due = true)))))) ∧
    (∀ k ws, waitsFor s q 3 (fun _ y => barrierReady s q y) = some (k, ws) → ∃ t, exec (.barrierAndPacket q) s = .next t ∧
      (t.queue q).open_ = x.open_.filter (· != k) ∧ ∀ p ∈ (t.queue q).waits, p.1 ≠ k) ∧
    (let waiting (t : Nat → List Word → Bool) := waitsFor s q 3 t
     waiting (fun _ y => barrierReady s q y) = none →
     ∀ k ws, waiting (fun k y => !accPending s (.packet q k) && (barrierStop s q y).isSome) = some (k, ws) →
       (∀ va st, barrierStop s q ws = some (va, .wait st) → ∃ t, exec (.barrierAndPacket q) s = .next t ∧ t.queues = s.queues ∧
         accPending t (.packet q k) = true) ∧
       (∀ va c a b, barrierStop s q ws = some (va, .fail c a b) → ∃ t, exec (.barrierAndPacket q) s = .next t ∧
         (t.queue q).open_ = x.open_.filter (· != k))) ∧
    (∀ k ws, waitsFor s q 4 (fun k _ => signalReady s q k) = some (k, ws) → ∃ t, exec (.signalPacket q) s = .next t ∧
      (∀ p ∈ (t.queue q).waits, p.1 ≠ k) ∧
      let va := Pkt.addr ws 1
      let closes : Prop := (t.queue q).open_ = x.open_.filter (· != k) ∧ t.irqs = s.irqs ++ if Pkt.int ws then [queueVector q] else []
      (va = 0 → t.mem = s.mem ∧ closes) ∧
      (∀ p, va ≠ 0 → va % 4 = 0 → (∀ y ∈ s.fronts, y.2.ctx ≠ x.ctx) → frontAt s x.ctx va true = .at_ p →
        t.mem = (writeThrough s (keyed p (bytesOfWord (nthW ws 3)))).mem ∧ closes) ∧
      (va ≠ 0 → va % 4 = 0 → (∃ y ∈ s.fronts, y.2.ctx = x.ctx) ∨ (∀ p, frontAt s x.ctx va true ≠ .at_ p) →
        t.mem = s.mem ∧ (t.queue q).open_ = x.open_ ∧ t.irqs = s.irqs)) ∧
    (∀ (bad : Option Nat) (ctx va len : Nat), va ≠ 0 →
      let n := len / 16 * 16
      let d := readDelta s bad ctx va len
      ((∃ b, bad = some b ∧ va ≤ b ∧ b < va + n) → d = .fatal) ∧
      ((∀ b, bad = some b → b < va ∨ va + n ≤ b) → (∀ bs, directRead s ctx va n = .got bs → d = .got (entriesOf (len / 16) bs)) ∧
        ∀ y c a b, directRead s ctx va n = .stop y (.fail c a b) → d = .fatal) ∧
      (∀ bs, (∀ b, bad = some b → b < va + 8 ∨ va + 12 ≤ b) → directRead s ctx (va + 8) 4 = .got bs →
        readCap s bad ctx va = (.got [], leNat bs)) ∧
      ((∃ b, bad = some b ∧ va + 8 ≤ b ∧ b < va + 12) → (readCap s bad ctx va).2 = 0)) ∧
    (∀ graph ctx va bs irq, bs ≠ [] → va < 2 ^ 56 → va % 4096 + bs.length ≤ 4096 → (∀ p ∈ s.fronts, p.2.ctx ≠ ctx) →
      let t := frontWrite s graph ctx [(va, bs)] irq
      (∀ k, frontAt s ctx va true = .at_ k → t.mem = (writeThrough s (keyed k bs)).mem ∧ t.irqs = s.irqs ++ irq.toList ∧
        t.fronts = s.fronts) ∧
      ((∀ k, frontAt s ctx va true ≠ .at_ k) → t.mem = s.mem ∧ t.irqs = s.irqs ∧
        ∃ n, t.fronts = kset s.fronts n ⟨graph, ctx, [(va, bs)], irq, none⟩ ∧ accPending t (.front n) = true)) ∧
    (q < 64 → s.recovery = false → ∀ v, exec (.queueDoorbell q v) s = .next (s.modQueue q (fun y => { y with write := v % 2 ^ 32 })) ∧
      exec (.queueReset q) s = .next (s.modQueue q (fun y => { y with state := 1 })) ∧
      exec (.queueSkip q) s = .next (s.modQueue q (fun y => { y with state := 1, read := (x.read + 1) % 2 ^ 32 })))

/-- R24, R55, R319, R321, R322, R324, R325: a verified graph that is placed as its levels ask, the pooled pages of its context at
their ports (R253), becomes resident and one that fails leaves the number of a rule it breaks; a graph goes on to its next item
when its item has ended, while a core leads (R356), a condition item to its target where its word is not 0, and completes after
its last; a live delta applies where its regions have drained, and its configuration tokens follow as their channels have room; a
pending launch is taken from the store, one that is refused counted by its cause (R363); a host ring interrupts at its count or
its time; PEND clears. The model's choices: the refusal's number and what an image holds (log 55), a live delta's tokens and end
(41), the pending launch's vector (42), the turn of the cycle (56). -/
def Obligations.GraphCourseResults : Prop :=
  ∀ (s : State),
    (∀ ctx idx p, idx < 256 → s.recovery = false → ((s.ctx ctx).made = true → p.root = (s.ctx ctx).root ∧ p.rd = (s.ctx ctx).rd) →
      (graphOk p.graph none = true → peersFormed s ctx p.graph = true → placedOk (loaded s ctx p) ctx p.graph = true →
        portsKept { loaded s ctx p with resident := kset (loaded s ctx p).resident (ctx, idx) p } ctx = true →
        ∃ t, exec (.makeResident ctx idx p) s = .next t ∧
        t.resident.find? (fun y => y.1 == (ctx, idx)) = some ((ctx, idx), p) ∧ (t.ctx ctx).made = true ∧ (t.ctx ctx).root = p.root ∧
        (t.ctx ctx).rd = p.rd) ∧
      (graphOk p.graph none = false ∨ peersFormed s ctx p.graph = false → ∃ n,
        exec (.makeResident ctx idx p) s = .next { s with refusals := s.refusals ++ [(ctx, idx, n)] } ∧
        ((n, false) ∈ graphChecks p.graph none ∨ n = 24))) ∧
    (¬ Leads s → ∀ gi, ¬ ∃ t, exec (.graphItemEnd gi) s = .next t) ∧
    (∀ gi, Leads s → khas s.graphs gi = true → (s.graph gi).done = false → (s.graph gi).fault = none → (∀ a ∈ s.accs, a.req ≠ .node gi) →
      let x := s.graph gi
      let item := x.graph.items[x.item]?
      let next : Nat := match item with
        | some (.cond w k) => if kget 0 x.conds w ≠ 0 then k else x.item + 1
        | _ => x.item + 1
      (itemEnded s gi = true → next < x.graph.items.length → ∃ t, exec (.graphItemEnd gi) s = .next t ∧
        (t.graph gi).item = next ∧ (t.graph gi).done = false ∧
        (∀ k, x.stage = some k → khas t.insts k = false ∨ (t.graph gi).stage = some k) ∧
        (∀ img, x.graph.items[next]? = some (.stage img) → ∃ k, (t.graph gi).stage = some k ∧ (t.inst k).img = img ∧
          (t.inst k).status = .ready)) ∧
      (itemEnded s gi = true → x.graph.items.length ≤ next → ∃ t, exec (.graphItemEnd gi) s = .next t ∧ (t.graph gi).done = true ∧
        (∀ q k, x.origin = .queue q k → x.live = [] →
          (x.comp = 0 → (t.queue q).open_ = (s.queue q).open_.filter (· != k)) ∧
          ((t.queue q).open_ = (s.queue q).open_.filter (· != k) ∨
            ((t.queue q).open_ = (s.queue q).open_ ∧ ∃ y ∈ t.fronts, y.2.pkt = some (q, k))))) ∧
      (itemEnded s gi = false → (∀ n o b, item ≠ some (.collective n o b)) → ¬ ∃ t, exec (.graphItemEnd gi) s = .next t)) ∧
    (∀ gi pre d ds, (s.graph gi).live = pre ++ d :: ds → (∀ y ∈ pre, y.applied = true) → d.applied = false →
      (∀ y ∈ ds, y.applied = false ∧ y.toks = []) → Leads s → (s.graph gi).fault = none →
      let x := s.graph gi
      let applied (t : State) : Prop := (t.graph gi).graph = applyDelta d.entries x.graph ∧
        ∃ on, (t.graph gi).live = on ++ ds ∧ ∀ y ∈ on, y.applied = true ∧ y.toks ≠ []
      (x.stage = none → ∃ t, exec (.liveDeltaApply gi) s = .next t ∧ applied t) ∧
      ∀ k, x.stage = some k →
        ((s.inst k).status ≠ .running ∨ touched x d.entries = [] → ∃ t, exec (.liveDeltaApply gi) s = .next t ∧ applied t) ∧
        ((s.inst k).status = .running → touched x d.entries ≠ [] → liveReady s x k d = false →
          (∀ y ∈ x.live, ∀ p ∈ y.toks, destRoom s k p.1 p.2.1 p.2.2 = false) → ¬ ∃ t, exec (.liveDeltaApply gi) s = .next t) ∧
        ((s.inst k).status = .running → touched x d.entries ≠ [] → liveReady s x k d = true →
          ∃ t, exec (.liveDeltaApply gi) s = .next t ∧ applied t ∧
            ((s.inst k).img.clocked = false → (s.inst k).marked = false → ∀ r, r ∈ (t.inst k).held ↔ ∃ y ∈ ds, r ∈ touched x y.entries) ∧
            ∀ h v, (h, v) ∈ d.entries → Delta.item h = 0 → Delta.stage h = x.item →
              (∀ h' v', (h', v') ∈ d.entries → Delta.item h' = 0 → Delta.stage h' = x.item → Delta.reg h' = Delta.reg h →
                Delta.el h' = Delta.el h → Delta.index h' = Delta.index h → v' = v) →
              (t.elem ⟨k, Delta.reg h, Delta.el h⟩).slotWord (Delta.index h) = v)) ∧
    (∀ gi k, (s.graph gi).stage = some k → (∀ y ∈ (s.graph gi).live, y.applied = true) → Leads s → (s.graph gi).fault = none →
      (∃ y ∈ (s.graph gi).live, ∃ p ∈ y.toks, destRoom s k p.1 p.2.1 p.2.2 = true) →
      ∃ t, exec (.liveDeltaApply gi) s = .next t ∧ (t.graph gi).graph = (s.graph gi).graph) ∧
    (∀ p ps c, Leads s → serves s = some none → c < 4 → p.cls = c → (∀ y ∈ s.pendLaunch, c ≤ y.cls) → s.pendLaunch = p :: ps →
      (∀ a ∈ s.accs, a.req ≠ .queue (pendQueue p.num)) → (∀ y ∈ ps, y.num ≠ p.num) →
      let bad := (s.queue (pendQueue p.num)).failed
      let refused (cause : Nat) : Prop := exec .pendingLaunchTake s = .next (writeCompletion
        (countFault { s with queues := kdel s.queues (pendQueue p.num), pendLaunch := ps } cause) p.ctx (Pkt.addr p.words 7) cause 0 none)
      let r := s.resident.find? (fun y => y.1 == (p.ctx, Pkt.graph p.words))
      (r = none → refused 0x1C2) ∧
      (∀ y, r = some y → readDelta s bad p.ctx (Pkt.addr p.words 2) (nthW p.words 4).toNat = .fatal → refused 0x1C5) ∧
      (∀ y es cd cap, r = some y → readDelta s bad p.ctx (Pkt.addr p.words 2) (nthW p.words 4).toNat = .got es →
        firstBadEntry y.2.graph 0 es = none → Pkt.isLive p.words = false →
        readCap s bad p.ctx (Pkt.addr p.words 5) = (cd, cap) → (∀ va st, cd ≠ .notYet va st) →
        let g := applyDelta es y.2.graph
        graphOk g (some (deltaArgs es)) = true → (∀ n o b, g.items[0]? ≠ some (.collective n o b)) →
        ∃ t, exec .pendingLaunchTake s = .next t ∧ t.pendLaunch = ps ∧ (t.graph s.fresh).origin = .glaunch p.q p.index p.num ∧
          (t.graph s.fresh).graph = g ∧ (t.graph s.fresh).ctx = p.ctx ∧ (t.graph s.fresh).cls = p.cls ∧
          (t.graph s.fresh).args = deltaArgs es ∧ (t.graph s.fresh).xcap = cap ∧ (t.graph s.fresh).done = false)) ∧
    (∀ n, n < 16 →
      let x := s.ring n
      let rung (i : Instr) : Prop := ∃ t, exec i s = .next t ∧ (t.ring n).u = 0 ∧ (t.ring n).timer = none ∧ t.irqs = s.irqs ++ [x.vec]
      (0 < x.u → bits x.coal 31 16 ≤ x.u → rung (.ringCountInterrupt n)) ∧
      (x.u < bits x.coal 31 16 → ¬ ∃ t, exec (.ringCountInterrupt n) s = .next t) ∧
      (∀ t0, x.timer = some t0 → t0 + bits x.coal 13 0 * 100 ≤ s.now → rung (.ringTimerExpiry n)) ∧
      (∀ t0, x.timer = some t0 → s.now < t0 + bits x.coal 13 0 * 100 → ¬ ∃ t, exec (.ringTimerExpiry n) s = .next t) ∧
      (s.recovery = false → ∃ t, exec (.mailboxClear n) s = .next t ∧ (t.mailbox n).pend = false ∧ (t.mailbox n).value = (s.mailbox n).value))

/-- R132, R293, R294, R298, R301 to R304, R351: an emission or cession is seen by each element of another region in turn; a
quiescent stage all of whose elements have reacted ends its instant: the delay registers latch, the elements react anew, the
counter advances and the epoch with it, and the acts that stand are the halted elements' cessions; with every element halted the
stage ends. Quiescence with an element still reacting faults with 0x141 or 0x142 and its report. A stage that is not clocked ends
once its elements are halted and their work is complete; its stopped contractions are ended first, and one whose header is held is
waited for (R132, R134). While a core leads, a delta that waits for the safe point, and a mark, come before an instant's end. The
issuer of a quiescence fault is the model's choice (log 40). R134, R343 to R349: once what was accepted has completed, the
products whose C writes had begun are written and its contractions' headers are cleared, a faulted graph ends: its stage's
elements are gone, its error record stands in its queue's next of four places with the cause, the issuer and its values, ERRCNT
counts it, its launch completes. A copy that cannot go on is passed for one behind it (log 51, the model's choice). The lifetime
record counts every fault by its cause as it is raised (R363). -/
def Obligations.InstantResults : Prop :=
  (∀ (s : State) (inst : Nat), Up s inst →
     let i := s.inst inst
     let blocked := blockedElems s inst
     let deltas := (s.graph i.graph).live.filter (fun d => !d.applied)
     let cleared := consEnding (abandonCons s inst) inst = false ∧ ((abandonCons s inst).graph i.graph).fault = none
     (∀ reg el sig pre a post, (i.img.elemImage reg el).isSome = true → i.acts = pre ++ a :: post →
       (∀ b ∈ pre, ¬ (b.sig = sig ∧ b.reg ≠ reg ∧ (reg, el) ∉ b.seen)) → a.sig = sig → a.reg ≠ reg → (reg, el) ∉ a.seen →
       ∃ t, exec (.signalVisible inst (reg, el) sig) s = .next t ∧
         (t.inst inst).acts = pre ++ { a with seen := (reg, el) :: a.seen } :: post) ∧
     (∀ reg el sig, (∀ a ∈ i.acts, ¬ (a.sig = sig ∧ a.reg ≠ reg ∧ (reg, el) ∉ a.seen)) →
       ¬ ∃ t, exec (.signalVisible inst (reg, el) sig) s = .next t) ∧
     (i.img.clocked = true → quiescent s inst = true → (∀ p ∈ s.elems, p.1.inst = inst → p.2.ended = true ∨ p.2.halted = true) →
       (allHalted s inst = true → deltas = [] → (cleared → ∃ t, exec (.instantEnd inst) s = .next t ∧ Ended t inst) ∧
         (¬ cleared → exec (.instantEnd inst) s = .next (abandonCons s inst))) ∧
       (allHalted s inst = false → (Leads s → deltas = [] ∧ i.marked = false) →
         ∃ t, exec (.instantEnd inst) s = .next t ∧ (t.inst inst).icnt = i.icnt + 1 ∧ (t.inst inst).status = .running ∧
           (∀ e : ERef, e.inst = inst → (t.elem e).dlLat = (s.elem e).dlPend ∧ (t.elem e).ended = false ∧ (t.elem e).d = (s.elem e).d) ∧
           (∀ e : ERef, e.inst ≠ inst → t.elem e = s.elem e) ∧
           (∀ a ∈ (t.inst inst).acts, a.emit = none ∧ ∃ p ∈ s.elems, p.1 = ⟨inst, a.reg, a.el⟩ ∧ p.2.halted = true) ∧
           (t.ctx i.ctx).epoch = ((s.ctx i.ctx).epoch + 1) % 2 ^ 24 ∧
           (∀ x ∈ s.ctxRegions i.ctx, kget 1 t.num x = 1)) ∧
       (Leads s → deltas ≠ [] ∨ (allHalted s inst = false ∧ i.marked = true) → ¬ ∃ t, exec (.instantEnd inst) s = .next t)) ∧
     (i.img.clocked = true → quiescent s inst = true → ∀ e es, blocked = e :: es →
       let sigs := sortBy (· < ·) (blocked.flatMap (waitedOn s)).eraseDups
       (¬ ∃ t, exec (.instantEnd inst) s = .next t) ∧
       ∃ t r, exec (.quiescenceFault inst) s = .next t ∧ (t.graph i.graph).fault = some r ∧
         r.cause = (if sigs = [] then 0x142 else 0x141) ∧ r.prec = false ∧ r.coord = coordOf e.reg e.el ∧
         r.qrep.length = 32 ∧ nthW r.qrep 0 = BitVec.ofNat 32 (min blocked.length 0xFFFF * 2 ^ 16 + min sigs.length 0xFFFF) ∧
         nthW r.qrep 1 = i.icnt ∧ ∀ k, k < 16 → nthW r.qrep (2 + k) = match blocked[k]? with
           | some e => coordOf e.reg e.el
           | none => 0xFFFFFFFF) ∧
     (i.img.clocked = false →
       let finished := allHalted s inst = true ∧ pumpsDone s inst = true ∧ bindingsDone s inst = true ∧
         workOpen s (fun e => e.inst == inst) = false
       (finished → cleared → ∃ t, exec (.stageEnd inst) s = .next t ∧ Ended t inst) ∧
       (finished → ¬ cleared → exec (.stageEnd inst) s = .next (abandonCons s inst)) ∧
       (¬ finished → ¬ ∃ t, exec (.stageEnd inst) s = .next t))) ∧
  (∀ (s : State) (gi : Nat) (f : FaultRec), (s.graph gi).fault = some f → (s.graph gi).done = false →
     let x := s.graph gi
     (acceptedOpen s gi = true → ¬ ∃ t, exec (.fatalFaultGraphEnd gi) s = .next t) ∧
     (∀ die ch, acceptedOpen s gi = false → blockedChannel s gi = some (die, ch) →
       exec (.fatalFaultGraphEnd gi) s = .next (passHead s die ch)) ∧
     (∀ h, (raiseFault s gi h).lifePend.fault = kset s.lifePend.fault h.cause (min 0xFFFFFFFF (kget 0 s.lifePend.fault h.cause + 1))) ∧
     let kept := match x.stage with
       | some k => abandonCons s k
       | none => s
     let ending := ∃ k, x.stage = some k ∧ consEnding kept k = true
     (acceptedOpen s gi = false → blockedChannel s gi = none → ending →
       (kept.regions ≠ s.regions → exec (.fatalFaultGraphEnd gi) s = .next kept) ∧
       (kept.regions = s.regions → ¬ ∃ t, exec (.fatalFaultGraphEnd gi) s = .next t)) ∧
     (∀ f, (kept.graph gi).fault = some f → acceptedOpen s gi = false → blockedChannel s gi = none → ¬ ending →
       ∃ t, exec (.fatalFaultGraphEnd gi) s = .next t ∧ (t.graph gi).done = true ∧
       (∀ k, x.stage = some k → khas t.insts k = false ∧ ∀ e : ERef, e.inst = k → t.elem e = {}) ∧
       (∀ q n, x.origin = .queue q n →
         let cnt := kget 0 s.errCnt q
         kget 0 t.errCnt q = cnt + 1 ∧ (n ∉ (t.queue q).open_ ∨ ∃ y ∈ t.fronts, y.2.pkt = some (q, n)) ∧
         let r := kget [] t.errRecs (q * 4 + cnt.toNat % 4)
         r.length = 64 ∧ r.take 13 = ([f.engine * 2 ^ 28 + (if f.prec then 2 ^ 27 else 0) + f.cause, n, f.coord.toNat,
           f.reg * 2 ^ 24 + f.slot, f.handle.toNat, f.addr, f.addr / 2 ^ 32 % 2 ^ 24, f.info.toNat, f.info2.toNat, f.icnt.toNat,
            (kept.graph gi).nflt,
           f.cycle, f.cycle / 2 ^ 32].map (BitVec.ofNat 32)))))

/-- R31, R172, R328 to R337, R368: the scheduler starts its first candidate where it fits; a picked stage runs with its elements
at their image values, its tiles allocated, its regions at 900 MHz; at a quantum's end a stage for which another waits is marked;
a marked stage is saved at its safe point, keeping what its live map names, and resumes with what was kept; one that no longer
fits where it was picked for waits for the next decision. A control window of a microsecond or more moves a clock by 25 MHz within
450 to 1,100. That such a stage waits is the model's choice (log 43). Firmware moves the thermal limit only while it runs (R358). -/
def Obligations.SchedulingResults : Prop :=
  ∀ (s : State) (inst : Nat),
    let i := s.inst inst
    let g := i.img
    let places (e : ElemImage) : ERef := ⟨inst, e.reg, e.el⟩
    let given (hs : List Word) (vs : List InitVal) (k : Nat) : Word := (vs.map (initVal (s.graph i.graph).args hs)).getD k 0
    let value (hs : List Word) (e : ElemImage) (k : Nat) : Word := given hs e.d k
    let kept (e : ElemImage) : Option LiveMap := if g.clocked then e.liveInstant else e.liveMarker
    (∀ c cs k, Leads s → s.sched.due = true → candidates s = c :: cs → c ∉ cs → startSpot s (withPicks s) c = some k →
      ∃ t, exec .schedulerDecision s = .next t ∧ (t.inst c).pick = some k ∧ t.sched.due = false) ∧
    (Leads s → s.sched.due = true → candidates s = [] → exec .schedulerDecision s = .next { s with sched := { s.sched with due := false } }) ∧
    (¬ Leads s ∨ s.sched.due = false → ¬ ∃ t, exec .schedulerDecision s = .next t) ∧
    (∀ ptes k hs s2, i.status = .ready → i.pick = some k → Leads s →
      let s1 := occupy (remap s inst ptes) inst k
      stillFits s inst k = true → mappedFor s1 inst = true → allocDecls inst g.tiles s1 = .ok (hs, s2) →
      (g.elems.map places).Nodup →
      ∃ t, exec (.stagePlacement inst ptes) s = .next t ∧ (t.inst inst).status = .running ∧ (t.inst inst).pick = none ∧
        (t.inst inst).handles = hs ∧ (t.inst inst).icnt = 0 ∧ (t.inst inst).dies = k.1 ∧
        (∀ r ∈ g.regions, t.clock (t.physReg inst r.reg) = 900) ∧
        ∀ e ∈ g.elems, let x := t.elem (places e)
          (∀ n, x.slotWord n = e.slots.getD n 0) ∧ (∀ n, x.dreg n = value hs e n) ∧ (∀ n, x.dflag n = false) ∧ x.p = e.p ∧
          x.rs = e.rs.toNat ∧ (∀ n, kget 0 x.dlLat n = given hs e.dl n ∧ kget 0 x.q n = given hs e.q n) ∧ x.dp = .idle ∧
          x.halted = false ∧ ∀ c, x.chan c = []) ∧
    (∀ ptes k, i.pick = some k → Leads s → stillFits s inst k = false →
      (i.status = .ready → exec (.stagePlacement inst ptes) s = .next (unpick s inst)) ∧
      (i.status = .saved → exec (.stageResume inst ptes) s = .next (unpick s inst))) ∧
    (let q := kget 2000 s.sched.quant i.cls
     (Leads s → i.status = .running → q ≠ 0 → i.qstart + q * 1000 ≤ s.now → ∃ t, exec (.quantumExpiry inst) s = .next t ∧
       (t.inst inst).qstart = s.now ∧
       (t.inst inst).marked = (i.marked || someoneWaits s i.cls)) ∧
     (q = 0 ∨ s.now < i.qstart + q * 1000 → ¬ ∃ t, exec (.quantumExpiry inst) s = .next t)) ∧
    (i.status = .ready ∨ i.status = .saved → i.pick = none → i.aged = false →
      (i.readyAt + s.sched.age * 1000 ≤ s.now → ∃ t, exec (.stageAged inst) s = .next t ∧ (t.inst inst).aged = true ∧ t.sched.due = true) ∧
      (s.now < i.readyAt + s.sched.age * 1000 → ¬ ∃ t, exec (.stageAged inst) s = .next t)) ∧
    (Leads s → i.marked = true → Up s inst → allHalted s inst = false → deltaDue s inst = false →
      (if g.clocked then instantDue s inst else drained s inst (fun _ => true) && i.flight.all (fun p => p.2 == [])) = true →
      ∃ t, exec (.preemptionSave inst) s = .next t ∧ (t.inst inst).status = .saved ∧ (t.inst inst).marked = false ∧ t.sched.due = true ∧
        ∀ e ∈ g.elems, g.elemImage e.reg e.el = some e → khas s.elems (places e) = true → ∀ n, n < 8 →
          (t.elem (places e)).dreg n = match kept e with
            | none => (s.elem (places e)).dreg n
            | some m => if n ∈ m.d then (s.elem (places e)).dreg n else value i.handles e n) ∧
    (¬ Leads s ∨ i.marked = false → ¬ ∃ t, exec (.preemptionSave inst) s = .next t) ∧
    (∀ ptes k, i.status = .saved → i.pick = some k → Leads s → stillFits s inst k = true →
      mappedFor (occupy (remap s inst ptes) inst k) inst = true → (g.elems.map places).Nodup →
      ∃ t, exec (.stageResume inst ptes) s = .next t ∧ (t.inst inst).status = .running ∧ (t.inst inst).pick = none ∧
        (t.inst inst).icnt = i.icnt ∧
        ∀ e ∈ g.elems, (∀ n, (t.elem (places e)).slotWord n = e.slots.getD n 0) ∧ (t.elem (places e)).inp = (s.elem (places e)).inp ∧
          ∀ n, n < 8 → (∀ m, kept e = some m → n ∉ m.d) →
            (t.elem (places e)).dreg n = (if (kept e).isSome then value i.handles e n else (s.elem (places e)).dreg n)) ∧
    (∀ ptes k, i.status = .saved → i.pick = some k → Leads s → stillFits s inst k = true →
      mappedFor (occupy (remap s inst ptes) inst k) inst = true → (g.elems.map places).Nodup →
      ∀ t, exec (.stageResume inst ptes) s = .next t → ∀ e ∈ g.elems, ∀ m, kept e = some m → ∀ n, n < 8 →
        (n ∈ m.d → (t.elem (places e)).dreg n = (s.elem (places e)).dreg n) ∧
        bit (t.elem (places e)).p n = (if n ∈ m.p then bit (s.elem (places e)).p n else bit e.p n)) ∧
    (∀ reg w, s.now < (kget {} s.win reg).start + 1000 → ¬ ∃ t, exec (.clockWindow reg w) s = .next t) ∧
    (∀ reg w, reg < 192 → (kget {} s.win reg).start + 1000 ≤ s.now →
      let m := kget {} s.win reg
      let len := s.now - m.start
      let clamp (n : Nat) : Nat := min 1100 (max 450 n)
      let moved (cur : Nat) : Nat := if pcap s < w.power ∨ len ≤ 4 * m.out then clamp (cur - 25)
        else if len ≤ 4 * m.full ∧ puse s + w.raiseW * 1000000 ≤ pcap s * 1000000 then clamp (cur + 25) else cur
      ((∀ k, stageOn s reg = some k → (s.inst k).img.clocked = false) →
        ∃ t, exec (.clockWindow reg w) s = .next t ∧ t.clock reg = moved (s.clock reg) ∧ ∀ x, x ≠ reg → t.clock x = s.clock x) ∧
      ∀ k, stageOn s reg = some k → (s.inst k).img.clocked = true → ∃ t, exec (.clockWindow reg w) s = .next t ∧
        kget 0 (t.inst k).newClk reg = moved (kget (s.clock reg) (s.inst k).newClk reg) ∧ t.clk = s.clk) ∧
    (∀ w, s.fw.bootst = 3 → exec (.thermalLimitChange w) s = .next { s with sched := { s.sched with thermal := w, due := true } }) ∧
    ∀ w, s.fw.bootst ≠ 3 → ¬ ∃ t, exec (.thermalLimitChange w) s = .next t

/-- R355 to R363: boot goes on a stage at a time, checks its images and keeps the reason of the first that fails (log 64); a core
leads from a claim that comes after the lease has lapsed and its own wait, and not while the lease is held; the new leader loads
the mirror, and a graph of an item whose copies disagree faults with 0x1E2; margins of more than ten steps, and a bank's hard
fault, fence a region (0x1E0); a link that fails three times is down; counts that are pending join the lifetime record, and are
lost with the supply. The model's choices: the order of an image's checks and its SLH-DSA signature 384 bytes behind the RSA one
(log 46), LRCMD's two steps and pooled counts (log 47), a bank's region and other links (48), engine 11 (49), register widths
(50), noRegister and the recovery (53), GCTL while BUSY (60). R190, R269, R311, R323, R329, R347, R357, R358: a host's write of a
register stores the value's bits; a read-only register takes none, and the part in recovery none at all; an offset where the spec
names no register stops the machine by name. What the host reads of the queues, the power cap, the fences, the leader, the boot's
state, the error counts and the part's address is what stands there. -/
def Obligations.FirmwareResults : Prop :=
  (∀ (s : State),
     let held := s.fw.leader.isSome = true ∧ s.now < s.fw.renewed + 5000000
     let lapsedAt := if s.fw.leader = none then s.fw.lapsedAt else s.fw.renewed + 5000000
     let cleared (t : State) (l : Life) : Prop := t = { State.reset with
       life := l, fw := { State.reset.fw with svn := s.fw.svn, keyHash := s.fw.keyHash, lapsedAt := s.now }
       mem := s.mem.filter (fun p => outside p.1), agenda := s.agenda, now := s.now, oracle := s.oracle, fresh := s.fresh }
     (∀ b, s.fw.on = false → b.margins.length = 192 →
       ∃ t, exec (.powerOn b) s = .next t ∧ t.fw.on = true ∧ t.fw.bootst = 0 ∧ t.fw.boot = some b ∧ t.fw.svn = s.fw.svn ∧
         t.naddr = b.naddr % 2 ^ 32) ∧
     (∀ (first : Bool) (x : BootImage),
       let h := x.header
       let rsa := nthW h 15 |>.toNat
       let reason := imageReason s.fw.svn s.fw.keyHash first x
       let form := h.length = 16 ∧ nthW h 0 = 0x5CEF0B07 ∧ (bits (nthW h 1) 15 0 = 0 ↔ first = true) ∧ (nthW h 2).toNat = x.bytes ∧
         x.bytes % 64 = 0 ∧ (h.drop 3).take 12 = x.digest
       (¬ form → reason = some 1) ∧ (form → rsa ∉ x.rsaAt → reason = some 2) ∧
       (form → rsa ∈ x.rsaAt → rsa + 384 ∉ x.slhAt → reason = some 3) ∧
       (form → rsa ∈ x.rsaAt → rsa + 384 ∈ x.slhAt → x.keyHash ≠ s.fw.keyHash → reason = some 5) ∧
       (form → rsa ∈ x.rsaAt → rsa + 384 ∈ x.slhAt → x.keyHash = s.fw.keyHash →
         reason = if bits (nthW h 1) 31 16 < s.fw.svn then some 4 else none)) ∧
     (∀ b, s.fw.on = true → s.fw.boot = some b →
       let goes (stage : Nat) (fails : Option Nat) : Prop := ∃ t, exec (.powerOn b) s = .next t ∧ t.fw.svn = s.fw.svn ∧
         (fails = none → t.fw.bootst = stage ∧ t.fw.boot = some b) ∧
         ∀ r, fails = some r → t.fw.bootst = 15 ∧ t.fw.reason = r ∧ t.fw.boot = none
       (s.fw.bootst = 0 → ∀ x xs, b.images = x :: xs → goes 1 (imageReason s.fw.svn s.fw.keyHash true x)) ∧
       (s.fw.bootst = 1 → goes 2 ((b.images.drop 1).findSome? (imageReason s.fw.svn s.fw.keyHash false))) ∧
       (s.fw.bootst = 2 → b.margins.length = 192 → ∃ t, exec (.powerOn b) s = .next t ∧ t.fw.bootst = 3 ∧ t.fw.reason = 0 ∧
         t.fw.boot = none ∧ t.fw.svn = max s.fw.svn (b.askSvn.getD 0 % 2 ^ 16) ∧ t.fw.leader = none ∧
         t.fw.measures = measureBlocks b.images t.fw.svn s.fw.keyHash ∧
         ∀ r k, b.margins[r]? = some k → (10 < k → r ∈ t.fenced) ∧ (k ≤ 10 → kget 0 t.fw.margins r = 5 * k))) ∧
     (s.fw.on = true → ∀ b, s.fw.boot ≠ some b → ¬ ∃ t, exec (.powerOn b) s = .next t) ∧
     (∃ t, exec .powerLoss s = .next t ∧ cleared t s.life) ∧
     (s.fw.on = true → s.fw.renewed + 1000000 ≤ s.now → ∃ t, exec .orderlyReset s = .next t ∧ cleared t (addLife s.life s.lifePend)) ∧
     (s.now < s.fw.renewed + 1000000 → ¬ ∃ t, exec .orderlyReset s = .next t) ∧
     (held → ∃ t, exec .leaseRenew s = .next t ∧ t.fw.renewed = s.now ∧ t.fw.leader = s.fw.leader) ∧
     (¬ held → ¬ ∃ t, exec .leaseRenew s = .next t) ∧
     (∀ core, coreRuns s core = false → ¬ ∃ t, exec (.leaseClaim core) s = .next t) ∧
     (∀ core, core < 10 → s.fw.bootst = 3 → s.fw.cores.testBit core = true →
       (held → ∃ t, exec (.leaseClaim core) s = .next t ∧ t.fw.leader = s.fw.leader ∧ t.fw.term = s.fw.term) ∧
       (¬ held → s.now < lapsedAt + 500000 * core → ¬ ∃ t, exec (.leaseClaim core) s = .next t) ∧
       (¬ held → lapsedAt + 500000 * core ≤ s.now → ∃ t, exec (.leaseClaim core) s = .next t ∧ t.fw.leader = some core ∧
         t.fw.term = (s.fw.term + 1) % 2 ^ 24 ∧ t.fw.renewed = s.now ∧ t.fw.ready = false)) ∧
     (held → s.fw.ready = false →
       ∃ t, exec (.mirrorLoad (s.fw.leader.getD 0)) s = .next t ∧ t.fw.ready = true ∧ t.sched.due = true ∧
         ((∀ p ∈ s.mirror, p.2.1 = p.2.2 ∧ p.2.1 ≠ none) → t.graphs = s.graphs ∧ t.pendLaunch = s.pendLaunch) ∧
         (∀ p ∈ s.mirror, p.2.1 ≠ p.2.2 → ∀ g, g ∈ itemGraphs s p.1 → khas s.graphs g = true → (s.graph g).done = false →
           (s.graph g).fault = none → Faulted t g 0x1E2 11) ∧
         (∀ g, g ∈ itemGraphs s (.graph g)) ∧
         (∀ q g, g ∈ itemGraphs s (.queue q) ↔ ∃ p ∈ s.graphs, p.1 = g ∧ originQueue p.2.origin = q) ∧
         (∀ c i g, g ∈ itemGraphs s (.resident c i) ↔ ∃ p ∈ s.graphs, p.1 = g ∧ p.2.ctx = c ∧ p.2.res = i) ∧
         (∀ k, itemGraphs s (.stage k) = [(s.inst k).graph]) ∧
         (∀ k g, g ∈ itemGraphs s (.group k) ↔ (∃ c ∈ (s.group k).calls, c.graph = g) ∨
           ∃ r, (s.group k).round = some r ∧ (s.inst r.el.inst).graph = g) ∧
         ∀ y ∈ s.pendLaunch, y ∈ t.pendLaunch ↔ ∀ p ∈ s.mirror, p.1 = .launch y.num → p.2.1 = p.2.2 ∧ p.2.1 ≠ none) ∧
     (∀ blocks, s.fw.bootst = 3 → ∃ t r, exec (.spdmRequest blocks) s = .next t ∧
       t.fw.reports = s.fw.reports ++ [(Config.spdmSign s.fw.devKey r, r)] ∧
       ∀ k v, (k, v) ∈ r ↔ k ∈ blocks ∧ khas s.fw.measures k = true ∧ v = kget 0 s.fw.measures k) ∧
     (∀ (v : State) inst (p : Spot) r, spotOk s v inst p = true → r ∈ (s.inst inst).img.regions →
       ∃ y, spotReg p r.reg = some y ∧ measuring s y = false ∧
         (khas s.fw.measuredAt y = true → s.now < kget 0 s.fw.measuredAt y + 30 * 24 * 3600 * 1000000000)) ∧
     (∀ reg steps, reg < 192 → s.fw.bootst = 3 → stageOn s reg = none →
       khas s.fw.measuredAt reg = false ∨ kget 0 s.fw.measuredAt reg + 30 * 24 * 3600 * 1000000000 ≤ s.now →
       ∃ t, exec (.marginMeasurement reg steps) s = .next t ∧ kget 0 t.fw.measuredAt reg = s.now ∧
         (10 < steps → reg ∈ t.fenced) ∧ (steps ≤ 10 → kget 0 t.fw.margins reg = 5 * steps ∧ t.fenced = s.fenced)) ∧
     (∀ errs, s.fw.bootst ≠ 3 → ¬ ∃ t, exec (.eccScrub errs) s = .next t) ∧
     (∀ errs, s.fw.bootst = 3 → ∃ t, exec (.eccScrub errs) s = .next t ∧ t.fw.errors = s.fw.errors ++ errs.map (fun e => (s.now, e)) ∧
       ∀ e, errs = [e] → kget 0 s.lifePend.ecc e.place + e.corrected ≤ 0xFFFF →
         kget 0 t.lifePend.ecc e.place = kget 0 s.lifePend.ecc e.place + e.corrected) ∧
     (∀ reg bank e, s.fw.bootst = 3 → reg < 192 → reg ∉ s.fenced → e ∈ s.fw.errors → placeOn e.2.place reg bank = true → bankBad s e.2.place = true →
       ∃ t, exec (.hardFaultFence reg bank) s = .next t ∧ t.fenced = reg :: s.fenced ∧
         ∀ k, stageOn s reg = some k → (s.graph (s.inst k).graph).fault = none → Faulted t (s.inst k).graph 0x1E0 11) ∧
     (∀ link, link < 49 → link ∉ s.downLinks →
       (∃ t, exec (.linkRetrain link true) s = .next t ∧ t.downLinks = s.downLinks ∧ kget 0 t.fw.linkFails link = 0) ∧
       ∃ t, exec (.linkRetrain link false) s = .next t ∧ kget 0 t.fw.linkFails link = kget 0 s.fw.linkFails link + 1 ∧
         t.downLinks = if kget 0 s.fw.linkFails link < 2 then s.downLinks else link :: s.downLinks) ∧
     (∀ core u, core < 10 → s.fw.bootst = 3 → s.fw.cores.testBit core = true → ∃ t, exec (.lifetimeRecordUpdate core u) s = .next t ∧ t.lifePend = {} ∧
       t.life.boots = min 0xFFFFFFFF (s.life.boots + min 0xFFFFFFFF s.lifePend.boots) ∧
       t.life.hours = min 0xFFFFFFFF (s.life.hours + min 0xFFFFFFFF (s.lifePend.hours + u.hours)) ∧ kget 0 t.fw.beats core = s.now) ∧
     (s.fw.bootst ≠ 15 → s.fw.lrbusy = false →
       (s.fw.lrbase % 4096 = 0 → s.fw.lrbase < 2 ^ 56 →
         exec .lrcmdGo s = .next { s with fw := { s.fw with lrbusy := true, lrdone := false, lrfail := false } }) ∧
       (s.fw.lrbase % 4096 ≠ 0 ∨ 2 ^ 56 ≤ s.fw.lrbase →
         exec .lrcmdGo s = .next { s with fw := { s.fw with lrdone := false, lrfail := true } })) ∧
     (s.fw.lrbusy = true → Memory.wf s.mem → ∃ t, exec .lrcmdGo s = .next t ∧ t.fw.lrdone = true ∧ t.fw.lrbusy = false ∧
       let k0 := hostKey s.fw.lrbase
       (∀ k, (k < k0 ∨ k0 + 791552 ≤ k) → memGet t.mem k = memGet s.mem k) ∧
       ∀ j, j < 4 → memGet t.mem (k0 + j) = (leBytes 4 0x4C520001).getD j 0 ∧
         memGet t.mem (k0 + 4 + j) = (leBytes 4 s.life.hours).getD j 0) ∧
     (s.fw.bootst = 15 → s.fw.lrbusy = false → ¬ ∃ t, exec .lrcmdGo s = .next t)) ∧
  (∀ (s : State) (v : BitVec 64),
     let n (w : Nat) : Nat := v.toNat % 2 ^ w
     let sets (addr : Nat) (t : State) : Prop := s.fw.bootst ≠ 15 → exec (.registerWrite addr v) s = .next t
     let keeps (addr : Nat) : Prop := exec (.registerWrite addr v) s = .next s
     (∀ q, q < 64 →
       sets (0x10000 + 0x40 * q) (s.modQueue q (fun x => { x with base := n 56 })) ∧
       sets (0x10008 + 0x40 * q) (s.modQueue q (fun x => { x with size := BitVec.ofNat 32 (n 32) })) ∧
       keeps (0x10018 + 0x40 * q) ∧
       sets (0x10020 + 0x40 * q) (s.modQueue q (fun x => { x with err := n 56 })) ∧
       sets (0x10030 + 0x40 * q) (s.modQueue q (fun x => { x with ctx := n 16 })) ∧
       ¬ (∃ t, exec (.registerWrite (0x10010 + 0x40 * q) v) s = .next t) ∧
       exec (.registerWrite (0x10038 + 0x40 * q) v) s = .fault (.noRegister (0x10038 + 0x40 * q))) ∧
     (let x := s.xreg
      let put (off : Nat) (y : XReg) : Prop := sets (0x40000 + off) { s with xreg := y }
      put 0x00 { x with fbase := n 56 } ∧ put 0x08 { x with fsize := n 5 } ∧ put 0x18 { x with fcons := n 32 } ∧
      put 0x20 { x with nbase := n 56 } ∧ put 0x28 { x with nsize := n 5 } ∧ put 0x38 { x with ncons := n 32 } ∧
      put 0x40 { x with thr := n 17 } ∧ put 0x58 { x with inva := n 32 / 2 ^ 14 * 2 ^ 14 } ∧ put 0x60 { x with invb := n 24 } ∧
      put 0x70 { x with invx := n 16 } ∧ keeps 0x40010 ∧ keeps 0x40030 ∧ keeps 0x40048) ∧
     (∀ k, k < 16 →
       let put (off : Nat) (f : Ring → Ring) : Prop := sets (0x50000 + 0x40 * k + off) (s.modRing k f)
       put 0x00 (fun x => { x with base := n 56 }) ∧ put 0x08 (fun x => { x with size := n 5 }) ∧
       put 0x18 (fun x => { x with cons := BitVec.ofNat 32 (n 32) }) ∧ put 0x20 (fun x => { x with coal := BitVec.ofNat 32 (n 32) }) ∧
       put 0x28 (fun x => { x with vec := n 11 }) ∧ put 0x30 (fun x => { x with ctx := n 16 }) ∧ keeps (0x50010 + 0x40 * k)) ∧
     (let x := s.sched
      let put (off : Nat) (y : Sched) : Prop := sets (0x60000 + off) { s with sched := y }
      (∀ c, c < 4 → put (8 * c) { x with quant := kset x.quant c (n 20) }) ∧ put 0x20 { x with age := n 20 } ∧
      put 0x28 { x with pbudget := n 16, due := true } ∧ keeps 0x60030 ∧ keeps 0x60050) ∧
     (∀ k, k < 16 →
       let put (off : Nat) (f : Group → Group) : Prop := sets (0xA0000 + 0x400 * k + off) (s.modGroup k f)
       put 0x00 (fun x => { x with gctl := if x.gctl = none ∧ (v.getLsbD 31 = true ∨ v.getLsbD 30 = true) then some (v.setWidth 32) else x.gctl }) ∧
       put 0x08 (fun x => { x with tmo := n 17 }) ∧ put 0x10 (fun x => { x with gctx := n 16 }) ∧ keeps (0xA0018 + 0x400 * k) ∧
       ∀ r, r < 64 → put (0x100 + 8 * r) (fun x => { x with map := kset x.map r (n 32) })) ∧
     sets 0x90020 { s with fw := { s.fw with lrbase := s.fw.lrbase / 2 ^ 32 * 2 ^ 32 + n 32 } } ∧
     sets 0x90028 { s with fw := { s.fw with lrbase := n 32 * 2 ^ 32 + s.fw.lrbase % 2 ^ 32 } } ∧
     (bit v 31 = false ∨ s.fw.lrbusy = true → sets 0x90030 s) ∧
     (bit v 31 = true → s.fw.lrbusy = false → s.fw.lrbase % 4096 = 0 → s.fw.lrbase < 2 ^ 56 →
       sets 0x90030 { s with fw := { s.fw with lrbusy := true, lrdone := false, lrfail := false } }) ∧
     (bit v 31 = true → s.fw.lrbusy = false → (s.fw.lrbase % 4096 ≠ 0 ∨ 2 ^ 56 ≤ s.fw.lrbase) →
       sets 0x90030 { s with fw := { s.fw with lrdone := false, lrfail := true } }) ∧
     keeps 0x70000 ∧ keeps 0x801F8 ∧ keeps 0x90000 ∧ keeps 0xA4000 ∧
     (s.fw.bootst = 15 → ∀ addr t, exec (.registerWrite addr v) s = .next t → t = s) ∧
     exec (.registerWrite 0x0FFF8 v) s = .fault (.noRegister 0x0FFF8) ∧
     (let lead := s.fw.leader.isSome = true ∧ s.now < s.fw.renewed + 5000000
      (∀ c, lead → s.fw.leader = some c → c < 10 → s.fw.term < 2 ^ 24 → readReg s 0x90000 = some (s.fw.term * 2 ^ 8 + c)) ∧
      (¬ lead → readReg s 0x90000 = some 0xFFFFFFFF)) ∧
     readReg s 0x90010 = some (s.fw.bootst + s.fw.reason * 2 ^ 8) ∧ readReg s 0x60030 = some (min s.sched.pbudget s.sched.thermal) ∧
     (∀ i k, i < 3 → k < 64 → ∃ w, readReg s (0x60040 + 8 * i) = some w ∧ (w.testBit k = true ↔ 64 * i + k ∈ s.fenced)) ∧
     (∀ q, q < 64 → readReg s (0x10010 + 0x40 * q) = some (s.queue q).write ∧ readReg s (0x10018 + 0x40 * q) = some (s.queue q).read ∧
       readReg s (0x10028 + 0x40 * q) = some (s.queue q).state ∧ readReg s (0x80000 + 8 * q) = some (kget 0 s.errCnt q).toNat) ∧
     readReg s 0xA4000 = some s.naddr ∧ readReg s 0x0FFF8 = none)
end

