-- ==== Sys2Proof/Laws/Base.lean ====
section
/-! SUPPORT. Laws of the finite maps and bit fields the machine is held in. -/

namespace Sys2Proof.Machine

section
variable {κ α : Type} [DecidableEq κ]

@[simp] theorem kget_nil (d : α) (i : κ) : kget d ([] : AMap κ α) i = d := rfl

/-- Reading a map after a key is set. -/
theorem kget_kset (d : α) (m : AMap κ α) (i j : κ) (v : α) : kget d (kset m i v) j = if i = j then v else kget d m j := by
  induction m with
  | nil => simp [kset, kget]
  | cons p m ih =>
    obtain ⟨k, w⟩ := p
    by_cases h : k = i
    · subst h; simp only [kset, if_true, kget]; split <;> rfl
    · simp only [kset, h, if_false, kget, ih]
      by_cases h2 : k = j
      · subst h2; simp [Ne.symm h]
      · simp [h2]

@[simp] theorem kget_kset_self (d : α) (m : AMap κ α) (i : κ) (v : α) : kget d (kset m i v) i = v := by
  simp [kget_kset]

theorem kget_kset_ne (d : α) (m : AMap κ α) {i j : κ} (h : i ≠ j) (v : α) : kget d (kset m i v) j = kget d m j := by
  simp [kget_kset, h]

@[simp] theorem kset_kset (m : AMap κ α) (i : κ) (v w : α) : kset (kset m i v) i w = kset m i w := by
  induction m with
  | nil => simp [kset]
  | cons p m ih =>
    obtain ⟨k, u⟩ := p
    by_cases h : k = i
    · simp [kset, h]
    · simp [kset, h, ih]

/-- Setting a key that is there to what it holds changes nothing. -/
theorem kset_of_mem (d : α) (m : AMap κ α) (i : κ) (h : khas m i = true) : kset m i (kget d m i) = m := by
  induction m with
  | nil => simp [khas] at h
  | cons p m ih =>
    obtain ⟨k, u⟩ := p
    by_cases hk : k = i
    · simp [kset, kget, hk]
    · simp only [kset, kget, hk, if_false, List.cons.injEq, true_and]
      apply ih
      simpa [khas, hk] using h

end

@[simp] theorem bw_true : bw true = 1 := rfl
@[simp] theorem bw_false : bw false = 0 := rfl

end Sys2Proof.Machine
end

