-- ==== Sys2Proof/Laws/State.lean ====
section
/-! SUPPORT. What each update of the state leaves: one lemma for each field of each update, and what reading back gives. -/

namespace Sys2Proof.Machine

/-! ## setElem -/

@[simp] theorem State.setElem_regions (s : State) (e : ERef) (x : Elem) : (s.setElem e x).regions = s.regions := rfl
@[simp] theorem State.setElem_insts (s : State) (e : ERef) (x : Elem) : (s.setElem e x).insts = s.insts := rfl
@[simp] theorem State.setElem_graphs (s : State) (e : ERef) (x : Elem) : (s.setElem e x).graphs = s.graphs := rfl
@[simp] theorem State.setElem_resident (s : State) (e : ERef) (x : Elem) : (s.setElem e x).resident = s.resident := rfl
@[simp] theorem State.setElem_refusals (s : State) (e : ERef) (x : Elem) : (s.setElem e x).refusals = s.refusals := rfl
@[simp] theorem State.setElem_mirror (s : State) (e : ERef) (x : Elem) : (s.setElem e x).mirror = s.mirror := rfl
@[simp] theorem State.setElem_ctxs (s : State) (e : ERef) (x : Elem) : (s.setElem e x).ctxs = s.ctxs := rfl
@[simp] theorem State.setElem_pendLaunch (s : State) (e : ERef) (x : Elem) : (s.setElem e x).pendLaunch = s.pendLaunch := rfl
@[simp] theorem State.setElem_launchNo (s : State) (e : ERef) (x : Elem) : (s.setElem e x).launchNo = s.launchNo := rfl
@[simp] theorem State.setElem_rrob (s : State) (e : ERef) (x : Elem) : (s.setElem e x).rrob = s.rrob := rfl
@[simp] theorem State.setElem_queues (s : State) (e : ERef) (x : Elem) : (s.setElem e x).queues = s.queues := rfl
@[simp] theorem State.setElem_rings (s : State) (e : ERef) (x : Elem) : (s.setElem e x).rings = s.rings := rfl
@[simp] theorem State.setElem_mail (s : State) (e : ERef) (x : Elem) : (s.setElem e x).mail = s.mail := rfl
@[simp] theorem State.setElem_xreg (s : State) (e : ERef) (x : Elem) : (s.setElem e x).xreg = s.xreg := rfl
@[simp] theorem State.setElem_sched (s : State) (e : ERef) (x : Elem) : (s.setElem e x).sched = s.sched := rfl
@[simp] theorem State.setElem_errRecs (s : State) (e : ERef) (x : Elem) : (s.setElem e x).errRecs = s.errRecs := rfl
@[simp] theorem State.setElem_errCnt (s : State) (e : ERef) (x : Elem) : (s.setElem e x).errCnt = s.errCnt := rfl
@[simp] theorem State.setElem_fw (s : State) (e : ERef) (x : Elem) : (s.setElem e x).fw = s.fw := rfl
@[simp] theorem State.setElem_life (s : State) (e : ERef) (x : Elem) : (s.setElem e x).life = s.life := rfl
@[simp] theorem State.setElem_lifePend (s : State) (e : ERef) (x : Elem) : (s.setElem e x).lifePend = s.lifePend := rfl
@[simp] theorem State.setElem_naddr (s : State) (e : ERef) (x : Elem) : (s.setElem e x).naddr = s.naddr := rfl
@[simp] theorem State.setElem_groups (s : State) (e : ERef) (x : Elem) : (s.setElem e x).groups = s.groups := rfl
@[simp] theorem State.setElem_colls (s : State) (e : ERef) (x : Elem) : (s.setElem e x).colls = s.colls := rfl
@[simp] theorem State.setElem_tiles (s : State) (e : ERef) (x : Elem) : (s.setElem e x).tiles = s.tiles := rfl
@[simp] theorem State.setElem_tileReqs (s : State) (e : ERef) (x : Elem) : (s.setElem e x).tileReqs = s.tileReqs := rfl
@[simp] theorem State.setElem_engines (s : State) (e : ERef) (x : Elem) : (s.setElem e x).engines = s.engines := rfl
@[simp] theorem State.setElem_ownerTab (s : State) (e : ERef) (x : Elem) : (s.setElem e x).ownerTab = s.ownerTab := rfl
@[simp] theorem State.setElem_clk (s : State) (e : ERef) (x : Elem) : (s.setElem e x).clk = s.clk := rfl
@[simp] theorem State.setElem_win (s : State) (e : ERef) (x : Elem) : (s.setElem e x).win = s.win := rfl
@[simp] theorem State.setElem_num (s : State) (e : ERef) (x : Elem) : (s.setElem e x).num = s.num := rfl
@[simp] theorem State.setElem_acq (s : State) (e : ERef) (x : Elem) : (s.setElem e x).acq = s.acq := rfl
@[simp] theorem State.setElem_stamps (s : State) (e : ERef) (x : Elem) : (s.setElem e x).stamps = s.stamps := rfl
@[simp] theorem State.setElem_fenced (s : State) (e : ERef) (x : Elem) : (s.setElem e x).fenced = s.fenced := rfl
@[simp] theorem State.setElem_downLinks (s : State) (e : ERef) (x : Elem) : (s.setElem e x).downLinks = s.downLinks := rfl
@[simp] theorem State.setElem_tlb (s : State) (e : ERef) (x : Elem) : (s.setElem e x).tlb = s.tlb := rfl
@[simp] theorem State.setElem_utlb (s : State) (e : ERef) (x : Elem) : (s.setElem e x).utlb = s.utlb := rfl
@[simp] theorem State.setElem_accs (s : State) (e : ERef) (x : Elem) : (s.setElem e x).accs = s.accs := rfl
@[simp] theorem State.setElem_holds (s : State) (e : ERef) (x : Elem) : (s.setElem e x).holds = s.holds := rfl
@[simp] theorem State.setElem_tape (s : State) (e : ERef) (x : Elem) : (s.setElem e x).tape = s.tape := rfl
@[simp] theorem State.setElem_journals (s : State) (e : ERef) (x : Elem) : (s.setElem e x).journals = s.journals := rfl
@[simp] theorem State.setElem_fronts (s : State) (e : ERef) (x : Elem) : (s.setElem e x).fronts = s.fronts := rfl
@[simp] theorem State.setElem_acted (s : State) (e : ERef) (x : Elem) : (s.setElem e x).acted = s.acted := rfl
@[simp] theorem State.setElem_copies (s : State) (e : ERef) (x : Elem) : (s.setElem e x).copies = s.copies := rfl
@[simp] theorem State.setElem_ringRels (s : State) (e : ERef) (x : Elem) : (s.setElem e x).ringRels = s.ringRels := rfl
@[simp] theorem State.setElem_wells (s : State) (e : ERef) (x : Elem) : (s.setElem e x).wells = s.wells := rfl
@[simp] theorem State.setElem_mem (s : State) (e : ERef) (x : Elem) : (s.setElem e x).mem = s.mem := rfl
@[simp] theorem State.setElem_stores (s : State) (e : ERef) (x : Elem) : (s.setElem e x).stores = s.stores := rfl
@[simp] theorem State.setElem_unspec (s : State) (e : ERef) (x : Elem) : (s.setElem e x).unspec = s.unspec := rfl
@[simp] theorem State.setElem_badLines (s : State) (e : ERef) (x : Elem) : (s.setElem e x).badLines = s.badLines := rfl
@[simp] theorem State.setElem_irqs (s : State) (e : ERef) (x : Elem) : (s.setElem e x).irqs = s.irqs := rfl
@[simp] theorem State.setElem_sent (s : State) (e : ERef) (x : Elem) : (s.setElem e x).sent = s.sent := rfl
@[simp] theorem State.setElem_cur (s : State) (e : ERef) (x : Elem) : (s.setElem e x).cur = s.cur := rfl
@[simp] theorem State.setElem_curSlot (s : State) (e : ERef) (x : Elem) : (s.setElem e x).curSlot = s.curSlot := rfl
@[simp] theorem State.setElem_curBeat (s : State) (e : ERef) (x : Elem) : (s.setElem e x).curBeat = s.curBeat := rfl
@[simp] theorem State.setElem_latched (s : State) (e : ERef) (x : Elem) : (s.setElem e x).latched = s.latched := rfl
@[simp] theorem State.setElem_agenda (s : State) (e : ERef) (x : Elem) : (s.setElem e x).agenda = s.agenda := rfl
@[simp] theorem State.setElem_now (s : State) (e : ERef) (x : Elem) : (s.setElem e x).now = s.now := rfl
@[simp] theorem State.setElem_oracle (s : State) (e : ERef) (x : Elem) : (s.setElem e x).oracle = s.oracle := rfl
@[simp] theorem State.setElem_fresh (s : State) (e : ERef) (x : Elem) : (s.setElem e x).fresh = s.fresh := rfl

/-! ## modInst -/

@[simp] theorem State.modInst_elems (s : State) (i : Nat) (f : StageInst → StageInst) : (s.modInst i f).elems = s.elems := rfl
@[simp] theorem State.modInst_regions (s : State) (i : Nat) (f : StageInst → StageInst) : (s.modInst i f).regions = s.regions := rfl
@[simp] theorem State.modInst_graphs (s : State) (i : Nat) (f : StageInst → StageInst) : (s.modInst i f).graphs = s.graphs := rfl
@[simp] theorem State.modInst_resident (s : State) (i : Nat) (f : StageInst → StageInst) : (s.modInst i f).resident = s.resident := rfl
@[simp] theorem State.modInst_refusals (s : State) (i : Nat) (f : StageInst → StageInst) : (s.modInst i f).refusals = s.refusals := rfl
@[simp] theorem State.modInst_mirror (s : State) (i : Nat) (f : StageInst → StageInst) : (s.modInst i f).mirror = s.mirror := rfl
@[simp] theorem State.modInst_ctxs (s : State) (i : Nat) (f : StageInst → StageInst) : (s.modInst i f).ctxs = s.ctxs := rfl
@[simp] theorem State.modInst_pendLaunch (s : State) (i : Nat) (f : StageInst → StageInst) : (s.modInst i f).pendLaunch = s.pendLaunch := rfl
@[simp] theorem State.modInst_launchNo (s : State) (i : Nat) (f : StageInst → StageInst) : (s.modInst i f).launchNo = s.launchNo := rfl
@[simp] theorem State.modInst_rrob (s : State) (i : Nat) (f : StageInst → StageInst) : (s.modInst i f).rrob = s.rrob := rfl
@[simp] theorem State.modInst_queues (s : State) (i : Nat) (f : StageInst → StageInst) : (s.modInst i f).queues = s.queues := rfl
@[simp] theorem State.modInst_rings (s : State) (i : Nat) (f : StageInst → StageInst) : (s.modInst i f).rings = s.rings := rfl
@[simp] theorem State.modInst_mail (s : State) (i : Nat) (f : StageInst → StageInst) : (s.modInst i f).mail = s.mail := rfl
@[simp] theorem State.modInst_xreg (s : State) (i : Nat) (f : StageInst → StageInst) : (s.modInst i f).xreg = s.xreg := rfl
@[simp] theorem State.modInst_sched (s : State) (i : Nat) (f : StageInst → StageInst) : (s.modInst i f).sched = s.sched := rfl
@[simp] theorem State.modInst_errRecs (s : State) (i : Nat) (f : StageInst → StageInst) : (s.modInst i f).errRecs = s.errRecs := rfl
@[simp] theorem State.modInst_errCnt (s : State) (i : Nat) (f : StageInst → StageInst) : (s.modInst i f).errCnt = s.errCnt := rfl
@[simp] theorem State.modInst_fw (s : State) (i : Nat) (f : StageInst → StageInst) : (s.modInst i f).fw = s.fw := rfl
@[simp] theorem State.modInst_life (s : State) (i : Nat) (f : StageInst → StageInst) : (s.modInst i f).life = s.life := rfl
@[simp] theorem State.modInst_lifePend (s : State) (i : Nat) (f : StageInst → StageInst) : (s.modInst i f).lifePend = s.lifePend := rfl
@[simp] theorem State.modInst_naddr (s : State) (i : Nat) (f : StageInst → StageInst) : (s.modInst i f).naddr = s.naddr := rfl
@[simp] theorem State.modInst_groups (s : State) (i : Nat) (f : StageInst → StageInst) : (s.modInst i f).groups = s.groups := rfl
@[simp] theorem State.modInst_colls (s : State) (i : Nat) (f : StageInst → StageInst) : (s.modInst i f).colls = s.colls := rfl
@[simp] theorem State.modInst_tiles (s : State) (i : Nat) (f : StageInst → StageInst) : (s.modInst i f).tiles = s.tiles := rfl
@[simp] theorem State.modInst_tileReqs (s : State) (i : Nat) (f : StageInst → StageInst) : (s.modInst i f).tileReqs = s.tileReqs := rfl
@[simp] theorem State.modInst_engines (s : State) (i : Nat) (f : StageInst → StageInst) : (s.modInst i f).engines = s.engines := rfl
@[simp] theorem State.modInst_ownerTab (s : State) (i : Nat) (f : StageInst → StageInst) : (s.modInst i f).ownerTab = s.ownerTab := rfl
@[simp] theorem State.modInst_clk (s : State) (i : Nat) (f : StageInst → StageInst) : (s.modInst i f).clk = s.clk := rfl
@[simp] theorem State.modInst_win (s : State) (i : Nat) (f : StageInst → StageInst) : (s.modInst i f).win = s.win := rfl
@[simp] theorem State.modInst_num (s : State) (i : Nat) (f : StageInst → StageInst) : (s.modInst i f).num = s.num := rfl
@[simp] theorem State.modInst_acq (s : State) (i : Nat) (f : StageInst → StageInst) : (s.modInst i f).acq = s.acq := rfl
@[simp] theorem State.modInst_stamps (s : State) (i : Nat) (f : StageInst → StageInst) : (s.modInst i f).stamps = s.stamps := rfl
@[simp] theorem State.modInst_fenced (s : State) (i : Nat) (f : StageInst → StageInst) : (s.modInst i f).fenced = s.fenced := rfl
@[simp] theorem State.modInst_downLinks (s : State) (i : Nat) (f : StageInst → StageInst) : (s.modInst i f).downLinks = s.downLinks := rfl
@[simp] theorem State.modInst_tlb (s : State) (i : Nat) (f : StageInst → StageInst) : (s.modInst i f).tlb = s.tlb := rfl
@[simp] theorem State.modInst_utlb (s : State) (i : Nat) (f : StageInst → StageInst) : (s.modInst i f).utlb = s.utlb := rfl
@[simp] theorem State.modInst_accs (s : State) (i : Nat) (f : StageInst → StageInst) : (s.modInst i f).accs = s.accs := rfl
@[simp] theorem State.modInst_holds (s : State) (i : Nat) (f : StageInst → StageInst) : (s.modInst i f).holds = s.holds := rfl
@[simp] theorem State.modInst_tape (s : State) (i : Nat) (f : StageInst → StageInst) : (s.modInst i f).tape = s.tape := rfl
@[simp] theorem State.modInst_journals (s : State) (i : Nat) (f : StageInst → StageInst) : (s.modInst i f).journals = s.journals := rfl
@[simp] theorem State.modInst_fronts (s : State) (i : Nat) (f : StageInst → StageInst) : (s.modInst i f).fronts = s.fronts := rfl
@[simp] theorem State.modInst_acted (s : State) (i : Nat) (f : StageInst → StageInst) : (s.modInst i f).acted = s.acted := rfl
@[simp] theorem State.modInst_copies (s : State) (i : Nat) (f : StageInst → StageInst) : (s.modInst i f).copies = s.copies := rfl
@[simp] theorem State.modInst_ringRels (s : State) (i : Nat) (f : StageInst → StageInst) : (s.modInst i f).ringRels = s.ringRels := rfl
@[simp] theorem State.modInst_wells (s : State) (i : Nat) (f : StageInst → StageInst) : (s.modInst i f).wells = s.wells := rfl
@[simp] theorem State.modInst_mem (s : State) (i : Nat) (f : StageInst → StageInst) : (s.modInst i f).mem = s.mem := rfl
@[simp] theorem State.modInst_stores (s : State) (i : Nat) (f : StageInst → StageInst) : (s.modInst i f).stores = s.stores := rfl
@[simp] theorem State.modInst_unspec (s : State) (i : Nat) (f : StageInst → StageInst) : (s.modInst i f).unspec = s.unspec := rfl
@[simp] theorem State.modInst_badLines (s : State) (i : Nat) (f : StageInst → StageInst) : (s.modInst i f).badLines = s.badLines := rfl
@[simp] theorem State.modInst_irqs (s : State) (i : Nat) (f : StageInst → StageInst) : (s.modInst i f).irqs = s.irqs := rfl
@[simp] theorem State.modInst_sent (s : State) (i : Nat) (f : StageInst → StageInst) : (s.modInst i f).sent = s.sent := rfl
@[simp] theorem State.modInst_cur (s : State) (i : Nat) (f : StageInst → StageInst) : (s.modInst i f).cur = s.cur := rfl
@[simp] theorem State.modInst_curSlot (s : State) (i : Nat) (f : StageInst → StageInst) : (s.modInst i f).curSlot = s.curSlot := rfl
@[simp] theorem State.modInst_curBeat (s : State) (i : Nat) (f : StageInst → StageInst) : (s.modInst i f).curBeat = s.curBeat := rfl
@[simp] theorem State.modInst_latched (s : State) (i : Nat) (f : StageInst → StageInst) : (s.modInst i f).latched = s.latched := rfl
@[simp] theorem State.modInst_agenda (s : State) (i : Nat) (f : StageInst → StageInst) : (s.modInst i f).agenda = s.agenda := rfl
@[simp] theorem State.modInst_now (s : State) (i : Nat) (f : StageInst → StageInst) : (s.modInst i f).now = s.now := rfl
@[simp] theorem State.modInst_oracle (s : State) (i : Nat) (f : StageInst → StageInst) : (s.modInst i f).oracle = s.oracle := rfl
@[simp] theorem State.modInst_fresh (s : State) (i : Nat) (f : StageInst → StageInst) : (s.modInst i f).fresh = s.fresh := rfl

/-! ## modRegion -/

@[simp] theorem State.modRegion_elems (s : State) (r : RRef) (f : Region → Region) : (s.modRegion r f).elems = s.elems := rfl
@[simp] theorem State.modRegion_insts (s : State) (r : RRef) (f : Region → Region) : (s.modRegion r f).insts = s.insts := rfl
@[simp] theorem State.modRegion_graphs (s : State) (r : RRef) (f : Region → Region) : (s.modRegion r f).graphs = s.graphs := rfl
@[simp] theorem State.modRegion_resident (s : State) (r : RRef) (f : Region → Region) : (s.modRegion r f).resident = s.resident := rfl
@[simp] theorem State.modRegion_refusals (s : State) (r : RRef) (f : Region → Region) : (s.modRegion r f).refusals = s.refusals := rfl
@[simp] theorem State.modRegion_mirror (s : State) (r : RRef) (f : Region → Region) : (s.modRegion r f).mirror = s.mirror := rfl
@[simp] theorem State.modRegion_ctxs (s : State) (r : RRef) (f : Region → Region) : (s.modRegion r f).ctxs = s.ctxs := rfl
@[simp] theorem State.modRegion_pendLaunch (s : State) (r : RRef) (f : Region → Region) : (s.modRegion r f).pendLaunch = s.pendLaunch := rfl
@[simp] theorem State.modRegion_launchNo (s : State) (r : RRef) (f : Region → Region) : (s.modRegion r f).launchNo = s.launchNo := rfl
@[simp] theorem State.modRegion_rrob (s : State) (r : RRef) (f : Region → Region) : (s.modRegion r f).rrob = s.rrob := rfl
@[simp] theorem State.modRegion_queues (s : State) (r : RRef) (f : Region → Region) : (s.modRegion r f).queues = s.queues := rfl
@[simp] theorem State.modRegion_rings (s : State) (r : RRef) (f : Region → Region) : (s.modRegion r f).rings = s.rings := rfl
@[simp] theorem State.modRegion_mail (s : State) (r : RRef) (f : Region → Region) : (s.modRegion r f).mail = s.mail := rfl
@[simp] theorem State.modRegion_xreg (s : State) (r : RRef) (f : Region → Region) : (s.modRegion r f).xreg = s.xreg := rfl
@[simp] theorem State.modRegion_sched (s : State) (r : RRef) (f : Region → Region) : (s.modRegion r f).sched = s.sched := rfl
@[simp] theorem State.modRegion_errRecs (s : State) (r : RRef) (f : Region → Region) : (s.modRegion r f).errRecs = s.errRecs := rfl
@[simp] theorem State.modRegion_errCnt (s : State) (r : RRef) (f : Region → Region) : (s.modRegion r f).errCnt = s.errCnt := rfl
@[simp] theorem State.modRegion_fw (s : State) (r : RRef) (f : Region → Region) : (s.modRegion r f).fw = s.fw := rfl
@[simp] theorem State.modRegion_life (s : State) (r : RRef) (f : Region → Region) : (s.modRegion r f).life = s.life := rfl
@[simp] theorem State.modRegion_lifePend (s : State) (r : RRef) (f : Region → Region) : (s.modRegion r f).lifePend = s.lifePend := rfl
@[simp] theorem State.modRegion_naddr (s : State) (r : RRef) (f : Region → Region) : (s.modRegion r f).naddr = s.naddr := rfl
@[simp] theorem State.modRegion_groups (s : State) (r : RRef) (f : Region → Region) : (s.modRegion r f).groups = s.groups := rfl
@[simp] theorem State.modRegion_colls (s : State) (r : RRef) (f : Region → Region) : (s.modRegion r f).colls = s.colls := rfl
@[simp] theorem State.modRegion_tiles (s : State) (r : RRef) (f : Region → Region) : (s.modRegion r f).tiles = s.tiles := rfl
@[simp] theorem State.modRegion_tileReqs (s : State) (r : RRef) (f : Region → Region) : (s.modRegion r f).tileReqs = s.tileReqs := rfl
@[simp] theorem State.modRegion_engines (s : State) (r : RRef) (f : Region → Region) : (s.modRegion r f).engines = s.engines := rfl
@[simp] theorem State.modRegion_ownerTab (s : State) (r : RRef) (f : Region → Region) : (s.modRegion r f).ownerTab = s.ownerTab := rfl
@[simp] theorem State.modRegion_clk (s : State) (r : RRef) (f : Region → Region) : (s.modRegion r f).clk = s.clk := rfl
@[simp] theorem State.modRegion_win (s : State) (r : RRef) (f : Region → Region) : (s.modRegion r f).win = s.win := rfl
@[simp] theorem State.modRegion_num (s : State) (r : RRef) (f : Region → Region) : (s.modRegion r f).num = s.num := rfl
@[simp] theorem State.modRegion_acq (s : State) (r : RRef) (f : Region → Region) : (s.modRegion r f).acq = s.acq := rfl
@[simp] theorem State.modRegion_stamps (s : State) (r : RRef) (f : Region → Region) : (s.modRegion r f).stamps = s.stamps := rfl
@[simp] theorem State.modRegion_fenced (s : State) (r : RRef) (f : Region → Region) : (s.modRegion r f).fenced = s.fenced := rfl
@[simp] theorem State.modRegion_downLinks (s : State) (r : RRef) (f : Region → Region) : (s.modRegion r f).downLinks = s.downLinks := rfl
@[simp] theorem State.modRegion_tlb (s : State) (r : RRef) (f : Region → Region) : (s.modRegion r f).tlb = s.tlb := rfl
@[simp] theorem State.modRegion_utlb (s : State) (r : RRef) (f : Region → Region) : (s.modRegion r f).utlb = s.utlb := rfl
@[simp] theorem State.modRegion_accs (s : State) (r : RRef) (f : Region → Region) : (s.modRegion r f).accs = s.accs := rfl
@[simp] theorem State.modRegion_holds (s : State) (r : RRef) (f : Region → Region) : (s.modRegion r f).holds = s.holds := rfl
@[simp] theorem State.modRegion_tape (s : State) (r : RRef) (f : Region → Region) : (s.modRegion r f).tape = s.tape := rfl
@[simp] theorem State.modRegion_journals (s : State) (r : RRef) (f : Region → Region) : (s.modRegion r f).journals = s.journals := rfl
@[simp] theorem State.modRegion_fronts (s : State) (r : RRef) (f : Region → Region) : (s.modRegion r f).fronts = s.fronts := rfl
@[simp] theorem State.modRegion_acted (s : State) (r : RRef) (f : Region → Region) : (s.modRegion r f).acted = s.acted := rfl
@[simp] theorem State.modRegion_copies (s : State) (r : RRef) (f : Region → Region) : (s.modRegion r f).copies = s.copies := rfl
@[simp] theorem State.modRegion_ringRels (s : State) (r : RRef) (f : Region → Region) : (s.modRegion r f).ringRels = s.ringRels := rfl
@[simp] theorem State.modRegion_wells (s : State) (r : RRef) (f : Region → Region) : (s.modRegion r f).wells = s.wells := rfl
@[simp] theorem State.modRegion_mem (s : State) (r : RRef) (f : Region → Region) : (s.modRegion r f).mem = s.mem := rfl
@[simp] theorem State.modRegion_stores (s : State) (r : RRef) (f : Region → Region) : (s.modRegion r f).stores = s.stores := rfl
@[simp] theorem State.modRegion_unspec (s : State) (r : RRef) (f : Region → Region) : (s.modRegion r f).unspec = s.unspec := rfl
@[simp] theorem State.modRegion_badLines (s : State) (r : RRef) (f : Region → Region) : (s.modRegion r f).badLines = s.badLines := rfl
@[simp] theorem State.modRegion_irqs (s : State) (r : RRef) (f : Region → Region) : (s.modRegion r f).irqs = s.irqs := rfl
@[simp] theorem State.modRegion_sent (s : State) (r : RRef) (f : Region → Region) : (s.modRegion r f).sent = s.sent := rfl
@[simp] theorem State.modRegion_cur (s : State) (r : RRef) (f : Region → Region) : (s.modRegion r f).cur = s.cur := rfl
@[simp] theorem State.modRegion_curSlot (s : State) (r : RRef) (f : Region → Region) : (s.modRegion r f).curSlot = s.curSlot := rfl
@[simp] theorem State.modRegion_curBeat (s : State) (r : RRef) (f : Region → Region) : (s.modRegion r f).curBeat = s.curBeat := rfl
@[simp] theorem State.modRegion_latched (s : State) (r : RRef) (f : Region → Region) : (s.modRegion r f).latched = s.latched := rfl
@[simp] theorem State.modRegion_agenda (s : State) (r : RRef) (f : Region → Region) : (s.modRegion r f).agenda = s.agenda := rfl
@[simp] theorem State.modRegion_now (s : State) (r : RRef) (f : Region → Region) : (s.modRegion r f).now = s.now := rfl
@[simp] theorem State.modRegion_oracle (s : State) (r : RRef) (f : Region → Region) : (s.modRegion r f).oracle = s.oracle := rfl
@[simp] theorem State.modRegion_fresh (s : State) (r : RRef) (f : Region → Region) : (s.modRegion r f).fresh = s.fresh := rfl

/-! ## modGraph -/

@[simp] theorem State.modGraph_elems (s : State) (g : Nat) (f : GraphInst → GraphInst) : (s.modGraph g f).elems = s.elems := rfl
@[simp] theorem State.modGraph_regions (s : State) (g : Nat) (f : GraphInst → GraphInst) : (s.modGraph g f).regions = s.regions := rfl
@[simp] theorem State.modGraph_insts (s : State) (g : Nat) (f : GraphInst → GraphInst) : (s.modGraph g f).insts = s.insts := rfl
@[simp] theorem State.modGraph_resident (s : State) (g : Nat) (f : GraphInst → GraphInst) : (s.modGraph g f).resident = s.resident := rfl
@[simp] theorem State.modGraph_refusals (s : State) (g : Nat) (f : GraphInst → GraphInst) : (s.modGraph g f).refusals = s.refusals := rfl
@[simp] theorem State.modGraph_mirror (s : State) (g : Nat) (f : GraphInst → GraphInst) : (s.modGraph g f).mirror = s.mirror := rfl
@[simp] theorem State.modGraph_ctxs (s : State) (g : Nat) (f : GraphInst → GraphInst) : (s.modGraph g f).ctxs = s.ctxs := rfl
@[simp] theorem State.modGraph_pendLaunch (s : State) (g : Nat) (f : GraphInst → GraphInst) : (s.modGraph g f).pendLaunch = s.pendLaunch := rfl
@[simp] theorem State.modGraph_launchNo (s : State) (g : Nat) (f : GraphInst → GraphInst) : (s.modGraph g f).launchNo = s.launchNo := rfl
@[simp] theorem State.modGraph_rrob (s : State) (g : Nat) (f : GraphInst → GraphInst) : (s.modGraph g f).rrob = s.rrob := rfl
@[simp] theorem State.modGraph_queues (s : State) (g : Nat) (f : GraphInst → GraphInst) : (s.modGraph g f).queues = s.queues := rfl
@[simp] theorem State.modGraph_rings (s : State) (g : Nat) (f : GraphInst → GraphInst) : (s.modGraph g f).rings = s.rings := rfl
@[simp] theorem State.modGraph_mail (s : State) (g : Nat) (f : GraphInst → GraphInst) : (s.modGraph g f).mail = s.mail := rfl
@[simp] theorem State.modGraph_xreg (s : State) (g : Nat) (f : GraphInst → GraphInst) : (s.modGraph g f).xreg = s.xreg := rfl
@[simp] theorem State.modGraph_sched (s : State) (g : Nat) (f : GraphInst → GraphInst) : (s.modGraph g f).sched = s.sched := rfl
@[simp] theorem State.modGraph_errRecs (s : State) (g : Nat) (f : GraphInst → GraphInst) : (s.modGraph g f).errRecs = s.errRecs := rfl
@[simp] theorem State.modGraph_errCnt (s : State) (g : Nat) (f : GraphInst → GraphInst) : (s.modGraph g f).errCnt = s.errCnt := rfl
@[simp] theorem State.modGraph_fw (s : State) (g : Nat) (f : GraphInst → GraphInst) : (s.modGraph g f).fw = s.fw := rfl
@[simp] theorem State.modGraph_life (s : State) (g : Nat) (f : GraphInst → GraphInst) : (s.modGraph g f).life = s.life := rfl
@[simp] theorem State.modGraph_lifePend (s : State) (g : Nat) (f : GraphInst → GraphInst) : (s.modGraph g f).lifePend = s.lifePend := rfl
@[simp] theorem State.modGraph_naddr (s : State) (g : Nat) (f : GraphInst → GraphInst) : (s.modGraph g f).naddr = s.naddr := rfl
@[simp] theorem State.modGraph_groups (s : State) (g : Nat) (f : GraphInst → GraphInst) : (s.modGraph g f).groups = s.groups := rfl
@[simp] theorem State.modGraph_colls (s : State) (g : Nat) (f : GraphInst → GraphInst) : (s.modGraph g f).colls = s.colls := rfl
@[simp] theorem State.modGraph_tiles (s : State) (g : Nat) (f : GraphInst → GraphInst) : (s.modGraph g f).tiles = s.tiles := rfl
@[simp] theorem State.modGraph_tileReqs (s : State) (g : Nat) (f : GraphInst → GraphInst) : (s.modGraph g f).tileReqs = s.tileReqs := rfl
@[simp] theorem State.modGraph_engines (s : State) (g : Nat) (f : GraphInst → GraphInst) : (s.modGraph g f).engines = s.engines := rfl
@[simp] theorem State.modGraph_ownerTab (s : State) (g : Nat) (f : GraphInst → GraphInst) : (s.modGraph g f).ownerTab = s.ownerTab := rfl
@[simp] theorem State.modGraph_clk (s : State) (g : Nat) (f : GraphInst → GraphInst) : (s.modGraph g f).clk = s.clk := rfl
@[simp] theorem State.modGraph_win (s : State) (g : Nat) (f : GraphInst → GraphInst) : (s.modGraph g f).win = s.win := rfl
@[simp] theorem State.modGraph_num (s : State) (g : Nat) (f : GraphInst → GraphInst) : (s.modGraph g f).num = s.num := rfl
@[simp] theorem State.modGraph_acq (s : State) (g : Nat) (f : GraphInst → GraphInst) : (s.modGraph g f).acq = s.acq := rfl
@[simp] theorem State.modGraph_stamps (s : State) (g : Nat) (f : GraphInst → GraphInst) : (s.modGraph g f).stamps = s.stamps := rfl
@[simp] theorem State.modGraph_fenced (s : State) (g : Nat) (f : GraphInst → GraphInst) : (s.modGraph g f).fenced = s.fenced := rfl
@[simp] theorem State.modGraph_downLinks (s : State) (g : Nat) (f : GraphInst → GraphInst) : (s.modGraph g f).downLinks = s.downLinks := rfl
@[simp] theorem State.modGraph_tlb (s : State) (g : Nat) (f : GraphInst → GraphInst) : (s.modGraph g f).tlb = s.tlb := rfl
@[simp] theorem State.modGraph_utlb (s : State) (g : Nat) (f : GraphInst → GraphInst) : (s.modGraph g f).utlb = s.utlb := rfl
@[simp] theorem State.modGraph_accs (s : State) (g : Nat) (f : GraphInst → GraphInst) : (s.modGraph g f).accs = s.accs := rfl
@[simp] theorem State.modGraph_holds (s : State) (g : Nat) (f : GraphInst → GraphInst) : (s.modGraph g f).holds = s.holds := rfl
@[simp] theorem State.modGraph_tape (s : State) (g : Nat) (f : GraphInst → GraphInst) : (s.modGraph g f).tape = s.tape := rfl
@[simp] theorem State.modGraph_journals (s : State) (g : Nat) (f : GraphInst → GraphInst) : (s.modGraph g f).journals = s.journals := rfl
@[simp] theorem State.modGraph_fronts (s : State) (g : Nat) (f : GraphInst → GraphInst) : (s.modGraph g f).fronts = s.fronts := rfl
@[simp] theorem State.modGraph_acted (s : State) (g : Nat) (f : GraphInst → GraphInst) : (s.modGraph g f).acted = s.acted := rfl
@[simp] theorem State.modGraph_copies (s : State) (g : Nat) (f : GraphInst → GraphInst) : (s.modGraph g f).copies = s.copies := rfl
@[simp] theorem State.modGraph_ringRels (s : State) (g : Nat) (f : GraphInst → GraphInst) : (s.modGraph g f).ringRels = s.ringRels := rfl
@[simp] theorem State.modGraph_wells (s : State) (g : Nat) (f : GraphInst → GraphInst) : (s.modGraph g f).wells = s.wells := rfl
@[simp] theorem State.modGraph_mem (s : State) (g : Nat) (f : GraphInst → GraphInst) : (s.modGraph g f).mem = s.mem := rfl
@[simp] theorem State.modGraph_stores (s : State) (g : Nat) (f : GraphInst → GraphInst) : (s.modGraph g f).stores = s.stores := rfl
@[simp] theorem State.modGraph_unspec (s : State) (g : Nat) (f : GraphInst → GraphInst) : (s.modGraph g f).unspec = s.unspec := rfl
@[simp] theorem State.modGraph_badLines (s : State) (g : Nat) (f : GraphInst → GraphInst) : (s.modGraph g f).badLines = s.badLines := rfl
@[simp] theorem State.modGraph_irqs (s : State) (g : Nat) (f : GraphInst → GraphInst) : (s.modGraph g f).irqs = s.irqs := rfl
@[simp] theorem State.modGraph_sent (s : State) (g : Nat) (f : GraphInst → GraphInst) : (s.modGraph g f).sent = s.sent := rfl
@[simp] theorem State.modGraph_cur (s : State) (g : Nat) (f : GraphInst → GraphInst) : (s.modGraph g f).cur = s.cur := rfl
@[simp] theorem State.modGraph_curSlot (s : State) (g : Nat) (f : GraphInst → GraphInst) : (s.modGraph g f).curSlot = s.curSlot := rfl
@[simp] theorem State.modGraph_curBeat (s : State) (g : Nat) (f : GraphInst → GraphInst) : (s.modGraph g f).curBeat = s.curBeat := rfl
@[simp] theorem State.modGraph_latched (s : State) (g : Nat) (f : GraphInst → GraphInst) : (s.modGraph g f).latched = s.latched := rfl
@[simp] theorem State.modGraph_agenda (s : State) (g : Nat) (f : GraphInst → GraphInst) : (s.modGraph g f).agenda = s.agenda := rfl
@[simp] theorem State.modGraph_now (s : State) (g : Nat) (f : GraphInst → GraphInst) : (s.modGraph g f).now = s.now := rfl
@[simp] theorem State.modGraph_oracle (s : State) (g : Nat) (f : GraphInst → GraphInst) : (s.modGraph g f).oracle = s.oracle := rfl
@[simp] theorem State.modGraph_fresh (s : State) (g : Nat) (f : GraphInst → GraphInst) : (s.modGraph g f).fresh = s.fresh := rfl

/-! ## modCtx -/

@[simp] theorem State.modCtx_elems (s : State) (c : Nat) (f : Ctx → Ctx) : (s.modCtx c f).elems = s.elems := rfl
@[simp] theorem State.modCtx_regions (s : State) (c : Nat) (f : Ctx → Ctx) : (s.modCtx c f).regions = s.regions := rfl
@[simp] theorem State.modCtx_insts (s : State) (c : Nat) (f : Ctx → Ctx) : (s.modCtx c f).insts = s.insts := rfl
@[simp] theorem State.modCtx_graphs (s : State) (c : Nat) (f : Ctx → Ctx) : (s.modCtx c f).graphs = s.graphs := rfl
@[simp] theorem State.modCtx_resident (s : State) (c : Nat) (f : Ctx → Ctx) : (s.modCtx c f).resident = s.resident := rfl
@[simp] theorem State.modCtx_refusals (s : State) (c : Nat) (f : Ctx → Ctx) : (s.modCtx c f).refusals = s.refusals := rfl
@[simp] theorem State.modCtx_mirror (s : State) (c : Nat) (f : Ctx → Ctx) : (s.modCtx c f).mirror = s.mirror := rfl
@[simp] theorem State.modCtx_pendLaunch (s : State) (c : Nat) (f : Ctx → Ctx) : (s.modCtx c f).pendLaunch = s.pendLaunch := rfl
@[simp] theorem State.modCtx_launchNo (s : State) (c : Nat) (f : Ctx → Ctx) : (s.modCtx c f).launchNo = s.launchNo := rfl
@[simp] theorem State.modCtx_rrob (s : State) (c : Nat) (f : Ctx → Ctx) : (s.modCtx c f).rrob = s.rrob := rfl
@[simp] theorem State.modCtx_queues (s : State) (c : Nat) (f : Ctx → Ctx) : (s.modCtx c f).queues = s.queues := rfl
@[simp] theorem State.modCtx_rings (s : State) (c : Nat) (f : Ctx → Ctx) : (s.modCtx c f).rings = s.rings := rfl
@[simp] theorem State.modCtx_mail (s : State) (c : Nat) (f : Ctx → Ctx) : (s.modCtx c f).mail = s.mail := rfl
@[simp] theorem State.modCtx_xreg (s : State) (c : Nat) (f : Ctx → Ctx) : (s.modCtx c f).xreg = s.xreg := rfl
@[simp] theorem State.modCtx_sched (s : State) (c : Nat) (f : Ctx → Ctx) : (s.modCtx c f).sched = s.sched := rfl
@[simp] theorem State.modCtx_errRecs (s : State) (c : Nat) (f : Ctx → Ctx) : (s.modCtx c f).errRecs = s.errRecs := rfl
@[simp] theorem State.modCtx_errCnt (s : State) (c : Nat) (f : Ctx → Ctx) : (s.modCtx c f).errCnt = s.errCnt := rfl
@[simp] theorem State.modCtx_fw (s : State) (c : Nat) (f : Ctx → Ctx) : (s.modCtx c f).fw = s.fw := rfl
@[simp] theorem State.modCtx_life (s : State) (c : Nat) (f : Ctx → Ctx) : (s.modCtx c f).life = s.life := rfl
@[simp] theorem State.modCtx_lifePend (s : State) (c : Nat) (f : Ctx → Ctx) : (s.modCtx c f).lifePend = s.lifePend := rfl
@[simp] theorem State.modCtx_naddr (s : State) (c : Nat) (f : Ctx → Ctx) : (s.modCtx c f).naddr = s.naddr := rfl
@[simp] theorem State.modCtx_groups (s : State) (c : Nat) (f : Ctx → Ctx) : (s.modCtx c f).groups = s.groups := rfl
@[simp] theorem State.modCtx_colls (s : State) (c : Nat) (f : Ctx → Ctx) : (s.modCtx c f).colls = s.colls := rfl
@[simp] theorem State.modCtx_tiles (s : State) (c : Nat) (f : Ctx → Ctx) : (s.modCtx c f).tiles = s.tiles := rfl
@[simp] theorem State.modCtx_tileReqs (s : State) (c : Nat) (f : Ctx → Ctx) : (s.modCtx c f).tileReqs = s.tileReqs := rfl
@[simp] theorem State.modCtx_engines (s : State) (c : Nat) (f : Ctx → Ctx) : (s.modCtx c f).engines = s.engines := rfl
@[simp] theorem State.modCtx_ownerTab (s : State) (c : Nat) (f : Ctx → Ctx) : (s.modCtx c f).ownerTab = s.ownerTab := rfl
@[simp] theorem State.modCtx_clk (s : State) (c : Nat) (f : Ctx → Ctx) : (s.modCtx c f).clk = s.clk := rfl
@[simp] theorem State.modCtx_win (s : State) (c : Nat) (f : Ctx → Ctx) : (s.modCtx c f).win = s.win := rfl
@[simp] theorem State.modCtx_num (s : State) (c : Nat) (f : Ctx → Ctx) : (s.modCtx c f).num = s.num := rfl
@[simp] theorem State.modCtx_acq (s : State) (c : Nat) (f : Ctx → Ctx) : (s.modCtx c f).acq = s.acq := rfl
@[simp] theorem State.modCtx_stamps (s : State) (c : Nat) (f : Ctx → Ctx) : (s.modCtx c f).stamps = s.stamps := rfl
@[simp] theorem State.modCtx_fenced (s : State) (c : Nat) (f : Ctx → Ctx) : (s.modCtx c f).fenced = s.fenced := rfl
@[simp] theorem State.modCtx_downLinks (s : State) (c : Nat) (f : Ctx → Ctx) : (s.modCtx c f).downLinks = s.downLinks := rfl
@[simp] theorem State.modCtx_tlb (s : State) (c : Nat) (f : Ctx → Ctx) : (s.modCtx c f).tlb = s.tlb := rfl
@[simp] theorem State.modCtx_utlb (s : State) (c : Nat) (f : Ctx → Ctx) : (s.modCtx c f).utlb = s.utlb := rfl
@[simp] theorem State.modCtx_accs (s : State) (c : Nat) (f : Ctx → Ctx) : (s.modCtx c f).accs = s.accs := rfl
@[simp] theorem State.modCtx_holds (s : State) (c : Nat) (f : Ctx → Ctx) : (s.modCtx c f).holds = s.holds := rfl
@[simp] theorem State.modCtx_tape (s : State) (c : Nat) (f : Ctx → Ctx) : (s.modCtx c f).tape = s.tape := rfl
@[simp] theorem State.modCtx_journals (s : State) (c : Nat) (f : Ctx → Ctx) : (s.modCtx c f).journals = s.journals := rfl
@[simp] theorem State.modCtx_fronts (s : State) (c : Nat) (f : Ctx → Ctx) : (s.modCtx c f).fronts = s.fronts := rfl
@[simp] theorem State.modCtx_acted (s : State) (c : Nat) (f : Ctx → Ctx) : (s.modCtx c f).acted = s.acted := rfl
@[simp] theorem State.modCtx_copies (s : State) (c : Nat) (f : Ctx → Ctx) : (s.modCtx c f).copies = s.copies := rfl
@[simp] theorem State.modCtx_ringRels (s : State) (c : Nat) (f : Ctx → Ctx) : (s.modCtx c f).ringRels = s.ringRels := rfl
@[simp] theorem State.modCtx_wells (s : State) (c : Nat) (f : Ctx → Ctx) : (s.modCtx c f).wells = s.wells := rfl
@[simp] theorem State.modCtx_mem (s : State) (c : Nat) (f : Ctx → Ctx) : (s.modCtx c f).mem = s.mem := rfl
@[simp] theorem State.modCtx_stores (s : State) (c : Nat) (f : Ctx → Ctx) : (s.modCtx c f).stores = s.stores := rfl
@[simp] theorem State.modCtx_unspec (s : State) (c : Nat) (f : Ctx → Ctx) : (s.modCtx c f).unspec = s.unspec := rfl
@[simp] theorem State.modCtx_badLines (s : State) (c : Nat) (f : Ctx → Ctx) : (s.modCtx c f).badLines = s.badLines := rfl
@[simp] theorem State.modCtx_irqs (s : State) (c : Nat) (f : Ctx → Ctx) : (s.modCtx c f).irqs = s.irqs := rfl
@[simp] theorem State.modCtx_sent (s : State) (c : Nat) (f : Ctx → Ctx) : (s.modCtx c f).sent = s.sent := rfl
@[simp] theorem State.modCtx_cur (s : State) (c : Nat) (f : Ctx → Ctx) : (s.modCtx c f).cur = s.cur := rfl
@[simp] theorem State.modCtx_curSlot (s : State) (c : Nat) (f : Ctx → Ctx) : (s.modCtx c f).curSlot = s.curSlot := rfl
@[simp] theorem State.modCtx_curBeat (s : State) (c : Nat) (f : Ctx → Ctx) : (s.modCtx c f).curBeat = s.curBeat := rfl
@[simp] theorem State.modCtx_latched (s : State) (c : Nat) (f : Ctx → Ctx) : (s.modCtx c f).latched = s.latched := rfl
@[simp] theorem State.modCtx_agenda (s : State) (c : Nat) (f : Ctx → Ctx) : (s.modCtx c f).agenda = s.agenda := rfl
@[simp] theorem State.modCtx_now (s : State) (c : Nat) (f : Ctx → Ctx) : (s.modCtx c f).now = s.now := rfl
@[simp] theorem State.modCtx_oracle (s : State) (c : Nat) (f : Ctx → Ctx) : (s.modCtx c f).oracle = s.oracle := rfl
@[simp] theorem State.modCtx_fresh (s : State) (c : Nat) (f : Ctx → Ctx) : (s.modCtx c f).fresh = s.fresh := rfl

/-! ## modGroup -/

@[simp] theorem State.modGroup_elems (s : State) (g : Nat) (f : Group → Group) : (s.modGroup g f).elems = s.elems := rfl
@[simp] theorem State.modGroup_regions (s : State) (g : Nat) (f : Group → Group) : (s.modGroup g f).regions = s.regions := rfl
@[simp] theorem State.modGroup_insts (s : State) (g : Nat) (f : Group → Group) : (s.modGroup g f).insts = s.insts := rfl
@[simp] theorem State.modGroup_graphs (s : State) (g : Nat) (f : Group → Group) : (s.modGroup g f).graphs = s.graphs := rfl
@[simp] theorem State.modGroup_resident (s : State) (g : Nat) (f : Group → Group) : (s.modGroup g f).resident = s.resident := rfl
@[simp] theorem State.modGroup_refusals (s : State) (g : Nat) (f : Group → Group) : (s.modGroup g f).refusals = s.refusals := rfl
@[simp] theorem State.modGroup_mirror (s : State) (g : Nat) (f : Group → Group) : (s.modGroup g f).mirror = s.mirror := rfl
@[simp] theorem State.modGroup_ctxs (s : State) (g : Nat) (f : Group → Group) : (s.modGroup g f).ctxs = s.ctxs := rfl
@[simp] theorem State.modGroup_pendLaunch (s : State) (g : Nat) (f : Group → Group) : (s.modGroup g f).pendLaunch = s.pendLaunch := rfl
@[simp] theorem State.modGroup_launchNo (s : State) (g : Nat) (f : Group → Group) : (s.modGroup g f).launchNo = s.launchNo := rfl
@[simp] theorem State.modGroup_rrob (s : State) (g : Nat) (f : Group → Group) : (s.modGroup g f).rrob = s.rrob := rfl
@[simp] theorem State.modGroup_queues (s : State) (g : Nat) (f : Group → Group) : (s.modGroup g f).queues = s.queues := rfl
@[simp] theorem State.modGroup_rings (s : State) (g : Nat) (f : Group → Group) : (s.modGroup g f).rings = s.rings := rfl
@[simp] theorem State.modGroup_mail (s : State) (g : Nat) (f : Group → Group) : (s.modGroup g f).mail = s.mail := rfl
@[simp] theorem State.modGroup_xreg (s : State) (g : Nat) (f : Group → Group) : (s.modGroup g f).xreg = s.xreg := rfl
@[simp] theorem State.modGroup_sched (s : State) (g : Nat) (f : Group → Group) : (s.modGroup g f).sched = s.sched := rfl
@[simp] theorem State.modGroup_errRecs (s : State) (g : Nat) (f : Group → Group) : (s.modGroup g f).errRecs = s.errRecs := rfl
@[simp] theorem State.modGroup_errCnt (s : State) (g : Nat) (f : Group → Group) : (s.modGroup g f).errCnt = s.errCnt := rfl
@[simp] theorem State.modGroup_fw (s : State) (g : Nat) (f : Group → Group) : (s.modGroup g f).fw = s.fw := rfl
@[simp] theorem State.modGroup_life (s : State) (g : Nat) (f : Group → Group) : (s.modGroup g f).life = s.life := rfl
@[simp] theorem State.modGroup_lifePend (s : State) (g : Nat) (f : Group → Group) : (s.modGroup g f).lifePend = s.lifePend := rfl
@[simp] theorem State.modGroup_naddr (s : State) (g : Nat) (f : Group → Group) : (s.modGroup g f).naddr = s.naddr := rfl
@[simp] theorem State.modGroup_colls (s : State) (g : Nat) (f : Group → Group) : (s.modGroup g f).colls = s.colls := rfl
@[simp] theorem State.modGroup_tiles (s : State) (g : Nat) (f : Group → Group) : (s.modGroup g f).tiles = s.tiles := rfl
@[simp] theorem State.modGroup_tileReqs (s : State) (g : Nat) (f : Group → Group) : (s.modGroup g f).tileReqs = s.tileReqs := rfl
@[simp] theorem State.modGroup_engines (s : State) (g : Nat) (f : Group → Group) : (s.modGroup g f).engines = s.engines := rfl
@[simp] theorem State.modGroup_ownerTab (s : State) (g : Nat) (f : Group → Group) : (s.modGroup g f).ownerTab = s.ownerTab := rfl
@[simp] theorem State.modGroup_clk (s : State) (g : Nat) (f : Group → Group) : (s.modGroup g f).clk = s.clk := rfl
@[simp] theorem State.modGroup_win (s : State) (g : Nat) (f : Group → Group) : (s.modGroup g f).win = s.win := rfl
@[simp] theorem State.modGroup_num (s : State) (g : Nat) (f : Group → Group) : (s.modGroup g f).num = s.num := rfl
@[simp] theorem State.modGroup_acq (s : State) (g : Nat) (f : Group → Group) : (s.modGroup g f).acq = s.acq := rfl
@[simp] theorem State.modGroup_stamps (s : State) (g : Nat) (f : Group → Group) : (s.modGroup g f).stamps = s.stamps := rfl
@[simp] theorem State.modGroup_fenced (s : State) (g : Nat) (f : Group → Group) : (s.modGroup g f).fenced = s.fenced := rfl
@[simp] theorem State.modGroup_downLinks (s : State) (g : Nat) (f : Group → Group) : (s.modGroup g f).downLinks = s.downLinks := rfl
@[simp] theorem State.modGroup_tlb (s : State) (g : Nat) (f : Group → Group) : (s.modGroup g f).tlb = s.tlb := rfl
@[simp] theorem State.modGroup_utlb (s : State) (g : Nat) (f : Group → Group) : (s.modGroup g f).utlb = s.utlb := rfl
@[simp] theorem State.modGroup_accs (s : State) (g : Nat) (f : Group → Group) : (s.modGroup g f).accs = s.accs := rfl
@[simp] theorem State.modGroup_holds (s : State) (g : Nat) (f : Group → Group) : (s.modGroup g f).holds = s.holds := rfl
@[simp] theorem State.modGroup_tape (s : State) (g : Nat) (f : Group → Group) : (s.modGroup g f).tape = s.tape := rfl
@[simp] theorem State.modGroup_journals (s : State) (g : Nat) (f : Group → Group) : (s.modGroup g f).journals = s.journals := rfl
@[simp] theorem State.modGroup_fronts (s : State) (g : Nat) (f : Group → Group) : (s.modGroup g f).fronts = s.fronts := rfl
@[simp] theorem State.modGroup_acted (s : State) (g : Nat) (f : Group → Group) : (s.modGroup g f).acted = s.acted := rfl
@[simp] theorem State.modGroup_copies (s : State) (g : Nat) (f : Group → Group) : (s.modGroup g f).copies = s.copies := rfl
@[simp] theorem State.modGroup_ringRels (s : State) (g : Nat) (f : Group → Group) : (s.modGroup g f).ringRels = s.ringRels := rfl
@[simp] theorem State.modGroup_wells (s : State) (g : Nat) (f : Group → Group) : (s.modGroup g f).wells = s.wells := rfl
@[simp] theorem State.modGroup_mem (s : State) (g : Nat) (f : Group → Group) : (s.modGroup g f).mem = s.mem := rfl
@[simp] theorem State.modGroup_stores (s : State) (g : Nat) (f : Group → Group) : (s.modGroup g f).stores = s.stores := rfl
@[simp] theorem State.modGroup_unspec (s : State) (g : Nat) (f : Group → Group) : (s.modGroup g f).unspec = s.unspec := rfl
@[simp] theorem State.modGroup_badLines (s : State) (g : Nat) (f : Group → Group) : (s.modGroup g f).badLines = s.badLines := rfl
@[simp] theorem State.modGroup_irqs (s : State) (g : Nat) (f : Group → Group) : (s.modGroup g f).irqs = s.irqs := rfl
@[simp] theorem State.modGroup_sent (s : State) (g : Nat) (f : Group → Group) : (s.modGroup g f).sent = s.sent := rfl
@[simp] theorem State.modGroup_cur (s : State) (g : Nat) (f : Group → Group) : (s.modGroup g f).cur = s.cur := rfl
@[simp] theorem State.modGroup_curSlot (s : State) (g : Nat) (f : Group → Group) : (s.modGroup g f).curSlot = s.curSlot := rfl
@[simp] theorem State.modGroup_curBeat (s : State) (g : Nat) (f : Group → Group) : (s.modGroup g f).curBeat = s.curBeat := rfl
@[simp] theorem State.modGroup_latched (s : State) (g : Nat) (f : Group → Group) : (s.modGroup g f).latched = s.latched := rfl
@[simp] theorem State.modGroup_agenda (s : State) (g : Nat) (f : Group → Group) : (s.modGroup g f).agenda = s.agenda := rfl
@[simp] theorem State.modGroup_now (s : State) (g : Nat) (f : Group → Group) : (s.modGroup g f).now = s.now := rfl
@[simp] theorem State.modGroup_oracle (s : State) (g : Nat) (f : Group → Group) : (s.modGroup g f).oracle = s.oracle := rfl
@[simp] theorem State.modGroup_fresh (s : State) (g : Nat) (f : Group → Group) : (s.modGroup g f).fresh = s.fresh := rfl

/-! ## modTile -/

@[simp] theorem State.modTile_elems (s : State) (t : Nat × Nat) (f : Tile → Tile) : (s.modTile t f).elems = s.elems := rfl
@[simp] theorem State.modTile_regions (s : State) (t : Nat × Nat) (f : Tile → Tile) : (s.modTile t f).regions = s.regions := rfl
@[simp] theorem State.modTile_insts (s : State) (t : Nat × Nat) (f : Tile → Tile) : (s.modTile t f).insts = s.insts := rfl
@[simp] theorem State.modTile_graphs (s : State) (t : Nat × Nat) (f : Tile → Tile) : (s.modTile t f).graphs = s.graphs := rfl
@[simp] theorem State.modTile_resident (s : State) (t : Nat × Nat) (f : Tile → Tile) : (s.modTile t f).resident = s.resident := rfl
@[simp] theorem State.modTile_refusals (s : State) (t : Nat × Nat) (f : Tile → Tile) : (s.modTile t f).refusals = s.refusals := rfl
@[simp] theorem State.modTile_mirror (s : State) (t : Nat × Nat) (f : Tile → Tile) : (s.modTile t f).mirror = s.mirror := rfl
@[simp] theorem State.modTile_ctxs (s : State) (t : Nat × Nat) (f : Tile → Tile) : (s.modTile t f).ctxs = s.ctxs := rfl
@[simp] theorem State.modTile_pendLaunch (s : State) (t : Nat × Nat) (f : Tile → Tile) : (s.modTile t f).pendLaunch = s.pendLaunch := rfl
@[simp] theorem State.modTile_launchNo (s : State) (t : Nat × Nat) (f : Tile → Tile) : (s.modTile t f).launchNo = s.launchNo := rfl
@[simp] theorem State.modTile_rrob (s : State) (t : Nat × Nat) (f : Tile → Tile) : (s.modTile t f).rrob = s.rrob := rfl
@[simp] theorem State.modTile_queues (s : State) (t : Nat × Nat) (f : Tile → Tile) : (s.modTile t f).queues = s.queues := rfl
@[simp] theorem State.modTile_rings (s : State) (t : Nat × Nat) (f : Tile → Tile) : (s.modTile t f).rings = s.rings := rfl
@[simp] theorem State.modTile_mail (s : State) (t : Nat × Nat) (f : Tile → Tile) : (s.modTile t f).mail = s.mail := rfl
@[simp] theorem State.modTile_xreg (s : State) (t : Nat × Nat) (f : Tile → Tile) : (s.modTile t f).xreg = s.xreg := rfl
@[simp] theorem State.modTile_sched (s : State) (t : Nat × Nat) (f : Tile → Tile) : (s.modTile t f).sched = s.sched := rfl
@[simp] theorem State.modTile_errRecs (s : State) (t : Nat × Nat) (f : Tile → Tile) : (s.modTile t f).errRecs = s.errRecs := rfl
@[simp] theorem State.modTile_errCnt (s : State) (t : Nat × Nat) (f : Tile → Tile) : (s.modTile t f).errCnt = s.errCnt := rfl
@[simp] theorem State.modTile_fw (s : State) (t : Nat × Nat) (f : Tile → Tile) : (s.modTile t f).fw = s.fw := rfl
@[simp] theorem State.modTile_life (s : State) (t : Nat × Nat) (f : Tile → Tile) : (s.modTile t f).life = s.life := rfl
@[simp] theorem State.modTile_lifePend (s : State) (t : Nat × Nat) (f : Tile → Tile) : (s.modTile t f).lifePend = s.lifePend := rfl
@[simp] theorem State.modTile_naddr (s : State) (t : Nat × Nat) (f : Tile → Tile) : (s.modTile t f).naddr = s.naddr := rfl
@[simp] theorem State.modTile_groups (s : State) (t : Nat × Nat) (f : Tile → Tile) : (s.modTile t f).groups = s.groups := rfl
@[simp] theorem State.modTile_colls (s : State) (t : Nat × Nat) (f : Tile → Tile) : (s.modTile t f).colls = s.colls := rfl
@[simp] theorem State.modTile_tileReqs (s : State) (t : Nat × Nat) (f : Tile → Tile) : (s.modTile t f).tileReqs = s.tileReqs := rfl
@[simp] theorem State.modTile_engines (s : State) (t : Nat × Nat) (f : Tile → Tile) : (s.modTile t f).engines = s.engines := rfl
@[simp] theorem State.modTile_ownerTab (s : State) (t : Nat × Nat) (f : Tile → Tile) : (s.modTile t f).ownerTab = s.ownerTab := rfl
@[simp] theorem State.modTile_clk (s : State) (t : Nat × Nat) (f : Tile → Tile) : (s.modTile t f).clk = s.clk := rfl
@[simp] theorem State.modTile_win (s : State) (t : Nat × Nat) (f : Tile → Tile) : (s.modTile t f).win = s.win := rfl
@[simp] theorem State.modTile_num (s : State) (t : Nat × Nat) (f : Tile → Tile) : (s.modTile t f).num = s.num := rfl
@[simp] theorem State.modTile_acq (s : State) (t : Nat × Nat) (f : Tile → Tile) : (s.modTile t f).acq = s.acq := rfl
@[simp] theorem State.modTile_stamps (s : State) (t : Nat × Nat) (f : Tile → Tile) : (s.modTile t f).stamps = s.stamps := rfl
@[simp] theorem State.modTile_fenced (s : State) (t : Nat × Nat) (f : Tile → Tile) : (s.modTile t f).fenced = s.fenced := rfl
@[simp] theorem State.modTile_downLinks (s : State) (t : Nat × Nat) (f : Tile → Tile) : (s.modTile t f).downLinks = s.downLinks := rfl
@[simp] theorem State.modTile_tlb (s : State) (t : Nat × Nat) (f : Tile → Tile) : (s.modTile t f).tlb = s.tlb := rfl
@[simp] theorem State.modTile_utlb (s : State) (t : Nat × Nat) (f : Tile → Tile) : (s.modTile t f).utlb = s.utlb := rfl
@[simp] theorem State.modTile_accs (s : State) (t : Nat × Nat) (f : Tile → Tile) : (s.modTile t f).accs = s.accs := rfl
@[simp] theorem State.modTile_holds (s : State) (t : Nat × Nat) (f : Tile → Tile) : (s.modTile t f).holds = s.holds := rfl
@[simp] theorem State.modTile_tape (s : State) (t : Nat × Nat) (f : Tile → Tile) : (s.modTile t f).tape = s.tape := rfl
@[simp] theorem State.modTile_journals (s : State) (t : Nat × Nat) (f : Tile → Tile) : (s.modTile t f).journals = s.journals := rfl
@[simp] theorem State.modTile_fronts (s : State) (t : Nat × Nat) (f : Tile → Tile) : (s.modTile t f).fronts = s.fronts := rfl
@[simp] theorem State.modTile_acted (s : State) (t : Nat × Nat) (f : Tile → Tile) : (s.modTile t f).acted = s.acted := rfl
@[simp] theorem State.modTile_copies (s : State) (t : Nat × Nat) (f : Tile → Tile) : (s.modTile t f).copies = s.copies := rfl
@[simp] theorem State.modTile_ringRels (s : State) (t : Nat × Nat) (f : Tile → Tile) : (s.modTile t f).ringRels = s.ringRels := rfl
@[simp] theorem State.modTile_wells (s : State) (t : Nat × Nat) (f : Tile → Tile) : (s.modTile t f).wells = s.wells := rfl
@[simp] theorem State.modTile_mem (s : State) (t : Nat × Nat) (f : Tile → Tile) : (s.modTile t f).mem = s.mem := rfl
@[simp] theorem State.modTile_stores (s : State) (t : Nat × Nat) (f : Tile → Tile) : (s.modTile t f).stores = s.stores := rfl
@[simp] theorem State.modTile_unspec (s : State) (t : Nat × Nat) (f : Tile → Tile) : (s.modTile t f).unspec = s.unspec := rfl
@[simp] theorem State.modTile_badLines (s : State) (t : Nat × Nat) (f : Tile → Tile) : (s.modTile t f).badLines = s.badLines := rfl
@[simp] theorem State.modTile_irqs (s : State) (t : Nat × Nat) (f : Tile → Tile) : (s.modTile t f).irqs = s.irqs := rfl
@[simp] theorem State.modTile_sent (s : State) (t : Nat × Nat) (f : Tile → Tile) : (s.modTile t f).sent = s.sent := rfl
@[simp] theorem State.modTile_cur (s : State) (t : Nat × Nat) (f : Tile → Tile) : (s.modTile t f).cur = s.cur := rfl
@[simp] theorem State.modTile_curSlot (s : State) (t : Nat × Nat) (f : Tile → Tile) : (s.modTile t f).curSlot = s.curSlot := rfl
@[simp] theorem State.modTile_curBeat (s : State) (t : Nat × Nat) (f : Tile → Tile) : (s.modTile t f).curBeat = s.curBeat := rfl
@[simp] theorem State.modTile_latched (s : State) (t : Nat × Nat) (f : Tile → Tile) : (s.modTile t f).latched = s.latched := rfl
@[simp] theorem State.modTile_agenda (s : State) (t : Nat × Nat) (f : Tile → Tile) : (s.modTile t f).agenda = s.agenda := rfl
@[simp] theorem State.modTile_now (s : State) (t : Nat × Nat) (f : Tile → Tile) : (s.modTile t f).now = s.now := rfl
@[simp] theorem State.modTile_oracle (s : State) (t : Nat × Nat) (f : Tile → Tile) : (s.modTile t f).oracle = s.oracle := rfl
@[simp] theorem State.modTile_fresh (s : State) (t : Nat × Nat) (f : Tile → Tile) : (s.modTile t f).fresh = s.fresh := rfl

/-! ## Reading back -/

theorem State.elem_setElem (s : State) (e a : ERef) (x : Elem) : (s.setElem e x).elem a = if e = a then x else s.elem a := by
  simp [State.elem, State.setElem, kget_kset]

@[simp] theorem State.elem_setElem_self (s : State) (e : ERef) (x : Elem) : (s.setElem e x).elem e = x := by
  simp [State.elem_setElem]

@[simp] theorem State.setElem_setElem (s : State) (e : ERef) (x y : Elem) : (s.setElem e x).setElem e y = s.setElem e y := by
  simp [State.setElem]

theorem State.modElem_eq (s : State) (e : ERef) (f : Elem → Elem) : s.modElem e f = s.setElem e (f (s.elem e)) := rfl

@[simp] theorem State.elem_modElem_self (s : State) (e : ERef) (f : Elem → Elem) : (s.modElem e f).elem e = f (s.elem e) := by
  simp [State.modElem]

theorem State.elem_modElem_ne (s : State) {e a : ERef} (f : Elem → Elem) (h : e ≠ a) : (s.modElem e f).elem a = s.elem a := by
  simp [State.modElem, State.elem_setElem, h]

theorem State.inst_modInst (s : State) (i a : Nat) (f : StageInst → StageInst) :
    (s.modInst i f).inst a = if i = a then f (s.inst i) else s.inst a := by
  simp [State.inst, State.modInst, kget_kset]

theorem State.region_modRegion (s : State) (r a : RRef) (f : Region → Region) :
    (s.modRegion r f).region a = if r = a then f (s.region r) else s.region a := by
  simp [State.region, State.modRegion, kget_kset]

theorem State.graph_modGraph (s : State) (g a : Nat) (f : GraphInst → GraphInst) :
    (s.modGraph g f).graph a = if g = a then f (s.graph g) else s.graph a := by
  simp [State.graph, State.modGraph, kget_kset]

theorem State.ctx_modCtx (s : State) (c a : Nat) (f : Ctx → Ctx) :
    (s.modCtx c f).ctx a = if c = a then f (s.ctx c) else s.ctx a := by
  simp [State.ctx, State.modCtx, kget_kset]

theorem State.group_modGroup (s : State) (g a : Nat) (f : Group → Group) :
    (s.modGroup g f).group a = if g = a then f (s.group g) else s.group a := by
  simp [State.group, State.modGroup, kget_kset]

theorem State.tile_modTile (s : State) (t a : Nat × Nat) (f : Tile → Tile) :
    (s.modTile t f).tile a = if t = a then f (s.tile t) else s.tile a := by
  simp [State.tile, State.modTile, kget_kset]

@[simp] theorem State.inst_setElem (s : State) (e : ERef) (x : Elem) (i : Nat) : (s.setElem e x).inst i = s.inst i := rfl
@[simp] theorem State.elem_modInst (s : State) (i : Nat) (f : StageInst → StageInst) (e : ERef) :
    (s.modInst i f).elem e = s.elem e := rfl
@[simp] theorem State.elem_modRegion (s : State) (r : RRef) (f : Region → Region) (e : ERef) :
    (s.modRegion r f).elem e = s.elem e := rfl
@[simp] theorem State.elem_modGraph (s : State) (g : Nat) (f : GraphInst → GraphInst) (e : ERef) :
    (s.modGraph g f).elem e = s.elem e := rfl

end Sys2Proof.Machine
end

