-- ==== Sys2Proof/Laws/Memory.lean ====
section
/-! SUPPORT. Every operation over memory keeps its canonical form, and a read after a write gives what was written (log 2). -/

namespace Sys2Proof.Machine

/-- A key below every listed one is not listed. -/
theorem memGet_of_lt {m : List (Nat × Byte)} {k : Nat} (h : ∀ p ∈ m, k < p.1) : memGet m k = Memory.unlisted := by
  induction m with
  | nil => rfl
  | cons p m ih =>
    obtain ⟨j, w⟩ := p
    have hj : k < j := h (j, w) (by simp)
    simp only [memGet, kget, (Nat.ne_of_gt hj), if_false]
    exact ih fun p hp => h p (by simp [hp])

/-- The keys of a list after a byte is put are those before and the one put. -/
theorem mem_memPut {m : List (Nat × Byte)} {k : Nat} {v : Byte} {p : Nat × Byte} (h : p ∈ memPut m k v) :
    p ∈ m ∨ (p = (k, v) ∧ v ≠ Memory.unlisted) := by
  induction m with
  | nil => simp only [memPut] at h; split at h <;> simp_all
  | cons q m ih =>
    obtain ⟨j, w⟩ := q
    simp only [memPut] at h
    split at h
    · (split at h <;> simp_all); try tauto
    · split at h
      · (split at h <;> simp_all); try tauto
      · rcases List.mem_cons.mp h with h | h
        · exact Or.inl (by simp [h])
        · rcases ih h with h | h
          · exact Or.inl (by simp [h])
          · exact Or.inr h

theorem memPut_wf {m : List (Nat × Byte)} (k : Nat) (v : Byte) (h : Memory.wf m) : Memory.wf (memPut m k v) := by
  refine ⟨?_, fun p hp => ?_⟩
  · obtain ⟨hs, -⟩ := h
    induction m with
    | nil => simp only [memPut]; split <;> simp
    | cons q m ih =>
      obtain ⟨j, w⟩ := q
      obtain ⟨hq, hm⟩ := List.pairwise_cons.mp hs
      simp only [memPut]
      split
      · rename_i hkj
        split
        · exact hs
        · refine List.pairwise_cons.mpr ⟨fun p hp => ?_, hs⟩
          rcases List.mem_cons.mp hp with rfl | hp
          · exact hkj
          · exact Nat.lt_trans hkj (hq p hp)
      · split
        · rename_i hkj
          subst hkj
          split
          · exact hm
          · exact List.pairwise_cons.mpr ⟨hq, hm⟩
        · refine List.pairwise_cons.mpr ⟨fun p hp => ?_, ih hm⟩
          rcases mem_memPut hp with hp | ⟨rfl, -⟩
          · exact hq p hp
          · simp only; omega
  · rcases mem_memPut hp with hp | ⟨rfl, hv⟩
    · exact h.2 p hp
    · exact hv

/-- A read after a put: the byte put at its key, every other byte as before. -/
theorem memGet_memPut {m : List (Nat × Byte)} (k j : Nat) (v : Byte) (h : m.Pairwise (fun p q => p.1 < q.1)) :
    memGet (memPut m k v) j = if j = k then v else memGet m j := by
  induction m with
  | nil =>
    simp only [memPut]
    split
    · rename_i hv; simp only [memGet, kget, hv]; split <;> rfl
    · simp only [memGet, kget]; split <;> split <;> simp_all
  | cons q m ih =>
    obtain ⟨i, w⟩ := q
    obtain ⟨hq, hm⟩ := List.pairwise_cons.mp h
    simp only [memPut]
    split
    · rename_i hki
      split
      · rename_i hv
        split
        · rename_i hjk
          rw [hv, hjk]
          refine memGet_of_lt fun p hp => ?_
          rcases List.mem_cons.mp hp with rfl | hp
          · exact hki
          · exact Nat.lt_trans hki (hq p hp)
        · rfl
      · simp only [memGet, kget]
        by_cases hjk : j = k
        · simp [hjk]
        · simp [hjk, Ne.symm hjk]
    · split
      · rename_i hki
        subst hki
        split
        · rename_i hv
          split
          · rename_i hjk; rw [hv, hjk]; exact memGet_of_lt hq
          · rename_i hjk; simp [memGet, kget, Ne.symm hjk]
        · simp only [memGet, kget]
          by_cases hjk : j = k
          · simp [hjk]
          · simp [hjk, Ne.symm hjk]
      · rename_i hlt hne
        have := ih hm
        simp only [memGet] at this
        simp only [memGet, kget]
        by_cases hij : i = j
        · subst hij; simp [Ne.symm hne]
        · simp only [hij, if_false, this]

theorem memPutAll_wf (bs : List (Nat × Byte)) {m : List (Nat × Byte)} (h : Memory.wf m) : Memory.wf (memPutAll m bs) := by
  induction bs with
  | nil => exact h
  | cons p bs ih => exact memPut_wf p.1 p.2 ih

theorem memPuts_wf (bs : List Byte) : ∀ {m : List (Nat × Byte)} (k : Nat), Memory.wf m → Memory.wf (memPuts m k bs) := by
  induction bs with
  | nil => exact fun _ h => h
  | cons b bs ih => exact fun k h => ih (k + 1) (memPut_wf k b h)

/-- Bytes taken out of memory leave it in its form. -/
theorem filter_wf {m : List (Nat × Byte)} (t : Nat × Byte → Bool) (h : Memory.wf m) : Memory.wf (m.filter t) :=
  ⟨h.1.filter t, fun p hp => h.2 p (List.mem_filter.mp hp).1⟩

theorem memClear_wf {m : List (Nat × Byte)} (k n : Nat) (h : Memory.wf m) : Memory.wf (memClear m k n) := filter_wf _ h

theorem settleUnits_wf (bs : List (Nat × Byte)) (ps : List Pending) : ∀ {m : List (Nat × Byte)}, Memory.wf m → Memory.wf (settleUnits m ps bs) := by
  induction ps with
  | nil => exact id
  | cons p ps ih => exact fun h => ih (memPutAll_wf _ h)

theorem writeThrough_wf {s : State} (bs : List (Nat × Byte)) (h : Memory.wf s.mem) : Memory.wf (writeThrough s bs).mem :=
  memPutAll_wf bs (settleUnits_wf bs _ h)

@[simp] theorem storeAt_mem (s : State) (e : ERef) (die : Nat) (bs : List (Nat × Byte)) : (storeAt s e die bs).mem = s.mem := rfl

theorem widenOne_wf {s : State} (id : Nat) (sc : Scope) (h : Memory.wf s.mem) : Memory.wf (widenOne s id sc).mem := by
  unfold widenOne
  split
  · exact h
  · split
    · exact memPutAll_wf _ (settleUnits_wf _ _ h)
    · exact h

theorem widenWhere_wf {s : State} (t : Pending → Bool) (sc : Scope) (h : Memory.wf s.mem) :
    Memory.wf (widenWhere s t sc).mem := by
  unfold widenWhere
  generalize (s.stores.filter t).map Pending.id = ids
  induction ids generalizing s with
  | nil => exact h
  | cons i ids ih => exact ih (widenOne_wf i sc h)

theorem widenElem_wf {s : State} (e : ERef) (sc : Scope) (h : Memory.wf s.mem) : Memory.wf (widenElem s e sc).mem :=
  widenWhere_wf _ sc h

theorem widenInst_wf {s : State} (i : Nat) (sc : Scope) (h : Memory.wf s.mem) : Memory.wf (widenInst s i sc).mem :=
  widenWhere_wf _ sc h

theorem widenRegion_wf {s : State} (i r : Nat) (sc : Scope) (h : Memory.wf s.mem) : Memory.wf (widenRegion s i r sc).mem :=
  widenWhere_wf _ sc h

/-- A byte stored at every scope is read back by every agent. -/
theorem memGet_memPutAll_keyed_single {m : List (Nat × Byte)} (k j : Nat) (v : Byte) (h : Memory.wf m) :
    memGet (memPutAll m (keyed k [v])) j = if j = k then v else memGet m j := by
  simpa [memPutAll, keyed] using memGet_memPut k j v h.1

end Sys2Proof.Machine
end

