-- ==== Sys2Proof/Laws/Operands.lean ====
section
/-! SUPPORT. What the shared courses of an instruction do, once each: of the datapath, of a system operation, of an
instruction that waits (R41, R42, R146, R168, R341). Everything they can do is one of the lemmas here. -/

namespace Sys2Proof.Machine

/-- The output has no place: the datapath waits. -/
theorem datapath_full {s : State} {dst : BitVec 4} (sa sb : BitVec 4) (pa pb : Bool) (ot : BitVec 2) (pu : BitVec 4)
    (ps : BitVec 2) (f : Src → Res) (h : dstFull s.curElem dst = true) : datapath s dst sa sb pa pb ot pu ps f = hold s := by
  simp [datapath, h]

/-- A source's channel is empty: the datapath waits. -/
theorem datapath_empty {s : State} {dst sa sb : BitVec 4} {pa pb : Bool} (ot : BitVec 2) (pu : BitVec 4)
    (ps : BitVec 2) (f : Src → Res) (h : fetch s.curElem s.curTrig s.curCoord dst sa sb pa pb = .empty) :
    datapath s dst sa sb pa pb ot pu ps f = hold s := by
  simp [datapath, h]

/-- A marker at the head of a source that the guard does not name: trap 0x012. -/
theorem datapath_marker {s : State} {dst sa sb : BitVec 4} {pa pb : Bool} (ot : BitVec 2) (pu : BitVec 4)
    (ps : BitVec 2) (f : Src → Res) (hr : dstFull s.curElem dst = false)
    (h : fetch s.curElem s.curTrig s.curCoord dst sa sb pa pb = .marker) :
    datapath s dst sa sb pa pb ot pu ps f = trapCur s 0x012 0 0 := by
  simp [datapath, hr, h]

/-- The sources are read: the result is written. -/
theorem datapath_reads {s : State} {dst sa sb : BitVec 4} {pa pb : Bool} {src : Src} {popped : List (Nat × Token)} {x : Elem}
    (ot : BitVec 2) (pu : BitVec 4) (ps : BitVec 2) (f : Src → Res) (h : Reads s dst sa sb pa pb src popped x) :
    datapath s dst sa sb pa pb ot pu ps f = written (taken s x) s.cur s.curSlot s.curBeat ⟨dst, ot, pu, ps⟩ (f src) := by
  simp [datapath, h.room, h.got, written, taken, State.modElem]

theorem runA_reads {s : State} {g : FmtA} {src : Src} {popped : List (Nat × Token)} {x : Elem} (f : Src → Res)
    (h : ReadsA s g src popped x) :
    runA g s f = .next (written (taken s x) s.cur s.curSlot s.curBeat (sinkA g) (f src)) := by
  rw [runA, datapath_reads _ _ _ _ h]; rfl

theorem runI_reads {s : State} {g : FmtI} {src : Src} {popped : List (Nat × Token)} {x : Elem} (imm : Word) (f : Src → Res)
    (h : ReadsI s g src popped x) :
    runI g s imm f = .next (written (taken s x) s.cur s.curSlot s.curBeat (sinkI g) (f { src with b := imm, fb := false })) := by
  rw [runI, datapath_reads _ _ _ _ h]; rfl

theorem runK_reads {s : State} {g : FmtK} {src : Src} {popped : List (Nat × Token)} {x : Elem} (f : Src → Res)
    (h : ReadsK s g src popped x) :
    runK g.dst s f = .next (written (taken s x) s.cur s.curSlot s.curBeat (sinkK g) (f src)) := by
  rw [runK, datapath_reads _ _ _ _ h]; rfl

/-- A system operation whose work answers a result. -/
theorem systemOp_reads {s t : State} {dst sa sb : BitVec 4} {pa pb : Bool} {src : Src} {popped : List (Nat × Token)}
    {x : Elem} {r : Res} (ot : BitVec 2) (pu : BitVec 4) (ps : BitVec 2)
    {f : Src → State → Except Stop (Res × State)} (h : Reads s dst sa sb pa pb src popped x)
    (hf : f src (taken s x) = .ok (r, t)) :
    systemOp s dst sa sb pa pb ot pu ps f = written t s.cur s.curSlot s.curBeat ⟨dst, ot, pu, ps⟩ r := by
  unfold systemOp
  simp only [h.room, h.got, Bool.false_eq_true, if_false]
  rw [show s.setElem s.cur x = taken s x from rfl, hf]
  rfl

/-- A system operation whose work traps: the pops are undone, since the trap is precise (R341). -/
theorem systemOp_trap {s : State} {dst sa sb : BitVec 4} {pa pb : Bool} {src : Src} {popped : List (Nat × Token)}
    {x : Elem} {c a : Nat} {i j : Word} (ot : BitVec 2) (pu : BitVec 4) (ps : BitVec 2)
    {f : Src → State → Except Stop (Res × State)} (h : Reads s dst sa sb pa pb src popped x)
    (hf : f src (taken s x) = .error (.trap c a i j)) :
    systemOp s dst sa sb pa pb ot pu ps f = trapAt s s.cur s.curSlot c 0 a i j := by
  unfold systemOp
  simp only [h.room, h.got, Bool.false_eq_true, if_false]
  rw [show s.setElem s.cur x = taken s x from rfl, hf]

theorem runS_reads {s t : State} {g : FmtS} {src : Src} {popped : List (Nat × Token)} {x : Elem} {r : Res}
    {f : Src → State → Except Stop (Res × State)} (h : ReadsS s g src popped x) (hf : f src (taken s x) = .ok (r, t)) :
    runS g s f = .next (written t s.cur s.curSlot s.curBeat ⟨g.dst, g.ot, g.pu, g.ps⟩ r) := by
  rw [runS, systemOp_reads _ _ _ h hf]

theorem runY_reads {s t : State} {g : FmtY} {src : Src} {popped : List (Nat × Token)} {x : Elem} {r : Res}
    {f : Src → State → Except Stop (Res × State)} (h : ReadsY s g src popped x) (hf : f src (taken s x) = .ok (r, t)) :
    runY g s f = .next (written t s.cur s.curSlot s.curBeat ⟨g.dst, 0, g.pu, g.ps⟩ r) := by
  rw [runY, systemOp_reads _ _ _ h hf]

theorem newWork_ok {α : Type} {r : Req} {f : State → Except Stop (α × State)} {s t : State} {a : α} (h : f s = .ok (a, t)) :
    newWork r f s = .ok (a, t) := by simp [newWork, h]

theorem newWork_wait {α : Type} {r : Req} {f : State → Except Stop (α × State)} {s : State} (h : f s = .error .wait) :
    newWork r f s = .error .wait := by simp [newWork, h]

theorem newWork_trap {α : Type} {r : Req} {f : State → Except Stop (α × State)} {s : State} {c a : Nat} {i j : Word}
    (h : f s = .error (.trap c a i j)) : newWork r f s = .error (.trap c a i j) := by simp [newWork, h]

/-- Work that no hold has interrupted runs from its beginning. -/
theorem workOf_new {α : Type} {r : Req} (f : State → Except Stop (α × State)) {s : State} (h : khas s.journals r = false) :
    workOf r f s = newWork r f s := by simp [workOf, h]

/-- An instruction whose work ends as it issues. -/
theorem issueWork_ok {w : Wait} {e : ERef} (k : Sink) {f : Work} {s t : State} {r : Res}
    (hf : f ⟨e, w.slot, w.src⟩ s = .ok (r, t)) : issueWork w e k f s = written (commandRelease w.ins e t) e w.slot w.beat k r := by
  rw [issueWork, newWork_ok hf]; rfl

/-- An instruction whose condition does not hold yet: the datapath stays occupied. -/
theorem issueWork_wait {w : Wait} {e : ERef} (k : Sink) {f : Work} {s : State} (hf : f ⟨e, w.slot, w.src⟩ s = .error .wait) :
    issueWork w e k f s = s.modElem e (fun y => { y with dp := .work w }) := by
  rw [issueWork, newWork_wait hf]; rfl

/-- An instruction that traps as it issues: what it popped stands again, and the element stops (R341). -/
theorem issueWork_trap {w : Wait} {e : ERef} (k : Sink) {f : Work} {s : State} {c a : Nat} {i j : Word}
    (hf : f ⟨e, w.slot, w.src⟩ s = .error (.trap c a i j)) :
    issueWork w e k f s =
      trapAt (s.modElem e (fun y => w.popped.reverse.foldl (fun y p => y.unpop p.1 p.2) y)) e w.slot c 0 a i j := by
  rw [issueWork, newWork_trap hf]; rfl

/-- The work of a waiting instruction goes on only while its output channel has a place (R35). -/
theorem settle_full {w : Wait} {e : ERef} {k : Sink} {f : Work} {s : State} (h : dstFull (s.elem e) k.dst = true) :
    settle w e k f s = s := by simp [settle, h]

/-- The work of a waiting instruction ends; no hold has interrupted it. -/
theorem settle_ok {w : Wait} {e : ERef} (k : Sink) {f : Work} {s t : State} {r : Res} (hk : dstFull (s.elem e) k.dst = false)
    (hj : khas s.journals (.element e) = false) (hf : f ⟨e, w.slot, w.src⟩ s = .ok (r, t)) :
    settle w e k f s = written (commandRelease w.ins e t) e w.slot w.beat k r := by
  simp only [settle, hk, workOf_new _ hj, newWork_ok hf]; rfl

theorem waiting_reads {s t : State} {ins : Instr} {sa sb : BitVec 4} {pa pb : Bool} {k : Sink} {src : Src}
    {popped : List (Nat × Token)} {x : Elem} {r : Res} {f : Work} (h : Reads s k.dst sa sb pa pb src popped x)
    (hf : f (curJob s src) (taken s x) = .ok (r, t)) :
    waiting s ins sa sb pa pb k f = concluded s ins t k r := by
  unfold waiting
  simp only [h.room, h.got, Bool.false_eq_true, if_false]
  exact issueWork_ok k hf

theorem runM_reads {s t : State} {g : FmtM} {ins : Instr} {src : Src} {popped : List (Nat × Token)} {x : Elem} {r : Res}
    {k : Sink} {f : Work} (h : Reads s k.dst g.sa g.sb (bit g.mod 1) (bit g.mod 0) src popped x)
    (hf : f (curJob s src) (taken s x) = .ok (r, t)) :
    runM g ins s k f = .next (concluded s ins t k r) := by
  rw [runM, waiting_reads h hf]

theorem runE_reads {s t : State} {g : FmtE} {ins : Instr} {src : Src} {popped : List (Nat × Token)} {x : Elem} {r : Res}
    {f : Work} (h : ReadsE s g src popped x) (hf : f (curJob s src) (taken s x) = .ok (r, t)) :
    runE g ins s f = .next (concluded s ins t (sinkE g) r) := by
  rw [runE, waiting_reads (k := sinkE g) h hf]

/-! ## What a write-back leaves alone -/

@[simp] theorem release_mem (s : State) (x : Nat) : (release s x).2.mem = s.mem := rfl

@[simp] theorem commandRelease_mem (i : Instr) (e : ERef) (s : State) : (commandRelease i e s).mem = s.mem := by
  unfold commandRelease
  split <;> rfl

@[simp] theorem commandRelease_stores (i : Instr) (e : ERef) (s : State) : (commandRelease i e s).stores = s.stores := by
  unfold commandRelease
  split <;> rfl

@[simp] theorem commandRelease_elem (i : Instr) (e a : ERef) (s : State) : (commandRelease i e s).elem a = s.elem a := by
  unfold commandRelease
  split <;> rfl

@[simp] theorem outRelease_mem (s : State) (e : ERef) (dst : BitVec 4) : (outRelease s e dst).mem = s.mem := by
  unfold outRelease
  split
  · rfl
  · split <;> rfl

@[simp] theorem written_mem (t : State) (e : ERef) (slot beat : Nat) (k : Sink) (r : Res) :
    (written t e slot beat k r).mem = t.mem := by simp [written, State.modElem]

@[simp] theorem concluded_mem (s : State) (i : Instr) (t : State) (k : Sink) (r : Res) : (concluded s i t k r).mem = t.mem := by
  simp [concluded]

@[simp] theorem countFault_mem (s : State) (cause : Nat) : (countFault s cause).mem = s.mem := rfl

@[simp] theorem noteFault_mem (s : State) (cause : Nat) (i j : Word) : (noteFault s cause i j).mem = s.mem := by
  unfold noteFault
  dsimp only
  split <;> rfl

@[simp] theorem raiseFault_mem (s : State) (g : Nat) (f : FaultRec) : (raiseFault s g f).mem = s.mem := by
  simp [raiseFault]

@[simp] theorem trapAt_mem (s : State) (e : ERef) (slot cause : Nat) (h : Word) (a : Nat) (i j : Word) :
    (trapAt s e slot cause h a i j).mem = s.mem := by simp [trapAt, State.modElem]

@[simp] theorem asyncFault_mem (s : State) (e : ERef) (slot eng cause : Nat) (h : Word) (a : Nat) (i j : Word) :
    (asyncFault s e slot eng cause h a i j).mem = s.mem := by simp [asyncFault]

@[simp] theorem hold_mem (s : State) : (hold s).mem = s.mem := rfl

@[simp] theorem datapath_mem (s : State) (dst sa sb : BitVec 4) (pa pb : Bool) (ot : BitVec 2) (pu : BitVec 4)
    (ps : BitVec 2) (f : Src → Res) : (datapath s dst sa sb pa pb ot pu ps f).mem = s.mem := by
  dsimp only [datapath]
  split
  · rfl
  · split <;> simp [trapCur]

end Sys2Proof.Machine
end

