-- ==== Sys2Proof/Laws/PerInstr.lean ====
section
/-! SUPPORT. Per instruction: the word the encoder writes gives back the trigger, the opcode and the fields (spec/03 R44 to R52). -/

namespace Sys2Proof

/-! ## The fields of a word -/

theorem opOf_word (t : BitVec 34) (o : BitVec 8) (a : BitVec 22) : opOf (t ++ o ++ a) = o := by
  apply BitVec.eq_of_getLsbD_eq
  intro i hi
  simp only [opOf, BitVec.getLsbD_extractLsb', BitVec.getLsbD_append, hi, decide_true, Bool.true_and]
  rw [if_neg (by omega), if_pos (by omega)]
  congr 1; omega

theorem FmtA_ofWord_word (t : BitVec 34) (o : BitVec 8) (f : FmtA) : FmtA.ofWord (t ++ o ++ f.toBits) = f := by
  obtain ⟨d, a, b, p, q, o2, m⟩ := f
  simp only [FmtA.ofWord, FmtA.toBits, FmtA.mk.injEq]
  refine ⟨?_, ?_, ?_, ?_, ?_, ?_, ?_⟩ <;>
  · apply BitVec.eq_of_getLsbD_eq
    intro i hi
    simp (disch := omega) only [BitVec.getLsbD_extractLsb', BitVec.getLsbD_append, hi, decide_true, Bool.true_and, if_pos, if_neg]
    congr 1; omega

theorem FmtI_ofWord_word (t : BitVec 34) (o : BitVec 8) (f : FmtI) : FmtI.ofWord (t ++ o ++ f.toBits) = f := by
  obtain ⟨d, a, m⟩ := f
  simp only [FmtI.ofWord, FmtI.toBits, FmtI.mk.injEq]
  refine ⟨?_, ?_, ?_⟩ <;>
  · apply BitVec.eq_of_getLsbD_eq
    intro i hi
    simp (disch := omega) only [BitVec.getLsbD_extractLsb', BitVec.getLsbD_append, hi, decide_true, Bool.true_and, if_pos, if_neg]
    congr 1; omega

theorem FmtK_ofWord_word (t : BitVec 34) (o : BitVec 8) (f : FmtK) : FmtK.ofWord (t ++ o ++ f.toBits) = f := by
  obtain ⟨d, h, m⟩ := f
  simp only [FmtK.ofWord, FmtK.toBits, FmtK.mk.injEq]
  refine ⟨?_, ?_, ?_⟩ <;>
  · apply BitVec.eq_of_getLsbD_eq
    intro i hi
    simp (disch := omega) only [BitVec.getLsbD_extractLsb', BitVec.getLsbD_append, hi, decide_true, Bool.true_and, if_pos, if_neg]
    congr 1; omega

theorem FmtM_ofWord_word (t : BitVec 34) (o : BitVec 8) (f : FmtM) : FmtM.ofWord (t ++ o ++ f.toBits) = f := by
  obtain ⟨d, a, b, p, z, x, o2, m⟩ := f
  simp only [FmtM.ofWord, FmtM.toBits, FmtM.mk.injEq]
  refine ⟨?_, ?_, ?_, ?_, ?_, ?_, ?_, ?_⟩ <;>
  · apply BitVec.eq_of_getLsbD_eq
    intro i hi
    simp (disch := omega) only [BitVec.getLsbD_extractLsb', BitVec.getLsbD_append, hi, decide_true, Bool.true_and, if_pos, if_neg]
    congr 1; omega

theorem FmtE_ofWord_word (t : BitVec 34) (o : BitVec 8) (f : FmtE) : FmtE.ofWord (t ++ o ++ f.toBits) = f := by
  obtain ⟨d, a, b, n⟩ := f
  simp only [FmtE.ofWord, FmtE.toBits, FmtE.mk.injEq]
  refine ⟨?_, ?_, ?_, ?_⟩ <;>
  · apply BitVec.eq_of_getLsbD_eq
    intro i hi
    simp (disch := omega) only [BitVec.getLsbD_extractLsb', BitVec.getLsbD_append, hi, decide_true, Bool.true_and, if_pos, if_neg]
    congr 1; omega

theorem FmtS_ofWord_word (t : BitVec 34) (o : BitVec 8) (f : FmtS) : FmtS.ofWord (t ++ o ++ f.toBits) = f := by
  obtain ⟨d, a, l, p, q, o2, m⟩ := f
  simp only [FmtS.ofWord, FmtS.toBits, FmtS.mk.injEq]
  refine ⟨?_, ?_, ?_, ?_, ?_, ?_, ?_⟩ <;>
  · apply BitVec.eq_of_getLsbD_eq
    intro i hi
    simp (disch := omega) only [BitVec.getLsbD_extractLsb', BitVec.getLsbD_append, hi, decide_true, Bool.true_and, if_pos, if_neg]
    congr 1; omega

theorem FmtY_ofWord_word (t : BitVec 34) (o : BitVec 8) (f : FmtY) : FmtY.ofWord (t ++ o ++ f.toBits) = f := by
  obtain ⟨d, a, x, p, q⟩ := f
  simp only [FmtY.ofWord, FmtY.toBits, FmtY.mk.injEq]
  refine ⟨?_, ?_, ?_, ?_, ?_⟩ <;>
  · apply BitVec.eq_of_getLsbD_eq
    intro i hi
    simp (disch := omega) only [BitVec.getLsbD_extractLsb', BitVec.getLsbD_append, hi, decide_true, Bool.true_and, if_pos, if_neg]
    congr 1; omega

theorem Trigger_ofWord_word (t : Trigger) (o : BitVec 8) (x : BitVec 22) : Trigger.ofWord (t.toBits ++ o ++ x) = t := by
  obtain ⟨a, b, c, d, e, f, g, h, i2, j⟩ := t
  simp only [Trigger.ofWord, Trigger.toBits, Trigger.mk.injEq]
  refine ⟨?_, ?_, ?_, ?_, ?_, ?_, ?_, ?_, ?_, ?_⟩ <;>
  · apply BitVec.eq_of_getLsbD_eq
    intro i hi
    simp (disch := omega) only [BitVec.getLsbD_extractLsb', BitVec.getLsbD_append, hi, decide_true, Bool.true_and, if_pos, if_neg]
    congr 1; omega

/-! ## One lemma for each instruction -/

/-- An instruction's word, under any trigger, gives back the instruction and the trigger; a step that no word encodes has no
opcode. -/
def Laws.Encoding.Statement (i : Instr) : Prop :=
  ∀ (t : Trigger) (op : BitVec 8), i.opcode = some op →
    opOf (encode t i) = op ∧ Instr.ofOp op.toNat (encode t i) = some i ∧ Trigger.ofWord (encode t i) = t

/-- The word of an instruction, by its opcode and fields. -/
theorem encoding_of {i : Instr} (o : BitVec 8) (b : BitVec 22) (ho : i.opcode = some o) (hb : i.action = b)
    (h : ∀ t : BitVec 34, Instr.ofOp o.toNat (t ++ o ++ b) = some i) : Laws.Encoding.Statement i := by
  intro t op hop
  obtain rfl : o = op := Option.some.inj (ho.symm.trans hop)
  subst hb
  simp only [encode, ho, Option.getD_some]
  exact ⟨opOf_word _ _ _, h _, Trigger_ofWord_word _ _ _⟩

theorem Laws.Encoding.add (f : FmtA) : Laws.Encoding.Statement (.add f) :=
  encoding_of 0x00 f.toBits rfl rfl fun t => congrArg (fun x => some (Instr.add x)) (FmtA_ofWord_word t 0x00 f)

theorem Laws.Encoding.sub (f : FmtA) : Laws.Encoding.Statement (.sub f) :=
  encoding_of 0x01 f.toBits rfl rfl fun t => congrArg (fun x => some (Instr.sub x)) (FmtA_ofWord_word t 0x01 f)

theorem Laws.Encoding.mul (f : FmtA) : Laws.Encoding.Statement (.mul f) :=
  encoding_of 0x02 f.toBits rfl rfl fun t => congrArg (fun x => some (Instr.mul x)) (FmtA_ofWord_word t 0x02 f)

theorem Laws.Encoding.mulh (f : FmtA) : Laws.Encoding.Statement (.mulh f) :=
  encoding_of 0x03 f.toBits rfl rfl fun t => congrArg (fun x => some (Instr.mulh x)) (FmtA_ofWord_word t 0x03 f)

theorem Laws.Encoding.mulhu (f : FmtA) : Laws.Encoding.Statement (.mulhu f) :=
  encoding_of 0x04 f.toBits rfl rfl fun t => congrArg (fun x => some (Instr.mulhu x)) (FmtA_ofWord_word t 0x04 f)

theorem Laws.Encoding.or (f : FmtA) : Laws.Encoding.Statement (.or f) :=
  encoding_of 0x05 f.toBits rfl rfl fun t => congrArg (fun x => some (Instr.or x)) (FmtA_ofWord_word t 0x05 f)

theorem Laws.Encoding.and (f : FmtA) : Laws.Encoding.Statement (.and f) :=
  encoding_of 0x06 f.toBits rfl rfl fun t => congrArg (fun x => some (Instr.and x)) (FmtA_ofWord_word t 0x06 f)

theorem Laws.Encoding.xor (f : FmtA) : Laws.Encoding.Statement (.xor f) :=
  encoding_of 0x07 f.toBits rfl rfl fun t => congrArg (fun x => some (Instr.xor x)) (FmtA_ofWord_word t 0x07 f)

theorem Laws.Encoding.andn (f : FmtA) : Laws.Encoding.Statement (.andn f) :=
  encoding_of 0x08 f.toBits rfl rfl fun t => congrArg (fun x => some (Instr.andn x)) (FmtA_ofWord_word t 0x08 f)

theorem Laws.Encoding.shl (f : FmtA) : Laws.Encoding.Statement (.shl f) :=
  encoding_of 0x09 f.toBits rfl rfl fun t => congrArg (fun x => some (Instr.shl x)) (FmtA_ofWord_word t 0x09 f)

theorem Laws.Encoding.shr (f : FmtA) : Laws.Encoding.Statement (.shr f) :=
  encoding_of 0x0A f.toBits rfl rfl fun t => congrArg (fun x => some (Instr.shr x)) (FmtA_ofWord_word t 0x0A f)

theorem Laws.Encoding.sra (f : FmtA) : Laws.Encoding.Statement (.sra f) :=
  encoding_of 0x0B f.toBits rfl rfl fun t => congrArg (fun x => some (Instr.sra x)) (FmtA_ofWord_word t 0x0B f)

theorem Laws.Encoding.min (f : FmtA) : Laws.Encoding.Statement (.min f) :=
  encoding_of 0x0C f.toBits rfl rfl fun t => congrArg (fun x => some (Instr.min x)) (FmtA_ofWord_word t 0x0C f)

theorem Laws.Encoding.max (f : FmtA) : Laws.Encoding.Statement (.max f) :=
  encoding_of 0x0D f.toBits rfl rfl fun t => congrArg (fun x => some (Instr.max x)) (FmtA_ofWord_word t 0x0D f)

theorem Laws.Encoding.minu (f : FmtA) : Laws.Encoding.Statement (.minu f) :=
  encoding_of 0x0E f.toBits rfl rfl fun t => congrArg (fun x => some (Instr.minu x)) (FmtA_ofWord_word t 0x0E f)

theorem Laws.Encoding.maxu (f : FmtA) : Laws.Encoding.Statement (.maxu f) :=
  encoding_of 0x0F f.toBits rfl rfl fun t => congrArg (fun x => some (Instr.maxu x)) (FmtA_ofWord_word t 0x0F f)

theorem Laws.Encoding.cmpeq (f : FmtA) : Laws.Encoding.Statement (.cmpeq f) :=
  encoding_of 0x10 f.toBits rfl rfl fun t => congrArg (fun x => some (Instr.cmpeq x)) (FmtA_ofWord_word t 0x10 f)

theorem Laws.Encoding.cmpne (f : FmtA) : Laws.Encoding.Statement (.cmpne f) :=
  encoding_of 0x11 f.toBits rfl rfl fun t => congrArg (fun x => some (Instr.cmpne x)) (FmtA_ofWord_word t 0x11 f)

theorem Laws.Encoding.cmplt (f : FmtA) : Laws.Encoding.Statement (.cmplt f) :=
  encoding_of 0x12 f.toBits rfl rfl fun t => congrArg (fun x => some (Instr.cmplt x)) (FmtA_ofWord_word t 0x12 f)

theorem Laws.Encoding.cmpltu (f : FmtA) : Laws.Encoding.Statement (.cmpltu f) :=
  encoding_of 0x13 f.toBits rfl rfl fun t => congrArg (fun x => some (Instr.cmpltu x)) (FmtA_ofWord_word t 0x13 f)

theorem Laws.Encoding.cmple (f : FmtA) : Laws.Encoding.Statement (.cmple f) :=
  encoding_of 0x14 f.toBits rfl rfl fun t => congrArg (fun x => some (Instr.cmple x)) (FmtA_ofWord_word t 0x14 f)

theorem Laws.Encoding.cmpleu (f : FmtA) : Laws.Encoding.Statement (.cmpleu f) :=
  encoding_of 0x15 f.toBits rfl rfl fun t => congrArg (fun x => some (Instr.cmpleu x)) (FmtA_ofWord_word t 0x15 f)

theorem Laws.Encoding.sel (f : FmtA) : Laws.Encoding.Statement (.sel f) :=
  encoding_of 0x16 f.toBits rfl rfl fun t => congrArg (fun x => some (Instr.sel x)) (FmtA_ofWord_word t 0x16 f)

theorem Laws.Encoding.bfx (f : FmtA) : Laws.Encoding.Statement (.bfx f) :=
  encoding_of 0x17 f.toBits rfl rfl fun t => congrArg (fun x => some (Instr.bfx x)) (FmtA_ofWord_word t 0x17 f)

theorem Laws.Encoding.bfi (f : FmtA) : Laws.Encoding.Statement (.bfi f) :=
  encoding_of 0x18 f.toBits rfl rfl fun t => congrArg (fun x => some (Instr.bfi x)) (FmtA_ofWord_word t 0x18 f)

theorem Laws.Encoding.clz (f : FmtA) : Laws.Encoding.Statement (.clz f) :=
  encoding_of 0x19 f.toBits rfl rfl fun t => congrArg (fun x => some (Instr.clz x)) (FmtA_ofWord_word t 0x19 f)

theorem Laws.Encoding.ctz (f : FmtA) : Laws.Encoding.Statement (.ctz f) :=
  encoding_of 0x1A f.toBits rfl rfl fun t => congrArg (fun x => some (Instr.ctz x)) (FmtA_ofWord_word t 0x1A f)

theorem Laws.Encoding.popc (f : FmtA) : Laws.Encoding.Statement (.popc f) :=
  encoding_of 0x1B f.toBits rfl rfl fun t => congrArg (fun x => some (Instr.popc x)) (FmtA_ofWord_word t 0x1B f)

theorem Laws.Encoding.adds (f : FmtA) : Laws.Encoding.Statement (.adds f) :=
  encoding_of 0x1C f.toBits rfl rfl fun t => congrArg (fun x => some (Instr.adds x)) (FmtA_ofWord_word t 0x1C f)

theorem Laws.Encoding.subs (f : FmtA) : Laws.Encoding.Statement (.subs f) :=
  encoding_of 0x1D f.toBits rfl rfl fun t => congrArg (fun x => some (Instr.subs x)) (FmtA_ofWord_word t 0x1D f)

theorem Laws.Encoding.abs (f : FmtA) : Laws.Encoding.Statement (.abs f) :=
  encoding_of 0x1E f.toBits rfl rfl fun t => congrArg (fun x => some (Instr.abs x)) (FmtA_ofWord_word t 0x1E f)

theorem Laws.Encoding.fadd (f : FmtA) : Laws.Encoding.Statement (.fadd f) :=
  encoding_of 0x20 f.toBits rfl rfl fun t => congrArg (fun x => some (Instr.fadd x)) (FmtA_ofWord_word t 0x20 f)

theorem Laws.Encoding.fsub (f : FmtA) : Laws.Encoding.Statement (.fsub f) :=
  encoding_of 0x21 f.toBits rfl rfl fun t => congrArg (fun x => some (Instr.fsub x)) (FmtA_ofWord_word t 0x21 f)

theorem Laws.Encoding.fmul (f : FmtA) : Laws.Encoding.Statement (.fmul f) :=
  encoding_of 0x22 f.toBits rfl rfl fun t => congrArg (fun x => some (Instr.fmul x)) (FmtA_ofWord_word t 0x22 f)

theorem Laws.Encoding.fmac (f : FmtA) : Laws.Encoding.Statement (.fmac f) :=
  encoding_of 0x23 f.toBits rfl rfl fun t => congrArg (fun x => some (Instr.fmac x)) (FmtA_ofWord_word t 0x23 f)

theorem Laws.Encoding.fmin (f : FmtA) : Laws.Encoding.Statement (.fmin f) :=
  encoding_of 0x24 f.toBits rfl rfl fun t => congrArg (fun x => some (Instr.fmin x)) (FmtA_ofWord_word t 0x24 f)

theorem Laws.Encoding.fmax (f : FmtA) : Laws.Encoding.Statement (.fmax f) :=
  encoding_of 0x25 f.toBits rfl rfl fun t => congrArg (fun x => some (Instr.fmax x)) (FmtA_ofWord_word t 0x25 f)

theorem Laws.Encoding.fcmpeq (f : FmtA) : Laws.Encoding.Statement (.fcmpeq f) :=
  encoding_of 0x26 f.toBits rfl rfl fun t => congrArg (fun x => some (Instr.fcmpeq x)) (FmtA_ofWord_word t 0x26 f)

theorem Laws.Encoding.fcmplt (f : FmtA) : Laws.Encoding.Statement (.fcmplt f) :=
  encoding_of 0x27 f.toBits rfl rfl fun t => congrArg (fun x => some (Instr.fcmplt x)) (FmtA_ofWord_word t 0x27 f)

theorem Laws.Encoding.fcmple (f : FmtA) : Laws.Encoding.Statement (.fcmple f) :=
  encoding_of 0x28 f.toBits rfl rfl fun t => congrArg (fun x => some (Instr.fcmple x)) (FmtA_ofWord_word t 0x28 f)

theorem Laws.Encoding.exp2 (f : FmtA) : Laws.Encoding.Statement (.exp2 f) :=
  encoding_of 0x29 f.toBits rfl rfl fun t => congrArg (fun x => some (Instr.exp2 x)) (FmtA_ofWord_word t 0x29 f)

theorem Laws.Encoding.log2 (f : FmtA) : Laws.Encoding.Statement (.log2 f) :=
  encoding_of 0x2A f.toBits rfl rfl fun t => congrArg (fun x => some (Instr.log2 x)) (FmtA_ofWord_word t 0x2A f)

theorem Laws.Encoding.rcp (f : FmtA) : Laws.Encoding.Statement (.rcp f) :=
  encoding_of 0x2B f.toBits rfl rfl fun t => congrArg (fun x => some (Instr.rcp x)) (FmtA_ofWord_word t 0x2B f)

theorem Laws.Encoding.rsq (f : FmtA) : Laws.Encoding.Statement (.rsq f) :=
  encoding_of 0x2C f.toBits rfl rfl fun t => congrArg (fun x => some (Instr.rsq x)) (FmtA_ofWord_word t 0x2C f)

theorem Laws.Encoding.badd2 (f : FmtA) : Laws.Encoding.Statement (.badd2 f) :=
  encoding_of 0x2D f.toBits rfl rfl fun t => congrArg (fun x => some (Instr.badd2 x)) (FmtA_ofWord_word t 0x2D f)

theorem Laws.Encoding.bmul2 (f : FmtA) : Laws.Encoding.Statement (.bmul2 f) :=
  encoding_of 0x2E f.toBits rfl rfl fun t => congrArg (fun x => some (Instr.bmul2 x)) (FmtA_ofWord_word t 0x2E f)

theorem Laws.Encoding.bmac2 (f : FmtA) : Laws.Encoding.Statement (.bmac2 f) :=
  encoding_of 0x2F f.toBits rfl rfl fun t => congrArg (fun x => some (Instr.bmac2 x)) (FmtA_ofWord_word t 0x2F f)

theorem Laws.Encoding.hadd2 (f : FmtA) : Laws.Encoding.Statement (.hadd2 f) :=
  encoding_of 0x30 f.toBits rfl rfl fun t => congrArg (fun x => some (Instr.hadd2 x)) (FmtA_ofWord_word t 0x30 f)

theorem Laws.Encoding.hmul2 (f : FmtA) : Laws.Encoding.Statement (.hmul2 f) :=
  encoding_of 0x31 f.toBits rfl rfl fun t => congrArg (fun x => some (Instr.hmul2 x)) (FmtA_ofWord_word t 0x31 f)

theorem Laws.Encoding.hmac2 (f : FmtA) : Laws.Encoding.Statement (.hmac2 f) :=
  encoding_of 0x32 f.toBits rfl rfl fun t => congrArg (fun x => some (Instr.hmac2 x)) (FmtA_ofWord_word t 0x32 f)

theorem Laws.Encoding.cvtfi (f : FmtA) : Laws.Encoding.Statement (.cvtfi f) :=
  encoding_of 0x33 f.toBits rfl rfl fun t => congrArg (fun x => some (Instr.cvtfi x)) (FmtA_ofWord_word t 0x33 f)

theorem Laws.Encoding.cvtif (f : FmtA) : Laws.Encoding.Statement (.cvtif f) :=
  encoding_of 0x34 f.toBits rfl rfl fun t => congrArg (fun x => some (Instr.cvtif x)) (FmtA_ofWord_word t 0x34 f)

theorem Laws.Encoding.cvtfb (f : FmtA) : Laws.Encoding.Statement (.cvtfb f) :=
  encoding_of 0x35 f.toBits rfl rfl fun t => congrArg (fun x => some (Instr.cvtfb x)) (FmtA_ofWord_word t 0x35 f)

theorem Laws.Encoding.cvtfh (f : FmtA) : Laws.Encoding.Statement (.cvtfh f) :=
  encoding_of 0x36 f.toBits rfl rfl fun t => congrArg (fun x => some (Instr.cvtfh x)) (FmtA_ofWord_word t 0x36 f)

theorem Laws.Encoding.cvtbf (f : FmtA) : Laws.Encoding.Statement (.cvtbf f) :=
  encoding_of 0x37 f.toBits rfl rfl fun t => congrArg (fun x => some (Instr.cvtbf x)) (FmtA_ofWord_word t 0x37 f)

theorem Laws.Encoding.cvthf (f : FmtA) : Laws.Encoding.Statement (.cvthf f) :=
  encoding_of 0x38 f.toBits rfl rfl fun t => congrArg (fun x => some (Instr.cvthf x)) (FmtA_ofWord_word t 0x38 f)

theorem Laws.Encoding.cvtf4 (f : FmtA) : Laws.Encoding.Statement (.cvtf4 f) :=
  encoding_of 0x39 f.toBits rfl rfl fun t => congrArg (fun x => some (Instr.cvtf4 x)) (FmtA_ofWord_word t 0x39 f)

theorem Laws.Encoding.cvtf4s (f : FmtA) : Laws.Encoding.Statement (.cvtf4s f) :=
  encoding_of 0x3A f.toBits rfl rfl fun t => congrArg (fun x => some (Instr.cvtf4s x)) (FmtA_ofWord_word t 0x3A f)

theorem Laws.Encoding.cvtf5 (f : FmtA) : Laws.Encoding.Statement (.cvtf5 f) :=
  encoding_of 0x3B f.toBits rfl rfl fun t => congrArg (fun x => some (Instr.cvtf5 x)) (FmtA_ofWord_word t 0x3B f)

theorem Laws.Encoding.cvtf5s (f : FmtA) : Laws.Encoding.Statement (.cvtf5s f) :=
  encoding_of 0x3C f.toBits rfl rfl fun t => congrArg (fun x => some (Instr.cvtf5s x)) (FmtA_ofWord_word t 0x3C f)

theorem Laws.Encoding.cvt4f (f : FmtA) : Laws.Encoding.Statement (.cvt4f f) :=
  encoding_of 0x3D f.toBits rfl rfl fun t => congrArg (fun x => some (Instr.cvt4f x)) (FmtA_ofWord_word t 0x3D f)

theorem Laws.Encoding.cvt5f (f : FmtA) : Laws.Encoding.Statement (.cvt5f f) :=
  encoding_of 0x3E f.toBits rfl rfl fun t => congrArg (fun x => some (Instr.cvt5f x)) (FmtA_ofWord_word t 0x3E f)

theorem Laws.Encoding.addi (f : FmtI) : Laws.Encoding.Statement (.addi f) :=
  encoding_of 0x40 f.toBits rfl rfl fun t => congrArg (fun x => some (Instr.addi x)) (FmtI_ofWord_word t 0x40 f)

theorem Laws.Encoding.andi (f : FmtI) : Laws.Encoding.Statement (.andi f) :=
  encoding_of 0x41 f.toBits rfl rfl fun t => congrArg (fun x => some (Instr.andi x)) (FmtI_ofWord_word t 0x41 f)

theorem Laws.Encoding.ori (f : FmtI) : Laws.Encoding.Statement (.ori f) :=
  encoding_of 0x42 f.toBits rfl rfl fun t => congrArg (fun x => some (Instr.ori x)) (FmtI_ofWord_word t 0x42 f)

theorem Laws.Encoding.xori (f : FmtI) : Laws.Encoding.Statement (.xori f) :=
  encoding_of 0x43 f.toBits rfl rfl fun t => congrArg (fun x => some (Instr.xori x)) (FmtI_ofWord_word t 0x43 f)

theorem Laws.Encoding.shli (f : FmtI) : Laws.Encoding.Statement (.shli f) :=
  encoding_of 0x44 f.toBits rfl rfl fun t => congrArg (fun x => some (Instr.shli x)) (FmtI_ofWord_word t 0x44 f)

theorem Laws.Encoding.shri (f : FmtI) : Laws.Encoding.Statement (.shri f) :=
  encoding_of 0x45 f.toBits rfl rfl fun t => congrArg (fun x => some (Instr.shri x)) (FmtI_ofWord_word t 0x45 f)

theorem Laws.Encoding.srai (f : FmtI) : Laws.Encoding.Statement (.srai f) :=
  encoding_of 0x46 f.toBits rfl rfl fun t => congrArg (fun x => some (Instr.srai x)) (FmtI_ofWord_word t 0x46 f)

theorem Laws.Encoding.muli (f : FmtI) : Laws.Encoding.Statement (.muli f) :=
  encoding_of 0x47 f.toBits rfl rfl fun t => congrArg (fun x => some (Instr.muli x)) (FmtI_ofWord_word t 0x47 f)

theorem Laws.Encoding.mini (f : FmtI) : Laws.Encoding.Statement (.mini f) :=
  encoding_of 0x48 f.toBits rfl rfl fun t => congrArg (fun x => some (Instr.mini x)) (FmtI_ofWord_word t 0x48 f)

theorem Laws.Encoding.maxi (f : FmtI) : Laws.Encoding.Statement (.maxi f) :=
  encoding_of 0x49 f.toBits rfl rfl fun t => congrArg (fun x => some (Instr.maxi x)) (FmtI_ofWord_word t 0x49 f)

theorem Laws.Encoding.cmpeqi (f : FmtI) : Laws.Encoding.Statement (.cmpeqi f) :=
  encoding_of 0x4A f.toBits rfl rfl fun t => congrArg (fun x => some (Instr.cmpeqi x)) (FmtI_ofWord_word t 0x4A f)

theorem Laws.Encoding.cmpnei (f : FmtI) : Laws.Encoding.Statement (.cmpnei f) :=
  encoding_of 0x4B f.toBits rfl rfl fun t => congrArg (fun x => some (Instr.cmpnei x)) (FmtI_ofWord_word t 0x4B f)

theorem Laws.Encoding.cmplti (f : FmtI) : Laws.Encoding.Statement (.cmplti f) :=
  encoding_of 0x4C f.toBits rfl rfl fun t => congrArg (fun x => some (Instr.cmplti x)) (FmtI_ofWord_word t 0x4C f)

theorem Laws.Encoding.cmpltui (f : FmtI) : Laws.Encoding.Statement (.cmpltui f) :=
  encoding_of 0x4D f.toBits rfl rfl fun t => congrArg (fun x => some (Instr.cmpltui x)) (FmtI_ofWord_word t 0x4D f)

theorem Laws.Encoding.cmplei (f : FmtI) : Laws.Encoding.Statement (.cmplei f) :=
  encoding_of 0x4E f.toBits rfl rfl fun t => congrArg (fun x => some (Instr.cmplei x)) (FmtI_ofWord_word t 0x4E f)

theorem Laws.Encoding.cmpleui (f : FmtI) : Laws.Encoding.Statement (.cmpleui f) :=
  encoding_of 0x4F f.toBits rfl rfl fun t => congrArg (fun x => some (Instr.cmpleui x)) (FmtI_ofWord_word t 0x4F f)

theorem Laws.Encoding.bfxi (f : FmtI) : Laws.Encoding.Statement (.bfxi f) :=
  encoding_of 0x50 f.toBits rfl rfl fun t => congrArg (fun x => some (Instr.bfxi x)) (FmtI_ofWord_word t 0x50 f)

theorem Laws.Encoding.bfii (f : FmtI) : Laws.Encoding.Statement (.bfii f) :=
  encoding_of 0x51 f.toBits rfl rfl fun t => congrArg (fun x => some (Instr.bfii x)) (FmtI_ofWord_word t 0x51 f)

theorem Laws.Encoding.addsi (f : FmtI) : Laws.Encoding.Statement (.addsi f) :=
  encoding_of 0x52 f.toBits rfl rfl fun t => congrArg (fun x => some (Instr.addsi x)) (FmtI_ofWord_word t 0x52 f)

theorem Laws.Encoding.ldk (f : FmtK) : Laws.Encoding.Statement (.ldk f) :=
  encoding_of 0x60 f.toBits rfl rfl fun t => congrArg (fun x => some (Instr.ldk x)) (FmtK_ofWord_word t 0x60 f)

theorem Laws.Encoding.ldkf (f : FmtK) : Laws.Encoding.Statement (.ldkf f) :=
  encoding_of 0x64 f.toBits rfl rfl fun t => congrArg (fun x => some (Instr.ldkf x)) (FmtK_ofWord_word t 0x64 f)

theorem Laws.Encoding.plog (f : FmtK) : Laws.Encoding.Statement (.plog f) :=
  encoding_of 0x61 f.toBits rfl rfl fun t => congrArg (fun x => some (Instr.plog x)) (FmtK_ofWord_word t 0x61 f)

theorem Laws.Encoding.pset (f : FmtK) : Laws.Encoding.Statement (.pset f) :=
  encoding_of 0x62 f.toBits rfl rfl fun t => congrArg (fun x => some (Instr.pset x)) (FmtK_ofWord_word t 0x62 f)

theorem Laws.Encoding.pget (f : FmtK) : Laws.Encoding.Statement (.pget f) :=
  encoding_of 0x63 f.toBits rfl rfl fun t => congrArg (fun x => some (Instr.pget x)) (FmtK_ofWord_word t 0x63 f)

theorem Laws.Encoding.talloc (f : FmtM) : Laws.Encoding.Statement (.talloc f) :=
  encoding_of 0x80 f.toBits rfl rfl fun t => congrArg (fun x => some (Instr.talloc x)) (FmtM_ofWord_word t 0x80 f)

theorem Laws.Encoding.tfree (f : FmtM) : Laws.Encoding.Statement (.tfree f) :=
  encoding_of 0x81 f.toBits rfl rfl fun t => congrArg (fun x => some (Instr.tfree x)) (FmtM_ofWord_word t 0x81 f)

theorem Laws.Encoding.tcfg (f : FmtM) : Laws.Encoding.Statement (.tcfg f) :=
  encoding_of 0x82 f.toBits rfl rfl fun t => congrArg (fun x => some (Instr.tcfg x)) (FmtM_ofWord_word t 0x82 f)

theorem Laws.Encoding.tqry (f : FmtM) : Laws.Encoding.Statement (.tqry f) :=
  encoding_of 0x83 f.toBits rfl rfl fun t => congrArg (fun x => some (Instr.tqry x)) (FmtM_ofWord_word t 0x83 f)

theorem Laws.Encoding.tld (f : FmtM) : Laws.Encoding.Statement (.tld f) :=
  encoding_of 0x84 f.toBits rfl rfl fun t => congrArg (fun x => some (Instr.tld x)) (FmtM_ofWord_word t 0x84 f)

theorem Laws.Encoding.tst (f : FmtM) : Laws.Encoding.Statement (.tst f) :=
  encoding_of 0x85 f.toBits rfl rfl fun t => congrArg (fun x => some (Instr.tst x)) (FmtM_ofWord_word t 0x85 f)

theorem Laws.Encoding.pcfg (f : FmtM) : Laws.Encoding.Statement (.pcfg f) :=
  encoding_of 0x86 f.toBits rfl rfl fun t => congrArg (fun x => some (Instr.pcfg x)) (FmtM_ofWord_word t 0x86 f)

theorem Laws.Encoding.pqry (f : FmtM) : Laws.Encoding.Statement (.pqry f) :=
  encoding_of 0x87 f.toBits rfl rfl fun t => congrArg (fun x => some (Instr.pqry x)) (FmtM_ofWord_word t 0x87 f)

theorem Laws.Encoding.pgo (f : FmtM) : Laws.Encoding.Statement (.pgo f) :=
  encoding_of 0x88 f.toBits rfl rfl fun t => congrArg (fun x => some (Instr.pgo x)) (FmtM_ofWord_word t 0x88 f)

theorem Laws.Encoding.pstop (f : FmtM) : Laws.Encoding.Statement (.pstop f) :=
  encoding_of 0x89 f.toBits rfl rfl fun t => congrArg (fun x => some (Instr.pstop x)) (FmtM_ofWord_word t 0x89 f)

theorem Laws.Encoding.ld (f : FmtM) : Laws.Encoding.Statement (.ld f) :=
  encoding_of 0x8A f.toBits rfl rfl fun t => congrArg (fun x => some (Instr.ld x)) (FmtM_ofWord_word t 0x8A f)

theorem Laws.Encoding.st (f : FmtM) : Laws.Encoding.Statement (.st f) :=
  encoding_of 0x8B f.toBits rfl rfl fun t => congrArg (fun x => some (Instr.st x)) (FmtM_ofWord_word t 0x8B f)

theorem Laws.Encoding.ldx (f : FmtM) : Laws.Encoding.Statement (.ldx f) :=
  encoding_of 0x8C f.toBits rfl rfl fun t => congrArg (fun x => some (Instr.ldx x)) (FmtM_ofWord_word t 0x8C f)

theorem Laws.Encoding.stx (f : FmtM) : Laws.Encoding.Statement (.stx f) :=
  encoding_of 0x8D f.toBits rfl rfl fun t => congrArg (fun x => some (Instr.stx x)) (FmtM_ofWord_word t 0x8D f)

theorem Laws.Encoding.mdone (f : FmtM) : Laws.Encoding.Statement (.mdone f) :=
  encoding_of 0x8E f.toBits rfl rfl fun t => congrArg (fun x => some (Instr.mdone x)) (FmtM_ofWord_word t 0x8E f)

theorem Laws.Encoding.atom (f : FmtM) : Laws.Encoding.Statement (.atom f) :=
  encoding_of 0x8F f.toBits rfl rfl fun t => congrArg (fun x => some (Instr.atom x)) (FmtM_ofWord_word t 0x8F f)

theorem Laws.Encoding.atomr (f : FmtM) : Laws.Encoding.Statement (.atomr f) :=
  encoding_of 0x90 f.toBits rfl rfl fun t => congrArg (fun x => some (Instr.atomr x)) (FmtM_ofWord_word t 0x90 f)

theorem Laws.Encoding.rawait (f : FmtM) : Laws.Encoding.Statement (.rawait f) :=
  encoding_of 0x91 f.toBits rfl rfl fun t => congrArg (fun x => some (Instr.rawait x)) (FmtM_ofWord_word t 0x91 f)

theorem Laws.Encoding.rrel (f : FmtM) : Laws.Encoding.Statement (.rrel f) :=
  encoding_of 0x92 f.toBits rfl rfl fun t => congrArg (fun x => some (Instr.rrel x)) (FmtM_ofWord_word t 0x92 f)

theorem Laws.Encoding.rget (f : FmtM) : Laws.Encoding.Statement (.rget f) :=
  encoding_of 0x93 f.toBits rfl rfl fun t => congrArg (fun x => some (Instr.rget x)) (FmtM_ofWord_word t 0x93 f)

theorem Laws.Encoding.grule (f : FmtE) : Laws.Encoding.Statement (.grule f) :=
  encoding_of 0xA0 f.toBits rfl rfl fun t => congrArg (fun x => some (Instr.grule x)) (FmtE_ofWord_word t 0xA0 f)

theorem Laws.Encoding.bdinit (f : FmtE) : Laws.Encoding.Statement (.bdinit f) :=
  encoding_of 0xA1 f.toBits rfl rfl fun t => congrArg (fun x => some (Instr.bdinit x)) (FmtE_ofWord_word t 0xA1 f)

theorem Laws.Encoding.bdins (f : FmtE) : Laws.Encoding.Statement (.bdins f) :=
  encoding_of 0xA2 f.toBits rfl rfl fun t => congrArg (fun x => some (Instr.bdins x)) (FmtE_ofWord_word t 0xA2 f)

theorem Laws.Encoding.bdfind (f : FmtE) : Laws.Encoding.Statement (.bdfind f) :=
  encoding_of 0xA3 f.toBits rfl rfl fun t => congrArg (fun x => some (Instr.bdfind x)) (FmtE_ofWord_word t 0xA3 f)

theorem Laws.Encoding.bdget (f : FmtE) : Laws.Encoding.Statement (.bdget f) :=
  encoding_of 0xA4 f.toBits rfl rfl fun t => congrArg (fun x => some (Instr.bdget x)) (FmtE_ofWord_word t 0xA4 f)

theorem Laws.Encoding.bdsort (f : FmtE) : Laws.Encoding.Statement (.bdsort f) :=
  encoding_of 0xA5 f.toBits rfl rfl fun t => congrArg (fun x => some (Instr.bdsort x)) (FmtE_ofWord_word t 0xA5 f)

theorem Laws.Encoding.poolcfg (f : FmtE) : Laws.Encoding.Statement (.poolcfg f) :=
  encoding_of 0xA6 f.toBits rfl rfl fun t => congrArg (fun x => some (Instr.poolcfg x)) (FmtE_ofWord_word t 0xA6 f)

theorem Laws.Encoding.bcon (f : FmtE) : Laws.Encoding.Statement (.bcon f) :=
  encoding_of 0xA7 f.toBits rfl rfl fun t => congrArg (fun x => some (Instr.bcon x)) (FmtE_ofWord_word t 0xA7 f)

theorem Laws.Encoding.bcres (f : FmtE) : Laws.Encoding.Statement (.bcres f) :=
  encoding_of 0xA8 f.toBits rfl rfl fun t => congrArg (fun x => some (Instr.bcres x)) (FmtE_ofWord_word t 0xA8 f)

theorem Laws.Encoding.bcstat (f : FmtE) : Laws.Encoding.Statement (.bcstat f) :=
  encoding_of 0xA9 f.toBits rfl rfl fun t => congrArg (fun x => some (Instr.bcstat x)) (FmtE_ofWord_word t 0xA9 f)

theorem Laws.Encoding.bcwait (f : FmtE) : Laws.Encoding.Statement (.bcwait f) :=
  encoding_of 0xAA f.toBits rfl rfl fun t => congrArg (fun x => some (Instr.bcwait x)) (FmtE_ofWord_word t 0xAA f)

theorem Laws.Encoding.topb (f : FmtE) : Laws.Encoding.Statement (.topb f) :=
  encoding_of 0xAB f.toBits rfl rfl fun t => congrArg (fun x => some (Instr.topb x)) (FmtE_ofWord_word t 0xAB f)

theorem Laws.Encoding.topx (f : FmtE) : Laws.Encoding.Statement (.topx f) :=
  encoding_of 0xAC f.toBits rfl rfl fun t => congrArg (fun x => some (Instr.topx x)) (FmtE_ofWord_word t 0xAC f)

theorem Laws.Encoding.gath (f : FmtE) : Laws.Encoding.Statement (.gath f) :=
  encoding_of 0xAD f.toBits rfl rfl fun t => congrArg (fun x => some (Instr.gath x)) (FmtE_ofWord_word t 0xAD f)

theorem Laws.Encoding.scat (f : FmtE) : Laws.Encoding.Statement (.scat f) :=
  encoding_of 0xAE f.toBits rfl rfl fun t => congrArg (fun x => some (Instr.scat x)) (FmtE_ofWord_word t 0xAE f)

theorem Laws.Encoding.pools (f : FmtE) : Laws.Encoding.Statement (.pools f) :=
  encoding_of 0xAF f.toBits rfl rfl fun t => congrArg (fun x => some (Instr.pools x)) (FmtE_ofWord_word t 0xAF f)

theorem Laws.Encoding.gstat (f : FmtE) : Laws.Encoding.Statement (.gstat f) :=
  encoding_of 0xB0 f.toBits rfl rfl fun t => congrArg (fun x => some (Instr.gstat x)) (FmtE_ofWord_word t 0xB0 f)

theorem Laws.Encoding.dpost (f : FmtE) : Laws.Encoding.Statement (.dpost f) :=
  encoding_of 0xB1 f.toBits rfl rfl fun t => congrArg (fun x => some (Instr.dpost x)) (FmtE_ofWord_word t 0xB1 f)

theorem Laws.Encoding.dsend (f : FmtE) : Laws.Encoding.Statement (.dsend f) :=
  encoding_of 0xB2 f.toBits rfl rfl fun t => congrArg (fun x => some (Instr.dsend x)) (FmtE_ofWord_word t 0xB2 f)

theorem Laws.Encoding.drecv (f : FmtE) : Laws.Encoding.Statement (.drecv f) :=
  encoding_of 0xB3 f.toBits rfl rfl fun t => congrArg (fun x => some (Instr.drecv x)) (FmtE_ofWord_word t 0xB3 f)

theorem Laws.Encoding.dwait (f : FmtE) : Laws.Encoding.Statement (.dwait f) :=
  encoding_of 0xB4 f.toBits rfl rfl fun t => congrArg (fun x => some (Instr.dwait x)) (FmtE_ofWord_word t 0xB4 f)

theorem Laws.Encoding.dqry (f : FmtE) : Laws.Encoding.Statement (.dqry f) :=
  encoding_of 0xB5 f.toBits rfl rfl fun t => congrArg (fun x => some (Instr.dqry x)) (FmtE_ofWord_word t 0xB5 f)

theorem Laws.Encoding.cgload (f : FmtE) : Laws.Encoding.Statement (.cgload f) :=
  encoding_of 0xB6 f.toBits rfl rfl fun t => congrArg (fun x => some (Instr.cgload x)) (FmtE_ofWord_word t 0xB6 f)

theorem Laws.Encoding.crun (f : FmtE) : Laws.Encoding.Statement (.crun f) :=
  encoding_of 0xB7 f.toBits rfl rfl fun t => congrArg (fun x => some (Instr.crun x)) (FmtE_ofWord_word t 0xB7 f)

theorem Laws.Encoding.cwait (f : FmtE) : Laws.Encoding.Statement (.cwait f) :=
  encoding_of 0xB8 f.toBits rfl rfl fun t => congrArg (fun x => some (Instr.cwait x)) (FmtE_ofWord_word t 0xB8 f)

theorem Laws.Encoding.bar (f : FmtE) : Laws.Encoding.Statement (.bar f) :=
  encoding_of 0xB9 f.toBits rfl rfl fun t => congrArg (fun x => some (Instr.bar x)) (FmtE_ofWord_word t 0xB9 f)

theorem Laws.Encoding.cseq (f : FmtE) : Laws.Encoding.Statement (.cseq f) :=
  encoding_of 0xBA f.toBits rfl rfl fun t => congrArg (fun x => some (Instr.cseq x)) (FmtE_ofWord_word t 0xBA f)

theorem Laws.Encoding.emit (f : FmtS) : Laws.Encoding.Statement (.emit f) :=
  encoding_of 0xC0 f.toBits rfl rfl fun t => congrArg (fun x => some (Instr.emit x)) (FmtS_ofWord_word t 0xC0 f)

theorem Laws.Encoding.emitv (f : FmtS) : Laws.Encoding.Statement (.emitv f) :=
  encoding_of 0xC1 f.toBits rfl rfl fun t => congrArg (fun x => some (Instr.emitv x)) (FmtS_ofWord_word t 0xC1 f)

theorem Laws.Encoding.cede (f : FmtS) : Laws.Encoding.Statement (.cede f) :=
  encoding_of 0xC2 f.toBits rfl rfl fun t => congrArg (fun x => some (Instr.cede x)) (FmtS_ofWord_word t 0xC2 f)

theorem Laws.Encoding.rxend (f : FmtS) : Laws.Encoding.Statement (.rxend f) :=
  encoding_of 0xC3 f.toBits rfl rfl fun t => congrArg (fun x => some (Instr.rxend x)) (FmtS_ofWord_word t 0xC3 f)

theorem Laws.Encoding.dlyr (f : FmtS) : Laws.Encoding.Statement (.dlyr f) :=
  encoding_of 0xC4 f.toBits rfl rfl fun t => congrArg (fun x => some (Instr.dlyr x)) (FmtS_ofWord_word t 0xC4 f)

theorem Laws.Encoding.dlyw (f : FmtS) : Laws.Encoding.Statement (.dlyw f) :=
  encoding_of 0xC5 f.toBits rfl rfl fun t => congrArg (fun x => some (Instr.dlyw x)) (FmtS_ofWord_word t 0xC5 f)

theorem Laws.Encoding.sigv (f : FmtS) : Laws.Encoding.Statement (.sigv f) :=
  encoding_of 0xC6 f.toBits rfl rfl fun t => congrArg (fun x => some (Instr.sigv x)) (FmtS_ofWord_word t 0xC6 f)

theorem Laws.Encoding.icnt (f : FmtS) : Laws.Encoding.Statement (.icnt f) :=
  encoding_of 0xC7 f.toBits rfl rfl fun t => congrArg (fun x => some (Instr.icnt x)) (FmtS_ofWord_word t 0xC7 f)

theorem Laws.Encoding.mark (f : FmtS) : Laws.Encoding.Statement (.mark f) :=
  encoding_of 0xC8 f.toBits rfl rfl fun t => congrArg (fun x => some (Instr.mark x)) (FmtS_ofWord_word t 0xC8 f)

theorem Laws.Encoding.fwd (f : FmtS) : Laws.Encoding.Statement (.fwd f) :=
  encoding_of 0xC9 f.toBits rfl rfl fun t => congrArg (fun x => some (Instr.fwd x)) (FmtS_ofWord_word t 0xC9 f)

theorem Laws.Encoding.tagr (f : FmtS) : Laws.Encoding.Statement (.tagr f) :=
  encoding_of 0xCA f.toBits rfl rfl fun t => congrArg (fun x => some (Instr.tagr x)) (FmtS_ofWord_word t 0xCA f)

theorem Laws.Encoding.skip (f : FmtS) : Laws.Encoding.Statement (.skip f) :=
  encoding_of 0xCB f.toBits rfl rfl fun t => congrArg (fun x => some (Instr.skip x)) (FmtS_ofWord_word t 0xCB f)

theorem Laws.Encoding.qset (f : FmtS) : Laws.Encoding.Statement (.qset f) :=
  encoding_of 0xCC f.toBits rfl rfl fun t => congrArg (fun x => some (Instr.qset x)) (FmtS_ofWord_word t 0xCC f)

theorem Laws.Encoding.qget (f : FmtS) : Laws.Encoding.Statement (.qget f) :=
  encoding_of 0xCD f.toBits rfl rfl fun t => congrArg (fun x => some (Instr.qget x)) (FmtS_ofWord_word t 0xCD f)

theorem Laws.Encoding.qfuse (f : FmtS) : Laws.Encoding.Statement (.qfuse f) :=
  encoding_of 0xCE f.toBits rfl rfl fun t => congrArg (fun x => some (Instr.qfuse x)) (FmtS_ofWord_word t 0xCE f)

theorem Laws.Encoding.qinv (f : FmtS) : Laws.Encoding.Statement (.qinv f) :=
  encoding_of 0xCF f.toBits rfl rfl fun t => congrArg (fun x => some (Instr.qinv x)) (FmtS_ofWord_word t 0xCF f)

theorem Laws.Encoding.qeq (f : FmtS) : Laws.Encoding.Statement (.qeq f) :=
  encoding_of 0xD0 f.toBits rfl rfl fun t => congrArg (fun x => some (Instr.qeq x)) (FmtS_ofWord_word t 0xD0 f)

theorem Laws.Encoding.qchk (f : FmtS) : Laws.Encoding.Statement (.qchk f) :=
  encoding_of 0xD1 f.toBits rfl rfl fun t => congrArg (fun x => some (Instr.qchk x)) (FmtS_ofWord_word t 0xD1 f)

theorem Laws.Encoding.qsel (f : FmtS) : Laws.Encoding.Statement (.qsel f) :=
  encoding_of 0xD2 f.toBits rfl rfl fun t => congrArg (fun x => some (Instr.qsel x)) (FmtS_ofWord_word t 0xD2 f)

theorem Laws.Encoding.nop (f : FmtY) : Laws.Encoding.Statement (.nop f) :=
  encoding_of 0xE0 f.toBits rfl rfl fun t => congrArg (fun x => some (Instr.nop x)) (FmtY_ofWord_word t 0xE0 f)

theorem Laws.Encoding.halt (f : FmtY) : Laws.Encoding.Statement (.halt f) :=
  encoding_of 0xE1 f.toBits rfl rfl fun t => congrArg (fun x => some (Instr.halt x)) (FmtY_ofWord_word t 0xE1 f)

theorem Laws.Encoding.trap (f : FmtY) : Laws.Encoding.Statement (.trap f) :=
  encoding_of 0xE2 f.toBits rfl rfl fun t => congrArg (fun x => some (Instr.trap x)) (FmtY_ofWord_word t 0xE2 f)

theorem Laws.Encoding.csrr (f : FmtY) : Laws.Encoding.Statement (.csrr f) :=
  encoding_of 0xE3 f.toBits rfl rfl fun t => congrArg (fun x => some (Instr.csrr x)) (FmtY_ofWord_word t 0xE3 f)

theorem Laws.Encoding.csrw (f : FmtY) : Laws.Encoding.Statement (.csrw f) :=
  encoding_of 0xE4 f.toBits rfl rfl fun t => congrArg (fun x => some (Instr.csrw x)) (FmtY_ofWord_word t 0xE4 f)

theorem Laws.Encoding.glaunch (f : FmtY) : Laws.Encoding.Statement (.glaunch f) :=
  encoding_of 0xE6 f.toBits rfl rfl fun t => congrArg (fun x => some (Instr.glaunch x)) (FmtY_ofWord_word t 0xE6 f)

theorem Laws.Encoding.gcond (f : FmtY) : Laws.Encoding.Statement (.gcond f) :=
  encoding_of 0xE7 f.toBits rfl rfl fun t => congrArg (fun x => some (Instr.gcond x)) (FmtY_ofWord_word t 0xE7 f)

theorem Laws.Encoding.hrapp (f : FmtY) : Laws.Encoding.Statement (.hrapp f) :=
  encoding_of 0xE8 f.toBits rfl rfl fun t => congrArg (fun x => some (Instr.hrapp x)) (FmtY_ofWord_word t 0xE8 f)

theorem Laws.Encoding.intr (f : FmtY) : Laws.Encoding.Statement (.intr f) :=
  encoding_of 0xE9 f.toBits rfl rfl fun t => congrArg (fun x => some (Instr.intr x)) (FmtY_ofWord_word t 0xE9 f)

theorem Laws.Encoding.slotIssue (e : ERef) : Laws.Encoding.Statement (.slotIssue e) :=
  fun _ _ h => nomatch (h : none = some _)

theorem Laws.Encoding.multiBeatBeat (e : ERef) : Laws.Encoding.Statement (.multiBeatBeat e) :=
  fun _ _ h => nomatch (h : none = some _)

theorem Laws.Encoding.channelOperandWaitEnd (e : ERef) : Laws.Encoding.Statement (.channelOperandWaitEnd e) :=
  fun _ _ h => nomatch (h : none = some _)

theorem Laws.Encoding.markerReset (e : ERef) : Laws.Encoding.Statement (.markerReset e) :=
  fun _ _ h => nomatch (h : none = some _)

theorem Laws.Encoding.routeTokenTake (inst route : Nat) : Laws.Encoding.Statement (.routeTokenTake inst route) :=
  fun _ _ h => nomatch (h : none = some _)

theorem Laws.Encoding.tokenArrival (inst route : Nat) : Laws.Encoding.Statement (.tokenArrival inst route) :=
  fun _ _ h => nomatch (h : none = some _)

theorem Laws.Encoding.boundaryNodeDeliver (inst route : Nat) : Laws.Encoding.Statement (.boundaryNodeDeliver inst route) :=
  fun _ _ h => nomatch (h : none = some _)

theorem Laws.Encoding.waitingInstructionResume (e : ERef) : Laws.Encoding.Statement (.waitingInstructionResume e) :=
  fun _ _ h => nomatch (h : none = some _)

theorem Laws.Encoding.loadReturn (e : ERef) : Laws.Encoding.Statement (.loadReturn e) :=
  fun _ _ h => nomatch (h : none = some _)

theorem Laws.Encoding.tileTableServe (tab : Nat) : Laws.Encoding.Statement (.tileTableServe tab) :=
  fun _ _ h => nomatch (h : none = some _)

theorem Laws.Encoding.tileFullSet (tab slot : Nat) : Laws.Encoding.Statement (.tileFullSet tab slot) :=
  fun _ _ h => nomatch (h : none = some _)

theorem Laws.Encoding.tileEntryFree (tab slot : Nat) : Laws.Encoding.Statement (.tileEntryFree tab slot) :=
  fun _ _ h => nomatch (h : none = some _)

theorem Laws.Encoding.pumpAccess (e : ERef) (pm : Nat) : Laws.Encoding.Statement (.pumpAccess e pm) :=
  fun _ _ h => nomatch (h : none = some _)

theorem Laws.Encoding.pumpRunEnd (e : ERef) (pm : Nat) : Laws.Encoding.Statement (.pumpRunEnd e pm) :=
  fun _ _ h => nomatch (h : none = some _)

theorem Laws.Encoding.mdoneToken (e : ERef) : Laws.Encoding.Statement (.mdoneToken e) :=
  fun _ _ h => nomatch (h : none = some _)

theorem Laws.Encoding.atomicEngineServe (eng : Nat) : Laws.Encoding.Statement (.atomicEngineServe eng) :=
  fun _ _ h => nomatch (h : none = some _)

theorem Laws.Encoding.tileOpFiring (e : ERef) : Laws.Encoding.Statement (.tileOpFiring e) :=
  fun _ _ h => nomatch (h : none = some _)

theorem Laws.Encoding.tileOpFiringEnd (e : ERef) : Laws.Encoding.Statement (.tileOpFiringEnd e) :=
  fun _ _ h => nomatch (h : none = some _)

theorem Laws.Encoding.contractionEnumerate (r : RRef) (seq : Nat) : Laws.Encoding.Statement (.contractionEnumerate r seq) :=
  fun _ _ h => nomatch (h : none = some _)

theorem Laws.Encoding.contractionProduct (r : RRef) (seq k : Nat) : Laws.Encoding.Statement (.contractionProduct r seq k) :=
  fun _ _ h => nomatch (h : none = some _)

theorem Laws.Encoding.groupMigration (r : RRef) (seq : Nat) : Laws.Encoding.Statement (.groupMigration r seq) :=
  fun _ _ h => nomatch (h : none = some _)

theorem Laws.Encoding.contractionStop (r : RRef) (seq : Nat) : Laws.Encoding.Statement (.contractionStop r seq) :=
  fun _ _ h => nomatch (h : none = some _)

theorem Laws.Encoding.contractionComplete (r : RRef) (seq : Nat) : Laws.Encoding.Statement (.contractionComplete r seq) :=
  fun _ _ h => nomatch (h : none = some _)

theorem Laws.Encoding.wellheadRowServe (r : RRef) (seq pos : Nat) : Laws.Encoding.Statement (.wellheadRowServe r seq pos) :=
  fun _ _ h => nomatch (h : none = some _)

theorem Laws.Encoding.wellheadCommandComplete (r : RRef) (seq : Nat) : Laws.Encoding.Statement (.wellheadCommandComplete r seq) :=
  fun _ _ h => nomatch (h : none = some _)

theorem Laws.Encoding.copyStart (die ch : Nat) : Laws.Encoding.Statement (.copyStart die ch) :=
  fun _ _ h => nomatch (h : none = some _)

theorem Laws.Encoding.copyEnd (die ch : Nat) : Laws.Encoding.Statement (.copyEnd die ch) :=
  fun _ _ h => nomatch (h : none = some _)

theorem Laws.Encoding.groupForm (slot : Nat) (v : Word) : Laws.Encoding.Statement (.groupForm slot v) :=
  fun _ _ h => nomatch (h : none = some _)

theorem Laws.Encoding.groupDissolve (slot : Nat) : Laws.Encoding.Statement (.groupDissolve slot) :=
  fun _ _ h => nomatch (h : none = some _)

theorem Laws.Encoding.collectiveStartPacket (slot rank : Nat) (p : StartPkt) : Laws.Encoding.Statement (.collectiveStartPacket slot rank p) :=
  fun _ _ h => nomatch (h : none = some _)

theorem Laws.Encoding.collectiveCallStart (slot num : Nat) : Laws.Encoding.Statement (.collectiveCallStart slot num) :=
  fun _ _ h => nomatch (h : none = some _)

theorem Laws.Encoding.collectiveChunkPacket (slot : Nat) (p : ChunkPkt) : Laws.Encoding.Statement (.collectiveChunkPacket slot p) :=
  fun _ _ h => nomatch (h : none = some _)

theorem Laws.Encoding.chunkGraphOpStart (slot num op : Nat) : Laws.Encoding.Statement (.chunkGraphOpStart slot num op) :=
  fun _ _ h => nomatch (h : none = some _)

theorem Laws.Encoding.collectiveCallComplete (slot num : Nat) : Laws.Encoding.Statement (.collectiveCallComplete slot num) :=
  fun _ _ h => nomatch (h : none = some _)

theorem Laws.Encoding.collectiveAbortPacket (slot rank num cause : Nat) : Laws.Encoding.Statement (.collectiveAbortPacket slot rank num cause) :=
  fun _ _ h => nomatch (h : none = some _)

theorem Laws.Encoding.collectiveStartTimeout (slot num : Nat) : Laws.Encoding.Statement (.collectiveStartTimeout slot num) :=
  fun _ _ h => nomatch (h : none = some _)

theorem Laws.Encoding.arbiterCalendar (slot : Nat) (rows : List (Nat × List Nat)) : Laws.Encoding.Statement (.arbiterCalendar slot rows) :=
  fun _ _ h => nomatch (h : none = some _)

theorem Laws.Encoding.grantRecordReceive (slot : Nat) (g : Grant) : Laws.Encoding.Statement (.grantRecordReceive slot g) :=
  fun _ _ h => nomatch (h : none = some _)

theorem Laws.Encoding.exchangePhase (slot : Nat) : Laws.Encoding.Statement (.exchangePhase slot) :=
  fun _ _ h => nomatch (h : none = some _)

theorem Laws.Encoding.exchangeDataLand (slot rank : Nat) (p : ExchPkt) : Laws.Encoding.Statement (.exchangeDataLand slot rank p) :=
  fun _ _ h => nomatch (h : none = some _)

theorem Laws.Encoding.roundDoneReport (slot : Nat) (acks : List (Nat × Nat)) : Laws.Encoding.Statement (.roundDoneReport slot acks) :=
  fun _ _ h => nomatch (h : none = some _)

theorem Laws.Encoding.roundEndBroadcast (slot : Nat) (reports : List RoundReport) : Laws.Encoding.Statement (.roundEndBroadcast slot reports) :=
  fun _ _ h => nomatch (h : none = some _)

theorem Laws.Encoding.roundEndReceive (slot round : Nat) (any : Bool) : Laws.Encoding.Statement (.roundEndReceive slot round any) :=
  fun _ _ h => nomatch (h : none = some _)

theorem Laws.Encoding.exchangePostTimeout (slot missing : Nat) (firstRow : Nat) : Laws.Encoding.Statement (.exchangePostTimeout slot missing firstRow) :=
  fun _ _ h => nomatch (h : none = some _)

theorem Laws.Encoding.landingListTimeout (slot : Nat) : Laws.Encoding.Statement (.landingListTimeout slot) :=
  fun _ _ h => nomatch (h : none = some _)

theorem Laws.Encoding.exchangeSendTimeout (slot : Nat) : Laws.Encoding.Statement (.exchangeSendTimeout slot) :=
  fun _ _ h => nomatch (h : none = some _)

theorem Laws.Encoding.exchangeAbortPacket (slot rank round : Nat) : Laws.Encoding.Statement (.exchangeAbortPacket slot rank round) :=
  fun _ _ h => nomatch (h : none = some _)

theorem Laws.Encoding.arbiterBeacon (slot rank : Nat) : Laws.Encoding.Statement (.arbiterBeacon slot rank) :=
  fun _ _ h => nomatch (h : none = some _)

theorem Laws.Encoding.memberHeartbeat (slot rank : Nat) : Laws.Encoding.Statement (.memberHeartbeat slot rank) :=
  fun _ _ h => nomatch (h : none = some _)

theorem Laws.Encoding.livenessLapse (slot rank : Nat) : Laws.Encoding.Statement (.livenessLapse slot rank) :=
  fun _ _ h => nomatch (h : none = some _)

theorem Laws.Encoding.arbiterClaim (slot : Nat) : Laws.Encoding.Statement (.arbiterClaim slot) :=
  fun _ _ h => nomatch (h : none = some _)

theorem Laws.Encoding.claimAccept (slot rank term : Nat) : Laws.Encoding.Statement (.claimAccept slot rank term) :=
  fun _ _ h => nomatch (h : none = some _)

theorem Laws.Encoding.translationWalk (r : Req) : Laws.Encoding.Statement (.translationWalk r) :=
  fun _ _ h => nomatch (h : none = some _)

theorem Laws.Encoding.translationFault (r : Req) (hold : Nat) : Laws.Encoding.Statement (.translationFault r hold) :=
  fun _ _ h => nomatch (h : none = some _)

theorem Laws.Encoding.xretryRetry (hold : Nat) : Laws.Encoding.Statement (.xretryRetry hold) :=
  fun _ _ h => nomatch (h : none = some _)

theorem Laws.Encoding.xretryAbandon (hold : Nat) : Laws.Encoding.Statement (.xretryAbandon hold) :=
  fun _ _ h => nomatch (h : none = some _)

theorem Laws.Encoding.invalidationStart (v : Word) : Laws.Encoding.Statement (.invalidationStart v) :=
  fun _ _ h => nomatch (h : none = some _)

theorem Laws.Encoding.invalidationComplete : Laws.Encoding.Statement (.invalidationComplete) :=
  fun _ _ h => nomatch (h : none = some _)

theorem Laws.Encoding.priResponse (hold : Nat) (r : PriResult) : Laws.Encoding.Statement (.priResponse hold r) :=
  fun _ _ h => nomatch (h : none = some _)

theorem Laws.Encoding.atsInvalidation (ctx va granules : Nat) : Laws.Encoding.Statement (.atsInvalidation ctx va granules) :=
  fun _ _ h => nomatch (h : none = some _)

theorem Laws.Encoding.accessCountNotify (die idx : Nat) : Laws.Encoding.Statement (.accessCountNotify die idx) :=
  fun _ _ h => nomatch (h : none = some _)

theorem Laws.Encoding.instantEnd (inst : Nat) : Laws.Encoding.Statement (.instantEnd inst) :=
  fun _ _ h => nomatch (h : none = some _)

theorem Laws.Encoding.quiescenceFault (inst : Nat) : Laws.Encoding.Statement (.quiescenceFault inst) :=
  fun _ _ h => nomatch (h : none = some _)

theorem Laws.Encoding.queueDoorbell (q v : Nat) : Laws.Encoding.Statement (.queueDoorbell q v) :=
  fun _ _ h => nomatch (h : none = some _)

theorem Laws.Encoding.graphLaunchPacket (q : Nat) : Laws.Encoding.Statement (.graphLaunchPacket q) :=
  fun _ _ h => nomatch (h : none = some _)

theorem Laws.Encoding.copyPacket (q : Nat) : Laws.Encoding.Statement (.copyPacket q) :=
  fun _ _ h => nomatch (h : none = some _)

theorem Laws.Encoding.barrierAndPacket (q : Nat) : Laws.Encoding.Statement (.barrierAndPacket q) :=
  fun _ _ h => nomatch (h : none = some _)

theorem Laws.Encoding.signalPacket (q : Nat) : Laws.Encoding.Statement (.signalPacket q) :=
  fun _ _ h => nomatch (h : none = some _)

theorem Laws.Encoding.queueReset (q : Nat) : Laws.Encoding.Statement (.queueReset q) :=
  fun _ _ h => nomatch (h : none = some _)

theorem Laws.Encoding.queueSkip (q : Nat) : Laws.Encoding.Statement (.queueSkip q) :=
  fun _ _ h => nomatch (h : none = some _)

theorem Laws.Encoding.liveDeltaApply (gi : Nat) : Laws.Encoding.Statement (.liveDeltaApply gi) :=
  fun _ _ h => nomatch (h : none = some _)

theorem Laws.Encoding.graphItemEnd (gi : Nat) : Laws.Encoding.Statement (.graphItemEnd gi) :=
  fun _ _ h => nomatch (h : none = some _)

theorem Laws.Encoding.pendingLaunchTake : Laws.Encoding.Statement (.pendingLaunchTake) :=
  fun _ _ h => nomatch (h : none = some _)

theorem Laws.Encoding.ringCountInterrupt (n : Nat) : Laws.Encoding.Statement (.ringCountInterrupt n) :=
  fun _ _ h => nomatch (h : none = some _)

theorem Laws.Encoding.ringTimerExpiry (n : Nat) : Laws.Encoding.Statement (.ringTimerExpiry n) :=
  fun _ _ h => nomatch (h : none = some _)

theorem Laws.Encoding.mailboxClear (n : Nat) : Laws.Encoding.Statement (.mailboxClear n) :=
  fun _ _ h => nomatch (h : none = some _)

theorem Laws.Encoding.makeResident (ctx idx : Nat) (p : ResidentReq) : Laws.Encoding.Statement (.makeResident ctx idx p) :=
  fun _ _ h => nomatch (h : none = some _)

theorem Laws.Encoding.stagePlacement (inst : Nat) (ptes : List (Nat × BitVec 64)) : Laws.Encoding.Statement (.stagePlacement inst ptes) :=
  fun _ _ h => nomatch (h : none = some _)

theorem Laws.Encoding.stageEnd (inst : Nat) : Laws.Encoding.Statement (.stageEnd inst) :=
  fun _ _ h => nomatch (h : none = some _)

theorem Laws.Encoding.schedulerDecision : Laws.Encoding.Statement (.schedulerDecision) :=
  fun _ _ h => nomatch (h : none = some _)

theorem Laws.Encoding.quantumExpiry (inst : Nat) : Laws.Encoding.Statement (.quantumExpiry inst) :=
  fun _ _ h => nomatch (h : none = some _)

theorem Laws.Encoding.stageAged (inst : Nat) : Laws.Encoding.Statement (.stageAged inst) :=
  fun _ _ h => nomatch (h : none = some _)

theorem Laws.Encoding.preemptionSave (inst : Nat) : Laws.Encoding.Statement (.preemptionSave inst) :=
  fun _ _ h => nomatch (h : none = some _)

theorem Laws.Encoding.stageResume (inst : Nat) (ptes : List (Nat × BitVec 64)) : Laws.Encoding.Statement (.stageResume inst ptes) :=
  fun _ _ h => nomatch (h : none = some _)

theorem Laws.Encoding.clockWindow (reg : Nat) (w : ClockWindow) : Laws.Encoding.Statement (.clockWindow reg w) :=
  fun _ _ h => nomatch (h : none = some _)

theorem Laws.Encoding.fatalFaultGraphEnd (gi : Nat) : Laws.Encoding.Statement (.fatalFaultGraphEnd gi) :=
  fun _ _ h => nomatch (h : none = some _)

theorem Laws.Encoding.registerWrite (addr : Nat) (v : BitVec 64) : Laws.Encoding.Statement (.registerWrite addr v) :=
  fun _ _ h => nomatch (h : none = some _)

theorem Laws.Encoding.powerOn (b : BootInput) : Laws.Encoding.Statement (.powerOn b) :=
  fun _ _ h => nomatch (h : none = some _)

theorem Laws.Encoding.orderlyReset : Laws.Encoding.Statement (.orderlyReset) :=
  fun _ _ h => nomatch (h : none = some _)

theorem Laws.Encoding.leaseRenew : Laws.Encoding.Statement (.leaseRenew) :=
  fun _ _ h => nomatch (h : none = some _)

theorem Laws.Encoding.leaseClaim (core : Nat) : Laws.Encoding.Statement (.leaseClaim core) :=
  fun _ _ h => nomatch (h : none = some _)

theorem Laws.Encoding.mirrorLoad (core : Nat) : Laws.Encoding.Statement (.mirrorLoad core) :=
  fun _ _ h => nomatch (h : none = some _)

theorem Laws.Encoding.spdmRequest (blocks : List Nat) : Laws.Encoding.Statement (.spdmRequest blocks) :=
  fun _ _ h => nomatch (h : none = some _)

theorem Laws.Encoding.marginMeasurement (reg steps : Nat) : Laws.Encoding.Statement (.marginMeasurement reg steps) :=
  fun _ _ h => nomatch (h : none = some _)

theorem Laws.Encoding.eccScrub (errs : List EccErr) : Laws.Encoding.Statement (.eccScrub errs) :=
  fun _ _ h => nomatch (h : none = some _)

theorem Laws.Encoding.linkRetrain (link : Nat) (ok : Bool) : Laws.Encoding.Statement (.linkRetrain link ok) :=
  fun _ _ h => nomatch (h : none = some _)

theorem Laws.Encoding.hardFaultFence (reg bank : Nat) : Laws.Encoding.Statement (.hardFaultFence reg bank) :=
  fun _ _ h => nomatch (h : none = some _)

theorem Laws.Encoding.lifetimeRecordUpdate (core : Nat) (u : LifeUpdate) : Laws.Encoding.Statement (.lifetimeRecordUpdate core u) :=
  fun _ _ h => nomatch (h : none = some _)

theorem Laws.Encoding.lrcmdGo : Laws.Encoding.Statement (.lrcmdGo) :=
  fun _ _ h => nomatch (h : none = some _)

theorem Laws.Encoding.signalVisible (inst : Nat) (at_ : Nat × Nat) (sig : Nat) : Laws.Encoding.Statement (.signalVisible inst at_ sig) :=
  fun _ _ h => nomatch (h : none = some _)

theorem Laws.Encoding.exchangeEndPacket (slot rank round len : Nat) : Laws.Encoding.Statement (.exchangeEndPacket slot rank round len) :=
  fun _ _ h => nomatch (h : none = some _)

theorem Laws.Encoding.atsTranslationCompletion (r : Req) (a : AtsResult) : Laws.Encoding.Statement (.atsTranslationCompletion r a) :=
  fun _ _ h => nomatch (h : none = some _)

theorem Laws.Encoding.thermalLimitChange (watts : Nat) : Laws.Encoding.Statement (.thermalLimitChange watts) :=
  fun _ _ h => nomatch (h : none = some _)

theorem Laws.Encoding.powerLoss : Laws.Encoding.Statement (.powerLoss) :=
  fun _ _ h => nomatch (h : none = some _)

end Sys2Proof
end

