-- ==== Sys2Proof/Tests/Slice0.lean ====
section
/-! SUPPORT. Tests: words of the spec, ill-formed words, values the spec states, and for every statement a state and operands that
meet its hypotheses. -/

namespace Sys2Proof.Tests

open Sys2Proof Sys2Proof.Machine

set_option Elab.async false

/-! ## Words the spec writes out (R117, R153, R155, R160, R168, R352), and one word of each family written bit by bit -/

/-- The instruction of a word, if it is one. -/
def ins (w : SlotWord) : Option Instr :=
  match decodeSlot w with
  | .ok r => some r.2
  | .error _ => none

/-- Why a word is none. -/
def rej (w : SlotWord) : Option Reject :=
  match decodeSlot w with
  | .ok _ => none
  | .error r => some r

/-- V = 1 under no condition, an opcode, 22 bits. -/
def wordOf (op : BitVec 8) (action : BitVec 22) : SlotWord := (1 : BitVec 34) ++ op ++ action

theorem test_word_fadd : ins 0x0404_8A00_4804_6280 = some (.fadd ⟨1, 1, 8, 10, 0, 0, 0⟩) := by decide +kernel
theorem test_word_addi : ins 0x0000_8000_5026_3FFB = some (.addi ⟨9, 8, 0x3FFB⟩) := by decide +kernel
theorem test_word_pset : ins 0x8080_0000_58B0_FE00 = some (.pset ⟨12, 0, 0xFE00⟩) := by decide +kernel
theorem test_word_plog : ins 0x1000_0000_5854_0403 = some (.plog ⟨5, 0, 0x0403⟩) := by decide +kernel
theorem test_word_qeq : ins 0x0000_9000_7402_4AE0 = some (.qeq ⟨0, 9, 2, 11, 2, 0, 0⟩) := by decide +kernel
theorem test_word_st_inc : ins 0x0000_8800_62F0_2110 = some (.st ⟨12, 0, 8, 0, 2, 1, 0, 0⟩) := by decide +kernel
theorem test_word_pgo : ins 0x0000_A000_6232_B500 = some (.pgo ⟨12, 10, 13, 0, 2, 0, 0, 0⟩) := by decide +kernel
theorem test_word_mark : ins 0x8600_CE00_7227_03DC = some (.mark ⟨9, 12, 0, 15, 1, 3, 0⟩) := by decide +kernel
theorem test_word_halt : ins 0x0000_C800_7873_4000 = some (.halt ⟨12, 13, 0, 0, 0⟩) := by decide +kernel
theorem test_word_trap : ins 0x4040_AA00_78B2_81C0 = some (.trap ⟨12, 10, 7, 0, 0⟩) := by decide +kernel
theorem test_word_csrr : ins 0x0602_0000_78D7_4029 = some (.csrr ⟨5, 13, 0, 10, 1⟩) := by decide +kernel
theorem test_word_csrw : ins 0x0000_8C00_7932_0140 = some (.csrw ⟨12, 8, 5, 0, 0⟩) := by decide +kernel
theorem test_word_nop : ins 0x0000_0000_7833_4000 = some (.nop ⟨12, 13, 0, 0, 0⟩) := by decide +kernel

-- Format A: DST 4, SA 4, SB 4, PU 4, PS 2, OT 2, MOD 2.
theorem test_bits_sub : ins (wordOf 0x01 0b0011_0001_0010_0000_00_10_00) = some (.sub ⟨3, 1, 2, 0, 0, 2, 0⟩) := by decide +kernel
theorem test_bits_peek : ins (wordOf 0x00 0b0011_1000_1001_1101_01_00_10) = some (.add ⟨3, 8, 9, 13, 1, 0, 2⟩) := by decide +kernel
-- Format I: DST, SA, IMM14.
theorem test_bits_bfxi : ins (wordOf 0x50 0b0011_0001_000_001000_00100) = some (.bfxi ⟨3, 1, 0x104⟩) := by decide +kernel
-- Format K: DST, HS, IMM16.
theorem test_bits_ldk_hi : ins (wordOf 0x60 0b0001_01_1101111010101101) = some (.ldk ⟨1, 1, 0xDEAD⟩) := by decide +kernel
-- Format M: DST, SA, SB, PM, SZ, AUX, OT, MOD.
theorem test_bits_atomr : ins (wordOf 0x90 0b0101_0001_0010_0_10_111_01_00) = some (.atomr ⟨5, 1, 2, 0, 2, 7, 1, 0⟩) := by decide +kernel
theorem test_bits_ld_far : ins (wordOf 0x8A 0b1100_0001_1101_1_01_110_00_00) = some (.ld ⟨12, 1, 13, 1, 1, 6, 0, 0⟩) := by decide +kernel
theorem test_bits_tqry : ins (wordOf 0x83 0b0010_0001_1101_0_10_100_00_00) = some (.tqry ⟨2, 1, 13, 0, 2, 4, 0, 0⟩) := by decide +kernel
-- Format E: DST, SA, SB, FN.
theorem test_bits_bdins : ins (wordOf 0xA2 0b0010_0001_0011_0000000000) = some (.bdins ⟨2, 1, 3, 0⟩) := by decide +kernel
theorem test_bits_topb : ins (wordOf 0xAB 0b0010_0001_0011_0000000111) = some (.topb ⟨2, 1, 3, 7⟩) := by decide +kernel
theorem test_bits_scat : ins (wordOf 0xAE 0b0010_0001_0011_0000000010) = some (.scat ⟨2, 1, 3, 2⟩) := by decide +kernel
theorem test_bits_dpost : ins (wordOf 0xB1 0b0010_0001_1101_0000000000) = some (.dpost ⟨2, 1, 13, 0⟩) := by decide +kernel
theorem test_bits_crun : ins (wordOf 0xB7 0b0010_0001_0011_0000000011) = some (.crun ⟨2, 1, 3, 3⟩) := by decide +kernel
-- Format S: DST, SA, SLI, PU, PS, OT, MOD.
theorem test_bits_emitv : ins (wordOf 0xC1 0b1100_0001_0101_0000_00_00_00) = some (.emitv ⟨12, 1, 5, 0, 0, 0, 0⟩) := by decide +kernel
-- Format Y: DST, SA, IDX 8, PU, PS.
theorem test_bits_glaunch : ins (wordOf 0xE6 0b0010_0001_00000011_0000_00) = some (.glaunch ⟨2, 1, 3, 0, 0⟩) := by decide +kernel

/-! ## Words that are no instruction (R54): one for each check -/

theorem smoke_notValid : rej 0x0000_0000_3833_4000 = some .notValid := by decide +kernel
theorem smoke_pvalOutside : rej 0x0001_0000_7833_4000 = some .pvalOutside := by decide +kernel
theorem smoke_guardBits : rej 0x0000_1000_7833_4000 = some .guardBits := by decide +kernel
theorem smoke_channelCode : rej 0x0000_D000_7833_4000 = some .channelCode := by decide +kernel
theorem smoke_tagBits : rej 0x0000_8200_7833_4000 = some .tagBits := by decide +kernel
theorem smoke_signalGuard : rej 0x0000_0018_7833_4000 = some .signalGuard := by decide +kernel
theorem smoke_beatsPeek : rej ((0b0_0000_0000_0000_0000_1_000_0_00_0001_00_0000_1 : BitVec 34) ++ (0x00 : BitVec 8) ++
    (0b0011_1000_0001_0000_00_00_10 : BitVec 22)) = some .beatsPeek := by decide +kernel
theorem smoke_reservedOp : rej (wordOf 0x1F 0) = some .reservedOp := by decide +kernel
theorem smoke_subcode : rej (wordOf 0xAB 0b0010_0001_0011_0000001000) = some .subcode := by decide +kernel
theorem smoke_source : rej (wordOf 0x00 0b0011_1111_0010_0000_00_00_00) = some .source := by decide +kernel
theorem smoke_destination : rej (wordOf 0x16 0b1000_0001_0010_0000_00_00_00) = some .destination := by decide +kernel
theorem smoke_predicateWrite : rej (wordOf 0x00 0b0011_0001_0010_1000_10_00_00) = some .predicateWrite := by decide +kernel
theorem smoke_peek : rej (wordOf 0x00 0b0011_0001_0010_0000_00_00_10) = some .peek := by decide +kernel
theorem smoke_width : rej (wordOf 0x8A 0b1100_0001_1101_0_11_000_00_00) = some .width := by decide +kernel
theorem smoke_outTag : rej (wordOf 0x00 0b0011_0001_0010_0000_00_11_00) = some .outTag := by decide +kernel
theorem smoke_unusedBits : rej (wordOf 0x44 0b0011_0001_00000000100000) = some .unusedBits := by decide +kernel
theorem smoke_tooShort : (match decodeBytes [0x00, 0x40] with | .error r => some r | .ok _ => none) = some .tooShort := by decide +kernel

/-! ## A small part: one stage on one region, one element, two pages -/

def e0 : ERef := ⟨0, 0, 0⟩

/-- A gibibyte of HBM4 at address 0, and 2 MiB of the cistern behind it, both mapped and cached. -/
def pages : List TlbE := [⟨0, 0, 30, 13, none, 0, false⟩, ⟨0, 512, 21, 0x0400_0000_0000_000D, none, 0, false⟩]

def elem0 : ElemImage := ⟨0, 0, [], [], 0, [], [], 0, [], false, some ⟨.region, [(0, 0, 3)]⟩, [(0, 0)], none, none⟩

def image : StageImage := ⟨false, 1, [⟨0, false⟩], [elem0], [], [⟨none, [(0, 0)]⟩], [], [], [], 0⟩

def part (x : Elem) (g : StageImage) (mem : List (Nat × Byte)) : State :=
  { State.reset with
    elems := [(e0, x)], insts := [(0, { img := g, status := .running })], graphs := [(0, emptyGraph)]
    tlb := [(0, pages)], utlb := [(.elem e0, pages), (.pump e0 0, pages), (.well 0, pages)], cur := e0, mem := mem }

/-- Words at an address of HBM4. -/
def words (a : Nat) (ws : List Word) (m : List (Nat × Byte)) : List (Nat × Byte) := memPutAll m (keyed (hbmKey a) (bytesOfWords ws))

/-- Words at an address of the cistern page. -/
def cwords (a : Nat) (ws : List Word) (m : List (Nat × Byte)) : List (Nat × Byte) := memPutAll m (keyed (cisternKey a) (bytesOfWords ws))

def next? (o : Out) : Option State :=
  match o with
  | .next t => some t
  | _ => none

/-- Register k of the element after a step, with its flag. -/
def reg (o : Out) (k : Nat) : Option (Word × Bool) := (next? o).map (fun t => ((t.elem e0).dreg k, (t.elem e0).dflag k))

/-- The cause of the graph's fault after a step. -/
def cause (o : Out) : Option Nat := (next? o).bind (fun t => (t.graph 0).fault.map FaultRec.cause)

def regs (a b d : Word) : Elem := { d := [(0, a), (1, b), (2, d)] }

def fA : FmtA := ⟨2, 0, 1, 0, 0, 0, 0⟩
def runA2 (c : FmtA → Instr) (a b d : Word) : Option (Word × Bool) := reg (exec (c fA) (part (regs a b d) image [])) 2

/-! ## Scalar instructions: values the spec states (R149 to R160) -/

theorem test_add_wraps : runA2 .add 0xFFFF_FFFF 2 0 = some (1, false) := by decide +kernel
theorem test_sub_wraps : runA2 .sub 0 1 0 = some (0xFFFF_FFFF, false) := by decide +kernel
theorem test_mulh_signed : runA2 .mulh 0xFFFF_FFFF 2 0 = some (0xFFFF_FFFF, false) := by decide +kernel
theorem test_mulhu : runA2 .mulhu 0xFFFF_FFFF 2 0 = some (1, false) := by decide +kernel
theorem test_andn : runA2 .andn 0xFF 0x0F 0 = some (0xF0, false) := by decide +kernel
theorem test_shl_32 : runA2 .shl 1 32 0 = some (0, false) := by decide +kernel
theorem test_sra_40 : runA2 .sra 0x8000_0000 40 0 = some (0xFFFF_FFFF, false) := by decide +kernel
theorem test_min_signed : runA2 .min 0xFFFF_FFFF 1 0 = some (0xFFFF_FFFF, false) := by decide +kernel
theorem test_minu : runA2 .minu 0xFFFF_FFFF 1 0 = some (1, false) := by decide +kernel
theorem test_cmplt : runA2 .cmplt 0x8000_0000 0 0 = some (1, false) := by decide +kernel
theorem test_cmpltu : runA2 .cmpltu 0x8000_0000 0 0 = some (0, false) := by decide +kernel
theorem test_sel_zero : runA2 .sel 7 9 0 = some (9, false) := by decide +kernel
theorem test_bfx_cut : runA2 .bfx 0xDEAD_BEEF 0x081C 0 = some (0x0000_000D, false) := by decide +kernel
theorem test_bfx_whole : runA2 .bfx 0xDEAD_BEEF 0x2800 0 = some (0xDEAD_BEEF, false) := by decide +kernel
theorem test_bfi : runA2 .bfi 0x0000_0005 0x0408 0xDEAD_BEEF = some (0xDEAD_B5EF, false) := by decide +kernel
theorem test_bfi_cut : runA2 .bfi 0x0000_0123 0x081C 0xDEAD_BEEF = some (0x3EAD_BEEF, false) := by decide +kernel
theorem test_clz_zero : runA2 .clz 0 0 0 = some (32, false) := by decide +kernel
theorem test_ctz : runA2 .ctz 0x8000_0000 0 0 = some (31, false) := by decide +kernel
theorem test_popc : runA2 .popc 0xF0F0_0001 0 0 = some (9, false) := by decide +kernel
theorem test_adds_clamps : runA2 .adds 0x7FFF_FFFF 1 0 = some (0x7FFF_FFFF, true) := by decide +kernel
theorem test_abs_min : runA2 .abs 0x8000_0000 0 0 = some (0x7FFF_FFFF, true) := by decide +kernel
theorem test_fadd_zero_signs : runA2 .fadd 0x8000_0000 0x8000_0000 0 = some (0x8000_0000, false) := by decide +kernel
theorem test_fsub_infinities : runA2 .fsub 0x7F80_0000 0x7F80_0000 0 = some (0x7FC0_0000, true) := by decide +kernel
theorem test_fmul_overflow : runA2 .fmul 0x7F00_0000 0x7F00_0000 0 = some (0x7F80_0000, true) := by decide +kernel
theorem test_fmac_one_rounding : runA2 .fmac 0x3F80_0001 0x3F80_0001 0xBF80_0002 = some (0x2880_0000, false) := by decide +kernel
theorem test_fmin_zeros : runA2 .fmin 0 0x8000_0000 0 = some (0x8000_0000, false) := by decide +kernel
theorem test_fcmpeq_zeros : runA2 .fcmpeq 0 0x8000_0000 0 = some (1, false) := by decide +kernel
theorem test_exp2_three : runA2 .exp2 0x4040_0000 0 0 = some (0x4100_0000, false) := by decide +kernel
theorem test_log2_eight : runA2 .log2 0x4100_0000 0 0 = some (0x4040_0000, false) := by decide +kernel
theorem test_rcp_pole : runA2 .rcp 0x8000_0000 0 0 = some (0xFF80_0000, true) := by decide +kernel
theorem test_rsq_quarter : runA2 .rsq 0x3E80_0000 0 0 = some (0x4000_0000, false) := by decide +kernel
theorem test_badd2 : runA2 .badd2 0x3F80_4000 0x3F80_3F80 0 = some (0x4000_4040, false) := by decide +kernel
theorem test_hmul2 : runA2 .hmul2 0x3C00_4000 0x4000_4000 0 = some (0x4000_4400, false) := by decide +kernel
theorem test_cvtfi_tie : runA2 .cvtfi 0x4020_0000 0 0 = some (2, false) := by decide +kernel
theorem test_cvtif : runA2 .cvtif 0xFFFF_FFFF 0 0 = some (0xBF80_0000, false) := by decide +kernel
-- The trace of R160: 1.0, 500.0, -0.3, 464.0 through cvtf4s; 500.0 through cvtf4; byte 2 widened.
theorem test_cvtf4s_one : runA2 .cvtf4s 0x3F80_0000 0 0 = some (0x3800_0000, false) := by decide +kernel
theorem test_cvtf4s_clamps : runA2 .cvtf4s 0x43FA_0000 0x3800_0000 0 = some (0x7E38_0000, true) := by decide +kernel
theorem test_cvtf4_nan : runA2 .cvtf4 0x43FA_0000 0x3800_0000 0 = some (0x7F38_0000, true) := by decide +kernel
theorem test_cvt4f : runA2 .cvt4f 0x7EAA_7E38 2 0 = some (0xBEA0_0000, false) := by decide +kernel

def xI : Elem := regs 5 0 0xDEAD_BEEF
theorem test_addi_negative : reg (exec (.addi ⟨2, 0, 0x3FFB⟩) (part xI image [])) 2 = some (0, false) := by decide +kernel
theorem test_cmpltui_sign : reg (exec (.cmpltui ⟨2, 0, 0x3FFF⟩) (part xI image [])) 2 = some (1, false) := by decide +kernel
theorem test_ldk_hi : reg (exec (.ldk ⟨2, 1, 0x1234⟩) (part xI image [])) 2 = some (0x1234_BEEF, false) := by decide +kernel
theorem test_ldk_sx : reg (exec (.ldk ⟨2, 3, 0x8000⟩) (part xI image [])) 2 = some (0xFFFF_8000, false) := by decide +kernel
theorem test_ldkf : reg (exec (.ldkf ⟨2, 0, 0x3FC0⟩) (part xI image [])) 2 = some (0x3FC0_0000, false) := by decide +kernel
theorem test_plog_andn : ((next? (exec (.plog ⟨5, 0, 0x0403⟩) (part { p := 1 } image []))).map (fun t => (t.elem e0).p)) = some 0x21 := by
  decide +kernel
theorem test_pset : ((next? (exec (.pset ⟨12, 0, 0x0F05⟩) (part { p := 0xFF } image []))).map (fun t => (t.elem e0).p)) = some 0xF5 := by
  decide +kernel

-- The group of R76 and its variant, and R79.
theorem test_worked_group : dotgroup 0x4B80_0000 (.fin false 1 0 :: .fin false 1 (-24) :: List.replicate 30 (.fin false 0 0)) =
    (0x4B80_0000, false) := by decide +kernel
theorem test_worked_group_variant : dotgroup 0x4B80_0000 (.fin false 1 0 :: .fin false 1 (-22) :: List.replicate 30 (.fin false 0 0)) =
    (0x4B80_0001, false) := by decide +kernel
theorem test_sacc_nan_scale : saccOp 0x3F80_0000 0x3F80_0000 255 127 = (0x7FC0_0000, true) := by decide +kernel
theorem test_sacc_scale : saccOp 0x3F80_0000 0x3F80_0000 127 128 = (0x4040_0000, false) := by decide +kernel

/-- The rule of R86: U(1) of width 6 and Z_2. -/
def ruleWords : List Word := [0xA700_0001, 0x4600_0000, 0x8000_0002, 0, 0, 0, 0, 0]
def rule0 : Rule := (ruleOf ruleWords).getD []
theorem test_rule : (ruleOf ruleWords).isSome = true := by decide +kernel
theorem test_cadd : cadd rule0 0x7D 0x45 = (0x02, false) := by decide +kernel
theorem test_cneg : cneg rule0 0x7D = (0x43, false) := by decide +kernel
theorem test_cadd_wraps : cadd rule0 30 5 = (0x23, true) := by decide +kernel

/-! ## The hypotheses of the statements can be met: whole machine, operands, frames -/

/-- Channels whose stored lists hold at most 16 tokens. -/
theorem channels_of {s : State} (h : ∀ p ∈ s.elems, ∀ q ∈ p.2.inp, q.2.length ≤ 16) (e : ERef) (c : Nat) : ((s.elem e).chan c).length ≤ 16 := by
  have get {κ α : Type} [DecidableEq κ] (P : α → Prop) (d : α) (hd : P d) (k : κ) (l : AMap κ α) (hl : ∀ p ∈ l, P p.2) : P (kget d l k) := by
    induction l with
    | nil => exact hd
    | cons p l ih =>
      simp only [kget]
      split
      · exact hl p (by simp)
      · exact ih (fun q hq => hl q (List.mem_cons_of_mem _ hq))
  exact get (fun x : Elem => (x.chan c).length ≤ 16) {} (Nat.zero_le _) e s.elems
    (fun p hp => get (fun l : List Token => l.length ≤ 16) [] (Nat.zero_le _) c p.2.inp (fun q hq => h p hp q hq))

theorem witness_reset_step : State.reset.Good ∧ step State.reset = .next State.reset :=
  ⟨⟨show Memory.wf State.reset.mem by decide, by decide, by decide, by decide, by decide, rfl, channels_of (by decide)⟩, rfl⟩

def latchedNop : State := (part {} image []).withFetchWord 64 0x0000_0000_7833_4000

/-- StepKeepsInvariant: the invariant stands in a state whose next step is an instruction's. -/
theorem witness_step_good : latchedNop.Good ∧ (next? (step latchedNop)).isSome = true :=
  ⟨⟨show Memory.wf latchedNop.mem by decide +kernel, by decide, by decide, by decide, by decide, rfl, channels_of (by decide +kernel)⟩, by decide +kernel⟩

theorem witness_step_decodes : latchedNop.latched = true ∧
    decodeSlot ((latchedNop.elem latchedNop.cur).slotWord latchedNop.curSlot) =
      .ok (⟨0, 0, 0, 0, 0, 0, 0, 0, 0, 1⟩, .nop ⟨12, 13, 0, 0, 0⟩) := by decide +kernel

/-- A word that is none is refused. -/
theorem witness_step_rejects : decodeSlot (((part {} image []).withFetchWord 64 0).elem e0 |>.slotWord 0) = .error .notValid := by
  decide +kernel

theorem witness_agenda : ∃ s : State, s.latched = false ∧ s.agenda = [(5, .poke 64 [1, 2]), (0, .widen 0 .part), (0, .decay 1 2 3)] ∧
    Memory.wf s.mem ∧ next? (step s) ≠ none :=
  ⟨{ State.reset with agenda := [(5, .poke 64 [1, 2]), (0, .widen 0 .part), (0, .decay 1 2 3)] }, by decide +kernel⟩

/-- Host bytes poked are read by an agent of the part. -/
theorem test_poke : (next? (step { State.reset with agenda := [(5, .poke 64 [1, 2])] })).map
    (fun t => (readByte t.mem ⟨0, 0, none, 1000⟩ t.stores 65, t.now)) = some (2, 5) := by decide +kernel

theorem witness_encode : WellFormed ⟨0, 0, 1, 4, 1, 3, 0, 0, 0, 1⟩ (.sub ⟨3, 1, 2, 0, 0, 2, 0⟩) = true := by decide +kernel

theorem witness_no_opcode : ∀ i : Instr, i.opcode ≠ some (opOf (wordOf 0x1F 0)) := by
  intro i; cases i <;> simp [Instr.opcode, wordOf, opOf]

/-- A channel as one source and a register as the other, an output channel with a place. -/
def xMix : Elem := { d := [(0, 4)], inp := [(1, [⟨9, 2, true, none, none⟩, ⟨8, 0, false, none, none⟩])] }

theorem witness_sources : srcState xMix (xMix.trig 0) 0 = 0 ∧ srcState xMix (xMix.trig 0) 9 = 0 ∧ dstFull xMix 8 = false := by
  decide +kernel

theorem witness_frame : ∃ t u v w x y z, exec (.add fA) (part (regs 1 2 3) image []) = .next t ∧ exec (.addi ⟨2, 0, 1⟩) (part {} image []) = .next u ∧
    exec (.ldk ⟨2, 2, 1⟩) (part {} image []) = .next v ∧ exec (.tqry ⟨2, 0, 13, 0, 2, 1, 0, 0⟩) (part {} image []) = .next w ∧
    exec (.bcstat ⟨2, 0, 1, 0⟩) (part {} image []) = .next x ∧ exec (.emit ⟨12, 13, 0, 0, 0, 0, 0⟩) (part {} image []) = .next y ∧
    exec (.csrw ⟨12, 0, 5, 0, 0⟩) (part {} image []) = .next z :=
  ⟨_, _, _, _, _, _, _, rfl, rfl, rfl, rfl, rfl, rfl, rfl⟩

/-- An empty source channel: the instruction waits; an unguarded marker at its head: it traps. -/
theorem witness_operand_wait : srcState {} (({} : Elem).trig 0) 8 = 1 ∧ dstFull {} 2 = false := by decide +kernel
def xMark : Elem := { inp := [(0, [⟨0x0200_0000, 3, false, none, none⟩])] }
theorem witness_marker_trap : dstFull xMark 2 = false ∧ srcState xMark (xMark.trig 0) 8 = 2 ∧ srcState xMark (xMark.trig 0) 1 = 0 ∧
    cause (exec (.add ⟨2, 8, 1, 0, 0, 0, 0⟩) (part xMark image [])) = some 0x012 := by decide +kernel

/-! ## Scalar instructions -/

theorem witness_readsA : ReadsA (part (regs 1 2 3) image []) fA ⟨1, 2, 3, false, false, false⟩ [] (regs 1 2 3) :=
  ⟨by decide +kernel, by decide +kernel⟩

/-- A channel read and popped, written to an output channel. -/
theorem witness_readsA_channel : ReadsA (part xMix image []) ⟨8, 0, 9, 0, 0, 0, 0⟩ ⟨4, 9, 0, false, true, false⟩
    [(1, ⟨9, 2, true, none, none⟩)] { xMix with inp := [(1, [⟨8, 0, false, none, none⟩])] } :=
  ⟨by decide +kernel, by decide +kernel⟩

theorem witness_readsI : ReadsI (part xI image []) ⟨2, 0, 1⟩ ⟨5, 0, 0xDEAD_BEEF, false, false, false⟩ [] xI :=
  ⟨by decide +kernel, by decide +kernel⟩

theorem witness_readsK : ReadsK (part xI image []) ⟨2, 2, 1⟩ ⟨0, 0, 0xDEAD_BEEF, false, false, false⟩ [] xI :=
  ⟨by decide +kernel, by decide +kernel⟩

theorem witness_rounding : bf16 ∈ formats ∧ 0 < 3 := by decide

/-- FloatFunctionResults: an operand of each clause. -/
theorem witness_float_operands : fv 0x7FC0_0000 = .nan ∧ fv 0x7F80_0000 = .inf false ∧ fv 0xFF80_0000 = .inf true ∧
    (fv 0x8000_0000).isZero = true ∧ ((fv 0xBF80_0000).isNeg = true ∧ (fv 0xBF80_0000).isFin = true) ∧
    (fv 0x4300_0000).isFin = true ∧ (fv 0x3E80_0000).isFin = true := by decide +kernel

theorem witness_float_values : (128 : ℚ) ≤ (fv 0x4300_0000).q ∧ (fv 0x4040_0000).q = ((3 : Int) : ℚ) ∧
    (fv 0x4080_0000).q = (2 : ℚ) ^ (2 * (1 : Int)) ∧ (fv 0xC080_0000).q = -(2 : ℚ) ^ (2 : Int) := by
  have h1 : fv 0x4300_0000 = .fin false 8388608 (-16) := by decide +kernel
  have h2 : fv 0x4040_0000 = .fin false 12582912 (-22) := by decide +kernel
  have h3 : fv 0x4080_0000 = .fin false 8388608 (-21) := by decide +kernel
  have h4 : fv 0xC080_0000 = .fin true 8388608 (-21) := by decide +kernel
  rw [h1, h2, h3, h4]
  norm_num [FVal.q, zpow_neg]

/-! ## Channels, charges, signals, registers -/

def fS (sli : BitVec 4) : FmtS := ⟨2, 0, sli, 0, 0, 0, 0⟩
def xTok : Elem := { inp := [(0, [⟨0x0100_0005, 1, false, none, none⟩, ⟨7, 3, false, none, none⟩])] }
theorem witness_readsS_channel : ReadsS (part xTok image []) ⟨8, 8, 0, 0, 0, 0, 0⟩ ⟨0x0100_0005, 0, 0, false, false, false⟩
    [(0, ⟨0x0100_0005, 1, false, none, none⟩)] { inp := [(0, [⟨7, 3, false, none, none⟩])] } :=
  ⟨by decide +kernel, by decide +kernel⟩

/-- skip takes the run before the first marker and never waits for it. -/
theorem test_skip : reg (exec (.skip ⟨2, 8, 15, 0, 0, 0, 0⟩) (part xTok image [])) 2 = some (1, false) := by decide +kernel
theorem test_mark_kind : cause (exec (.mark ⟨8, 0, 0, 0, 0, 3, 0⟩) (part (regs 0x0300_0000 0 0) image [])) = some 0x030 := by
  decide +kernel
theorem test_fwd_configuration : cause (exec (.fwd ⟨8, 8, 0, 0, 0, 0, 0⟩)
    (part { inp := [(0, [⟨0x0300_0000, 3, false, none, none⟩])], slots := [(0, 0x0000_8E00_0000_0000)] } image [])) = some 0x030 := by
  decide +kernel

theorem witness_charges : ruleOf ruleWords = some rule0 ∧ canonical rule0 0x7D = true ∧ canonical rule0 0x45 = true ∧
    canonical rule0 0x02 = true ∧ (cadd rule0 0x7D 0x45).2 = false ∧ (cneg rule0 0x7D).2 = false := by decide +kernel

/-- A component of order 65,535 and width 16, the greatest. -/
theorem witness_rule_boundary : (ruleOf [0xA700_0000, 0x8000_FFFF, 0, 0, 0, 0, 0, 0]).isSome = true := by decide +kernel

def charged : State := { part { q := [(0, 0x45)] } image [] with regions := [(⟨0, 0⟩, { rules := [(0, rule0)] })] }
theorem witness_charge_instruction : ReadsS charged ⟨2, 14, 0, 0, 0, 0, 0⟩ ⟨0, 0, 0, false, false, false⟩ [] { q := [(0, 0x45)] } ∧
    (charged.region charged.cur.rref).rules.find? (fun p => p.1 == 0) = some (0, rule0) :=
  ⟨⟨by decide +kernel, by decide +kernel⟩, by decide +kernel⟩
theorem test_qinv : reg (exec (.qinv ⟨2, 13, 0, 0, 0, 0, 0⟩) { charged with elems := [(e0, { q := [(0, 0x7D)] })] }) 2 = some (0x43, false) := by
  decide +kernel
theorem test_qfuse_no_rule : cause (exec (.qfuse (fS 0)) (part {} image [])) = some 0x02A := by decide +kernel

theorem witness_signal : sigOf (part {} image []) e0 0 = some 0 ∧ hasCeded (part {} image []) e0 0 = false ∧
    ReadsS (part {} image []) ⟨12, 13, 0, 0, 0, 0, 0⟩ ⟨0, 0, 0, false, false, false⟩ [] {} :=
  ⟨by decide +kernel, by decide +kernel, ⟨by decide +kernel, by decide +kernel⟩⟩

def ceded : State := (part {} image []).modInst 0 (fun i => { i with acts := [⟨0, 0, 0, none, []⟩] })
theorem witness_ceded : sigOf ceded e0 0 = some 0 ∧ hasCeded ceded e0 0 = true ∧ sigFinal ceded e0 0 = true ∧
    sigFinal (part {} image []) e0 0 = false := by decide +kernel
theorem test_emit_after_cede : cause (exec (.emit ⟨12, 13, 0, 0, 0, 0, 0⟩) ceded) = some 0x140 := by decide +kernel

/-- R299: a sum clamped once over the whole, and the first emission of the earliest emitter. -/
def acts2 : List SigAct := [⟨0, 0, 1, some (0x7FFF_FFFF, false), []⟩, ⟨0, 0, 0, some (5, true), []⟩, ⟨0, 0, 1, some (0xFFFF_FFFF, false), []⟩]
theorem test_combine : combineSig .sum acts2 = (0x7FFF_FFFF, true) ∧ combineSig .first acts2 = (5, true) ∧
    combineSig .max acts2 = (0x7FFF_FFFF, true) := by decide +kernel
theorem witness_combination : acts2.contains ⟨0, 0, 0, some (5, true), []⟩ = true := by decide +kernel

theorem witness_readsY : ReadsY (part {} image []) ⟨2, 13, 2, 0, 0⟩ ⟨0, 0, 0, false, false, false⟩ [] {} :=
  ⟨by decide +kernel, by decide +kernel⟩
theorem test_csrr_clock : reg (exec (.csrr ⟨2, 13, 2, 0, 0⟩) (part {} image [])) 2 = some (900, false) := by decide +kernel
theorem test_csrw_flags : reg (exec (.csrw ⟨12, 0, 5, 0, 0⟩) (part (regs 0x04 0 7) image [])) 2 = some (7, true) := by decide +kernel
theorem test_trap : cause (exec (.trap ⟨12, 0, 7, 0, 0⟩) (part (regs 1 0 0) image [])) = some 0x010 := by decide +kernel

/-! ## Memory -/

/-- An answer is there, and meets a test. -/
def okIs {ε α : Type} (r : Except ε α) (p : α → Bool) : Bool :=
  match r with
  | .ok a => p a
  | .error _ => false

theorem ok_of {ε α : Type} {r : Except ε α} {p : α → Bool} (h : okIs r p = true) : ∃ a, r = .ok a ∧ p a = true := by
  cases r with
  | ok a => exact ⟨a, rfl, h⟩
  | error e => simp [okIs] at h

def xLd : Elem := regs 0x40 2 0xA1B2_C3D4
def fLd : FmtM := ⟨12, 0, 13, 0, 1, 3, 1, 0⟩
def memLd : List (Nat × Byte) := words 0x40 [0x0000_8182] []
def sLd : State := part xLd image memLd

theorem witness_load : ∃ l s1 s2, Reads sLd 12 fLd.sa fLd.sb (bit fLd.mod 1) (bit fLd.mod 0) ⟨0x40, 0, 0, false, false, false⟩ [] xLd ∧
    fLd.sz.toNat ≤ 2 ∧ ¬ windowed fLd 0x40 ∧ goesTo sLd fLd 0x40 0x40 ∧ Reaches sLd xLd 0 false 0x40 2 l s1 s2 ∧ viaEngine sLd l = false ∧
    badIn sLd l.key (accessBytes fLd) = none ∧ inUnspec sLd 0 0x41 = false := by
  obtain ⟨⟨l, s1⟩, h, hp⟩ := ok_of (r := xlate (taken sLd xLd) (elemRq (taken sLd xLd) sLd.cur sLd.curSlot 0) 0x40 false)
    (p := fun y => !viaEngine sLd y.1 && badIn sLd y.1.key 2 == none &&
      okIs (raceCheck y.2 (elemRq (taken sLd xLd) sLd.cur sLd.curSlot 0) y.1.stamped 0x40 y.1.key 2 false) (fun _ => true)) (by decide +kernel)
  simp only [Bool.and_eq_true, Bool.not_eq_true', beq_iff_eq] at hp
  obtain ⟨s2, h2, _⟩ := ok_of hp.2
  exact ⟨l, s1, s2, ⟨by decide +kernel, by decide +kernel⟩, by decide, by simp [windowed, fLd], ⟨0, by decide +kernel, by decide⟩,
    ⟨h, h2⟩, hp.1.1, hp.1.2, by decide⟩

/-- A signed halfword load with `.inc`: the return, and the register. -/
theorem test_ld_inc : (next? (exec (.ld fLd) sLd)).map (fun t => ((t.elem e0).rets.map (fun r => (r.tag, r.val)), (t.elem e0).dreg 0)) =
    some ([(1, some 0xFFFF_8182)], 0x42) := by decide +kernel
/-- ldx scales its index by the width. -/
theorem test_ldx : (next? (exec (.ldx ⟨12, 0, 1, 0, 2, 0, 0, 0⟩) (part xLd image (words 0x48 [0xDEAD_BEEF] [])))).map
    (fun t => (t.elem e0).rets.map Ret.val) = some [some 0xDEAD_BEEF] := by decide +kernel

def fSt : FmtM := ⟨12, 0, 2, 0, 1, 0, 0, 0⟩
theorem witness_store : ∃ l s1 s2, Reads sLd 12 fSt.sa fSt.sb (bit fSt.mod 1) (bit fSt.mod 0) ⟨0x40, 0xA1B2_C3D4, 0, false, false, false⟩ [] xLd ∧
    ¬ windowed fSt 0x40 ∧ goesTo sLd fSt 0x40 0x40 ∧ Reaches sLd xLd 0 true 0x40 2 l s1 s2 ∧ viaEngine sLd l = false := by
  obtain ⟨⟨l, s1⟩, h, hp⟩ := ok_of (r := xlate (taken sLd xLd) (elemRq (taken sLd xLd) sLd.cur sLd.curSlot 0) 0x40 true)
    (p := fun y => !viaEngine sLd y.1 &&
      okIs (raceCheck y.2 (elemRq (taken sLd xLd) sLd.cur sLd.curSlot 0) y.1.stamped 0x40 y.1.key 2 true) (fun _ => true)) (by decide +kernel)
  simp only [Bool.and_eq_true, Bool.not_eq_true'] at hp
  obtain ⟨s2, h2, _⟩ := ok_of hp.2
  exact ⟨l, s1, s2, ⟨by decide +kernel, by decide +kernel⟩, by simp [windowed, fSt], ⟨0, by decide +kernel, by decide⟩,
    ⟨h, h2⟩, hp.1⟩

theorem witness_store_indexed : ReadsM sLd ⟨1, 0, 2, 0, 1, 0, 0, 0⟩ ⟨0x40, 0xA1B2_C3D4, 2, false, false, false⟩ [] xLd :=
  ⟨by decide +kernel, by decide +kernel⟩

/-- A halfword store: its element reads it, an agent of another region reads what was there. -/
theorem test_st : (next? (exec (.st fSt) sLd)).map (fun t => (readByte t.mem (t.agentOf e0) t.stores 0x40, readByte t.mem (t.agentOf e0) t.stores 0x42,
    readByte t.mem ⟨7, 3, some 0, 1⟩ t.stores 0x40)) = some (0xD4, 0, 0x82) := by decide +kernel
theorem test_stx : (next? (exec (.stx ⟨1, 0, 2, 0, 2, 0, 0, 0⟩) sLd)).map (fun t => readByte t.mem (t.agentOf e0) t.stores 0x4B) = some 0xA1 := by
  decide +kernel

/-- A line an atomic engine holds goes through the engine. -/
def sHot : State := { sLd with engines := [(1, { hot := [1] }), (ownerOf sLd 0x40, { hot := [1] })] }
theorem test_ld_hot : (next? (exec (.ld fLd) sHot)).map (fun t => ((t.engine (ownerOf sLd 0x40)).reqs.length, (t.elem e0).rets.map Ret.val)) =
    some (1, [none]) := by decide +kernel

/-- AddressTraps: a misaligned offset, a far form through a pump of another kind, the window. -/
def xTrap : Elem := regs 0x41 0 0xFFFF_0004
theorem witness_address_traps : Reads (part xTrap image []) 12 0 13 false false ⟨0x41, 0, 0, false, false, false⟩ [] xTrap ∧
    ¬ windowed fLd 0x41 ∧ baseOf (part xTrap image []) fLd = some 0 ∧ 0x41 % accessBytes fLd ≠ 0 ∧
    baseOf (part xTrap image []) ⟨12, 0, 13, 1, 2, 4, 0, 0⟩ = none ∧
    Reads (part xTrap image []) 12 2 13 false false ⟨0xFFFF_0004, 0, 0, false, false, false⟩ [] xTrap ∧
    windowed ⟨12, 2, 13, 0, 2, 0, 0, 0⟩ 0xFFFF_0004 ∧ (0xFFFF_0004 : Word).toNat % 16 ≠ 0 :=
  ⟨⟨by decide +kernel, by decide +kernel⟩, by simp [windowed, fLd], by decide +kernel, by decide, by decide +kernel,
    ⟨by decide +kernel, by decide +kernel⟩, ⟨by decide, by decide⟩, by decide⟩
theorem test_ld_misaligned : cause (exec (.ld fLd) (part xTrap image [])) = some 0x0A0 := by decide +kernel
theorem test_ld_far : cause (exec (.ld ⟨12, 0, 13, 1, 2, 4, 0, 0⟩) (part xTrap image [])) = some 0x0A3 := by decide +kernel
theorem test_st_window : cause (exec (.st ⟨12, 2, 13, 0, 2, 0, 0, 0⟩) (part xTrap image [])) = some 0x0A8 := by decide +kernel

/-! ### Atomics -/

def xAt : Elem := regs 0x40 5 7
def fAt : FmtM := ⟨2, 0, 1, 0, 2, 0, 1, 0⟩
def sAt : State := part xAt image (words 0x40 [0xFFFF_FFFE] [])
theorem witness_atomic : ∃ l s1, ReadsM sAt fAt ⟨0x40, 5, 7, false, false, false⟩ [] xAt ∧ (0x40 : Word).toNat < 0xFFFF0000 ∧
    ((sAt.inst sAt.cur.inst).img.dataBase + (0x40 : Word).toNat) % 2 ^ 56 = 0x40 ∧ 0x40 % accessBytes fAt = 0 ∧
    xlate (taken sAt xAt) (elemRq (taken sAt xAt) sAt.cur sAt.curSlot 1) 0x40 true = .ok (l, s1) ∧ peerDown sAt l = false ∧ hasEngine l = true := by
  obtain ⟨⟨l, s1⟩, h, hp⟩ := ok_of (r := xlate (taken sAt xAt) (elemRq (taken sAt xAt) sAt.cur sAt.curSlot 1) 0x40 true)
    (p := fun y => !peerDown sAt y.1 && hasEngine y.1) (by decide +kernel)
  simp only [Bool.and_eq_true, Bool.not_eq_true'] at hp
  exact ⟨l, s1, ⟨by decide +kernel, by decide +kernel⟩, by decide, by decide +kernel, by decide, h, hp.1, hp.2⟩

/-- An atomic on a page of host memory, which no engine serves: 0x0A6. -/
def hostPages : List TlbE := [⟨0, 0, 30, 0x1000_0000_0000_000D, none, 0, true⟩]
def sHostAt : State := { sAt with
  utlb := [(.elem e0, hostPages)], tlb := [(0, [⟨0, 0, 21, 0x1000_0000_0000_000D, some 0x20_0000, 0, true⟩])] }
theorem witness_atomic_outside : cause (exec (.atom fAt) sHostAt) = some 0x0A6 := by decide +kernel

def served? (f : BitVec 3) (b d old : Word) : Option (Word × Option Word) :=
  (next? (exec (.atomr ⟨2, 0, 1, 0, 2, f, 1, 0⟩) (part (regs 0x40 b d) image (words 0x40 [old] [])))).bind (fun t =>
    (next? (exec (.atomicEngineServe (ownerOf t 0x40)) t)).map (fun u =>
      (BitVec.ofNat 32 (leNat ((List.range 4).map (fun n => memGet u.mem (0x40 + n)))), ((u.elem e0).rets.map Ret.val).headD none)))
theorem test_atomic_add : served? 0 5 0 0xFFFF_FFFE = some (3, some 0xFFFF_FFFE) := by decide +kernel
theorem test_atomic_min : served? 4 5 0 0xFFFF_FFFE = some (0xFFFF_FFFE, some 0xFFFF_FFFE) := by decide +kernel
theorem test_atomic_cas_holds : served? 7 9 4 9 = some (4, some 9) := by decide +kernel
theorem test_atomic_cas_fails : served? 7 9 4 8 = some (8, some 8) := by decide +kernel

def rServe : EngReq := ⟨0, .element e0, 3, 0, .form 0, 0x40, 0x40, 4, 5, 0, true, true, 0, 14⟩
def sServe : State := { sAt with engines := [(0, { reqs := [⟨2, .element e0, 4, 0, .form 0, 0x40, 0x40, 4, 9, 0, true, true, 0, 14⟩, rServe], last := 65 })] }
theorem witness_serve : Memory.wf sServe.mem ∧ rServe ∈ (sServe.engine 0).reqs ∧ rServe.port = 0 ∧
    (∀ q ∈ (sServe.engine 0).reqs, q.port < 66 → (0 + 65 - (sServe.engine 0).last) % 66 ≤ (q.port + 65 - (sServe.engine 0).last) % 66) ∧
    (sServe.engine 0).reqs.find? (fun q => q.port == 0) = some rServe ∧ (sServe.engine 0).last < 66 ∧ badIn sServe rServe.key rServe.w = none ∧
    (∀ q ∈ sServe.stores, ∀ b ∈ q.bytes, b.1 < rServe.key ∨ rServe.key + rServe.w ≤ b.1) ∧
    (sServe.elem e0).logq = [] ∧ peerLost sServe rServe = false ∧ okIs (servedCheck sServe rServe) (fun _ => true) = true := by decide +kernel

/-! ### Returns and completions -/

def sRet : State := part { rets := [⟨7, 2, some 9⟩, ⟨8, 0, none⟩] } image []
theorem witness_return : (sRet.elem e0).rets = [⟨7, 2, some 9⟩, ⟨8, 0, none⟩] ∧ ((sRet.elem e0).chan 4).length < 16 := by decide +kernel
theorem test_load_return : (next? (exec (.loadReturn e0) sRet)).map (fun t => (t.elem e0).chan 4) = some [⟨9, 2, false, none, none⟩] := by
  decide +kernel

def fMd : FmtM := ⟨12, 13, 13, 0, 0, 1, 2, 0⟩
theorem witness_mdone : Reads (part {} image []) 12 fMd.sa fMd.sb (bit fMd.mod 1) (bit fMd.mod 0) ⟨0, 0, 0, false, false, false⟩ [] {} ∧
    bit fMd.aux 0 = true ∧ ({} : Elem).outstanding = [] ∧ ({ outst := [5] } : Elem).outstanding ≠ [] :=
  ⟨⟨by decide +kernel, by decide +kernel⟩, by decide, by decide, by decide⟩

/-- An element with done wiring to its own channel 2. -/
def doneImage : StageImage := { image with elems := [{ elem0 with done := some ⟨.region, [(0, 0, 2)]⟩ }] }
def md0 : MdWait := ⟨1, 2, [], [], ⟨0, 1, [], []⟩, []⟩
def sDone : State := part { mdq := [md0], mdcnt := 1 } doneImage []
theorem witness_mdone_token : (sDone.stores.map Pending.id).Nodup ∧ (sDone.elem e0).mdq = [md0] ∧
    doneOf sDone e0 = some ⟨.region, [(0, 0, 2)]⟩ ∧ (∀ o ∈ ([] : List Nat), o ∉ (sDone.elem e0).outstanding) ∧
    (∀ w ∈ wiresOf sDone e0, destRoom sDone 0 w.2.1 w.2.2.1 w.2.2.2 = true) := by decide +kernel
theorem test_mdone_token : (next? (exec (.mdoneToken e0) sDone)).map (fun t => (kget [] (t.inst 0).flight 0).map (fun k => (k.w, k.tag))) =
    some [(1, 2)] := by decide +kernel

/-! ### Copies -/

def xCp : Elem := regs 0xFFFF_0030 0x100 0
def fCp : FmtM := ⟨12, 0, 1, 0, 2, 0, 0, 0⟩
/-- 4 bytes from 0x200 to 0x300, then a record in the ring at 0x4000_0000. -/
def tplWords : List Word := [0xC700_0000, 0x200, 0, 0x300, 0, 4, 1, 0, 0, 0x4000_0000, 77, 0, 0, 0, 0, 0]
def memCp : List (Nat × Byte) := words 0x100 tplWords (words 0x200 [0x1234_5678] (cwords 0 [0x9E00_0001] []))
def sCp : State := part xCp image memCp
theorem witness_copy_store : Reads sCp 12 fCp.sa fCp.sb (bit fCp.mod 1) (bit fCp.mod 0) ⟨0xFFFF_0030, 0x100, 0, false, false, false⟩ [] xCp ∧
    fCp.sz = 2 ∧ bit fCp.aux 2 = false ∧ (0xFFFF_0030 : Word).toNat = 0xFFFF0000 + 16 * 3 ∧ (0x100 : Word).toNat % 64 = 0 ∧
    (kget [] sCp.copies (chanKey 0 3)).length < 16 :=
  ⟨⟨by decide +kernel, by decide +kernel⟩, by decide, by decide, by decide, by decide, by decide +kernel⟩

def jobCp : CopyJob := ⟨.elem e0 0, 0, [0x100], 0, false, false, 0, []⟩
def sCp1 : State := { sCp with copies := [(chanKey 0 3, [jobCp])] }
theorem witness_copy_start : kget [] sCp1.copies (chanKey 0 3) = [jobCp] ∧ (∀ a ∈ sCp1.accs, a.req ≠ .copy 0 3) ∧ jobCp.started = false ∧
    (∀ g, jobGraph sCp1 jobCp = some g → (sCp1.graph g).fault = none) ∧ (sCp1.elem e0).outstanding = [] ∧
    ∃ ws u, readWords (copyRq sCp1 0 3 jobCp) (dataVA sCp1 0 0x100) 16 (widenElem sCp1 e0 .part) = .ok (ws, u) ∧ tplOk ws = true := by
  obtain ⟨⟨ws, u⟩, h, hp⟩ := ok_of (r := readWords (copyRq sCp1 0 3 jobCp) (dataVA sCp1 0 0x100) 16 (widenElem sCp1 e0 .part))
    (p := fun y => tplOk y.1) (by decide +kernel)
  refine ⟨by decide +kernel, by decide +kernel, by decide, ?_, by decide +kernel, ws, u, h, hp⟩
  intro g hg
  have : g = 0 := by
    have h0 : jobGraph sCp1 jobCp = some 0 := by decide +kernel
    rw [h0] at hg; exact (Option.some.inj hg).symm
  subst this; decide +kernel

def jobCp2 : CopyJob := { jobCp with started := true, tpl := tplWords }
def sCp2 : State := { sCp with copies := [(chanKey 0 3, [jobCp2])] }
theorem witness_copy_end : kget [] sCp2.copies (chanKey 0 3) = [jobCp2] ∧ Tpl.ring jobCp2.tpl % 64 = 0 ∧
    ∃ u hd v w, copyRows (copyRq sCp2 0 3 jobCp2) jobCp2.tpl 1 0 sCp2 = .ok u ∧
      ringHeader { copyRq sCp2 0 3 jobCp2 with charge := none } (dataVA u 0 0x4000_0000) u = .ok (hd, u) ∧ nthW hd 1 = 0 ∧ nthW hd 3 = 0 ∧
      writeWords { copyRq sCp2 0 3 jobCp2 with charge := none } (dataVA u 0 0x4000_0000 + 64) [77, 1, 4, 0] u = .ok v ∧
      writeWord { copyRq sCp2 0 3 jobCp2 with charge := none } (dataVA u 0 0x4000_0000 + 4) 1 v = .ok w := by
  obtain ⟨u, h, hp⟩ := ok_of (r := copyRows (copyRq sCp2 0 3 jobCp2) jobCp2.tpl 1 0 sCp2)
    (p := fun u => okIs (ringHeader { copyRq sCp2 0 3 jobCp2 with charge := none } (dataVA u 0 0x4000_0000) u)
      (fun y => decide (y.2 = u) && nthW y.1 1 == 0 && nthW y.1 3 == 0) &&
      okIs (writeWords { copyRq sCp2 0 3 jobCp2 with charge := none } (dataVA u 0 0x4000_0000 + 64) [77, 1, 4, 0] u) (fun v =>
        okIs (writeWord { copyRq sCp2 0 3 jobCp2 with charge := none } (dataVA u 0 0x4000_0000 + 4) 1 v) (fun _ => true)))
    (by decide +kernel)
  simp only [Bool.and_eq_true] at hp
  obtain ⟨⟨hd, u'⟩, h1, hq⟩ := ok_of hp.1
  simp only [Bool.and_eq_true, decide_eq_true_eq, beq_iff_eq] at hq
  obtain ⟨v, h2, hr⟩ := ok_of hp.2
  obtain ⟨w, h3, _⟩ := ok_of hr
  exact ⟨by decide +kernel, by decide, u, hd, v, w, h, by rw [h1, hq.1.1], hq.1.2, hq.2, h2, h3⟩
theorem test_copy_end : (next? (exec (.copyEnd 0 3) sCp2)).map (fun t => (BitVec.ofNat 32 (leNat ((List.range 4).map (fun n => memGet t.mem (hbmKey (0x300 + n))))), memGet t.mem (cisternKey 4), memGet t.mem (cisternKey 64),
    memGet t.mem (cisternKey 72))) = some ((0x1234_5678 : Word), 1, 77, 4) := by decide +kernel

/-! ### Translation -/

def accT (st : AccSt) : Acc := ⟨.element e0, 0, 0, 0, 0x4000, false, 0, 0, st⟩
/-- Tables at 0x1000_0000 (HBM4): the entry of level 3 names level 2, whose entry 0 is a leaf of 1 GiB. -/
def leMem (a : Nat) (v : Nat) (m : List (Nat × Byte)) : List (Nat × Byte) := memPutAll m (keyed (hbmKey a) (leBytes 8 v))
def sWalk (e2 : Nat) (st : AccSt) : State :=
  { part {} image (leMem 0x1000_0000 0x1001_0001 (leMem 0x1001_0000 e2 [])) with
    ctxs := [(0, { made := true, root := 0x1000_0000 })], accs := [accT st], tlb := [], utlb := [] }
def atTwo : AccSt := .walking 2 0x1001_0000
theorem witness_walk : (sWalk 0xD .walk).accs.find? (fun y => y.req == .element e0) = some (accT .walk) ∧ OneAccess (sWalk 0xD .walk) ∧
    walkerRoom (sWalk 0xD .walk) 0 = true ∧ walkAt (sWalk 0xD .walk) 0x4000 3 0x1000_0000 = .next 2 0x1001_0000 ∧
    walkAt (sWalk 0xD atTwo) 0x4000 2 0x1001_0000 = .leaf 2 0xD ∧ walkAt (sWalk 0 atTwo) 0x4000 2 0x1001_0000 = .absent 2 ∧
    walkAt (sWalk 3 atTwo) 0x4000 2 0x1001_0000 = .invalid 2 ∧
    walkAt { sWalk 0xD atTwo with badLines := [(0x40_0400, (3, 4))] } 0x4000 2 0x1001_0000 = .bad 3 (4 + 256 * 81) ∧
    ((sWalk 3 .walk).graph ((sWalk 3 .walk).inst 0).graph).fault = none :=
  ⟨by decide +kernel, by show List.Nodup _; decide +kernel, by decide +kernel, by decide +kernel, by decide +kernel, by decide +kernel,
    by decide +kernel, by decide +kernel, by decide +kernel⟩
/-- Sixteen walks of a die run at once; the next waits. -/
theorem witness_walker_full : walkerRoom { sWalk 0xD .walk with accs := (List.range 16).map (fun n => { accT atTwo with req := .queue n }) } 0 = false := by
  decide +kernel
theorem test_walk_invalid : cause (exec (.translationWalk (.element e0)) (sWalk 3 atTwo)) = some 0x080 := by decide +kernel
theorem test_walk_absent : (next? (exec (.translationWalk (.element e0)) (sWalk 0 atTwo))).map (fun t => t.accs.map Acc.st) =
    some [.fault 0x081] := by decide +kernel
/-- A completion record that waits is written once its page is translated, and its interrupt follows. -/
def sFront : State := { sWalk 0xD .walk with
  fronts := [(4, ⟨0, 0, [(0x40, [1, 2])], some 7, none⟩)], accs := [⟨.front 4, 0, 0, 0, 0x40, true, 0, 0, .walk⟩] }
theorem witness_front : (∀ p ∈ sFront.fronts, p.2.ctx = 0 → 4 ≤ p.1) ∧ (directParts 0 [(0x40, [1, 2])] sFront).2 = [] := by decide +kernel
theorem test_front : (next? (exec (.translationWalk (.front 4)) sFront)).map (fun t => (memGet t.mem (hbmKey 0x41), t.irqs, t.accs)) =
    some (2, [7], []) := by decide +kernel

def sHold : State := { sWalk 0 (.fault 0x081) with holds := [(2, ⟨0, 0, 0x4000, 0x081, 2, 14⟩)] }
theorem witness_holds : (∀ p ∈ (sWalk 0 (.fault 0x081)).holds, False) ∧
    (((sWalk 0 (.fault 0x081)).xreg.fprod + 2 ^ 32 - (sWalk 0 (.fault 0x081)).xreg.fcons) % 2 ^ 32 < 2 ^ (sWalk 0 (.fault 0x081)).xreg.fsize) ∧
    Memory.wf (sWalk 0 (.fault 0x081)).mem ∧ (faultPage sHold (accT (.fault 0x081))).1 = 0x4000 ∧ khas sHold.holds 2 = true ∧
    khas sHold.holds 3 = false ∧ (kget ⟨0, 0, 0, 0, 0, 14⟩ sHold.holds 2).cause ≠ 0x088 := by decide +kernel
theorem test_fault_record : (next? (exec (.translationFault (.element e0) 5) (sWalk 0 (.fault 0x081)))).map
    (fun t => (memGet t.mem (hostKey 8), memGet t.mem (hostKey 10), t.accs.map Acc.st)) = some (0x81, 5, [.held 5]) := by decide +kernel
theorem test_abandon : (next? (exec (.xretryAbandon 2) { sHold with accs := [accT (.held 2)] })).map
    (fun t => ((t.graph 0).fault.map FaultRec.cause, t.accs)) = some (some 0x08A, []) := by decide +kernel

/-- A leaf of host memory with AC = 1, whose count has come to 256. -/
def leafAC : TlbE := ⟨0, 0, 30, 0x3000_0000_0000_000D, none, 256, true⟩
def sCount : State := { part {} image [] with tlb := [(0, [leafAC])], utlb := [] }
theorem witness_translation_rest : bit (0x8000_0000 : Word) 31 = true ∧ sCount.xreg.busy = false ∧ (∀ p ∈ sCount.engines, p.2.reqs = []) ∧
    (∃ p ∈ sServe.engines, p.2.reqs ≠ []) ∧ ({ sCount with xreg := { busy := true } } : State).xreg.busy = true ∧
    (kget [] sCount.tlb 0)[0]? = some leafAC ∧ bit leafAC.leaf 61 = true ∧ sCount.xreg.thr ≤ 256 ∧
    leafFor { sCount with accs := [accT .ats] } (accT .ats) = some leafAC ∧
    (∀ p ∈ sServe.engines, ∀ y ∈ p.2.reqs, (⟨0, false, 0x4000, 0x4000⟩ : Inval).used (engCtx sServe y) y = false) ∧
    (∃ p ∈ sServe.engines, ∃ y ∈ p.2.reqs, (⟨0, false, 0, 0x4000⟩ : Inval).used (engCtx sServe y) y = true) := by decide +kernel
/-- A host translation stands at the size the host gave. -/
theorem test_ats : (next? (exec (.atsTranslationCompletion (.element e0) (.mapped 0x7000 12 true)) { sCount with accs := [accT .ats] })).map
    (fun t => ((kget [] t.tlb 0).map TlbE.host, t.accs)) = some ([some 0x7000, none], []) := by decide +kernel
/-! ## Slots, markers, the token network -/

/-- Slots 0 (guarded on p0 = 1) and 1 (guarded on channel 0). -/
def xSlots : Elem := { slots := [(0, 0x0101_0000_7833_4000), (1, 0x0000_8000_7833_4000)], inp := [(0, [⟨7, 0, false, none, none⟩])] }
def sSlots : State := part xSlots image []
theorem witness_issues : Issues sSlots 0 := ⟨by decide +kernel, by
  intro f hf
  have : (sSlots.graph (sSlots.inst 0).graph).fault = none := by decide +kernel
  rw [this] at hf; cases hf⟩
theorem witness_eligible : Eligible sSlots e0 1 :=
  ⟨by decide +kernel, by decide +kernel, fun _ => ⟨⟨7, 0, false, none, none⟩, by decide +kernel, by decide +kernel, by decide +kernel, by
    intro m t hm ht
    have h0 : ((sSlots.elem e0).trig 1).nb.toNat = 0 := by decide +kernel
    rw [h0] at hm
    have hm : m = 0 := by omega
    subst hm
    have h1 : ((sSlots.elem e0).chan ((sSlots.elem e0).trig 1).cgi.toNat)[0]? = some ⟨7, 0, false, none, none⟩ := by decide +kernel
    rw [h1] at ht
    cases ht
    decide +kernel⟩, ⟨by decide +kernel, by decide +kernel⟩, by decide +kernel⟩
theorem witness_not_eligible : ¬ Eligible sSlots e0 0 := by
  intro h
  have := h.preds 0 (by decide) (by decide +kernel)
  exact absurd this (by decide +kernel)
theorem witness_free : (sSlots.elem e0).dp = .idle ∧ (sSlots.elem e0).halted = false ∧ (sSlots.elem e0).ended = false ∧
    (sSlots.elem e0).trapped = false := by decide +kernel
theorem test_slot_issue : (next? (exec (.slotIssue e0) sSlots)).map (fun t => (t.curSlot, t.latched)) = some (1, true) := by decide +kernel

def waitCon : Wait := ⟨0, 0, .mdone fMd, ⟨0, 0, 0, false, false, false⟩, [], 0⟩
theorem witness_slot_waits : (part { dp := .beat 1 2 } image []).elem e0 = { dp := .beat 1 2 } ∧
    dstFull { dp := .beat 1 2 } (dstOf (({ dp := .beat 1 2 } : Elem).slotWord 1)) = false ∧
    (part { dp := .work waitCon } image []).elem e0 = { dp := .work waitCon } ∧ ({ dp := .work waitCon } : Elem).outstanding = [] := by
  decide +kernel

/-- Element 0 sends to itself from output 0 to input 0, through boundary node 0 on route 1. -/
def routeImage : StageImage :=
  { image with routes := [⟨0, 0, 0, 0, 0, 0, some 9, none⟩, ⟨0, 0, 0, 0, 0, 1, none, some 0⟩], boundaries := [.die]
               elems := [{ elem0 with d := [.lit 5, .arg 0] }] }
def endInv : Token := ⟨0x0200_002A, 3, false, none, none⟩
def sReset : State := part { inp := [(0, [endInv]), (1, [endInv, ⟨1, 0, false, none, none⟩])], d := [(0, 1), (3, 9)], fl := [(3, true)] } routeImage []
theorem witness_marker_reset : Issues sReset 0 ∧ e0.reg ∉ (sReset.inst 0).held ∧
    (sReset.inst 0).img.elemImage 0 0 = some { elem0 with d := [.lit 5, .arg 0] } ∧ (∀ n, n < 16 → ¬ Eligible sReset e0 n) ∧
    ((sReset.inst 0).img.endsRoute e0 0 = true) ∧
    (∀ c, c < 4 → (sReset.inst 0).img.endsRoute e0 c = true → ∃ h ts, (sReset.elem e0).chan c = h :: ts ∧ h.tag = 3 ∧ bits h.w 31 24 = 2) ∧
    (∀ c, c < 4 → (sReset.inst 0).img.beginsRoute e0 c = true → ((sReset.elem e0).out c).length < 2) := by
  refine ⟨⟨by decide +kernel, ?_⟩, by decide +kernel, by decide +kernel, ?_, by decide +kernel, ?_, by decide +kernel⟩
  · intro f hf
    have : (sReset.graph (sReset.inst 0).graph).fault = none := by decide +kernel
    rw [this] at hf; cases hf
  · intro n hn h
    have hv := h.valid
    have : ∀ n, n < 16 → ((sReset.elem e0).trig n).v ≠ 1 := by decide +kernel
    exact this n hn hv
  · intro c hc h
    have : ∀ c, c < 4 → (sReset.inst 0).img.endsRoute e0 c = true → c = 0 ∨ c = 1 := by decide +kernel
    rcases this c hc h with h | h <;> subst h
    · exact ⟨endInv, [], by decide +kernel, rfl, by decide⟩
    · exact ⟨endInv, [⟨1, 0, false, none, none⟩], by decide +kernel, rfl, by decide⟩
/-- The reset takes each marker once and pushes one onto the routed output. -/
theorem test_marker_reset : (next? (exec (.markerReset e0) sReset)).map (fun t => (((t.elem e0).chan 1).map Token.w, ((t.elem e0).out 0).map Token.w,
    (t.elem e0).dreg 0, (t.elem e0).dreg 3, (t.elem e0).dflag 3)) = some ([1], [0x0200_002A], 5, 0, false) := by decide +kernel

def sRoute : State := part { outs := [(0, [⟨5, 1, true, none, none⟩])] } routeImage []
theorem witness_route : (sRoute.inst 0).status = .running ∧ (sRoute.inst 0).img.routes[0]? = some ⟨0, 0, 0, 0, 0, 0, some 9, none⟩ ∧
    (sRoute.elem e0).out 0 = [⟨5, 1, true, none, none⟩] ∧ 0 ∉ (sRoute.inst 0).copied ∧
    ((sRoute.elem e0).chan 0).length + inFlightTo sRoute 0 0 0 0 < 16 := by decide +kernel
def sFlight : State := sRoute.modInst 0 (fun i => { i with flight := [(0, [⟨5, 1, true, some 9, none⟩]), (1, [⟨6, 0, false, none, some ⟨0, 1, [], []⟩⟩])] })
theorem witness_arrival : arrivalEnd (sFlight.inst 0).img 0 = some (0, 0, 0) ∧ kget [] (sFlight.inst 0).flight 0 = [⟨5, 1, true, some 9, none⟩] ∧
    ((sFlight.elem e0).chan 0).length < 16 ∧ (sFlight.inst 0).img.routes[1]? = some ⟨0, 0, 0, 0, 0, 1, none, some 0⟩ ∧
    (sFlight.inst 0).img.boundaries[0]? = some .die ∧ (sFlight.elem e0).outstanding = [] ∧ (sFlight.stores.map Pending.id).Nodup := by
  decide +kernel
theorem test_arrival_tag : (next? (exec (.tokenArrival 0 0) sFlight)).map (fun t => ((t.elem e0).chan 0).map (fun k => (k.w, k.rtag))) =
    some [(5, some 9)] := by decide +kernel

/-! ## Tiles and pumps -/

/-- Tile 5 of region 0's table: element-level, f32, 32 x 32, generation 3; its handle. -/
def hT : Word := 0x0300_0005
def tile5 : Tile := { state := .allocated, gen := 3, size := 4096 }
def tiled (x : Elem) (t : Tile) (m : List (Nat × Byte)) : State := { part x image m with tiles := [((0, 5), t)] }
def fT : FmtM := ⟨2, 0, 1, 0, 2, 0, 0, 0⟩
def xT : Elem := regs hT 3 9
theorem witness_talloc : ReadsM (tiled (regs 0 0 0) tile5 []) fT ⟨0, 0, 0, false, false, false⟩ [] (regs 0 0 0) ∧
    (bits (0 : Word) 31 30 ≤ 2 ∧ bits (0 : Word) 29 26 ≤ 10 ∧ bits (0 : Word) 25 14 = 0) ∧ ((tiled (regs 0 0 0) tile5 []).tile (0, 0)).state = .free ∧
    fits (tiled (regs 0 0 0) tile5 []) 0 0 0 (specBytes 0) = true :=
  ⟨⟨by decide +kernel, by decide +kernel⟩, by decide, by decide +kernel, by decide +kernel⟩
def fullTab (n : Nat) : State := { tiled {} tile5 [] with tiles := (List.range' 0 n).map (fun k => ((0, k), tile5)) }
theorem full_tab (n k : Nat) (hk : k < n) : ((fullTab n).tile (0, k)).state ≠ .free := by
  have : ∀ (m a : Nat), a ≤ k → k < a + m → kget {} ((List.range' a m).map (fun k => (((0, k) : Nat × Nat), tile5))) (0, k) = tile5 := by
    intro m
    induction m with
    | zero => intro a h1 h2; omega
    | succ m ih =>
      intro a h1 h2
      by_cases h : a = k
      · subst h; simp [List.range'_succ, kget]
      · have := ih (a + 1) (by omega) (by omega)
        simp only [List.range'_succ, List.map_cons, kget]
        rw [if_neg (by simp; omega)]
        exact this
  have h := this n 0 (by omega) (by omega)
  simp only [State.tile, fullTab, h]
  decide
theorem witness_talloc_full : ∀ k, k < 1024 → ((fullTab 1024).tile (0, k)).state ≠ .free := full_tab 1024
theorem witness_tile_handles : live (tiled xT tile5 []) 0 hT = true ∧ handleIn (tiled xT tile5 []) 0 (hT + 0x0100_0000) true = false ∧
    (live (tiled xT { tile5 with state := .pending } []) 0 hT = false ∧ handleIn (tiled xT { tile5 with state := .pending } []) 0 hT true = true) ∧
    specOk 0x0400_0000 = true ∧ specBytes 0x0400_0000 ≤ 4096 ∧ specLvl 0x0400_0000 = specLvl 0 ∧ specOk 0x0000_4000 = false ∧
    4096 < specBytes 0x0000_0001 := by decide +kernel
theorem test_talloc : (next? (exec (.talloc fT) (tiled (regs 0 0 0) tile5 []))).map (fun t => (t.elem e0).dreg 2) = some 0 := by decide +kernel
theorem test_tfree_stale : cause (exec (.tfree fT) (tiled (regs (hT + 1) 0 0) tile5 [])) = some 0x020 := by decide +kernel
theorem test_tfree : (next? (exec (.tfree fT) (tiled xT { tile5 with gen := 3 } []))).map (fun t => ((t.tile (0, 5)).state, (t.tile (0, 5)).gen)) =
    some (.free, 4) := by decide +kernel
theorem test_tqry_bytes : reg (exec (.tqry ⟨2, 0, 13, 0, 2, 4, 0, 0⟩) (tiled xT tile5 [])) 2 = some (4096, false) := by decide +kernel
theorem test_tcfg_level : cause (exec (.tcfg fT) (tiled (regs hT 0x4000_0000 0) tile5 [])) = some 0x02E := by decide +kernel

theorem witness_tile_access : ReadsM (tiled xT tile5 []) fT ⟨hT, 3, 9, false, false, false⟩ [] xT ∧ live (tiled xT tile5 []) 0 hT = true ∧
    9 < specBytes tile5.spec / 4 ∧ (∃ s1, tileRace (taken (tiled xT tile5 []) xT) (elemRq (taken (tiled xT tile5 []) xT) e0 0 0) (0, 5) (4 * 9) 4 true = .ok s1) ∧
    (∃ s1, tileRace (taken (tiled xT tile5 []) xT) (elemRq (taken (tiled xT tile5 []) xT) e0 0 0) (0, 5) (4 * 3) 4 false = .ok s1) ∧
    specBytes tile5.spec / 4 ≤ 1024 := by
  refine ⟨⟨by decide +kernel, by decide +kernel⟩, by decide +kernel, by decide +kernel, ?_, ?_, by decide +kernel⟩
  · obtain ⟨s1, h, _⟩ := ok_of (r := tileRace (taken (tiled xT tile5 []) xT) (elemRq (taken (tiled xT tile5 []) xT) e0 0 0) (0, 5) (4 * 9) 4 true)
      (p := fun _ => true) (by decide +kernel)
    exact ⟨s1, h⟩
  · obtain ⟨s1, h, _⟩ := ok_of (r := tileRace (taken (tiled xT tile5 []) xT) (elemRq (taken (tiled xT tile5 []) xT) e0 0 0) (0, 5) (4 * 3) 4 false)
      (p := fun _ => true) (by decide +kernel)
    exact ⟨s1, h⟩
def tReq (at_ el : Nat) (wr : Bool) : TileReq := ⟨⟨0, 0, el⟩, at_, 7 + el, 0, wr, 5, 9, 0xABCD_1234, true, true, []⟩
def sTab : State := { tiled xT { tile5 with uses := 2, f := true } [] with tileReqs := [(0, [tReq 4 2 false, tReq 4 0 true])] }
theorem witness_tile_serve : Memory.wf sTab.mem ∧ tReq 4 0 true ∈ kget [] sTab.tileReqs 0 ∧
    (∀ q ∈ kget [] sTab.tileReqs 0, q ≠ tReq 4 0 true → (tReq 4 0 true).at_ < q.at_ ∨ ((tReq 4 0 true).at_ = q.at_ ∧ (tReq 4 0 true).e.el < q.e.el)) := by
  decide +kernel
theorem test_tile_serve : (next? (exec (.tileTableServe 0) sTab)).map (fun t => (memGet t.mem (tileKey 0 5 36), (t.tile (0, 5)).fset,
    (t.tile (0, 5)).uses)) = some (0x34, true, 1) := by decide +kernel
theorem witness_tile_tags : ((tiled xT { tile5 with fset := true } []).tile (0, 5)).fset = true ∧
    ((tiled xT { tile5 with state := .pending } []).tile (0, 5)).state = .pending := by decide +kernel

/-- Mode 00 over 2 x 4 words from 0x1000, tag 1, payload 0x55. -/
def pumpWords : List Word := [0x9D09_0000, 0x1000, 0, 0x0001_0003, 0, 4, 0x100, 0, 0, 0xFFFF_FFFF, 0, 0x55, 0, 0, 0, 0]
/-- Mode 01 (fill) of the tile from 0x1000; mode 10 (write); mode 00 of the tile. -/
def fillWords : List Word := [0x9D48_0000, 0x1000, 0, 31, 0, 128, 0, 0, 0, hT, 0, 0x55, 0, 0, 0, 0]
def drainWords : List Word := [0x9D88_0000, 0x1000, 0, 31, 0, 128, 0, 0, 0, hT, 0, 0x55, 0, 0, 0, 0]
def tileWords : List Word := [0x9D28_0000, hT, 0, 3, 0, 4, 0, 0, 0, 0xFFFF_FFFF, 0, 0x55, 0, 0, 0, 0]
def pumped (ws : List Word) (p : Pump) : Elem := { regs 0x100 0 0 with pumps := [(0, { p with words := ws })] }
def fP : FmtM := ⟨12, 0, 13, 0, 0, 0, 0, 0⟩
def sPump (ws : List Word) (p : Pump) (t : Tile) : State := tiled (pumped ws p) t (words 0x100 pumpWords (words 0x1000 [0x1111, 0x2222] []))
theorem witness_pcfg : ReadsM (sPump [] {} tile5) fP ⟨0x100, 0, 0, false, false, false⟩ [] (pumped [] {}) ∧
    ((pumped [] {}).pump 0).run = false ∧ (pumped [] {}).outstanding = [] ∧
    ∃ rs u, readWords (elemRq (flush (curJob (sPump [] {} tile5) ⟨0x100, 0, 0, false, false, false⟩) .part (taken (sPump [] {} tile5) (pumped [] {})))
      e0 0 4) (dataVA (sPump [] {} tile5) 0 0x100) 16 (flush (curJob (sPump [] {} tile5) ⟨0x100, 0, 0, false, false, false⟩) .part
        (taken (sPump [] {} tile5) (pumped [] {}))) = .ok (rs, u) ∧ pumpOk u 0 rs = true := by
  obtain ⟨⟨rs, u⟩, h, hp⟩ := ok_of (r := readWords (elemRq (flush (curJob (sPump [] {} tile5) ⟨0x100, 0, 0, false, false, false⟩) .part
      (taken (sPump [] {} tile5) (pumped [] {}))) e0 0 4) (dataVA (sPump [] {} tile5) 0 0x100) 16
      (flush (curJob (sPump [] {} tile5) ⟨0x100, 0, 0, false, false, false⟩) .part (taken (sPump [] {} tile5) (pumped [] {}))))
    (p := fun y => pumpOk y.2 0 y.1) (by decide +kernel)
  exact ⟨⟨by decide +kernel, by decide +kernel⟩, by decide, by decide, rs, u, h, hp⟩
/-- PGO reads d1: 0 keeps the level 3 bound. -/
def fPgo : FmtM := ⟨12, 1, 13, 0, 0, 0, 0, 0⟩
theorem witness_pgo : ReadsM (sPump fillWords {} tile5) fPgo ⟨0, 0, 0, false, false, false⟩ [] (pumped fillWords {}) ∧
    pumpOk (sPump fillWords {} tile5) 0 fillWords = true ∧ (∀ h ∈ pumpHandles fillWords, live (sPump fillWords {} tile5) 0 h = true) ∧
    PumpCfg.mode fillWords ≠ 3 ∧ pumpOk (sPump [] {} tile5) 0 [] = false :=
  ⟨⟨by decide +kernel, by decide +kernel⟩, by decide +kernel, List.all_eq_true.mp (by decide +kernel), by decide, by decide +kernel⟩
theorem test_pgo_bound : (next? (exec (.pgo ⟨12, 0, 13, 0, 0, 0, 0, 0⟩) (sPump pumpWords {} tile5))).map
    (fun t => PumpCfg.bound (((t.elem e0).pump 0).words) 3) = some 0x100 := by decide +kernel

def running : Pump := { run := true }
theorem witness_pump_push : ((sPump pumpWords running tile5).elem e0).pump 0 = { running with words := pumpWords } ∧
    (∀ a ∈ (sPump pumpWords running tile5).accs, a.req ≠ .pump e0 0) ∧ PumpCfg.bk pumpWords = 0 ∧ PumpCfg.mode pumpWords = 0 ∧
    ∃ bs u, readVA (pumpRq (sPump pumpWords running tile5) e0 0 0) 0x1000 4 (sPump pumpWords running tile5) = .ok (bs, u) := by
  obtain ⟨⟨bs, u⟩, h, _⟩ := ok_of (r := readVA (pumpRq (sPump pumpWords running tile5) e0 0 0) 0x1000 4 (sPump pumpWords running tile5))
    (p := fun _ => true) (by decide +kernel)
  exact ⟨by decide +kernel, by decide +kernel, by decide, by decide, bs, u, h⟩
theorem test_pump_push : (next? (exec (.pumpAccess e0 0) (sPump pumpWords { running with c := [1, 0, 0, 0], iter := 1 } tile5))).map
    (fun t => ((t.elem e0).chan 4).map (fun k => (k.w, k.tag))) = some [(0x2222, 1)] := by decide +kernel
theorem witness_pump_tile : PumpCfg.bk tileWords = 2 ∧ PumpCfg.mode tileWords = 0 ∧
    ∃ u, tileRace (sPump tileWords running tile5) (pumpRq (sPump tileWords running tile5) e0 0 0) (0, 5) 0 4 false = .ok u := by
  obtain ⟨u, h, _⟩ := ok_of (r := tileRace (sPump tileWords running tile5) (pumpRq (sPump tileWords running tile5) e0 0 0) (0, 5) 0 4 false)
    (p := fun _ => true) (by decide +kernel)
  exact ⟨by decide, by decide, u, h⟩
theorem witness_pump_fill : PumpCfg.mode fillWords = 1 ∧ ((sPump fillWords running tile5).tile (0, 5)).f = false ∧
    Memory.wf (sPump fillWords running tile5).mem ∧
    ∃ bs u v, readVA (pumpRq (sPump fillWords running tile5) e0 0 0) 0x1000 128 (sPump fillWords running tile5) = .ok (bs, u) ∧ bs.length = 128 ∧
      tileRace u (pumpRq (sPump fillWords running tile5) e0 0 0) (0, 5) 0 128 true = .ok v := by
  obtain ⟨⟨bs, u⟩, h, hp⟩ := ok_of (r := readVA (pumpRq (sPump fillWords running tile5) e0 0 0) 0x1000 128 (sPump fillWords running tile5))
    (p := fun y => y.1.length == 128 && okIs (tileRace y.2 (pumpRq (sPump fillWords running tile5) e0 0 0) (0, 5) 0 128 true) (fun _ => true))
    (by decide +kernel)
  simp only [Bool.and_eq_true, beq_iff_eq] at hp
  obtain ⟨v, h2, _⟩ := ok_of hp.2
  exact ⟨by decide, by decide +kernel, by decide +kernel, bs, u, v, h, hp.1, h2⟩
theorem test_pump_fill : (next? (exec (.pumpAccess e0 0) (sPump fillWords running tile5))).map (fun t => memGet t.mem (tileKey 0 5 4)) = some 0x22 := by
  decide +kernel
theorem witness_pump_waits : ((sPump fillWords running { tile5 with f := true }).tile (0, 5)).f = true ∧ running.waitf = false := by decide +kernel
def uDrain : State := pumpAcquire (sPump drainWords running { tile5 with f := true }) e0 0 none
theorem witness_pump_drain : PumpCfg.mode drainWords = 2 ∧ ((sPump drainWords running { tile5 with f := true }).tile (0, 5)).f = true ∧
    ∃ u v, tileRace uDrain (pumpRq uDrain e0 0 0) (0, 5) 0 128 false = .ok u ∧
      writeVA (pumpRq uDrain e0 0 0) 0x1000 (readBytes u (pumpRq uDrain e0 0 0).agent (tileKey 0 5 0) 128) u = .ok v := by
  obtain ⟨u, h, hp⟩ := ok_of (r := tileRace uDrain (pumpRq uDrain e0 0 0) (0, 5) 0 128 false)
    (p := fun u => okIs (writeVA (pumpRq uDrain e0 0 0) 0x1000 (readBytes u (pumpRq uDrain e0 0 0).agent (tileKey 0 5 0) 128) u) (fun _ => true))
    (by decide +kernel)
  obtain ⟨v, h2, _⟩ := ok_of hp
  exact ⟨by decide, by decide +kernel, u, v, h, h2⟩

/-- A code table of R105: one symbol of eight i8 elements, its codeword one bit. -/
def codeTable : List Byte := leBytes 4 0xE758_0001 ++ (1 :: List.replicate 259 0) ++ leBytes 8 0x0807_0605_0403_0201 ++ List.replicate 2040 0
def codedWords : List Word := [0x9DC8_0000, 0x1000, 0, 0, 0, 0, 0, 0, 0, hT, 0x4000, 0x55, 0, 0, 0, 0]
def tileI8 : Tile := { tile5 with spec := 0x1400_0000 }
def sCoded : State := sPump codedWords { running with ct := codeTable } tileI8
theorem witness_pump_coded : PumpCfg.mode codedWords = 3 ∧ codesOk codeTable = true ∧ (sCoded.tile (0, 5)).f = false ∧
    kget [] sCoded.tileReqs 0 = [] ∧ okIs (decodeSeg (pumpRq sCoded e0 0 0) codeTable 8 0x2000 2048 33 [] sCoded) (fun y =>
      okIs (tileRace y.2 (pumpRq sCoded e0 0 0) (0, 5) 0 (specBytes tileI8.spec) true) (fun _ => true)) = true := by decide +kernel
theorem witness_pump_end : ((sPump pumpWords { running with fin := true } tile5).elem e0).pump 0 = { words := pumpWords, run := true, fin := true } ∧
    (((sPump pumpWords { running with fin := true } tile5).elem e0).chan 4).length < 16 := by decide +kernel
theorem test_pump_end : (next? (exec (.pumpRunEnd e0 0) (sPump pumpWords { running with fin := true } tile5))).map
    (fun t => ((t.elem e0).chan 4).map (fun k => (k.w, k.tag))) = some [(0x0100_0055, 3)] := by decide +kernel
/-! ## Rings -/

def xRing : Elem := regs 0x4000_0000 0 0
def ringMem (head acq tail : Word) : List (Nat × Byte) := cwords 0 [0x9E00_0001, head, acq, tail] (cwords 64 [77, 1, 4, 0] [])
def sRing (head acq tail : Word) : State := part xRing image (ringMem head acq tail)
def ringRq0 (s : State) : Rq := { cmdRq (taken s xRing) with charge := none }
def ringWs (head acq tail : Word) : List Word := [0x9E00_0001, head, acq, tail, 0, 0, 0, 0, 0, 0, 0, 0, 0, 0, 0, 0]

theorem witness_ring : ReadsM (sRing 1 0 0) fT ⟨0x4000_0000, 0, 0, false, false, false⟩ [] xRing ∧ (0x4000_0000 : Word).toNat % 64 = 0 ∧
    (∃ l u, xlate (taken (sRing 1 0 0) xRing) (ringRq0 (sRing 1 0 0)) (ptrAt (sRing 1 0 0) 0x4000_0000) false = .ok (l, u) ∧ l.home = 1) ∧
    readWords (ringRq0 (sRing 1 0 0)) (ptrAt (sRing 1 0 0) 0x4000_0000) 16 (taken (sRing 1 0 0) xRing) = .ok (ringWs 1 0 0, taken (sRing 1 0 0) xRing) ∧
    (bits (0x9E00_0001 : Word) 31 24 = 0x9E ∧ bits (0x9E00_0001 : Word) 23 5 = 0 ∧ bits (0x9E00_0001 : Word) 4 0 ≤ 16 ∧ ∀ w ∈ (ringWs 1 0 0).drop 4, w = 0) ∧
    ∃ v, writeWord (ringRq0 (sRing 1 0 0)) (ptrAt (sRing 1 0 0) 0x4000_0000 + 8) (BitVec.ofNat 32 1) (taken (sRing 1 0 0) xRing) = .ok v := by
  obtain ⟨⟨l, u⟩, h, hl⟩ := ok_of (r := xlate (taken (sRing 1 0 0) xRing) (ringRq0 (sRing 1 0 0)) (ptrAt (sRing 1 0 0) 0x4000_0000) false)
    (p := fun y => y.1.home == 1) (by decide +kernel)
  obtain ⟨v, h2, _⟩ := ok_of (r := writeWord (ringRq0 (sRing 1 0 0)) (ptrAt (sRing 1 0 0) 0x4000_0000 + 8) (BitVec.ofNat 32 1)
    (taken (sRing 1 0 0) xRing)) (p := fun _ => true) (by decide +kernel)
  exact ⟨⟨by decide +kernel, by decide +kernel⟩, by decide, ⟨l, u, h, by simpa using hl⟩, by decide +kernel,
    ⟨by decide, by decide, by decide, by simp [ringWs]⟩, v, h2⟩

/-- An acquired record: 0 of 1 produced and acquired. -/
theorem witness_ring_held : readWords (ringRq0 (sRing 1 1 0)) (ptrAt (sRing 1 1 0) 0x4000_0000) 16 (taken (sRing 1 1 0) xRing) =
      .ok (ringWs 1 1 0, taken (sRing 1 1 0) xRing) ∧
    ((0 : Nat) < 2 ^ 31 ∧ (0 + 2 ^ 31 - (0 : Word).toNat) % 2 ^ 31 < ((1 : Word).toNat + 2 ^ 31 - (0 : Word).toNat) % 2 ^ 31) ∧
    readWords (ringRq0 (sRing 1 1 0)) (ptrAt (sRing 1 1 0) 0x4000_0000 + 64 + 4) 1 (taken (sRing 1 1 0) xRing) = .ok ([1], taken (sRing 1 1 0) xRing) ∧
    ∃ v last w y, writeWord (ringRq0 (sRing 1 1 0)) (ptrAt (sRing 1 1 0) 0x4000_0000 + 64 + 4) (1 ||| 0x80000000) (taken (sRing 1 1 0) xRing) = .ok v ∧
      rrelLoop (ringRq0 (sRing 1 1 0)) (ptrAt (sRing 1 1 0) 0x4000_0000) (ringWs 1 1 0) 2 0 v = .ok (last, w) ∧
      writeWord (ringRq0 (sRing 1 1 0)) (ptrAt (sRing 1 1 0) 0x4000_0000 + 12) (BitVec.ofNat 32 last) w = .ok y := by
  obtain ⟨v, h1, hp⟩ := ok_of (r := writeWord (ringRq0 (sRing 1 1 0)) (ptrAt (sRing 1 1 0) 0x4000_0000 + 64 + 4) (1 ||| 0x80000000) (taken (sRing 1 1 0) xRing))
    (p := fun v => okIs (rrelLoop (ringRq0 (sRing 1 1 0)) (ptrAt (sRing 1 1 0) 0x4000_0000) (ringWs 1 1 0) 2 0 v) (fun y =>
      okIs (writeWord (ringRq0 (sRing 1 1 0)) (ptrAt (sRing 1 1 0) 0x4000_0000 + 12) (BitVec.ofNat 32 y.1) y.2) (fun _ => true))) (by decide +kernel)
  obtain ⟨⟨last, w⟩, h2, hq⟩ := ok_of hp
  obtain ⟨y, h3, _⟩ := ok_of hq
  exact ⟨by decide +kernel, by decide, by decide +kernel, v, last, w, y, h1, h2, h3⟩
theorem test_rawait : reg (exec (.rawait fT) (sRing 1 0 0)) 2 = some (0, false) := by decide +kernel
theorem test_rawait_try : reg (exec (.rawait ⟨2, 0, 1, 0, 2, 1, 0, 0⟩) (sRing 1 1 0)) 2 = some (0xFFFF_FFFF, false) := by decide +kernel
theorem test_rget_free : reg (exec (.rget fT) (sRing 1 0 0)) 2 = some (0, true) := by decide +kernel
theorem test_rrel_twice : cause (exec (.rrel ⟨12, 0, 1, 0, 2, 0, 0, 0⟩) (sRing 1 0 0)) = some 0x0A5 := by decide +kernel
theorem test_rrel_tail : (next? (exec (.rrel ⟨12, 0, 1, 0, 2, 0, 0, 0⟩) (sRing 1 1 0))).map (fun t => memGet t.mem (cisternKey 12)) = some 1 := by
  decide +kernel
theorem test_ring_outside : cause (exec (.rawait fT) (part (regs 0x40 0 0) image [])) = some 0x0A4 := by decide +kernel

/-! ## Rules, directories, pools -/

/-- A: two legs (0 out, 1 in), one block of 1 x 1 in 32 x 32 bf16 at 0x1000. B: one leg (out), its block at 0x2000. C: one leg (out),
no entry. The pool gives one block of f32 at 0x3000. -/
def hdrA : List Word := [0xD108_1400, 0, 1, 1, 1, 0, 0, 0, 0, 0, 0, 0, 0, 0, 0, 0]
def entA : List Word := [0, 0, 0, 0, 0, 0, 0x0001_0001, 0, 0, 0x1000, 0, 0, 0x8040_0000, 0, 0, 0]
def hdrB : List Word := [0xD104_1400, 0, 1, 2, 2, 0, 0, 0, 0, 0, 0, 0, 0, 0, 0, 0]
def entB : List Word := [0, 0, 0, 0, 0, 0, 1, 0, 0, 0x2000, 0, 0, 0x8040_0000, 0, 0, 0]
def hdrC (count cap : Word) : List Word := [0xD104_1400, 0, count, cap, 4, 0, 0, 0, 0, 0, 0, 0, 0, 0, 0, 0]
def entC : List Word := [0, 0, 0, 0, 0, 0, 1, 0, 0, 0x3000, 0, 0, 0x8000_0000, 0, 0, 0]
def poolW : List Word := [0xB102_0000, 2, 1, 0, 1, 0, 0, 128, 0x3000, 0, 0, 0, 0, 0, 0, 0]
/-- A x B to C over A's leg 1 and B's leg 0, C's leg from A's leg 0. -/
def conW : List Word := [0xBC01_1000, 0x400, 0x600, 0x800, 0xA00, 0x10, 0x0100_0000, 0, 0, 0, 0, 0, 0, 0, 0, 0]
def memDir (count cap : Word) : List (Nat × Byte) :=
  words 0x400 (hdrA ++ entA) (words 0x600 (hdrB ++ entB) (words 0x800 (hdrC count cap ++ (if count = 0 then [] else entC)) (words 0xA00 poolW
    (words 0xB00 conW (words 0xC00 ruleWords (words 0x1000 [0x4000] (words 0x2000 [0x4040] [])))))))
def xDir (a b : Word) : Elem := regs a b 0
def sDir (a b count cap : Word) : State :=
  { part (xDir a b) image (memDir count cap) with regions := [(⟨0, 0⟩, { rules := [(0, rule0)] })] }
def fE : FmtE := ⟨2, 0, 1, 0⟩
def srcDir (a b : Word) : Src := ⟨a, b, 0, false, false, false⟩
def s0Dir (a b count cap : Word) : State := cmdState (sDir a b count cap) (srcDir a b) (xDir a b)

theorem witness_readsE : ReadsE (sDir 0x600 0x640 0 2) fE (srcDir 0x600 0x640) [] (xDir 0x600 0x640) ∧ (xDir 0x600 0x640).outstanding = [] :=
  ⟨⟨by decide +kernel, by decide +kernel⟩, by decide⟩

theorem witness_stands : Stands (s0Dir 0x600 0x640 0 2) (cmdRq (s0Dir 0x600 0x640 0 2)) (ptrAt (sDir 0x600 0x640 0 2) 0x600) ⟨hdrB⟩ [⟨entB⟩] :=
  ⟨by decide +kernel, by
    intro i e h
    match i with
    | 0 => cases h; decide +kernel
    | i + 1 => simp at h, by decide⟩

theorem witness_grule : Reads (sDir 0xC00 0 0 2) 12 0 1 false false (srcDir 0xC00 0) [] (xDir 0xC00 0) ∧ (0xC00 : Word).toNat % 32 = 0 ∧
    readWords (cmdRq (s0Dir 0xC00 0 0 2)) (ptrAt (sDir 0xC00 0 0 2) 0xC00) 8 (s0Dir 0xC00 0 0 2) = .ok (ruleWords, s0Dir 0xC00 0 0 2) ∧
    ruleOf ruleWords = some rule0 ∧ ruleOf hdrB = none :=
  ⟨⟨by decide +kernel, by decide +kernel⟩, by decide, by decide +kernel, by decide +kernel, by decide +kernel⟩
theorem test_grule_invalid : cause (exec (.grule ⟨3, 0, 1, 0⟩) (sDir 0x400 0 0 2)) = some 0x028 := by decide +kernel
theorem test_bdget : reg (exec (.bdget fE) (sDir 0x600 0x06 0 2)) 2 = some (1, false) ∧ reg (exec (.bdget fE) (sDir 0x600 0x10 0 2)) 2 = some (0, true) := by
  decide +kernel

/-- bdinit, bdins, bdfind and bdsort on B: its checks hold, its rule is loaded, its entry is found. -/
theorem witness_directory : (⟨hdrB⟩ : Hdr).shapeOk = true ∧ (⟨hdrB⟩ : Hdr).limOk = true ∧ (⟨hdrB⟩ : Hdr).busy = false ∧ (⟨hdrB⟩ : Hdr).ok = true ∧
    (⟨hdrB⟩ : Hdr).ixv = true ∧ ((sDir 0x600 0x640 0 2).region ⟨0, 0⟩).rules.find? (fun p => p.1 == (⟨hdrB⟩ : Hdr).rule) = some (0, rule0) ∧
    readWords (cmdRq (s0Dir 0x600 0x640 0 2)) (ptrAt (sDir 0x600 0x640 0 2) 0x640) 16 (s0Dir 0x600 0x640 0 2) = .ok (entB, s0Dir 0x600 0x640 0 2) ∧
    (⟨entB⟩ : Ent).ok 1 = true ∧ canonical rule0 ((⟨entB⟩ : Ent).q 0) = true ∧
    selects rule0 (⟨hdrB⟩ : Hdr).dirs ((⟨entB⟩ : Ent).qs 1) (⟨hdrB⟩ : Hdr).flux = true ∧ ceq rule0 ((⟨entB⟩ : Ent).q 0) 0 = true ∧
    (∀ r ∈ (s0Dir 0x600 0x640 0 2).regions, ∀ c ∈ r.2.cons, 1 < c.state) ∧ tupleLt [0] [0] = false :=
  ⟨by decide, by decide, by decide, by decide, by decide, by decide +kernel, by decide +kernel, by decide +kernel, by decide +kernel, by decide +kernel,
    by decide +kernel, List.forall_mem_cons.mpr ⟨List.forall_mem_nil _, List.forall_mem_nil _⟩, by decide⟩
theorem test_bdins_found : reg (exec (.bdins fE) (sDir 0x600 0x640 0 2)) 2 = some (0x8000_0000, false) := by decide +kernel
theorem test_bdins_appends : (next? (exec (.bdins fE) (sDir 0x800 0x640 0 2))).map (fun t => ((t.elem e0).dreg 2, memGet t.mem (hbmKey 0x808),
    memGet t.mem (hbmKey (0x840 + 51)))) = some (0, 1, 0x80) := by decide +kernel
theorem test_bdfind_none : reg (exec (.bdfind fE) (sDir 0x600 0xA04 0 2)) 2 = some (0xFFFF_FFFF, false) := by decide +kernel
theorem test_bdinit : (next? (exec (.bdinit fE) (sDir 0x600 0 0 2))).map (fun t => ((t.elem e0).dreg 2, memGet t.mem (hbmKey 0x608), memGet t.mem (hbmKey 0x601))) =
    some (2, 0, 0x18) := by decide +kernel
theorem test_bdsort : reg (exec (.bdsort fE) (sDir 0x600 0 0 2)) 2 = some (1, false) := by decide +kernel
theorem test_busy : cause (exec (.bdins fE) { sDir 0x600 0x640 0 2 with mem := memPut (memDir 0 2) (hbmKey 0x601) 0x16 }) = some 0x10A := by decide +kernel

theorem witness_pool : readWords (cmdRq (s0Dir 0xA00 1 0 2)) (ptrAt (sDir 0xA00 1 0 2) 0xA00) 16 (s0Dir 0xA00 1 0 2) = .ok (poolW, s0Dir 0xA00 1 0 2) ∧
    (⟨poolW⟩ : PoolHdr).ok = true ∧ (⟨poolW⟩ : PoolHdr).ndim = 1 ∧ 1 < (⟨poolW⟩ : PoolHdr).nblk ∧ (⟨poolW⟩ : PoolHdr).s 0 = 1 ∧
    (⟨poolW⟩ : PoolHdr).h = false ∧ bit (1 : Word) 31 = false ∧
    ∃ v, writeWord (cmdRq (s0Dir 0xA00 1 0 2)) (ptrAt (sDir 0xA00 1 0 2) 0xA00 + 8) (BitVec.ofNat 32 2) (s0Dir 0xA00 1 0 2) = .ok v := by
  obtain ⟨v, h, _⟩ := ok_of (r := writeWord (cmdRq (s0Dir 0xA00 1 0 2)) (ptrAt (sDir 0xA00 1 0 2) 0xA00 + 8) (BitVec.ofNat 32 2) (s0Dir 0xA00 1 0 2))
    (p := fun _ => true) (by decide +kernel)
  exact ⟨by decide +kernel, by decide +kernel, by decide, by decide, by decide, by decide, by decide, v, h⟩
theorem test_poolcfg : reg (exec (.poolcfg fE) (sDir 0xA00 5 0 2)) 2 = some (2, true) := by decide +kernel

/-! ## Contractions -/

theorem witness_bcon : readWords (cmdRq (s0Dir 0xB00 0 0 2)) (ptrAt (sDir 0xB00 0 0 2) 0xB00) 16 (s0Dir 0xB00 0 0 2) = .ok (conW, s0Dir 0xB00 0 0 2) ∧
    conDescOk conW = true ∧ (∀ n, 1 ≤ n → n ≤ 4 → (nthW conW n).toNat % 64 = 0) ∧
    readHdr (cmdRq (s0Dir 0xB00 0 0 2)) (ptrAt (sDir 0xB00 0 0 2) 0x800) (s0Dir 0xB00 0 0 2) = .ok (⟨hdrC 0 2⟩, s0Dir 0xB00 0 0 2) ∧
    readWords (cmdRq (s0Dir 0xB00 0 0 2)) (ptrAt (sDir 0xB00 0 0 2) 0xA00) 16 (s0Dir 0xB00 0 0 2) = .ok (poolW, s0Dir 0xB00 0 0 2) ∧
    (⟨hdrC 0 2⟩ : Hdr).busy = false ∧
    ∃ v, writeHdr (cmdRq (s0Dir 0xB00 0 0 2)) (ptrAt (sDir 0xB00 0 0 2) 0x800) ((⟨hdrC 0 2⟩ : Hdr).w0 ||| 0x200) (some 1) (s0Dir 0xB00 0 0 2) = .ok v := by
  obtain ⟨v, h, _⟩ := ok_of (r := writeHdr (cmdRq (s0Dir 0xB00 0 0 2)) (ptrAt (sDir 0xB00 0 0 2) 0x800) ((⟨hdrC 0 2⟩ : Hdr).w0 ||| 0x200) (some 1)
    (s0Dir 0xB00 0 0 2)) (p := fun _ => true) (by decide +kernel)
  refine ⟨by decide +kernel, by decide +kernel, ?_, by decide +kernel, by decide +kernel, by decide, v, h⟩
  intro n h1 h2
  have : n = 1 ∨ n = 2 ∨ n = 3 ∨ n = 4 := by omega
  rcases this with h | h | h | h <;> subst h <;> decide
theorem test_bcon : (next? (exec (.bcon fE) (sDir 0xB00 0 0 2))).map (fun t => ((t.elem e0).dreg 2, memGet t.mem (hbmKey 0x801), memGet t.mem (hbmKey 0x814))) =
    some (1, 0x16, 1) := by decide +kernel

def con (i j resume state : Nat) (queue : List Prod) : Contraction :=
  ⟨1, resume, state, 0, 0, 0, 0, none, 0, 0, conW, rule0, 1, 1, i, j, false, none, queue, [], [], false, none, []⟩
def sCon (c : Contraction) (count cap : Word) : State :=
  { sDir 0x0000_0001 0 count cap with regions := [(⟨0, 0⟩, { rules := [(0, rule0)], cseq := 2, cons := [c] })] }

theorem witness_con_handle : conOf (sCon (con 0 0 0 0 []) 0 2) 0 1 = .ok (⟨0, 0⟩, con 0 0 0 0 []) ∧
    conOf (sCon (con 0 0 0 1 []) 0 2) 0 1 = .ok (⟨0, 0⟩, con 0 0 0 1 []) ∧ (∃ stop, conOf (sCon (con 0 0 0 0 []) 0 2) 0 9 = .error stop) :=
  ⟨by decide +kernel, by decide +kernel, .trap 0x025 0 0 0, by decide +kernel⟩
theorem test_bcstat_field : cause (exec (.bcstat fE) { sCon (con 0 0 0 1 []) 0 2 with elems := [(e0, regs 1 8 0)] }) = some 0x02B := by decide +kernel
theorem test_bcwait : reg (exec (.bcwait fE) (sCon (con 0 0 3 1 []) 0 2)) 2 = some (1, false) := by decide +kernel
theorem test_bcres_resume : cause (exec (.bcres fE) (sCon (con 0 0 3 1 []) 0 2)) = some 0x026 := by decide +kernel

def sWalk0 : State := sCon (con 0 0 0 0 []) 0 2
def sWalk1 : State := sCon (con 0 0 0 0 []) 1 2
/-- The walk stands at the pair (0, 0): C has no entry for it, has room, and its pool a block. -/
theorem witness_walk_con : liveCon ((sCon (con 0 0 0 0 []) 0 2).region ⟨0, 0⟩) 1 = some (con 0 0 0 0 []) ∧
    (∀ a ∈ (sCon (con 0 0 0 0 []) 0 2).accs, a.req ≠ .sequencer ⟨0, 0⟩ 1) ∧ Up (sCon (con 0 0 0 0 []) 0 2) 0 ∧
    conFmts conW = some (.bf16, .bf16, .f32) ∧ checkHdrs rule0 conW 0 ⟨hdrA⟩ ⟨hdrB⟩ ⟨hdrC 0 2⟩ = .ok () ∧
    checkEnt (sCon (con 0 0 0 0 []) 0 2) 0 rule0 2 .bf16 ⟨entA⟩ 0 none = .ok () ∧
    checkEnt (sCon (con 0 0 0 0 []) 0 2) 0 rule0 1 .bf16 ⟨entB⟩ 0 none = .ok () ∧
    (∀ p ∈ ConDesc.pairs conW, ceq rule0 ((⟨entA⟩ : Ent).q p.1) ((⟨entB⟩ : Ent).q p.2) = true) ∧
    (∀ p ∈ ConDesc.pairs conW, (⟨entA⟩ : Ent).dim p.1 = (⟨entB⟩ : Ent).dim p.2) ∧
    (∃ ws u v, allocBlock (seqRq (sCon (con 0 0 0 0 []) 0 2) ⟨0, 0⟩ 1 0) 0 (descVA (sCon (con 0 0 0 0 []) 0 2) 0 (con 0 0 0 0 []) 4) ⟨hdrC 0 2⟩ .f32 0 [0] [1]
        (sCon (con 0 0 0 0 []) 0 2) = .ok (.fresh ws, u) ∧
      appendEnt (seqRq (sCon (con 0 0 0 0 []) 0 2) ⟨0, 0⟩ 1 0) (descVA (sCon (con 0 0 0 0 []) 0 2) 0 (con 0 0 0 0 []) 3) ⟨hdrC 0 2⟩ ws u = .ok v) := by
  obtain ⟨⟨al, u⟩, h, hp⟩ := ok_of (r := allocBlock (seqRq (sCon (con 0 0 0 0 []) 0 2) ⟨0, 0⟩ 1 0) 0
      (descVA (sCon (con 0 0 0 0 []) 0 2) 0 (con 0 0 0 0 []) 4) ⟨hdrC 0 2⟩ .f32 0 [0] [1] (sCon (con 0 0 0 0 []) 0 2))
    (p := fun y => match y.1 with
      | .fresh ws => okIs (appendEnt (seqRq (sCon (con 0 0 0 0 []) 0 2) ⟨0, 0⟩ 1 0) (descVA (sCon (con 0 0 0 0 []) 0 2) 0 (con 0 0 0 0 []) 3) ⟨hdrC 0 2⟩ ws y.2)
          (fun _ => true)
      | .stop _ => false) (by decide +kernel)
  refine ⟨by decide +kernel, by decide +kernel, ⟨by decide +kernel, by decide +kernel⟩, by decide +kernel, by decide +kernel, by decide +kernel,
    by decide +kernel, List.forall_mem_cons.mpr ⟨by decide +kernel, List.forall_mem_nil _⟩, List.forall_mem_cons.mpr ⟨by decide +kernel, List.forall_mem_nil _⟩, ?_⟩
  cases al with
  | stop c => simp at hp
  | fresh ws =>
    obtain ⟨v, h2, _⟩ := ok_of hp
    exact ⟨ws, u, v, h, h2⟩
/-- The three directories as that walk reads them: A and B with one entry each, C with none and its IXV set. -/
theorem witness_walk_stands :
    Stands sWalk0 (seqRq sWalk0 ⟨0, 0⟩ 1 0) (descVA sWalk0 0 (con 0 0 0 0 []) 1) ⟨hdrA⟩ [⟨entA⟩] ∧
    Stands sWalk0 (seqRq sWalk0 ⟨0, 0⟩ 1 0) (descVA sWalk0 0 (con 0 0 0 0 []) 2) ⟨hdrB⟩ [⟨entB⟩] ∧
    Stands sWalk0 (seqRq sWalk0 ⟨0, 0⟩ 1 0) (descVA sWalk0 0 (con 0 0 0 0 []) 3) ⟨hdrC 0 2⟩ [] ∧
    (con 0 0 0 0 []).na ≤ 1 ∧ (con 0 0 0 0 []).nb ≤ 1 ∧ (⟨hdrC 0 2⟩ : Hdr).ixv = true ∧ (⟨hdrC 0 2⟩ : Hdr).count ≠ (⟨hdrC 0 2⟩ : Hdr).cap ∧
    khas sWalk0.journals (.sequencer ⟨0, 0⟩ 1) = false ∧ (⟨entA⟩ : Ent).v = true ∧ (⟨entB⟩ : Ent).v = true := by
  refine ⟨⟨by decide +kernel, ?_, by decide⟩, ⟨by decide +kernel, ?_, by decide⟩, ⟨by decide +kernel, ?_, by decide⟩,
    by decide, by decide, by decide, by decide, by decide, by decide, by decide⟩
  · intro i e h
    match i with
    | 0 => cases h; decide +kernel
    | i + 1 => simp at h
  · intro i e h
    match i with
    | 0 => cases h; decide +kernel
    | i + 1 => simp at h
  · intro i e h; simp at h
/-- With C's one entry standing, the pair (0, 0) meets it: it is sound, it agrees and its sizes are the pair's. -/
theorem witness_walk_found : soundEnt sWalk1 0 rule0 1 ⟨entC⟩ 0 (some 0) = .ok () ∧ (⟨entC⟩ : Ent).v = true ∧
    tupleEq rule0 ((⟨entC⟩ : Ent).qs 1) ((ConDesc.outs conW).map (fun o => if o.1 then (⟨entB⟩ : Ent).q o.2 else (⟨entA⟩ : Ent).q o.2)) = true ∧
    checkEnt sWalk1 0 rule0 1 .f32 ⟨entC⟩ 0 (some 0) = .ok () ∧
    (⟨entC⟩ : Ent).dims 1 = (ConDesc.outs conW).map (fun o => if o.1 then (⟨entB⟩ : Ent).dim o.2 else (⟨entA⟩ : Ent).dim o.2) ∧
    readEnt (seqRq sWalk1 ⟨0, 0⟩ 1 0) (descVA sWalk1 0 (con 0 0 0 0 []) 3) 0 sWalk1 = .ok (⟨entC⟩, sWalk1) := by decide +kernel
theorem test_walk_allocates : (next? (exec (.contractionEnumerate ⟨0, 0⟩ 1) (sCon (con 0 0 0 0 []) 0 2))).map (fun t => (memGet t.mem (hbmKey 0x808),
    memGet t.mem (hbmKey 0xA0C), (t.region ⟨0, 0⟩).cons.map Contraction.alloc)) = some (1, 1, [1]) := by
  decide +kernel
theorem test_walk_capacity : (next? (exec (.contractionEnumerate ⟨0, 0⟩ 1) (sCon (con 0 0 0 0 []) 0 0))).map (fun t =>
    (t.region ⟨0, 0⟩).cons.map Contraction.stopped) = some [some 0x103] := by decide +kernel
theorem test_walk_ends : (next? (exec (.contractionEnumerate ⟨0, 0⟩ 1) (sCon (con 0 1 1 0 []) 1 2))).map (fun t =>
    (t.region ⟨0, 0⟩).cons.map Contraction.walked) = some [true] := by decide +kernel

/-- The product of 2.0 and 3.0 in bf16. -/
def conP : Contraction := con 0 1 1 0 [⟨0, 0, 0, 0, 1⟩]
def sProd : State := sCon conP 1 2
def qProd : Rq := prodRq sProd ⟨0, 0⟩ 1 0 0 0
theorem witness_product_state : liveCon (sProd.region ⟨0, 0⟩) 1 = some conP ∧ conP.queue.find? (fun p => p.k == 0) = some ⟨0, 0, 0, 0, 1⟩ ∧
    (∀ a ∈ sProd.accs, a.req ≠ .product ⟨0, 0⟩ 1 0) ∧ khas sProd.journals (.product ⟨0, 0⟩ 1 0) = false ∧ conFmts conP.desc = some (.bf16, .bf16, .f32) := by
  decide +kernel
theorem witness_product_first : Up sProd 0 ∧ ∀ y ∈ conP.queue, y.c = 0 → 0 ≤ y.k :=
  ⟨⟨by decide +kernel, by decide +kernel⟩, fun _ _ _ => Nat.zero_le _⟩
/-- Both headers and the three entries, as the product reads them one after another. -/
theorem witness_product_reads : readHdr qProd (descVA sProd 0 conP 1) sProd = .ok (⟨hdrA⟩, sProd) ∧
    readHdr qProd (descVA sProd 0 conP 2) sProd = .ok (⟨hdrB⟩, sProd) ∧ readEnt qProd (descVA sProd 0 conP 1) 0 sProd = .ok (⟨entA⟩, sProd) ∧
    readEnt qProd (descVA sProd 0 conP 2) 0 sProd = .ok (⟨entB⟩, sProd) ∧ readEnt qProd (descVA sProd 0 conP 3) 0 sProd = .ok (⟨entC⟩, sProd) := by
  decide +kernel
theorem witness_product_checks : checkHdr rule0 0 0 ⟨hdrA⟩ = .ok () ∧ checkHdr rule0 0 0 ⟨hdrB⟩ = .ok () ∧
    checkEnt sProd 0 rule0 2 .bf16 ⟨entA⟩ 0 (some 0) = .ok () ∧ checkEnt sProd 0 rule0 1 .bf16 ⟨entB⟩ 0 (some 0) = .ok () ∧
    checkEnt sProd 0 rule0 (ConDesc.nc conW) .f32 ⟨entC⟩ 0 (some 0) = .ok () := by decide +kernel
theorem witness_product_blocks : okIs (readBlock qProd 0 2 .bf16 ⟨entA⟩ 0 0 sProd) (fun y => decide (y.2.2 = sProd)) = true ∧
    okIs (readBlock qProd 0 1 .bf16 ⟨entB⟩ 0 0 sProd) (fun y => decide (y.2.2 = sProd)) = true ∧
    okIs (readBlock qProd 0 1 .f32 ⟨entC⟩ 0 0 sProd) (fun y => decide (y.2.2 = sProd) &&
      okIs (writeAt qProd y.1 [(0, 0x40C0_0000)] sProd) (fun _ => true)) = true := by decide +kernel
theorem test_product : (next? (exec (.contractionProduct ⟨0, 0⟩ 1 0) sProd)).map (fun t =>
    (BitVec.ofNat 32 (leNat ((List.range 4).map (fun n => memGet t.mem (hbmKey (0x3000 + n))))), (t.region ⟨0, 0⟩).cons.map Contraction.retired)) =
    some ((0x40C0_0000 : Word), [1]) := by decide +kernel

theorem witness_con_end : readHdr (headerRq (sCon { con 1 0 1 0 [] with walked := true } 1 2) ⟨0, 0⟩ 1 0)
      (descVA (sCon { con 1 0 1 0 [] with walked := true } 1 2) 0 (con 0 0 0 0 []) 3) (sCon { con 1 0 1 0 [] with walked := true } 1 2) =
      .ok (⟨hdrC 1 2⟩, sCon { con 1 0 1 0 [] with walked := true } 1 2) ∧
    okIs (writeHdr (headerRq (sCon { con 1 0 1 0 [] with walked := true } 1 2) ⟨0, 0⟩ 1 0)
      (descVA (sCon { con 1 0 1 0 [] with walked := true } 1 2) 0 (con 0 0 0 0 []) 3) ((⟨hdrC 1 2⟩ : Hdr).w0 &&& ~~~0x200) (some 0)
      (sCon { con 1 0 1 0 [] with walked := true } 1 2)) (fun _ => true) = true := by decide +kernel
theorem test_con_complete : (next? (exec (.contractionComplete ⟨0, 0⟩ 1) (sCon { con 1 0 1 0 [] with walked := true } 1 2))).map (fun t =>
    ((t.elem e0).chan 4).map (fun k => (k.w, k.tag))) = some [(1, 0)] := by decide +kernel
theorem test_con_stop : (next? (exec (.contractionStop ⟨0, 0⟩ 1) (sCon { con 1 0 1 0 [] with stopped := some 0x103 } 1 2))).map (fun t =>
    (((t.elem e0).chan 4).map (fun k => (k.w, k.tag)), memGet t.mem (hbmKey 0x801))) = some ([(1, 1)], 0x15) := by decide +kernel

/-- A region with two queued products of a threshold of 1 beside an idle region. -/
def conM : Contraction := { con 0 0 2 0 [⟨0, 0, 0, 0, 1⟩, ⟨1, 0, 0, 1, 4⟩] with desc := conW.set 7 1 }
def sMig : State := (sCon conM 1 2).modInst 0 (fun i => { i with img := { image with regions := [⟨0, false⟩, ⟨1, false⟩] } })
theorem witness_migration : heaviest (groupsOf sMig ⟨0, 0⟩ conM) = some (1, 4) ∧ firstGroup sMig ⟨0, 0⟩ (1, 4) = true ∧ migrateTo sMig ⟨0, 0⟩ = some 1 ∧ ConDesc.nomig conM.desc = false ∧
    ConDesc.thr conM.desc < queuedAt sMig ⟨0, 0⟩ := by decide +kernel
theorem test_migration : (next? (exec (.groupMigration ⟨0, 0⟩ 1) sMig)).map (fun t => (t.region ⟨0, 0⟩).cons.map Contraction.owners) = some [[(1, 1)]] := by
  decide +kernel

/-- R76: a finite group whose largest term lies between 2^24 and 2^25. -/
theorem witness_group : (∀ t ∈ ([fv 0x4B80_0000, .fin false 1 0] : List FVal), t.isFin = true) ∧
    (∀ t ∈ ([fv 0x4B80_0000, .fin false 1 0] : List FVal), |t.q| < (2 : ℚ) ^ ((24 : Int) + 1)) ∧
    (∃ t ∈ ([fv 0x4B80_0000, .fin false 1 0] : List FVal), (2 : ℚ) ^ (24 : Int) ≤ |t.q|) := by
  have h : fv 0x4B80_0000 = .fin false 8388608 1 := by decide +kernel
  rw [h]
  refine ⟨by simp [FVal.isFin], ?_, ?_⟩
  · intro t ht
    simp only [List.mem_cons, List.not_mem_nil, or_false] at ht
    rcases ht with ht | ht <;> subst ht <;> norm_num [FVal.q]
  · refine ⟨.fin false 8388608 1, by simp, ?_⟩
    norm_num [FVal.q]
/-! ## Tile operations -/

/-- copyt of f32, 32 x 32, from tile 5 to tile 6. -/
def hU : Word := 0x0300_0006
def copytW : List Word := [0x7000_0000, 0x0020_0020, 0, hT, 0xFFFF_FFFF, 0xFFFF_FFFF, hU, 0xFFFF_FFFF, 0, 0, 0, 0, 0, 0, 0, 0]
def fTop : FmtE := ⟨2, 0, 1, 6⟩
def xTop : Elem := regs 0x100 2 0
def sTop (x : Elem) (full5 : Bool) : State :=
  { part x image (words 0x100 copytW []) with tiles := [((0, 5), { tile5 with f := full5 }), ((0, 6), tile5)] }
theorem witness_topb : ReadsE (sTop xTop true) fTop ⟨0x100, 2, 0, false, false, false⟩ [] xTop ∧ xTop.outstanding = [] ∧
    readWords (cmdRq (cmdState (sTop xTop true) ⟨0x100, 2, 0, false, false, false⟩ xTop)) (ptrAt (sTop xTop true) 0x100) 16
      (cmdState (sTop xTop true) ⟨0x100, 2, 0, false, false, false⟩ xTop) =
      .ok (copytW, cmdState (sTop xTop true) ⟨0x100, 2, 0, false, false, false⟩ xTop) ∧
    topDescOk 6 copytW = true ∧ systolicOk (cmdState (sTop xTop true) ⟨0x100, 2, 0, false, false, false⟩ xTop) e0 6 copytW = true ∧
    (∀ h ∈ topHandles copytW, live (cmdState (sTop xTop true) ⟨0x100, 2, 0, false, false, false⟩ xTop) 0 h = true) ∧
    shapesOk (cmdState (sTop xTop true) ⟨0x100, 2, 0, false, false, false⟩ xTop) 0 6 copytW = true ∧
    (khas xTop.binds 0 = false ∧ xTop.topx.length < 4) :=
  ⟨⟨by decide +kernel, by decide +kernel⟩, by decide, by decide +kernel, by decide +kernel, by decide +kernel,
    List.all_eq_true.mp (by decide +kernel), by decide +kernel, by decide⟩
theorem test_topb : (next? (exec (.topb fTop) (sTop xTop true))).map (fun t => ((t.elem e0).dreg 2, (t.tile (0, 6)).uses)) = some (0x4000_0000, 1) := by
  decide +kernel
theorem test_topb_full : cause (exec (.topb fTop) (sTop { xTop with binds := (List.range 4).map (fun n => (n, ⟨6, copytW, 0, 0, 0, 0, [], false, none, []⟩)) } true)) =
    some 0x02C := by decide +kernel
theorem test_topx : (next? (exec (.topx fTop) (sTop xTop true))).map (fun t => (t.elem e0).dreg 2) = some 0x6000_0000 := by decide +kernel
theorem test_top_shape : cause (exec (.topb fTop) { sTop xTop true with tiles := [((0, 5), tile5), ((0, 6), { tile5 with spec := 1 })] }) =
    some 0x02D := by decide +kernel

def bind0 : Bind := ⟨6, copytW, 1, 0, 0x4000_0000, 0, [], false, none, []⟩
def sFire : State := sTop { binds := [(0, bind0)] } true
theorem witness_firing : (sFire.elem e0).firing = none ∧ (sFire.elem e0).topx = [] ∧ (sFire.elem e0).binds.find? (fun p => p.1 == 0) = some (0, bind0) ∧
    (sFire.tile (entryOf sFire 0 hT)).f = true ∧ claimed sFire (entryOf sFire 0 hT) = false ∧ (sFire.tile (entryOf sFire 0 hU)).f = false ∧
    claimed sFire (entryOf sFire 0 hU) = false ∧ topHandles copytW = [hT, hU] ∧ sFire.inTurn (.table 0) (tableEngine 0) = true ∧
    okIs (readTile (bindRq sFire e0 0) 0 hT (acquireOpnds sFire e0 copytW)) (fun y =>
      okIs (readTile (bindRq sFire e0 0) 0 0xFFFF_FFFF y.2) (fun z => decide (z = ([], y.2)))) = true := by decide +kernel

theorem length_leBytes (n v : Nat) : (leBytes n v).length = n := by
  induction n generalizing v with
  | zero => rfl
  | succ n ih => simp [leBytes, ih]

theorem getD_range_map {α : Type} (g : Nat → α) (n k : Nat) (d : α) (h : k < n) : ((List.range n).map g).getD k d = g k := by
  simp [List.getD, h]

/-- D can be written, whatever its values, which the firing's rule gives. -/
theorem witness_firing_values (value : Nat → Nat → Nat × Bool) : ∃ (d : List (Nat × Bool)) (u : State), d.length = 32 * 32 ∧
    (∀ i j, i < 32 → j < 32 → d.getD (i * 32 + j) (0, false) = value i j) ∧
    writePlace (bindRq sFire e0 0) (.tile (entryOf sFire 0 hU) 0) 0 (packElems 32 (d.map Prod.fst)) sFire = .ok u := by
  refine ⟨(List.range (32 * 32)).map (fun p => value (p / 32) (p % 32)), ?_⟩
  have hl : (packElems 32 (((List.range (32 * 32)).map (fun p => value (p / 32) (p % 32))).map Prod.fst)).length = 4096 := by
    simp [packElems, length_leBytes]
  obtain ⟨s1, hr, _⟩ := ok_of (r := tileRace (sFire.act (.table (entryOf sFire 0 hU).1) tableSequencer) (bindRq sFire e0 0) (entryOf sFire 0 hU) 0 4096 true) (p := fun _ => true) (by decide +kernel)
  refine ⟨writeThrough s1 (keyed (tileKey (entryOf sFire 0 hU).1 (entryOf sFire 0 hU).2 (0 + 0))
    (packElems 32 (((List.range (32 * 32)).map (fun p => value (p / 32) (p % 32))).map Prod.fst))), by simp, ?_, ?_⟩
  · intro i j hi hj
    rw [getD_range_map _ _ _ _ (by omega)]
    have h1 : (i * 32 + j) / 32 = i := by omega
    have h2 : (i * 32 + j) % 32 = j := by omega
    rw [h1, h2]
  · have hb : tableBusy (sFire.act (.table (entryOf sFire 0 hU).1) tableSequencer) (entryOf sFire 0 hU).1 = false := by decide +kernel
    simp only [writePlace, engineTile, hb, Bool.false_eq_true, if_false, hl, Nat.add_zero, hr]

/-- The delay node of scant exists for any step. -/
theorem witness_scan (first : Nat → Word) (f : Nat → Nat → Word → Word) : ∃ hs : Nat → Nat → Word, (∀ j, hs 0 j = first j) ∧
    ∀ i j, hs (i + 1) j = f i j (hs i j) :=
  ⟨fun i j => Nat.rec (first j) (fun i h => f i j h) i, fun _ => rfl, fun _ _ => rfl⟩

def sFired : State := sTop { binds := [(0, bind0)], firing := some ⟨some 0, bind0, true, [(0, 0)], 0⟩ } true
theorem witness_firing_end : (sFired.elem e0).firing = some ⟨some 0, bind0, true, [(0, 0)], 0⟩ ∧ (bind0.limit ≠ 0 ∧ bind0.limit ≤ bind0.fired + 1) := by
  decide +kernel
theorem test_firing_end : (next? (exec (.tileOpFiringEnd e0) sFired)).map (fun t => ((t.tile (0, 5)).f, (t.tile (0, 6)).f, (t.elem e0).binds.length)) =
    some (false, true, 0) := by decide +kernel
theorem test_firing_end_token : (next? (exec (.tileOpFiringEnd e0) sFired)).map (fun t => ((t.elem e0).chan 4).map (fun k => (k.w, k.tag, k.exc))) =
    some [(0x4000_0000, 0, true)] := by decide +kernel

/-! ## The wellhead -/

/-- Rows of four f32; one segment of three rows at 0x800; indices at 0x600; BUF at 0x700. -/
def gHead : List Word := [0x6D00_0004, 0x600, 0xFFFF_FFFF, 0x700, 0, 0, 0, 0, 0, 0, 0, 0, 0, 0, 0, 0]
def gSeg : List Word := [0x800, 3]
def memG (i : Word) : List (Nat × Byte) := words 0x400 (gHead ++ gSeg) (words 0x600 [i] (words 0x820 [0x3F80_0000, 2, 3, 4] []))
def sG (a b i : Word) : State := part (regs a b 0) image (memG i)
theorem witness_gath : ReadsE (sG 0x400 1 2) fE ⟨0x400, 1, 0, false, false, false⟩ [] (regs 0x400 1 0) ∧
    readWords (cmdRq (cmdState (sG 0x400 1 2) ⟨0x400, 1, 0, false, false, false⟩ (regs 0x400 1 0))) (ptrAt (sG 0x400 1 2) 0x400) 16
      (cmdState (sG 0x400 1 2) ⟨0x400, 1, 0, false, false, false⟩ (regs 0x400 1 0)) =
      .ok (gHead, cmdState (sG 0x400 1 2) ⟨0x400, 1, 0, false, false, false⟩ (regs 0x400 1 0)) ∧
    readWords (cmdRq (cmdState (sG 0x400 1 2) ⟨0x400, 1, 0, false, false, false⟩ (regs 0x400 1 0))) (ptrAt (sG 0x400 1 2) 0x400 + 64) 2
      (cmdState (sG 0x400 1 2) ⟨0x400, 1, 0, false, false, false⟩ (regs 0x400 1 0)) =
      .ok (gSeg, cmdState (sG 0x400 1 2) ⟨0x400, 1, 0, false, false, false⟩ (regs 0x400 1 0)) ∧
    gdescOk 0 0 (gHead ++ gSeg) = true ∧ gdescOk 1 1 (gHead ++ gSeg) = true ∧ (kget [] (sG 0x400 1 2).wells 0).length < 16 :=
  ⟨⟨by decide +kernel, by decide +kernel⟩, by decide +kernel, by decide +kernel, by decide +kernel, by decide +kernel, by decide +kernel⟩
theorem test_gath : reg (exec (.gath fE) (sG 0x400 1 2)) 2 = some (0xA000_0001, false) := by decide +kernel
theorem test_pools_start : cause (exec (.pools fE) (sG 0x400 1 2)) = some 0x024 := by decide +kernel

def wcmd (op fn : Nat) (served : List Nat) (vals : KMap (List Byte)) : WellCmd :=
  ⟨1, 0, 0, op, fn, gHead ++ gSeg, 1, 0, served, served.length, 0, 0, 0, 0, 0, 0, false, vals⟩
def sW (c : WellCmd) (i : Word) : State :=
  { sG 0xA000_0001 1 i with regions := [(⟨0, 0⟩, { wseq := 2, wells := [c] })], wells := [(0, [(⟨0, 0⟩, 1)])] }
theorem witness_well_row : liveWell ((sW (wcmd 0 0 [] []) 2).region ⟨0, 0⟩) 1 = some (wcmd 0 0 [] []) ∧ (0 : Nat) ∉ (wcmd 0 0 [] []).served ∧
    (∀ a ∈ (sW (wcmd 0 0 [] []) 2).accs, a.req ≠ .wellhead ⟨0, 0⟩ 1 0) ∧ Up (sW (wcmd 0 0 [] []) 2) 0 ∧
    readWords (wellRq (sW (wcmd 0 0 [] []) 2) ⟨0, 0⟩ 1 0 0 false) (dataVA (sW (wcmd 0 0 [] []) 2) 0 0x600) 1 (sW (wcmd 0 0 [] []) 2) =
      .ok ([2], sW (wcmd 0 0 [] []) 2) ∧
    okIs (xlate (sW (wcmd 0 0 [] []) 2) (wellRq (sW (wcmd 0 0 [] []) 2) ⟨0, 0⟩ 1 0 0 false) 0x820 false) (fun y =>
      !peerDown (sW (wcmd 0 0 [] []) 2) y.1 && okIs (readVA (wellRq (sW (wcmd 0 0 [] []) 2) ⟨0, 0⟩ 1 0 0 false) 0x820 16 (widenElem y.2 e0 .part)) (fun z =>
        okIs (writeVA (wellRq (sW (wcmd 0 0 [] []) 2) ⟨0, 0⟩ 1 0 0 false) 0x700 z.1 z.2) (fun _ => true))) = true :=
  ⟨by decide +kernel, by decide, by decide +kernel, ⟨by decide +kernel, by decide +kernel⟩, by decide +kernel, by decide +kernel⟩
theorem test_gath_row : (next? (exec (.wellheadRowServe ⟨0, 0⟩ 1 0) (sW (wcmd 0 0 [] []) 2))).map (fun t => (memGet t.mem (hbmKey 0x703),
    (t.region ⟨0, 0⟩).wells.map (fun c => (c.done, c.nloc)))) = some (0x3F, [(1, 1)]) := by decide +kernel
theorem test_gath_invalid : (next? (exec (.wellheadRowServe ⟨0, 0⟩ 1 0) (sW (wcmd 0 0 [] []) 3))).map (fun t =>
    (t.region ⟨0, 0⟩).wells.map (fun c => (c.done, c.badix, c.exc))) = some [(0, 1, true)] := by decide +kernel
theorem test_scat_add : (next? (exec (.wellheadRowServe ⟨0, 0⟩ 1 0) { sW (wcmd 1 1 [] []) 2 with mem := words 0x700 [5, 6, 7, 8] (memG 2) })).map (fun t =>
    (t.engine (ownerOf t 0x820)).reqs.map (fun r => (r.port, r.va, r.b))) = some [(65, 0x820, 5), (65, 0x824, 6), (65, 0x828, 7), (65, 0x82C, 8)] := by
  decide +kernel
theorem witness_well_done : (wcmd 0 0 [0] []).served.length = (wcmd 0 0 [0] []).count ∧ addsDone (sW (wcmd 0 0 [0] []) 2) ⟨0, 0⟩ 1 = true ∧
    ((sG 0xA000_0001 1 2).region ⟨0, 0⟩).wells = [] ∧ bits (0xA000_0001 : Word) 31 24 = 0xA0 := by decide +kernel
theorem test_well_done : (next? (exec (.wellheadCommandComplete ⟨0, 0⟩ 1) (sW (wcmd 0 0 [0] []) 2))).map (fun t =>
    (((t.elem e0).chan 4).map (fun k => (k.w, k.tag)), (t.region ⟨0, 0⟩).wells.map WellCmd.state)) = some ([(0xA000_0001, 0)], [1]) := by decide +kernel
theorem test_gstat_field : reg (exec (.gstat fE) (sW (wcmd 0 0 [0] []) 2)) 2 = some (1, false) := by decide +kernel

/-- pools: one bag of two positions, its bounds at 0x500. -/
def pHead : List Word := [0x6D00_0004, 0x600, 0x500, 0x700, 0, 0, 0, 0, 0, 0, 0, 0, 0, 0, 0, 0]
def rowBytes : List Byte := bytesOfWords [0x3F80_0000, 0x4000_0000, 0, 0]
def pcmd : WellCmd := ⟨1, 0, 0, 2, 0, pHead ++ gSeg, 1, 0, [1, 0], 2, 0, 0, 0, 0, 0, 0, false, [(0, rowBytes), (1, rowBytes)]⟩
def sP : State := { sW pcmd 2 with mem := words 0x500 [0, 2] (memG 2) }
theorem witness_pools : readWords (wellRq sP ⟨0, 0⟩ 1 1 0 false) (dataVA sP 0 0x500) 2 sP = .ok ([0, 2], sP) ∧ goodBags [0, 2] = 1 ∧
    (∀ p, 0 ≤ p → p < 2 → p ∈ pcmd.served) ∧ okIs (writeBags (wellRq sP ⟨0, 0⟩ 1 1 0 false) 0 pcmd [0, 2] 1 sP) (fun _ => true) = true ∧
    goodBags [4, 2] = 0 := by
  refine ⟨by decide +kernel, by decide, ?_, by decide +kernel, by decide⟩
  intro p _ h
  have : p = 0 ∨ p = 1 := by omega
  rcases this with h | h <;> subst h <;> decide
theorem test_pools : (next? (exec (.wellheadCommandComplete ⟨0, 0⟩ 1) sP)).map (fun t => (memGet t.mem (hbmKey 0x703), memGet t.mem (hbmKey 0x706))) =
    some (0x40, 0x80) := by decide +kernel
theorem witness_pool_fold : (0 : Nat) ≤ 1 ∧ 0 < GDesc.dim pcmd.desc := by decide

/-! ## Groups and collectives -/

def grp : Group := { valid := true, g := 7, p := 2, map := [(0, 0), (1, 9)], gen := 1 }
/-- An allreduce of three f32 by sum at 0x800. -/
def objW : List Word := [0xCE11_0000, 0x700, 3, 0, 0x800, 0xFFFF_FFFF, 0xFFFF_FFFF, 0xFFFF_FFFF, 0, 0, 0, 0, 0, 0, 0, 0]
def sGr (a : Word) (g : Group) : State := { part (regs a 0 0) image (words 0x400 objW (words 0x800 [1, 2, 3] [])) with groups := [(0, g)] }
def srcA (a : Word) : Src := ⟨a, 0, 0, false, false, false⟩
theorem witness_cgload : ReadsE (sGr 0x400 grp) fE (srcA 0x400) [] (regs 0x400 0 0) ∧
    readWords (cmdRq (cmdState (sGr 0x400 grp) (srcA 0x400) (regs 0x400 0 0))) (ptrAt (sGr 0x400 grp) 0x400) 16
      (cmdState (sGr 0x400 grp) (srcA 0x400) (regs 0x400 0 0)) = .ok (objW, cmdState (sGr 0x400 grp) (srcA 0x400) (regs 0x400 0 0)) ∧
    cobjOk objW = true ∧ CObj.tpl objW ≠ 0 ∧ slotOf (sGr 0x400 grp) 0 (CObj.g objW) = some 0 ∧ khas (sGr 0x400 grp).colls 0 = false :=
  ⟨⟨by decide +kernel, by decide +kernel⟩, by decide +kernel, by decide +kernel, by decide, by decide +kernel, by decide +kernel⟩
theorem test_cgload : reg (exec (.cgload fE) (sGr 0x400 grp)) 2 = some (0xC000_0000, false) := by decide +kernel

/-- A chunk graph of one local copy of 4 bytes from offset 0 to offset 16. -/
def copyOp : List Word := [0x4000_0000, 0, 16, 4, 0, 0xFFFF_FFFF, 1, 0]
theorem witness_chunk_graph : cgraphOk [0xCE00_0000, 0x700, 1, 0, 0x800, 0xFFFF_FFFF, 0xFFFF_FFFF, 0xFFFF_FFFF, 0x500, 0, 0, 0, 0, 0, 0, 0] [copyOp] 2 = true := by
  decide +kernel

def coll0 : Coll := ⟨objW, [], 0, 1, 0, some 0, 0⟩
def sColl (a : Word) (g : Group) : State := { sGr a g with colls := [(0, coll0)] }
theorem witness_crun : collOf (sColl 0xC000_0000 grp) 0xC000_0000 = .ok (0, 0, coll0) ∧ dispOk objW 0 = true ∧ dispOk objW 2 = false ∧
    ((sColl 0xC000_0000 grp).group 0).calls.length < 8 ∧ (∃ stop, collOf (sColl 0xC000_0001 grp) 0xC000_0001 = .error stop) :=
  ⟨by decide +kernel, by decide +kernel, by decide +kernel, by decide +kernel, .trap 0x031 0 0 0, by decide +kernel⟩
theorem test_crun : (next? (exec (.crun fE) (sColl 0xC000_0000 grp))).map (fun t => ((t.elem e0).dreg 2, t.sent)) =
    some (1, [.start 0 1 ⟨1, 1, 1, 3, 0⟩]) := by decide +kernel
theorem test_cseq : reg (exec (.cseq fE) (sColl 0xC000_0000 { grp with next := 5 })) 2 = some (5, false) := by decide +kernel

/-- cwait of numbers 1 (ended), 4 (open) and 5 (not issued). -/
def call0 : Call := ⟨4, ⟨4, 1, 1, 3, 0⟩, 0, some 0, 0, 0, 0, 0, 0, false, false, 0, false, [], [], [], [], [], [], false, 1000, none, none, [], true⟩
def grpC : Group := { grp with next := 5, calls := [call0], ended := [(1, true, none)] }
theorem witness_cwait : ¬ (16 ≤ bits (0x0000_0001 : Word) 31 24) ∧ ((grpC.next + 0xFFFFFF - 1) % 0xFFFFFF = 4) ∧
    grpC.ended.find? (fun p => p.1 == 1) = some (1, true, none) ∧ ((grpC.next + 0xFFFFFF - 5) % 0xFFFFFF = 0) ∧ (∃ c ∈ grpC.calls, c.num = 4) := by
  refine ⟨by decide, by decide, by decide, by decide, call0, by decide, rfl⟩
theorem test_cwait_number : cause (exec (.cwait fE) (sColl 5 grpC)) = some 0x032 := by decide +kernel
theorem test_cwait_ended : reg (exec (.cwait fE) (sColl 1 grpC)) 2 = some (0, true) := by decide +kernel

theorem witness_bar : ReadsE (sColl 0xC000_0000 grp) ⟨2, 0, 13, 0⟩ (srcA 0xC000_0000) [] (regs 0xC000_0000 0 0) ∧
    ((part { dp := .work ⟨0, 0, .bar ⟨2, 0, 13, 0⟩, ⟨0xC000_0000, 4, 0, false, false, false⟩, [], 0⟩ } image []).elem e0).halted = false ∧
    Up (part {} image []) 0 := ⟨⟨by decide +kernel, by decide +kernel⟩, by decide +kernel, ⟨by decide +kernel, by decide +kernel⟩⟩
theorem test_bar : (next? (exec (.bar ⟨2, 0, 13, 0⟩) (sColl 0xC000_0000 grp))).map (fun t => t.sent) = some [.start 0 1 ⟨1, 15, 0, 0, 0⟩] := by
  decide +kernel

/-- FORM of group 7 with two members as rank 0, address 0; a rank outside it; an address that is another's. -/
theorem witness_form : bit (0x8007_0200 : Word) 31 = true ∧ bit (0x8007_0200 : Word) 30 = false ∧ bits (0x8007_0200 : Word) 14 8 = 2 ∧
    kget 0 grp.map (bits (0x8007_0200 : Word) 5 0) = (sGr 0 grp).naddr ∧ kget 0 grp.map (bits (0x8007_0201 : Word) 5 0) ≠ (sGr 0 grp).naddr ∧
    bits (0x8007_0202 : Word) 14 8 ≤ bits (0x8007_0202 : Word) 5 0 := by decide +kernel
theorem test_form : (next? (exec (.groupForm 0 0x8007_0200) (sGr 0 { grp with valid := false }))).map (fun t => ((t.group 0).valid, (t.group 0).gen)) =
    some (true, 2) := by decide +kernel
theorem test_form_rank : (next? (exec (.groupForm 0 0x8007_0202) (sGr 0 grp))).map (fun t => (t.group 0).gstat) = some 1 := by decide +kernel

def sCall (starts : List (Nat × StartPkt)) : State := sColl 0 { grpC with starts := starts }
theorem witness_call_start : ((sCall [(1, call0.pkt)]).group 0).calls = [call0] ∧ call0.started = false ∧ ((sCall []).graph call0.graph).fault = none ∧
    ((sCall []).inst 0).graph = call0.graph ∧ (∀ a ∈ (sCall []).accs, a.req ≠ .collective 0 4) ∧
    peersOf (sCall [(1, call0.pkt)]) ((sCall [(1, call0.pkt)]).group 0) call0 = [1] ∧ call0.pkt.tpl = 1 ∧
    okIs (readVA (collRq (sCall [(1, call0.pkt)]) 0 call0) (bufVA (sCall [(1, call0.pkt)]) call0 0 0) (3 * 4) (sCall [(1, call0.pkt)]))
      (fun _ => true) = true ∧ (⟨4, 2, 1, 3, 0⟩ : StartPkt) ≠ call0.pkt := by decide +kernel
theorem test_call_start : (next? (exec (.collectiveCallStart 0 4) (sCall [(1, call0.pkt)]))).map (fun t => t.sent) =
    some [.chunk 0 1 ⟨0, 4, 1, false, [3, 0, 0, 0]⟩] := by decide +kernel
theorem test_call_mismatch : cause (exec (.collectiveCallStart 0 4) (sCall [(1, ⟨4, 2, 1, 3, 0⟩)])) = some 0x1A0 := by decide +kernel
theorem witness_timeout : call0.issued + call0.tmo * 1000000 ≤ 1000000000 ∧ 5 < call0.issued + call0.tmo * 1000000 := by decide

/-- The chunk graph's call, started; with its copy still to run, and run. -/
def graphObj : List Word := [0xCE00_0000, 0x700, 1, 0, 0x800, 0xFFFF_FFFF, 0xFFFF_FFFF, 0xFFFF_FFFF, 0x500, 0, 0, 0, 0, 0, 0, 0]
def call1 (ran : List Nat) : Call := { call0 with pkt := ⟨4, 0, 0, 1, 0⟩, started := true, ran := ran }
def sOp (ran : List Nat) : State := { sGr 0 { grpC with calls := [call1 ran] } with colls := [(0, ⟨graphObj, [copyOp], 0, 1, 0, some 0, 0⟩)] }
theorem witness_chunk_op : ((sOp []).group 0).calls = [call1 []] ∧ opEligible (sOp []) 0 (call1 []) 0 = true ∧ COp.type copyOp = 4 ∧
    okIs (readVA (collRq (sOp []) 0 (call1 [])) (bufVA (sOp []) (call1 []) 0 0) 4 (sOp [])) (fun y =>
      okIs (writeVA (collRq (sOp []) 0 (call1 [])) (bufVA (sOp []) (call1 []) 0 16) y.1 y.2) (fun _ => true)) = true ∧
    callWrites (sOp []) 0 (call1 []) = none ∧ callWrites (sOp [0]) 0 (call1 [0]) = some [] := by decide +kernel
theorem test_chunk_op : (next? (exec (.chunkGraphOpStart 0 4 0) (sOp []))).map (fun t => memGet t.mem (hbmKey 0x810)) = some 1 := by decide +kernel
theorem test_call_complete : (next? (exec (.collectiveCallComplete 0 4) (sOp [0]))).map (fun t => ((t.group 0).calls.length, (t.group 0).ended.map Prod.fst)) =
    some (0, [4, 1]) := by decide +kernel

/-! ## The exchange -/

/-- A send list of group 7 with one entry: 8 bytes at 0x800 to rank 1; a landing list with a zone of rank 1 at 0x900. -/
def sendHead (round bound : Word) : List Word := [0xD507_0101, round, bound, 0, 0, 0, 0, 0, 0, 0, 0, 0, 0, 0, 0, 0]
def sendEnt : List Word := [1, 0x800, 8, 8, 0, 0, 0, 0]
def landHead : List Word := [0xD607_0101, 0, 0, 0, 0, 0, 0, 0, 0, 0, 0, 0, 0, 0, 0, 0]
def landEnt : List Word := [1, 0x900, 8, 0, 0, 0, 0, 0]
def memX (round bound : Word) : List (Nat × Byte) :=
  words 0x400 (sendHead round bound ++ sendEnt) (words 0x600 (landHead ++ landEnt) (words 0x800 [0x1111_2222, 0x3333] []))
def sX (a b round bound : Word) (g : Group) : State := { part (regs a b 0) image (memX round bound) with groups := [(0, g)] }
def s0X (a b round bound : Word) (g : Group) : State := cmdState (sX a b round bound g) ⟨a, b, 0, false, false, false⟩ (regs a b 0)
theorem witness_dpost : ReadsE (sX 0x400 0 0 0 grp) fE ⟨0x400, 0, 0, false, false, false⟩ [] (regs 0x400 0 0) ∧
    readWords (cmdRq (s0X 0x400 0 0 0 grp)) (ptrAt (sX 0x400 0 0 0 grp) 0x400) 16 (s0X 0x400 0 0 0 grp) = .ok (sendHead 0 0, s0X 0x400 0 0 0 grp) ∧
    okIs (xlate (s0X 0x400 0 0 0 grp) (cmdRq (s0X 0x400 0 0 0 grp)) (ptrAt (sX 0x400 0 0 0 grp) 0x400) false) (fun y => decide (y.1.home ≤ 1)) = true ∧
    readWords (cmdRq (s0X 0x400 0 0 0 grp)) (ptrAt (sX 0x400 0 0 0 grp) 0x400 + 64) 8 (s0X 0x400 0 0 0 grp) = .ok (sendEnt, s0X 0x400 0 0 0 grp) ∧
    xhdrOk 0xD5 64 (sendHead 0 0) = true ∧ sendEntOk sendEnt = true ∧ slotOf (sX 0x400 0 0 0 grp) 0 7 = some 0 ∧ XEnt.rank sendEnt < grp.p ∧
    grp.round = none ∧
    okIs (writeWord (cmdRq (s0X 0x400 0 0 0 grp)) (ptrAt (sX 0x400 0 0 0 grp) 0x400 + 4) (BitVec.ofNat 32 1)
      (openRound (s0X 0x400 0 0 0 grp) 0 (curJob (sX 0x400 0 0 0 grp) ⟨0x400, 0, 0, false, false, false⟩) 1 none)) (fun _ => true) = true :=
  ⟨⟨by decide +kernel, by decide +kernel⟩, by decide +kernel, by decide +kernel, by decide +kernel, by decide +kernel, by decide +kernel, by decide +kernel,
    by decide, by decide, by decide +kernel⟩
theorem test_dpost : (next? (exec (.dpost fE) (sX 0x400 0 0 0 grp))).map (fun t => ((t.elem e0).dreg 2, t.sent, memGet t.mem (hbmKey 0x404))) =
    some (1, [.row 0 1 [0, 8]], 1) := by decide +kernel
theorem test_dsend_no_round : cause (exec (.dsend fE) (sX 0x400 0 1 0 grp)) = some 0x039 := by decide +kernel
theorem test_drecv : (next? (exec (.drecv fE) (sX 0x600 0 0 0 grp))).map (fun t => ((t.elem e0).dreg 2, ((t.group 0).nextLand.map XList.va))) =
    some (1, some 0x600) := by decide +kernel
theorem test_dwait : reg (exec (.dwait fE) (sX 0x400 0 0 1 { grp with rnext := 2, rounds := [(1, true, 5)] })) 2 = some (0x8000_0005, false) := by decide +kernel
theorem test_dqry_selector : cause (exec (.dqry fE) (sX 0x400 9 0 1 grp)) = some 0x037 := by decide +kernel
theorem witness_drecv : xhdrOk 0xD6 1 landHead = true ∧ zoneOk landEnt = true ∧ ([landEnt].map XEnt.rank).Nodup ∧ xhdrOk 0xD6 1 (sendHead 0 0) = false ∧
    slotOf (sX 0x400 0 0 0 { grp with g := 8 }) 0 7 = none := by decide +kernel

/-- R225: two members, two and three quanta each way. -/
theorem witness_calendar : ∀ a, (([[0, 2], [3, 0]] : List (List Nat)).getD a []).getD a 0 = 0 := by
  intro a
  match a with
  | 0 => rfl
  | 1 => rfl
  | n + 2 => rfl
theorem test_calendar : calendarOf 2 128 [[0, 2], [3, 0]] = [([(0, 1), (1, 0)], 2), ([(1, 0)], 1)] := by decide +kernel

def sList : XList := ⟨0x400, 0, [sendEnt], e0⟩
def lList : XList := ⟨0x600, 0, [landEnt], e0⟩
def gr0 : Grant := grantFor 1 1 0 0 [([(0, 1), (1, 0)], 1)]
def rnd : Round := ⟨1, 1, 1, [(1, 8)], [(1, 8)], true, [sList], 0, some lList, [], [], some gr0, 0, [], 0, 0, [], false, [], none, e0, 0, 1000, [], false⟩
def sR (r : Round) : State := sX 0 0 1 0 { grp with rnext := 2, round := some r }
theorem witness_round : ((sR rnd).group 0).round = some rnd ∧ ((sR rnd).graph ((sR rnd).inst rnd.el.inst).graph).fault = none ∧
    (∀ a ∈ (sR rnd).accs, a.req ≠ .exchange 0 sendJob) ∧ khas (sR rnd).journals (.exchange 0 sendJob) = false ∧ rnd.grant = some gr0 ∧
    rnd.binds.length = rnd.nlist ∧ rnd.tailDone = false ∧ streamLen rnd 0 - kget 0 rnd.sentTo 0 = 0 ∧ rnd.phase < gr0.nph ∧
    gr0.phase rnd.phase = ⟨1, some 1, some 1⟩ ∧ min 4096 (streamLen rnd 1 - 0) = 8 ∧
    okIs (readList (exchRq (sR rnd) 0 sendJob rnd) (cut (streamOf rnd 1) 0 8) (sR rnd)) (fun y => y.1.length == 8) = true ∧
    zoneFor lList 1 = some landEnt ∧ zoneFor lList 0 = none ∧
    okIs (writeVA (exchRq (sR rnd) 0 (landJob 1 0) rnd) 0x900 [9, 9] (sR rnd)) (fun _ => true) = true := by decide +kernel
/-- The phases are past: a tail quantum of rank 1, and none left. -/
def grTail : Grant := grantFor 1 1 0 0 (List.replicate 129 ([(0, 1)], 1))
theorem witness_tail : 1 ∈ grTail.tail ∧ grTail.nph = 128 ∧ (∀ d ∈ gr0.tail, False) ∧ gr0.nph ≤ 1 := by decide +kernel
/-- A stream to the member itself, and its zone. -/
def rndL : Round := { rnd with row := [(0, 8)], posted := [(0, 8)], binds := [⟨0x400, 0, [sendEnt.set 0 0], e0⟩], land := some ⟨0x600, 0, [landEnt.set 0 0], e0⟩ }
theorem witness_local : streamLen rndL grp.rank - kget 0 rndL.sentTo grp.rank = 8 ∧ zoneFor ⟨0x600, 0, [landEnt.set 0 0], e0⟩ 0 = some (landEnt.set 0 0) ∧
    okIs (readList (exchRq (sR rndL) 0 localJob rndL) (cut (streamOf rndL 0) 0 8) (sR rndL)) (fun y =>
      okIs (writeVA (exchRq (sR rndL) 0 localJob rndL) 0x900 y.1 y.2) (fun _ => true)) = true := by decide +kernel
theorem test_local : (next? (exec (.exchangePhase 0) (sR rndL))).map (fun t => (memGet t.mem (hbmKey 0x904), t.sent)) = some (0x33, []) := by decide +kernel
theorem test_phase : (next? (exec (.exchangePhase 0) (sR rnd))).map (fun t => t.sent) = some [.data 0 1 ⟨1, 0, [0x22, 0x22, 0x11, 0x11, 0x33, 0x33, 0, 0]⟩] := by
  decide +kernel
theorem test_land : (next? (exec (.exchangeDataLand 0 1 ⟨1, 4, [7]⟩) (sR rnd))).map (fun t => memGet t.mem (hbmKey 0x904)) = some 7 := by decide +kernel
theorem test_land_zone : cause (exec (.exchangeDataLand 0 1 ⟨1, 4, [7, 7, 7, 7, 7]⟩) (sR rnd)) = some 0x184 := by decide +kernel

/-- The arbiter's calendar; a grant to be taken; the round's end. -/
def rndA : Round := { rnd with grant := none }
def rndZ : Round := { rnd with phase := 1, quanta := 0, sentTo := [(1, 8)], tailDone := true, ends := [(1, 2)], landed := [(1, 2)] }
theorem witness_arbiter : grp.valid = true ∧ grp.arb = grp.rank ∧ rndA.rowSent = true ∧ grp.calendar = none ∧ khas [(1, [4, 0])] 1 = true ∧ grp.rank < grp.p ∧
    gr0.term = grp.term ∧ gr0.round = rndA.num ∧ rndA.grant = none := by decide
theorem test_arbiter : (next? (exec (.arbiterCalendar 0 [(1, [4, 0])]) (sR rndA))).map (fun t => t.sent.length) = some 2 := by decide +kernel
theorem witness_round_end : roundDone { grp with rnext := 2, round := some rndZ } rndZ = true ∧ allAcked rndZ 0 [(1, 8)] = true ∧ rndZ.left = none ∧
    okIs (closeLanding 0 rndZ (sR rndZ)) (fun _ => true) = true ∧ leftOf rndZ = 0 ∧
    okIs (closeBinds (exchRq (sR { rndZ with left := some 0 }) 0 endJob { rndZ with left := some 0 }) (bindsSent rndZ.sentTo rndZ.binds) (sR { rndZ with left := some 0 }))
      (fun _ => true) = true := by decide +kernel
theorem test_round_report : (next? (exec (.roundDoneReport 0 [(1, 8)]) (sR rndZ))).map (fun t => (t.sent, memGet t.mem (hbmKey 0x64C))) =
    some ([.report 0 1 0 1], 2) := by decide +kernel
theorem test_round_end : (next? (exec (.roundEndReceive 0 1 true) (sR { rndZ with left := some 0 }))).map (fun t => ((t.group 0).rounds, memGet t.mem (hbmKey 0x450))) =
    some ([(1, true, 0)], 8) := by decide +kernel

/-- What ends a round early, and liveness. -/
theorem witness_failures : (∀ y ys, ({ rnd with early := [⟨0, 1, ⟨1, 0, [7]⟩⟩], land := none } : Round).early = y :: ys → y.at_ + rnd.tmo * 1000000 ≤ 1000000000) ∧
    ({ rnd with binds := [] } : Round).binds.length < rnd.nlist ∧ rnd.grantAt + rnd.tmo * 1000000 ≤ 1000000000 ∧
    kget 0 grp.last 1 + 100000 ≤ 1000000000 ∧ (1 : Nat) ∉ grp.lapsed ∧ (1 : Nat) ∈ ({ grp with arb := 1, lapsed := [1] } : Group).lapsed := by
  refine ⟨?_, by decide, by decide, by decide, by decide, by decide⟩
  intro y ys h
  cases h
  decide
theorem test_send_timeout : cause (exec (.exchangeSendTimeout 0) { sR { rnd with binds := [] } with now := 1000000000 }) = some 0x185 := by decide +kernel
theorem test_claim : (next? (exec (.arbiterClaim 0) { sX 0 0 0 0 { grp with arb := 1, lapsed := [1] } with now := 1000000000 })).map (fun t =>
    ((t.group 0).term, (t.group 0).arb)) = some (2, 0) := by decide +kernel
theorem test_claim_older : (next? (exec (.claimAccept 0 1 1) (sX 0 0 0 0 grp))).map (fun t => (t.group 0).arb) = some 0 := by decide +kernel
/-! ## The host's instructions, queues and graphs -/

def fY : FmtY := ⟨2, 0, 3, 0, 0⟩
/-- A launch packet of graph 5 with an empty delta. -/
def launchW : List Word := [0x1000_0000, 5, 0, 0, 0, 0, 0, 0, 0, 0, 0, 0, 0, 0, 0, 0]
def sY (a : Word) : State := part (regs a 0 0) image (words 0x400 launchW [])
theorem witness_glaunch : ReadsY (sY 0x400) fY (srcA 0x400) [] (regs 0x400 0 0) ∧
    readWords (cmdRq (cmdState (sY 0x400) (srcA 0x400) (regs 0x400 0 0))) (ptrAt (sY 0x400) 0x400) 16
      (cmdState (sY 0x400) (srcA 0x400) (regs 0x400 0 0)) = .ok (launchW, cmdState (sY 0x400) (srcA 0x400) (regs 0x400 0 0)) ∧
    Pkt.type launchW = 1 ∧ packetBreak launchW = none ∧ (sY 0x400).pendLaunch.length < 64 ∧ ({ regs 0 0 0 with outst := [4] } : Elem).outstanding ≠ [] :=
  ⟨⟨by decide +kernel, by decide +kernel⟩, by decide +kernel, by decide +kernel, by decide +kernel, by decide +kernel, by decide +kernel⟩
theorem test_glaunch : reg (exec (.glaunch fY) (sY 0x400)) 2 = some (1, false) := by decide +kernel
theorem test_glaunch_type : cause (exec (.glaunch fY) (sY 0x800)) = some 0x03B := by decide +kernel
theorem test_gcond : (next? (exec (.gcond fY) (sY 0x400))).map (fun t => ((t.elem e0).dreg 2, kget 0 (t.graph 0).conds 3)) = some (0, 0x400) := by
  decide +kernel
def sHr (prod : Word) : State := { sY 0x400 with rings := [(3, { size := 2, prod := prod })] }
theorem witness_hrapp : ((sHr 4).ring 3).size ≠ 0 ∧ ((sHr 4).ring 3).ctx = ((sHr 4).inst 0).ctx ∧
    (((sHr 4).ring 3).prod - ((sHr 4).ring 3).cons).toNat = 2 ^ ((sHr 4).ring 3).size ∧
    (((sHr 3).ring 3).prod - ((sHr 3).ring 3).cons).toNat ≠ 2 ^ ((sHr 3).ring 3).size ∧ Memory.wf (sHr 3).mem := by decide +kernel
theorem test_hrapp : (next? (exec (.hrapp fY) (sHr 3))).map (fun t => (memGet t.mem (hostKey 97), memGet t.mem (hostKey 108), (t.ring 3).u)) =
    some (4, 3, 1) := by decide +kernel
theorem test_hrapp_absent : cause (exec (.hrapp fY) (sY 0x400)) = some 0x03C := by decide +kernel
theorem test_intr : (next? (exec (.intr fY) (sY 0x400))).map (fun t => ((t.mailbox 3).value, t.irqs)) = some (0x400, [8195]) := by decide +kernel
theorem test_intr_overrun : (next? (exec (.intr fY) { sY 0x400 with mail := [(3, ⟨1, true, 9⟩)] })).map (fun t => ((t.mailbox 3).ovr, t.irqs)) =
    some (2, []) := by decide +kernel

/-- A stage of one element that R55 accepts: slot 0 is a NOP, d0 holds 5. -/
def elemP : ElemImage := ⟨0, 0, [0x0000_0000_7833_4000], [.lit 5], 0, [], [], 0, [], false, none, [], none, none⟩
def imageP : StageImage := ⟨false, 1, [⟨0, false⟩], [elemP], [], [], [], [], [], 0⟩
def resP : ResidentReq := ⟨⟨[.stage imageP]⟩, 0x1000_0000, false, []⟩
def fwLeads : Fw := { on := true, leader := some 0, ready := true, bootst := 3 }

/-- Queue 2 with one packet, in a context whose tables map address 0 to HBM4 address 0. -/
def sQ (ws : List Word) (q : Queue) : State :=
  { part {} image (leMem 0x1000_0000 0x1001_0001 (leMem 0x1001_0000 0xD (words 0x800 ws []))) with
    ctxs := [(0, { made := true, root := 0x1000_0000 })], fw := fwLeads, queues := [(2, q)], resident := [((0, 5), resP)], fresh := 10 }
def q1 : Queue := { base := 0x800, size := 4, write := 1, err := 0xA00, state := 1 }
theorem leads_sQ (ws : List Word) (q : Queue) : Leads (sQ ws q) := ⟨rfl, show 0 < 0 + 5000000 by decide⟩
theorem witness_queue : serves (sQ launchW q1) = some (some 2) ∧ packetAt (sQ launchW q1) 2 = some launchW ∧ packetBreak launchW = none ∧
    (sQ launchW q1).resident.find? (fun p => p.1 == (0, Pkt.graph launchW)) = some ((0, 5), resP) ∧
    readDelta (sQ launchW q1) none 0 (Pkt.addr launchW 2) (nthW launchW 4).toNat = .got [] ∧ firstBadEntry resP.graph 0 [] = none := by decide +kernel
theorem witness_queue_graph : graphOk (applyDelta [] resP.graph) (some (deltaArgs [])) = true ∧
    readDelta (sQ launchW q1) none 0 0x4000_0000_0000 16 = .notYet 0x4000_0000_0000 (.fault 0x081) ∧
    readDelta (sQ launchW q1) none 0 0 16 = .got [] ∧ readDelta (sQ launchW q1) (some 0x908) 0 0x900 16 = .fatal ∧
    readDelta (sQ launchW q1) (some 0x900) 0 0x910 16 = .got [(0, 0)] ∧ readCap (sQ launchW q1) (some 0x908) 0 0x900 = (.fatal, 0) ∧
    readCap (sQ launchW q1) (some 0x900) 0 0x900 = (.got [], 0) ∧ Pkt.isLive launchW = false ∧ firstBadEntry resP.graph 0 [(0, 0)] = some 0 := by decide +kernel
theorem test_launch : (next? (exec (.graphLaunchPacket 2) (sQ launchW q1))).map (fun t => ((t.graph 10).stage, (t.inst 11).status, (t.queue 2).open_)) =
    some (some 11, .ready, [0]) := by decide +kernel
theorem test_launch_reserved : (next? (exec (.graphLaunchPacket 2) (sQ (launchW.set 0 0x1000_0001) q1))).map (fun t =>
    ((t.queue 2).state, memGet t.mem (hbmKey 0xA00), t.irqs)) = some (2, 0xC1, [4098]) := by decide +kernel
/-- A copy, a barrier-and that waits for nothing, and a signal of 7 at 0x900. -/
def copyW : List Word := [0x2000_0000, 0x200, 0, 0x300, 0, 4, 1, 0, 0, 0, 0, 0, 0, 0, 0, 0]
def barW : List Word := [0x3000_0000, 0, 0, 0, 0, 0, 0, 0, 0, 0, 0, 0, 0, 0, 0, 0]
def sgW : List Word := [0x4000_0000, 0x900, 0, 7, 0, 0, 0, 0, 0, 0, 0, 0, 0, 0, 0, 0]
theorem witness_other_packets : packetAt (sQ copyW q1) 2 = some copyW ∧ packetBreak copyW = none ∧ packetBreak barW = none ∧ packetBreak sgW = none ∧
    waitsFor (sQ barW q1) 2 3 (fun _ y => barrierReady (sQ barW q1) 2 y) = none ∧
    waitsFor (sQ barW { q1 with waits := [(0, barW)], open_ := [0] }) 2 3 (fun _ y => barrierReady (sQ barW q1) 2 y) = some (0, barW) ∧
    waitsFor (sQ sgW q1) 2 4 (fun k _ => signalReady (sQ sgW q1) 2 k) = none ∧
    waitsFor (sQ sgW { q1 with waits := [(0, sgW)], open_ := [0] }) 2 4
      (fun k _ => signalReady (sQ sgW { q1 with waits := [(0, sgW)], open_ := [0] }) 2 k) = some (0, sgW) := by decide +kernel
theorem test_copy_packet : (next? (exec (.copyPacket 2) (sQ copyW q1))).map (fun t => ((kget [] t.copies (chanKey 8 2)).map (fun j => Tpl.dst j.tpl),
    (t.queue 2).read)) = some ([0x300], 1) := by decide +kernel
theorem test_barrier_packet : (next? (exec (.barrierAndPacket 2) (sQ barW { q1 with waits := [(0, barW)], open_ := [0] }))).map (fun t =>
    (t.queue 2).open_) = some [] := by decide +kernel
theorem test_signal_packet : (next? (exec (.signalPacket 2) (sQ sgW { q1 with waits := [(0, sgW)], open_ := [0] }))).map (fun t =>
    memGet t.mem (hbmKey 0x900)) = some 7 := by decide +kernel

/-- A graph at a condition item whose word is 7, at one whose word is 0 and is its last, and at a stage that has ended. -/
def gCond : GraphInst := { emptyGraph with graph := ⟨[.cond 1 2, .stage imageP, .stage imageP, .cond 0 1]⟩, conds := [(1, 7)] }
def sGraph (g : GraphInst) (i : StStatus) (x : Elem) : State :=
  { part x imageP [] with graphs := [(0, g)], insts := [(0, { img := imageP, status := i })], fresh := 10, fw := fwLeads }
theorem witness_item_end : khas (sGraph gCond .running {}).graphs 0 = true ∧ itemEnded (sGraph gCond .running {}) 0 = true ∧
    itemEnded (sGraph { gCond with item := 3 } .running {}) 0 = true ∧ itemEnded (sGraph { gCond with item := 1, stage := some 0 } .running {}) 0 = false ∧
    itemEnded (sGraph { gCond with item := 1, stage := some 0 } .ended {}) 0 = true := by decide +kernel
theorem test_item_cond : (next? (exec (.graphItemEnd 0) (sGraph gCond .running {}))).map (fun t => ((t.graph 0).item, (t.graph 0).done)) =
    some (2, false) := by decide +kernel
theorem test_item_last : (next? (exec (.graphItemEnd 0) (sGraph { gCond with item := 3 } .running {}))).map (fun t => (t.graph 0).done) = some true := by
  decide +kernel
theorem witness_make_resident : graphOk resP.graph none = true ∧ peersFormed State.reset 0 resP.graph = true ∧
    placedOk (loaded State.reset 0 resP) 0 resP.graph = true ∧
    graphOk ⟨[.stage { imageP with elems := [{ elemP with slots := [0] }] }]⟩ none = true ∧
    graphOk ⟨[.stage { imageP with elems := [{ elemP with slots := [0x0001_0000_7833_4000] }] }]⟩ none = false := by decide +kernel
theorem test_make_resident : (next? (exec (.makeResident 0 5 resP) State.reset)).map (fun t => (t.ctx 0).root) = some 0x1000_0000 := by decide +kernel

/-- A live delta of one entry: slot 3 of the element. -/
def entry3 : BitVec 64 × BitVec 64 := (0x0000_0C00_3940_0000, 0x0000_0000_7833_4000)
def gLive : GraphInst := { emptyGraph with graph := ⟨[.stage imageP]⟩, stage := some 0, live := [⟨.queue 2 1, [entry3], 0, false, 4, false, []⟩] }
theorem witness_live : entryOk ⟨[.stage imageP]⟩ entry3 = true ∧ Delta.item entry3.1 = 0 ∧ Delta.index entry3.1 = 3 ∧
    touched gLive [entry3] ≠ [] ∧ liveReady (sGraph gLive .running { halted := true }) gLive 0 ⟨.queue 2 1, [entry3], 0, false, 4, false, []⟩ = true ∧
    liveReady (sGraph gLive .running { halted := true, outst := [3] }) gLive 0 ⟨.queue 2 1, [entry3], 0, false, 4, false, []⟩ = false := by decide +kernel
theorem test_live : (next? (exec (.liveDeltaApply 0) (sGraph gLive .running { halted := true }))).map (fun t =>
    ((t.elem e0).slotWord 3, (t.graph 0).live.length)) = some (0x0000_0000_7833_4000, 0) := by decide +kernel

def sPend : State := { sQ launchW { q1 with state := 0 } with pendLaunch := [⟨1, 3, 0, 2, 0, launchW⟩] }
theorem witness_pending : serves sPend = some none ∧ (∀ y ∈ sPend.pendLaunch, 3 ≤ y.cls) ∧
    ({ sPend with resident := [] } : State).resident.find? (fun y => y.1 == (0, Pkt.graph launchW)) = none := by decide +kernel
theorem test_pending : (next? (exec .pendingLaunchTake sPend)).map (fun t => (t.pendLaunch.length, (t.graph 10).origin)) =
    some (0, .glaunch 2 0 1) := by decide +kernel

def sInt : State := { State.reset with rings := [(3, { u := 2, coal := 0x0002_0005, vec := 9, timer := some 0 })], now := 500 }
theorem witness_ring_interrupt : 0 < (sInt.ring 3).u ∧ bits (sInt.ring 3).coal 31 16 ≤ (sInt.ring 3).u ∧ (sInt.ring 3).timer = some 0 ∧
    0 + bits (sInt.ring 3).coal 13 0 * 100 ≤ sInt.now ∧ ({ u := 1, coal := 0x0002_0005 } : Ring).u < bits (0x0002_0005 : Word) 31 16 := by decide +kernel
theorem test_ring_count : (next? (exec (.ringCountInterrupt 3) sInt)).map State.irqs = some [9] := by decide +kernel
theorem test_ring_timer : (next? (exec (.ringTimerExpiry 3) { sInt with now := 499 })).isNone = true := by decide +kernel

/-! ## Instants, faults, scheduling -/

def imageC : StageImage := { imageP with clocked := true, signals := [⟨none, [(0, 0)]⟩], regions := [⟨0, false⟩, ⟨1, false⟩]
                                         elems := [elemP, { elemP with reg := 1 }] }
def act0 : SigAct := ⟨0, 0, 0, some (7, false), []⟩
def sC (x : Elem) (acts : List SigAct) (marked : Bool) : State :=
  { part x imageC [] with insts := [(0, { img := imageC, status := .running, acts := acts, marked := marked })], fw := fwLeads, fresh := 10 }
theorem witness_instant : Up (sC {} [act0] false) 0 ∧ quiescent (sC { halted := true } [] false) 0 = true ∧ allHalted (sC { halted := true } [] false) 0 = true ∧
    quiescent (sC { ended := true } [] false) 0 = true ∧ allHalted (sC { ended := true } [] false) 0 = false ∧
    quiescent (sC {} [] false) 0 = true ∧ blockedElems (sC {} [] false) 0 = [e0] :=
  ⟨⟨by decide +kernel, by decide +kernel⟩, by decide +kernel, by decide +kernel, by decide +kernel, by decide +kernel, by decide +kernel, by decide +kernel⟩
theorem witness_acts : (imageC.elemImage 1 0).isSome = true ∧ act0.reg ≠ 1 ∧ (1, 0) ∉ act0.seen ∧
    consEnding (abandonCons (sC { halted := true } [] false) 0) 0 = false := by decide +kernel
theorem test_visible : (next? (exec (.signalVisible 0 (1, 0) 0) (sC {} [act0] false))).map (fun t => (t.inst 0).acts.map SigAct.seen) = some [[(1, 0)]] := by
  decide +kernel
/-- An act that an element of another region has not seen keeps the stage from quiescence. -/
theorem test_unseen : quiescent (sC { ended := true } [act0] false) 0 = false := by decide +kernel
theorem test_instant_end : (next? (exec (.instantEnd 0) (sC { ended := true, dlPend := [(1, 8)] } [] false))).map (fun t =>
    ((t.inst 0).icnt, (t.elem e0).dlLat, (t.elem e0).ended)) = some (1, [(1, 8)], false) := by decide +kernel
theorem test_quiescence_fault : cause (exec (.quiescenceFault 0) (sC {} [] false)) = some 0x142 := by decide +kernel
theorem test_stage_end : (next? (exec (.stageEnd 0) (part { halted := true } imageP []))).map (fun t => (t.inst 0).status) = some .ended := by
  decide +kernel
theorem witness_stage_end : allHalted (part { halted := true } imageP []) 0 = true ∧ pumpsDone (part { halted := true } imageP []) 0 = true ∧
    bindingsDone (part { halted := true } imageP []) 0 = true ∧ workOpen (part { halted := true } imageP []) (fun e => e.inst == 0) = false ∧
    allHalted (part {} imageP []) 0 = false := by decide +kernel

def fRec : FaultRec := ⟨5, 0, 0, true, 0x010, 0x0001_0002, 3, 4, 0, 0x1_0000_0040, 6, 7, 8, 9, []⟩
def gFault : GraphInst := { emptyGraph with origin := .queue 2 1, stage := some 0, fault := some fRec }
theorem witness_fault_end : (sGraph gFault .running {}).graph 0 = gFault ∧ acceptedOpen (sGraph gFault .running {}) 0 = false ∧
    consEnding (abandonCons (sGraph gFault .running {}) 0) 0 = false ∧
    acceptedOpen (sGraph gFault .running { firing := some ⟨none, ⟨0, [], 0, 0, 0, 0, [], false, none, []⟩, false, [], 0⟩ }) 0 = true := by decide +kernel
theorem test_fault_end : (next? (exec (.fatalFaultGraphEnd 0) (sGraph gFault .running {}))).map (fun t =>
    ((kget [] t.errRecs 8).take 3, kget 0 t.errCnt 2, t.elems.length)) = some ([0x0800_0010, 1, 0x0001_0002], 1, 0) := by decide +kernel

def sS (i : StageInst) : State :=
  { State.reset with insts := [(0, i)], graphs := [(0, emptyGraph)], fw := fwLeads, sched := { due := true }, fresh := 10 }
def iReady : StageInst := { img := imageP }
def spot0 : KMap Nat × Int × Int := ([(0, 0)], 0, 0)
def iPick : StageInst := { iReady with pick := some spot0 }
theorem witness_scheduler : Leads (sS iReady) ∧ candidates (sS iReady) = [0] ∧ (sS iReady).sched.due = true ∧
    startSpot (sS iReady) (withPicks (sS iReady)) 0 = some spot0 :=
  ⟨⟨rfl, by decide⟩, by decide +kernel, rfl, by decide +kernel⟩
theorem test_decision : (next? (exec .schedulerDecision (sS iReady))).map (fun t => (t.inst 0).pick) = some (some spot0) := by decide +kernel
/-- With region 0 fenced, the smallest shift that stays on the grid: one column to the right. -/
theorem test_decision_fenced : (next? (exec .schedulerDecision { sS iReady with fenced := [0] })).map (fun t => (t.inst 0).pick) =
    some (some ([(0, 0)], 0, 1)) := by decide +kernel
theorem witness_placement : (iPick.status = .ready ∧ iPick.pick = some spot0) ∧
    stillFits (sS iPick) 0 spot0 = true ∧ stillFits { sS iPick with fenced := [0] } 0 spot0 = false ∧
    cisternMapped (occupy (writePtes (sS iPick) []) 0 spot0) 0 = true ∧
    okIs (allocDecls 0 imageP.tiles (occupy (writePtes (sS iPick) []) 0 spot0)) (fun p => p.1 == []) = true ∧
    (imageP.elems.map (fun e => (⟨0, e.reg, e.el⟩ : ERef))).Nodup :=
  ⟨by decide +kernel, by decide +kernel, by decide +kernel, by decide +kernel, by decide +kernel, by decide +kernel⟩
/-- The region that was picked has been fenced since: the stage waits for the next decision. -/
theorem test_placement_lost : (next? (exec (.stagePlacement 0 []) { sS iPick with fenced := [0] })).map (fun t =>
    ((t.inst 0).status, (t.inst 0).pick.isNone, t.sched.due)) = some (.ready, true, true) := by decide +kernel
theorem test_placement : (next? (exec (.stagePlacement 0 []) (sS iPick))).map (fun t => ((t.inst 0).status, (t.elem e0).dreg 0, t.clock 0)) =
    some (.running, 5, 900) := by decide +kernel
theorem test_resume : (next? (exec (.stageResume 0 []) { sS { iPick with status := .saved, icnt := 6 } with elems := [(e0, regs 9 0 0)] })).map
    (fun t => ((t.elem e0).dreg 0, (t.elem e0).slotWord 0, (t.inst 0).icnt)) = some (9, 0x0000_0000_7833_4000, 6) := by decide +kernel
theorem witness_resume : ({ iPick with status := .saved } : StageInst).status = .saved ∧ stillFits (sS { iPick with status := .saved }) 0 spot0 = true ∧
    cisternMapped (occupy (writePtes (sS { iPick with status := .saved }) []) 0 spot0) 0 = true := by decide +kernel

def sRun : State := { sS { iReady with status := .running } with now := 2000000 }
theorem witness_quantum : Leads sRun ∧ (sRun.inst 0).status = .running ∧ kget 2000 sRun.sched.quant (sRun.inst 0).cls = 2000 ∧
    (sRun.inst 0).qstart + 2000 * 1000 ≤ sRun.now ∧ iReady.readyAt + ({} : Sched).age * 1000 ≤ 10000000 ∧ iReady.aged = false :=
  ⟨⟨rfl, by decide⟩, by decide +kernel⟩
theorem test_quantum : (next? (exec (.quantumExpiry 0) sRun)).map (fun t => ((t.inst 0).qstart, (t.inst 0).marked)) = some (2000000, false) := by
  decide +kernel
theorem test_quantum_early : (next? (exec (.quantumExpiry 0) { sRun with now := 1999999 })).isNone = true := by decide +kernel
theorem test_aged : (next? (exec (.stageAged 0) { sS iReady with now := 10000000 })).map (fun t => (t.inst 0).aged) = some true := by decide +kernel

theorem witness_save : Leads (sC { ended := true } [] true) ∧ Up (sC { ended := true } [] true) 0 ∧ instantDue (sC { ended := true } [] true) 0 = true ∧
    allHalted (sC { ended := true } [] true) 0 = false ∧ imageC.elemImage 0 0 = some elemP ∧
    (drained (part {} routeImage []) 0 (fun _ => true) = false) :=
  ⟨⟨rfl, by decide⟩, ⟨by decide +kernel, by decide +kernel⟩, by decide +kernel, by decide +kernel, by decide +kernel, by decide +kernel⟩
theorem test_save : (next? (exec (.preemptionSave 0) (sC { ended := true, d := [(1, 6)] } [] true))).map (fun t => ((t.inst 0).status, (t.elem e0).dreg 1)) =
    some (.saved, 6) := by decide +kernel
/-- A window of 1 microsecond: FULL for 250 ns of it, OUT for 250 ns of it. -/
def sWin (o f clk : Nat) : State := { State.reset with win := [(7, ⟨0, o, f⟩)], clk := [(7, clk)], now := 1000 }
theorem test_clock_up : (next? (exec (.clockWindow 7 ⟨0, 1⟩) (sWin 249 250 900))).map (fun t => t.clock 7) = some 925 := by decide +kernel
theorem test_clock_floor : (next? (exec (.clockWindow 7 ⟨0, 1⟩) (sWin 250 0 460))).map (fun t => t.clock 7) = some 450 := by decide +kernel
theorem witness_window : (kget {} (sWin 0 0 0).win 7).start + 1000 ≤ (sWin 0 0 0).now ∧ ¬ ((kget {} (sWin 0 0 0).win 7).start + 1000 ≤ 999) := by decide
theorem witness_clock : stageOn (sC {} [] false) 0 = some 0 ∧ stageOn sRun 0 = some 0 ∧ stageOn sRun 1 = none := by decide +kernel

/-! ## Firmware -/

def bootImg (svn cores : Nat) : BootImage :=
  ⟨[0x5CEF_0B07, BitVec.ofNat 32 (svn * 2 ^ 16 + cores), 64, 1, 2, 3, 4, 5, 6, 7, 8, 9, 10, 11, 12, 64], [1, 2, 3, 4, 5, 6, 7, 8, 9, 10, 11, 12],
    64, [64], [448], 0⟩
def bootIn (images : List BootImage) : BootInput := ⟨images, some 4, (List.replicate 192 2).set 3 11, 5⟩
def booting (b : BootInput) (stage : Nat) : State := { State.reset with fw := { on := true, boot := some b, bootst := stage, svn := 2 } }
theorem witness_boot : imageReason 2 0 true (bootImg 2 0) = none ∧ imageReason 2 0 false (bootImg 3 1) = none ∧
    imageReason 2 0 false (bootImg 1 1) = some 4 ∧ imageReason 2 9 true (bootImg 2 0) = some 5 ∧
    imageReason 2 0 true { bootImg 2 0 with bytes := 128 } = some 1 ∧ imageReason 2 0 true { bootImg 2 0 with rsaAt := [0] } = some 2 ∧
    imageReason 2 0 true { bootImg 2 0 with slhAt := [64] } = some 3 := by decide +kernel
theorem witness_boot_stage : State.reset.fw.on = false ∧ (bootIn []).margins.length = 192 ∧ (booting (bootIn []) 1).fw.on = true ∧
    (booting (bootIn []) 1).fw.boot = some (bootIn []) ∧ (sS iReady).fw.on = true ∧ (sS iReady).fw.boot = none := by decide +kernel
theorem test_boot : (next? (exec (.powerOn (bootIn [bootImg 2 0, bootImg 2 9])) (booting (bootIn [bootImg 2 0, bootImg 2 9]) 2))).map (fun t =>
    (t.fw.bootst, t.fw.svn, t.fenced, t.fw.cores, kget 0 t.fw.margins 4)) = some (3, 4, [3], 9, 10) := by decide +kernel
theorem test_boot_refused : (next? (exec (.powerOn (bootIn [bootImg 2 0, bootImg 1 9])) (booting (bootIn [bootImg 2 0, bootImg 1 9]) 1))).map (fun t =>
    (t.fw.bootst, t.fw.reason)) = some (15, 4) := by decide +kernel
def sFw (f : Fw) (now : Nat) : State := { State.reset with fw := f, now := now }
def fwHeld : Fw := { on := true, leader := some 1, bootst := 3, renewed := 0, cores := 0x3FF }
theorem witness_lease : (fwHeld.leader.isSome = true ∧ 4999999 < fwHeld.renewed + 5000000) ∧ ¬ (5500000 < fwHeld.renewed + 5000000) ∧
    fwHeld.renewed + 5000000 + 500000 * 1 ≤ 5500000 ∧ fwHeld.renewed + 1000000 ≤ 1000000 ∧ fwHeld.ready = false := by decide
theorem test_claim_held : (next? (exec (.leaseClaim 3) (sFw fwHeld 4999999))).map (fun t => t.fw.leader) = some (some 1) := by decide +kernel
theorem test_claim_lapsed : (next? (exec (.leaseClaim 3) (sFw fwHeld 6500000))).map (fun t => (t.fw.leader, t.fw.term)) = some (some 3, 1) := by
  decide +kernel
theorem test_claim_early : (next? (exec (.leaseClaim 3) (sFw fwHeld 6499999))).isNone = true := by decide +kernel
def rec0 (item : Nat) : MirrorRec := .graph (.queue 0 0) 0 item none
theorem test_mirror : cause (exec (.mirrorLoad 1) { sS iReady with fw := fwHeld, mirror := [(.graph 0, some (rec0 0), some (rec0 1))] }) = some 0x1E2 := by
  decide +kernel
theorem test_mirror_agrees : cause (exec (.mirrorLoad 1) { sS iReady with fw := fwHeld, mirror := [(.graph 0, some (rec0 0), some (rec0 0))] }) = none := by decide +kernel
theorem test_power_loss : (next? (exec .powerLoss { sFw fwHeld 9 with mem := words 0x40 [7] [], lifePend := { boots := 1 } })).map (fun t =>
    (t.mem.length, t.life.boots, t.fw.on)) = some (0, 0, false) := by decide +kernel
theorem test_orderly_reset : (next? (exec .orderlyReset { sFw fwHeld 1000000 with lifePend := { boots := 1 } })).map (fun t => t.life.boots) = some 1 := by
  decide +kernel

def place0 : EccPlace := .element 7 2 5
def sEcc : State := { sFw fwHeld 9 with fw := { fwHeld with errors := [(1, ⟨place0, 0, true⟩), (2, ⟨place0, 0, true⟩)] } }
theorem witness_errors : placeOn place0 7 5 = true ∧ bankBad sEcc place0 = true ∧ 7 ∉ sEcc.fenced ∧ khas sEcc.fw.measuredAt 7 = false ∧ stageOn sEcc 7 = none ∧
    (5 : Nat) ∉ sEcc.downLinks ∧ sEcc.fw.lrbase % 4096 = 0 ∧ Memory.wf sEcc.mem := by decide +kernel
theorem test_hard_fault : (next? (exec (.hardFaultFence 7 5) sEcc)).map State.fenced = some [7] := by decide +kernel
theorem test_margin : (next? (exec (.marginMeasurement 7 10) sEcc)).map (fun t => (kget 0 t.fw.margins 7, t.fenced)) = some (50, []) := by decide +kernel
theorem test_link_down : (next? (exec (.linkRetrain 5 false) { sEcc with fw := { fwHeld with linkFails := [(5, 2)] } })).map State.downLinks = some [5] := by
  decide +kernel
def sLr : State := { sEcc with life := { boots := 3 }, fw := { fwHeld with lrbusy := true } }
theorem test_lrcmd_go : (next? (exec .lrcmdGo sEcc)).map (fun t => (t.fw.lrbusy, t.fw.lrdone)) = some (true, false) := by decide +kernel
theorem test_lrcmd : (next? (exec .lrcmdGo sLr)).map (fun t => (memGet t.mem (hostKey 2), memGet t.mem (hostKey 8), t.fw.lrdone)) =
    some (0x52, 3, true) := by decide +kernel
theorem test_fwlead : readReg { sFw fwHeld 4 with fw := { fwHeld with term := 6 } } 0x90000 = some 0x601 ∧ readReg (sFw fwHeld 5000000) 0x90000 = some 0xFFFF_FFFF ∧
    readReg { State.reset with fenced := [65, 3] } 0x60048 = some 2 := by decide +kernel
theorem test_register_write : (next? (exec (.registerWrite 0x10080 0xFF00_0000_0000_1000) State.reset)).map (fun t => (t.queue 2).base) = some 0x1000 := by
  decide +kernel
theorem test_no_register : (match exec (.registerWrite 0x0FFF8 0) State.reset with
    | .fault (.noRegister a) => a
    | _ => 0) = 0x0FFF8 := by decide +kernel

/-! ## Single clauses: operands, floats, memory -/

/-- Results that are rounded: 1/3, 1/sqrt 2, 2^(1/2), log2 3, to nearest; 1 over the least subnormal overflows. -/
theorem test_rcp_third : runA2 .rcp 0x4040_0000 0 0 = some (0x3EAA_AAAB, false) := by decide +kernel
theorem test_rcp_overflow : runA2 .rcp 0x0000_0001 0 0 = some (0x7F80_0000, true) := by decide +kernel
theorem test_rsq_two : runA2 .rsq 0x4000_0000 0 0 = some (0x3F35_04F3, false) := by decide +kernel
theorem test_exp2_half : runA2 .exp2 0x3F00_0000 0 0 = some (0x3FB5_04F3, false) := by decide +kernel
theorem test_log2_three : runA2 .log2 0x4040_0000 0 0 = some (0x3FCA_E00D, false) := by decide +kernel
/-- Operands of those clauses, at their ends. -/
theorem witness_float_bounds : (fv 0x0000_0001).isFin = true ∧ (fv 0x0000_0001).isZero = false ∧ 0 < (fv 0x0000_0001).q ∧
    (fv 0xC316_0000).isFin = true ∧ (fv 0xC316_0000).q = -150 ∧ -150 < (fv 0x42FF_FFFF).q ∧ (fv 0x42FF_FFFF).q < 128 := by
  have h1 : fv 0x0000_0001 = .fin false 1 (-149) := by decide +kernel
  have h2 : fv 0xC316_0000 = .fin true 9830400 (-16) := by decide +kernel
  have h3 : fv 0x42FF_FFFF = .fin false 16777215 (-17) := by decide +kernel
  rw [h1, h2, h3]
  norm_num [FVal.q, FVal.isFin, FVal.isZero, zpow_neg]

/-- stx at offset 0x41 + 1, a halfword's second byte off; in the window. -/
def xStx (a d : Word) : Elem := regs a 7 d
theorem witness_stx : ReadsM (part (xStx 0x41 1) image []) ⟨2, 0, 1, 0, 1, 0, 0, 0⟩ ⟨0x41, 7, 1, false, false, false⟩ [] (xStx 0x41 1) ∧
    ((0x41 : Word) + 1 * 2).toNat % accessBytes ⟨2, 0, 1, 0, 1, 0, 0, 0⟩ ≠ 0 ∧
    ReadsM (part (xStx 0xFFFE_0000 0x4000) image []) ⟨2, 0, 1, 0, 2, 0, 0, 0⟩ ⟨0xFFFE_0000, 7, 0x4000, false, false, false⟩ [] (xStx 0xFFFE_0000 0x4000) ∧
    windowed ⟨2, 0, 1, 0, 2, 0, 0, 0⟩ (0xFFFE_0000 + 0x4000 * 4) :=
  ⟨⟨by decide +kernel, by decide +kernel⟩, by decide, ⟨by decide +kernel, by decide +kernel⟩, ⟨by decide, by decide⟩⟩
theorem test_stx_misaligned : cause (exec (.stx ⟨2, 0, 1, 0, 1, 0, 0, 0⟩) (part (xStx 0x41 1) image [])) = some 0x0A0 := by decide +kernel
theorem test_stx_window : cause (exec (.stx ⟨2, 0, 1, 0, 2, 0, 0, 0⟩) (part (xStx 0xFFFE_0000 0x4000) image [])) = some 0x0A8 := by decide +kernel

/-- Requests that an engine does not perform: a line gone bad, a peer that has lapsed, a load that another region's store has met. -/
def serveOne (r : EngReq) : State := { sServe with engines := [(0, { reqs := [r], last := 65 })] }
def sBadLine : State := { serveOne rServe with badLines := [(1, (3, 4))] }
def rPeer : EngReq := { rServe with key := peerKey 0 1 0x40 }
def sLapsed : State := { serveOne rPeer with groups := [(0, { valid := true, g := 7, p := 2, lapsed := [1] })] }
def rLate : EngReq := { rServe with op := .load false }
/-- A load that waits for its engine, on a granule that a store of region 3 has met. -/
def sLate : State := { serveOne rLate with
  stamps := [(1, ⟨0, 1, 3, 0⟩)], elems := [(e0, { xAt with asked := some 3, rets := [⟨3, 0, none⟩], dp := .work ⟨0, 0, .ld fLd, srcA 0x40, [], 0⟩ })] }
theorem witness_serve_fails : badIn sBadLine rServe.key rServe.w = some (3, 4 + 256 * 81) ∧ badIn sLapsed rPeer.key rPeer.w = none ∧
    peerLost sLapsed rPeer = true ∧ badIn sLate rLate.key rLate.w = none ∧ peerLost sLate rLate = false ∧
    (match servedCheck sLate rLate with | .error (.trap c a _ _) => (c, a) | _ => (0, 0)) = (0x090, 0x40) ∧
    (sLate.graph (sLate.inst 0).graph).fault = none ∧ (sLate.elem e0).logq = [] := by decide +kernel
theorem test_serve_fails : cause (exec (.atomicEngineServe 0) sBadLine) = some 0x0E0 ∧ cause (exec (.atomicEngineServe 0) sLapsed) = some 0x0B1 ∧
    cause (exec (.atomicEngineServe 0) sLate) = some 0x090 ∧
    (next? (exec (.atomicEngineServe 0) sLate)).map (fun t => ((t.elem e0).trapped, (t.elem e0).asked, (t.elem e0).rets)) = some (true, none, []) := by
  decide +kernel

/-- mdone with a destination that has no place: the copy to the other leaves, and the order stays behind the full one. -/
def doneTwo : StageImage := { image with elems := [{ elem0 with done := some ⟨.region, [(0, 0, 2), (0, 0, 3)]⟩ }] }
def sDone2 : State := part { mdq := [md0], mdcnt := 1, inp := [(3, List.replicate 16 ⟨0, 0, false, none, none⟩)] } doneTwo []
theorem witness_mdone_rooms : (wiresOf sDone2 e0).map (fun w => destRoom sDone2 0 w.2.1 w.2.2.1 w.2.2.2) = [true, false] ∧
    (∃ o ∈ ({ md0 with ops := [5] } : MdWait).ops, o ∈ ({ outst := [5] } : Elem).outstanding) := by
  refine ⟨by decide +kernel, 5, by decide, by decide⟩
theorem test_mdone_rooms : (next? (exec (.mdoneToken e0) sDone2)).map (fun t => (((t.inst 0).flight.map (fun p => (p.1, p.2.length))),
    (t.elem e0).mdq.map MdWait.sent)) = some ([(0, 1)], [[0]]) := by decide +kernel

/-- A packet's copy, a node's, and an element's whose template is none; a ring that is full, and one that another element's request holds. -/
def jobPkt : CopyJob := ⟨.packet 2 0 0 true, 0, tplWords, 0, false, false, 0, []⟩
def jobNode : CopyJob := ⟨.node 0, 0, [0x100, 0], 0, false, false, 0, []⟩
def copying (j : CopyJob) : State := { sCp with copies := [(chanKey 0 3, [j])] }
theorem witness_copy_kinds : jobPkt.started = false ∧ tplOk [] = false ∧
    okIs (readWords (copyRq (copying jobNode) 0 3 jobNode) 0x100 16 (copying jobNode)) (fun y => tplOk y.1) = true ∧
    ringTurn sCp2 (copyRq sCp2 0 3 jobCp2) e0 0x4000_0000 = true := by decide +kernel
theorem test_copy_template : cause (exec (.copyStart 0 3) { sCp1 with mem := [] }) = some 0x0A7 := by decide +kernel
/-- HEAD 2, TAIL 0 in a ring of two records. -/
def sCpFull : State := { sCp2 with mem := words 0x200 [0x1234_5678] (cwords 0 [0x9E00_0001, 2, 0, 0] []) }
theorem test_copy_full : (next? (exec (.copyEnd 0 3) sCpFull)).map (fun t => (kget [] t.copies (chanKey 0 3)).map CopyJob.written) = some [true] := by
  decide +kernel

/-! ## Single clauses: tiles, pumps, rings -/

/-- tld.wf on an empty tile: it waits, the tile in use. -/
def fWf : FmtM := ⟨12, 0, 1, 0, 2, 2, 0, 0⟩
theorem witness_tile_wait : bit fWf.aux 1 = true ∧ tile5.f = false ∧ xT.waitUse = none ∧ 3 < specBytes tile5.spec / 4 ∧
    (tiled xT tile5 []).inTurn (.table 0) (tableKey 0) = true ∧ ((tiled xT tile5 []).act (.table 0) (tableKey 9)).inTurn (.table 0) (tableKey 0) = false ∧
    tagOpen sTab ⟨0, 0, 2⟩ (0, 5) = true := by decide +kernel
theorem test_tile_wait : (next? (exec (.tld fWf) (tiled xT tile5 []))).map (fun t => ((t.tile (0, 5)).uses, (t.elem e0).waitUse, t.tileReqs.length)) =
    some (1, some (0, 5), 0) := by decide +kernel
/-- A read of a tile line that has gone bad. -/
def rTile : TileReq := tReq 4 0 false
def sTabRead : State := { sTab with tileReqs := [(0, [rTile])] }
def sTabBad : State := { sTabRead with badLines := [(tileKey 0 5 36 / 64, (0, 1))] }
theorem witness_tile_serve_fails : badIn sTabBad (tileKey 0 5 36) 4 = some (0, 1 + 256) ∧ badIn sTabRead (tileKey 0 5 36) 4 = none ∧
    (sTabBad.graph (sTabBad.inst 0).graph).fault = none := by decide +kernel
theorem test_tile_serve_fails : cause (exec (.tileTableServe 0) sTabBad) = some 0x0E0 := by decide +kernel

/-- pcfg of a descriptor that breaks R176; pgo behind a later action of the cycle; the address of the next access. -/
theorem test_pcfg_descriptor : cause (exec (.pcfg ⟨12, 2, 13, 0, 0, 0, 0, 0⟩) (sPump [] {} tile5)) = some 0x0A3 := by decide +kernel
theorem witness_pgo_turn : pumpHandles fillWords = [hT] ∧ (entryOf (sPump fillWords {} tile5) 0 hT).1 = 0 ∧
    live (sPump fillWords {} { tile5 with gen := 4 }) 0 hT = false ∧
    pumpOk (sPump fillWords {} { tile5 with spec := 0x80 }) 0 fillWords = false := by decide +kernel
theorem test_pgo_stale : cause (exec (.pgo fPgo) (sPump fillWords {} { tile5 with gen := 4, spec := 0x80 })) = some 0x020 := by decide +kernel
theorem test_pqry_address : reg (exec (.pqry ⟨2, 13, 13, 0, 0, 6, 0, 0⟩) (sPump pumpWords { c := [1, 1, 0, 0] } tile5)) 2 = some (0x1104, false) := by
  decide +kernel
/-- A run of the tile's segment: its 1,024 elements; a row that begins in the window. -/
theorem witness_pump_segment : okIs (decodeSeg (pumpRq sCoded e0 0 0) codeTable 8 0x2000 2048 33 [] sCoded) (fun y => y.1.length == 1024) = true ∧
    4 * 8 ≤ specBytes tileI8.spec / 32 ∧ Memory.wf sCoded.mem := by decide +kernel
theorem test_pump_window : cause (exec (.pumpAccess e0 0) (sPump (fillWords.set 1 0xFFFF_0000) running tile5)) = some 0x0A8 := by decide +kernel

/-- A ring that another request is in the middle of, and one a later element has been served at. -/
theorem witness_ring_turn : ringTurn (taken (sRing 1 0 0) xRing) (ringRq0 (sRing 1 0 0)) e0 0x4000_0000 = true ∧
    ringTurn ((taken (sRing 1 0 0) xRing).act (.ring 0 0x4000_0000) (actKey ⟨0, 1, 0⟩)) (ringRq0 (sRing 1 0 0)) e0 0x4000_0000 = false := by
  decide +kernel
theorem test_rget_rel : reg (exec (.rget ⟨2, 0, 1, 0, 2, 1, 0, 0⟩) { sRing 1 1 0 with mem := cwords 0 [0x9E00_0001, 1, 1, 0] (cwords 64 [77, 0x8000_0003, 4, 0] []) }) 2 =
    some (0x8000_0003, false) := by decide +kernel

/-! ## Single clauses: slots, the network, translation -/

/-- A wait whose destination is full stays; the marker's exception bit is that of the markers taken. -/
theorem witness_resume_full : dstFull { outs := [(0, List.replicate 2 ⟨0, 0, false, none, none⟩)] } 8 = true := by decide +kernel
theorem test_marker_exception : (next? (exec (.markerReset e0) { sReset with
    elems := [(e0, { inp := [(0, [endInv]), (1, [{ endInv with exc := true }])] })] })).map (fun t => ((t.elem e0).out 0).map Token.exc) =
    some [true] := by decide +kernel

/-- A boundary node behind an operation at work, and behind the store the release names: that store is performed, the other not. -/
def relBy (ds : List Dep) : Token := ⟨6, 0, false, none, some ⟨0, 1, [], ds⟩⟩
def pend (n a : Nat) : Pending := ⟨n, 0, 0, 0, 0, .region, [(hbmKey a, 7)]⟩
def sBound (ds : List Dep) (x : Elem) : State :=
  { (part x routeImage []).modInst 0 (fun i => { i with flight := [(1, [relBy ds])] }) with stores := [pend 3 0x40, pend 4 0x80] }
theorem witness_boundary : depOpen (sBound [.request e0 5] { outst := [5] }) (.request e0 5) = true ∧ (Dep.request e0 5).store? = none ∧
    (Dep.store 3).store? = some 3 ∧ ((sBound [.store 3] {}).stores.map Pending.id).Nodup := by decide +kernel
theorem test_boundary : (next? (exec (.boundaryNodeDeliver 1 1) (sBound [.store 3] {}))).isNone = true ∧
    (next? (exec (.boundaryNodeDeliver 0 1) (sBound [.store 3] {}))).map (fun t => t.stores.map (fun p => (p.id, p.scope.rank))) =
      some [(3, Scope.die.rank), (4, Scope.region.rank)] ∧ (next? (exec (.boundaryNodeDeliver 0 1) (sBound [.request e0 5] { outst := [5] }))).isNone = true := by
  decide +kernel

/-- A count of 255 at the threshold 256, and one of 254; a notification that is due, with room and without. -/
def leafN (n : Nat) : TlbE := { leafAC with count := n }
def sCnt (n : Nat) : State := { sCount with tlb := [(0, [leafN n])] }
theorem witness_count : bit leafAC.leaf 61 = true ∧ (elemRq (sCnt 255) e0 0 0).counts = true ∧
    ((kget [] (sCnt 255).tlb 0).find? (fun z => z.host.isNone && z.hits 0 0x4000)) = some (leafN 255) ∧ (1 ≤ (sCnt 255).xreg.thr ∧ (sCnt 255).xreg.thr ≤ 255 + 1) ∧
    254 + 1 < (sCnt 254).xreg.thr := by decide +kernel
theorem test_count : (countAccess (sCnt 255) (elemRq (sCnt 255) e0 0 0) (leafN 255) 0x4000).xreg.due = [(0, notifyRecord 0 (leafN 255))] ∧
    (kget [] (countAccess (sCnt 254) (elemRq (sCnt 254) e0 0 0) (leafN 254) 0x4000).tlb 0).map TlbE.count = [255] := by decide +kernel
def sDue (cons prod : Nat) : State := { sCount with xreg := { due := [(0, [5, 6, 7, 8])], nsize := 1, ncons := cons, nprod := prod } }
theorem test_notify : (next? (exec (.accessCountNotify 0 0) (sDue 0 1))).map (fun t => (t.xreg.nprod, t.xreg.lost, memGet t.mem (hostKey 16))) = some (2, 0, 5) ∧
    (next? (exec (.accessCountNotify 0 0) (sDue 0 2))).map (fun t => (t.xreg.nprod, t.xreg.lost, t.xreg.due.length)) = some (2, 1, 0) := by decide +kernel
/-- A completion record's write closes its packet. -/
theorem test_front_closes : (next? (exec (.translationWalk (.front 4)) { sFront with
    fronts := [(4, ⟨0, 0, [(0x40, [1, 2])], some 7, some (2, 5)⟩)], queues := [(2, { open_ := [5, 6] })] })).map (fun t => (t.queue 2).open_) = some [6] := by
  decide +kernel

/-! ## Single clauses: pools, reductions, contractions, tile operations -/

/-- The pool of one block, none left; one whose rank is not C's. -/
theorem witness_alloc_stops : (match allocBlock (seqRq sWalk0 ⟨0, 0⟩ 1 0) 0 0xA00 ⟨hdrC 0 2⟩ .f32 0 [0] [1]
      { sWalk0 with mem := words 0xA00 (poolW.set 3 1) sWalk0.mem } with | .ok (.stop c, _) => c | _ => 0) = 0x104 ∧
    (match allocBlock (seqRq sWalk0 ⟨0, 0⟩ 1 0) 0 0xA00 ⟨hdrA.set 3 2⟩ .f32 0 [0] [1] sWalk0 with | .error (.fatal c _ _ _) => c | _ => 0) = 0x10B := by decide +kernel

/-- A group of a bitmap: a kept position enters, the omitted ones do not; with none kept, and over zeros, it gives its accumulator, +0 for
one of -0, a NaN made canonical. -/
def oneAt (p v : Nat) : Opnd := fun k => if k = p then some v else none
theorem test_dots_group : dotreduce .f32 .f32 0x3F80_0000 (fun _ => some 0x4000_0000) (oneAt 3 0x4040_0000) 32 = (0x40E0_0000, false) ∧
    dotreduce .f32 .f32 0x8000_0000 (fun _ => some 0x4000_0000) (fun _ => none) 32 = (0, false) ∧
    dotreduce .f32 .f32 0x8000_0000 (fun _ => some 0x4000_0000) (fun _ => some 0) 32 = (0, false) ∧
    dotreduce .f32 .f32 0xFFC0_0001 (fun _ => some 0x4000_0000) (fun _ => none) 32 = (0x7FC0_0000, true) := by decide +kernel
theorem witness_sparse : (∀ i c, i < 32 → oneAt 3 0x4040_0000 i = none → (fun _ => some 0x4000_0000 : Opnd) i = some c → (f32.decode c).isFin = true) ∧
    EFmt.f32.float = some f32 := ⟨by intro i c _ _ h; cases h; decide +kernel, by decide⟩

/-- A contraction that is to end while a product's writes go on; a group that another region runs. -/
theorem witness_con_ending : liveCon ((sCon { con 0 1 1 0 [⟨0, 0, 0, 0, 1⟩] with ending := some 3, writing := [0] } 1 2).region ⟨0, 0⟩) 1 =
    some { con 0 1 1 0 [⟨0, 0, 0, 0, 1⟩] with ending := some 3, writing := [0] } ∧ kget 0 [(0, 1)] 0 = 1 ∧
    okIs (readHdr (prodRq sProd ⟨0, 0⟩ 1 0 0 1) (descVA sProd 0 conP 1) sProd) (fun y => y.2 == sProd) = true := by decide +kernel

/-- topb behind a later action of the cycle at its tile's table. -/
theorem witness_top_turn : (taken (sTop xTop true) xTop).inTurn (.table 0) (tableKey 0) = true ∧
    ((taken (sTop xTop true) xTop).act (.table 0) (tableKey 9)).inTurn (.table 0) (tableKey 0) = false := by decide +kernel

/-! ## Single clauses: the wellhead, collectives, exchange -/

/-- A bag's row that another region's store has met: the command ends with 0x091. -/
def pcmdC : WellCmd := { pcmd with desc := pHead.set 3 0x4000_0700 ++ gSeg }
def sPRace : State := { sW pcmdC 2 with mem := words 0x500 [0, 2] (memG 2), stamps := [(cisternKey 0x700 / 64, ⟨0, 1, 3, 0⟩)] }
theorem witness_bags_fail : okIs (writeBags (wellRq sPRace ⟨0, 0⟩ 1 1 0 false) 0 pcmdC [0, 2] 1 sPRace) (fun y => (y.1.1.map Prod.fst) == some 0x091) = true := by
  decide +kernel
theorem test_bags_fail : cause (exec (.wellheadCommandComplete ⟨0, 0⟩ 1) sPRace) = some 0x091 := by decide +kernel

/-- A send with no partner is wrong for every number of members. -/
theorem witness_graph_refused : cgraphFitsSome graphObj [copyOp] = true ∧ cgraphFitsSome graphObj [[0x1000_0000, 0, 16, 4, 0, 0xFFFF_FFFF, 1, 0]] = false := by
  decide +kernel

/-- A landing list given before its round: FILL is read as the round opens. -/
def grpL : Group := { grp with nextLand := some ⟨0x600, 0, [landEnt], e0⟩ }
theorem witness_start_landing : okIs (readWords { cmdRq (s0X 0x400 0 0 0 grpL) with charge := some 255 } (0x600 + 64 + 12) 1 (s0X 0x400 0 0 0 grpL))
      (fun y => decide (y = ([0], s0X 0x400 0 0 0 grpL))) = true ∧
    startLanding (curJob (sX 0x400 0 0 0 grpL) ⟨0x400, 0, 0, false, false, false⟩) 0 (s0X 0x400 0 0 0 grp) = .ok (none, s0X 0x400 0 0 0 grp) := by decide +kernel
theorem test_start_landing : (next? (exec (.dpost fE) { sX 0x400 0 0 0 grpL with mem := words 0x64C [4] (memX 0 0) })).map (fun t =>
    ((t.group 0).round.bind Round.land).map (fun l => l.ents.map XEnt.fill)) = some (some [4]) := by decide +kernel
/-- A changeover drops what the cut quantum had read, and its access. -/
theorem test_changeover : (next? (exec (.arbiterClaim 0) { sX 0 0 1 0 { grp with arb := 1, lapsed := [1], rnext := 2, round := some { rnd with ends := [(1, 2)] } } with
    now := 1000000000, journals := [(.exchange 0 sendJob, [])] })).map (fun t => (t.journals.length, (t.group 0).round.map Round.ends)) = some (0, some []) := by
  decide +kernel

/-! ## Single clauses: queues, graphs, faults, scheduling, firmware -/

/-- A barrier-and on a page that is not present, and on a table entry that is not valid; a copy packet with no source. -/
def barAt (hi : Word) : List Word := [0x3000_0000, 0x100, hi, 0, 0, 0, 0, 0, 0, 0, 0, 0, 0, 0, 0, 0]
def sBar (w : List Word) : State := sQ w { q1 with waits := [(0, w)], open_ := [0] }
/-- The same with entry 1 of the table at level 2 set to a word with V and reserved bits. -/
def sBarBad : State := { sBar (barAt 0) with mem := leMem 0x1001_0000 3 (sBar (barAt 0)).mem }
theorem witness_barrier : barrierReady (sBar (barAt 0x4000)) 2 (barAt 0x4000) = false ∧
    barrierStop (sBar (barAt 0x4000)) 2 (barAt 0x4000) = some (0x4000_0000_0100, .wait (.fault 0x081)) ∧
    barrierStop sBarBad 2 (barAt 0) = some (0x100, .fail 0x080 0xFFFF_FFFF 2) ∧ accPending (sBar (barAt 0x4000)) (.packet 2 0) = false ∧
    packetBreak (copyW.set 1 0) = none ∧ Pkt.addr (copyW.set 1 0) 1 = 0 ∧ Pkt.addr copyW 1 ≠ 0 ∧ Pkt.addr copyW 3 ≠ 0 := by decide +kernel
theorem test_barrier_waits : (next? (exec (.barrierAndPacket 2) (sBar (barAt 0x4000)))).map (fun t => ((t.queue 2).open_, t.accs.map Acc.req)) =
    some ([0], [.packet 2 0]) := by decide +kernel
theorem test_barrier_fails : (next? (exec (.barrierAndPacket 2) sBarBad)).map (fun t => (t.queue 2).open_) = some [] := by decide +kernel
theorem test_copy_nothing : (next? (exec (.copyPacket 2) (sQ (copyW.set 1 0) q1))).map (fun t => ((t.queue 2).read, t.copies.length)) = some (1, 0) := by
  decide +kernel
/-- A signal of a context whose earlier write waits: its value and its interrupt wait behind it. -/
def sSignal : State := { sQ (sgW.set 0 0x4000_0001) { q1 with waits := [(0, sgW.set 0 0x4000_0001)], open_ := [0] } with
  fronts := [(4, ⟨noGraph, 0, [(0x40, [1])], none, none⟩)] }
theorem test_signal_behind : (next? (exec (.signalPacket 2) sSignal)).map (fun t => ((t.queue 2).open_, t.irqs, memGet t.mem (hbmKey 0x900))) =
    some ([0], [], 0) := by decide +kernel
/-- A delta in which a read has failed refuses the launch; a failure elsewhere does not. -/
def deltaW : List Word := (launchW.set 2 0x900).set 4 16
theorem witness_delta_failed : packetBreak deltaW = none ∧ readDelta (sQ deltaW { q1 with failed := some 0x904 }) (some 0x904) 0 0x900 16 = .fatal := by
  decide +kernel
theorem test_delta_failed : (next? (exec (.graphLaunchPacket 2) (sQ deltaW { q1 with failed := some 0x904 }))).map (fun t => (t.queue 2).state) = some 2 ∧
    (next? (exec (.graphLaunchPacket 2) (sQ launchW { q1 with failed := some 0x904 }))).map (fun t => (t.queue 2).state) = some 1 := by decide +kernel
theorem witness_pending_failed : (∀ a ∈ sPend.accs, a.req ≠ .queue (pendQueue 1)) ∧
    readDelta sPend (some 0x904) 0 0x900 16 = .fatal ∧ pendQueue 1 = 65 := by decide +kernel

/-- Two live deltas of one region: after the first the region stays held for the second; a token goes where its channel has room. -/
def gLive2 : GraphInst := { gLive with live := [⟨.queue 2 1, [entry3], 0, false, 4, false, []⟩, ⟨.queue 2 2, [entry3], 0, false, 5, false, []⟩] }
theorem witness_live_two : (∀ y ∈ gLive2.live.drop 1, y.applied = false ∧ y.toks = []) ∧ (sGraph gLive2 .running { halted := true }).inst 0 = { img := imageP, status := .running } ∧
    destRoom (sGraph gLive2 .running {}) 0 0 0 1 = true ∧
    destRoom (sGraph gLive2 .running { inp := [(1, List.replicate 16 ⟨0, 0, false, none, none⟩)] }) 0 0 0 1 = false := by decide +kernel
theorem test_live_two : (next? (exec (.liveDeltaApply 0) (sGraph gLive2 .running { halted := true }))).map (fun t => ((t.inst 0).held, (t.graph 0).live.length)) =
    some ([0], 1) := by decide +kernel

/-- A channel whose head waits for its full ring, with another copy of the graph behind it. -/
def jobB : CopyJob := { jobCp2 with written := true, id := 2 }
def sBlocked : State := { sCpFull with
  copies := [(chanKey 0 3, [{ jobCp2 with written := true }, jobB])], graphs := [(0, { emptyGraph with stage := some 0, fault := some fRec })] }
theorem witness_blocked : acceptedOpen sBlocked 0 = false ∧ blockedChannel sBlocked 0 = some (0, 3) ∧
    blockedChannel (sGraph gFault .running {}) 0 = none := by decide +kernel
theorem test_blocked : (next? (exec (.fatalFaultGraphEnd 0) sBlocked)).map (fun t => (kget [] t.copies (chanKey 0 3)).map CopyJob.id) = some [2] := by
  decide +kernel
/-- A second fault of a graph is counted by its cause as the first was. -/
theorem test_fault_counted : kget 0 (raiseFault (sGraph gFault .running {}) 0 { fRec with cause := 0x081 }).lifePend.fault 0x081 = 1 := by decide +kernel

theorem witness_remap : mappedFor (occupy (remap (sS iPick) 0 []) 0 spot0) 0 = true ∧
    okIs (allocDecls 0 imageP.tiles (occupy (remap (sS iPick) 0 []) 0 spot0)) (fun p => p.1 == []) = true ∧
    mappedFor (occupy (remap (sS { iPick with status := .saved }) 0 []) 0 spot0) 0 = true := by decide +kernel
theorem test_thermal_recovery : (next? (exec (.thermalLimitChange 9) { sS iReady with fw := { fwLeads with bootst := 15 } })).isNone = true ∧
    (next? (exec (.thermalLimitChange 9) (sS iReady))).map (fun t => t.sched.thermal) = some 9 := by decide +kernel

/-- A region is not placed while its measurement is due; measured, it is. -/
def month : Nat := 30 * 24 * 3600 * 1000000000
def sLate30 (at_ : Nat) : State := { sS iReady with fw := { fwLeads with measuredAt := [(0, at_)] }, now := month }
theorem witness_overdue : spotOk (sLate30 1) (sLate30 1) 0 spot0 = true ∧ spotOk (sLate30 0) (sLate30 0) 0 spot0 = false ∧
    spotReg spot0 0 = some 0 ∧ kget 0 (sLate30 0).fw.measuredAt 0 + month ≤ (sLate30 0).now := by decide +kernel
theorem test_overdue : (next? (exec (.marginMeasurement 0 3) (sLate30 0))).map (fun t => kget 0 t.fw.margins 0) = some 15 ∧
    (next? (exec (.marginMeasurement 0 3) (sLate30 1))).isNone = true := by decide +kernel
theorem test_scrub : (next? (exec (.eccScrub [⟨place0, 3, false⟩]) { sEcc with lifePend := {} })).map (fun t => kget 0 t.lifePend.ecc place0) = some 3 ∧
    (next? (exec (.eccScrub [⟨place0, 3, false⟩]) { sEcc with fw := { fwHeld with bootst := 15 } })).isNone = true := by decide +kernel

/-- The mirror's items: a queue's copies that differ end that queue's graphs; a pending launch whose copies differ is dropped. -/
theorem witness_mirror : 0 ∈ itemGraphs (sGraph gFault .running {}) (.queue 2) ∧ itemGraphs (sGraph gFault .running {}) (.stage 0) = [0] ∧
    itemGraphs (sGraph gFault .running {}) (.queue 3) = [] ∧ itemGraphs (sR rnd) (.group 0) = [0] := by decide +kernel
theorem test_mirror_queue : cause (exec (.mirrorLoad 1) { sGraph { gFault with fault := none } .running {} with
    fw := fwHeld, mirror := [(.queue 2, some (rec0 0), none)] }) = some 0x1E2 := by decide +kernel
theorem test_mirror_launch : (next? (exec (.mirrorLoad 1) { sPend with fw := fwHeld, mirror := [(.launch 1, some (rec0 0), none)] })).map (fun t =>
    t.pendLaunch.length) = some 0 := by decide +kernel
theorem test_boot_first : (next? (exec (.powerOn (bootIn [bootImg 2 0])) State.reset)).map (fun t => (t.fw.on, t.fw.bootst)) = some (true, 0) ∧
    (next? (exec (.powerOn (bootIn [bootImg 2 0])) (booting (bootIn [bootImg 2 0]) 0))).map (fun t => t.fw.bootst) = some 1 ∧
    (next? (exec (.powerOn (bootIn [bootImg 2 0, bootImg 2 9])) (booting (bootIn [bootImg 2 0, bootImg 2 9]) 1))).map (fun t => t.fw.bootst) = some 2 := by
  decide +kernel

/-! ## Single clauses: what happens before an access, and what its engine checks -/

/-- A halfword of the cistern page whose line is hot: the page carries stamps, and the slot waits for its engine. -/
def xCis : Elem := regs 0x4000_0040 2 0xA1B2_C3D4
def sHotC (x : Elem) : State := { part x image [] with engines := [(0, { hot := [cisternKey 0x40 / 64] })] }
def hotLoc (s : State) (x : Elem) : Option (Bool × Bool) :=
  match xlate (taken s x) (elemRq (taken s x) s.cur s.curSlot 0) 0x4000_0040 true with
  | .ok (l, _) => some (viaEngine s l, l.stamped)
  | .error _ => none
theorem witness_hot_stamped : hotLoc (sHotC xCis) xCis = some (true, true) ∧ goesTo (sHotC xCis) fLd 0x4000_0040 0x4000_0040 ∧
    hbQueued (sHotC xCis) xCis.hb (cisternKey 0x40) 2 true = false :=
  ⟨by decide +kernel, ⟨0, by decide +kernel, by decide⟩, by decide +kernel⟩
theorem test_ld_asked : (next? (exec (.ld fLd) (sHotC xCis))).map (fun t => ((t.elem e0).asked, (t.elem e0).dreg 0, (t.elem e0).rets.map Ret.val)) =
    some (some State.reset.fresh, 0x4000_0040, [none]) := by decide +kernel
/-- The same once it is served: the offset register advances, and the slot goes on. -/
def waitLd : Wait := ⟨0, 0, .ld fLd, srcA 0x4000_0040, [], 0⟩
theorem witness_asked : (3 : Nat) ∈ ({ xCis with asked := some 3, rets := [⟨3, 0, none⟩] } : Elem).outstanding ∧
    (3 : Nat) ∉ ({ xCis with asked := some 3, rets := [⟨3, 0, some 7⟩] } : Elem).outstanding ∧ bit fLd.aux 0 = true := by decide
theorem test_ld_served : (next? (exec (.waitingInstructionResume e0) (sHotC { xCis with asked := some 3, rets := [⟨3, 0, some 7⟩], dp := .work waitLd }))).map
    (fun t => ((t.elem e0).asked, (t.elem e0).dreg 0, (t.elem e0).dp)) = some (none, 0x4000_0042, .idle) := by decide +kernel
/-- A store that happens before, of an element elsewhere: the load reads its bytes. One that is queued at the line's engine: the load waits. -/
def sHb : State := { part { xLd with hb := [.store 3] } image memLd with stores := [⟨3, 0, 0, 1, 0, .element, [(hbmKey 0x40, 7), (hbmKey 0x41, 0)]⟩], fresh := 10 }
theorem witness_hb_store : (∃ p ∈ sHb.stores, Dep.store p.id ∈ (sHb.elem e0).hb ∧ p.bytes = keyed (hbmKey 0x40) [7, 0]) ∧ sHb.Good ∧
    hbQueued sHb [.store 3] (hbmKey 0x40) 2 false = false :=
  ⟨⟨⟨3, 0, 0, 1, 0, .element, [(hbmKey 0x40, 7), (hbmKey 0x41, 0)]⟩, by decide +kernel, by decide +kernel, by decide +kernel⟩,
    ⟨show Memory.wf sHb.mem by decide +kernel, by decide +kernel, by decide +kernel, by decide +kernel, by decide +kernel, rfl,
      channels_of (by decide +kernel)⟩, by decide +kernel⟩
theorem test_ld_hb : (next? (exec (.ld fLd) sHb)).map (fun t => (t.elem e0).rets.map Ret.val) = some [some 7] := by decide +kernel
def e1 : ERef := ⟨0, 0, 1⟩
def sHbQ (hb : List Dep) : State := { sServe with
  elems := [(e0, { xLd with hb := hb })], engines := [(0, { reqs := [{ rServe with req := .element e1, id := 6, key := hbmKey 0x40 }] })] }
theorem witness_hb_queued : hbQueued (sHbQ [.request e1 6]) [.request e1 6] (hbmKey 0x40) 2 false = true ∧
    hbQueued (sHbQ []) [] (hbmKey 0x40) 2 false = false := by decide +kernel
theorem test_ld_hb_waits : (next? (exec (.ld fLd) (sHbQ [.request e1 6]))).map (fun t => ((t.elem e0).rets, (t.elem e0).dp)) =
    some ([], .work ⟨0, 0, .ld fLd, ⟨0x40, 0, 0, false, false, false⟩, [], 0⟩) := by decide +kernel
/-- A store's request, asked as a load's is. -/
theorem test_st_asked : (next? (exec (.st fSt) (sHotC xCis))).map (fun t => ((t.elem e0).asked.isSome, (t.engine 0).reqs.map EngReq.op)) =
    some (true, [.store]) := by decide +kernel
/-- A copy whose issuer has acquired a request that is not performed waits for it. -/
theorem witness_copy_ready : requestOpen sCp1 jobCp.hb = false ∧
    requestOpen { sCp1 with elems := [(e1, { outst := [5] })] } [.request e1 5] = true := by decide +kernel
theorem test_copy_ready : (next? (exec (.copyStart 0 3) { sCp1 with
    copies := [(chanKey 0 3, [{ jobCp with hb := [.request e1 5] }])], elems := [(e0, xCp), (e1, { outst := [5] })] })).isNone = true := by decide +kernel
/-- A tile access of an engine waits behind a request at the table; a command waits for what happens before it. -/
theorem test_pump_behind : (next? (exec (.pumpAccess e0 0) { sPump fillWords running tile5 with tileReqs := [(0, [tReq 4 0 true])] })).isNone = true := by
  decide +kernel
theorem test_settled : (next? (exec (.glaunch fY) { part { regs 0x400 0 0 with hb := [.request e1 5] } image (words 0x400 launchW []) with
    elems := [(e0, { regs 0x400 0 0 with hb := [.request e1 5] }), (e1, { outst := [5] })] })).map (fun t => t.pendLaunch.length) = some 0 := by decide +kernel
/-- An element that has ended takes no markers in its instant. -/
theorem test_marker_ended : (next? (exec (.markerReset e0) { sReset with elems := [(e0, { sReset.elem e0 with ended := true })] })).isNone = true := by
  decide +kernel

/-! ## Single clauses: calls that await their issuer, members that lapse -/

/-- A call whose starts wait for a running pump of its issuer, and for nothing. -/
def callW (run : Bool) : State := { sColl 0 { grpC with calls := [{ call0 with sent := false, awaits := [.run e0 0 0] }] } with
  elems := [(e0, { pumps := [(0, { run := run })] })] }
theorem witness_call_awaits : depOpen (callW true) (.run e0 0 0) = true ∧ depOpen (callW false) (.run e0 0 0) = false ∧
    callAwaits (callW true) e0 = [.run e0 0 0, .call 0 4] ∧ (grp.calls = [] ∧ depOpen (callW true) (.call 0 4) = true) := by decide +kernel
theorem test_call_awaits : (next? (exec (.collectiveCallStart 0 4) (callW true))).isNone = true ∧
    (next? (exec (.collectiveCallStart 0 4) (callW false))).map (fun t => (t.sent, (t.group 0).calls.map Call.sent)) =
      some ([.start 0 1 ⟨4, 1, 1, 3, 0⟩], [true]) := by decide +kernel
/-- The call behind one that ends sends its starts. -/
theorem test_call_next : (next? (exec (.collectiveCallComplete 0 4) { sOp [0] with
    groups := [(0, { grpC with calls := [call1 [0], { call0 with num := 5, sent := false }] })] })).map (fun t => (t.sent, (t.group 0).calls.map Call.sent)) =
    some ([.start 0 1 ⟨4, 1, 1, 3, 0⟩], [true]) := by decide +kernel
theorem test_form_keeps : (next? (exec (.groupForm 0 0x8007_0200) (sGr 0 { grp with valid := false, roundAborts := [(1, 1, 0x181)] }))).map (fun t =>
    (t.group 0).roundAborts) = some [(1, 1, 0x181)] := by decide +kernel
/-- A member lapses while only others have posted; before this part claims; this part claims with it lapsed. -/
def sLv (g : Group) : State := { sX 0 0 1 0 g with now := 1000000000 }
theorem witness_lapses : (sLv grp).now = 1000000000 ∧ kget 0 grp.last 1 + 100000 ≤ 1000000000 ∧ grp.arb = grp.rank ∧ grp.round = none ∧
    ({ grp with arb := 1, p := 3, lapsed := [1], lapsedIn := [2] } : Group).lapsedIn = 2 :: [] := by decide +kernel
theorem test_lapse_posted : (next? (exec (.livenessLapse 0 1) { sLv grp with oracle := [1] })).map (fun t => ((t.group 0).roundAborts, t.sent)) =
    some ([(1, 1, 0x181)], [.roundAbort 0 1 1 0x181]) := by decide +kernel
theorem test_lapse_kept : (next? (exec (.livenessLapse 0 2) { sLv { grp with arb := 1, p := 3 } with oracle := [1] })).map (fun t => (t.group 0).lapsedIn) = some [2] ∧
    (next? (exec (.arbiterClaim 0) (sLv { grp with arb := 1, p := 3, lapsed := [1], lapsedIn := [2] }))).map (fun t => (t.group 0).roundAborts) =
      some [(1, 2, 0x181)] := by decide +kernel
theorem test_claim_aborts : cause (exec (.arbiterClaim 0) (sLv { grp with arb := 1, p := 3, lapsed := [1], lapsedIn := [2], rnext := 2, round := some rnd })) =
    some 0x181 := by decide +kernel
/-- An abort kept from before its round is raised once. -/
theorem test_abort_spent : (next? (exec (.dpost fE) (sX 0x400 0 0 0 { grp with roundAborts := [(1, 1, 0x181)] }))).map (fun t =>
    ((t.group 0).roundAborts, ((t.graph 0).fault.map FaultRec.cause))) = some ([], some 0x181) := by decide +kernel
/-- Bytes wait while a report closes the zones. -/
theorem witness_report_open : jobOpen { sR rnd with journals := [(.exchange 0 reportJob, [[1]])] } 0 reportJob = true ∧ jobOpen (sR rnd) 0 reportJob = false := by
  decide +kernel
theorem test_land_waits : (next? (exec (.exchangeDataLand 0 1 ⟨1, 4, [7]⟩) { sR rnd with journals := [(.exchange 0 reportJob, [[1]])] })).isNone = true := by
  decide +kernel

/-! ## Single clauses: the host's side -/

/-- A refused packet is counted by its cause; a walk keeps the count of the entry that stands; an item does not end with no leader. -/
theorem test_refused_counted : (next? (exec (.graphLaunchPacket 2) { sQ launchW q1 with resident := [] })).map (fun t => t.lifePend.fault.map Prod.snd) =
    some [1] := by decide +kernel
theorem test_item_leads : (next? (exec (.graphItemEnd 0) { sGraph gCond .running {} with fw := {} })).isNone = true := by decide +kernel
theorem test_walk_count : (kget [] (fillTlb (sCnt 200) 0 { leafAC with count := 0 }).tlb 0).map TlbE.count = [200] := by decide +kernel
/-- A leaf of 1 GiB is none in the cisterns, one of 2 MiB is, up to the last. -/
theorem test_cistern_leaf : pteOk 2 0x0400_0000_0000_000D = false ∧ pteOk 1 0x0400_0000_1FE0_000D = true ∧ pteOk 1 0x0400_0000_2000_000D = false := by
  decide +kernel
/-- The data region starts off a page of 16 KiB: what offset an object in CXL memory has, it does not start at one. -/
theorem test_offset_page : offsetsOk { image with dataBase := 0x40, objs := [⟨0x3FC0, .cxl, [0], [0], []⟩] } = false := by decide +kernel
/-- A write that cannot be made still raises its interrupt; a record's leaves the count to those that are written. -/
def sFrontBad : State := { sWalk 3 .walk with
  fronts := [(4, ⟨0, 0, [(0x40, [1, 2])], some 7, none⟩)], graphs := [(0, { emptyGraph with elog := 0x10, xcount := 3, xcap := 8 })] }
theorem test_front_fails : (let t := accFail sFrontBad ⟨.front 4, 0, 0, 0, 0x40, true, 0, 0, .walk⟩ 0x08A 0 0
    (t.irqs, t.fronts.length, (t.graph 0).xcount)) = ([7], 0, 3) ∧
    (let t := accFail { sFrontBad with fronts := [(4, ⟨0, 0, [(0xB0, [1]), (0x10, [4])], none, none⟩)] } ⟨.front 4, 0, 0, 0, 0xB0, true, 0, 0, .walk⟩ 0x08A 0 0
    (t.fronts.length, (t.graph 0).xcount)) = (0, 2) := by decide +kernel

/-! ## Single clauses: the order of a unit, the beat of a cycle, turns -/

/-- An unguarded marker stops an instruction of every format; with an empty source, or no place, it waits. -/
theorem test_marker_formats : ∀ i ∈ [Instr.addi ⟨2, 8, 0⟩, .talloc ⟨2, 8, 1, 0, 2, 0, 0, 0⟩, .ld ⟨12, 8, 13, 0, 2, 0, 0, 0⟩, .tst ⟨2, 8, 1, 0, 2, 0, 0, 0⟩,
    .bcstat ⟨2, 8, 1, 0⟩, .bar ⟨2, 8, 13, 0⟩, .grule ⟨3, 8, 1, 0⟩, .tagr ⟨2, 8, 0, 0, 0, 0, 0⟩, .csrw ⟨12, 8, 5, 0, 0⟩, .trap ⟨12, 8, 0, 0, 0⟩],
    cause (exec i (part xMark image [])) = some 0x012 := by decide +kernel
theorem test_wait_formats : ∀ i ∈ [Instr.addi ⟨2, 8, 0⟩, .ld ⟨12, 8, 13, 0, 2, 0, 0, 0⟩, .bcstat ⟨2, 8, 1, 0⟩, .csrw ⟨12, 8, 5, 0, 0⟩],
    next? (exec i (part {} image [])) = some (part { dp := .operand 0 0 } image []) := by decide +kernel

/-- One beat of an element in a cycle; the next in a later one. -/
theorem witness_beat : sSlots.beaten e0 = false ∧ (sSlots.beat e0).beaten e0 = true ∧ (part { dp := .beat 1 2 } image []).beaten e0 = false ∧
    sReset.beaten e0 = false ∧ (sHotC { xCis with asked := some 3, dp := .work waitLd }).beaten e0 = false := by decide +kernel
theorem test_beat : (next? (exec (.slotIssue e0) (sSlots.beat e0))).isNone = true ∧
    (next? (exec (.slotIssue e0) { sSlots.beat e0 with now := 1 })).isSome = true := by decide +kernel

/-- A word stored at 0x40, then a byte at 0x41; the byte's store comes first to the whole part: who reads it reads the word behind it. -/
def sUnit : State := { part {} image [] with
  stores := [⟨3, 0, 0, 1, 0, .element, keyed (hbmKey 0x40) [1, 2, 3, 4]⟩, ⟨4, 0, 0, 2, 0, .element, [(hbmKey 0x41, 9)]⟩], fresh := 10 }
theorem test_unit_part : (let t := widenOne sUnit 4 .part
    (List.range 5).map (fun i => readByte t.mem ⟨7, 3, some 0, 1⟩ t.stores (hbmKey 0x40 + i))) = [1, 9, 3, 4, 0] := by decide +kernel
theorem test_unit_system : (let t := widenOne sUnit 4 .system
    ((List.range 4).map (fun i => memGet t.mem (hbmKey 0x40 + i)), t.stores)) = ([1, 9, 3, 4], []) := by decide +kernel
theorem test_unit_before : (let s := { sUnit with elems := [(e0, { regs 0x40 0 0 with hb := [.store 4] })] }
    (next? (exec (.ld ⟨12, 0, 13, 0, 0, 0, 0, 0⟩) s)).map (fun t => (t.elem e0).rets.map Ret.val)) = some [some 1] := by decide +kernel
theorem witness_units : touches (hbmKey 0x41) 1 (hbmKey 0x40) = true ∧ touches (hbmKey 0x41) 1 (hbmKey 0x44) = false ∧
    latest sUnit (hbmKey 0x41) = 9 ∧ inUnits [(hbmKey 0x41, 9)] (hbmKey 0x40) = true ∧
    (∀ q ∈ sUnit.stores, q.id ∈ [3] → ∀ b ∈ [(hbmKey 0x44, (1 : Byte))], inUnits q.bytes b.1 = false) := by decide +kernel

/-- Work that begins has no tape; pstop and a run's end take their tables' turn; a firing's end waits for the requests there. -/
theorem witness_turns : (sPump fillWords running tile5).tape = none ∧ (sTop xTop true).tape = none ∧
    (sPump fillWords running tile5).inTurn (.table 0) (tableKey 0) = true ∧ pumpHandles fillWords = [hT] ∧
    ((sPump fillWords running tile5).act (.table 0) (tableKey 9)).inTurn (.table 0) (tableKey 0) = false ∧
    ((sPump fillWords running tile5).act (.table 0) (tableEngine 9)).inTurn (.table 0) (tableEngine 0) = false := by decide +kernel
theorem test_pstop_turn : (next? (exec (.pstop fP) ((sPump fillWords running tile5).act (.table 0) (tableKey 9)))).map
      (fun t => ((t.elem e0).pump 0).run) = some true ∧
    (next? (exec (.pstop fP) (sPump fillWords running tile5))).map (fun t => ((t.elem e0).pump 0).run) = some false := by decide +kernel
theorem test_firing_end_waits : (next? (exec (.tileOpFiringEnd e0) { sFired with tileReqs := [(0, [tReq 4 0 true])] })).isNone = true := by decide +kernel

/-- A race that a command meets is a fatal fault; a command that writes DST releases. -/
theorem test_command_race : cause (exec (.bdget fE) { sDir 0x4000_0600 0x06 0 2 with
    stamps := [(cisternKey 0x600 / 64, ⟨0, 1, 3, 0⟩)] }) = some 0x091 := by decide +kernel
theorem test_command_releases : (next? (exec (.bcwait fE) (sCon (con 0 0 3 1 []) 0 2))).map (fun t => kget 1 t.num 0) = some 2 := by decide +kernel

/-- Packets of a call that has left are of none; of one to come they stay, in a slot that DISSOLVE finds not valid too. -/
theorem witness_gone : grpC.valid = true ∧ (1 ≤ numDist grpC.next 3 ∧ numDist grpC.next 3 ≤ 0x7FFFFF) ∧ (∀ c ∈ grpC.calls, c.num ≠ 3) ∧
    0x7FFFFF < numDist grpC.next 6 := by decide +kernel
theorem test_packet_gone : (next? (exec (.collectiveStartPacket 0 1 ⟨3, 1, 1, 3, 0⟩) (sColl 0 grpC))).map (fun t => (t.group 0).starts) = some [] ∧
    (next? (exec (.collectiveStartPacket 0 1 ⟨6, 1, 1, 3, 0⟩) (sColl 0 grpC))).map (fun t => (t.group 0).starts.length) = some 1 := by decide +kernel
theorem test_dissolve_keeps : (next? (exec (.groupDissolve 0) (sGr 0 { grp with valid := false, starts := [(1, ⟨1, 1, 1, 3, 0⟩)] }))).map (fun t =>
    ((t.group 0).starts.length, (t.group 0).valid)) = some (1, false) := by decide +kernel

/-- A round's end is taken after a changeover where the round has been reported; none of its work is left. -/
theorem witness_told : (sR { rndZ with told := true }).journals = [] ∧ jobOpen (sR rndZ) 0 endJob = false ∧ rndZ.left = none ∧ rndZ.told = false ∧
    okIs (closeBinds (exchRq (sR { rndZ with told := true }) 0 endJob { rndZ with told := true }) (bindsSent rndZ.sentTo rndZ.binds)
      (sR { rndZ with told := true })) (fun _ => true) = true := by decide +kernel
theorem test_told : (next? (exec (.roundEndReceive 0 1 true) { sR { rndZ with told := true } with journals := [(.exchange 0 sendJob, [[1]])] })).map
      (fun t => ((t.group 0).rounds, t.journals.length)) = some ([(1, true, leftOf rndZ)], 0) ∧
    (next? (exec (.roundEndReceive 0 1 true) (sR rndZ))).isNone = true := by decide +kernel
theorem test_changeover_told : (next? (exec (.claimAccept 0 1 5) (sR { rndZ with left := some 0, told := true }))).map (fun t =>
    (t.group 0).round.map (fun r => (r.left, r.told))) = some (some (none, true)) := by decide +kernel
theorem test_abort_ended : next? (exec (.exchangeAbortPacket 0 1 1) (sX 0 0 1 0 { grp with rnext := 3, round := some { rnd with num := 2 } })) =
    some (sX 0 0 1 0 { grp with rnext := 3, round := some { rnd with num := 2 } }) := by decide +kernel
theorem test_calendar_new : (next? (exec (.dpost fE) (sX 0x400 0 0 0 { grp with calendar := some [] }))).map (fun t => (t.group 0).calendar.isNone) =
    some true := by decide +kernel

end Sys2Proof.Tests
end

section
/-! SUPPORT. How the host's side of the part changes its state: what the front end's writes, a node's start, a live delta's tokens and the
loader leave alone (spec/21 R319 to R325, spec/02 R24). -/

namespace Sys2Proof.Machine

/-! ## Maps, lists, and the answer of a step -/

section
variable {κ α : Type} [DecidableEq κ]

theorem find?_kset [BEq κ] [LawfulBEq κ] (m : AMap κ α) (i : κ) (v : α) : (kset m i v).find? (fun p => p.1 == i) = some (i, v) := by
  induction m with
  | nil => simp [kset]
  | cons p m ih =>
    by_cases h : p.1 = i
    · simp [kset, h]
    · simp [kset, h, ih]

theorem mem_kset (m : AMap κ α) (i : κ) (v : α) : (i, v) ∈ kset m i v := List.mem_of_find?_eq_some (find?_kset m i v)

@[simp] theorem khas_kdel (m : AMap κ α) (i : κ) : khas (kdel m i) i = false := by simp [khas, kdel]

theorem khas_kset_ne (m : AMap κ α) {i j : κ} (h : i ≠ j) (v : α) : khas (kset m i v) j = khas m j := by
  induction m with
  | nil => simp [kset, khas, h]
  | cons p m ih =>
    simp only [khas] at ih
    by_cases hp : p.1 = i
    · simp [kset, khas, hp]
    · simp [kset, khas, hp, ih]

end

/-- The first accepted element stands behind those that are not. -/
theorem replaceFirst_append {α : Type} {p : α → Bool} (f : α → α) {as : List α} {b : α} (bs : List α) (ha : ∀ a ∈ as, p a = false)
    (hb : p b = true) : replaceFirst p f (as ++ b :: bs) = as ++ f b :: bs := by
  induction as with
  | nil => simp [replaceFirst, hb]
  | cons a as ih =>
    obtain ⟨h, hs⟩ := List.forall_mem_cons.mp ha
    simp [replaceFirst, h, ih hs]

theorem removeFirst_append {α : Type} {p : α → Bool} {as : List α} {b : α} (bs : List α) (ha : ∀ a ∈ as, p a = false)
    (hb : p b = true) : removeFirst p (as ++ b :: bs) = as ++ bs := by
  induction as with
  | nil => simp [removeFirst, hb]
  | cons a as ih =>
    obtain ⟨h, hs⟩ := List.forall_mem_cons.mp ha
    simp [removeFirst, h, ih hs]

theorem leads_iff (s : State) : s.leads = true ↔ Leads s := by simp [State.leads, Leads]

theorem when_eq_next (c : Bool) (name : String) (t u : State) : when c name t = .next u ↔ c = true ∧ t = u := by
  cases c <;> simp [when, notNow]

@[simp] theorem notNow_ne_next (name : String) (t : State) : notNow name ≠ .next t := by simp [notNow]

/-! ## Memory alone (R277) -/

/-- t is s but for what its memory holds. -/
def MemoryOnly (s t : State) : Prop := ∃ mem stores unspec, t = { s with mem := mem, stores := stores, unspec := unspec }

namespace MemoryOnly

theorem refl (s : State) : MemoryOnly s s := ⟨_, _, _, rfl⟩

theorem trans {s t u : State} : MemoryOnly s t → MemoryOnly t u → MemoryOnly s u := by
  rintro ⟨_, _, _, rfl⟩ ⟨_, _, _, rfl⟩
  exact ⟨_, _, _, rfl⟩

theorem writeThrough (s : State) (bs : List (Nat × Byte)) : MemoryOnly s (writeThrough s bs) := ⟨_, _, _, rfl⟩

theorem stored (s : State) (ctx va n : Nat) : MemoryOnly s (stored s ctx va n) := by
  unfold Machine.stored
  split
  · exact refl s
  · exact ⟨_, _, _, rfl⟩

theorem widenOne (s : State) (id : Nat) (sc : Scope) : MemoryOnly s (widenOne s id sc) := by
  unfold Machine.widenOne
  split
  · exact refl s
  · split <;> exact ⟨_, _, _, rfl⟩

theorem widenWhere (s : State) (t : Pending → Bool) (sc : Scope) : MemoryOnly s (widenWhere s t sc) :=
  List.foldlRecOn _ _ (refl s) fun _ h _ _ => h.trans (widenOne ..)

theorem writePtes (ps : List (Nat × BitVec 64)) (s : State) : MemoryOnly s (writePtes s ps) := by
  induction ps generalizing s with
  | nil => exact refl s
  | cons p ps ih => exact (writeThrough s _).trans (ih _)

theorem directParts (ctx : Nat) (ps : List (Nat × List Byte)) (s : State) : MemoryOnly s (directParts ctx ps s).1 := by
  induction ps generalizing s with
  | nil => exact refl s
  | cons p ps ih =>
    unfold Machine.directParts
    split
    · exact ((writeThrough s _).trans (stored _ ..)).trans (ih _)
    · exact refl s

end MemoryOnly

/-! ## The front end's writes (R266, R267, R314) -/

/-- t is s but for memory, what the front end has still to write, its interrupts and the queues' open packets. -/
def FrontOnly (s t : State) : Prop :=
  ∃ mem stores unspec fresh fronts accs irqs queues, t = { s with
    mem := mem, stores := stores, unspec := unspec, fresh := fresh, fronts := fronts, accs := accs, irqs := irqs, queues := queues }

namespace FrontOnly

theorem refl (s : State) : FrontOnly s s := ⟨_, _, _, _, _, _, _, _, rfl⟩

theorem trans {s t u : State} : FrontOnly s t → FrontOnly t u → FrontOnly s u := by
  rintro ⟨_, _, _, _, _, _, _, _, rfl⟩ ⟨_, _, _, _, _, _, _, _, rfl⟩
  exact ⟨_, _, _, _, _, _, _, _, rfl⟩

theorem graphs {s t : State} : FrontOnly s t → t.graphs = s.graphs := by rintro ⟨_, _, _, _, _, _, _, _, rfl⟩; rfl
theorem insts {s t : State} : FrontOnly s t → t.insts = s.insts := by rintro ⟨_, _, _, _, _, _, _, _, rfl⟩; rfl
theorem elems {s t : State} : FrontOnly s t → t.elems = s.elems := by rintro ⟨_, _, _, _, _, _, _, _, rfl⟩; rfl
theorem pendLaunch {s t : State} : FrontOnly s t → t.pendLaunch = s.pendLaunch := by rintro ⟨_, _, _, _, _, _, _, _, rfl⟩; rfl

end FrontOnly

/-- What a write of the front end comes to: all of it is made, and its packet completes; or a part of it waits, and the packet with it. -/
theorem frontWriteFor_cases (pkt : Option (Nat × Nat)) (s : State) (graph ctx : Nat) (ws : List (Nat × List Byte)) (irq : Option Nat) :
    ∃ r, MemoryOnly s r ∧
      (frontWriteFor pkt s graph ctx ws irq = closePacket { r with irqs := r.irqs ++ irq.toList } pkt ∨
       ∃ ps accs, frontWriteFor pkt s graph ctx ws irq =
         { r with fresh := r.fresh + 1, fronts := kset r.fronts r.fresh ⟨graph, ctx, ps, irq, pkt⟩, accs := accs }) := by
  unfold frontWriteFor
  dsimp only
  generalize hr : (if s.fronts.any (fun p => p.2.ctx == ctx) then (s, ws.flatMap (fun w => cutAt w.2 (piecesOf w.1 w.2.length)))
    else directParts ctx (ws.flatMap (fun w => cutAt w.2 (piecesOf w.1 w.2.length))) s) = r
  have hm : MemoryOnly s r.1 := by
    rw [← hr]
    split
    · exact MemoryOnly.refl s
    · exact MemoryOnly.directParts ctx _ s
  refine ⟨r.1, hm, ?_⟩
  split
  · exact .inl rfl
  · exact .inr ⟨_, _, rfl⟩

/-- With nothing to write the packet completes at once. -/
theorem frontWriteFor_nil (pkt : Option (Nat × Nat)) (s : State) (graph ctx : Nat) (irq : Option Nat) :
    frontWriteFor pkt s graph ctx [] irq = closePacket { s with irqs := s.irqs ++ irq.toList } pkt := by
  simp [frontWriteFor, directParts]

theorem FrontOnly.closePacket (s : State) (pkt : Option (Nat × Nat)) : FrontOnly s (closePacket s pkt) := by
  cases pkt <;> exact ⟨_, _, _, _, _, _, _, _, rfl⟩

theorem FrontOnly.frontWriteFor (pkt : Option (Nat × Nat)) (s : State) (graph ctx : Nat) (ws : List (Nat × List Byte)) (irq : Option Nat) :
    FrontOnly s (frontWriteFor pkt s graph ctx ws irq) := by
  obtain ⟨_, ⟨_, _, _, rfl⟩, h | ⟨_, _, h⟩⟩ := frontWriteFor_cases pkt s graph ctx ws irq <;> rw [h]
  · exact .trans ⟨_, _, _, _, _, _, _, _, rfl⟩ (.closePacket _ pkt)
  · exact ⟨_, _, _, _, _, _, _, _, rfl⟩

theorem FrontOnly.completeOrigin (s : State) (o : Origin) (ctx comp : Nat) (int : Bool) (status xdrop : Nat) :
    FrontOnly s (completeOrigin s o ctx comp int status xdrop) := by
  cases o <;> exact .frontWriteFor ..

theorem FrontOnly.foldl {α : Type} {f : State → α → State} (hf : ∀ s a, FrontOnly s (f s a)) (as : List α) (s : State) :
    FrontOnly s (as.foldl f s) :=
  List.foldlRecOn as f (.refl s) fun _ h a _ => h.trans (hf _ a)

/-- A packet that completes is no longer open, unless its record waits for a translation (R314). -/
theorem completePacket_open (s : State) (q k comp : Nat) (int : Bool) (status xdrop : Nat) :
    let t := completePacket s q k comp int status xdrop
    (comp = 0 → (t.queue q).open_ = (s.queue q).open_.filter (· != k)) ∧
    ((t.queue q).open_ = (s.queue q).open_.filter (· != k) ∨
      ((t.queue q).open_ = (s.queue q).open_ ∧ ∃ y ∈ t.fronts, y.2.pkt = some (q, k))) := by
  refine ⟨fun h => ?_, ?_⟩
  · rw [completePacket, completionWrites, if_pos h, frontWriteFor_nil]
    simp [closePacket, State.modQueue, State.queue]
  · rw [completePacket]
    obtain ⟨_, ⟨_, _, _, rfl⟩, h | ⟨_, _, h⟩⟩ := frontWriteFor_cases (some (q, k)) s noGraph (s.queue q).ctx
      (completionWrites comp status xdrop) (if int then some (queueVector q) else none) <;> rw [h]
    · left; simp [closePacket, State.modQueue, State.queue]
    · exact .inr ⟨rfl, _, mem_kset .., rfl⟩

/-! ## An item starts (R321) -/

/-- A node that no stage runs has started: of the graph only its call and its fault change, and no stage of the part does. -/
structure NodeStarted (s : State) (gi : Nat) (t : State) : Prop where
  insts : t.insts = s.insts
  pendLaunch : t.pendLaunch = s.pendLaunch
  graph : ∃ call fault nflt, t.graph gi = { s.graph gi with call := call, fault := fault, nflt := nflt }

namespace NodeStarted
variable {s t u : State} {gi : Nat}

theorem of_graphs (hi : t.insts = s.insts) (hp : t.pendLaunch = s.pendLaunch) (hg : t.graphs = s.graphs) : NodeStarted s gi t :=
  ⟨hi, hp, _, _, _, by rw [State.graph, hg]; rfl⟩

theorem refl (s : State) (gi : Nat) : NodeStarted s gi s := of_graphs rfl rfl rfl

theorem trans : NodeStarted s gi t → NodeStarted t gi u → NodeStarted s gi u := by
  rintro ⟨hi, hp, _, _, _, hg⟩ ⟨hi', hp', _, _, _, hg'⟩
  exact ⟨hi'.trans hi, hp'.trans hp, _, _, _, by rw [hg', hg]⟩

theorem newEpoch (s : State) (gi c : Nat) : NodeStarted s gi (newEpoch s c) := of_graphs rfl rfl rfl

theorem noteFault (s : State) (gi cause : Nat) (i j : Word) : NodeStarted s gi (noteFault s cause i j) := by
  unfold Machine.noteFault
  dsimp only
  split <;> exact of_graphs rfl rfl rfl

theorem modGraph (s : State) (gi : Nat) (f : GraphInst → GraphInst)
    (hf : ∃ call fault nflt, f (s.graph gi) = { s.graph gi with call := call, fault := fault, nflt := nflt }) :
    NodeStarted s gi (s.modGraph gi f) :=
  ⟨rfl, rfl, by simpa [State.graph_modGraph] using hf⟩

theorem raiseFault (s : State) (gi : Nat) (f : FaultRec) : NodeStarted s gi (raiseFault s gi f) := by
  refine (noteFault s gi f.cause f.info f.info2).trans (modGraph _ gi _ ?_)
  dsimp only
  split
  · exact ⟨_, _, _, rfl⟩
  · split <;> exact ⟨_, _, _, rfl⟩

theorem frontHold (s : State) (gi : Nat) (r : Req) (graph ctx va : Nat) (st : AccSt) : NodeStarted s gi (frontHold s r graph ctx va st) := by
  unfold Machine.frontHold
  split
  · exact refl s gi
  · exact of_graphs rfl rfl rfl

theorem sendStarts (s : State) (gi slot : Nat) : NodeStarted s gi (sendStarts s slot) := by
  unfold Machine.sendStarts
  dsimp only
  split
  · exact refl s gi
  · split
    · exact of_graphs rfl rfl rfl
    · exact refl s gi

/-- A graph's own call enters its slot; the graph may have a fault of it, by an abort that came before. -/
theorem addCall (s : State) (slot : Nat) {c : Call} (hi : c.inst = none) (hg : c.graph = gi) : NodeStarted s gi (addCall s slot c) := by
  unfold Machine.addCall
  dsimp only
  set s1 := s.modGroup slot _
  have h1 : NodeStarted s gi s1 := of_graphs rfl rfl rfl
  have h2 : NodeStarted s gi (if (s.group slot).calls = [] then Machine.sendStarts s1 slot else s1) := by
    split
    · exact h1.trans (sendStarts s1 _ slot)
    · exact h1
  split
  · exact h2
  · simp only [collFault, hi, hg]
    exact h2.trans (raiseFault ..)

theorem startNodeCall (s : State) (gi obj base : Nat) : NodeStarted s gi (startNodeCall s gi obj base) := by
  unfold Machine.startNodeCall
  dsimp only
  split
  · exact raiseFault ..
  · exact frontHold ..
  · exact raiseFault ..
  · exact refl s gi
  · split
    · exact refl s gi
    · refine (NodeStarted.trans ?_ (addCall (gi := gi) _ _ rfl rfl)).trans (modGraph _ gi _ ⟨_, _, _, rfl⟩)
      exact of_graphs rfl rfl rfl

end NodeStarted

/-- A stage item starts: a new stage of its image is ready, and the graph has it. -/
theorem startItem_stage {s : State} {gi : Nat} {img : StageImage} (h : (s.graph gi).graph.items[(s.graph gi).item]? = some (.stage img)) :
    ∃ i : StageInst, i.img = img ∧ i.status = .ready ∧ (startItem s gi).insts = kset s.insts s.fresh i ∧
      (startItem s gi).graph gi = { s.graph gi with stage := some s.fresh } ∧ (startItem s gi).pendLaunch = s.pendLaunch := by
  unfold startItem
  simp only [h]
  exact ⟨_, rfl, rfl, rfl, kget_kset_self .., rfl⟩

theorem startItem_other {s : State} {gi : Nat} (h : ∀ img, (s.graph gi).graph.items[(s.graph gi).item]? ≠ some (.stage img)) :
    NodeStarted s gi (startItem s gi) := by
  unfold startItem
  dsimp only
  split
  next img hi => exact absurd hi (h img)
  next => exact .of_graphs rfl rfl rfl
  next => exact (NodeStarted.newEpoch s gi _).trans (.startNodeCall ..)
  next => exact .newEpoch s gi _
  next => exact .refl s gi

/-- An item's start leaves the pending launches, and of the graph all but its stage, its call and its fault. -/
theorem startItem_keeps (s : State) (gi : Nat) :
    (startItem s gi).pendLaunch = s.pendLaunch ∧ ∃ stage call fault nflt,
      (startItem s gi).graph gi = { s.graph gi with stage := stage, call := call, fault := fault, nflt := nflt } := by
  by_cases h : ∃ img, (s.graph gi).graph.items[(s.graph gi).item]? = some (.stage img)
  · obtain ⟨img, h⟩ := h
    obtain ⟨_, -, -, -, hg, hp⟩ := startItem_stage h
    exact ⟨hp, _, _, _, _, hg⟩
  · obtain ⟨-, hp, _, _, _, hg⟩ := startItem_other fun img himg => h ⟨img, himg⟩
    exact ⟨hp, _, _, _, _, hg⟩

/-! ## Live deltas (R319) -/

/-- t is s but for its elements, and each of their slots holds the word it held. -/
def SlotsKept (s t : State) : Prop := (∃ es, t = { s with elems := es }) ∧ ∀ e, (t.elem e).slots = (s.elem e).slots

namespace SlotsKept
variable {s t u : State}

theorem refl (s : State) : SlotsKept s s := ⟨⟨_, rfl⟩, fun _ => rfl⟩

theorem trans : SlotsKept s t → SlotsKept t u → SlotsKept s u := by
  rintro ⟨⟨_, rfl⟩, h⟩ ⟨⟨_, rfl⟩, h'⟩
  exact ⟨⟨_, rfl⟩, fun e => (h' e).trans (h e)⟩

theorem graphs : SlotsKept s t → t.graphs = s.graphs := by rintro ⟨⟨_, rfl⟩, _⟩; rfl
theorem insts : SlotsKept s t → t.insts = s.insts := by rintro ⟨⟨_, rfl⟩, _⟩; rfl

theorem modElem (s : State) (e : ERef) {f : Elem → Elem} (hf : ∀ x, (f x).slots = x.slots) : SlotsKept s (s.modElem e f) := by
  refine ⟨⟨_, rfl⟩, fun a => ?_⟩
  by_cases h : e = a
  · rw [← h, State.elem_modElem_self, hf]
  · rw [State.elem_modElem_ne s f h]

theorem joinElems (s : State) (es : List ERef) : SlotsKept s (joinElems s es) :=
  List.foldlRecOn es _ (refl s) fun _ h _ _ => h.trans (modElem _ _ fun _ => rfl)

theorem giveToks (inst : Nat) (t : Token) (ps wait : List (Nat × Nat × Nat)) (s : State) : SlotsKept s (giveToks inst t ps wait s).1 := by
  induction ps generalizing wait s with
  | nil => exact refl s
  | cons p ps ih =>
    simp only [Machine.giveToks]
    split
    · exact (modElem s ⟨inst, p.1, p.2.1⟩ (f := fun y => y.pushIn p.2.2 t) fun _ => rfl).trans (ih _ _)
    · exact ih _ s

theorem giveAll (inst : Nat) (ds : List LiveDelta) (wait : List (Nat × Nat × Nat)) (s : State) :
    SlotsKept s (giveAll inst ds wait s).1 := by
  induction ds generalizing wait s with
  | nil => exact refl s
  | cons d ds ih => exact (giveToks ..).trans (ih _ _)

end SlotsKept

/-- Giving tokens leaves it alone which deltas are applied. -/
theorem giveAll_applied (inst : Nat) {ds : List LiveDelta} (wait : List (Nat × Nat × Nat)) (s : State)
    (h : ∀ y ∈ ds, y.applied = true) : ∀ y ∈ (giveAll inst ds wait s).2, y.applied = true := by
  induction ds generalizing wait s with
  | nil => exact h
  | cons d ds ih =>
    obtain ⟨hd, hs⟩ := List.forall_mem_cons.mp h
    exact List.forall_mem_cons.mpr ⟨hd, ih _ _ hs⟩

/-- Deltas with no token to give stay as they are. -/
theorem giveAll_idle (inst : Nat) {ds : List LiveDelta} (wait : List (Nat × Nat × Nat)) (s : State) (h : ∀ y ∈ ds, y.toks = []) :
    giveAll inst ds wait s = (s, ds) := by
  induction ds with
  | nil => rfl
  | cons d ds ih =>
    obtain ⟨hd, hs⟩ := List.forall_mem_cons.mp h
    have hd' : { d with toks := [] } = d := by rw [← hd]
    simp [giveAll, giveToks, hd, hd', ih hs]

theorem giveAll_append_idle (inst : Nat) (as : List LiveDelta) {ds : List LiveDelta} (wait : List (Nat × Nat × Nat)) (s : State)
    (h : ∀ y ∈ ds, y.toks = []) :
    giveAll inst (as ++ ds) wait s = ((giveAll inst as wait s).1, (giveAll inst as wait s).2 ++ ds) := by
  induction as generalizing wait s with
  | cons a as ih => simp [giveAll, ih]
  | nil => simp [giveAll_idle inst wait s h, giveAll]

/-- A delta is through once it is applied and its tokens are gone; those that are not applied stay. -/
theorem filter_not_through (as : List LiveDelta) {ds : List LiveDelta} (h : ∀ y ∈ ds, y.applied = false) :
    (as ++ ds).filter (fun d => !(d.applied && d.toks == [])) = as.filter (fun d => !(d.applied && d.toks == [])) ++ ds := by
  have hds : ds.filter (fun d => !(d.applied && d.toks == [])) = ds := List.filter_eq_self.mpr fun y hy => by simp [h y hy]
  rw [List.filter_append, hds]

/-- What serving a graph's live deltas does: of those that are applied it keeps those that still have tokens to give, with the deltas that
wait behind them; the rest of the part changes by the records of the others alone. -/
theorem serveLive_spec {s : State} {gi : Nat} {as ds : List LiveDelta} (hl : (s.graph gi).live = as ++ ds)
    (ha : ∀ y ∈ as, y.applied = true) (hd : ∀ y ∈ ds, y.applied = false ∧ y.toks = []) :
    ∃ u on, SlotsKept s u ∧ FrontOnly (u.modGraph gi (fun x => { x with live := on ++ ds })) (serveLive s gi) ∧
      ∀ y ∈ on, y.applied = true ∧ y.toks ≠ [] := by
  have left {bs : List LiveDelta} (hb : ∀ y ∈ bs, y.applied = true) :
      ∀ y ∈ bs.filter (fun d => !(d.applied && d.toks == [])), y.applied = true ∧ y.toks ≠ [] := fun y hy => by
    obtain ⟨hy, ht⟩ := List.mem_filter.mp hy
    exact ⟨hb y hy, by simpa [hb y hy] using ht⟩
  have hd' := fun y hy => (hd y hy).1
  unfold serveLive
  cases hk : (s.graph gi).stage with
  | none =>
    have hds : ds.map (fun d => { d with toks := [] }) = ds := by
      refine (List.map_congr_left fun y hy => ?_).trans (List.map_id ds)
      rw [← (hd y hy).2]; rfl
    refine ⟨s, (as.map (fun d => { d with toks := [] })).filter (fun d => !(d.applied && d.toks == [])), .refl s, ?_, left (by simpa using ha)⟩
    rw [← filter_not_through _ hd']
    simp only [hk, hl, List.map_append, hds]
    exact .foldl (fun t d => .completeOrigin ..) _ _
  | some k =>
    refine ⟨_, _, .giveAll k as [] s, ?_, left (giveAll_applied k [] s ha)⟩
    rw [← filter_not_through _ hd']
    simp only [hk, hl, giveAll_append_idle k as [] s fun y hy => (hd y hy).2]
    exact .foldl (fun t d => .completeOrigin ..) _ _

/-- Delta d of x's graph gi is applied in t, and the deltas ds wait behind those that still have tokens to give. -/
def LiveApplied (x : GraphInst) (gi : Nat) (d : LiveDelta) (ds : List LiveDelta) (t : State) : Prop :=
  (t.graph gi).graph = applyDelta d.entries x.graph ∧ ∃ on, (t.graph gi).live = on ++ ds ∧ ∀ y ∈ on, y.applied = true ∧ y.toks ≠ []

/-- The live deltas of a graph up to its first that is not applied, that one, and those behind it. -/
structure LiveQueue (x : GraphInst) (pre : List LiveDelta) (d : LiveDelta) (ds : List LiveDelta) : Prop where
  live : x.live = pre ++ d :: ds
  before : ∀ y ∈ pre, y.applied = true
  waits : d.applied = false
  behind : ∀ y ∈ ds, y.applied = false ∧ y.toks = []

namespace LiveQueue
variable {x : GraphInst} {pre ds : List LiveDelta} {d : LiveDelta}

theorem find? (h : LiveQueue x pre d ds) : x.live.find? (fun d => !d.applied) = some d := by
  rw [h.live, List.find?_append, List.find?_eq_none.mpr fun y hy => by simp [h.before y hy]]
  simp [h.waits]

/-- The first delta that is not applied is taken, its tokens the given ones, and the deltas are served. -/
theorem serve_take {u : State} {gi : Nat} (h : LiveQueue (u.graph gi) pre d ds) (toks : List (Nat × Nat × Nat)) :
    LiveApplied (u.graph gi) gi d ds (serveLive (takeLive u gi d toks) gi) ∧
    (serveLive (takeLive u gi d toks) gi).insts = u.insts ∧
    ∀ e, ((serveLive (takeLive u gi d toks) gi).elem e).slots = (u.elem e).slots := by
  have hg : (takeLive u gi d toks).graph gi = { u.graph gi with
      graph := applyDelta d.entries (u.graph gi).graph
      live := (pre ++ [{ d with applied := true, toks := toks }]) ++ ds } := by
    rw [takeLive, State.graph_modGraph, if_pos rfl, h.live, replaceFirst_append _ _ (fun y hy => by simp [h.before y hy]) (by simp [h.waits])]
    simp
  obtain ⟨w, on, hw, hf, hon⟩ := serveLive_spec (congrArg GraphInst.live hg)
    (by simpa [or_imp, forall_and] using h.before) h.behind
  have hgw : w.graph gi = (takeLive u gi d toks).graph gi := by rw [State.graph, hw.graphs]; rfl
  have hgt : (serveLive (takeLive u gi d toks) gi).graph gi = { w.graph gi with live := on ++ ds } := by
    rw [State.graph, hf.graphs]; exact kget_kset_self ..
  refine ⟨⟨by rw [hgt, hgw, hg], on, by rw [hgt], hon⟩, hf.insts.trans hw.insts, fun e => ?_⟩
  rw [State.elem, hf.elems]
  exact hw.2 e

end LiveQueue

/-! ### A running stage's slots and regions (R319 steps 3 and 4) -/

theorem releases_spec (inst : Nat) (rs : List Nat) (s : State) :
    ∃ ys num, rs.foldl (fun (p : List Release × State) x =>
      let y := release p.2 (p.2.physReg inst x)
      (p.1 ++ [y.1], y.2)) ([], s) = (ys, { s with num := num }) :=
  List.foldlRecOn (motive := fun (p : List Release × State) => ∃ ys num, p = (ys, { s with num := num })) rs _ ⟨_, _, rfl⟩
    (by rintro _ ⟨_, _, rfl⟩ x _; exact ⟨_, _, rfl⟩)

theorem acquires_spec (inst : Nat) (rs : List Nat) (ys : List Release) (s : State) :
    ∃ acq, rs.foldl (fun t x => ys.foldl (fun t y => acquire t (t.physReg inst x) y) t) s = { s with acq := acq } := by
  refine List.foldlRecOn (motive := fun (t : State) => ∃ acq, t = { s with acq := acq }) rs _ ⟨s.acq, rfl⟩ fun t ht x _ => ?_
  refine List.foldlRecOn (motive := fun (t : State) => ∃ acq, t = { s with acq := acq }) ys _ ht ?_
  rintro _ ⟨_, rfl⟩ y _
  exact ⟨_, rfl⟩

/-- Regions that exchange their releases change what they have released and acquired, and what happens before their elements. -/
theorem exchangeReleases_spec (inst : Nat) (rs : List Nat) (s : State) :
    ∃ num acq, SlotsKept { s with num := num, acq := acq } (exchangeReleases inst rs s) := by
  obtain ⟨ys, num, hr⟩ := releases_spec inst rs s
  obtain ⟨acq, ha⟩ := acquires_spec inst rs ys { s with num := num }
  unfold exchangeReleases
  simp only [hr, ha]
  exact ⟨num, acq, .joinElems ..⟩

/-- The slot that an entry for a slot names (R317). -/
def NamesSlot (e : DEntry) (r l i : Nat) : Prop := Delta.item e.1 = 0 ∧ Delta.reg e.1 = r ∧ Delta.el e.1 = l ∧ Delta.index e.1 = i

theorem writeEntry_slotWord_of_names {inst r l i : Nat} {s : State} {e : DEntry} (h : NamesSlot e r l i) :
    ((writeEntry inst s e).elem ⟨inst, r, l⟩).slotWord i = e.2 := by
  obtain ⟨h0, rfl, rfl, rfl⟩ := h
  simp [writeEntry, h0, Elem.slotWord]

theorem writeEntry_slotWord_of_not_names {inst r l i : Nat} {s : State} {e : DEntry} (h : ¬ NamesSlot e r l i) :
    ((writeEntry inst s e).elem ⟨inst, r, l⟩).slotWord i = (s.elem ⟨inst, r, l⟩).slotWord i := by
  unfold writeEntry
  dsimp only
  split
  next h0 =>
    by_cases he : (⟨inst, Delta.reg e.1, Delta.el e.1⟩ : ERef) = ⟨inst, r, l⟩
    · have hi : Delta.index e.1 ≠ i := fun hi => h ⟨h0, (ERef.mk.inj he).2.1, (ERef.mk.inj he).2.2, hi⟩
      rw [he, State.elem_modElem_self, Elem.slotWord, kget_kset_ne _ _ hi]
      rfl
    · rw [State.elem_modElem_ne _ _ he]
      rfl
  · rfl

/-- A slot that a list of entries names, each time for one word, holds that word once the entries are written. -/
theorem writeEntries_slotWord {inst r l i : Nat} {v : SlotWord} {es : List DEntry} {s : State}
    (hv : ∀ e ∈ es, NamesSlot e r l i → e.2 = v)
    (h : (s.elem ⟨inst, r, l⟩).slotWord i = v ∨ ∃ e ∈ es, NamesSlot e r l i) :
    ((es.foldl (writeEntry inst) s).elem ⟨inst, r, l⟩).slotWord i = v := by
  induction es generalizing s with
  | nil => simpa using h
  | cons e es ih =>
    obtain ⟨he, hes⟩ := List.forall_mem_cons.mp hv
    apply ih hes
    by_cases hn : NamesSlot e r l i
    · exact .inl ((writeEntry_slotWord_of_names hn).trans (he hn))
    · rw [writeEntry_slotWord_of_not_names hn]
      simpa [hn] using h

/-- Entries written to a stage leave the graphs, and of the stage they change its image's elements alone. -/
theorem writeEntries_keeps (inst : Nat) (es : List DEntry) (s : State) :
    (es.foldl (writeEntry inst) s).graphs = s.graphs ∧
    ∃ xs, (es.foldl (writeEntry inst) s).inst inst = { s.inst inst with img := { (s.inst inst).img with elems := xs } } := by
  refine List.foldlRecOn (motive := fun (t : State) => t.graphs = s.graphs ∧
    ∃ xs, t.inst inst = { s.inst inst with img := { (s.inst inst).img with elems := xs } }) es _ ⟨rfl, _, rfl⟩ ?_
  rintro t ⟨hg, xs, hi⟩ e _
  have hi' : (writeEntry inst t e).inst inst = { t.inst inst with img := applyImage e (t.inst inst).img } := by
    unfold writeEntry
    dsimp only
    split <;> exact kget_kset_self ..
  refine ⟨?_, _, by rw [hi', hi]; rfl⟩
  unfold writeEntry
  dsimp only
  split <;> exact hg

/-- The part after a running stage's drained regions have taken a delta: the graphs are as they were, the slots are those that the delta's
entries leave, and of the stage only its image's elements and the regions that it holds change. -/
theorem applyLive_spec (s : State) (x : GraphInst) (inst : Nat) (d : LiveDelta) :
    (applyLive s x inst d).graphs = s.graphs ∧
    (∃ u, u.elems = s.elems ∧
      ∀ e, ((applyLive s x inst d).elem e).slots = (((itemEntries x d).foldl (writeEntry inst) u).elem e).slots) ∧
    ((s.inst inst).marked = false → (s.inst inst).img.clocked = false → ((applyLive s x inst d).inst inst).held =
      (removeFirst (fun y => !y.applied) x.live |>.filter (fun y => !y.applied) |>.flatMap (fun y => touched x y.entries)).eraseDups) := by
  unfold applyLive
  dsimp only
  have hm : MemoryOnly s ((touched x d.entries).foldl (fun t r => widenRegion t inst r .part) s) :=
    List.foldlRecOn _ _ (.refl s) fun _ h _ _ => h.trans (.widenWhere ..)
  obtain ⟨mem, stores, unspec, hm⟩ := hm
  rw [hm]
  set u : State := { s with mem := mem, stores := stores, unspec := unspec }
  obtain ⟨hg, xs, hi⟩ := writeEntries_keeps inst (itemEntries x d) u
  obtain ⟨num, acq, hs⟩ := exchangeReleases_spec inst (touched x d.entries) ((itemEntries x d).foldl (writeEntry inst) u)
  refine ⟨hs.graphs.trans hg, ⟨u, rfl, hs.2⟩, fun hmk hck => ?_⟩
  have hi' : (exchangeReleases inst (touched x d.entries) ((itemEntries x d).foldl (writeEntry inst) u)).inst inst =
      { s.inst inst with img := { (s.inst inst).img with elems := xs } } := by
    rw [State.inst, hs.insts]; exact hi
  rw [State.inst_modInst, if_pos rfl, hi']
  simp [hmk, hck]

/-! ## The loader (R24, R253) -/

/-- Ports given to the pages of a context: its graphs stand resident as they did, and nothing else of it changes. -/
structure PortsOnly (ctx : Nat) (s t : State) : Prop where
  resident : t.resident = s.resident
  ctx : ∃ ports, t.ctx ctx = { s.ctx ctx with ports := ports }

theorem keepPorts_portsOnly (s : State) (ctx : Nat) (g : Graph) : PortsOnly ctx s (keepPorts s ctx g) := by
  refine List.foldlRecOn (motive := PortsOnly ctx s) _ _ ⟨rfl, _, rfl⟩ fun t ht p _ => ?_
  refine List.foldlRecOn (motive := PortsOnly ctx s) _ _ ht ?_
  rintro u ⟨hr, _, hc⟩ a _
  split
  · exact ⟨hr, _, by rw [State.ctx_modCtx, if_pos rfl, hc]⟩
  · exact ⟨hr, _, hc⟩

theorem loaded_ctx (s : State) (ctx : Nat) (p : ResidentReq) :
    (loaded s ctx p).ctx ctx = { s.ctx ctx with made := true, root := p.root, rd := p.rd } := by
  obtain ⟨_, _, _, h⟩ := MemoryOnly.writePtes p.ptes (s.modCtx ctx (fun c => { c with made := true, root := p.root, rd := p.rd }))
  rw [loaded, h]
  exact kget_kset_self ..

theorem brokenRule_eq_none_iff (s : State) (ctx : Nat) (g : Graph) :
    brokenRule s ctx g = none ↔ graphOk g none = true ∧ peersFormed s ctx g = true := by
  simp [brokenRule, graphOk]

theorem brokenRule_eq_some {s : State} {ctx : Nat} {g : Graph} {r : Nat} (h : brokenRule s ctx g = some r) :
    (r, false) ∈ graphChecks g none ∨ r = 24 := by
  obtain ⟨⟨_, b⟩, hf, rfl⟩ := Option.map_eq_some_iff.mp h
  have hb : b = false := by simpa using List.find?_some hf
  subst hb
  rcases List.mem_append.mp (List.mem_of_find?_eq_some hf) with hm | hm
  · exact .inl hm
  · exact .inr (by simpa using congrArg Prod.fst (List.mem_singleton.mp hm))

end Sys2Proof.Machine
end

section
/-! SUPPORT. The course of a graph from its residency to its end, live deltas, pending launches, host rings and mailboxes
(spec/21 R319 to R325, spec/02 R24): the clauses of Obligations.GraphCourseResults. -/

namespace Sys2Proof.Machine

/-! ## MAKE_RESIDENT (R24, R55, R253) -/

/-- The loader may ask for this: the index is one of a context's, the part is not in recovery, the context's root and race setting stay. -/
def MayLoad (s : State) (ctx idx : Nat) (p : ResidentReq) : Prop :=
  idx < 256 ∧ s.recovery = false ∧ ((s.ctx ctx).made = true → p.root = (s.ctx ctx).root ∧ p.rd = (s.ctx ctx).rd)

/-- The part once the loader has written its entries and listed the graph. -/
def listed (s : State) (ctx idx : Nat) (p : ResidentReq) : State :=
  { loaded s ctx p with resident := kset (loaded s ctx p).resident (ctx, idx) p }

section
variable {s : State} {ctx idx : Nat} {p : ResidentReq}

theorem MayLoad.guard (h : MayLoad s ctx idx p) :
    ¬ (256 ≤ idx ∨ s.recovery ∨ ((s.ctx ctx).made = true ∧ (p.root ≠ (s.ctx ctx).root ∨ p.rd ≠ (s.ctx ctx).rd))) := by
  obtain ⟨hi, hr, hc⟩ := h
  rintro (h | h | ⟨hm, h | h⟩)
  · omega
  · simp [hr] at h
  · exact h (hc hm).1
  · exact h (hc hm).2

theorem execMakeResident_placed (h : MayLoad s ctx idx p) (hg : graphOk p.graph none = true) (hp : peersFormed s ctx p.graph = true)
    (hpl : placedOk (loaded s ctx p) ctx p.graph = true) (hpo : portsKept (listed s ctx idx p) ctx = true) :
    execMakeResident ctx idx p s = .next (keepPorts (listed s ctx idx p) ctx p.graph) := by
  unfold execMakeResident
  dsimp only
  rw [if_neg h.guard, (brokenRule_eq_none_iff s ctx p.graph).mpr ⟨hg, hp⟩]
  exact (when_eq_next ..).mpr ⟨by rw [hpl, Bool.true_and]; exact hpo, rfl⟩

theorem execMakeResident_broken (h : MayLoad s ctx idx p) {r : Nat} (hr : brokenRule s ctx p.graph = some r) :
    execMakeResident ctx idx p s = .next { s with refusals := s.refusals ++ [(ctx, idx, r)] } := by
  unfold execMakeResident
  dsimp only
  rw [if_neg h.guard, hr]

/-- A graph that is listed stands resident, its context made as asked. -/
theorem keepPorts_listed (s : State) (ctx idx : Nat) (p : ResidentReq) :
    let t := keepPorts (listed s ctx idx p) ctx p.graph
    t.resident.find? (fun y => y.1 == (ctx, idx)) = some ((ctx, idx), p) ∧ (t.ctx ctx).made = true ∧ (t.ctx ctx).root = p.root ∧
      (t.ctx ctx).rd = p.rd := by
  obtain ⟨hr, ports, hc⟩ := keepPorts_portsOnly (listed s ctx idx p) ctx p.graph
  have hl : (listed s ctx idx p).ctx ctx = { s.ctx ctx with made := true, root := p.root, rd := p.rd } := loaded_ctx s ctx p
  rw [hl] at hc
  exact ⟨by rw [hr]; exact find?_kset .., by rw [hc], by rw [hc], by rw [hc]⟩

/-- A graph that fails is refused by the number of a rule that it breaks. -/
theorem execMakeResident_refuses (h : MayLoad s ctx idx p) (hb : graphOk p.graph none = false ∨ peersFormed s ctx p.graph = false) :
    ∃ n, execMakeResident ctx idx p s = .next { s with refusals := s.refusals ++ [(ctx, idx, n)] } ∧
      ((n, false) ∈ graphChecks p.graph none ∨ n = 24) := by
  cases hr : brokenRule s ctx p.graph with
  | none =>
    obtain ⟨hg, hp⟩ := (brokenRule_eq_none_iff s ctx p.graph).mp hr
    simp [hg, hp] at hb
  | some r => exact ⟨r, execMakeResident_broken h hr, brokenRule_eq_some hr⟩

end

/-! ## GRAPH_ITEM_END (R321) -/

/-- A graph that has left its item: at the next one, with no stage and no call. -/
def movedOn (x : GraphInst) : GraphInst :=
  { x with item := nextItem x, stage := none, call := none, live := x.live.map (fun d => { d with toks := [] }) }

/-- A graph that goes on leaves its stage, and starts its next item or completes. -/
theorem advanceGraph_spec (s : State) (gi : Nat) :
    ∃ u, advanceGraph s gi = (if nextItem (s.graph gi) < (s.graph gi).graph.items.length then startItem u gi else completeGraph u gi) ∧
      u.queues = s.queues ∧ u.graph gi = movedOn (s.graph gi) ∧ ∀ k, (s.graph gi).stage = some k → khas u.insts k = false := by
  unfold advanceGraph
  dsimp only
  cases hk : (s.graph gi).stage with
  | none =>
    refine ⟨_, rfl, rfl, kget_kset_self .., ?_⟩
    rintro _ ⟨⟩
  | some k =>
    obtain ⟨mem, stores, unspec, h⟩ := MemoryOnly.widenWhere s (fun p => p.inst == k) .system
    dsimp only [widenInst]
    rw [h]
    refine ⟨_, rfl, rfl, kget_kset_self .., ?_⟩
    rintro _ ⟨⟩
    exact khas_kdel ..

theorem completeGraph_done (s : State) (gi : Nat) : ((completeGraph s gi).graph gi).done = true := by
  unfold completeGraph
  dsimp only
  rw [State.graph, (FrontOnly.completeOrigin ..).graphs]
  exact congrArg GraphInst.done (kget_kset_self ..)

/-- A graph that a packet launched, with no live delta left, completes with its packet (R314). -/
theorem completeGraph_open {s : State} {gi q k : Nat} (ho : (s.graph gi).origin = .queue q k) (hl : (s.graph gi).live = []) :
    let t := completeGraph s gi
    ((s.graph gi).comp = 0 → (t.queue q).open_ = (s.queue q).open_.filter (· != k)) ∧
    ((t.queue q).open_ = (s.queue q).open_.filter (· != k) ∨
      ((t.queue q).open_ = (s.queue q).open_ ∧ ∃ y ∈ t.fronts, y.2.pkt = some (q, k))) := by
  unfold completeGraph
  simp only [ho, hl, List.foldl_nil, completeOrigin]
  exact completePacket_open (s.modGraph gi _) q k _ _ 0 _

/-- The part lets this graph's items end: a core leads, the graph runs, and no access of its node waits. -/
structure MayAdvance (s : State) (gi : Nat) : Prop where
  leads : Leads s
  known : khas s.graphs gi = true
  runs : (s.graph gi).done = false
  sound : (s.graph gi).fault = none
  settled : ∀ a ∈ s.accs, a.req ≠ .node gi

section
variable {s : State} {gi : Nat}

theorem execGraphItemEnd_not_leads (h : ¬ Leads s) (t : State) : execGraphItemEnd gi s ≠ .next t := by
  have hl : s.leads = false := by rwa [← Bool.not_eq_true, leads_iff]
  simp [execGraphItemEnd, hl]

theorem MayAdvance.guard (h : MayAdvance s gi) :
    ¬ (s.leads = false ∨ khas s.graphs gi = false ∨ (s.graph gi).done ∨ (s.graph gi).fault.isSome ∨ accPending s (.node gi)) := by
  have ha : accPending s (.node gi) = false := by simpa [accPending] using h.settled
  simp [(leads_iff s).mpr h.leads, h.known, h.runs, h.sound, ha]

theorem execGraphItemEnd_ended (h : MayAdvance s gi) (he : itemEnded s gi = true) : execGraphItemEnd gi s = .next (advanceGraph s gi) := by
  simp only [execGraphItemEnd, if_neg h.guard, he, if_true]

theorem execGraphItemEnd_not_ended (h : MayAdvance s gi) (he : itemEnded s gi = false)
    (hc : ∀ n o b, (s.graph gi).graph.items[(s.graph gi).item]? ≠ some (.collective n o b)) (t : State) :
    execGraphItemEnd gi s ≠ .next t := by
  simp only [execGraphItemEnd, if_neg h.guard, he, Bool.false_eq_true, if_false]
  split
  next hi _ => exact absurd hi (hc _ _ _)
  next => exact notNow_ne_next _ t

/-- The next item has started: the graph stands at it, its last stage is gone, and a stage item's stage is ready. -/
theorem advanceGraph_starts (hr : (s.graph gi).done = false) (hn : nextItem (s.graph gi) < (s.graph gi).graph.items.length) :
    let t := advanceGraph s gi
    (t.graph gi).item = nextItem (s.graph gi) ∧ (t.graph gi).done = false ∧
    (∀ k, (s.graph gi).stage = some k → khas t.insts k = false ∨ (t.graph gi).stage = some k) ∧
    (∀ img, (s.graph gi).graph.items[nextItem (s.graph gi)]? = some (.stage img) →
      ∃ k, (t.graph gi).stage = some k ∧ (t.inst k).img = img ∧ (t.inst k).status = .ready) := by
  obtain ⟨u, ha, -, hg, hi⟩ := advanceGraph_spec s gi
  rw [ha, if_pos hn]
  have hitem : (u.graph gi).graph.items[(u.graph gi).item]? = (s.graph gi).graph.items[nextItem (s.graph gi)]? := by rw [hg]; rfl
  by_cases h : ∃ img, (u.graph gi).graph.items[(u.graph gi).item]? = some (.stage img)
  · obtain ⟨img, h⟩ := h
    obtain ⟨i, himg, hst, hin, hgr, -⟩ := startItem_stage h
    refine ⟨by rw [hgr, hg]; rfl, by rw [hgr, hg]; exact hr, fun k hk => ?_, fun img' h' => ⟨u.fresh, by rw [hgr], ?_⟩⟩
    · by_cases hf : u.fresh = k
      · exact .inr (by rw [hgr, hf])
      · exact .inl (by rw [hin, khas_kset_ne _ hf, hi k hk])
    · have hii : (startItem u gi).inst u.fresh = i := by rw [State.inst, hin, kget_kset_self]
      rw [hitem, h'] at h
      cases h
      exact ⟨hii ▸ himg, hii ▸ hst⟩
  · obtain ⟨hin, -, _, _, _, hgr⟩ := startItem_other fun img himg => h ⟨img, himg⟩
    refine ⟨by rw [hgr, hg]; rfl, by rw [hgr, hg]; exact hr, fun k hk => .inl (by rw [hin, hi k hk]), fun img h' => ?_⟩
    exact absurd ⟨img, hitem.trans h'⟩ h

/-- After its last item the graph completes, and with it the packet that launched it. -/
theorem advanceGraph_completes (hn : (s.graph gi).graph.items.length ≤ nextItem (s.graph gi)) :
    let t := advanceGraph s gi
    (t.graph gi).done = true ∧
    (∀ q k, (s.graph gi).origin = .queue q k → (s.graph gi).live = [] →
      ((s.graph gi).comp = 0 → (t.queue q).open_ = (s.queue q).open_.filter (· != k)) ∧
      ((t.queue q).open_ = (s.queue q).open_.filter (· != k) ∨
        ((t.queue q).open_ = (s.queue q).open_ ∧ ∃ y ∈ t.fronts, y.2.pkt = some (q, k)))) := by
  obtain ⟨u, ha, hq, hg, -⟩ := advanceGraph_spec s gi
  rw [ha, if_neg (Nat.not_lt.mpr hn)]
  refine ⟨completeGraph_done u gi, fun q k ho hl => ?_⟩
  have hu : u.queue q = s.queue q := by rw [State.queue, hq]; rfl
  have hc : (u.graph gi).comp = (s.graph gi).comp := by rw [hg]; rfl
  rw [← hu, ← hc]
  exact completeGraph_open (by rw [hg]; exact ho) (by rw [hg, movedOn, hl]; rfl)

end

/-! ## LIVE_DELTA_APPLY (R319) -/

section
variable {s : State} {gi k : Nat} {pre ds : List LiveDelta} {d : LiveDelta}

/-- Nothing stands against serving a graph's live deltas: a core leads, and the graph has no fault. -/
theorem liveDelta_guard (hL : Leads s) (hf : (s.graph gi).fault = none) : ¬ (s.leads = false ∨ (s.graph gi).fault.isSome) := by
  simp [(leads_iff s).mpr hL, hf]

variable (hq : LiveQueue (s.graph gi) pre d ds) (hL : Leads s) (hf : (s.graph gi).fault = none)
include hq hL hf

theorem execLiveDeltaApply_no_stage (hk : (s.graph gi).stage = none) :
    execLiveDeltaApply gi s = .next (serveLive (takeLive s gi d []) gi) := by
  simp only [execLiveDeltaApply, if_neg (liveDelta_guard hL hf), hq.find?, hk]

theorem execLiveDeltaApply_untouched (hk : (s.graph gi).stage = some k)
    (hn : (s.inst k).status ≠ .running ∨ touched (s.graph gi) d.entries = []) :
    ∃ f, execLiveDeltaApply gi s = .next (serveLive (takeLive (s.modInst k f) gi d []) gi) := by
  have hn' : ¬ ((s.inst k).status = .running ∧ touched (s.graph gi) d.entries ≠ []) := fun h => hn.elim (· h.1) h.2
  simp only [execLiveDeltaApply, if_neg (liveDelta_guard hL hf), hq.find?, hk, if_neg hn']
  exact ⟨_, rfl⟩

variable (hk : (s.graph gi).stage = some k) (hr : (s.inst k).status = .running) (ht : touched (s.graph gi) d.entries ≠ [])
include hk hr ht

theorem execLiveDeltaApply_waits (hn : liveReady s (s.graph gi) k d = false)
    (hroom : ∀ y ∈ (s.graph gi).live, ∀ p ∈ y.toks, destRoom s k p.1 p.2.1 p.2.2 = false) (t : State) :
    execLiveDeltaApply gi s ≠ .next t := by
  have hdue : tokDue s (s.graph gi) = false := by
    simp only [tokDue, hk, List.any_eq_false, Bool.not_eq_true]
    intro y hy
    simpa using hroom y hy
  simp only [execLiveDeltaApply, if_neg (liveDelta_guard hL hf), hq.find?, hk, if_pos (And.intro hr ht), hn, hdue, Bool.false_eq_true,
    if_false]
  exact notNow_ne_next _ t

theorem execLiveDeltaApply_drained (hn : liveReady s (s.graph gi) k d = true) :
    execLiveDeltaApply gi s =
      .next (serveLive (takeLive (applyLive s (s.graph gi) k d) gi d (tokenPlaces (itemEntries (s.graph gi) d))) gi) := by
  simp only [execLiveDeltaApply, if_neg (liveDelta_guard hL hf), hq.find?, hk, if_pos (And.intro hr ht), hn, if_true]

end

/-- The regions that a stage holds after a delta is applied are those that the deltas behind it touch; a slot that the delta's entries name,
each time for one word, holds it. -/
theorem applied_running {s : State} {gi k : Nat} {pre ds : List LiveDelta} {d : LiveDelta} (hq : LiveQueue (s.graph gi) pre d ds)
    (toks : List (Nat × Nat × Nat)) :
    let x := s.graph gi
    let t := serveLive (takeLive (applyLive s x k d) gi d toks) gi
    LiveApplied x gi d ds t ∧
    ((s.inst k).img.clocked = false → (s.inst k).marked = false → ∀ r, r ∈ (t.inst k).held ↔ ∃ y ∈ ds, r ∈ touched x y.entries) ∧
    ∀ h v, (h, v) ∈ d.entries → Delta.item h = 0 → Delta.stage h = x.item →
      (∀ h' v', (h', v') ∈ d.entries → Delta.item h' = 0 → Delta.stage h' = x.item → Delta.reg h' = Delta.reg h →
        Delta.el h' = Delta.el h → Delta.index h' = Delta.index h → v' = v) →
      (t.elem ⟨k, Delta.reg h, Delta.el h⟩).slotWord (Delta.index h) = v := by
  obtain ⟨hg, ⟨u, -, hsl⟩, hheld⟩ := applyLive_spec s (s.graph gi) k d
  have hx : (applyLive s (s.graph gi) k d).graph gi = s.graph gi := by rw [State.graph, hg]; rfl
  obtain ⟨ha, hi, hslots⟩ := LiveQueue.serve_take (u := applyLive s (s.graph gi) k d) (hx.symm ▸ hq) toks
  rw [hx] at ha
  refine ⟨ha, fun hc hm r => ?_, fun h v hmem h0 hst huniq => ?_⟩
  · rw [State.inst, hi]
    change r ∈ ((applyLive s (s.graph gi) k d).inst k).held ↔ _
    have hds : ds.filter (fun y => !y.applied) = ds := List.filter_eq_self.mpr fun y hy => by simp [(hq.behind y hy).1]
    rw [hheld hm hc, hq.live, removeFirst_append _ (fun y hy => by simp [hq.before y hy]) (by simp [hq.waits]), List.filter_append, hds,
      List.filter_eq_nil_iff.mpr fun y hy => by simp [hq.before y hy]]
    simp
  · rw [Elem.slotWord, hslots, hsl]
    refine writeEntries_slotWord (fun e he hn => ?_) (.inr ⟨(h, v), ?_, h0, rfl, rfl, rfl⟩)
    · obtain ⟨hme, hp⟩ := List.mem_filter.mp he
      obtain ⟨hn0, hnr, hnl, hni⟩ := hn
      simp only [Bool.and_eq_true, beq_iff_eq] at hp
      exact huniq e.1 e.2 hme hn0 hp.2 hnr hnl hni
    · exact List.mem_filter.mpr ⟨hmem, by simp [h0, hst]⟩

/-- Tokens that have a place go on; the graph's images stay as they are. -/
theorem execLiveDeltaApply_tokens {s : State} {gi k : Nat} (hk : (s.graph gi).stage = some k)
    (ha : ∀ y ∈ (s.graph gi).live, y.applied = true) (hL : Leads s) (hf : (s.graph gi).fault = none)
    (hroom : ∃ y ∈ (s.graph gi).live, ∃ p ∈ y.toks, destRoom s k p.1 p.2.1 p.2.2 = true) :
    ∃ t, execLiveDeltaApply gi s = .next t ∧ (t.graph gi).graph = (s.graph gi).graph := by
  have hnone : (s.graph gi).live.find? (fun d => !d.applied) = none := List.find?_eq_none.mpr fun y hy => by simp [ha y hy]
  have hdue : tokDue s (s.graph gi) = true := by simpa only [tokDue, hk, List.any_eq_true] using hroom
  obtain ⟨u, on, hu, hfr, -⟩ := serveLive_spec (ds := []) (List.append_nil _).symm ha (by simp)
  refine ⟨serveLive s gi, ?_, ?_⟩
  · simp only [execLiveDeltaApply, if_neg (liveDelta_guard hL hf), hnone]
    exact (when_eq_next ..).mpr ⟨hdue, rfl⟩
  · rw [State.graph, hfr.graphs, State.modGraph, kget_kset_self, State.graph, hu.graphs]
    rfl

/-! ## PENDING_LAUNCH_TAKE (R322, R325) -/

/-- An entry leaves the pending-launch store, and with it the queue it reads as. -/
def takePending (p : PendLaunch) (t : State) : State :=
  { t with queues := kdel t.queues (pendQueue p.num), pendLaunch := removeFirst (fun y => y.num == p.num) t.pendLaunch }

/-- What launching a pending launch comes to. -/
def launchPending (s : State) (p : PendLaunch) : Launched :=
  launch s (s.queue (pendQueue p.num)).failed (.glaunch p.q p.index p.num) p.q p.ctx p.cls p.words (takePending p)

/-- The front end takes this entry now: it is the first of the store and of the lowest class there. -/
structure MayTake (s : State) (p : PendLaunch) (ps : List PendLaunch) : Prop where
  leads : Leads s
  serves : serves s = some none
  class4 : p.cls < 4
  lowest : ∀ y ∈ s.pendLaunch, p.cls ≤ y.cls
  store : s.pendLaunch = p :: ps
  settled : ∀ a ∈ s.accs, a.req ≠ .queue (pendQueue p.num)

namespace MayTake
variable {s : State} {p : PendLaunch} {ps : List PendLaunch} (h : MayTake s p ps)
include h

theorem first : ((List.range 4).find? (fun c => s.pendLaunch.any (fun p => p.cls == c))).bind
    (fun c => s.pendLaunch.find? (fun p => p.cls == c)) = some p := by
  have hc : (List.range 4).find? (fun c => s.pendLaunch.any (fun p => p.cls == c)) = some p.cls := by
    rw [List.find?_range_eq_some]
    refine ⟨by simp [h.store], List.mem_range.mpr h.class4, fun j hj => ?_⟩
    simp only [Bool.not_eq_true', List.any_eq_false, beq_iff_eq]
    intro y hy hyj
    have := h.lowest y hy
    omega
  rw [hc]
  simp [h.store]

theorem guard : ¬ (s.leads = false ∨ Machine.serves s ≠ some none ∨ accPending s (.queue (pendQueue p.num))) := by
  have ha : accPending s (.queue (pendQueue p.num)) = false := by simpa [accPending] using h.settled
  simp [(leads_iff s).mpr h.leads, h.serves, ha]

theorem refused {c w : Nat} (hl : launchPending s p = .refused c w) :
    execPendingLaunchTake s = .next (writeCompletion (countFault (takePending p s) c) p.ctx (Pkt.addr p.words 7) c 0 none) := by
  unfold execPendingLaunchTake
  simp only [h.first, if_neg h.guard]
  have hl' := hl
  unfold launchPending takePending at hl'
  rw [hl']
  rfl

theorem started {t : State} (hl : launchPending s p = .started t) : execPendingLaunchTake s = .next t := by
  unfold execPendingLaunchTake
  simp only [h.first, if_neg h.guard]
  unfold launchPending takePending at hl
  rw [hl]

theorem takePending_eq : takePending p s = { s with queues := kdel s.queues (pendQueue p.num), pendLaunch := ps } := by
  simp [takePending, h.store, removeFirst]

end MayTake

/-- The graph that a launch makes, before its first item starts (R319). -/
def freshGraph (o : Origin) (ctx cls res : Nat) (g : Graph) (args : KMap Word) (ws : List Word) (cap : Nat) : GraphInst :=
  { origin := o, ctx := ctx, cls := cls, res := res, graph := g, args := args, item := 0, stage := none, call := none
    conds := [], fault := none, nflt := 0, elog := Pkt.addr ws 5, comp := Pkt.addr ws 7, int := Pkt.int ws
    xcount := 0, xdrop := 0, xcap := cap, xlost := 0, live := [], done := false }

theorem newGraph_spec (s : State) (o : Origin) (ctx cls res : Nat) (g : Graph) (args : KMap Word) (ws : List Word) (cap : Nat) :
    (newGraph s o ctx cls res g args ws cap).pendLaunch = s.pendLaunch ∧ ∃ stage call fault nflt,
      (newGraph s o ctx cls res g args ws cap).graph s.fresh =
        { freshGraph o ctx cls res g args ws cap with stage := stage, call := call, fault := fault, nflt := nflt } := by
  have key : ∀ u : State, FrontOnly { s with
        graphs := kset s.graphs s.fresh (freshGraph o ctx cls res g args ws cap), fresh := s.fresh + 1 } u →
      (startItem u s.fresh).pendLaunch = s.pendLaunch ∧ ∃ stage call fault nflt, (startItem u s.fresh).graph s.fresh =
        { freshGraph o ctx cls res g args ws cap with stage := stage, call := call, fault := fault, nflt := nflt } := fun u hu => by
    obtain ⟨hp, stage, call, fault, nflt, hg⟩ := startItem_keeps u s.fresh
    have hgu : u.graph s.fresh = freshGraph o ctx cls res g args ws cap := by rw [State.graph, hu.graphs]; exact kget_kset_self ..
    exact ⟨hp.trans hu.pendLaunch, stage, call, fault, nflt, hgu ▸ hg⟩
  unfold newGraph
  dsimp only
  refine key _ ?_
  split
  · exact .refl _
  · exact .frontWriteFor ..

section
variable {s : State} {bad : Option Nat} {o : Origin} {q ctx cls : Nat} {ws : List Word} {start : State → State}
  {y : (Nat × Nat) × ResidentReq} {es : List DEntry} {cd : DeltaRead} {cap : Nat}

theorem launch_no_graph (hr : s.resident.find? (fun p => p.1 == (ctx, Pkt.graph ws)) = none) :
    launch s bad o q ctx cls ws start = .refused 0x1C2 4 := by simp [launch, hr]

theorem launch_bad_delta (hr : s.resident.find? (fun p => p.1 == (ctx, Pkt.graph ws)) = some y)
    (hd : readDelta s bad ctx (Pkt.addr ws 2) (nthW ws 4).toNat = .fatal) :
    launch s bad o q ctx cls ws start = .refused 0x1C5 8 := by simp [launch, hr, hd]

theorem launch_started (hr : s.resident.find? (fun p => p.1 == (ctx, Pkt.graph ws)) = some y)
    (hd : readDelta s bad ctx (Pkt.addr ws 2) (nthW ws 4).toNat = .got es) (hb : firstBadEntry y.2.graph 0 es = none)
    (hl : Pkt.isLive ws = false) (hg : graphOk (applyDelta es y.2.graph) (some (deltaArgs es)) = true)
    (hc : readCap s bad ctx (Pkt.addr ws 5) = (cd, cap)) (hw : ∀ va st, cd ≠ .notYet va st) :
    launch s bad o q ctx cls ws start =
      .started (newGraph (start s) o ctx cls (Pkt.graph ws) (applyDelta es y.2.graph) (deltaArgs es) ws cap) := by
  unfold launch
  simp only [hr, hd, hb, hl, hg, hc, Bool.false_eq_true, if_false, if_true]

end

/-- A pending launch that the front end does not refuse leaves the store, and its graph runs with the delta's images and arguments. -/
theorem MayTake.runs {s : State} {p : PendLaunch} {ps : List PendLaunch} {y : (Nat × Nat) × ResidentReq} {es : List DEntry}
    {cd : DeltaRead} {cap : Nat} (h : MayTake s p ps) (hr : s.resident.find? (fun y => y.1 == (p.ctx, Pkt.graph p.words)) = some y)
    (hd : readDelta s (s.queue (pendQueue p.num)).failed p.ctx (Pkt.addr p.words 2) (nthW p.words 4).toNat = .got es)
    (hb : firstBadEntry y.2.graph 0 es = none) (hl : Pkt.isLive p.words = false)
    (hc : readCap s (s.queue (pendQueue p.num)).failed p.ctx (Pkt.addr p.words 5) = (cd, cap)) (hw : ∀ va st, cd ≠ .notYet va st)
    (hg : graphOk (applyDelta es y.2.graph) (some (deltaArgs es)) = true) :
    ∃ t, execPendingLaunchTake s = .next t ∧ t.pendLaunch = ps ∧ ∃ stage call fault nflt, t.graph s.fresh =
      { freshGraph (.glaunch p.q p.index p.num) p.ctx p.cls (Pkt.graph p.words) (applyDelta es y.2.graph) (deltaArgs es) p.words cap with
        stage := stage, call := call, fault := fault, nflt := nflt } := by
  obtain ⟨hp, hgr⟩ := newGraph_spec (takePending p s) (.glaunch p.q p.index p.num) p.ctx p.cls (Pkt.graph p.words)
    (applyDelta es y.2.graph) (deltaArgs es) p.words cap
  exact ⟨_, h.started (launch_started hr hd hb hl hg hc hw), hp.trans (by rw [h.takePending_eq]), hgr⟩

/-! ## Host rings and mailboxes (R324, R325) -/

theorem ringInterrupt_spec (s : State) (n : Nat) :
    ((ringInterrupt s n).ring n).u = 0 ∧ ((ringInterrupt s n).ring n).timer = none ∧ (ringInterrupt s n).irqs = s.irqs ++ [(s.ring n).vec] := by
  refine ⟨?_, ?_, rfl⟩ <;> simp [ringInterrupt, raiseIrq, State.modRing, State.ring]

theorem execRingCountInterrupt_eq_next (n : Nat) (s t : State) : execRingCountInterrupt n s = .next t ↔
    (n < 16 ∧ 0 < (s.ring n).u ∧ bits (s.ring n).coal 31 16 ≤ (s.ring n).u) ∧ ringInterrupt s n = t := by
  simp [execRingCountInterrupt, when_eq_next, and_assoc]

theorem execRingTimerExpiry_eq_next {n : Nat} {s : State} {t0 : Nat} (h : (s.ring n).timer = some t0) (t : State) :
    execRingTimerExpiry n s = .next t ↔ t0 + bits (s.ring n).coal 13 0 * 100 ≤ s.now ∧ ringInterrupt s n = t := by
  simp [execRingTimerExpiry, h, when_eq_next]

theorem execMailboxClear_clears {n : Nat} {s : State} (hn : n < 16) (hr : s.recovery = false) :
    ∃ t, execMailboxClear n s = .next t ∧ (t.mailbox n).pend = false ∧ (t.mailbox n).value = (s.mailbox n).value :=
  ⟨_, (when_eq_next ..).mpr ⟨by simp [hn, hr], rfl⟩, by simp [State.mailbox], by simp [State.mailbox]⟩

/-! ## The statement -/

/-- Settles O57: each clause from the lemma that says what its step does. -/
theorem graphCourseResults : Obligations.GraphCourseResults := by
  intro s
  refine ⟨?_, ?_, ?_, ?_, ?_, ?_, ?_⟩
  · intro ctx idx p hi hrec hctx
    have h : MayLoad s ctx idx p := ⟨hi, hrec, hctx⟩
    exact ⟨fun hg hp hpl hpo => ⟨_, execMakeResident_placed h hg hp hpl hpo, keepPorts_listed s ctx idx p⟩, execMakeResident_refuses h⟩
  · rintro hL gi ⟨t, ht⟩
    exact execGraphItemEnd_not_leads hL t ht
  · intro gi hL hk hd hf hacc
    have h : MayAdvance s gi := ⟨hL, hk, hd, hf, hacc⟩
    refine ⟨fun he hn => ⟨_, execGraphItemEnd_ended h he, advanceGraph_starts hd hn⟩,
      fun he hn => ⟨_, execGraphItemEnd_ended h he, advanceGraph_completes hn⟩, ?_⟩
    rintro he hc ⟨t, ht⟩
    exact execGraphItemEnd_not_ended h he hc t ht
  · intro gi pre d ds hl hpre hd hds hL hf
    have hq : LiveQueue (s.graph gi) pre d ds := ⟨hl, hpre, hd, hds⟩
    refine ⟨fun hk => ⟨_, execLiveDeltaApply_no_stage hq hL hf hk, (hq.serve_take []).1⟩, fun k hk => ⟨fun hn => ?_, ?_, ?_⟩⟩
    · obtain ⟨f, he⟩ := execLiveDeltaApply_untouched hq hL hf hk hn
      exact ⟨_, he, (LiveQueue.serve_take (u := s.modInst k f) hq []).1⟩
    · rintro hr ht hn hroom ⟨t, he⟩
      exact execLiveDeltaApply_waits hq hL hf hk hr ht hn hroom t he
    · exact fun hr ht hn => ⟨_, execLiveDeltaApply_drained hq hL hf hk hr ht hn, applied_running hq _⟩
  · exact fun gi k hk ha hL hf hroom => execLiveDeltaApply_tokens hk ha hL hf hroom
  · rintro p ps c hL hsv hc rfl hlow hst hacc -
    have h : MayTake s p ps := ⟨hL, hsv, hc, hlow, hst, hacc⟩
    refine ⟨fun hr => ?_, fun y hr hd => ?_, fun y es cd cap hr hd hb hlive hcap hw hg _ => ?_⟩
    · exact h.takePending_eq ▸ h.refused (launch_no_graph hr)
    · exact h.takePending_eq ▸ h.refused (launch_bad_delta hr hd)
    · obtain ⟨t, ht, hp, _, _, _, _, hgr⟩ := h.runs hr hd hb hlive hcap hw hg
      refine ⟨t, ht, hp, ?_⟩
      rw [hgr]
      exact ⟨rfl, rfl, rfl, rfl, rfl, rfl, rfl⟩
  · intro n hn
    refine ⟨fun hu hc => ⟨_, (execRingCountInterrupt_eq_next n s _).mpr ⟨⟨hn, hu, hc⟩, rfl⟩, ringInterrupt_spec s n⟩, ?_,
      fun t0 ht hle => ⟨_, (execRingTimerExpiry_eq_next ht _).mpr ⟨hle, rfl⟩, ringInterrupt_spec s n⟩, ?_, execMailboxClear_clears hn⟩
    · rintro hlt ⟨t, he⟩
      obtain ⟨⟨-, -, hle⟩, -⟩ := (execRingCountInterrupt_eq_next n s t).mp he
      exact absurd hle (Nat.not_le.mpr hlt)
    · rintro t0 ht hlt ⟨t, he⟩
      exact absurd ((execRingTimerExpiry_eq_next ht t).mp he).1 (Nat.not_le.mpr hlt)

end Sys2Proof.Machine
end

section
/-! SUPPORT. Decoding and encoding invert each other (spec/03_element_and_word.md R44 to R56): Obligations.DecodeInvertsEncode. -/

namespace Sys2Proof

open Machine (leNat leBytes)

/-! ## From an instruction to its word -/

/-- Every instruction's word gives it back: the lemma of its constructor. A step of the part has no opcode, so nothing is asked of it. -/
theorem Laws.Encoding.of_instr (i : Instr) : Laws.Encoding.Statement i := by
  cases i with
  | add f => exact add f | sub f => exact sub f | mul f => exact mul f | mulh f => exact mulh f | mulhu f => exact mulhu f
  | or f => exact or f | and f => exact and f | xor f => exact xor f | andn f => exact andn f | shl f => exact shl f
  | shr f => exact shr f | sra f => exact sra f | min f => exact min f | max f => exact max f | minu f => exact minu f
  | maxu f => exact maxu f | cmpeq f => exact cmpeq f | cmpne f => exact cmpne f | cmplt f => exact cmplt f | cmpltu f => exact cmpltu f
  | cmple f => exact cmple f | cmpleu f => exact cmpleu f | sel f => exact sel f | bfx f => exact bfx f | bfi f => exact bfi f
  | clz f => exact clz f | ctz f => exact ctz f | popc f => exact popc f | adds f => exact adds f | subs f => exact subs f
  | abs f => exact abs f | fadd f => exact fadd f | fsub f => exact fsub f | fmul f => exact fmul f | fmac f => exact fmac f
  | fmin f => exact fmin f | fmax f => exact fmax f | fcmpeq f => exact fcmpeq f | fcmplt f => exact fcmplt f
  | fcmple f => exact fcmple f | exp2 f => exact exp2 f | log2 f => exact log2 f | rcp f => exact rcp f | rsq f => exact rsq f
  | badd2 f => exact badd2 f | bmul2 f => exact bmul2 f | bmac2 f => exact bmac2 f | hadd2 f => exact hadd2 f | hmul2 f => exact hmul2 f
  | hmac2 f => exact hmac2 f | cvtfi f => exact cvtfi f | cvtif f => exact cvtif f | cvtfb f => exact cvtfb f | cvtfh f => exact cvtfh f
  | cvtbf f => exact cvtbf f | cvthf f => exact cvthf f | cvtf4 f => exact cvtf4 f | cvtf4s f => exact cvtf4s f
  | cvtf5 f => exact cvtf5 f | cvtf5s f => exact cvtf5s f | cvt4f f => exact cvt4f f | cvt5f f => exact cvt5f f | addi f => exact addi f
  | andi f => exact andi f | ori f => exact ori f | xori f => exact xori f | shli f => exact shli f | shri f => exact shri f
  | srai f => exact srai f | muli f => exact muli f | mini f => exact mini f | maxi f => exact maxi f | cmpeqi f => exact cmpeqi f
  | cmpnei f => exact cmpnei f | cmplti f => exact cmplti f | cmpltui f => exact cmpltui f | cmplei f => exact cmplei f
  | cmpleui f => exact cmpleui f | bfxi f => exact bfxi f | bfii f => exact bfii f | addsi f => exact addsi f | ldk f => exact ldk f
  | plog f => exact plog f | pset f => exact pset f | pget f => exact pget f | ldkf f => exact ldkf f | talloc f => exact talloc f
  | tfree f => exact tfree f | tcfg f => exact tcfg f | tqry f => exact tqry f | tld f => exact tld f | tst f => exact tst f
  | pcfg f => exact pcfg f | pqry f => exact pqry f | pgo f => exact pgo f | pstop f => exact pstop f | ld f => exact ld f
  | st f => exact st f | ldx f => exact ldx f | stx f => exact stx f | mdone f => exact mdone f | atom f => exact atom f
  | atomr f => exact atomr f | rawait f => exact rawait f | rrel f => exact rrel f | rget f => exact rget f | grule f => exact grule f
  | bdinit f => exact bdinit f | bdins f => exact bdins f | bdfind f => exact bdfind f | bdget f => exact bdget f
  | bdsort f => exact bdsort f | poolcfg f => exact poolcfg f | bcon f => exact bcon f | bcres f => exact bcres f
  | bcstat f => exact bcstat f | bcwait f => exact bcwait f | topb f => exact topb f | topx f => exact topx f | gath f => exact gath f
  | scat f => exact scat f | pools f => exact pools f | gstat f => exact gstat f | dpost f => exact dpost f | dsend f => exact dsend f
  | drecv f => exact drecv f | dwait f => exact dwait f | dqry f => exact dqry f | cgload f => exact cgload f | crun f => exact crun f
  | cwait f => exact cwait f | bar f => exact bar f | cseq f => exact cseq f | emit f => exact emit f | emitv f => exact emitv f
  | cede f => exact cede f | rxend f => exact rxend f | dlyr f => exact dlyr f | dlyw f => exact dlyw f | sigv f => exact sigv f
  | icnt f => exact icnt f | mark f => exact mark f | fwd f => exact fwd f | tagr f => exact tagr f | skip f => exact skip f
  | qset f => exact qset f | qget f => exact qget f | qfuse f => exact qfuse f | qinv f => exact qinv f | qeq f => exact qeq f
  | qchk f => exact qchk f | qsel f => exact qsel f | nop f => exact nop f | halt f => exact halt f | trap f => exact trap f
  | csrr f => exact csrr f | csrw f => exact csrw f | glaunch f => exact glaunch f | gcond f => exact gcond f | hrapp f => exact hrapp f
  | intr f => exact intr f
  | _ => exact fun _ _ h => nomatch h

/-! ## From a word to its instruction -/

/-- The fields of a word, read one by one and written again, are the field that they make together. -/
theorem FmtA.toBits_ofWord (w : SlotWord) : (FmtA.ofWord w).toBits = w.extractLsb' 0 22 := by
  simp only [FmtA.toBits, FmtA.ofWord, BitVec.extractLsb'_append_extractLsb'_eq_extractLsb']

theorem FmtI.toBits_ofWord (w : SlotWord) : (FmtI.ofWord w).toBits = w.extractLsb' 0 22 := by
  simp only [FmtI.toBits, FmtI.ofWord, BitVec.extractLsb'_append_extractLsb'_eq_extractLsb']

theorem FmtK.toBits_ofWord (w : SlotWord) : (FmtK.ofWord w).toBits = w.extractLsb' 0 22 := by
  simp only [FmtK.toBits, FmtK.ofWord, BitVec.extractLsb'_append_extractLsb'_eq_extractLsb']

theorem FmtM.toBits_ofWord (w : SlotWord) : (FmtM.ofWord w).toBits = w.extractLsb' 0 22 := by
  simp only [FmtM.toBits, FmtM.ofWord, BitVec.extractLsb'_append_extractLsb'_eq_extractLsb']

theorem FmtE.toBits_ofWord (w : SlotWord) : (FmtE.ofWord w).toBits = w.extractLsb' 0 22 := by
  simp only [FmtE.toBits, FmtE.ofWord, BitVec.extractLsb'_append_extractLsb'_eq_extractLsb']

theorem FmtS.toBits_ofWord (w : SlotWord) : (FmtS.ofWord w).toBits = w.extractLsb' 0 22 := by
  simp only [FmtS.toBits, FmtS.ofWord, BitVec.extractLsb'_append_extractLsb'_eq_extractLsb']

theorem FmtY.toBits_ofWord (w : SlotWord) : (FmtY.ofWord w).toBits = w.extractLsb' 0 22 := by
  simp only [FmtY.toBits, FmtY.ofWord, BitVec.extractLsb'_append_extractLsb'_eq_extractLsb']

theorem Trigger.toBits_ofWord (w : SlotWord) : (Trigger.ofWord w).toBits = w.extractLsb' 30 34 := by
  simp only [Trigger.toBits, Trigger.ofWord, BitVec.extractLsb'_append_extractLsb'_eq_extractLsb']

/-- What an opcode names has that opcode, and its action is bits [21:0] of the word. -/
theorem Instr.ofOp_spec {op : Nat} {w : SlotWord} {i : Instr} (h : Instr.ofOp op w = some i) :
    i.opcode = some (BitVec.ofNat 8 op) ∧ i.action = w.extractLsb' 0 22 := by
  unfold Instr.ofOp at h
  split at h <;> cases h <;>
    exact ⟨rfl, by simp only [Instr.action, FmtA.toBits_ofWord, FmtI.toBits_ofWord, FmtK.toBits_ofWord, FmtM.toBits_ofWord,
      FmtE.toBits_ofWord, FmtS.toBits_ofWord, FmtY.toBits_ofWord]⟩

/-- A word that decodes holds the trigger, names the instruction, and breaks no condition of R54. -/
theorem decodeSlot_eq_ok {w : SlotWord} {t : Trigger} {i : Instr} :
    decodeSlot w = .ok (t, i) ↔ Instr.ofOp (opOf w).toNat w = some i ∧ Trigger.ofWord w = t ∧ slotReject t i = none := by
  unfold decodeSlot
  cases hi : Instr.ofOp (opOf w).toNat w with
  | none => dsimp only; split <;> simp
  | some j =>
    cases hr : slotReject (Trigger.ofWord w) j with
    | none =>
      simp only [hr, Except.ok.injEq, Prod.mk.injEq, Option.some.injEq]
      constructor
      · rintro ⟨rfl, rfl⟩; exact ⟨rfl, rfl, hr⟩
      · rintro ⟨rfl, rfl, -⟩; exact ⟨rfl, rfl⟩
    | some r =>
      simp only [hr, reduceCtorEq, Option.some.injEq, false_iff]
      rintro ⟨rfl, rfl, h⟩
      exact absurd (hr.symm.trans h) (by simp)

theorem decodeSlot_encode {t : Trigger} {i : Instr} (h : WellFormed t i = true) : decodeSlot (encode t i) = .ok (t, i) := by
  obtain ⟨ho, hr⟩ := Bool.and_eq_true_iff.mp h
  obtain ⟨op, ho⟩ := Option.isSome_iff_exists.mp ho
  obtain ⟨hop, hi, ht⟩ := Laws.Encoding.of_instr i t op ho
  exact decodeSlot_eq_ok.mpr ⟨by rw [hop, hi], ht, Option.isNone_iff_eq_none.mp hr⟩

theorem encode_of_decodeSlot {w : SlotWord} {t : Trigger} {i : Instr} (h : decodeSlot w = .ok (t, i)) :
    WellFormed t i = true ∧ encode t i = w := by
  obtain ⟨hi, rfl, hr⟩ := decodeSlot_eq_ok.mp h
  obtain ⟨ho, ha⟩ := Instr.ofOp_spec hi
  refine ⟨by simp [WellFormed, ho, hr], ?_⟩
  simp only [encode, ho, ha, opOf, Option.getD_some, BitVec.ofNat_toNat, BitVec.setWidth_eq, Trigger.toBits_ofWord,
    BitVec.extractLsb'_append_extractLsb'_eq_extractLsb', BitVec.extractLsb'_eq_self]

theorem decodeSlot_of_reserved {w : SlotWord} (h : ∀ i : Instr, i.opcode ≠ some (opOf w)) : ∃ r, decodeSlot w = .error r := by
  cases hd : decodeSlot w with
  | error r => exact ⟨r, rfl⟩
  | ok p =>
    obtain ⟨hi, -, -⟩ := decodeSlot_eq_ok.mp hd
    exact absurd (Instr.ofOp_spec hi).1 (by simpa using h p.2)

/-! ## Words as bytes (R5) -/

@[simp] theorem length_leBytes (n v : Nat) : (leBytes n v).length = n := by
  induction n generalizing v with
  | zero => rfl
  | succ n ih => simp [leBytes, ih]

/-- A number's n lowest bytes make the number modulo 256^n. -/
theorem leNat_leBytes (n v : Nat) : leNat (leBytes n v) = v % 256 ^ n := by
  induction n generalizing v with
  | zero => simp [leBytes, leNat, Nat.mod_one]
  | succ n ih => rw [leBytes, leNat, ih, BitVec.toNat_ofNat, pow_succ' 256 n, Nat.mod_mul]

theorem decodeBytes_leBytes (w : SlotWord) (rest : List Byte) :
    decodeBytes (leBytes 8 w.toNat ++ rest) = (decodeSlot w).map (fun r => (r, rest)) := by
  have hw : BitVec.ofNat 64 (leNat (leBytes 8 w.toNat)) = w := by
    rw [leNat_leBytes, show 256 ^ 8 = 2 ^ 64 by norm_num, Nat.mod_eq_of_lt w.isLt, BitVec.ofNat_toNat, BitVec.setWidth_eq]
  have hl : (leBytes 8 w.toNat ++ rest).length = 8 + rest.length := by simp
  have ht : (leBytes 8 w.toNat ++ rest).take 8 = leBytes 8 w.toNat := List.take_left' (length_leBytes 8 _)
  have hd : (leBytes 8 w.toNat ++ rest).drop 8 = rest := List.drop_left' (length_leBytes 8 _)
  unfold decodeBytes
  rw [if_neg (by omega), ht, hd, hw]
  cases decodeSlot w <;> rfl

/-- Settles O4: the word an instruction is written as names it again (the lemma of its constructor), and a word that decodes is put together
again from the fields that were read. -/
theorem decodeInvertsEncode : Obligations.DecodeInvertsEncode := by
  refine ⟨fun t i h => ?_, fun w t i => encode_of_decodeSlot, fun w => decodeSlot_of_reserved⟩
  have hd := decodeSlot_encode h
  have hb (rest : List Byte) : decodeBytes (leBytes 8 (encode t i).toNat ++ rest) = .ok ((t, i), rest) := by
    rw [decodeBytes_leBytes, hd]; rfl
  refine ⟨hd, ?_, hb⟩
  have h0 := hb []
  rw [List.append_nil] at h0
  rw [decodeTableWord, Nat.mod_eq_of_lt (encode t i).isLt, h0]

end Sys2Proof
end

section
/-! SUPPORT. What a write at every scope leaves of what each agent reads (spec/18_memory_model.md R276 to R278). -/

namespace Sys2Proof.Machine

/-! ## Bytes put into memory -/

theorem khas_iff_exists {κ α : Type} [DecidableEq κ] (m : AMap κ α) (i : κ) : khas m i = true ↔ ∃ p ∈ m, p.1 = i := by
  simp [khas]

/-- Memory after bytes are put: the first of them for a key, else what it held. -/
theorem memGet_memPutAll {m : List (Nat × Byte)} (bs : List (Nat × Byte)) (j : Nat) (h : Memory.wf m) :
    memGet (memPutAll m bs) j = if khas bs j then kget 0 bs j else memGet m j := by
  induction bs with
  | nil => rfl
  | cons b bs ih =>
    have hw := (memPutAll_wf bs h).1
    rw [show memPutAll m (b :: bs) = memPut (memPutAll m bs) b.1 b.2 from rfl, memGet_memPut _ _ _ hw, ih]
    by_cases hb : b.1 = j
    · simp [kget, khas, hb]
    · simp [kget, khas, hb, Ne.symm hb]

theorem inUnits_iff (bs : List (Nat × Byte)) (j : Nat) : inUnits bs j = true ↔ ∃ b ∈ bs, unitOf b.1 = unitOf j := by simp [inUnits]

theorem inUnits_congr (bs : List (Nat × Byte)) {i j : Nat} (h : unitOf i = unitOf j) : inUnits bs i = inUnits bs j := by
  simp [inUnits, h]

theorem inUnits_of_khas {bs : List (Nat × Byte)} {j : Nat} (h : khas bs j = true) : inUnits bs j = true := by
  obtain ⟨b, hb, rfl⟩ := (khas_iff_exists bs j).mp h
  exact (inUnits_iff bs b.1).mpr ⟨b, hb, rfl⟩

/-- Bytes of which those at keys that a test accepts are kept: such a key holds what it held. -/
theorem kget_filter {d : Byte} (bs : List (Nat × Byte)) (t : Nat → Bool) {j : Nat} (h : t j = true) :
    kget d (bs.filter (fun q => t q.1)) j = kget d bs j := by
  induction bs with
  | nil => rfl
  | cons b bs ih =>
    by_cases hb : b.1 = j
    · simp [hb, h, kget]
    · by_cases ht : t b.1 = true <;> simp [ht, kget, hb, ih]

theorem khas_filter (bs : List (Nat × Byte)) (t : Nat → Bool) (j : Nat) :
    khas (bs.filter (fun q => t q.1)) j = (t j && khas bs j) := by
  rw [Bool.eq_iff_iff]
  simp only [khas_iff_exists, List.mem_filter, Bool.and_eq_true]
  exact ⟨by rintro ⟨p, ⟨hp, ht⟩, rfl⟩; exact ⟨ht, p, hp, rfl⟩, by rintro ⟨ht, p, hp, rfl⟩; exact ⟨p, ⟨hp, ht⟩, rfl⟩⟩

/-! ## The store that a read finds (R277) -/

/-- What a store writes to a byte, if it writes it. -/
def Pending.byteAt (p : Pending) (j : Nat) : Option Byte := if khas p.bytes j then some (kget 0 p.bytes j) else none

theorem Pending.byteAt_eq_none {p : Pending} {j : Nat} (h : inUnits p.bytes j = false) : p.byteAt j = none := by
  rw [Pending.byteAt, if_neg]
  intro hk
  simp [inUnits_of_khas hk] at h

theorem find?_khas_map (ps : List Pending) (j : Nat) :
    (ps.find? (fun p => khas p.bytes j)).map (fun p => kget 0 p.bytes j) = ps.findSome? (fun p => p.byteAt j) := by
  induction ps with
  | nil => rfl
  | cons p ps ih =>
    rw [List.find?_cons, List.findSome?_cons, Pending.byteAt, ← ih]
    cases khas p.bytes j <;> rfl

/-- A read of a byte: what the first of the stores shown writes to it, else what memory holds. -/
theorem readSeen_eq (mem : List (Nat × Byte)) (seen : Pending → Bool) (ps : List Pending) (j : Nat) :
    readSeen mem seen ps j = ((shownIn seen ps j).findSome? (fun p => p.byteAt j)).getD (memGet mem j) := by
  rw [← find?_khas_map, readSeen]
  cases (shownIn seen ps j).find? (fun p => khas p.bytes j) <;> rfl

/-- Elements in which a search finds nothing may be dropped from the front. -/
theorem findSome?_dropWhile {α β : Type} (as : List α) {a : α → Bool} {b : α → Option β} (h : ∀ x ∈ as, a x = true → b x = none) :
    (as.dropWhile a).findSome? b = as.findSome? b := by
  induction as with
  | nil => rfl
  | cons x as ih =>
    obtain ⟨hx, hs⟩ := List.forall_mem_cons.mp h
    by_cases ha : a x = true
    · simp [ha, hx ha, ih hs]
    · simp [ha]

/-- Elements that are dropped in front, and in which a search finds nothing, may be taken out anywhere. -/
theorem findSome?_dropWhile_filter {α β : Type} (as : List α) {g a : α → Bool} {b : α → Option β}
    (h : ∀ x ∈ as, g x = false → a x = true ∧ b x = none) :
    ((as.filter g).dropWhile a).findSome? b = (as.dropWhile a).findSome? b := by
  have found (as : List α) (h : ∀ x ∈ as, g x = false → b x = none) : (as.filter g).findSome? b = as.findSome? b := by
    induction as with
    | nil => rfl
    | cons x as ih =>
      obtain ⟨hx, hs⟩ := List.forall_mem_cons.mp h
      cases hg : g x with
      | false => simp [hg, hx hg, ih hs]
      | true => rw [List.filter_cons_of_pos hg, List.findSome?_cons, List.findSome?_cons, ih hs]
  induction as with
  | nil => rfl
  | cons x as ih =>
    obtain ⟨hx, hs⟩ := List.forall_mem_cons.mp h
    cases hg : g x with
    | false => simp [hg, (hx hg).1, ih hs]
    | true =>
      by_cases ha : a x = true
      · simp [hg, ha, ih hs]
      · rw [List.filter_cons_of_pos hg, List.dropWhile_cons_of_neg ha, List.dropWhile_cons_of_neg ha, List.findSome?_cons,
          List.findSome?_cons, found as fun y hy hgy => (hs y hy hgy).2]

/-- What an agent reads that sees every store: what the last store of the byte writes, else what memory holds. -/
theorem latest_eq (s : State) (j : Nat) : latest s j = (s.stores.reverse.findSome? (fun p => p.byteAt j)).getD (memGet s.mem j) := by
  rw [latest, readSeen_eq, shownIn, findSome?_dropWhile]
  exact fun p _ hp => Pending.byteAt_eq_none (by simpa using hp)

/-- Stores performed everywhere in the units of some bytes: memory there is as the last of them left it, and elsewhere as it was. -/
theorem memGet_settleUnits {mem : List (Nat × Byte)} (bs : List (Nat × Byte)) (ps : List Pending) (j : Nat) (h : Memory.wf mem) :
    memGet (settleUnits mem ps bs) j =
      if inUnits bs j then (ps.reverse.findSome? (fun p => p.byteAt j)).getD (memGet mem j) else memGet mem j := by
  induction ps using List.reverseRecOn with
  | nil => simp [settleUnits]
  | append_singleton ps p ih =>
    rw [settleUnits, List.foldl_append, List.foldl_cons, List.foldl_nil, ← settleUnits,
      memGet_memPutAll _ _ (settleUnits_wf bs ps h), khas_filter p.bytes (inUnits bs), ih, List.reverse_append, List.reverse_singleton,
      List.singleton_append]
    by_cases hj : inUnits bs j = true
    · rw [kget_filter p.bytes (inUnits bs) hj]
      by_cases hk : khas p.bytes j = true <;> simp [hj, hk, Pending.byteAt]
    · simp [hj]

/-! ## Reads after a write at every scope -/

section
variable {bs : List (Nat × Byte)} {j : Nat} (h : inUnits bs j = false)
include h

theorem inUnits_without (p : Pending) : inUnits (p.without bs).bytes j = inUnits p.bytes j := by
  rw [Bool.eq_iff_iff]
  simp only [inUnits_iff, Pending.without, List.mem_filter]
  refine ⟨by rintro ⟨b, ⟨hb, -⟩, hu⟩; exact ⟨b, hb, hu⟩, ?_⟩
  rintro ⟨b, hb, hu⟩
  exact ⟨b, ⟨hb, by simp [inUnits_congr bs hu, h]⟩, hu⟩

theorem byteAt_without (p : Pending) : (p.without bs).byteAt j = p.byteAt j := by
  have ht : (!inUnits bs j) = true := by simp [h]
  rw [Pending.byteAt, Pending.without, khas_filter p.bytes (fun k => !inUnits bs k), kget_filter p.bytes (fun k => !inUnits bs k) ht, ht]
  rfl

/-- Stores performed everywhere in other units change no read of a byte. -/
theorem readByte_dropUnits (mem : List (Nat × Byte)) (a : Agent) (ps : List Pending) :
    readByte mem a (dropUnits ps bs) j = readByte mem a ps j := by
  rw [readByte, readByte, readSeen_eq, readSeen_eq, shownIn, shownIn, dropUnits, ← List.filter_reverse, findSome?_dropWhile_filter,
    ← List.map_reverse, List.dropWhile_map, List.findSome?_map]
  · simp only [Function.comp_def, inUnits_without h, byteAt_without h]
    rfl
  · intro p _ hp
    have hb : p.bytes = [] := by simpa using hp
    have hu : inUnits p.bytes j = false := by rw [hb]; rfl
    exact ⟨by simp [hu], Pending.byteAt_eq_none hu⟩

end

/-- Stores performed everywhere in a byte's unit are not read of it any more. -/
theorem readByte_dropUnits_in {bs : List (Nat × Byte)} {j : Nat} (h : inUnits bs j = true) (mem : List (Nat × Byte)) (a : Agent)
    (ps : List Pending) : readByte mem a (dropUnits ps bs) j = memGet mem j := by
  have hn : ∀ p ∈ dropUnits ps bs, inUnits p.bytes j = false := by
    intro p hp
    obtain ⟨q, -, rfl⟩ := List.mem_map.mp (List.mem_filter.mp hp).1
    by_contra hu
    obtain ⟨b, hb, hbu⟩ := (inUnits_iff _ j).mp (by simpa using hu)
    have hb' := (List.mem_filter.mp hb).2
    simp [inUnits_congr bs hbu, h] at hb'
  rw [readByte, readSeen_eq, shownIn, findSome?_dropWhile _ fun p hp _ => Pending.byteAt_eq_none (hn p (by simpa using hp)),
    List.findSome?_eq_none_iff.mpr fun p hp => Pending.byteAt_eq_none (hn p (by simpa using hp))]
  rfl

/-- A write at every scope (R277): its bytes are what it wrote; every other byte of a unit that it writes to is what the last store of
it wrote; all others read as before. -/
theorem readByte_writeThrough {s : State} (bs : List (Nat × Byte)) (a : Agent) (j : Nat) (h : Memory.wf s.mem) :
    readByte (writeThrough s bs).mem a (writeThrough s bs).stores j =
      if khas bs j then kget 0 bs j else if inUnits bs j then latest s j else readByte s.mem a s.stores j := by
  have hm : memGet (writeThrough s bs).mem j = if khas bs j then kget 0 bs j else if inUnits bs j then latest s j else memGet s.mem j := by
    rw [writeThrough, memGet_memPutAll _ _ (settleUnits_wf bs _ h), memGet_settleUnits _ _ _ h, latest_eq]
  by_cases hu : inUnits bs j = true
  · rw [show (writeThrough s bs).stores = dropUnits s.stores bs from rfl, readByte_dropUnits_in hu, hm]
    simp [hu]
  · have hu : inUnits bs j = false := by simpa using hu
    have hk : ¬ khas bs j = true := fun hk => by simp [inUnits_of_khas hk] at hu
    rw [if_neg hk, if_neg (by simp [hu]), show (writeThrough s bs).stores = dropUnits s.stores bs from rfl, readByte_dropUnits hu, readByte,
      readByte, readSeen_eq, readSeen_eq, hm, if_neg hk, if_neg (by simp [hu])]

/-! ## Bytes keyed from a key upward -/

theorem mem_keyed {k : Nat} {bs : List Byte} {p : Nat × Byte} : p ∈ keyed k bs ↔ ∃ i, ∃ h : i < bs.length, p = (k + i, bs[i]) := by
  simp only [keyed, List.mem_map]
  constructor
  · rintro ⟨q, hq, rfl⟩
    obtain ⟨i, hi, rfl⟩ := List.mem_iff_getElem.mp hq
    exact ⟨i, by simpa using hi, by simp⟩
  · rintro ⟨i, hi, rfl⟩
    exact ⟨(i, bs[i]), List.mem_iff_getElem.mpr ⟨i, by simpa using hi, by simp⟩, rfl⟩

theorem khas_keyed (k : Nat) (bs : List Byte) (j : Nat) : khas (keyed k bs) j = true ↔ k ≤ j ∧ j < k + bs.length := by
  rw [khas_iff_exists]
  constructor
  · rintro ⟨p, hp, rfl⟩
    obtain ⟨i, hi, rfl⟩ := mem_keyed.mp hp
    dsimp only; omega
  · rintro ⟨h1, h2⟩
    exact ⟨_, mem_keyed.mpr ⟨j - k, by omega, rfl⟩, by dsimp only; omega⟩

/-- The value of a key that is listed with one value only. -/
theorem kget_eq_of_forall_mem {κ α : Type} [DecidableEq κ] {d : α} {m : AMap κ α} {i : κ} {v : α} (hv : ∀ p ∈ m, p.1 = i → p.2 = v)
    (h : khas m i = true) : kget d m i = v := by
  induction m with
  | nil => simp [khas] at h
  | cons p m ih =>
    obtain ⟨hp, hm⟩ := List.forall_mem_cons.mp hv
    by_cases hi : p.1 = i
    · simp only [kget, if_pos hi, hp hi]
    · simp only [kget, if_neg hi]
      exact ih hm (by simpa [khas, hi] using h)

theorem kget_keyed {k : Nat} {bs : List Byte} {j : Nat} (h1 : k ≤ j) (h2 : j < k + bs.length) :
    kget 0 (keyed k bs) j = bs.getD (j - k) 0 := by
  refine kget_eq_of_forall_mem (fun p hp hj => ?_) ((khas_keyed k bs j).mpr ⟨h1, h2⟩)
  obtain ⟨i, hi, rfl⟩ := mem_keyed.mp hp
  obtain rfl : i = j - k := by dsimp only at hj; omega
  simp [hi]

theorem inUnits_keyed (k : Nat) (bs : List Byte) (j : Nat) : inUnits (keyed k bs) j = touches k bs.length j := by
  rw [Bool.eq_iff_iff, inUnits_iff]
  simp only [mem_keyed, touches, List.any_eq_true, List.mem_range, beq_iff_eq]
  exact ⟨by rintro ⟨_, ⟨i, hi, rfl⟩, hu⟩; exact ⟨i, hi, hu⟩, by rintro ⟨i, hi, hu⟩; exact ⟨_, ⟨i, hi, rfl⟩, hu⟩⟩

/-- A write of bytes from a key upward, at every scope, as every agent reads it. -/
theorem readByte_writeThrough_keyed {s : State} (k : Nat) (bs : List Byte) (a : Agent) (j : Nat) (h : Memory.wf s.mem) :
    readByte (writeThrough s (keyed k bs)).mem a (writeThrough s (keyed k bs)).stores j =
      if k ≤ j ∧ j < k + bs.length then bs.getD (j - k) 0 else if touches k bs.length j then latest s j
        else readByte s.mem a s.stores j := by
  rw [readByte_writeThrough _ a j h, inUnits_keyed]
  by_cases hk : k ≤ j ∧ j < k + bs.length
  · rw [if_pos hk, if_pos ((khas_keyed k bs j).mpr hk), kget_keyed hk.1 hk.2]
  · rw [if_neg hk, if_neg (hk ∘ (khas_keyed k bs j).mp)]

end Sys2Proof.Machine
end

section
/-! SUPPORT. What performing stores more widely leaves of the stores of the part (spec/18_memory_model.md R276, R277). -/

namespace Sys2Proof

theorem Scope.max_eq_system_iff (a b : Scope) : Scope.max a b = .system ↔ a = .system ∨ b = .system := by
  cases a <;> cases b <;> decide

theorem Scope.rank_le_max_left (a b : Scope) : a.rank ≤ (Scope.max a b).rank := by
  unfold Scope.max Scope.le; split <;> simp_all

theorem Scope.rank_le_max_right (a b : Scope) : b.rank ≤ (Scope.max a b).rank := by
  unfold Scope.max Scope.le; split
  · exact Nat.le_refl _
  next h => exact Nat.le_of_lt (by simpa using h)

namespace Machine

/-! ## One store -/

/-- Where a key names one element, replacing the first of that key replaces every one. -/
theorem replaceFirst_eq_map {α : Type} {f : α → Nat} {as : List α} (h : (as.map f).Nodup) (k : Nat) (g : α → α) :
    replaceFirst (fun x => f x == k) g as = as.map (fun x => if f x = k then g x else x) := by
  induction as with
  | nil => rfl
  | cons y as ih =>
    obtain ⟨hy, hs⟩ := List.nodup_cons.mp ((List.map_cons (f := f)).symm ▸ h)
    by_cases he : f y = k
    · have hm : as.map (fun x => if f x = k then g x else x) = as := by
        refine (List.map_congr_left fun x hx => if_neg fun hk => hy ?_).trans (List.map_id as)
        exact List.mem_map.mpr ⟨x, hx, hk.trans he.symm⟩
      simp [replaceFirst, he, hm]
    · simp [replaceFirst, he, ih hs]

theorem mem_dropUnits {ps : List Pending} {bs : List (Nat × Byte)} {q : Pending} :
    q ∈ dropUnits ps bs ↔ ∃ p ∈ ps, q = p.without bs ∧ (p.without bs).bytes ≠ [] := by
  simp only [dropUnits, List.mem_filter, List.mem_map, bne_iff_ne]
  exact ⟨by rintro ⟨⟨p, hp, rfl⟩, hb⟩; exact ⟨p, hp, rfl, hb⟩, by rintro ⟨p, hp, rfl, hb⟩; exact ⟨⟨p, hp, rfl⟩, hb⟩⟩

theorem dropUnits_ids_sublist (ps : List Pending) (bs : List (Nat × Byte)) :
    ((dropUnits ps bs).map Pending.id).Sublist (ps.map Pending.id) := by
  have h := (List.filter_sublist (p := fun p : Pending => p.bytes != []) (l := ps.map (fun p => p.without bs))).map Pending.id
  rwa [List.map_map] at h

/-- A store that has no byte in the units of some bytes stays whole. -/
theorem mem_dropUnits_of_disjoint {ps : List Pending} {bs : List (Nat × Byte)} {p : Pending} (hp : p ∈ ps) (hb : p.bytes ≠ [])
    (hd : ∀ b ∈ p.bytes, inUnits bs b.1 = false) : p ∈ dropUnits ps bs := by
  have hw : p.without bs = p := by
    have : p.bytes.filter (fun q => !inUnits bs q.1) = p.bytes := List.filter_eq_self.mpr fun b hbm => by simp [hd b hbm]
    rw [Pending.without, this]
  exact mem_dropUnits.mpr ⟨p, hp, hw.symm, by rw [hw]; exact hb⟩

/-- What performing one store more widely comes to: no store has the number; the store stands with its wider scope; or at system scope it is
in memory, with what came before it in its units. -/
theorem widenOne_cases (s : State) (id : Nat) (sc : Scope) :
    ((∀ p ∈ s.stores, p.id ≠ id) ∧ widenOne s id sc = s) ∨
    ∃ before p after, s.stores = before ++ p :: after ∧ p.id = id ∧ (∀ q ∈ before, q.id ≠ id) ∧
      ((Scope.max p.scope sc ≠ .system ∧
          (widenOne s id sc).stores = before ++ { p with scope := Scope.max p.scope sc } :: after) ∨
       (Scope.max p.scope sc = .system ∧ (widenOne s id sc).stores = dropUnits before p.bytes ++ after)) := by
  cases hf : s.stores.find? (fun p => p.id == id) with
  | none => exact .inl ⟨by simpa using hf, by simp [widenOne, hf]⟩
  | some p =>
    obtain ⟨hp, before, after, hs, hb⟩ := List.find?_eq_some_iff_append.mp hf
    have hb' : ∀ q ∈ before, q.id ≠ id := by simpa using hb
    have hp' : p.id = id := by simpa using hp
    refine .inr ⟨before, p, after, hs, hp', hb', ?_⟩
    by_cases hsys : Scope.max p.scope sc = .system
    · refine .inr ⟨hsys, ?_⟩
      have htw : s.stores.takeWhile (fun q => q.id != id) = before := by
        rw [hs, List.takeWhile_append_of_pos (by simpa using hb'), List.takeWhile_cons_of_neg (by simp [hp']), List.append_nil]
      have hdw : s.stores.dropWhile (fun q => q.id != id) = p :: after := by
        rw [hs, List.dropWhile_append_of_pos (by simpa using hb'), List.dropWhile_cons_of_neg (by simp [hp'])]
      simp [widenOne, hf, hsys, htw, hdw]
    · refine .inl ⟨hsys, ?_⟩
      rw [widenOne, hf]
      dsimp only
      rw [if_neg hsys]
      dsimp only
      rw [hs, replaceFirst_append _ _ (by simpa using hb') (by simpa using hp')]

/-- Of the stores that stand after one is performed more widely, each is one that stood, with no more bytes and the scope it had or the wider
one. -/
theorem mem_widenOne {s : State} {id : Nat} {sc : Scope} {q : Pending} (hq : q ∈ (widenOne s id sc).stores) :
    ∃ p ∈ s.stores, p.id = q.id ∧ (∀ b ∈ q.bytes, b ∈ p.bytes) ∧ (q.scope = p.scope ∨ q.scope = Scope.max p.scope sc) := by
  rcases widenOne_cases s id sc with ⟨-, h⟩ | ⟨before, p, after, hs, -, -, ⟨-, h⟩ | ⟨-, h⟩⟩ <;> rw [h] at hq
  · exact ⟨q, hq, rfl, fun _ hb => hb, .inl rfl⟩
  · rw [hs]
    rcases List.mem_append.mp hq with hq | hq
    · exact ⟨q, List.mem_append_left _ hq, rfl, fun _ hb => hb, .inl rfl⟩
    rcases List.mem_cons.mp hq with rfl | hq
    · exact ⟨p, by simp, rfl, fun _ hb => hb, .inr rfl⟩
    · exact ⟨q, by simp [hq], rfl, fun _ hb => hb, .inl rfl⟩
  · rw [hs]
    rcases List.mem_append.mp hq with hq | hq
    · obtain ⟨r, hr, rfl, -⟩ := mem_dropUnits.mp hq
      exact ⟨r, List.mem_append_left _ hr, rfl, fun b hb => (List.mem_filter.mp hb).1, .inl rfl⟩
    · exact ⟨q, by simp [hq], rfl, fun _ hb => hb, .inl rfl⟩

theorem widenOne_ids_sublist (s : State) (id : Nat) (sc : Scope) :
    ((widenOne s id sc).stores.map Pending.id).Sublist (s.stores.map Pending.id) := by
  rcases widenOne_cases s id sc with ⟨-, h⟩ | ⟨before, p, after, hs, -, -, ⟨-, h⟩ | ⟨-, h⟩⟩ <;> rw [h]
  · simp [hs]
  · simp only [hs, List.map_append, List.map_cons]
    exact (dropUnits_ids_sublist before p.bytes).append (List.sublist_cons_self ..)

/-- A store that is performed at a scope is in memory or has that scope. -/
theorem widenOne_rank {s : State} {id : Nat} {sc : Scope} (hn : (s.stores.map Pending.id).Nodup) {q : Pending}
    (hq : q ∈ (widenOne s id sc).stores) (hid : q.id = id) : sc.rank ≤ q.scope.rank := by
  rcases widenOne_cases s id sc with ⟨ha, h⟩ | ⟨before, p, after, hs, hp, hb, h⟩
  · rw [h] at hq; exact absurd hid (ha q hq)
  rw [hs, List.map_append, List.map_cons, List.nodup_middle, List.nodup_cons, ← List.map_append, hp, List.mem_map] at hn
  have hother : q ∉ before ++ after := fun h => hn.1 ⟨q, h, hid⟩
  rw [List.mem_append, not_or] at hother
  rcases h with ⟨-, h⟩ | ⟨-, h⟩ <;> rw [h] at hq
  · rcases List.mem_append.mp hq with hq | hq
    · exact absurd hq hother.1
    rcases List.mem_cons.mp hq with rfl | hq
    · exact Scope.rank_le_max_right ..
    · exact absurd hq hother.2
  · rcases List.mem_append.mp hq with hq | hq
    · obtain ⟨r, hr, rfl, -⟩ := mem_dropUnits.mp hq
      exact absurd hid (hb r hr)
    · exact absurd hq hother.2

/-- A store does not reach memory with another: neither that one nor the scope it is performed at is the system's, or they have no
unit in common (R277). -/
def StaysBeside (sc : Scope) (q p : Pending) : Prop :=
  (sc ≠ .system ∧ q.scope ≠ .system) ∨ (p.bytes ≠ [] ∧ ∀ b ∈ p.bytes, inUnits q.bytes b.1 = false)

theorem mem_widenOne_of_staysBeside {s : State} {id : Nat} {sc : Scope} {p : Pending} (hp : p ∈ s.stores) (hid : p.id ≠ id)
    (h : ∀ q ∈ s.stores, q.id = id → StaysBeside sc q p) : p ∈ (widenOne s id sc).stores := by
  rcases widenOne_cases s id sc with ⟨-, he⟩ | ⟨before, q, after, hs, hq, -, hw⟩
  · rwa [he]
  have hqs : StaysBeside sc q p := h q (by simp [hs]) hq
  rw [hs] at hp
  have hne : p ≠ q := fun he => hid (he ▸ hq)
  rcases hw with ⟨-, he⟩ | ⟨hsys, he⟩ <;> rw [he]
  · simp only [List.mem_append, List.mem_cons, hne, false_or] at hp ⊢
    exact hp.imp_right .inr
  · rcases hqs with ⟨h1, h2⟩ | ⟨hb, hd⟩
    · exact absurd ((Scope.max_eq_system_iff ..).mp hsys) (not_or.mpr ⟨h2, h1⟩)
    · simp only [List.mem_append, List.mem_cons, hne, false_or] at hp ⊢
      exact hp.imp_left fun hp => mem_dropUnits_of_disjoint hp hb hd

/-- A store below system scope that is performed more widely, below system scope, stands at the wider of the two. -/
theorem mem_widenOne_widened {s : State} {sc : Scope} {p : Pending} (hn : (s.stores.map Pending.id).Nodup) (hp : p ∈ s.stores)
    (h1 : sc ≠ .system) (h2 : p.scope ≠ .system) : { p with scope := Scope.max p.scope sc } ∈ (widenOne s p.id sc).stores := by
  rcases widenOne_cases s p.id sc with ⟨ha, -⟩ | ⟨before, q, after, hs, hq, -, hw⟩
  · exact absurd rfl (ha p hp)
  obtain rfl : q = p := List.inj_on_of_nodup_map hn (by simp [hs]) hp hq
  rcases hw with ⟨-, he⟩ | ⟨hsys, -⟩
  · simp [he]
  · exact absurd ((Scope.max_eq_system_iff ..).mp hsys) (not_or.mpr ⟨h2, h1⟩)

/-! ## Stores one after another -/

/-- Stores of some numbers performed at a scope, one after another. -/
def widenList (s : State) (ks : List Nat) (sc : Scope) : State := ks.foldl (fun s id => widenOne s id sc) s

theorem widenList_ids_sublist (ks : List Nat) (s : State) (sc : Scope) :
    ((widenList s ks sc).stores.map Pending.id).Sublist (s.stores.map Pending.id) := by
  induction ks generalizing s with
  | nil => exact .refl _
  | cons k ks ih => exact (ih _).trans (widenOne_ids_sublist ..)

theorem mem_widenList {ks : List Nat} {s : State} {sc : Scope} {q : Pending} (hq : q ∈ (widenList s ks sc).stores) :
    ∃ p ∈ s.stores, p.id = q.id ∧ p.scope.rank ≤ q.scope.rank := by
  induction ks generalizing s with
  | nil => exact ⟨q, hq, rfl, Nat.le_refl _⟩
  | cons k ks ih =>
    obtain ⟨r, hr, hrq, hle⟩ := ih hq
    obtain ⟨p, hp, hpr, -, hsc⟩ := mem_widenOne hr
    have hle' : p.scope.rank ≤ r.scope.rank := by
      rcases hsc with h | h <;> rw [h]
      exact Scope.rank_le_max_left ..
    exact ⟨p, hp, hpr.trans hrq, hle'.trans hle⟩

theorem widenList_rank {ks : List Nat} {s : State} {sc : Scope} (hn : (s.stores.map Pending.id).Nodup) {q : Pending}
    (hq : q ∈ (widenList s ks sc).stores) (hid : q.id ∈ ks) : sc.rank ≤ q.scope.rank := by
  induction ks generalizing s with
  | nil => simp at hid
  | cons k ks ih =>
    by_cases hk : q.id ∈ ks
    · exact ih ((widenOne_ids_sublist s k sc).nodup hn) hq hk
    · obtain ⟨p, hp, hpq, hle⟩ := mem_widenList (s := widenOne s k sc) hq
      have hpk : p.id = k := hpq.trans ((List.mem_cons.mp hid).resolve_right hk)
      exact (widenOne_rank hn hp hpk).trans hle

theorem StaysBeside.of_mem_widenOne {s : State} {id : Nat} {sc : Scope} {p q : Pending} (hq : q ∈ (widenOne s id sc).stores)
    (h : ∀ r ∈ s.stores, r.id = q.id → StaysBeside sc r p) : StaysBeside sc q p := by
  obtain ⟨r, hr, hrq, hb, hsc⟩ := mem_widenOne hq
  refine (h r hr hrq).imp (fun ⟨h1, h2⟩ => ⟨h1, ?_⟩) (fun ⟨h1, h2⟩ => ⟨h1, fun b hbp => ?_⟩)
  · rcases hsc with h | h <;> rw [h]
    · exact h2
    · exact fun h => ((Scope.max_eq_system_iff ..).mp h).elim h2 h1
  · rw [Bool.eq_false_iff]
    intro hu
    obtain ⟨c, hc, hcu⟩ := (inUnits_iff _ _).mp hu
    exact Bool.eq_false_iff.mp (h2 b hbp) ((inUnits_iff _ _).mpr ⟨c, hb c hc, hcu⟩)

theorem mem_widenList_of_staysBeside {ks : List Nat} {s : State} {sc : Scope} {p : Pending} (hp : p ∈ s.stores) (hid : p.id ∉ ks)
    (h : ∀ q ∈ s.stores, q.id ∈ ks → StaysBeside sc q p) : p ∈ (widenList s ks sc).stores := by
  induction ks generalizing s with
  | nil => exact hp
  | cons k ks ih =>
    obtain ⟨hk, hks⟩ := List.ne_and_not_mem_of_not_mem_cons hid
    refine ih (mem_widenOne_of_staysBeside hp hk fun q hq he => h q hq (by simp [he])) hks fun q hq hqk => ?_
    exact .of_mem_widenOne hq fun r hr he => h r hr (by simp [he, hqk])

/-! ## The stores of some numbers (R277) -/

theorem widenIds_eq (s : State) (ids : List Nat) (sc : Scope) :
    widenIds s ids sc = widenList s ((s.stores.filter (fun p => ids.contains p.id)).map Pending.id) sc := rfl

/-- The numbers that are performed are those asked for that a store has. -/
theorem mem_widenIds_ids {s : State} {ids : List Nat} {k : Nat} :
    k ∈ (s.stores.filter (fun p => ids.contains p.id)).map Pending.id ↔ k ∈ ids ∧ ∃ p ∈ s.stores, p.id = k := by
  simp only [List.mem_map, List.mem_filter, List.contains_iff_mem]
  exact ⟨by rintro ⟨p, ⟨hp, hi⟩, rfl⟩; exact ⟨hi, p, hp, rfl⟩, by rintro ⟨hi, p, hp, rfl⟩; exact ⟨p, ⟨hp, hi⟩, rfl⟩⟩

/-- The stores asked for are in memory or have the scope. -/
theorem widenIds_rank {s : State} {ids : List Nat} {sc : Scope} (hn : (s.stores.map Pending.id).Nodup) {p : Pending}
    (hp : p ∈ (widenIds s ids sc).stores) (hid : p.id ∈ ids) : sc.rank ≤ p.scope.rank := by
  obtain ⟨q, hq, hqp, -⟩ := mem_widenList hp
  exact widenList_rank hn hp (mem_widenIds_ids.mpr ⟨hid, q, hq, hqp⟩)

/-- Below system scope the other stores stay as they are. -/
theorem mem_widenIds_of_not_system {s : State} {ids : List Nat} {sc : Scope} (hsc : sc ≠ .system)
    (hall : ∀ q ∈ s.stores, q.scope ≠ .system) {p : Pending} (hp : p ∈ s.stores) (hid : p.id ∉ ids) : p ∈ (widenIds s ids sc).stores :=
  mem_widenList_of_staysBeside hp (fun h => hid (mem_widenIds_ids.mp h).1) fun q hq _ => .inl ⟨hsc, hall q hq⟩

/-- A store that has no unit in common with those performed stays as it is. -/
theorem mem_widenIds_of_disjoint {s : State} {ids : List Nat} {sc : Scope} {p : Pending} (hp : p ∈ s.stores) (hid : p.id ∉ ids)
    (hb : p.bytes ≠ []) (hd : ∀ q ∈ s.stores, q.id ∈ ids → ∀ b ∈ p.bytes, inUnits q.bytes b.1 = false) :
    p ∈ (widenIds s ids sc).stores :=
  mem_widenList_of_staysBeside hp (fun h => hid (mem_widenIds_ids.mp h).1)
    fun q hq hk => .inr ⟨hb, hd q hq (mem_widenIds_ids.mp hk).1⟩

end Machine
end Sys2Proof
end

section
/-! SUPPORT. One step of the part (log 1): the instruction chosen, else the next entry of the agenda: Obligations.StepRunsDecodedInstruction. -/

namespace Sys2Proof.Machine

/-! ## Time (R337, R352) -/

/-- Only the clock, the cycle counts of the regions and what their controllers measure may differ. -/
def TimeOnly (now : Nat) (s t : State) : Prop := ∃ regions win, t = { s with now := now, regions := regions, win := win }

theorem passTime_timeOnly (dt : Nat) (s : State) : TimeOnly (s.now + dt) s (passTime dt s) := by
  unfold passTime
  split
  next h => exact ⟨s.regions, s.win, by rw [h]; rfl⟩
  next =>
    refine List.foldlRecOn (motive := TimeOnly (s.now + dt) s) _ _ ⟨s.regions, s.win, rfl⟩ fun t ht p _ => ?_
    split
    · refine List.foldlRecOn (motive := TimeOnly (s.now + dt) s) _ _ ht ?_
      rintro _ ⟨_, _, rfl⟩ r _
      exact ⟨_, _, rfl⟩
    · exact ht

/-! ## The agenda's other entries -/

theorem storedKeys_memory (s : State) (k n : Nat) : (storedKeys s k n).mem = s.mem ∧ (storedKeys s k n).stores = s.stores := by
  have hst (t : State) (c va m : Nat) : (stored t c va m).mem = t.mem ∧ (stored t c va m).stores = t.stores := by
    unfold stored; split <;> exact ⟨rfl, rfl⟩
  refine List.foldlRecOn (motive := fun t : State => t.mem = s.mem ∧ t.stores = s.stores) _ _ ⟨rfl, rfl⟩ fun t ht r _ => ?_
  refine List.foldlRecOn (motive := fun t : State => t.mem = s.mem ∧ t.stores = s.stores) _ _ ht fun t ht p _ => ?_
  dsimp only
  split
  · split
    · exact ⟨(hst ..).1.trans ht.1, (hst ..).2.trans ht.2⟩
    · exact ht
  · exact ht

/-- A write from outside, as every agent reads it. -/
theorem readByte_applyPoke {s : State} (k : Nat) (bs : List Byte) (a : Agent) (j : Nat) (h : Memory.wf s.mem) :
    readByte (applyPoke s k bs).mem a (applyPoke s k bs).stores j =
      if k ≤ j ∧ j < k + bs.length then bs.getD (j - k) 0 else if touches k bs.length j then latest s j
        else readByte s.mem a s.stores j := by
  obtain ⟨hm, hs⟩ := storedKeys_memory (writeThrough s (keyed k bs)) k bs.length
  rw [applyPoke, hm, hs, readByte_writeThrough_keyed k bs a j h]

/-- A peer's write sets stamps besides. -/
theorem applyPeerWrite_memory (s : State) (c k : Nat) (bs : List Byte) :
    (applyPeerWrite s c k bs).mem = (applyPoke s k bs).mem ∧ (applyPeerWrite s c k bs).stores = (applyPoke s k bs).stores := by
  unfold applyPeerWrite
  dsimp only
  split <;> exact ⟨rfl, rfl⟩

/-- A line that decays is listed as bad; a copy of the mirror may be lost with it, and nothing else of memory changes. -/
theorem badLine_spec (s : State) (line reg bank : Nat) :
    ∃ mirror oracle, badLine s line reg bank =
      { s with badLines := kset s.badLines line (reg, bank), mirror := mirror, oracle := oracle } := by
  have hc (t : State) : ∃ oracle, t.choose.2 = { t with oracle := oracle } := by
    unfold State.choose; split <;> exact ⟨_, rfl⟩
  unfold badLine
  dsimp only
  split
  · exact ⟨_, _, rfl⟩
  · unfold hurtMirror
    dsimp only
    split
    · exact ⟨_, _, rfl⟩
    · obtain ⟨o, ho⟩ := hc { s with badLines := kset s.badLines line (reg, bank) }
      rw [ho]
      exact ⟨_, _, rfl⟩

/-! ## One step -/

theorem step_of_latched {s : State} (h : s.latched = true) :
    (∀ t i, decodeSlot ((s.elem s.cur).slotWord s.curSlot) = .ok (t, i) →
      step s = mirrored s (exec i { s with latched := false })) ∧
    (∀ r, decodeSlot ((s.elem s.cur).slotWord s.curSlot) = .error r → step s = .refused .notAnInstruction) := by
  have hf : fetchSlot s = decodeSlot ((s.elem s.cur).slotWord s.curSlot) := rfl
  constructor
  · intro t i hd
    rw [step, if_pos h, hf, hd]; rfl
  · intro r hd
    rw [step, if_pos h, hf, hd]

/-- What an entry of the agenda does to the part u as it stands after its time; s is the part before it. -/
def runEntry (s u : State) : Agenda → Out
  | .step i => mirrored s (exec i u)
  | .widen id sc => .next (widenOne u id sc)
  | .poke k bs => .next (applyPoke u k bs)
  | .peerWrite c k bs => .next (applyPeerWrite u c k bs)
  | .decay line reg bank => .next (badLine u line reg bank)

theorem step_of_agenda {s : State} {dt : Nat} {a : Agenda} {rest : List (Nat × Agenda)} (h : s.latched = false)
    (ha : s.agenda = (dt, a) :: rest) : step s = runEntry s (passTime dt { s with agenda := rest }) a := by
  rw [step, if_neg (by simp [h]), ha]
  cases a <;> rfl

theorem keepMirror_spec (s t : State) : ∃ m, keepMirror s t = { t with mirror := m } ∧ (t.leads = false → m = t.mirror) := by
  unfold keepMirror
  split
  next h => exact ⟨_, rfl, fun hl => by simp [h] at hl⟩
  next => exact ⟨t.mirror, rfl, fun _ => rfl⟩

theorem fetchSlot_withFetchWord (s : State) (nbits w : Nat) :
    fetchSlot (s.withFetchWord nbits w) = decodeSlot (BitVec.ofNat 64 (w % 2 ^ nbits)) := by
  have h : (s.withFetchWord nbits w).curElem = { s.elem s.cur with slots := kset (s.elem s.cur).slots 0 (BitVec.ofNat 64 (w % 2 ^ nbits)) } :=
    kget_kset_self ..
  rw [fetchSlot, h]
  exact congrArg decodeSlot (kget_kset_self ..)

/-- Settles O3: the chosen slot's instruction, else the agenda's entry after its time; what an entry does to memory is what its write or its
wider scope does to the part as it then stands, whose memory is the same. -/
theorem stepRunsDecodedInstruction : Obligations.StepRunsDecodedInstruction := by
  intro s
  refine ⟨step_of_latched, fun hl => ⟨fun ha => ?_, fun dt a rest ha => ?_⟩, fun t => ?_, fun x hx => ?_, fun nbits w _ =>
    ⟨rfl, fetchSlot_withFetchWord s nbits w⟩⟩
  · rw [step, if_neg (by simp [hl]), ha]
  · have hstep := step_of_agenda hl ha
    obtain ⟨_, _, hu⟩ := passTime_timeOnly dt { s with agenda := rest }
    generalize passTime dt { s with agenda := rest } = u at hu hstep
    subst hu
    refine ⟨_, rfl, rfl, rfl, rfl, rfl, rfl, ?_, ?_, ?_, ?_, ?_⟩
    · rintro i rfl; exact hstep
    · rintro id sc rfl
      exact ⟨_, hstep, fun p hp hn hid h1 h2 => hid ▸ mem_widenOne_widened hn hp h1 h2⟩
    · rintro k bs rfl hw
      exact ⟨_, hstep, fun g j => readByte_applyPoke k bs g j hw⟩
    · rintro c k bs rfl hw
      refine ⟨_, hstep, fun g j => ?_⟩
      rw [(applyPeerWrite_memory ..).1, (applyPeerWrite_memory ..).2]
      exact readByte_applyPoke k bs g j hw
    · rintro l r b rfl
      refine ⟨_, hstep, ?_⟩
      obtain ⟨_, _, hb⟩ := badLine_spec _ l r b
      rw [hb]
      exact ⟨fun _ _ => rfl, kget_kset_self ..⟩
  · obtain ⟨m, hm, hl⟩ := keepMirror_spec s t
    exact ⟨m, hm, rfl, hl⟩
  · cases x with
    | next t => exact absurd rfl (hx t)
    | fault r => rfl
    | refused r => rfl

end Sys2Proof.Machine
end

section
/-! SUPPORT. What a read of an instruction's sources gives and takes (spec/03_element_and_word.md R42, R46, R47):
Obligations.SourcesAreRead. -/

namespace Sys2Proof.Machine

/-! ## Channels (R35) -/

theorem Elem.chan_popIn (x : Elem) (c k : Nat) : (x.popIn c).chan k = if c = k then (x.chan k).drop 1 else x.chan k := by
  rw [Elem.popIn, Elem.chan, kget_kset]
  split
  next h => rw [h]
  next => rfl

theorem chanOf_eq_some {code : BitVec 4} {c : Nat} : chanOf code = some c ↔ 8 ≤ code.toNat ∧ code.toNat ≤ 12 ∧ c = code.toNat - 8 := by
  unfold chanOf
  split
  next h => rw [Option.some_inj]; exact ⟨fun hc => ⟨h.1, h.2, hc.symm⟩, fun hc => hc.2.2.symm⟩
  next h => exact ⟨by simp, fun hc => absurd ⟨hc.1, hc.2.1⟩ h⟩

theorem chanOf_inj {a b : BitVec 4} {c : Nat} (ha : chanOf a = some c) (hb : chanOf b = some c) : a = b := by
  obtain ⟨ha1, -, ha3⟩ := chanOf_eq_some.mp ha
  obtain ⟨hb1, -, hb3⟩ := chanOf_eq_some.mp hb
  exact BitVec.eq_of_toNat_eq (by omega)

/-! ## One source -/

/-- What a source gives is its word and its flag; its token is the head of the channel that it names. -/
theorem readSrc_eq (x : Elem) (coord : Word) (code : BitVec 4) :
    readSrc x coord code = ((sourceValue x coord code).1, (sourceValue x coord code).2,
      (chanOf code).bind (fun c => (x.chan c).head?.map (fun t => (c, t)))) := by
  unfold readSrc sourceValue
  cases hc : chanOf code with
  | some c =>
    obtain ⟨h1, h2, rfl⟩ := chanOf_eq_some.mp hc
    simp only [if_neg (by omega : ¬ code.toNat < 8), if_pos (by omega : code.toNat < 13)]
    cases hx : x.chan (code.toNat - 8) <;> simp [hx]
  | none =>
    have h13 : ¬ code.toNat < 8 → ¬ code.toNat < 13 := fun h h' => by simp [chanOf] at hc; omega
    by_cases h8 : code.toNat < 8
    · simp [h8]
    · by_cases h14 : code = 14
      · simp [h14]
      · simp only [if_neg h8, if_neg (h13 h8), if_neg h14]; rfl

/-- The tokens a source takes, with their channel: the head of the channel that it names, if it does not peek. -/
def srcPops (x : Elem) (code : BitVec 4) (peek : Bool) : List (Nat × Token) :=
  if peek then [] else ((chanOf code).bind (fun c => (x.chan c).head?.map (fun t => (c, t)))).toList

/-- Tokens taken from an element, each from the head of its channel. -/
def popAll (x : Elem) (ps : List (Nat × Token)) : Elem := ps.foldl (fun x p => x.popIn p.1) x

theorem popAll_inp (ps : List (Nat × Token)) (x : Elem) : { popAll x ps with inp := x.inp } = x := by
  have h : ∃ inp : KMap (List Token), popAll x ps = { x with inp := inp } := by
    refine List.foldlRecOn (motive := fun y : Elem => ∃ inp : KMap (List Token), y = { x with inp := inp }) ps _ ⟨x.inp, rfl⟩ ?_
    rintro _ ⟨_, rfl⟩ p _
    exact ⟨_, rfl⟩
  obtain ⟨_, h⟩ := h
  rw [h]

/-- After a source's tokens are taken, the channel that it takes from has lost its head, and every other stands as it was. -/
theorem chan_popAll_srcPops (x y : Elem) (code : BitVec 4) (peek : Bool) (c : Nat)
    (h : ∀ k, chanOf code = some k → y.chan k = x.chan k) :
    (popAll y (srcPops x code peek)).chan c = if takes code peek c then (y.chan c).drop 1 else y.chan c := by
  unfold srcPops takes
  cases peek with
  | true => simp [popAll]
  | false =>
    cases hk : chanOf code with
    | none => simp [popAll]
    | some k =>
      cases hx : x.chan k with
      | nil =>
        by_cases hkc : k = c
        · have hy : y.chan c = [] := by rw [← hkc, h k hk, hx]
          simp [popAll, hx, hy]
        · simp [popAll, hx, hkc]
      | cons t ts => simp [popAll, hx, Elem.chan_popIn]

/-! ## Both sources -/

/-- The tokens that both sources take: of one channel named twice, its head once (log 16). -/
def bothPops (x : Elem) (sa sb : BitVec 4) (pa pb : Bool) : List (Nat × Token) :=
  if sa = sb ∧ (chanOf sa).isSome then (if srcPops x sa pa = [] then srcPops x sb pb else srcPops x sa pa)
  else srcPops x sa pa ++ srcPops x sb pb

theorem fetch_eq_got {x : Elem} {t : Trigger} {sa sb : BitVec 4} (coord : Word) (dst : BitVec 4) (pa pb : Bool)
    (ha : srcState x t sa = 0) (hb : srcState x t sb = 0) :
    fetch x t coord dst sa sb pa pb = .got
      ⟨(sourceValue x coord sa).1, (sourceValue x coord sb).1, if dst.toNat < 8 then x.dreg dst.toNat else 0,
        (sourceValue x coord sa).2, (sourceValue x coord sb).2, if dst.toNat < 8 then x.dflag dst.toNat else false⟩
      (bothPops x sa sb pa pb) (popAll x (bothPops x sa sb pa pb)) := by
  unfold fetch
  rw [if_neg (by simp [ha, hb]), if_neg (by simp [ha, hb])]
  simp only [readSrc_eq]
  rfl

theorem bothPops_same (x : Elem) {code : BitVec 4} (pa pb : Bool) (h : (chanOf code).isSome) :
    bothPops x code code pa pb = srcPops x code (pa && pb) := by
  rw [bothPops, if_pos ⟨rfl, h⟩]
  cases pa <;> cases pb <;> simp [srcPops]

/-- Each channel that a source names without peeking loses its head, once. -/
theorem chan_popAll_bothPops (x : Elem) (sa sb : BitVec 4) (pa pb : Bool) (c : Nat) :
    (popAll x (bothPops x sa sb pa pb)).chan c = if takes sa pa c || takes sb pb c then (x.chan c).drop 1 else x.chan c := by
  by_cases hs : sa = sb ∧ (chanOf sa).isSome
  · obtain ⟨rfl, hk⟩ := hs
    rw [bothPops_same x pa pb hk, chan_popAll_srcPops x x sa (pa && pb) c fun _ _ => rfl]
    cases pa <;> cases pb <;> simp [takes]
  · have hne (k : Nat) (hb : chanOf sb = some k) : takes sa pa k = false := by
      by_contra ha
      simp only [takes, Bool.and_eq_true, beq_iff_eq, Bool.not_eq_false] at ha
      exact hs ⟨chanOf_inj ha.2 hb, by simp [ha.2]⟩
    have ha (k : Nat) := chan_popAll_srcPops x x sa pa k fun _ _ => rfl
    rw [bothPops, if_neg hs, popAll, List.foldl_append, ← popAll, ← popAll, chan_popAll_srcPops x _ sb pb c, ha c]
    · cases hb : takes sb pb c with
      | true => simp [hne c (by simp_all [takes])]
      | false => simp
    · intro k hk
      rw [ha k, hne k hk]; rfl

/-- Settles O6: the sources that can be read are read, by the lemmas on one source and on what both take. -/
theorem sourcesAreRead : Obligations.SourcesAreRead := by
  intro s dst sa sb pa pb ha hb hr
  refine ⟨_, _, _, ⟨hr, fetch_eq_got _ dst pa pb ha hb⟩, rfl, rfl, fun hd => ⟨if_pos hd, if_pos hd⟩, chan_popAll_bothPops _ sa sb pa pb,
    popAll_inp _ _⟩

end Sys2Proof.Machine
end

section
/-! SUPPORT. A precise trap whose record does not show the second value it was given: Obligations.TrapEntryAndOperandWait fails. -/

namespace Sys2Proof.Machine

/-- What the graph's record shows of a precise trap that is its first fault. -/
theorem trapAt_fault {s : State} {e : ERef} (h : (s.graph (s.inst e.inst).graph).fault = none) (slot cause : Nat) (hd : Word) (addr : Nat)
    (i j : Word) : ((trapAt s e slot cause hd addr i j).graph (s.inst e.inst).graph).fault =
      some (faultAt s e slot 0 true cause hd addr i j).shown := by
  have hn (t : State) (c : Nat) (a b : Word) : (noteFault t c a b).graphs = t.graphs := by
    unfold noteFault; dsimp only; split <;> rfl
  have hg (g : Nat) : (noteFault (s.modElem e fun x => { x with trapped := true, dp := .idle }) cause i j).graph g = s.graph g := by
    rw [State.graph, hn]; rfl
  rw [trapAt, raiseFault, State.graph_modGraph, if_pos rfl, faultAt, hg, h]

/-- Refutes O9: of a trap with cause 0x0E0 (an access that ECC could not correct) the record shows the bank alone in INFO2 (R349), the second
value's bits [7:0]. At reset, a trap with 0x0E0 and the second value 0x100 is the graph's first fault, and its record's INFO2 is 0. -/
theorem not_trapEntryAndOperandWait : ¬ Obligations.TrapEntryAndOperandWait := by
  rintro ⟨-, h⟩
  have hnone : (State.reset.graph (State.reset.inst 0).graph).fault = none := rfl
  obtain ⟨-, -, -, -, ⟨r, -, -, -, -, -, -, -, -, hinfo2, -, -, hfault, -⟩, -⟩ := h State.reset ⟨0, 0, 0⟩ 0 0x0E0 0 0 0 0x100
  have hshown := (trapAt_fault (e := ⟨0, 0, 0⟩) hnone 0 0x0E0 0 0 0 0x100).symm.trans (hfault hnone).1
  obtain rfl := Option.some.inj hshown
  exact absurd hinfo2 (by decide)

end Sys2Proof.Machine
end

section
/-! SUPPORT. The token network: routes take heads, tokens arrive, boundary nodes deliver (spec/03_element_and_word.md R36, R37, R369,
spec/18_memory_model.md R277, R280, R281): Obligations.TokenNetworkResults. -/

namespace Sys2Proof.Machine

/-! ## Acquires (R280, R289) -/

theorem kget_maxAcq (a : KMap Nat) (y n x : Nat) :
    kget 0 (maxAcq a y n) x = if y = x then max (kget 0 a y) n else kget 0 a x := kget_kset ..

theorem le_foldl_maxAcq (ps : KMap Nat) (a : KMap Nat) (x : Nat) : kget 0 a x ≤ kget 0 (ps.foldl (fun a p => maxAcq a p.1 p.2) a) x := by
  refine List.foldlRecOn (motive := fun b => kget 0 a x ≤ kget 0 b x) ps _ (Nat.le_refl _) fun b hb p _ => hb.trans ?_
  rw [kget_maxAcq]
  split
  next h => rw [h]; exact Nat.le_max_left ..
  next => exact Nat.le_refl _

/-- A region that acquires a release has acquired its number. -/
theorem acquire_acquires (s : State) (x : Nat) (r : Release) : r.num ≤ kget 0 (kget [] (acquire s x r).acq x) r.reg := by
  have h : r.num ≤ kget 0 (maxAcq (kget [] s.acq x) r.reg r.num) r.reg := by
    rw [kget_maxAcq, if_pos rfl]; exact Nat.le_max_right ..
  rw [acquire, kget_kset_self]
  exact h.trans (le_foldl_maxAcq ..)

/-- An acquire leaves memory, the stages, and every element but for what happens before what its element does next. -/
structure Acquired (s : State) (e : ERef) (o : Option Release) (t : State) : Prop where
  mem : t.mem = s.mem
  stores : t.stores = s.stores
  insts : t.insts = s.insts
  elem : ∃ hb, t.elem e = { s.elem e with hb := hb }
  others : ∀ a, a ≠ e → t.elem a = s.elem a
  acquires : ∀ r, o = some r → r.num ≤ kget 0 (kget [] t.acq (s.physReg e.inst e.reg)) r.reg

theorem acquireOptAt_acquired (s : State) (e : ERef) (o : Option Release) : Acquired s e o (acquireOptAt s e o) := by
  cases o with
  | none => exact ⟨rfl, rfl, rfl, ⟨_, rfl⟩, fun _ _ => rfl, by simp⟩
  | some r =>
    refine ⟨rfl, rfl, rfl, ⟨_, State.elem_modElem_self ..⟩, fun a ha => State.elem_modElem_ne _ _ (Ne.symm ha), ?_⟩
    rintro _ ⟨⟩
    exact acquire_acquires ..

/-! ## Arrivals -/

/-- The oldest token on a wire arrives: it stands behind its channel's others, without its release, which its region has acquired. -/
theorem deliver_spec {s : State} {inst n : Nat} {tk : Token} {ts : List Token} (reg el c : Nat)
    (h : kget [] (s.inst inst).flight n = tk :: ts) :
    kget [] ((deliver s inst n reg el c).inst inst).flight n = ts ∧
    ((deliver s inst n reg el c).elem ⟨inst, reg, el⟩).chan c = (s.elem ⟨inst, reg, el⟩).chan c ++ [{ tk with rel := none }] ∧
    (∀ a, a ≠ ⟨inst, reg, el⟩ → (deliver s inst n reg el c).elem a = s.elem a) ∧
    (deliver s inst n reg el c).mem = s.mem ∧ (deliver s inst n reg el c).stores = s.stores ∧
    ∀ rel, tk.rel = some rel → rel.num ≤ kget 0 (kget [] (deliver s inst n reg el c).acq (s.physReg inst reg)) rel.reg := by
  unfold deliver
  simp only [h]
  set s1 := s.modInst inst fun i => { i with flight := kset i.flight n ts } with hs1
  have hi : s1.inst inst = { s.inst inst with flight := kset (s.inst inst).flight n ts } := by rw [hs1, State.inst_modInst, if_pos rfl]
  have hreg : s1.physReg inst reg = s.physReg inst reg := by simp only [State.physReg, State.physDie, hi]
  obtain ⟨hmem, hstores, hinsts, ⟨hb, helem⟩, hothers, hacq⟩ := acquireOptAt_acquired s1 ⟨inst, reg, el⟩ tk.rel
  refine ⟨?_, ?_, fun a ha => (State.elem_modElem_ne _ _ (Ne.symm ha)).trans (hothers a ha), hmem, hstores, fun rel hrel => ?_⟩
  · rw [show ∀ (t : State) (e : ERef) (f : Elem → Elem), (t.modElem e f).inst inst = t.inst inst from fun _ _ _ => rfl, State.inst, hinsts,
      ← State.inst, hi, kget_kset_self]
  · rw [State.elem_modElem_self, helem, Elem.chan, Elem.pushIn, kget_kset_self]
    rfl
  · have h := hacq rel hrel
    rwa [hreg] at h

/-! ## Routes (R36, R37) -/

theorem execRouteTokenTake_eq {s : State} {inst n : Nat} {r : RouteDecl} (h : (s.inst inst).img.routes[n]? = some r)
    (hr : (s.inst inst).status = .running) :
    execRouteTokenTake inst n s = when ((s.elem ⟨inst, r.srcReg, r.srcEl⟩).out r.outC != [] && !(s.inst inst).copied.contains n &&
      destRoom s inst r.dstReg r.dstEl r.inC) "ROUTE_TOKEN_TAKE" (takeRoute s inst n r) := by
  simp only [execRouteTokenTake, canTake, h, hr, beq_self_eq_true, Bool.and_true]

/-- The head of an output channel taken by one of its routes: it is in flight there with the route's tag, and it leaves its channel with the
last of the routes. -/
theorem takeRoute_spec {s : State} {inst n : Nat} {r : RouteDecl} {tk : Token} {ts : List Token}
    (h : (s.elem ⟨inst, r.srcReg, r.srcEl⟩).out r.outC = tk :: ts) :
    let i := s.inst inst
    let t := takeRoute s inst n r
    let last := ∀ m ∈ i.img.routesFrom r.srcReg r.srcEl r.outC, m = n ∨ m ∈ i.copied
    SameMemory s t ∧
    kget [] (t.inst inst).flight n = kget [] i.flight n ++
      [{ tk with rtag := r.packet, rel := if r.via.isSome then tk.rel else none }] ∧
    (∀ m, m ≠ n → kget [] (t.inst inst).flight m = kget [] i.flight m) ∧
    (last → (t.elem ⟨inst, r.srcReg, r.srcEl⟩).out r.outC = ts ∧
      ∀ m ∈ i.img.routesFrom r.srcReg r.srcEl r.outC, m ∉ (t.inst inst).copied) ∧
    (¬ last → (t.elem ⟨inst, r.srcReg, r.srcEl⟩).out r.outC = tk :: ts ∧ n ∈ (t.inst inst).copied) := by
  intro i t last
  have hlast : (i.img.routesFrom r.srcReg r.srcEl r.outC).all (n :: i.copied).contains = true ↔ last := by
    simp [last]
  have ht : t = takeRoute s inst n r := rfl
  unfold takeRoute at ht
  simp only [h] at ht
  have hfl (m : Nat) (hm : m ≠ n) (ks : List Token) : kget [] (kset i.flight n ks) m = kget [] i.flight m := kget_kset_ne _ _ (Ne.symm hm) _
  by_cases hl : last
  · rw [if_pos (hlast.mpr hl), if_pos (hlast.mpr hl)] at ht
    have hi := (congrArg (State.inst · inst) ht).trans (kget_kset_self ..)
    have he := (congrArg (State.elem · ⟨inst, r.srcReg, r.srcEl⟩) ht).trans (kget_kset_self ..)
    rw [hi, he]
    refine ⟨fun _ _ => by rw [ht]; rfl, kget_kset_self .., fun m hm => hfl m hm _, fun _ => ⟨kget_kset_self .., fun m hm hmem => ?_⟩,
      fun hn => absurd hl hn⟩
    obtain ⟨-, hnot⟩ := List.mem_filter.mp hmem
    simp [i, hm] at hnot
  · rw [if_neg (hl ∘ hlast.mp), if_neg (hl ∘ hlast.mp)] at ht
    have hi := (congrArg (State.inst · inst) ht).trans (kget_kset_self ..)
    have he : t.elem ⟨inst, r.srcReg, r.srcEl⟩ = s.elem ⟨inst, r.srcReg, r.srcEl⟩ := by rw [ht]; rfl
    rw [hi, he]
    exact ⟨fun _ _ => by rw [ht]; rfl, kget_kset_self .., fun m hm => hfl m hm _, fun hp => absurd hp hl,
      fun _ => ⟨h, List.mem_cons_self⟩⟩

/-! ## Boundary nodes (R281) -/

theorem MemoryOnly.widenIds (s : State) (ids : List Nat) (sc : Scope) : MemoryOnly s (Machine.widenIds s ids sc) := .widenWhere ..

theorem MemoryOnly.inst {s t : State} (h : MemoryOnly s t) (i : Nat) : t.inst i = s.inst i := by obtain ⟨_, _, _, rfl⟩ := h; rfl
theorem MemoryOnly.elem {s t : State} (h : MemoryOnly s t) (e : ERef) : t.elem e = s.elem e := by obtain ⟨_, _, _, rfl⟩ := h; rfl
theorem MemoryOnly.physReg {s t : State} (h : MemoryOnly s t) (i r : Nat) : t.physReg i r = s.physReg i r := by
  obtain ⟨_, _, _, rfl⟩ := h; rfl

theorem execBoundaryNodeDeliver_eq {s : State} {inst n : Nat} {r : RouteDecl} {b : Nat} {sc : Scope} {tk : Token} {ts : List Token}
    (hr : (s.inst inst).img.routes[n]? = some r) (hv : r.via = some b) (hb : (s.inst inst).img.boundaries[b]? = some sc)
    (hf : kget [] (s.inst inst).flight n = tk :: ts) :
    let deps := (tk.rel.map Release.deps).getD []
    execBoundaryNodeDeliver inst n s =
      when (canDeliver s inst n r.dstReg r.dstEl r.inC && deps.all (fun d => d.store?.isSome || !depOpen s d)) "BOUNDARY_NODE_DELIVER"
        (deliver (widenIds s (deps.filterMap Dep.store?) sc) inst n r.dstReg r.dstEl r.inC) := by
  unfold execBoundaryNodeDeliver
  simp only [hr, hv, Option.bind_some, hb, hf, List.head?_cons]

theorem canDeliver_iff {s : State} {inst n reg el c : Nat} (hf : kget [] (s.inst inst).flight n ≠ [])
    (hrun : (s.inst inst).status = .running) :
    canDeliver s inst n reg el c = true ↔ ((s.elem ⟨inst, reg, el⟩).chan c).length < 16 := by
  simp [canDeliver, hf, hrun, Elem.inRoom]

/-- Settles O24: takes by `takeRoute_spec`, arrivals by `deliver_spec`, and at a boundary node the stores of the token's release, which
`widenIds` performs at its scope and others only with them. -/
theorem tokenNetworkResults : Obligations.TokenNetworkResults := by
  intro s inst n hrun i g arrives
  refine ⟨fun r tk ts hr ho hc hroom => ⟨_, ?_, takeRoute_spec ho⟩, fun r hr hfull => ?_, fun d tk ts hd hf hroom => ?_,
    fun r b sc tk ts hr hv hb hf hroom => ?_⟩
  · exact (execRouteTokenTake_eq hr hrun).trans ((when_eq_next ..).mpr ⟨by simp [ho, hc, i, destRoom, hroom], rfl⟩)
  · rintro ⟨t, ht⟩
    obtain ⟨hcan, -⟩ := (when_eq_next ..).mp ((execRouteTokenTake_eq hr hrun).symm.trans ht)
    simp only [Bool.and_eq_true, destRoom, decide_eq_true_eq] at hcan
    exact absurd hcan.2 (Nat.not_lt.mpr hfull)
  · refine ⟨_, ?_, deliver_spec _ _ _ hf⟩
    have hcan := (canDeliver_iff (s := s) (n := n) (by simp [i, hf]) hrun).mpr hroom
    have hd' : arrivalEnd (s.inst inst).img n = some d := hd
    simp only [exec, execTokenArrival, hd']
    exact (when_eq_next ..).mpr ⟨hcan, rfl⟩
  · intro deps works ids
    have hcan := (canDeliver_iff (s := s) (n := n) (by simp [i, hf]) hrun).mpr hroom
    have hworks : deps.all (fun d => d.store?.isSome || !depOpen s d) = true ↔ ¬ works := by
      simp only [List.all_eq_true, Bool.or_eq_true, Bool.not_eq_true', works, not_exists, not_and, Bool.not_eq_true,
        Option.isSome_iff_ne_none, or_iff_not_imp_left, not_not]
    have hexec : exec (.boundaryNodeDeliver inst n) s = _ := execBoundaryNodeDeliver_eq hr hv hb hf
    constructor
    · rintro hw ⟨t, ht⟩
      obtain ⟨hw', -⟩ := (when_eq_next ..).mp (hexec.symm.trans ht)
      exact hworks.mp (Bool.and_eq_true_iff.mp hw').2 hw
    · intro hw hnodup
      refine ⟨_, hexec.trans ((when_eq_next ..).mpr ⟨Bool.and_eq_true_iff.mpr ⟨hcan, hworks.mpr hw⟩, rfl⟩), ?_⟩
      have hm := MemoryOnly.widenIds s ids sc
      obtain ⟨hfl, hch, hel, hmem, hst, hacq⟩ :=
        deliver_spec (s := widenIds s ids sc) r.dstReg r.dstEl r.inC (by rw [hm.inst]; exact hf)
      refine ⟨⟨hfl, by rw [hch, hm.elem], fun a ha => by rw [hel a ha, hm.elem], hmem, hst, fun rel hrel => ?_⟩, ?_, ?_, ?_⟩
      · have := hacq rel hrel
        rwa [hm.physReg] at this
      all_goals rw [hst]
      · exact fun p hp hid => widenIds_rank hnodup hp hid
      · exact fun hsc hall p hp hid => mem_widenIds_of_not_system hsc hall hp hid
      · exact fun p hp hid hbytes hd => mem_widenIds_of_disjoint hp hid hbytes hd

end Sys2Proof.Machine
end

section
/-! SUPPORT. Returns to mi, MDONE and its token (spec/03_element_and_word.md R35, spec/10_instr_channels_tiles_memory.md R167, R181, R369,
spec/18_memory_model.md R277, R289): Obligations.ReturnAndDoneResults. -/

namespace Sys2Proof.Machine

/-! ## LOAD_RETURN (R35, R167) -/

theorem Elem.chan_pushIn_self (x : Elem) (c : Nat) (t : Token) : (x.pushIn c t).chan c = x.chan c ++ [t] := kget_kset_self ..

theorem execLoadReturn_known {s : State} {e : ERef} {r : Ret} {rs : List Ret} {v : Word} (h : (s.elem e).rets = r :: rs)
    (hv : r.val = some v) (hroom : ((s.elem e).chan 4).length < 16) :
    execLoadReturn e s = .next (s.setElem e (Elem.pushIn { s.elem e with rets := rs } 4 ⟨v, r.tag, false, none, none⟩)) := by
  simp only [execLoadReturn, h, List.head?_cons, Option.bind_some, hv]
  exact (when_eq_next ..).mpr ⟨decide_eq_true hroom, rfl⟩

theorem execLoadReturn_held {s : State} {e : ERef} {r : Ret} {rs : List Ret} {c : Token} {cs : List Token} (h : (s.elem e).rets = r :: rs)
    (hv : r.val = none) (ho : (s.elem e).owed = c :: cs) (hroom : ((s.elem e).chan 4).length < 16) :
    execLoadReturn e s = .next (s.setElem e (Elem.pushIn { s.elem e with owed := cs } 4 c)) := by
  simp only [execLoadReturn, h, List.head?_cons, Option.bind_some, hv, ho]
  exact (when_eq_next ..).mpr ⟨decide_eq_true hroom, rfl⟩

theorem execLoadReturn_unknown {s : State} {e : ERef} {r : Ret} {rs : List Ret} (h : (s.elem e).rets = r :: rs)
    (hv : r.val = none) (ho : (s.elem e).owed = []) : execLoadReturn e s = notNow "LOAD_RETURN" := by
  simp only [execLoadReturn, h, List.head?_cons, Option.bind_some, hv, ho]

/-! ## MDONE (R181, R289) -/

/-- An instruction whose condition does not hold as it issues waits with what it popped. -/
theorem waiting_waits {s : State} {ins : Instr} {sa sb : BitVec 4} {pa pb : Bool} {k : Sink} {src : Src}
    {popped : List (Nat × Token)} {x : Elem} {f : Work} (h : Reads s k.dst sa sb pa pb src popped x)
    (hf : f (curJob s src) (taken s x) = .error .wait) :
    waiting s ins sa sb pa pb k f = s.setElem s.cur { x with dp := .work ⟨s.curSlot, s.curBeat, ins, src, popped, s.now⟩ } := by
  unfold waiting
  simp only [h.room, h.got, Bool.false_eq_true, if_false]
  rw [show s.setElem s.cur x = taken s x from rfl, issueWork_wait k hf]
  simp [taken, State.modElem]

/-- A result that goes nowhere only moves the datapath on. -/
theorem written_nowhere (t : State) (e : ERef) (slot beat : Nat) (ot : BitVec 2) (r : Res) :
    written t e slot beat ⟨12, ot, 0, 0⟩ r = t.modElem e (fun y => { y with dp := nextDp y slot beat }) := by
  simp [written, outRelease, outChan, writeDst, writePu, bit]

theorem concluded_mdone (s : State) (f : FmtM) (t : State) (r : Res) :
    concluded s (.mdone f) t (sinkNone f) r = t.modElem s.cur (fun y => { y with dp := nextDp y s.curSlot s.curBeat }) :=
  written_nowhere ..

theorem workMdone_waits {f : FmtM} {j : Job} {s : State} (h : bit f.aux 0 = true) (ho : (s.elem j.e).outstanding ≠ []) :
    workMdone f j s = .error .wait := by
  simp [workMdone, h, ho]

/-- An MDONE that does not wait arms its token, after `.wait` with its element's stores performed at the done scope. -/
theorem workMdone_arms {f : FmtM} {j : Job} {s : State} (h : bit f.aux 0 = false ∨ (s.elem j.e).outstanding = []) :
    ∃ s', MemoryOnly s s' ∧ workMdone f j s = .ok (noRes, armMdone s' j.e f.ot) := by
  unfold workMdone
  split
  next ha =>
    rw [if_pos (h.resolve_left (by simp [ha]))]
    exact ⟨_, .widenWhere .., rfl⟩
  next => exact ⟨s, .refl s, rfl⟩

theorem mem_ownStores {s : State} {e : ERef} {n : Nat} :
    n ∈ ownStores s e ↔ ∃ p ∈ s.stores, p.id = n ∧ p.inst = e.inst ∧ p.reg = e.reg ∧ p.el = e.el := by
  simp only [ownStores, List.mem_map, List.mem_filter, Bool.and_eq_true, beq_iff_eq, and_assoc]
  exact exists_congr fun p => by tauto

theorem request_mem_before {s : State} {e : ERef} {o : Nat} (h : o ∈ (s.elem e).outstanding) : Dep.request e o ∈ before s e := by
  have : Dep.request e o ∈ ownRequests s e := List.mem_map.mpr ⟨o, h, rfl⟩
  simp [before, openDeps, this]

theorem store_mem_before {s : State} {e : ERef} {n : Nat} (h : n ∈ ownStores s e) : Dep.store n ∈ before s e := by
  simp [before, h]

theorem releaseAt_elem (s : State) (inst reg : Nat) (deps : List Dep) (e : ERef) : (releaseAt s inst reg deps).2.elem e = s.elem e := rfl

/-- Without done wiring an MDONE only counts. -/
theorem armMdone_unwired {s : State} {e : ERef} (tag : BitVec 2) (h : doneOf s e = none) :
    armMdone s e tag = s.modElem e (fun x => { x with mdcnt := x.mdcnt + 1 }) := by simp [armMdone, h]

/-- With done wiring it arms a token behind what its element has at work, with its stores and its region's release. -/
theorem armMdone_wired {s : State} {e : ERef} (tag : BitVec 2) (h : (doneOf s e).isSome = true) :
    armMdone s e tag = (releaseAt s e.inst e.reg (before s e)).2.modElem e (fun x => { x with
      mdcnt := x.mdcnt + 1
      mdq := x.mdq ++ [⟨x.mdcnt + 1, tag, x.outstanding, ownStores s e, (releaseAt s e.inst e.reg (before s e)).1, []⟩] }) := by
  simp [armMdone, h]

/-! ## MDONE_TOKEN (R181, R369) -/

theorem foldl_count_mono {α : Type} {c : α → Prop} [DecidablePred c] {f g : α → Nat} (h : ∀ a, f a ≤ g a) (as : List α) {m n : Nat}
    (hmn : m ≤ n) : as.foldl (fun n a => if c a then n + f a else n) m ≤ as.foldl (fun n a => if c a then n + g a else n) n := by
  induction as generalizing m n with
  | nil => exact hmn
  | cons a as ih =>
    refine ih ?_
    dsimp only
    split
    · exact Nat.add_le_add hmn (h a)
    · exact hmn

/-- Tokens have only joined those in flight in a stage, and nothing else of the part has changed. -/
structure FlightsGrow (inst : Nat) (s t : State) : Prop where
  insts : ∃ insts, t = { s with insts := insts }
  inst : ∃ flight, t.inst inst = { s.inst inst with flight := flight } ∧
    ∀ n, (kget [] (s.inst inst).flight n).length ≤ (kget [] flight n).length

/-- A channel without a place has none when more tokens are in flight. -/
theorem FlightsGrow.destRoom {inst : Nat} {s t : State} (h : FlightsGrow inst s t) {reg el c : Nat}
    (hr : Machine.destRoom t inst reg el c = true) : Machine.destRoom s inst reg el c = true := by
  obtain ⟨⟨_, rfl⟩, flight, hi, hle⟩ := h
  simp only [Machine.destRoom, decide_eq_true_eq] at hr ⊢
  refine Nat.lt_of_le_of_lt (Nat.add_le_add_left ?_ _) hr
  simp only [inFlightTo, hi]
  exact foldl_count_mono (fun _ => hle _) _ (foldl_count_mono (fun _ => hle _) _ (Nat.le_refl 0))

theorem FlightsGrow.refl (inst : Nat) (s : State) : FlightsGrow inst s s := ⟨⟨_, rfl⟩, _, rfl, fun _ => Nat.le_refl _⟩

theorem FlightsGrow.trans {inst : Nat} {s t u : State} : FlightsGrow inst s t → FlightsGrow inst t u → FlightsGrow inst s u := by
  rintro ⟨⟨_, rfl⟩, fl, hi, hle⟩ ⟨⟨_, rfl⟩, fl', hi', hle'⟩
  refine ⟨⟨_, rfl⟩, fl', by rw [hi', hi], fun n => (hle n).trans ?_⟩
  have h := hle' n
  rwa [hi] at h

/-- One more token in flight on wire k. -/
def launchTok (inst k : Nat) (tk : Token) (s : State) : State :=
  s.modInst inst (fun i => { i with flight := kset i.flight k (kget [] i.flight k ++ [tk]) })

theorem launchTok_flight (inst k : Nat) (tk : Token) (s : State) (n : Nat) :
    kget [] ((launchTok inst k tk s).inst inst).flight n = kget [] (s.inst inst).flight n ++ if k = n then [tk] else [] := by
  rw [launchTok, State.inst_modInst, if_pos rfl, kget_kset]
  split
  next h => rw [h]
  next => rw [List.append_nil]

theorem FlightsGrow.launchTok (inst k : Nat) (tk : Token) (s : State) : FlightsGrow inst s (launchTok inst k tk s) := by
  refine ⟨⟨_, rfl⟩, _, kget_kset_self .., fun n => ?_⟩
  rw [kget_kset]
  split
  next h => simp [h]
  next => exact Nat.le_refl _

theorem sendDone_cons (inst : Nat) (tk : Token) (w : Nat × Nat × Nat × Nat) (ws : List (Nat × Nat × Nat × Nat)) (s : State) :
    sendDone inst tk (w :: ws) s = if destRoom s inst w.2.1 w.2.2.1 w.2.2.2
      then (w.1 :: (sendDone inst tk ws (launchTok inst w.1 tk s)).1, (sendDone inst tk ws (launchTok inst w.1 tk s)).2)
      else sendDone inst tk ws s := rfl

/-- What sending a done token's copies does: they are in flight on the wires that are answered, some of those asked for; each other wire's
destination has no place. -/
theorem sendDone_spec (inst : Nat) (tk : Token) (ws : List (Nat × Nat × Nat × Nat)) (s : State) (hn : (ws.map Prod.fst).Nodup) :
    let r := sendDone inst tk ws s
    r.1.Sublist (ws.map Prod.fst) ∧ FlightsGrow inst s r.2 ∧
    (∀ n, kget [] (r.2.inst inst).flight n = kget [] (s.inst inst).flight n ++ if n ∈ r.1 then [tk] else []) ∧
    ∀ w ∈ ws, w.1 ∉ r.1 → destRoom r.2 inst w.2.1 w.2.2.1 w.2.2.2 = false := by
  induction ws generalizing s with
  | nil => exact ⟨.slnil, .refl .., by simp [sendDone], by simp⟩
  | cons w ws ih =>
    obtain ⟨hw, hws⟩ := List.nodup_cons.mp (List.map_cons (f := Prod.fst) ▸ hn)
    rw [sendDone_cons]
    by_cases hroom : destRoom s inst w.2.1 w.2.2.1 w.2.2.2 = true
    · obtain ⟨hsub, hgrow, hget, hno⟩ := ih (launchTok inst w.1 tk s) hws
      rw [if_pos hroom]
      refine ⟨hsub.cons_cons _, (FlightsGrow.launchTok ..).trans hgrow, fun n => ?_, fun v hv hnot => ?_⟩
      · rw [hget, launchTok_flight, List.append_assoc]
        by_cases hn : w.1 = n
        · have hnot : n ∉ (sendDone inst tk ws (launchTok inst w.1 tk s)).1 := fun h => hw (hn ▸ hsub.subset h)
          rw [if_pos hn, if_neg hnot, if_pos (by simp [hn]), List.append_nil]
        · simp [hn, Ne.symm hn]
      · rcases List.mem_cons.mp hv with rfl | hv
        · simp at hnot
        · exact hno v hv fun h => hnot (List.mem_cons_of_mem _ h)
    · obtain ⟨hsub, hgrow, hget, hno⟩ := ih s hws
      rw [if_neg hroom]
      refine ⟨hsub.cons _, hgrow, hget, fun v hv hnot => ?_⟩
      rcases List.mem_cons.mp hv with rfl | hv
      · exact Bool.eq_false_iff.mpr fun h => hroom (hgrow.destRoom h)
      · exact hno v hv hnot

/-- No copy leaves exactly where no destination has a place. -/
theorem sendDone_eq_nil_iff (inst : Nat) (tk : Token) (ws : List (Nat × Nat × Nat × Nat)) (s : State) :
    (sendDone inst tk ws s).1 = [] ↔ ∀ w ∈ ws, destRoom s inst w.2.1 w.2.2.1 w.2.2.2 = false := by
  induction ws with
  | nil => simp [sendDone]
  | cons w ws ih =>
    rw [sendDone_cons, List.forall_mem_cons]
    by_cases hroom : destRoom s inst w.2.1 w.2.2.1 w.2.2.2 = true
    · simp [hroom]
    · simp [hroom, ih]

/-- Done wires have numbers of their own. -/
theorem wiresOf_nodup (s : State) (e : ERef) : ((wiresOf s e).map Prod.fst).Nodup := by
  have hz : (((List.range (s.inst e.inst).img.doneWires.length).zip (s.inst e.inst).img.doneWires)).Pairwise (fun a b => a.1 ≠ b.1) := by
    refine List.pairwise_map.mp ?_
    rw [List.map_fst_zip (by simp)]
    exact List.nodup_range
  refine List.pairwise_map.mpr (hz.filterMap _ fun a b hab x hx y hy => ?_)
  split at hx <;> split at hy <;> simp at hx hy
  rw [← hx, ← hy]
  simpa using hab

/-- What an element keeps beside its input channels does not matter to the places in them. -/
theorem destRoom_modElem (s : State) (e : ERef) {f : Elem → Elem} (hf : ∀ x, (f x).inp = x.inp) (inst reg el c : Nat) :
    destRoom (s.modElem e f) inst reg el c = destRoom s inst reg el c := by
  have hc : ((s.modElem e f).elem ⟨inst, reg, el⟩).chan c = (s.elem ⟨inst, reg, el⟩).chan c := by
    by_cases h : e = ⟨inst, reg, el⟩
    · rw [← h, State.elem_modElem_self, Elem.chan, hf, Elem.chan]
    · rw [State.elem_modElem_ne _ _ h]
  simp only [destRoom, hc]
  rfl

/-- The wires on which the token of an MDONE has still to leave. -/
def wiresLeft (s : State) (e : ERef) (m : MdWait) : List (Nat × Nat × Nat × Nat) := (wiresOf s e).filter (fun w => !m.sent.contains w.1)

theorem wiresLeft_nodup (s : State) (e : ERef) (m : MdWait) : ((wiresLeft s e m).map Prod.fst).Nodup :=
  (List.filter_sublist.map Prod.fst).nodup (wiresOf_nodup s e)

/-- The token of an MDONE (R181, R289). -/
def doneToken (m : MdWait) : Token := ⟨m.count, m.tag, false, none, some m.rel⟩

/-- The copies of an MDONE's token that can leave, once its stores are performed at a scope. -/
def doneCopies (s : State) (e : ERef) (m : MdWait) (sc : Scope) : List Nat × State :=
  sendDone e.inst (doneToken m) (wiresLeft s e m) (widenIds s m.stores sc)

/-- The part after copies of an MDONE's token have left: the MDONE is gone once every copy has. -/
def doneLeft (s : State) (e : ERef) (m : MdWait) (ms : List MdWait) (sc : Scope) : State :=
  (doneCopies s e m sc).2.modElem e (fun y => { y with
    mdq := if (doneCopies s e m sc).1.length = (wiresLeft s e m).length then ms
      else { m with sent := m.sent ++ (doneCopies s e m sc).1 } :: ms })

theorem execMdoneToken_eq {s : State} {e : ERef} {m : MdWait} {ms : List MdWait} {d : DoneDecl} (hm : (s.elem e).mdq = m :: ms)
    (hd : doneOf s e = some d) :
    execMdoneToken e s = when (m.ops.all (fun o => !(s.elem e).outstanding.contains o) &&
      (wiresLeft s e m == [] || (doneCopies s e m d.scope).1 != [])) "MDONE_TOKEN" (doneLeft s e m ms d.scope) := by
  simp only [execMdoneToken, hm, hd]
  rfl

/-- Which copies leave, and that nothing but flights, and the stores performed more widely, has changed. -/
theorem doneCopies_spec (s : State) (e : ERef) (m : MdWait) (sc : Scope) :
    let r := doneCopies s e m sc
    r.1.Sublist ((wiresLeft s e m).map Prod.fst) ∧ FlightsGrow e.inst (widenIds s m.stores sc) r.2 ∧
    (∀ n, kget [] (r.2.inst e.inst).flight n = kget [] (s.inst e.inst).flight n ++ if n ∈ r.1 then [doneToken m] else []) ∧
    ∀ w ∈ wiresLeft s e m, w.1 ∉ r.1 → destRoom r.2 e.inst w.2.1 w.2.2.1 w.2.2.2 = false := by
  have h := sendDone_spec e.inst (doneToken m) (wiresLeft s e m) (widenIds s m.stores sc) (wiresLeft_nodup s e m)
  rwa [(MemoryOnly.widenIds s m.stores sc).inst] at h

theorem doneCopies_eq_nil_iff (s : State) (e : ERef) (m : MdWait) (sc : Scope) :
    (doneCopies s e m sc).1 = [] ↔ ∀ w ∈ wiresLeft s e m, destRoom s e.inst w.2.1 w.2.2.1 w.2.2.2 = false := by
  obtain ⟨_, _, _, h⟩ := MemoryOnly.widenIds s m.stores sc
  rw [doneCopies, sendDone_eq_nil_iff, h]
  rfl

/-- Every copy has left exactly where as many have as there were wires. -/
theorem doneCopies_length_iff (s : State) (e : ERef) (m : MdWait) (sc : Scope) :
    (doneCopies s e m sc).1.length = (wiresLeft s e m).length ↔ ∀ w ∈ wiresLeft s e m, w.1 ∈ (doneCopies s e m sc).1 := by
  obtain ⟨hsub, -⟩ := doneCopies_spec s e m sc
  constructor
  · intro hl w hw
    rw [hsub.eq_of_length (by rw [hl, List.length_map])]
    exact List.mem_map_of_mem hw
  · intro hall
    have hsup : (wiresLeft s e m).map Prod.fst ⊆ (doneCopies s e m sc).1 := fun n hn => by
      obtain ⟨w, hw, rfl⟩ := List.mem_map.mp hn
      exact hall w hw
    have hle := ((wiresLeft_nodup s e m).subperm hsup).length_le
    rw [List.length_map] at hle
    exact Nat.le_antisymm (by simpa using hsub.length_le) hle

theorem doneLeft_stores (s : State) (e : ERef) (m : MdWait) (ms : List MdWait) (sc : Scope) :
    (doneLeft s e m ms sc).stores = (widenIds s m.stores sc).stores := by
  obtain ⟨-, ⟨⟨_, h⟩, -⟩, -⟩ := doneCopies_spec s e m sc
  rw [show (doneLeft s e m ms sc).stores = (doneCopies s e m sc).2.stores from rfl, h]

theorem doneLeft_destRoom (s : State) (e : ERef) (m : MdWait) (ms : List MdWait) (sc : Scope) (inst reg el c : Nat) :
    destRoom (doneLeft s e m ms sc) inst reg el c = destRoom (doneCopies s e m sc).2 inst reg el c := by
  rw [doneLeft, destRoom_modElem]
  exact fun _ => rfl

theorem doneLeft_mdq (s : State) (e : ERef) (m : MdWait) (ms : List MdWait) (sc : Scope) :
    ((∀ w ∈ wiresLeft s e m, w.1 ∈ (doneCopies s e m sc).1) → ((doneLeft s e m ms sc).elem e).mdq = ms) ∧
    ((∃ w ∈ wiresLeft s e m, w.1 ∉ (doneCopies s e m sc).1) →
      ((doneLeft s e m ms sc).elem e).mdq = { m with sent := m.sent ++ (doneCopies s e m sc).1 } :: ms) := by
  rw [doneLeft, State.elem_modElem_self]
  constructor
  · exact fun hall => if_pos ((doneCopies_length_iff ..).mpr hall)
  · rintro ⟨w, hw, hnot⟩
    exact if_neg fun hl => hnot ((doneCopies_length_iff ..).mp hl w hw)

/-- When an MDONE's token can leave, and when it cannot (R181, R369). -/
theorem mdoneToken_spec {s : State} {e : ERef} {m : MdWait} {ms : List MdWait} {d : DoneDecl} (hm : (s.elem e).mdq = m :: ms)
    (hd : doneOf s e = some d) :
    ((∃ o ∈ m.ops, o ∈ (s.elem e).outstanding) → ¬ ∃ t, execMdoneToken e s = .next t) ∧
    (wiresLeft s e m ≠ [] → (∀ w ∈ wiresLeft s e m, destRoom s e.inst w.2.1 w.2.2.1 w.2.2.2 = false) →
      ¬ ∃ t, execMdoneToken e s = .next t) ∧
    ((∀ o ∈ m.ops, o ∉ (s.elem e).outstanding) →
      (wiresLeft s e m = [] ∨ ∃ w ∈ wiresLeft s e m, destRoom s e.inst w.2.1 w.2.2.1 w.2.2.2 = true) →
      execMdoneToken e s = .next (doneLeft s e m ms d.scope)) := by
  have hexec := execMdoneToken_eq hm hd
  refine ⟨?_, fun hne hnone => ?_, fun hops hsome => ?_⟩
  · rintro ⟨o, ho, hout⟩ ⟨t, ht⟩
    obtain ⟨hc, -⟩ := (when_eq_next ..).mp (hexec.symm.trans ht)
    simpa [hout] using List.all_eq_true.mp (Bool.and_eq_true_iff.mp hc).1 o ho
  · rintro ⟨t, ht⟩
    obtain ⟨hc, -⟩ := (when_eq_next ..).mp (hexec.symm.trans ht)
    simp [(doneCopies_eq_nil_iff s e m d.scope).mpr hnone, hne] at hc
  · refine hexec.trans ((when_eq_next ..).mpr ⟨?_, rfl⟩)
    have hops' : m.ops.all (fun o => !(s.elem e).outstanding.contains o) = true := by simpa using hops
    rw [hops', Bool.true_and, Bool.or_eq_true, beq_iff_eq, bne_iff_ne]
    refine hsome.imp_right ?_
    rintro ⟨w, hw, hroom⟩ hnil
    exact Bool.eq_false_iff.mp ((doneCopies_eq_nil_iff ..).mp hnil w hw) hroom

/-- What an MDONE that waits for nothing has armed (R181, R289). -/
theorem mdone_arms {s : State} {f : FmtM} {src : Src} {popped : List (Nat × Token)} {x : Elem}
    (hx : Reads s 12 f.sa f.sb (bit f.mod 1) (bit f.mod 0) src popped x) (h : bit f.aux 0 = false ∨ x.outstanding = []) :
    ∃ s', MemoryOnly (taken s x) s' ∧ execMdone f s = .next ((armMdone s' s.cur f.ot).modElem s.cur
      (fun y => { y with dp := nextDp y s.curSlot s.curBeat })) := by
  have hx' : (taken s x).elem s.cur = x := State.elem_setElem_self ..
  obtain ⟨s', hs', hw⟩ := workMdone_arms (f := f) (j := curJob s src) (s := taken s x) (by rw [curJob, hx']; exact h)
  exact ⟨s', hs', (runM_reads (k := sinkNone f) hx hw).trans (congrArg Host.Outcome.next (concluded_mdone ..))⟩

theorem doneOf_of_memoryOnly {s s' : State} {x : Elem} (h : MemoryOnly (taken s x) s') (e : ERef) : doneOf s' e = doneOf s e := by
  obtain ⟨_, _, _, rfl⟩ := h; rfl

/-! ## The statement -/

/-- Settles O30: a return or a held token by the lemmas on LOAD_RETURN, MDONE by what arms its token, its copies by `sendDone_spec`. -/
theorem returnAndDoneResults : Obligations.ReturnAndDoneResults := by
  refine ⟨fun s e r rs hr => ⟨fun v hv hroom => ?_, fun hv ho => ?_, fun c cs hv ho hroom => ?_⟩,
    fun s f src popped x hx => ⟨fun ha ho => ?_, fun h => ?_⟩, fun s e m ms d hnodup hm hd => ?_⟩
  · refine ⟨_, execLoadReturn_known hr hv hroom, ?_, ?_, fun a ha => ?_⟩
    · rw [State.elem_setElem_self]; rfl
    · rw [State.elem_setElem_self]; exact Elem.chan_pushIn_self ..
    · rw [State.elem_setElem, if_neg (Ne.symm ha)]
  · rintro ⟨t, ht⟩
    exact notNow_ne_next _ _ ((execLoadReturn_unknown hr hv ho).symm.trans ht)
  · refine ⟨_, execLoadReturn_held hr hv ho hroom, ?_⟩
    rw [State.elem_setElem_self]
    exact ⟨hr, rfl, Elem.chan_pushIn_self ..⟩
  · have hx' : (taken s x).elem s.cur = x := State.elem_setElem_self ..
    have hw := workMdone_waits (f := f) (j := curJob s src) (s := taken s x) ha (by rw [curJob, hx']; exact ho)
    exact congrArg Host.Outcome.next (waiting_waits (k := sinkNone f) hx hw)
  · obtain ⟨s', hs', hexec⟩ := mdone_arms hx h
    refine ⟨_, hexec, ?_⟩
    have hdone := doneOf_of_memoryOnly hs' s.cur
    have hel : s'.elem s.cur = x := (hs'.elem _).trans (State.elem_setElem_self ..)
    rw [State.elem_modElem_self]
    cases hd : doneOf s s.cur with
    | none =>
      rw [armMdone_unwired _ (hdone.trans hd), State.elem_modElem_self, hel]
      exact ⟨rfl, fun _ => rfl, by simp, rfl, rfl, rfl⟩
    | some d =>
      rw [armMdone_wired _ (by rw [hdone, hd]; rfl), State.elem_modElem_self, releaseAt_elem, hel]
      refine ⟨rfl, by simp, fun _ => ⟨ownStores s' s.cur, _, rfl, ?_⟩, rfl, rfl, rfl⟩
      obtain ⟨_, _, _, rfl⟩ := hs'
      exact ⟨rfl, rfl, fun o ho => request_mem_before (by rw [hel]; exact ho), fun n hn => store_mem_before hn, fun n => mem_ownStores⟩
  · obtain ⟨h1, h2, h3⟩ := mdoneToken_spec hm hd
    obtain ⟨hsub, -, hget, hno⟩ := doneCopies_spec s e m d.scope
    refine ⟨h1, h2, fun hops hsome => ⟨_, (doneCopies s e m d.scope).1, h3 hops hsome, fun n hn => ?_, hget, fun w hw hnot => ?_,
      (doneLeft_mdq ..).1, (doneLeft_mdq ..).2, ?_⟩⟩
    · obtain ⟨w, hw, rfl⟩ := List.mem_map.mp (hsub.subset hn)
      exact ⟨w, hw, rfl⟩
    · exact (doneLeft_destRoom ..).trans (hno w hw hnot)
    · rw [doneLeft_stores]
      exact ⟨fun p hp hid => widenIds_rank hnodup hp hid, fun hsc hall p hp hid => mem_widenIds_of_not_system hsc hall hp hid,
        fun p hp hid hb hdis => mem_widenIds_of_disjoint hp hid hb hdis⟩

end Sys2Proof.Machine
end

section
/-! SUPPORT. Which slot of an element issues, and when its further beats and its waits go on (spec/03_element_and_word.md R38 to R42, R113). -/

namespace Sys2Proof.Machine

/-! ## Eligibility (R38, R39) -/

theorem stageIssues_iff (s : State) (inst : Nat) : stageIssues s inst = true ↔ Issues s inst := by
  simp only [stageIssues, Issues, Bool.and_eq_true, beq_iff_eq]
  refine and_congr_right fun _ => ?_
  split
  next h => simp [h]
  next f h => simp [h]

theorem predsOk_iff (x : Elem) (t : Trigger) :
    predsOk x t = true ↔ ∀ k, k < 8 → bit t.pmask k = true → bit x.p k = bit t.pval k := by
  have hk (k : Nat) : ((x.p ^^^ t.pval) &&& t.pmask).getLsbD k = (0 : BitVec 8).getLsbD k ↔ bit t.pmask k = true → bit x.p k = bit t.pval k := by
    simp only [bit, BitVec.getLsbD_and, BitVec.getLsbD_xor]
    cases t.pmask.getLsbD k <;> simp
  rw [predsOk, beq_iff_eq]
  exact ⟨fun h k _ => (hk k).mp (by rw [h]), fun h => BitVec.eq_of_getLsbD_eq fun k hlt => (hk k).mpr (h k hlt)⟩

/-- The start of a channel is as long as asked where every token of it passes the test. -/
theorem lt_length_takeWhile_iff {α : Type} (as : List α) (t : α → Bool) (n : Nat) :
    n + 1 ≤ (as.takeWhile t).length ↔ n < as.length ∧ ∀ m a, m ≤ n → as[m]? = some a → t a = true := by
  induction as generalizing n with
  | nil => simp
  | cons a as ih =>
    cases ha : t a with
    | false =>
      simp only [List.takeWhile_cons, ha, Bool.false_eq_true, if_false, List.length_nil, Nat.le_zero, Nat.succ_ne_zero, false_iff, not_and]
      exact fun _ h => by simpa [ha] using h 0 a (Nat.zero_le n) rfl
    | true =>
      cases n with
      | zero =>
        simp only [List.takeWhile_cons, ha, if_true, List.length_cons, Nat.le_zero, Nat.zero_add, Nat.le_add_left, Nat.zero_lt_succ, true_and,
          true_iff]
        rintro _ b rfl hb
        rwa [← Option.some.inj hb]
      | succ n =>
        simp only [List.takeWhile_cons, ha, if_true, List.length_cons, Nat.add_le_add_iff_right, ih, Nat.add_lt_add_iff_right]
        refine and_congr_right fun _ => ⟨fun h m b hm hb => ?_, fun h m b hm hb => h (m + 1) b (Nat.succ_le_succ hm) (by simpa using hb)⟩
        cases m with
        | zero => simp at hb; rwa [← hb]
        | succ m => exact h m b (Nat.le_of_succ_le_succ hm) (by simpa using hb)

theorem guardOk_iff (x : Elem) (t : Trigger) :
    guardOk x t = true ↔ (t.cge = 1 → ∃ h, (x.chan t.cgi.toNat).head? = some h ∧ t.nb.toNat < (x.chan t.cgi.toNat).length ∧
      (t.tge = 1 → h.tag = t.tgv) ∧ ∀ m k, m ≤ t.nb.toNat → (x.chan t.cgi.toNat)[m]? = some k → (k.tag = 3 ↔ t.tge = 1 ∧ t.tgv = 3)) := by
  have hbit (b : BitVec 1) : b = 0 ↔ ¬ b = 1 := by revert b; decide
  have hrun (ts : List Token) : t.nb.toNat + 1 ≤ headRun ts (t.tge == 1 && t.tgv == 3) ↔
      t.nb.toNat < ts.length ∧ ∀ m k, m ≤ t.nb.toNat → ts[m]? = some k → (k.tag = 3 ↔ t.tge = 1 ∧ t.tgv = 3) := by
    rw [headRun, lt_length_takeWhile_iff]
    have hb (a b c : Bool) : ((a == (b && c)) = true) ↔ (a = true ↔ b = true ∧ c = true) := by cases a <;> cases b <;> cases c <;> decide
    simp only [hb, beq_iff_eq]
  by_cases hc : t.cge = 1
  · have hg : guardOk x t = (decide (t.nb.toNat + 1 ≤ headRun (x.chan t.cgi.toNat) (t.tge == 1 && t.tgv == 3)) &&
        (t.tge == 0 || ((x.chan t.cgi.toNat).head?.map Token.tag) == some t.tgv)) := by
      rw [guardOk, hc]; rfl
    simp only [hg, Bool.or_eq_true, beq_iff_eq, Bool.and_eq_true, decide_eq_true_eq, hrun, hc, true_imp_iff]
    cases x.chan t.cgi.toNat with
    | nil => simp
    | cons h ts =>
      simp only [List.head?_cons, Option.map_some, Option.some_inj, exists_eq_left', and_assoc]
      refine and_congr_right fun _ => and_comm.trans (and_congr_left fun _ => ?_)
      rw [hbit, or_iff_not_imp_left, not_not]
  · rw [guardOk, (hbit _).mpr hc]
    exact ⟨fun _ h => absurd h (by decide), fun _ => rfl⟩

theorem signalOk_iff (s : State) (e : ERef) (t : Trigger) :
    signalOk s e t = true ↔ (t.sgs = 1 → guardSig s e t.sgi.toNat = some true) ∧ (t.sgs = 2 → guardSig s e t.sgi.toNat = some false) := by
  unfold signalOk
  split
  next h1 => exact beq_iff_eq.trans ⟨fun h => ⟨fun _ => h, fun h2 => absurd (h1.symm.trans h2) (by decide)⟩, fun h => h.1 h1⟩
  next h1 =>
    split
    next h2 => exact beq_iff_eq.trans ⟨fun h => ⟨fun h' => absurd h' h1, fun _ => h⟩, fun h => h.2 h2⟩
    next h2 => exact ⟨fun _ => ⟨fun h' => absurd h' h1, fun h' => absurd h' h2⟩, fun _ => rfl⟩

theorem eligible_iff (s : State) (e : ERef) (i : Nat) :
    (slotReady (s.elem e) i && signalOk s e ((s.elem e).trig i)) = true ↔ Eligible s e i := by
  simp only [slotReady, Bool.and_eq_true, beq_iff_eq, predsOk_iff, guardOk_iff, signalOk_iff, Bool.not_eq_true']
  exact ⟨fun ⟨⟨⟨⟨hv, hp⟩, hg⟩, hr⟩, hs⟩ => ⟨hv, hp, hg, hs, hr⟩, fun ⟨hv, hp, hg, hs, hr⟩ => ⟨⟨⟨⟨hv, hp⟩, hg⟩, hr⟩, hs⟩⟩

theorem elemFree_iff (x : Elem) : elemFree x = true ↔ x.dp = .idle ∧ x.halted = false ∧ x.ended = false ∧ x.trapped = false := by
  simp [elemFree, and_assoc]

/-- An element is free: condition 6 of R38. -/
def Free (x : Elem) : Prop := x.dp = .idle ∧ x.halted = false ∧ x.ended = false ∧ x.trapped = false

theorem nextSlot_eq_some {s : State} {e : ERef} {i : Nat} (hf : Free (s.elem e)) (hi : i < 16) (he : Eligible s e i)
    (hlow : ∀ m, m < i → ¬ Eligible s e m) : nextSlot s e = some i := by
  have h : elemFree (s.elem e) = true := (elemFree_iff _).mpr hf
  simp only [nextSlot, h, if_true]
  refine List.find?_range_eq_some.mpr ⟨(eligible_iff s e i).mpr he, List.mem_range.mpr hi, fun m hm => ?_⟩
  rw [Bool.not_eq_true']
  exact Bool.eq_false_iff.mpr fun h => hlow m hm ((eligible_iff s e m).mp h)

theorem nextSlot_eq_none {s : State} {e : ERef} (h : ¬ Free (s.elem e) ∨ ∀ i, i < 16 → ¬ Eligible s e i) : nextSlot s e = none := by
  unfold nextSlot
  dsimp only
  split
  next hf =>
    refine List.find?_range_eq_none.mpr fun i hi => ?_
    rw [Bool.not_eq_true']
    exact Bool.eq_false_iff.mpr fun he => (h.resolve_left (not_not.mpr ((elemFree_iff _).mp hf))) i hi ((eligible_iff s e i).mp he)
  next => rfl

/-! ## One beat in a cycle (R40, R41) -/

theorem execSlotIssue_eq_some {s : State} {e : ERef} {i : Nat} (h : nextSlot s e = some i) :
    execSlotIssue e s = when (stageIssues s e.inst && !s.beaten e) "SLOT_ISSUE" (chosen s e i 0) := by
  simp only [execSlotIssue, h]
  rfl

theorem execMultiBeatBeat_eq {s : State} {e : ERef} {i n : Nat} (h : (s.elem e).dp = .beat i n) :
    execMultiBeatBeat e s = when (stageIssues s e.inst && !dstFull (s.elem e) (dstOf ((s.elem e).slotWord i)) && !s.beaten e)
      "MULTI_BEAT_BEAT" (chosen s e i n) := by
  simp only [execMultiBeatBeat, h]
  rfl

theorem execChannelOperandWaitEnd_eq {s : State} {e : ERef} {i n : Nat} (h : (s.elem e).dp = .operand i n) :
    execChannelOperandWaitEnd e s = when (stageIssues s e.inst && operandsIn (s.elem e) ((s.elem e).slotWord i) &&
      !dstFull (s.elem e) (dstOf ((s.elem e).slotWord i)) && !s.beaten e) "CHANNEL_OPERAND_WAIT_END" (chosen s e i n) := by
  simp only [execChannelOperandWaitEnd, h]
  rfl

theorem operandsIn_iff (x : Elem) (w : SlotWord) :
    operandsIn x w = true ↔ ∀ code ∈ srcsOf w, ∀ c, chanOf code = some c → x.chan c ≠ [] := by
  rw [operandsIn, List.all_eq_true]
  refine forall_congr' fun code => imp_congr_right fun _ => ?_
  split
  next h => simp [h]
  next c h => simp [h]

theorem execWaitingInstructionResume_eq {s : State} {e : ERef} {w : Wait} (h : (s.elem e).dp = .work w) :
    execWaitingInstructionResume e s = when (!accPending s (.element e) && (s.graph (s.inst e.inst).graph).fault.isNone &&
      (s.inst e.inst).status == .running && !(s.elem e).halted && !s.beaten e) "WAITING_INSTRUCTION_RESUME" (resume w e (s.beat e)) := by
  simp only [execWaitingInstructionResume, h]

/-- A datapath that has taken its beat of the cycle takes no other. -/
theorem not_next_of_beaten {s : State} {e : ERef} (hb : s.beaten e = true) :
    ∀ i ∈ [Instr.slotIssue e, .multiBeatBeat e, .channelOperandWaitEnd e, .waitingInstructionResume e, .markerReset e],
      ¬ ∃ t, exec i s = .next t := by
  have no (c : Bool) (name : String) (t u : State) (h : when (c && !s.beaten e) name t = .next u) : False := by
    simpa [hb] using ((when_eq_next ..).mp h).1
  intro i hi
  simp only [List.mem_cons, List.not_mem_nil, or_false] at hi
  rcases hi with rfl | rfl | rfl | rfl | rfl <;> rintro ⟨t, ht⟩
  · cases hn : nextSlot s e with
    | none => simp [exec, execSlotIssue, hn] at ht
    | some i => exact no _ _ _ _ ((execSlotIssue_eq_some hn).symm.trans ht)
  · cases hd : (s.elem e).dp with
    | beat i n => exact no _ _ _ _ ((execMultiBeatBeat_eq hd).symm.trans ht)
    | _ => simp [exec, execMultiBeatBeat, hd] at ht
  · cases hd : (s.elem e).dp with
    | operand i n => exact no _ _ _ _ ((execChannelOperandWaitEnd_eq hd).symm.trans ht)
    | _ => simp [exec, execChannelOperandWaitEnd, hd] at ht
  · cases hd : (s.elem e).dp with
    | work w => exact no _ _ _ _ ((execWaitingInstructionResume_eq hd).symm.trans ht)
    | _ => simp [exec, execWaitingInstructionResume, hd] at ht
  · exact no _ _ _ _ ht

/-! ## Waiting instructions that go on (R113) -/

/-- The work of a waiting instruction whose condition does not hold: it keeps the datapath. -/
theorem settle_wait {w : Wait} {e : ERef} {k : Sink} {f : Work} {s : State} (hk : dstFull (s.elem e) k.dst = false)
    (hj : khas s.journals (.element e) = false) (hf : f ⟨e, w.slot, w.src⟩ s = .error .wait) :
    settle w e k f s = s.modElem e (fun y => { y with dp := .work w }) := by
  simp only [settle, hk, workOf_new _ hj, newWork_wait hf, Bool.false_eq_true, if_false, conclude, dropJournal, hj]

theorem resume_bcwait {w : Wait} {f : FmtE} (h : w.ins = .bcwait f) (e : ERef) (s : State) :
    resume w e s = settle w e (sinkE f) workBcwait s := by
  simp only [resume, waitWork, h]

theorem resume_mdone {w : Wait} {f : FmtM} (h : w.ins = .mdone f) (e : ERef) (s : State) :
    resume w e s = settle w e (sinkNone f) (workMdone f) s := by
  simp only [resume, waitWork, h]

/-- A bcwait goes on once its contraction is over, with its state. -/
theorem workBcwait_eq {j : Job} {s : State} {r : RRef × Contraction} (h : conOf s j.e.inst j.src.a = .ok r) :
    workBcwait j s = if r.2.state = 0 then .error .wait else .ok (⟨BitVec.ofNat 32 r.2.state, false, false⟩, s) := by
  simp only [workBcwait, h]
  rfl

theorem resume_bcwait_eq {s : State} {w : Wait} {e : ERef} {f : FmtE} {r : RRef × Contraction} (h : w.ins = .bcwait f)
    (hj : khas s.journals (.element e) = false) (hroom : dstFull (s.elem e) f.dst = false) (hr : conOf s e.inst w.src.a = .ok r) :
    resume w e s = if r.2.state = 0 then s.modElem e (fun y => { y with dp := .work w })
      else written (commandRelease w.ins e s) e w.slot w.beat (sinkE f) ⟨BitVec.ofNat 32 r.2.state, false, false⟩ := by
  have hw := workBcwait_eq (j := ⟨e, w.slot, w.src⟩) hr
  rw [resume_bcwait h]
  split
  next h0 => exact settle_wait hroom hj (hw.trans (if_pos h0))
  next h0 => exact settle_ok (sinkE f) hroom hj (hw.trans (if_neg h0))

theorem armMdone_elem (s : State) (e : ERef) (tag : BitVec 2) :
    ∃ q, (armMdone s e tag).elem e = { s.elem e with mdcnt := (s.elem e).mdcnt + 1, mdq := q } := by
  cases h : doneOf s e with
  | none => rw [armMdone_unwired tag h, State.elem_modElem_self]; exact ⟨_, rfl⟩
  | some d => rw [armMdone_wired tag (by rw [h]; rfl), State.elem_modElem_self, releaseAt_elem]; exact ⟨_, rfl⟩

/-- An mdone.wait goes on once its element's operations are performed. -/
theorem resume_mdone_elem {s : State} {w : Wait} {e : ERef} {f : FmtM} (h : w.ins = .mdone f) (hj : khas s.journals (.element e) = false)
    (ho : (s.elem e).outstanding = []) :
    ((resume w e s).elem e).mdcnt = (s.elem e).mdcnt + 1 ∧ ((resume w e s).elem e).dp = nextDp (s.elem e) w.slot w.beat := by
  obtain ⟨s', hm, hw⟩ := workMdone_arms (f := f) (j := ⟨e, w.slot, w.src⟩) (s := s) (.inr ho)
  have hroom : dstFull (s.elem e) (sinkNone f).dst = false := rfl
  have hrel (t : State) : commandRelease w.ins e t = t := by rw [h]; rfl
  obtain ⟨q, hq⟩ := armMdone_elem s' e f.ot
  rw [resume_mdone h, settle_ok (sinkNone f) hroom hj hw, hrel, sinkNone, written_nowhere, State.elem_modElem_self, hq, hm.elem]
  exact ⟨rfl, rfl⟩

end Sys2Proof.Machine
end

section
/-! SUPPORT. The marker reset of an element (spec/03_element_and_word.md R32, R43, spec/22_scheduling_power.md R336):
Obligations.SlotIssueResults. -/

namespace Sys2Proof.Machine

/-! ## Image values (R31, R43) -/

theorem kget_zip_range' {α : Type} (d : α) (xs : List α) (a k : Nat) :
    kget d ((List.range' a xs.length).zip xs) (a + k) = xs.getD k d := by
  induction xs generalizing a k with
  | nil => rfl
  | cons x xs ih =>
    cases k with
    | zero => simp [List.range'_succ, kget]
    | succ k =>
      have h := ih (a + 1) k
      rw [Nat.add_assoc, Nat.add_comm 1 k] at h
      simpa [List.range'_succ, kget] using h

/-- A list kept by its indices. -/
theorem kget_indexed0 {α : Type} (d : α) (xs : List α) (k : Nat) : kget d (indexed0 xs) k = xs.getD k d := by
  have h := kget_zip_range' d xs 0 k
  rwa [Nat.zero_add, ← List.range_eq_range'] at h

theorem kget_map_val {α β : Type} (f : α → β) {d : α} {d' : β} (hd : f d = d') (m : KMap α) (k : Nat) :
    kget d' (m.map (fun p => (p.1, f p.2))) k = f (kget d m k) := by
  induction m with
  | nil => exact hd.symm
  | cons p m ih =>
    simp only [List.map_cons, kget, ih]
    split <;> rfl

/-- A pump's counters and iteration number at 0. -/
def Pump.atStart (p : Pump) : Pump := { p with c := [0, 0, 0, 0], iter := 0 }

theorem restoreRegs_pump (g : ElemImage) (args : KMap Word) (hs : List Word) (x : Elem) (p : Nat) :
    (restoreRegs g args hs x).pump p = (x.pump p).atStart :=
  kget_map_val (d := ({} : Pump)) (d' := ({} : Pump)) Pump.atStart rfl x.pumps p

/-! ## Tokens written to outputs -/

/-- What a token shows: its word, its tag and its exception bit. -/
def Token.shown (t : Token) : Word × BitVec 2 × Bool := (t.w, t.tag, t.exc)

theorem map_shown_relastRel (ts : List Token) (r : Option Release) :
    (ts.dropLast ++ (ts.getLast?.map (fun t : Token => { t with rel := r })).toList).map Token.shown = ts.map Token.shown := by
  induction ts using List.reverseRecOn with
  | nil => rfl
  | append_singleton ts t _ => simp [Token.shown]

/-- Of an element only its outputs change, and of the part only what its region has released and the element itself. -/
structure OutputsOnly (e : ERef) (s t : State) : Prop where
  state : ∃ num elems, t = { s with num := num, elems := elems }
  elem : ∃ outs, t.elem e = { s.elem e with outs := outs }

theorem OutputsOnly.refl (e : ERef) (s : State) : OutputsOnly e s s := ⟨⟨_, _, rfl⟩, _, rfl⟩

theorem OutputsOnly.trans {e : ERef} {s t u : State} : OutputsOnly e s t → OutputsOnly e t u → OutputsOnly e s u := by
  rintro ⟨⟨_, _, rfl⟩, _, h⟩ ⟨⟨_, _, rfl⟩, _, h'⟩
  exact ⟨⟨_, _, rfl⟩, _, by rw [h', h]⟩

theorem outChan_of_lt {c : Nat} (hc : c < 4) : outChan (BitVec.ofNat 4 (8 + c)) = some c := by
  have h : (BitVec.ofNat 4 (8 + c)).toNat = 8 + c := by rw [BitVec.toNat_ofNat]; exact Nat.mod_eq_of_lt (by omega)
  rw [outChan, h, if_pos (by omega)]
  congr 1; omega

/-- A token written to an output stands behind the others, with its release on a boundary route. -/
theorem pushOutTok_spec (s : State) (e : ERef) {c : Nat} (hc : c < 4) (tk : Token) :
    OutputsOnly e s (pushOutTok s e c tk) ∧
    (((pushOutTok s e c tk).elem e).out c).map Token.shown = ((s.elem e).out c).map Token.shown ++ [tk.shown] ∧
    ∀ k, k ≠ c → ((pushOutTok s e c tk).elem e).out k = (s.elem e).out k := by
  have hpush : ((s.modElem e fun x => x.pushOut c tk).elem e).out c = (s.elem e).out c ++ [tk] := by
    rw [State.elem_modElem_self]; exact kget_kset_self ..
  have hne (k : Nat) (hk : k ≠ c) : ((s.modElem e fun x => x.pushOut c tk).elem e).out k = (s.elem e).out k := by
    rw [State.elem_modElem_self]; exact kget_kset_ne _ _ (Ne.symm hk) _
  unfold pushOutTok outRelease
  simp only [outChan_of_lt hc]
  split
  · set s1 := s.modElem e fun x => x.pushOut c tk with hs1
    have he (g : Elem → Elem) : ((releaseAt s1 e.inst e.reg (before s1 e)).2.modElem e g).elem e = g (s1.elem e) :=
      State.elem_modElem_self ..
    rw [he]
    refine ⟨⟨⟨_, _, rfl⟩, _, (he _).trans (by rw [hs1, State.elem_modElem_self]; rfl)⟩, ?_, fun k hk => ?_⟩
    · rw [Elem.out, kget_kset_self, map_shown_relastRel, hpush, List.map_append]; rfl
    · rw [Elem.out, kget_kset_ne _ _ (Ne.symm hk)]; exact hne k hk
  · refine ⟨⟨⟨_, _, rfl⟩, _, State.elem_modElem_self ..⟩, ?_, hne⟩
    rw [hpush, List.map_append]; rfl

/-- A token written to several outputs. -/
theorem pushOutToks_spec (e : ERef) (tk : Token) {cs : List Nat} (hlt : ∀ c ∈ cs, c < 4) (hn : cs.Nodup) (s : State) :
    let t := cs.foldl (fun t c => pushOutTok t e c tk) s
    OutputsOnly e s t ∧
    (∀ c ∈ cs, ((t.elem e).out c).map Token.shown = ((s.elem e).out c).map Token.shown ++ [tk.shown]) ∧
    ∀ c, c ∉ cs → (t.elem e).out c = (s.elem e).out c := by
  induction cs generalizing s with
  | nil => exact ⟨.refl e s, by simp, fun _ _ => rfl⟩
  | cons c cs ih =>
    obtain ⟨hc, hcs⟩ := List.forall_mem_cons.mp hlt
    obtain ⟨hnc, hncs⟩ := List.nodup_cons.mp hn
    obtain ⟨hon, hout, hother⟩ := pushOutTok_spec s e hc tk
    obtain ⟨hon', hout', hother'⟩ := ih hcs hncs (pushOutTok s e c tk)
    refine ⟨hon.trans hon', fun k hk => ?_, fun k hk => ?_⟩
    · rcases List.mem_cons.mp hk with rfl | hk
      · exact (congrArg (List.map Token.shown) (hother' k hnc)).trans hout
      · rw [← hother k fun h => hnc (h ▸ hk)]; exact hout' k hk
    · obtain ⟨hkc, hk⟩ := List.ne_and_not_mem_of_not_mem_cons hk
      exact (hother' k hk).trans (hother k hkc)

/-! ## Tokens taken from inputs -/

/-- Heads taken from several channels. -/
theorem popIns_spec {cs : List Nat} (hn : cs.Nodup) (x : Elem) :
    let y := cs.foldl (fun x c => x.popIn c) x
    (∃ inp, y = { x with inp := inp }) ∧ ∀ c, y.chan c = if c ∈ cs then (x.chan c).drop 1 else x.chan c := by
  induction cs generalizing x with
  | nil => exact ⟨⟨_, rfl⟩, by simp⟩
  | cons c cs ih =>
    obtain ⟨hnc, hncs⟩ := List.nodup_cons.mp hn
    obtain ⟨⟨inp, hy⟩, hch⟩ := ih hncs (x.popIn c)
    refine ⟨⟨inp, hy⟩, fun k => (hch k).trans ?_⟩
    rw [Elem.chan_popIn]
    by_cases hk : c = k
    · subst hk
      rw [if_neg hnc, if_pos rfl, if_pos List.mem_cons_self]
    · simp [hk, Ne.symm hk]

/-! ## The reset -/

theorem mem_routedIns {g : StageImage} {e : ERef} {c : Nat} : c ∈ routedIns g e ↔ c < 4 ∧ g.endsRoute e c = true := by
  simp [routedIns]

theorem mem_routedOuts {g : StageImage} {e : ERef} {c : Nat} : c ∈ routedOuts g e ↔ c < 4 ∧ g.beginsRoute e c = true := by
  simp [routedOuts]

theorem routedIns_nodup (g : StageImage) (e : ERef) : (routedIns g e).Nodup := List.nodup_range.filter _
theorem routedOuts_nodup (g : StageImage) (e : ERef) : (routedOuts g e).Nodup := List.nodup_range.filter _

/-- The lowest routed input stands first. -/
theorem routedIns_head_le {g : StageImage} {e : ERef} {k : Nat} {ks : List Nat} (h : routedIns g e = k :: ks) :
    ∀ j ∈ routedIns g e, k ≤ j := by
  have hs : (routedIns g e).Pairwise (· < ·) := List.pairwise_lt_range.filter _
  rw [h] at hs ⊢
  intro j hj
  rcases List.mem_cons.mp hj with rfl | hj
  · exact Nat.le_refl _
  · exact Nat.le_of_lt ((List.pairwise_cons.mp hs).1 j hj)

/-- Noting a reset changes the stage alone. -/
theorem noteReset_spec (s : State) (e : ERef) : ∃ insts, noteReset s e = { s with insts := insts } := by
  unfold noteReset
  split <;> exact ⟨_, rfl⟩

/-- The marker that a reset pushes: the payload of the lowest routed input's, the OR of the exception bits of those taken (R32). -/
def resetMarker (s : State) (e : ERef) : Token :=
  let ins := routedIns (s.inst e.inst).img e
  ⟨((ins.head?.bind (fun c => ((s.elem e).chan c).head?)).map Token.w).getD 0, 3,
    ins.any (fun c => (((s.elem e).chan c).head?.map Token.exc).getD false), none, none⟩

/-- An element after its reset, but for its outputs. -/
def resetRegs (s : State) (e : ERef) (m : ElemImage) : Elem :=
  restoreRegs m (s.graph (s.inst e.inst).graph).args (s.inst e.inst).handles
    ((routedIns (s.inst e.inst).img e).foldl (fun x c => x.popIn c) (s.elem e))

/-- What the reset of an element keeps of it: all but its inputs, registers, flags, predicates, charge state and pump counters. -/
theorem resetRegs_eq (s : State) (e : ERef) (m : ElemImage) :
    ∃ inp, resetRegs s e m = restoreRegs m (s.graph (s.inst e.inst).graph).args (s.inst e.inst).handles { s.elem e with inp := inp } ∧
      ∀ c, kget [] inp c = if c ∈ routedIns (s.inst e.inst).img e then ((s.elem e).chan c).drop 1 else (s.elem e).chan c := by
  obtain ⟨⟨inp, hy⟩, hch⟩ := popIns_spec (routedIns_nodup (s.inst e.inst).img e) (s.elem e)
  refine ⟨inp, congrArg _ hy, fun c => ?_⟩
  rw [← hch c, hy]
  rfl

theorem resetElem_spec {s : State} {e : ERef} {m : ElemImage} (hm : (s.inst e.inst).img.elemImage e.reg e.el = some m) :
    (∃ num elems insts, resetElem s e = { s with num := num, elems := elems, insts := insts }) ∧
    (∃ outs, (resetElem s e).elem e = { resetRegs s e m with outs := outs }) ∧
    (∀ c ∈ routedOuts (s.inst e.inst).img e,
      (((resetElem s e).elem e).out c).map Token.shown = ((s.elem e).out c).map Token.shown ++ [(resetMarker s e).shown]) ∧
    ∀ c, c ∉ routedOuts (s.inst e.inst).img e → ((resetElem s e).elem e).out c = (s.elem e).out c := by
  have heq : resetElem s e = noteReset ((routedOuts (s.inst e.inst).img e).foldl (fun t c => pushOutTok t e c (resetMarker s e))
      (s.setElem e (resetRegs s e m))) e := by
    simp only [resetElem, hm]
    rfl
  obtain ⟨⟨⟨num, elems, hst⟩, outs, hel⟩, hout, hother⟩ := pushOutToks_spec e (resetMarker s e)
    (fun c hc => (mem_routedOuts.mp hc).1) (routedOuts_nodup ..) (s.setElem e (resetRegs s e m))
  obtain ⟨insts, hnote⟩ := noteReset_spec ((routedOuts (s.inst e.inst).img e).foldl (fun t c => pushOutTok t e c (resetMarker s e))
    (s.setElem e (resetRegs s e m))) e
  have hsame (a : ERef) : (resetElem s e).elem a = ((routedOuts (s.inst e.inst).img e).foldl
      (fun t c => pushOutTok t e c (resetMarker s e)) (s.setElem e (resetRegs s e m))).elem a := by rw [heq, hnote]; rfl
  have houts (c : Nat) : ((s.setElem e (resetRegs s e m)).elem e).out c = (s.elem e).out c := by
    obtain ⟨inp, hr, -⟩ := resetRegs_eq s e m
    rw [State.elem_setElem_self, hr]
    rfl
  refine ⟨⟨num, elems, insts, ?_⟩, ⟨outs, ?_⟩, fun c hc => ?_, fun c hc => ?_⟩
  · rw [heq, hnote, hst]; rfl
  · rw [hsame, hel, State.elem_setElem_self]
  · rw [hsame, hout c hc, houts]
  · rw [hsame, hother c hc, houts]

theorem canReset_iff {s : State} {e : ERef} :
    canReset s e = true ↔ (∃ c, c ∈ routedIns (s.inst e.inst).img e) ∧
      (∀ c ∈ routedIns (s.inst e.inst).img e, ∃ h ts, (s.elem e).chan c = h :: ts ∧ h.tag = 3 ∧ bits h.w 31 24 = 2) ∧
      nextSlot s e = none ∧ (s.elem e).trapped = false ∧ (s.elem e).ended = false ∧
      ∀ c ∈ routedOuts (s.inst e.inst).img e, ((s.elem e).out c).length < 2 := by
  have hhead (ts : List Token) : (ts.head?.map isEndInv).getD false = true ↔ ∃ h ts', ts = h :: ts' ∧ h.tag = 3 ∧ bits h.w 31 24 = 2 := by
    cases ts <;> simp [isEndInv]
  have hne (cs : List Nat) : cs ≠ [] ↔ ∃ c, c ∈ cs := ⟨List.exists_mem_of_ne_nil cs, fun ⟨_, h⟩ => List.ne_nil_of_mem h⟩
  simp only [canReset, Bool.and_eq_true, bne_iff_ne, hne, List.all_eq_true, hhead, Option.isNone_iff_eq_none, Bool.not_eq_true',
    Elem.outRoom, decide_eq_true_eq, and_assoc]

/-- The marker that a reset pushes is that of the lowest routed input, with the OR of the exception bits. -/
theorem resetMarker_shown {s : State} {e : ERef} (hne : ∃ c, c ∈ routedIns (s.inst e.inst).img e)
    (hh : ∀ c ∈ routedIns (s.inst e.inst).img e, ∃ h ts, (s.elem e).chan c = h :: ts ∧ h.tag = 3 ∧ bits h.w 31 24 = 2) :
    ∃ k h ts, k ∈ routedIns (s.inst e.inst).img e ∧ (∀ j ∈ routedIns (s.inst e.inst).img e, k ≤ j) ∧ (s.elem e).chan k = h :: ts ∧
      (resetMarker s e).shown = (h.w, 3, (List.range 4).any (fun j => (s.inst e.inst).img.endsRoute e j &&
        (((s.elem e).chan j).head?.map Token.exc).getD false)) := by
  obtain ⟨c, hc⟩ := hne
  obtain ⟨k, ks, hk⟩ := List.exists_cons_of_ne_nil (List.ne_nil_of_mem hc)
  have hmem : k ∈ routedIns (s.inst e.inst).img e := by rw [hk]; exact List.mem_cons_self
  obtain ⟨h, ts, hch, -⟩ := hh k hmem
  refine ⟨k, h, ts, hmem, routedIns_head_le hk, hch, ?_⟩
  have hw : (((routedIns (s.inst e.inst).img e).head?.bind (fun c => ((s.elem e).chan c).head?)).map Token.w).getD 0 = h.w := by
    simp [hk, hch]
  rw [resetMarker, Token.shown]
  dsimp only
  rw [hw, routedIns, List.any_filter]

/-- Settles O23: the eligible slots by `eligible_iff`, the beats by the condition of their steps, the reset by `resetElem_spec`. -/
theorem slotIssueResults : Obligations.SlotIssueResults := by
  refine ⟨fun s e hiss => ?_, fun s e m => ?_⟩
  · intro x free b
    have hst := (stageIssues_iff s e.inst).mpr hiss
    have hfree : free ↔ Free x := Iff.rfl
    refine ⟨not_next_of_beaten, fun i hf hb hi he hlow => ?_, ?_, fun i n hd hb hroom => ?_, fun i n hd hb hroom hin => ?_,
      fun w hd hacc hj hup hh hb => ⟨?_, fun f hw hfull => ?_, fun f r hw hroom hr => ?_, fun f hw ha ho => ?_⟩⟩
    · exact (execSlotIssue_eq_some (nextSlot_eq_some hf hi he hlow)).trans ((when_eq_next ..).mpr ⟨by simp [hst, hb], rfl⟩)
    · rintro hno ⟨t, ht⟩
      simp [exec, execSlotIssue, nextSlot_eq_none hno] at ht
    · exact (execMultiBeatBeat_eq hd).trans ((when_eq_next ..).mpr ⟨by simp [hst, hb, x, hroom], rfl⟩)
    · exact (execChannelOperandWaitEnd_eq hd).trans
        ((when_eq_next ..).mpr ⟨by simp [hst, hb, x, hroom, (operandsIn_iff x (x.slotWord i)).mpr hin], rfl⟩)
    · have hacc' : accPending s (.element e) = false := by simpa [accPending] using hacc
      exact (execWaitingInstructionResume_eq hd).trans ((when_eq_next ..).mpr ⟨by simp [hacc', hup.1, hup.2, hb, hh, x], rfl⟩)
    · exact (resume_bcwait hw e b).trans (settle_full hfull)
    · exact resume_bcwait_eq hw hj hroom hr
    · exact resume_mdone_elem hw hj ho
  · intro x i into outof hiss hheld hm
    have hst := (stageIssues_iff s e.inst).mpr hiss
    refine ⟨?_, fun htrap hend hb hno hex hin hout => ?_⟩
    · rintro hend ⟨t, ht⟩
      obtain ⟨hc, -⟩ := (when_eq_next ..).mp ht
      simp only [Bool.and_eq_true] at hc
      obtain ⟨-, -, -, -, hne, -⟩ := canReset_iff.mp hc.1.1.1
      exact absurd hend (by simp [x, hne])
    · have hins (c : Nat) : c ∈ routedIns i.img e ↔ into c := mem_routedIns
      have houts (c : Nat) : c ∈ routedOuts i.img e ↔ outof c := mem_routedOuts
      have hnext : nextSlot s e = none := by
        rcases hno with h | h | h
        · exact nextSlot_eq_none (.inl fun hf => h hf.1)
        · exact nextSlot_eq_none (.inl fun hf => absurd (hf.2.1.symm.trans h) (by decide))
        · exact nextSlot_eq_none (.inr h)
      have hcan : canReset s e = true := canReset_iff.mpr ⟨hex.imp fun c => (hins c).mpr, fun c hc => hin c ((hins c).mp hc), hnext, htrap,
        hend, fun c hc => hout c ((houts c).mp hc)⟩
      obtain ⟨⟨num, elems, insts, hst'⟩, ⟨outs, hel⟩, hpush, hkeep⟩ := resetElem_spec (s := s.beat e) hm
      obtain ⟨inp, hregs, hinp⟩ := resetRegs_eq (s.beat e) e m
      rw [hregs] at hel
      have hfree : e.reg ∉ (s.inst e.inst).held := hheld
      refine ⟨resetElem (s.beat e) e, (when_eq_next ..).mpr ⟨by simp [hcan, hst, hb, hfree], rfl⟩, by rw [hst']; exact fun _ _ => rfl,
        fun c hc => ?_, fun c hc => ?_, fun k => ?_, fun k => ?_, ?_, fun k => ?_, ?_, fun p => ?_, ?_, ?_, ?_, ?_, ?_, fun c hc => ?_,
        fun c _ hc => hkeep c (mt (houts c).mp hc)⟩
      · rw [hel]; exact (hinp c).trans (if_pos ((hins c).mpr hc))
      · rw [hel]; exact (hinp c).trans (if_neg (mt (hins c).mp hc))
      · rw [hel]; exact kget_indexed0 ..
      · rw [hel]; rfl
      · rw [hel]; rfl
      · rw [hel]; exact kget_indexed0 ..
      · rw [hel]; rfl
      · have hp : ((resetElem (s.beat e) e).elem e).pump p = (x.pump p).atStart := by
          rw [hel]; exact restoreRegs_pump m (s.graph i.graph).args i.handles { x with inp := inp } p
        rw [hp]; exact ⟨rfl, rfl, rfl, rfl⟩
      iterate 5 · rw [hel]; rfl
      · obtain ⟨k, h, ts, hk, hlow, hch, hshow⟩ := resetMarker_shown (s := s.beat e) (hex.imp fun c => (hins c).mpr)
          fun c hc => hin c ((hins c).mp hc)
        exact ⟨k, h, ts, (hins k).mp hk, fun j hj => hlow j ((hins j).mpr hj), hch, hshow ▸ hpush c ((houts c).mpr hc)⟩

end Sys2Proof.Machine
end

section
/-! SUPPORT. What the steps of a placement, a save and a resume leave as it was, and an element's registers after each
(spec/22_scheduling_power.md R328 to R334): Obligations.SchedulingResults. -/

namespace Sys2Proof.Machine

/-! ## Lists and maps -/

/-- A table over the first n keys. -/
theorem kget_table {α : Type} (d : α) (f : Nat → α) {n k : Nat} (hk : k < n) : kget d ((List.range n).map fun j => (j, f j)) k = f k := by
  refine (kget_eq_of_forall_mem (v := f k) ?_ ?_)
  · rintro p hp rfl
    obtain ⟨j, -, rfl⟩ := List.mem_map.mp hp
    rfl
  · exact (khas_iff_exists ..).mpr ⟨(k, f k), List.mem_map.mpr ⟨k, List.mem_range.mpr hk, rfl⟩, rfl⟩

/-- A map whose values are rewritten under their keys. -/
theorem kget_map_keyed {κ α : Type} [DecidableEq κ] {d : α} {m : AMap κ α} {f : κ × α → κ × α} (hf : ∀ p, (f p).1 = p.1) {k : κ}
    (hk : khas m k = true) : kget d (m.map f) k = (f (k, kget d m k)).2 := by
  induction m with
  | nil => simp [khas] at hk
  | cons p m ih =>
    by_cases h : p.1 = k
    · subst h
      simp [kget, hf]
    · have hm : khas m k = true := by simpa [khas, h] using hk
      simpa [kget, hf, h] using ih hm

theorem khas_map_keyed {κ α : Type} [DecidableEq κ] (m : AMap κ α) {f : κ × α → κ × α} (hf : ∀ p, (f p).1 = p.1) (k : κ) :
    khas (m.map f) k = khas m k := by
  simp [khas, List.any_map, Function.comp_def, hf]

theorem kget_foldl_kset {κ α : Type} [DecidableEq κ] (d v : α) {ks : List κ} {k : κ} (hk : k ∈ ks) (m : AMap κ α) :
    kget d (ks.foldl (fun m j => kset m j v) m) k = v := by
  induction ks using List.reverseRecOn with
  | nil => simp at hk
  | append_singleton ks j ih =>
    rw [List.foldl_append, List.foldl_cons, List.foldl_nil, kget_kset]
    split
    next => rfl
    next h =>
      refine ih ((List.mem_append.mp hk).resolve_right fun hj => h ?_)
      exact (List.mem_singleton.mp hj).symm

/-- The number whose bits are given. -/
theorem bitSum_lt (b : Nat → Bool) (n : Nat) : (List.range n).foldl (fun a k => a + if b k = true then 2 ^ k else 0) 0 < 2 ^ n := by
  induction n with
  | zero => simp
  | succ n ih =>
    rw [List.range_succ, List.foldl_append, Nat.pow_succ]
    simp only [List.foldl_cons, List.foldl_nil]
    split <;> omega

theorem testBit_bitSum (b : Nat → Bool) {n k : Nat} (hk : k < n) :
    ((List.range n).foldl (fun a k => a + if b k = true then 2 ^ k else 0) 0).testBit k = b k := by
  induction n with
  | zero => simp at hk
  | succ n ih =>
    have hlt := bitSum_lt b n
    rw [List.range_succ, List.foldl_append]
    simp only [List.foldl_cons, List.foldl_nil]
    rcases Nat.lt_succ_iff_lt_or_eq.mp hk with h | rfl
    · split
      · rw [Nat.add_comm, Nat.testBit_two_pow_add_gt h]; exact ih h
      · exact ih h
    · cases hb : b k
      · simpa using Nat.testBit_lt_two_pow hlt
      · simp only [if_true]
        rw [Nat.add_comm, Nat.testBit_two_pow_add_eq, Nat.testBit_lt_two_pow hlt]
        rfl

/-! ## Tiles allocated in order (R172) -/

/-- A handle put before those of the tiles that follow. -/
def withHandle (h : Word) : Except Stop (List Word × State) → Except Stop (List Word × State)
  | .error e => .error e
  | .ok (hs, s) => .ok (h :: hs, s)

theorem allocDecls_nil (inst : Nat) (s : State) : allocDecls inst [] s = .ok ([], s) := rfl

/-! The two equations are read off the recursion itself: Lean's own equation for `allocDecls` is too deep for its default limit. -/

theorem allocDecls_cons_of_error {inst : Nat} {d : TileDecl} {ts : List TileDecl} {s : State} {e : Stop}
    (h : allocTile s inst d.reg d.el d.spec = .error e) : allocDecls inst (d :: ts) s = .error e := by
  delta allocDecls allocDecls._f
  dsimp only
  rw [h]

theorem allocDecls_cons_of_ok {inst : Nat} {d : TileDecl} {ts : List TileDecl} {s s1 : State} {hd : Word}
    (h : allocTile s inst d.reg d.el d.spec = .ok (hd, s1)) :
    ∃ bs, allocDecls inst (d :: ts) s = withHandle hd (allocDecls inst ts (writeThrough s1 bs)) := by
  refine ⟨keyed (tileKey (entryOf s1 inst hd).1 (entryOf s1 inst hd).2 0) d.contents, ?_⟩
  delta allocDecls allocDecls._f List.brecOn List.brecOn.go
  dsimp only
  rw [h]
  rfl

theorem withHandle_eq_ok {h : Word} {r : Except Stop (List Word × State)} {hs : List Word} {t : State}
    (hr : withHandle h r = .ok (hs, t)) : ∃ hs', r = .ok (hs', t) := by
  cases r with
  | error e => exact absurd hr (by simp [withHandle])
  | ok p =>
    have ht : p.2 = t := congrArg (·.2) (Except.ok.inj hr)
    exact ⟨p.1, by rw [← ht]⟩

/-! ## Steps that leave stages, graphs, clocks and elements as they were -/

structure StagesKept (s t : State) : Prop where
  elems : t.elems = s.elems
  insts : t.insts = s.insts
  graphs : t.graphs = s.graphs
  clk : t.clk = s.clk

namespace StagesKept

variable {s t u : State}

theorem refl (s : State) : StagesKept s s := ⟨rfl, rfl, rfl, rfl⟩

theorem trans (h : StagesKept s t) (k : StagesKept t u) : StagesKept s u :=
  ⟨k.elems.trans h.elems, k.insts.trans h.insts, k.graphs.trans h.graphs, k.clk.trans h.clk⟩

theorem foldl {α : Type} {f : State → α → State} (hf : ∀ s a, StagesKept s (f s a)) (as : List α) (s : State) :
    StagesKept s (as.foldl f s) :=
  List.foldlRecOn as _ (refl s) fun _ h _ _ => h.trans (hf ..)

theorem of_memoryOnly : MemoryOnly s t → StagesKept s t := by
  rintro ⟨_, _, _, rfl⟩
  exact ⟨rfl, rfl, rfl, rfl⟩

theorem elem (h : StagesKept s t) (e : ERef) : t.elem e = s.elem e := by rw [State.elem, State.elem, h.elems]
theorem inst (h : StagesKept s t) (i : Nat) : t.inst i = s.inst i := by rw [State.inst, State.inst, h.insts]
theorem graph (h : StagesKept s t) (g : Nat) : t.graph g = s.graph g := by rw [State.graph, State.graph, h.graphs]

theorem remap (s : State) (inst : Nat) (ptes : List (Nat × BitVec 64)) : StagesKept s (remap s inst ptes) :=
  (of_memoryOnly (MemoryOnly.writePtes ptes s)).trans ⟨rfl, rfl, rfl, rfl⟩

theorem newEpoch (s : State) (c : Nat) : StagesKept s (newEpoch s c) := ⟨rfl, rfl, rfl, rfl⟩

theorem modRegion (s : State) (r : RRef) (f : Region → Region) : StagesKept s (s.modRegion r f) := ⟨rfl, rfl, rfl, rfl⟩

theorem choose (s : State) : StagesKept s s.choose.2 := by
  unfold State.choose
  split <;> exact ⟨rfl, rfl, rfl, rfl⟩

theorem freeSlot {tab k : Nat} (h : freeSlot s tab = some (k, t)) : StagesKept s t := by
  unfold Machine.freeSlot at h
  dsimp only at h
  split at h
  · exact absurd h (by simp)
  · have ht : s.choose.2 = t := congrArg (·.2) (Option.some.inj h)
    exact ht ▸ choose s

theorem allocTile {inst reg el : Nat} {spec hd : Word} (h : allocTile s inst reg el spec = .ok (hd, t)) : StagesKept s t := by
  unfold Machine.allocTile at h
  dsimp only at h
  generalize (if specLvl spec = 2 then reg / 24 else reg) = place at h
  split at h
  · exact absurd h (by simp [trap0])
  · next hfree =>
    split at h
    · obtain rfl : _ = t := congrArg (·.2) (Except.ok.inj h)
      exact (freeSlot hfree).trans ⟨rfl, rfl, rfl, rfl⟩
    · exact absurd h (by simp [trap0])

theorem allocDecls {inst : Nat} {ts : List TileDecl} {hs : List Word} (h : allocDecls inst ts s = .ok (hs, t)) : StagesKept s t := by
  induction ts generalizing s hs with
  | nil =>
    have hnil : Except.ok ([], s) = .ok (hs, t) := (allocDecls_nil inst s).symm.trans h
    have ht : s = t := congrArg (·.2) (Except.ok.inj hnil)
    exact ht ▸ refl s
  | cons d ts ih =>
    cases halloc : Machine.allocTile s inst d.reg d.el d.spec with
    | error e => exact absurd ((allocDecls_cons_of_error halloc).symm.trans h) (by simp)
    | ok p =>
      obtain ⟨bs, heq⟩ := allocDecls_cons_of_ok halloc
      obtain ⟨hs', hrest⟩ := withHandle_eq_ok (heq.symm.trans h)
      exact ((allocTile halloc).trans (of_memoryOnly (MemoryOnly.writeThrough p.2 bs))).trans (ih hrest)

theorem writeObjs (s : State) (inst : Nat) (hs : List Word) : StagesKept s (writeObjs s inst hs) :=
  foldl (fun t _ => of_memoryOnly ((MemoryOnly.writeThrough t _).trans (MemoryOnly.stored ..))) _ s

theorem moveTiles (s : State) (inst a b : Nat) : StagesKept s (moveTiles s inst a b) := by
  refine foldl (fun _ _ => ?_) _ s
  exact ⟨rfl, rfl, rfl, rfl⟩

theorem saveTiles (s : State) (inst : Nat) : StagesKept s (saveTiles s inst) := foldl (fun t _ => moveTiles t ..) _ s

theorem restoreTiles (s : State) (inst : Nat) : StagesKept s (restoreTiles s inst) := by
  refine foldl (fun t p => ?_) _ s
  exact (moveTiles t inst p.1 p.2).trans ⟨rfl, rfl, rfl, rfl⟩

theorem saveData (s : State) (inst : Nat) : StagesKept s (saveData s inst) := by
  refine foldl (fun t _ => foldl (fun _ _ => ?_) _ t) _ s
  exact ⟨rfl, rfl, rfl, rfl⟩

theorem restoreData (s : State) (inst : Nat) : StagesKept s (restoreData s inst) := by
  refine foldl (fun t _ => foldl (fun _ _ => ?_) _ t) _ s
  exact ⟨rfl, rfl, rfl, rfl⟩

end StagesKept

/-! ## Elements changed one after another -/

theorem foldl_modElem_state {α : Type} (pl : α → ERef) (F : α → Elem → Elem) (as : List α) (s : State) :
    ∃ elems, as.foldl (fun t a => t.modElem (pl a) (F a)) s = { s with elems := elems } := by
  induction as generalizing s with
  | nil => exact ⟨_, rfl⟩
  | cons a as ih =>
    obtain ⟨elems, h⟩ := ih (s.modElem (pl a) (F a))
    exact ⟨elems, h⟩

theorem elem_foldl_modElem_of_notMem {α : Type} (pl : α → ERef) (F : α → Elem → Elem) {as : List α} {e : ERef} (he : e ∉ as.map pl) (s : State) :
    (as.foldl (fun t a => t.modElem (pl a) (F a)) s).elem e = s.elem e := by
  refine List.foldlRecOn as _ (motive := fun t : State => t.elem e = s.elem e) rfl fun t h a ha => ?_
  have hne : pl a ≠ e := fun hp => he (hp ▸ List.mem_map_of_mem ha)
  rw [State.elem_modElem_ne _ _ hne, h]

theorem elem_foldl_modElem {α : Type} (pl : α → ERef) (F : α → Elem → Elem) {as : List α} (hn : (as.map pl).Nodup) (s : State) {a : α}
    (ha : a ∈ as) : (as.foldl (fun t a => t.modElem (pl a) (F a)) s).elem (pl a) = F a (s.elem (pl a)) := by
  induction as generalizing s with
  | nil => simp at ha
  | cons b as ih =>
    obtain ⟨hb, hn⟩ := List.nodup_cons.mp hn
    rw [List.foldl_cons]
    rcases List.mem_cons.mp ha with rfl | ha
    · rw [elem_foldl_modElem_of_notMem pl F hb, State.elem_modElem_self]
    · have hne : pl b ≠ pl a := fun h => hb (h ▸ List.mem_map_of_mem ha)
      rw [ih hn _ ha, State.elem_modElem_ne _ _ hne]

/-! ## Registers that a live map keeps (R334) -/

theorem initElem_dreg (args : KMap Word) (hs : List Word) (g : ElemImage) (n : Nat) :
    (initElem args hs g).dreg n = (g.d.map (initVal args hs)).getD n 0 := kget_indexed0 ..

theorem keepRegs_none (args : KMap Word) (hs : List Word) (g : ElemImage) (x : Elem) : keepRegs args hs g none x = x := rfl

theorem keepRegs_some_dreg (args : KMap Word) (hs : List Word) (g : ElemImage) (m : LiveMap) (x : Elem) {n : Nat} (hn : n < 8) :
    (keepRegs args hs g (some m) x).dreg n = if n ∈ m.d then x.dreg n else (g.d.map (initVal args hs)).getD n 0 := by
  rw [← initElem_dreg]
  refine (kget_table 0 (fun k => if m.d.contains k then x.dreg k else (initElem args hs g).dreg k) hn).trans ?_
  simp only [List.contains_iff_mem]

theorem keepRegs_some_p (args : KMap Word) (hs : List Word) (g : ElemImage) (m : LiveMap) (x : Elem) {n : Nat} (hn : n < 8) :
    bit (keepRegs args hs g (some m) x).p n = if n ∈ m.p then bit x.p n else bit g.p n := by
  refine (BitVec.getLsbD_ofNat ..).trans ?_
  rw [testBit_bitSum (fun k => if m.p.contains k then bit x.p k else bit (initElem args hs g).p k) hn]
  simp only [hn, decide_true, Bool.true_and, List.contains_iff_mem]
  rfl

theorem keepRegs_inp (args : KMap Word) (hs : List Word) (g : ElemImage) (m : Option LiveMap) (x : Elem) :
    (keepRegs args hs g m x).inp = x.inp := by
  cases m <;> rfl

end Sys2Proof.Machine
end

section
/-! SUPPORT. Decisions, quanta, aging and clock windows (spec/22_scheduling_power.md R330 to R332, R337): Obligations.SchedulingResults. -/

namespace Sys2Proof.Machine

/-! ## Decisions (R330, R331) -/

theorem markStage_pick (s : State) (x c : Nat) : ((markStage s x).inst c).pick = (s.inst c).pick := by
  unfold markStage
  split
  · rw [State.inst_modInst]
    split
    next h => rw [h]
    next => rfl
  · rfl

theorem foldl_markStage_pick (xs : List Nat) (s : State) (c : Nat) : ((xs.foldl markStage s).inst c).pick = (s.inst c).pick :=
  List.foldlRecOn xs _ (motive := fun t : State => (t.inst c).pick = (s.inst c).pick) rfl
    fun t h x _ => (markStage_pick t x c).trans h

/-- A candidate picked where it starts. -/
def pickAt (s : State) (c : Nat) (k : Spot) : State :=
  { s.modInst c (fun i => { i with pick := some k, placedNo := s.fresh }) with fresh := s.fresh + 1 }

theorem pickAt_pick_self (s : State) (c : Nat) (k : Spot) : ((pickAt s c k).inst c).pick = some k := by
  have h : (pickAt s c k).inst c = { s.inst c with pick := some k, placedNo := s.fresh } :=
    (State.inst_modInst s c c fun i => { i with pick := some k, placedNo := s.fresh }).trans (if_pos rfl)
  rw [h]

theorem pickAt_pick_ne (s : State) {c d : Nat} (k : Spot) (h : d ≠ c) : ((pickAt s d k).inst c).pick = (s.inst c).pick := by
  have hi : (pickAt s d k).inst c = s.inst c :=
    (State.inst_modInst s d c fun i => { i with pick := some k, placedNo := s.fresh }).trans (if_neg h)
  rw [hi]

theorem tryStages_of_none {s : State} {c : Nat} (cs passed : List Nat) (h : startSpot s (withPicks s) c = none) :
    tryStages (c :: cs) passed s = tryStages cs (passed ++ [c]) ((marksFor s (withPicks s) c).foldl markStage s) := by
  rw [tryStages]
  simp only [h]

theorem tryStages_of_some {s : State} {c : Nat} {k : Spot} (cs passed : List Nat) (h : startSpot s (withPicks s) c = some k) :
    tryStages (c :: cs) passed s =
      tryStages cs passed (if notMarkedFor (pickAt s c k) c passed then pickAt s c k else s) := by
  rw [tryStages]
  simp only [h]
  rfl

/-- Candidates tried later leave the pick of one that is none of them. -/
theorem tryStages_pick {c : Nat} {cs : List Nat} (hc : c ∉ cs) (passed : List Nat) (s : State) :
    ((tryStages cs passed s).inst c).pick = (s.inst c).pick := by
  induction cs generalizing passed s with
  | nil => rfl
  | cons d cs ih =>
    obtain ⟨hne, hcs⟩ := List.ne_and_not_mem_of_not_mem_cons hc
    cases h : startSpot s (withPicks s) d with
    | none => rw [tryStages_of_none cs passed h, ih hcs, foldl_markStage_pick]
    | some k =>
      rw [tryStages_of_some cs passed h, ih hcs]
      split
      · exact pickAt_pick_ne s k (Ne.symm hne)
      · rfl

theorem execSchedulerDecision_first {s : State} {c : Nat} {cs : List Nat} {k : Spot} (hl : Leads s) (hd : s.sched.due = true)
    (hcs : candidates s = c :: cs) (hc : c ∉ cs) (hk : startSpot s (withPicks s) c = some k) :
    ∃ t, exec .schedulerDecision s = .next t ∧ (t.inst c).pick = some k ∧ t.sched.due = false := by
  have hpick : ((tryStages (candidates s) [] s).inst c).pick = some k := by
    rw [hcs, tryStages_of_some cs [] hk, tryStages_pick hc]
    exact pickAt_pick_self s c k
  exact ⟨_, (when_eq_next ..).mpr ⟨by simp [(leads_iff s).mpr hl, hd], rfl⟩, hpick, rfl⟩

theorem execSchedulerDecision_none {s : State} (hl : Leads s) (hd : s.sched.due = true) (hcs : candidates s = []) :
    exec .schedulerDecision s = .next { s with sched := { s.sched with due := false } } :=
  (when_eq_next ..).mpr ⟨by simp [(leads_iff s).mpr hl, hd], by rw [hcs, tryStages]⟩

theorem execSchedulerDecision_not {s : State} (h : ¬ Leads s ∨ s.sched.due = false) : ¬ ∃ t, exec .schedulerDecision s = .next t := by
  rintro ⟨t, ht⟩
  obtain ⟨hc, -⟩ := (when_eq_next ..).mp ht
  simp only [Bool.and_eq_true, leads_iff] at hc
  rcases h with h | h
  · exact h hc.1
  · simp [h] at hc

/-! ## Quanta and aging (R331, R332) -/

theorem markStage_running {s : State} {x : Nat} (h : (s.inst x).status = .running) :
    ((markStage s x).inst x).marked = true ∧ ((markStage s x).inst x).qstart = (s.inst x).qstart := by
  rw [markStage, if_pos (.inl h), State.inst_modInst, if_pos rfl]
  exact ⟨rfl, rfl⟩

/-- A stage whose quantum begins anew. -/
def restartQuantum (s : State) (inst : Nat) : State := s.modInst inst (fun i => { i with qstart := s.now })

theorem restartQuantum_inst (s : State) (inst : Nat) : (restartQuantum s inst).inst inst = { s.inst inst with qstart := s.now } :=
  (State.inst_modInst ..).trans (if_pos rfl)

theorem execQuantumExpiry_due {s : State} {inst : Nat} (hl : Leads s) (hr : (s.inst inst).status = .running)
    (hq : kget 2000 s.sched.quant (s.inst inst).cls ≠ 0)
    (hnow : (s.inst inst).qstart + kget 2000 s.sched.quant (s.inst inst).cls * 1000 ≤ s.now) :
    ∃ t, exec (.quantumExpiry inst) s = .next t ∧ (t.inst inst).qstart = s.now ∧
      (t.inst inst).marked = ((s.inst inst).marked || someoneWaits s (s.inst inst).cls) := by
  refine ⟨if someoneWaits s (s.inst inst).cls then markStage (restartQuantum s inst) inst else restartQuantum s inst,
    (when_eq_next ..).mpr ⟨by simp [(leads_iff s).mpr hl, hr, hq, hnow], rfl⟩, ?_⟩
  have hi := restartQuantum_inst s inst
  cases hw : someoneWaits s (s.inst inst).cls
  · simp [hi]
  · obtain ⟨hm, hs⟩ := markStage_running (s := restartQuantum s inst) (x := inst) (by rw [hi]; exact hr)
    simp [hm, hs, hi]

theorem execQuantumExpiry_not {s : State} {inst : Nat} (h : kget 2000 s.sched.quant (s.inst inst).cls = 0 ∨
    s.now < (s.inst inst).qstart + kget 2000 s.sched.quant (s.inst inst).cls * 1000) : ¬ ∃ t, exec (.quantumExpiry inst) s = .next t := by
  rintro ⟨t, ht⟩
  obtain ⟨hc, -⟩ := (when_eq_next ..).mp ht
  simp only [Bool.and_eq_true, bne_iff_ne, decide_eq_true_eq] at hc
  obtain ⟨⟨-, hq⟩, hnow⟩ := hc
  rcases h with h | h
  · exact hq h
  · exact absurd hnow (Nat.not_le.mpr h)

theorem execStageAged_due {s : State} {inst : Nat} (hw : (s.inst inst).status = .ready ∨ (s.inst inst).status = .saved)
    (hp : (s.inst inst).pick = none) (ha : (s.inst inst).aged = false) (hnow : (s.inst inst).readyAt + s.sched.age * 1000 ≤ s.now) :
    ∃ t, exec (.stageAged inst) s = .next t ∧ (t.inst inst).aged = true ∧ t.sched.due = true := by
  have hi : (s.modInst inst fun i => { i with aged := true }).inst inst = { s.inst inst with aged := true } :=
    (State.inst_modInst ..).trans (if_pos rfl)
  exact ⟨_, (when_eq_next ..).mpr ⟨by simp [isReady, hw, hp, ha, hnow], rfl⟩, congrArg StageInst.aged hi, rfl⟩

theorem execStageAged_not {s : State} {inst : Nat} (h : s.now < (s.inst inst).readyAt + s.sched.age * 1000) :
    ¬ ∃ t, exec (.stageAged inst) s = .next t := by
  rintro ⟨t, ht⟩
  obtain ⟨hc, -⟩ := (when_eq_next ..).mp ht
  simp only [Bool.and_eq_true, decide_eq_true_eq] at hc
  exact absurd hc.2 (Nat.not_le.mpr h)

/-! ## Clock windows (R337) -/

theorem execClockWindow_not {s : State} {reg : Nat} (w : ClockWindow) (h : s.now < (kget {} s.win reg).start + 1000) :
    ¬ ∃ t, exec (.clockWindow reg w) s = .next t := by
  rintro ⟨t, ht⟩
  obtain ⟨hc, -⟩ := (when_eq_next ..).mp ht
  simp only [Bool.and_eq_true, decide_eq_true_eq] at hc
  exact absurd hc.2 (Nat.not_le.mpr h)

/-- The clock that a window's end asks for, from one that stands. -/
def askedClk (s : State) (reg : Nat) (w : ClockWindow) (clk : Nat) : Nat :=
  windowClk s (kget {} s.win reg) (s.now - (kget {} s.win reg).start) w clk

/-- A clock moves at once where no clocked stage runs. -/
theorem execClockWindow_moves {s : State} {reg : Nat} (w : ClockWindow) (hr : reg < 192) (hw : (kget {} s.win reg).start + 1000 ≤ s.now)
    (hon : ∀ k, stageOn s reg = some k → (s.inst k).img.clocked = false) :
    ∃ t, exec (.clockWindow reg w) s = .next t ∧ t.clock reg = askedClk s reg w (s.clock reg) ∧ ∀ x, x ≠ reg → t.clock x = s.clock x := by
  refine ⟨{ s with win := kset s.win reg { start := s.now }, clk := kset s.clk reg (askedClk s reg w (s.clock reg)) },
    (when_eq_next ..).mpr ⟨by simp [hr, hw], ?_⟩, kget_kset_self .., fun x hx => kget_kset_ne _ _ (Ne.symm hx) _⟩
  cases h : stageOn s reg with
  | none => rfl
  | some k => simp only [hon k h]; rfl

/-- In a clocked stage the change waits for the instant end. -/
theorem execClockWindow_clocked {s : State} {reg k : Nat} (w : ClockWindow) (hr : reg < 192) (hw : (kget {} s.win reg).start + 1000 ≤ s.now)
    (hon : stageOn s reg = some k) (hk : (s.inst k).img.clocked = true) :
    ∃ t, exec (.clockWindow reg w) s = .next t ∧
      kget 0 (t.inst k).newClk reg = askedClk s reg w (kget (s.clock reg) (s.inst k).newClk reg) ∧ t.clk = s.clk := by
  refine ⟨{ s with win := kset s.win reg { start := s.now } }.modInst k fun i =>
      { i with newClk := kset i.newClk reg (askedClk s reg w (kget (s.clock reg) i.newClk reg)) },
    (when_eq_next ..).mpr ⟨by simp [hr, hw], ?_⟩, ?_, rfl⟩
  · simp only [hon, hk, if_true]
    rfl
  · rw [State.inst_modInst, if_pos rfl]
    exact kget_kset_self ..

end Sys2Proof.Machine
end

section
/-! SUPPORT. Placements, saves and resumes (spec/22_scheduling_power.md R328, R333, R334; spec/02_assembly_notation.md R31):
Obligations.SchedulingResults. -/

namespace Sys2Proof.Machine

/-! ## A stage at its placement (R328, R337) -/

/-- A stage that has taken its place. -/
def placedInst (s : State) (k : Spot) (i : StageInst) : StageInst :=
  { i with status := .running, pick := none, aged := false, held := heldAt s i, qstart := s.now, placedNo := s.fresh
           dies := k.1, dRow := k.2.1, dCol := k.2.2, newClk := [] }

theorem occupy_inst (s : State) (inst : Nat) (k : Spot) : (occupy s inst k).inst inst = placedInst s k (s.inst inst) :=
  (State.inst_modInst s inst inst (placedInst s k)).trans (if_pos rfl)

theorem occupy_elem (s : State) (inst : Nat) (k : Spot) (e : ERef) : (occupy s inst k).elem e = s.elem e := rfl
theorem occupy_graph (s : State) (inst : Nat) (k : Spot) (g : Nat) : (occupy s inst k).graph g = s.graph g := rfl

theorem physReg_congr {s t : State} {inst : Nat} (hd : (t.inst inst).dies = (s.inst inst).dies)
    (hr : (t.inst inst).dRow = (s.inst inst).dRow) (hc : (t.inst inst).dCol = (s.inst inst).dCol) (r : Nat) :
    t.physReg inst r = s.physReg inst r := by
  simp only [State.physReg, State.physDie, hd, hr, hc]

/-- Each region of a stage starts at 900 MHz. -/
theorem occupy_clock (s : State) {inst : Nat} (k : Spot) {r : RegionDecl} (hr : r ∈ (s.inst inst).img.regions) :
    (occupy s inst k).clock ((occupy s inst k).physReg inst r.reg) = 900 := by
  refine kget_foldl_kset 900 900 ?_ s.clk
  have himg : ((occupy s inst k).inst inst).img = (s.inst inst).img := by rw [occupy_inst]; rfl
  exact List.mem_map.mpr ⟨r, himg ▸ hr, rfl⟩

/-! ## Placements (R31, R172) -/

/-- A stage's record as it begins. -/
def stageBegun (s : State) (hs : List Word) (i : StageInst) : StageInst :=
  { i with handles := hs, icnt := 0, istart := s.now, durs := [], resets := [], acts := [], flight := [], copied := [] }

/-- The stage placed: its data written, its elements at their image values, its record stageBegun, its regions clear. -/
def placed (s s2 : State) (inst : Nat) (hs : List Word) : State :=
  newEpoch ((s.inst inst).img.regions.foldl (fun t r => t.modRegion ⟨inst, r.reg⟩ fun _ => {})
    ((initElems (writeObjs s2 inst hs) inst (s2.graph (s.inst inst).graph).args hs).modInst inst (stageBegun s hs))) (s.inst inst).ctx

theorem execStagePlacement_fits {s s2 : State} {inst : Nat} {ptes : List (Nat × BitVec 64)} {k : Spot} {hs : List Word}
    (hst : (s.inst inst).status = .ready) (hp : (s.inst inst).pick = some k) (hl : Leads s) (hf : stillFits s inst k = true)
    (hm : mappedFor (occupy (remap s inst ptes) inst k) inst = true)
    (ha : allocDecls inst (s.inst inst).img.tiles (occupy (remap s inst ptes) inst k) = .ok (hs, s2)) :
    exec (.stagePlacement inst ptes) s = .next (placed s s2 inst hs) := by
  change execStagePlacement inst ptes s = _
  simp only [execStagePlacement, hst, hp, (leads_iff s).mpr hl, hf, hm, ha, Bool.true_eq_false, if_false]
  rfl

theorem execStagePlacement_unfit {s : State} {inst : Nat} (ptes : List (Nat × BitVec 64)) {k : Spot} (hst : (s.inst inst).status = .ready)
    (hp : (s.inst inst).pick = some k) (hl : Leads s) (hf : stillFits s inst k = false) :
    exec (.stagePlacement inst ptes) s = .next (unpick s inst) := by
  change execStagePlacement inst ptes s = _
  simp only [execStagePlacement, hst, hp, (leads_iff s).mpr hl, hf, if_true]

/-- The elements of a stage at their image values: everything else stands. -/
theorem initElems_state (s : State) (inst : Nat) (args : KMap Word) (hs : List Word) :
    ∃ elems, initElems s inst args hs = { s with elems := elems } :=
  foldl_modElem_state (fun g : ElemImage => ⟨inst, g.reg, g.el⟩) (fun g _ => initElem args hs g) _ s

theorem initElems_elem {s : State} {inst : Nat} (args : KMap Word) (hs : List Word)
    (hn : ((s.inst inst).img.elems.map fun g => (⟨inst, g.reg, g.el⟩ : ERef)).Nodup) {g : ElemImage} (hg : g ∈ (s.inst inst).img.elems) :
    (initElems s inst args hs).elem ⟨inst, g.reg, g.el⟩ = initElem args hs g :=
  elem_foldl_modElem (fun g : ElemImage => ⟨inst, g.reg, g.el⟩) (fun g _ => initElem args hs g) hn s hg

theorem placed_kept (s s2 : State) (inst : Nat) (hs : List Word) :
    StagesKept ((initElems (writeObjs s2 inst hs) inst (s2.graph (s.inst inst).graph).args hs).modInst inst (stageBegun s hs))
      (placed s s2 inst hs) :=
  (StagesKept.foldl (fun t r => StagesKept.modRegion t ⟨inst, r.reg⟩ fun _ => {}) (s.inst inst).img.regions _).trans (.newEpoch ..)

section
variable {s s2 : State} {inst : Nat} {ptes : List (Nat × BitVec 64)} {k : Spot} {hs : List Word}

/-- What the tiles' allocation and the data's writes have left. -/
theorem placed_source (ha : StagesKept (occupy (remap s inst ptes) inst k) s2) :
    (writeObjs s2 inst hs).inst inst = placedInst (remap s inst ptes) k (s.inst inst) ∧
    (writeObjs s2 inst hs).clk = (occupy (remap s inst ptes) inst k).clk ∧
    (s2.graph (s.inst inst).graph).args = (s.graph (s.inst inst).graph).args := by
  refine ⟨?_, ?_, ?_⟩
  · rw [(StagesKept.writeObjs ..).inst, ha.inst, occupy_inst, (StagesKept.remap ..).inst]
  · rw [(StagesKept.writeObjs ..).clk, ha.clk]
  · rw [ha.graph, occupy_graph, (StagesKept.remap ..).graph]

theorem placed_inst (ha : StagesKept (occupy (remap s inst ptes) inst k) s2) :
    (placed s s2 inst hs).inst inst = stageBegun s hs (placedInst (remap s inst ptes) k (s.inst inst)) := by
  obtain ⟨elems, hel⟩ := initElems_state (writeObjs s2 inst hs) inst (s2.graph (s.inst inst).graph).args hs
  rw [(placed_kept ..).inst, State.inst_modInst, if_pos rfl, hel]
  exact congrArg (stageBegun s hs) (placed_source ha).1

theorem placed_clock (ha : StagesKept (occupy (remap s inst ptes) inst k) s2) {r : RegionDecl} (hr : r ∈ (s.inst inst).img.regions) :
    (placed s s2 inst hs).clock ((placed s s2 inst hs).physReg inst r.reg) = 900 := by
  obtain ⟨elems, hel⟩ := initElems_state (writeObjs s2 inst hs) inst (s2.graph (s.inst inst).graph).args hs
  have hclk : (placed s s2 inst hs).clk = (occupy (remap s inst ptes) inst k).clk := by
    rw [(placed_kept ..).clk, State.modInst_clk, hel]
    exact (placed_source ha).2.1
  have hi := placed_inst (hs := hs) ha
  have ho := (occupy_inst (remap s inst ptes) inst k).trans (congrArg _ ((StagesKept.remap s inst ptes).inst inst))
  rw [State.clock, hclk, physReg_congr (s := occupy (remap s inst ptes) inst k) (by rw [hi, ho]; rfl) (by rw [hi, ho]; rfl)
    (by rw [hi, ho]; rfl)]
  exact occupy_clock _ k (by rwa [(StagesKept.remap ..).inst])

theorem placed_elem (ha : StagesKept (occupy (remap s inst ptes) inst k) s2)
    (hn : ((s.inst inst).img.elems.map fun g => (⟨inst, g.reg, g.el⟩ : ERef)).Nodup) {g : ElemImage} (hg : g ∈ (s.inst inst).img.elems) :
    (placed s s2 inst hs).elem ⟨inst, g.reg, g.el⟩ = initElem (s.graph (s.inst inst).graph).args hs g := by
  obtain ⟨hinst, -, hargs⟩ := placed_source (hs := hs) ha
  have himg : ((writeObjs s2 inst hs).inst inst).img = (s.inst inst).img := by rw [hinst]; rfl
  rw [(placed_kept ..).elem, State.elem_modInst, initElems_elem _ _ (himg ▸ hn) (himg ▸ hg), hargs]

end

/-! ## Resumes (R334) -/

/-- A stage's record as an invocation begins with its resume. -/
def resumed (s s3 : State) (inst : Nat) (i : StageInst) : StageInst := { i with acts := haltedActs s3 inst, istart := s.now, resets := [] }

/-- The elements of a saved stage as they go on. -/
def resumedElems (s2 : State) (inst : Nat) (gs : List ElemImage) : State :=
  gs.foldl (fun t g => t.modElem ⟨inst, g.reg, g.el⟩ (resumeElem s2 inst g)) s2

/-- A saved stage with its tiles and data back where it is placed. -/
def restored (s : State) (inst : Nat) (ptes : List (Nat × BitVec 64)) (k : Spot) : State :=
  restoreData (restoreTiles (occupy (remap s inst ptes) inst k) inst) inst

/-- The stage resumed. -/
def resumedStage (s : State) (inst : Nat) (ptes : List (Nat × BitVec 64)) (k : Spot) : State :=
  let s3 := resumedElems (restored s inst ptes k) inst (s.inst inst).img.elems
  newEpoch (s3.modInst inst (resumed s s3 inst)) (s.inst inst).ctx

theorem execStageResume_fits {s : State} {inst : Nat} {ptes : List (Nat × BitVec 64)} {k : Spot}
    (hst : (s.inst inst).status = .saved) (hp : (s.inst inst).pick = some k) (hl : Leads s) (hf : stillFits s inst k = true)
    (hm : mappedFor (occupy (remap s inst ptes) inst k) inst = true) :
    exec (.stageResume inst ptes) s = .next (resumedStage s inst ptes k) := by
  change execStageResume inst ptes s = _
  simp only [execStageResume, hst, hp, (leads_iff s).mpr hl, hf, hm, Bool.true_eq_false, if_false]
  rfl

theorem execStageResume_unfit {s : State} {inst : Nat} (ptes : List (Nat × BitVec 64)) {k : Spot} (hst : (s.inst inst).status = .saved)
    (hp : (s.inst inst).pick = some k) (hl : Leads s) (hf : stillFits s inst k = false) :
    exec (.stageResume inst ptes) s = .next (unpick s inst) := by
  change execStageResume inst ptes s = _
  simp only [execStageResume, hst, hp, (leads_iff s).mpr hl, hf, if_true]

section
variable {s : State} {inst : Nat} {ptes : List (Nat × BitVec 64)} {k : Spot}

theorem restored_kept : StagesKept (occupy (remap s inst ptes) inst k) (restored s inst ptes k) :=
  (StagesKept.restoreTiles ..).trans (.restoreData ..)

theorem restored_inst : (restored s inst ptes k).inst inst = placedInst (remap s inst ptes) k (s.inst inst) := by
  rw [restored_kept.inst, occupy_inst, (StagesKept.remap ..).inst]

theorem restored_elem (e : ERef) : (restored s inst ptes k).elem e = s.elem e := by
  rw [restored_kept.elem, occupy_elem, (StagesKept.remap ..).elem]

theorem restored_graph (g : Nat) : (restored s inst ptes k).graph g = s.graph g := by
  rw [restored_kept.graph, occupy_graph, (StagesKept.remap ..).graph]

theorem resumedStage_inst : ∃ s3, (resumedStage s inst ptes k).inst inst = resumed s s3 inst (placedInst (remap s inst ptes) k (s.inst inst)) := by
  obtain ⟨elems, hel⟩ := foldl_modElem_state (fun g : ElemImage => ⟨inst, g.reg, g.el⟩) (resumeElem (restored s inst ptes k) inst)
    (s.inst inst).img.elems (restored s inst ptes k)
  refine ⟨resumedElems (restored s inst ptes k) inst (s.inst inst).img.elems, ?_⟩
  rw [resumedStage, (StagesKept.newEpoch ..).inst, State.inst_modInst, if_pos rfl]
  refine congrArg _ (Eq.trans ?_ restored_inst)
  rw [resumedElems, hel]
  rfl

/-- The live map that holds for an element's registers (R334). -/
def liveMap (s : State) (inst : Nat) (g : ElemImage) : Option LiveMap :=
  if (s.inst inst).img.clocked then g.liveInstant else g.liveMarker

theorem resumedStage_elem (hn : ((s.inst inst).img.elems.map fun g => (⟨inst, g.reg, g.el⟩ : ERef)).Nodup) {g : ElemImage}
    (hg : g ∈ (s.inst inst).img.elems) :
    (resumedStage s inst ptes k).elem ⟨inst, g.reg, g.el⟩ =
      { keepRegs (s.graph (s.inst inst).graph).args (s.inst inst).handles g (liveMap s inst g) (s.elem ⟨inst, g.reg, g.el⟩) with
        slots := indexed0 g.slots } := by
  have he := elem_foldl_modElem (fun g : ElemImage => (⟨inst, g.reg, g.el⟩ : ERef)) (resumeElem (restored s inst ptes k) inst) hn
    (restored s inst ptes k) hg
  rw [resumedStage, (StagesKept.newEpoch ..).elem, State.elem_modInst]
  refine he.trans ?_
  simp only [resumeElem, restored_inst, restored_elem, restored_graph, liveMap]
  rfl

end

end Sys2Proof.Machine
end

section
/-! SUPPORT. Saves at a safe point (spec/22_scheduling_power.md R333 to R335) and the scheduler's obligation:
Obligations.SchedulingResults. -/

namespace Sys2Proof.Machine

/-! ## What a save keeps (R334) -/

theorem keepElem_fst (s : State) (inst : Nat) (args : KMap Word) (p : ERef × Elem) : (keepElem s inst args p).1 = p.1 := by
  unfold keepElem
  dsimp only
  split
  · split <;> rfl
  · rfl

theorem keepElem_dreg {s : State} {e : ERef} {g : ElemImage} (hg : (s.inst e.inst).img.elemImage e.reg e.el = some g) (args : KMap Word)
    (x : Elem) (n : Nat) :
    (keepElem s e.inst args (e, x)).2.dreg n = (keepRegs args (s.inst e.inst).handles g (liveMap s e.inst g) x).dreg n := by
  simp only [keepElem, hg, if_true, liveMap]
  rfl

/-- A stage's elements with what a save keeps of them, and its caches empty. -/
def keptElems (s : State) (inst : Nat) : State :=
  { s with
    elems := s.elems.map (keepElem s inst (s.graph (s.inst inst).graph).args)
    regions := s.regions.map fun p : RRef × Region => if p.1.inst = inst then (p.1, { p.2 with wells := [] }) else p
    engines := s.engines.map fun p : Nat × Engine =>
      if ((s.inst inst).img.regions.map fun r => s.physReg inst r.reg).contains p.1 then (p.1, { p.2 with hot := [] }) else p
    utlb := s.utlb.filter fun p => !utlbOfStage inst p.1 }

/-- A saved stage's record. -/
def savedInst (s s2 : State) (i : StageInst) : StageInst :=
  { i with status := .saved, marked := false, aged := false, held := [], readyAt := s.now, readyNo := s2.fresh, acts := [] }

/-- The stage's tiles and data moved to where they are kept. -/
def movedAway (s : State) (inst : Nat) : State := saveTiles (saveData (keptElems (widenInst s inst .system) inst) inst) inst

theorem saveStage_eq (s : State) (inst : Nat) :
    saveStage s inst = { (movedAway s inst).modInst inst (savedInst s (movedAway s inst)) with
      fresh := (movedAway s inst).fresh + 1, sched := { (movedAway s inst).sched with due := true } } := rfl

theorem saveStage_inst (s : State) (inst : Nat) :
    (saveStage s inst).inst inst = savedInst s (movedAway s inst) ((movedAway s inst).inst inst) := by
  have hi : (saveStage s inst).insts = ((movedAway s inst).modInst inst (savedInst s (movedAway s inst))).insts := by rw [saveStage_eq]
  rw [State.inst, hi]
  exact (State.inst_modInst ..).trans (if_pos rfl)

theorem saveStage_elem {s : State} {e : ERef} (inst : Nat) (he : khas s.elems e = true) :
    (saveStage s inst).elem e = (keepElem (widenInst s inst .system) inst (s.graph (s.inst inst).graph).args (e, s.elem e)).2 := by
  have hw : StagesKept s (widenInst s inst .system) := .of_memoryOnly (.widenWhere ..)
  have hk : StagesKept (keptElems (widenInst s inst .system) inst) (movedAway s inst) := (StagesKept.saveData ..).trans (.saveTiles ..)
  have hmap := kget_map_keyed (d := ({} : Elem)) (keepElem_fst (widenInst s inst .system) inst (s.graph (s.inst inst).graph).args) he
  calc (saveStage s inst).elem e = (movedAway s inst).elem e := by rw [saveStage_eq]; rfl
    _ = (keptElems (widenInst s inst .system) inst).elem e := hk.elem e
    _ = _ := by
      rw [State.elem, keptElems, hw.elems, hw.inst, hw.graph]
      exact hmap

/-- The registers of an element of a stage that is saved. -/
theorem saveStage_dreg {s : State} {e : ERef} {g : ElemImage} (he : khas s.elems e = true)
    (hg : (s.inst e.inst).img.elemImage e.reg e.el = some g) (n : Nat) :
    ((saveStage s e.inst).elem e).dreg n =
      (keepRegs (s.graph (s.inst e.inst).graph).args (s.inst e.inst).handles g (liveMap s e.inst g) (s.elem e)).dreg n := by
  have hw : StagesKept s (widenInst s e.inst .system) := .of_memoryOnly (.widenWhere ..)
  rw [saveStage_elem e.inst he, keepElem_dreg (by rwa [hw.inst]), liveMap, hw.inst, liveMap]

/-! ## The instant end before it (R288, R334) -/

theorem khas_kset_of_khas {κ α : Type} [DecidableEq κ] {m : AMap κ α} {j : κ} (h : khas m j = true) (i : κ) (v : α) :
    khas (kset m i v) j = true := by
  by_cases hij : i = j
  · exact (khas_iff_exists ..).mpr ⟨(i, v), mem_kset m i v, hij⟩
  · rwa [khas_kset_ne m hij]

/-- Elements keep their place and their registers. -/
def RegsKept (s t : State) : Prop :=
  (∃ elems, t = { s with elems := elems }) ∧
    ∀ e, (khas s.elems e = true → khas t.elems e = true) ∧ ∀ n, (t.elem e).dreg n = (s.elem e).dreg n

theorem RegsKept.refl (s : State) : RegsKept s s := ⟨⟨_, rfl⟩, fun _ => ⟨id, fun _ => rfl⟩⟩

theorem RegsKept.trans {s t u : State} : RegsKept s t → RegsKept t u → RegsKept s u := by
  rintro ⟨⟨_, rfl⟩, h⟩ ⟨⟨_, rfl⟩, h'⟩
  exact ⟨⟨_, rfl⟩, fun e => ⟨(h' e).1 ∘ (h e).1, fun n => ((h' e).2 n).trans ((h e).2 n)⟩⟩

theorem RegsKept.joinElems (s : State) (es : List ERef) : RegsKept s (joinElems s es) := by
  refine List.foldlRecOn es _ (RegsKept.refl s) fun t h a _ => h.trans ⟨⟨_, rfl⟩, fun e => ⟨fun he => khas_kset_of_khas he .., fun n => ?_⟩⟩
  by_cases hae : a = e
  · rw [hae, State.elem_modElem_self]
    rfl
  · rw [State.elem_modElem_ne _ _ hae]

/-- The elements of a stage at the end of an instant. -/
def nextInstantOf (inst : Nat) (p : ERef × Elem) : ERef × Elem := if p.1.inst = inst then (p.1, nextInstant p.2) else p

theorem nextInstantOf_fst (inst : Nat) (p : ERef × Elem) : (nextInstantOf inst p).1 = p.1 := by
  unfold nextInstantOf
  split <;> rfl

theorem nextInstantOf_dreg (inst : Nat) (p : ERef × Elem) (n : Nat) : (nextInstantOf inst p).2.dreg n = p.2.dreg n := by
  unfold nextInstantOf
  split <;> rfl

/-- A part whose stores have been performed and whose elements have met, before an instant's end. -/
def joined (s : State) (inst : Nat) : State := joinElems (widenInst s inst .part) ((s.elemsOf inst).map Prod.fst)

/-- The part after an instant's end, but for the stage's record. -/
def instantOver (s : State) (inst : Nat) : State :=
  { newEpoch (joined s inst) (s.inst inst).ctx with
    elems := (joined s inst).elems.map (nextInstantOf inst)
    clk := ((joined s inst).inst inst).newClk.foldl (fun m (p : Nat × Nat) => kset m p.1 p.2) (joined s inst).clk }

/-- A stage's record after an instant's end. -/
def instantInst (s : State) (inst : Nat) (i : StageInst) : StageInst :=
  { noteDuration s i with icnt := i.icnt + 1, acts := haltedActs s inst, newClk := [] }

theorem instantEnd_eq (s : State) (inst : Nat) :
    instantEnd s inst = (instantOver s inst).modInst inst (instantInst (instantOver s inst) inst) := rfl

theorem instantEnd_spec (s : State) (inst : Nat) :
    (((instantEnd s inst).inst inst).img = (s.inst inst).img ∧ ((instantEnd s inst).inst inst).handles = (s.inst inst).handles ∧
      ((instantEnd s inst).inst inst).graph = (s.inst inst).graph) ∧
    (instantEnd s inst).graphs = s.graphs ∧
    ∀ e, khas s.elems e = true → khas (instantEnd s inst).elems e = true ∧
      ∀ n, ((instantEnd s inst).elem e).dreg n = (s.elem e).dreg n := by
  have hw : StagesKept s (widenInst s inst .part) := .of_memoryOnly (.widenWhere ..)
  obtain ⟨⟨elems, hst⟩, hregs⟩ : RegsKept (widenInst s inst .part) (joined s inst) := .joinElems ..
  have hi : (joined s inst).inst inst = s.inst inst := by rw [hst]; exact hw.inst inst
  have hg : (joined s inst).graphs = s.graphs := by rw [hst]; exact hw.graphs
  have hend : (instantEnd s inst).inst inst = instantInst (instantOver s inst) inst (s.inst inst) := by
    rw [instantEnd_eq, State.inst_modInst, if_pos rfl]
    exact congrArg _ hi
  have hel : (instantEnd s inst).elems = (joined s inst).elems.map (nextInstantOf inst) := by rw [instantEnd_eq]; rfl
  refine ⟨by rw [hend]; exact ⟨rfl, rfl, rfl⟩, by rw [instantEnd_eq]; exact hg, fun e he => ?_⟩
  obtain ⟨hhas, hd⟩ := hregs e
  have hj : khas (joined s inst).elems e = true := hhas (by rwa [hw.elems])
  refine ⟨by rw [hel, khas_map_keyed _ (nextInstantOf_fst inst)]; exact hj, fun n => ?_⟩
  rw [State.elem, hel, kget_map_keyed (nextInstantOf_fst inst) hj, nextInstantOf_dreg]
  exact (hd n).trans (by rw [hw.elem])

/-! ## The save itself (R333) -/

/-- The part as a stage's safe point leaves it: for a clocked stage its instant's end. -/
def safePoint (s : State) (inst : Nat) : State := if (s.inst inst).img.clocked then instantEnd s inst else s

theorem safePoint_spec (s : State) (inst : Nat) :
    (((safePoint s inst).inst inst).img = (s.inst inst).img ∧ ((safePoint s inst).inst inst).handles = (s.inst inst).handles ∧
      ((safePoint s inst).inst inst).graph = (s.inst inst).graph) ∧
    (safePoint s inst).graphs = s.graphs ∧
    ∀ e, khas s.elems e = true → khas (safePoint s inst).elems e = true ∧
      ∀ n, ((safePoint s inst).elem e).dreg n = (s.elem e).dreg n := by
  unfold safePoint
  split
  · exact instantEnd_spec s inst
  · exact ⟨⟨rfl, rfl, rfl⟩, rfl, fun e he => ⟨he, fun _ => rfl⟩⟩

theorem execPreemptionSave_due {s : State} {inst : Nat} (hl : Leads s) (hm : (s.inst inst).marked = true) (hup : Up s inst)
    (hh : allHalted s inst = false) (hd : deltaDue s inst = false)
    (hsafe : (if (s.inst inst).img.clocked then instantDue s inst
      else drained s inst (fun _ => true) && (s.inst inst).flight.all (fun p => p.2 == [])) = true) :
    exec (.preemptionSave inst) s = .next (saveStage (safePoint s inst) inst) := by
  obtain ⟨hrun, hfault⟩ := hup
  have hready : (s.leads && (s.inst inst).marked && (s.inst inst).status == .running && (s.graph (s.inst inst).graph).fault.isNone &&
      !allHalted s inst && !deltaDue s inst) = true := by
    simp [(leads_iff s).mpr hl, hm, hrun, hfault, hh, hd]
  change execPreemptionSave inst s = _
  unfold execPreemptionSave safePoint
  dsimp only
  rw [hready, Bool.true_and, Bool.true_and]
  split at hsafe
  next hc => rw [if_pos hc, if_pos hc, hsafe]; rfl
  next hc => rw [if_neg hc, if_neg hc, hsafe]; rfl

theorem execPreemptionSave_not {s : State} {inst : Nat} (h : ¬ Leads s ∨ (s.inst inst).marked = false) :
    ¬ ∃ t, exec (.preemptionSave inst) s = .next t := by
  have hno : (s.leads && (s.inst inst).marked) = false := by
    rcases h with h | h
    · rw [Bool.eq_false_iff.mpr (mt (leads_iff s).mp h), Bool.false_and]
    · rw [h, Bool.and_false]
  rintro ⟨t, ht⟩
  change execPreemptionSave inst s = _ at ht
  unfold execPreemptionSave at ht
  dsimp only at ht
  rw [hno] at ht
  split at ht
  all_goals simp [when] at ht

/-- A saved element's registers: those that the live map names as they were, the others at their image values. -/
theorem savedStage_dreg {s : State} {inst : Nat} {g : ElemImage} (he : khas s.elems ⟨inst, g.reg, g.el⟩ = true)
    (hg : (s.inst inst).img.elemImage g.reg g.el = some g) (n : Nat) :
    ((saveStage (safePoint s inst) inst).elem ⟨inst, g.reg, g.el⟩).dreg n =
      (keepRegs (s.graph (s.inst inst).graph).args (s.inst inst).handles g (liveMap s inst g)
        ((safePoint s inst).elem ⟨inst, g.reg, g.el⟩)).dreg n := by
  obtain ⟨⟨himg, hhs, hgr⟩, hgs, hel⟩ := safePoint_spec s inst
  refine (saveStage_dreg (hel _ he).1 (by rw [himg]; exact hg) n).trans ?_
  rw [hgr, hhs, liveMap, himg, State.graph, hgs]
  rfl

/-- Settles O59: decisions by `tryStages_pick`, placements, saves and resumes by what each keeps (`StagesKept`). -/
theorem schedulingResults : Obligations.SchedulingResults := by
  intro s inst i g places given value kept
  refine ⟨fun c cs k => execSchedulerDecision_first, execSchedulerDecision_none, execSchedulerDecision_not, ?_,
    fun ptes k hp hl hf => ⟨fun hst => execStagePlacement_unfit ptes hst hp hl hf, fun hst => execStageResume_unfit ptes hst hp hl hf⟩,
    ⟨execQuantumExpiry_due, execQuantumExpiry_not⟩, fun hw hp ha => ⟨execStageAged_due hw hp ha, execStageAged_not⟩, ?_,
    execPreemptionSave_not, ?_, ?_, fun reg => execClockWindow_not, fun reg w hr hw => ⟨execClockWindow_moves w hr hw,
      fun k => execClockWindow_clocked w hr hw⟩, fun w hb => ?_, fun w hb => ?_⟩
  · intro ptes k hs s2 hst hp hl s1 hf hm ha hn
    have hkept := StagesKept.allocDecls ha
    have hinst := placed_inst (hs := hs) hkept
    refine ⟨_, execStagePlacement_fits hst hp hl hf hm ha, by rw [hinst]; rfl, by rw [hinst]; rfl, by rw [hinst]; rfl, by rw [hinst]; rfl,
      by rw [hinst]; rfl, fun r => placed_clock hkept, fun e he => ?_⟩
    intro x
    have hx : x = initElem (s.graph i.graph).args hs e := placed_elem hkept hn he
    rw [hx]
    exact ⟨fun n => kget_indexed0 .., initElem_dreg _ hs e, fun n => rfl, rfl, rfl, fun n => ⟨kget_indexed0 .., kget_indexed0 ..⟩, rfl, rfl,
      fun c => rfl⟩
  · intro hl hm hup hh hd hsafe
    have hinst := saveStage_inst (safePoint s inst) inst
    refine ⟨_, execPreemptionSave_due hl hm hup hh hd hsafe, by rw [hinst]; rfl, by rw [hinst]; rfl, rfl, fun e he hg hhas n hn => ?_⟩
    have hsp := (safePoint_spec s inst).2.2 (places e) hhas
    refine (savedStage_dreg hhas hg n).trans ?_
    have hlive : liveMap s inst e = kept e := rfl
    rw [hlive]
    cases kept e with
    | none => exact hsp.2 n
    | some m =>
      rw [keepRegs_some_dreg _ _ _ _ _ hn, hsp.2]
  · intro ptes k hst hp hl hf hm hn
    obtain ⟨s3, hinst⟩ := resumedStage_inst (s := s) (inst := inst) (ptes := ptes) (k := k)
    refine ⟨_, execStageResume_fits hst hp hl hf hm, by rw [hinst]; rfl, by rw [hinst]; rfl, by rw [hinst]; rfl, fun e he => ?_⟩
    have hx := resumedStage_elem (ptes := ptes) (k := k) hn he
    have hlive : liveMap s inst e = kept e := rfl
    rw [hlive] at hx
    refine ⟨fun n => by rw [hx]; exact kget_indexed0 .., by rw [hx]; exact keepRegs_inp .., fun n hn8 hnot => ?_⟩
    rw [hx]
    cases hk : kept e with
    | none => rfl
    | some m => exact (keepRegs_some_dreg _ _ _ _ _ hn8).trans (if_neg (hnot m hk))
  · intro ptes k hst hp hl hf hm hn t ht e he m hk n hn8
    have hx := resumedStage_elem (ptes := ptes) (k := k) hn he
    have hlive : liveMap s inst e = some m := hk
    obtain rfl : resumedStage s inst ptes k = t := by
      simpa using (execStageResume_fits hst hp hl hf hm).symm.trans ht
    rw [hlive] at hx
    rw [hx]
    exact ⟨fun hd => (keepRegs_some_dreg _ _ _ _ _ hn8).trans (if_pos hd), keepRegs_some_p _ _ _ _ _ hn8⟩
  · exact (when_eq_next ..).mpr ⟨by simp [hb], rfl⟩
  · rintro ⟨t, ht⟩
    obtain ⟨hc, -⟩ := (when_eq_next ..).mp ht
    exact hb (by simpa using hc)

end Sys2Proof.Machine
end

section
/-! SUPPORT. A load that an engine serves for a pump, whose element's sink log awaits it: Obligations.AtomicServeResults fails. -/

namespace Sys2Proof.Machine

/-- A byte that pump 0 of element 0 loads, as request 3 at port 0 of engine 0. -/
def pumpLoad : EngReq where
  port := 0
  req := .pump ⟨0, 0, 0⟩ 0
  id := 3
  slot := 0
  op := .load false
  key := 0x40
  va := 0x40
  w := 1
  b := 0
  d := 0
  ret := true

/-- Reset, but that the engine holds `pumpLoad`, the element's log has an event that waits for it, and a store of the element to byte 0x80 is
performed at element scope. -/
def pumpLoadLogged : State :=
  { State.reset with
    engines := [(0, { reqs := [pumpLoad] })]
    elems := [(⟨0, 0, 0⟩, { logq := [⟨some 3, []⟩] })]
    stores := [⟨0, 0, 0, 0, 0, .element, [(0x80, 5)]⟩]
    fresh := 4 }

/-- An agent of another region. -/
def otherRegionAgent : Agent := ⟨0, 1, none, 0⟩

/-- The event being over, what its element has stored is performed at part scope (R163): another region reads it. -/
theorem pumpLoadLogged_read : readByte pumpLoadLogged.mem otherRegionAgent pumpLoadLogged.stores 0x80 = 0 ∧
    readByte (serveReq pumpLoadLogged 0 pumpLoad).mem otherRegionAgent (serveReq pumpLoadLogged 0 pumpLoad).stores 0x80 = 5 := by decide

theorem exec_pumpLoadLogged : exec (.atomicEngineServe 0) pumpLoadLogged = .next (serveReq pumpLoadLogged 0 pumpLoad) := rfl

/-- Refutes O29: it says that an engine's load changes no byte, whoever asked for it, and asks an empty sink log of the element only where
the request is the element's own. A pump's request, too, ends the event of its element's log that awaits it: at `pumpLoadLogged` another
region reads 0 at 0x80 before the step and 5 after it. (The model's instructions queue no request of a pump; the statement takes any.) -/
theorem not_atomicServeResults : ¬ Obligations.AtomicServeResults := by
  intro h
  obtain ⟨-, hserved⟩ := h pumpLoadLogged 0 0 pumpLoad (by decide) (by decide) rfl (by decide) (by decide) rfl (by decide)
    (fun _ he => nomatch he)
  obtain ⟨t, ht, -, hload, -⟩ := hserved pumpLoadLogged rfl rfl rfl (fun _ _ => rfl) (by decide) (by decide) (by decide)
  obtain rfl : serveReq pumpLoadLogged 0 pumpLoad = t := by simpa [exec_pumpLoadLogged] using ht
  obtain ⟨hbefore, hafter⟩ := pumpLoadLogged_read
  have hsame := hload false rfl otherRegionAgent 0x80
  rw [hbefore, hafter] at hsame
  exact absurd hsame (by decide)

end Sys2Proof.Machine
end

section
/-! SUPPORT. The values of a format as points of the number line, and rounding as the choice of the nearest of them
(spec/05_number_formats.md R63, R64, R71, R72): Obligations.RoundingIsNearest. -/

namespace Sys2Proof.Machine

/-! ## The nearer of two points -/

section
variable {x a b : ℚ} (hab : a < b)
include hab

theorem two_mul_le_of_abs_le (h : |x - a| ≤ |x - b|) : 2 * x ≤ a + b := by
  have := sq_le_sq.mpr h
  nlinarith

theorem le_two_mul_of_abs_le (h : |x - b| ≤ |x - a|) : a + b ≤ 2 * x := by
  have := sq_le_sq.mpr h
  nlinarith

end

/-! ## The nearest integer (R71 step 2) -/

/-- In units of half a step: n / 2h lies within h of k steps. -/
theorem nearestInt_div_iff {n h k : ℤ} (hh : 0 < h) :
    NearestInt (n / (2 * h : ℤ)) k ↔ |n - 2 * h * k| ≤ h ∧ (|n - 2 * h * k| = h → k % 2 = 0) := by
  have hh' : (0 : ℚ) < (2 * h : ℤ) := by exact_mod_cast (by omega : 0 < 2 * h)
  have habs : |(n : ℚ) / (2 * h : ℤ) - k| = (|n - 2 * h * k| : ℤ) / (2 * h : ℤ) := by
    rw [div_sub' hh'.ne', abs_div, abs_of_pos hh']
    push_cast
    rfl
  have hhalf : (1 / 2 : ℚ) = (h : ℤ) / (2 * h : ℤ) := by
    have : (h : ℚ) ≠ 0 := by exact_mod_cast hh.ne'
    push_cast
    field_simp
  rw [NearestInt, habs, hhalf, div_le_div_iff_of_pos_right hh', div_left_inj' hh'.ne', Int.cast_le, Int.cast_inj]

namespace NearestInt

theorem natCast (n : ℕ) : NearestInt n n := by constructor <;> norm_num

/-- No integer is nearer, and where another is as near the chosen one is even. -/
theorem nearest {y : ℚ} {k : ℤ} (h : NearestInt y k) (j : ℤ) :
    |y - k| ≤ |y - j| ∧ (|y - k| = |y - j| → j ≠ k → k % 2 = 0) := by
  obtain ⟨hle, heven⟩ := h
  rcases eq_or_ne j k with rfl | hne
  · exact ⟨le_rfl, fun _ hjk => absurd rfl hjk⟩
  · have hone : (1 : ℚ) ≤ |(j : ℚ) - k| := by exact_mod_cast Int.one_le_abs (sub_ne_zero.mpr hne)
    have htri : |(j : ℚ) - k| ≤ |y - k| + |y - j| := by
      simpa [abs_sub_comm] using abs_sub_le (j : ℚ) y k |>.trans_eq (add_comm _ _)
    exact ⟨by linarith, fun heq _ => heven (by linarith)⟩

theorem le_of_le {y : ℚ} {k n : ℤ} (h : NearestInt y k) (hy : y ≤ n) : k ≤ n := by
  have hk := (abs_le.mp h.1).1
  have : (k : ℚ) < (n + 1 : ℤ) := by push_cast; linarith
  exact Int.lt_add_one_iff.mp (by exact_mod_cast this)

theorem ge_of_ge {y : ℚ} {k n : ℤ} (h : NearestInt y k) (hy : n ≤ y) : n ≤ k := by
  have hk := (abs_le.mp h.1).2
  have : ((n - 1 : ℤ) : ℚ) < k := by push_cast; linarith
  exact Int.sub_one_lt_iff.mp (by exact_mod_cast this)

/-- The same on the grid of a unit's multiples. -/
theorem scaled {y U : ℚ} {k : ℤ} (h : NearestInt y k) (hU : 0 < U) (j : ℤ) :
    |y * U - k * U| ≤ |y * U - j * U| ∧ (|y * U - k * U| = |y * U - j * U| → j * U ≠ k * U → k % 2 = 0) := by
  simpa only [← sub_mul, abs_mul, abs_of_pos hU, mul_le_mul_iff_left₀ hU, mul_left_inj' hU.ne', ne_eq, Int.cast_inj]
    using h.nearest j

end NearestInt

/-! ## The value of a finite operand -/

theorem FVal.q_fin (s : Bool) (m : ℕ) (e : ℤ) : (FVal.fin s m e).q = (if s then -1 else 1) * (m * 2 ^ e) := mul_assoc ..

theorem FVal.abs_q_fin (s : Bool) (m : ℕ) (e : ℤ) : |(FVal.fin s m e).q| = m * 2 ^ e := by
  have hpos : (0 : ℚ) ≤ m * 2 ^ e := by positivity
  cases s <;> simp [FVal.q_fin, abs_of_nonneg hpos]

namespace FFmt

/-- The significand on the grid is the integer nearest to the magnitude in the grid's units. -/
theorem onGrid_nearestInt (m : ℕ) (e u : ℤ) : NearestInt (m * 2 ^ (e - u)) (onGrid m e u) := by
  unfold onGrid
  split
  case isTrue h =>
    obtain ⟨n, hn⟩ := Int.eq_ofNat_of_zero_le (sub_nonneg.mpr h)
    simpa [hn] using NearestInt.natCast (m * 2 ^ n)
  case isFalse h =>
    obtain ⟨n, hn⟩ : ∃ n : ℕ, u - e = n + 1 := ⟨(u - e - 1).toNat, by omega⟩
    have hsh : (u - e).toNat = n + 1 := by omega
    have hpow : 2 ^ (n + 1) = 2 * 2 ^ n := pow_succ' 2 n
    have hy : (m : ℚ) * 2 ^ (e - u) = (m : ℤ) / (2 * (2 ^ n : ℕ) : ℤ) := by
      rw [← neg_sub u e, hn, zpow_neg, div_eq_mul_inv]
      norm_cast
      rw [hpow]
    have hpos : 0 < 2 ^ n := by positivity
    have hdm := Nat.div_add_mod m (2 ^ (n + 1))
    have hlt := Nat.mod_lt m (show 0 < 2 ^ (n + 1) by positivity)
    simp only [hsh, Nat.add_sub_cancel]
    rw [hy, nearestInt_div_iff (by exact_mod_cast hpos)]
    rw [hpow] at hdm hlt ⊢
    generalize m / (2 * 2 ^ n) = q at *
    generalize m % (2 * 2 ^ n) = r at *
    generalize 2 ^ n = h at *
    subst hdm
    split
    · have hdiff : ((2 * h * q + r : ℕ) : ℤ) - 2 * h * (q + 1 : ℕ) = r - 2 * h := by push_cast; ring
      rw [hdiff, abs_of_nonpos (by omega)]
      omega
    · have hdiff : ((2 * h * q + r : ℕ) : ℤ) - 2 * h * q = r := by push_cast; ring
      rw [hdiff, abs_of_nonneg (by omega)]
      omega

/-! ## The magnitude of a code (R64) -/

/-- The binade of a code without its sign bit: 0 for the subnormals and for the lowest normal values. -/
def binade (f : FFmt) (c : ℕ) : ℕ := c / 2 ^ f.mb - 1

/-- Its significand, in units of its binade. -/
def sig (f : FFmt) (c : ℕ) : ℕ := c - f.binade c * 2 ^ f.mb

/-- The magnitude that the code would have, were there no upper limit to the exponent (R64, R71 step 1). -/
def mag (f : FFmt) (c : ℕ) : ℚ := f.sig c * 2 ^ (f.emin + f.binade c)

variable (f : FFmt)

theorem binade_mul_add_sig (c : ℕ) : f.binade c * 2 ^ f.mb + f.sig c = c := by
  have hle : f.binade c * 2 ^ f.mb ≤ c := (Nat.mul_le_mul_right _ (Nat.sub_le ..)).trans (Nat.div_mul_le_self c (2 ^ f.mb))
  rw [sig, Nat.add_sub_cancel' hle]

theorem sig_lt (c : ℕ) : f.sig c < 2 ^ (f.mb + 1) := by
  have hdm := Nat.div_add_mod' c (2 ^ f.mb)
  have hlt := Nat.mod_lt c (show 0 < 2 ^ f.mb by positivity)
  rw [sig, binade, pow_succ']
  cases hq : c / 2 ^ f.mb with
  | zero => simp [hq] at hdm ⊢; omega
  | succ d => rw [hq, Nat.succ_mul] at hdm; rw [Nat.add_sub_cancel]; omega

/-- The significand has its top bit, but in the lowest binade. -/
theorem binade_eq_zero_or (c : ℕ) : f.binade c = 0 ∨ 2 ^ f.mb ≤ f.sig c := by
  have hdm := Nat.div_add_mod' c (2 ^ f.mb)
  rw [sig, binade]
  cases hq : c / 2 ^ f.mb with
  | zero => exact .inl rfl
  | succ d => rw [hq, Nat.succ_mul] at hdm; rw [Nat.add_sub_cancel]; omega

variable {f}

/-- The magnitude from a binade and a significand; the significand may be that of the next binade's first value. -/
theorem mag_binade {d k : ℕ} (hk : k ≤ 2 ^ (f.mb + 1)) (hd : d = 0 ∨ 2 ^ f.mb ≤ k) :
    f.mag (d * 2 ^ f.mb + k) = k * 2 ^ (f.emin + d) := by
  have hpos : 0 < 2 ^ f.mb := by positivity
  have hdiv : (d * 2 ^ f.mb + k) / 2 ^ f.mb = d + k / 2 ^ f.mb := by rw [add_comm, Nat.add_mul_div_right _ _ hpos, add_comm]
  rw [pow_succ'] at hk
  rw [mag, sig, binade, hdiv]
  rcases hk.lt_or_eq with hlt | rfl
  · have hd' : d + k / 2 ^ f.mb - 1 = d := by
      rcases hd with rfl | hle
      · have : k / 2 ^ f.mb < 2 := Nat.div_lt_of_lt_mul (by omega)
        omega
      · have : k / 2 ^ f.mb = 1 := Nat.div_eq_of_lt_le (by omega) (by omega)
        omega
    rw [hd', Nat.add_sub_cancel_left]
  · have hd' : d + 2 * 2 ^ f.mb / 2 ^ f.mb - 1 = d + 1 := by rw [Nat.mul_div_cancel _ hpos]; omega
    have hsig : d * 2 ^ f.mb + 2 * 2 ^ f.mb - (d + 1) * 2 ^ f.mb = 2 ^ f.mb := by rw [Nat.add_mul]; omega
    rw [hd', hsig]
    push_cast
    rw [← add_assoc, zpow_add_one₀ two_ne_zero]
    ring

variable (f)

theorem mag_nonneg (c : ℕ) : 0 ≤ f.mag c := by unfold mag; positivity

/-- From a code to the next: one unit of the code's binade. -/
theorem mag_succ (c : ℕ) : f.mag (c + 1) = f.mag c + 2 ^ (f.emin + f.binade c) := by
  have hnext := mag_binade (f := f) (k := f.sig c + 1) (f.sig_lt c)
    ((f.binade_eq_zero_or c).imp_right Nat.le_succ_of_le)
  rw [← Nat.add_assoc, binade_mul_add_sig] at hnext
  rw [hnext, mag]
  push_cast
  ring

theorem mag_strictMono : StrictMono f.mag :=
  strictMono_nat_of_lt_succ fun c => by rw [mag_succ]; exact lt_add_of_pos_right _ (by positivity)

/-- A magnitude lies on the grid of a binade, or below all normal values of that binade. -/
theorem mag_onGrid_or_lt (c d : ℕ) :
    (∃ j : ℕ, f.mag c = j * 2 ^ (f.emin + d)) ∨ (0 < d ∧ f.mag c < 2 ^ f.mb * 2 ^ (f.emin + d)) := by
  rcases le_or_gt d (f.binade c) with h | h
  · obtain ⟨n, hn⟩ := Nat.exists_eq_add_of_le h
    refine .inl ⟨f.sig c * 2 ^ n, ?_⟩
    rw [mag, hn]
    push_cast
    rw [← add_assoc, zpow_add₀ two_ne_zero (f.emin + d), zpow_natCast]
    ring
  · refine .inr ⟨Nat.zero_lt_of_lt h, ?_⟩
    calc f.mag c < 2 ^ (f.mb + 1) * 2 ^ (f.emin + f.binade c) := by
          have hsig : (f.sig c : ℚ) < 2 ^ (f.mb + 1) := by exact_mod_cast f.sig_lt c
          exact mul_lt_mul_of_pos_right hsig (by positivity)
      _ = 2 ^ f.mb * 2 ^ (f.emin + f.binade c + 1) := by rw [zpow_add_one₀ two_ne_zero]; ring
      _ ≤ 2 ^ f.mb * 2 ^ (f.emin + d) := by
          exact mul_le_mul_of_nonneg_left (zpow_le_zpow_right₀ one_le_two (by omega)) (by positivity)

/-! ## The nearest code (R71) -/

/-- Of all codes, with no upper limit to the exponent and under either sign, c is the nearest to x, the even one of two. -/
def NearestCode (f : FFmt) (x : ℚ) (c : ℕ) : Prop :=
  ∀ w d, |w| = f.mag d → |x - f.mag c| ≤ |x - w| ∧ (|x - f.mag c| = |x - w| → w ≠ f.mag c → c % 2 = 0)

/-- The exponent of one unit at a magnitude (R71 step 1). -/
def unitAt (f : FFmt) (m : ℕ) (e : ℤ) : ℤ := max (Int.ofNat m.log2 + e - f.mb) f.emin

/-- The code that a magnitude rounds to with no upper limit to the exponent (R71 steps 1 and 2). -/
def unlimitedCode (f : FFmt) (m : ℕ) (e : ℤ) : ℕ :=
  (f.unitAt m e - f.emin).toNat * 2 ^ f.mb + onGrid m e (f.unitAt m e)

theorem roundMag_eq (sat s : Bool) (m : ℕ) (e : ℤ) : f.roundMag sat s m e =
    if f.unlimitedCode m e ≤ f.maxFin then (f.withSign s (f.unlimitedCode m e), false)
    else if sat then (f.withSign s f.maxFin, true)
    else if f.hasInf then (f.withSign s f.infCode, true)
    else (f.nanCode, true) := rfl

/-- In units of its own, a magnitude is below twice the significand's top bit. -/
theorem inUnits_le (m : ℕ) (e : ℤ) : (m : ℚ) * 2 ^ (e - f.unitAt m e) ≤ 2 ^ (f.mb + 1) := by
  have hlog : (m : ℚ) ≤ 2 ^ ((m.log2 : ℤ) + 1) := by exact_mod_cast (Nat.lt_log2_self (n := m)).le
  have hexp : (m.log2 : ℤ) + 1 + (e - f.unitAt m e) ≤ (f.mb + 1 : ℕ) := by
    have : Int.ofNat m.log2 + e - f.mb ≤ f.unitAt m e := le_max_left ..
    push_cast
    simp only [Int.ofNat_eq_natCast] at this
    omega
  calc (m : ℚ) * 2 ^ (e - f.unitAt m e) ≤ 2 ^ ((m.log2 : ℤ) + 1) * 2 ^ (e - f.unitAt m e) := by gcongr
    _ = 2 ^ ((m.log2 : ℤ) + 1 + (e - f.unitAt m e)) := (zpow_add₀ two_ne_zero ..).symm
    _ ≤ 2 ^ ((f.mb + 1 : ℕ) : ℤ) := zpow_le_zpow_right₀ one_le_two hexp
    _ = 2 ^ (f.mb + 1) := zpow_natCast ..

theorem unlimitedCode_mod_two {m : ℕ} (e : ℤ) (hmb : 0 < f.mb) :
    f.unlimitedCode m e % 2 = onGrid m e (f.unitAt m e) % 2 := by
  have heven : 2 ∣ (f.unitAt m e - f.emin).toNat * 2 ^ f.mb := (dvd_pow_self 2 hmb.ne').mul_left _
  rw [unlimitedCode]
  omega

section
variable {m : ℕ} (hm : 0 < m) (e : ℤ)
include hm

/-- It has the significand's top bit, but in the lowest binade. -/
theorem le_inUnits (hu : f.emin < f.unitAt m e) : (2 : ℚ) ^ f.mb ≤ m * 2 ^ (e - f.unitAt m e) := by
  have hlog : (2 : ℚ) ^ (m.log2 : ℤ) ≤ m := by exact_mod_cast Nat.log2_self_le hm.ne'
  have hexp : (f.mb : ℤ) = m.log2 + (e - f.unitAt m e) := by
    have : f.unitAt m e = Int.ofNat m.log2 + e - f.mb := (max_choice ..).resolve_right hu.ne'
    simp only [Int.ofNat_eq_natCast] at this
    omega
  calc (2 : ℚ) ^ f.mb = 2 ^ ((m.log2 : ℤ) + (e - f.unitAt m e)) := by rw [← hexp, zpow_natCast]
    _ = 2 ^ (m.log2 : ℤ) * 2 ^ (e - f.unitAt m e) := zpow_add₀ two_ne_zero ..
    _ ≤ m * 2 ^ (e - f.unitAt m e) := by gcongr

theorem mag_unlimitedCode : f.mag (f.unlimitedCode m e) = onGrid m e (f.unitAt m e) * 2 ^ f.unitAt m e := by
  have hnear := onGrid_nearestInt m e (f.unitAt m e)
  have hemin : f.emin ≤ f.unitAt m e := le_max_right ..
  have hk : onGrid m e (f.unitAt m e) ≤ 2 ^ (f.mb + 1) := by
    exact_mod_cast hnear.le_of_le (n := 2 ^ (f.mb + 1)) (by exact_mod_cast f.inUnits_le m e)
  have hd : (f.unitAt m e - f.emin).toNat = 0 ∨ 2 ^ f.mb ≤ onGrid m e (f.unitAt m e) := by
    rcases hemin.eq_or_lt with heq | hlt
    · exact .inl (by omega)
    · exact .inr (by exact_mod_cast hnear.ge_of_ge (n := 2 ^ f.mb) (by exact_mod_cast f.le_inUnits hm e hlt))
  rw [unlimitedCode, mag_binade hk hd, Int.toNat_of_nonneg (by omega), add_sub_cancel]

/-- The unlimited code of a magnitude is the nearest. -/
theorem nearestCode_unlimitedCode (hmb : 0 < f.mb) : f.NearestCode (m * 2 ^ e) (f.unlimitedCode m e) := by
  intro w c hw
  have hnear := (onGrid_nearestInt m e (f.unitAt m e)).scaled (U := 2 ^ f.unitAt m e) (by positivity)
  have hemin : f.emin ≤ f.unitAt m e := le_max_right ..
  have hgrid := f.mag_onGrid_or_lt c (f.unitAt m e - f.emin).toNat
  rw [← hw, Int.toNat_of_nonneg (by omega), add_sub_cancel] at hgrid
  rw [mul_assoc, ← zpow_add₀ two_ne_zero, sub_add_cancel] at hnear
  rw [f.mag_unlimitedCode hm e, unlimitedCode_mod_two f e hmb]
  rcases hgrid with ⟨j, hj⟩ | ⟨hd, hlt⟩
  case inl =>
    rcases (abs_eq (by positivity)).mp hj with rfl | rfl
    · exact_mod_cast hnear j
    · rw [← neg_mul]
      exact_mod_cast hnear (-j)
  case inr =>
    have hle := (hnear (2 ^ f.mb)).1
    have hx : (2 : ℚ) ^ f.mb * 2 ^ f.unitAt m e ≤ m * 2 ^ e := by
      have := mul_le_mul_of_nonneg_right (f.le_inUnits hm e (by omega)) (show (0 : ℚ) ≤ 2 ^ f.unitAt m e by positivity)
      rwa [mul_assoc _ _ (2 ^ f.unitAt m e), ← zpow_add₀ two_ne_zero, sub_add_cancel] at this
    push_cast at hle
    rw [abs_of_nonneg (sub_nonneg.mpr hx)] at hle
    have hfar := (le_abs_self w).trans_lt hlt
    have hw' := le_abs_self ((m : ℚ) * 2 ^ e - w)
    exact ⟨by linarith, fun heq => by linarith⟩

end

/-! ## What a nearest code is (R71 step 3) -/

namespace NearestCode

variable {f} {x : ℚ} {c : ℕ}

theorem mag_nearest (h : f.NearestCode x c) (d : ℕ) :
    |x - f.mag c| ≤ |x - f.mag d| ∧ (|x - f.mag c| = |x - f.mag d| → d ≠ c → c % 2 = 0) := by
  have hd := h (f.mag d) d (abs_of_nonneg (f.mag_nonneg d))
  exact ⟨hd.1, fun heq hne => hd.2 heq fun hmag => hne (f.mag_strictMono.injective hmag)⟩

/-- The nearest code to a code's own magnitude is the code. -/
theorem eq_of_mag {d : ℕ} (h : f.NearestCode (f.mag d) c) : c = d := by
  have hle := (h.mag_nearest d).1
  rw [sub_self, abs_zero, abs_nonpos_iff, sub_eq_zero] at hle
  exact (f.mag_strictMono.injective hle).symm

/-- A nearest code not above d: x is no higher than the middle between d and d + 1, and at the middle only for an even d. -/
theorem le_middle {d : ℕ} (h : f.NearestCode x c) (hcd : c ≤ d) :
    2 * x ≤ f.mag d + f.mag (d + 1) ∧ (2 * x = f.mag d + f.mag (d + 1) → d % 2 = 0) := by
  obtain ⟨hle, heven⟩ := h.mag_nearest (d + 1)
  have hx := two_mul_le_of_abs_le (f.mag_strictMono (by omega : c < d + 1)) hle
  have hmono := f.mag_strictMono.monotone hcd
  refine ⟨by linarith, fun heq => ?_⟩
  obtain rfl : c = d := f.mag_strictMono.injective (by linarith)
  refine heven ?_ (by omega)
  rw [abs_sub_comm x (f.mag (c + 1)), show x - f.mag c = f.mag (c + 1) - x by linarith]

/-- A nearest code above d: x is no lower than the middle, and at the middle only for an odd d. -/
theorem middle_le {d : ℕ} (h : f.NearestCode x c) (hdc : d < c) :
    f.mag d + f.mag (d + 1) ≤ 2 * x ∧ (2 * x = f.mag d + f.mag (d + 1) → d % 2 = 1) := by
  obtain ⟨hle, heven⟩ := h.mag_nearest d
  have hx := le_two_mul_of_abs_le (f.mag_strictMono hdc) hle
  have hmono := f.mag_strictMono.monotone (Nat.succ_le_of_lt hdc)
  refine ⟨by linarith, fun heq => ?_⟩
  obtain rfl : d + 1 = c := f.mag_strictMono.injective (by linarith)
  have := heven (by rw [abs_sub_comm x (f.mag (d + 1)), show x - f.mag d = f.mag (d + 1) - x by linarith]) (by omega)
  omega

end NearestCode

/-! ## Decoding (R63, R64) -/

variable {f}

/-- What the formats of the part share. -/
structure Regular (f : FFmt) : Prop where
  mb_pos : 0 < f.mb
  eb_pos : 0 < f.eb
  one_le : 1 ≤ f.maxFin / 2 ^ f.mb

theorem regular_of_mem (hf : f ∈ formats) : f.Regular := by
  simp only [formats, List.mem_cons, List.not_mem_nil, or_false] at hf
  rcases hf with rfl | rfl | rfl | rfl | rfl <;> exact ⟨by decide, by decide, by decide⟩

theorem hasInf_of_mem (hf : f ∈ formats) : f.hasInf = decide (f ≠ e4m3) := by
  simp only [formats, List.mem_cons, List.not_mem_nil, or_false] at hf
  rcases hf with rfl | rfl | rfl | rfl | rfl <;> rfl

/-- The largest value's code is odd where the next one is the infinity's, and even in e4m3. -/
theorem maxFin_mod_two (hf : f ∈ formats) : f.maxFin % 2 = if f = e4m3 then 0 else 1 := by
  simp only [formats, List.mem_cons, List.not_mem_nil, or_false] at hf
  rcases hf with rfl | rfl | rfl | rfl | rfl <;> decide

/-- Codes above the largest finite one: those with the exponent all ones where that holds infinities, else the last code alone. -/
theorem maxFin_lt_iff (h : f.Regular) {E M : ℕ} (hE : E < 2 ^ f.eb) (hM : M < 2 ^ f.mb) :
    f.maxFin < E * 2 ^ f.mb + M ↔ E = 2 ^ f.eb - 1 ∧ (f.hasInf = true ∨ M = 2 ^ f.mb - 1) := by
  obtain ⟨n, hn⟩ : ∃ n, 2 ^ f.eb = n + 1 := ⟨2 ^ f.eb - 1, by omega⟩
  have heb : 2 ≤ 2 ^ f.eb := Nat.le_self_pow h.eb_pos.ne' 2
  have hmb : 2 ≤ 2 ^ f.mb := Nat.le_self_pow h.mb_pos.ne' 2
  have hrow : E = n ∨ (E + 1) * 2 ^ f.mb ≤ n * 2 ^ f.mb := by
    rcases (Nat.lt_succ_iff_lt_or_eq.mp (hn ▸ hE)).symm with heq | hlt
    · exact .inl heq
    · exact .inr (Nat.mul_le_mul_right _ hlt)
  have hpos : 2 ^ f.mb ≤ n * 2 ^ f.mb := Nat.le_mul_of_pos_left _ (by omega)
  rw [maxFin, pow_add, hn]
  rcases hrow with rfl | hle
  · cases f.hasInf <;> simp [Nat.add_mul] <;> omega
  · have hne : E ≠ n := by rintro rfl; rw [Nat.add_mul] at hle; omega
    rw [Nat.add_mul] at hle
    cases f.hasInf <;> simp [Nat.add_mul, hne] <;> omega

/-- A code without its sign bit that is above the largest finite one is a NaN or an infinity; every other is finite, of magnitude `mag`. -/
theorem decode_spec (h : f.Regular) (c : ℕ) :
    if f.maxFin < c % f.signBit then (f.decode c).isFin = false
    else ∃ m e, f.decode c = .fin (c / f.signBit % 2 == 1) m e ∧ m < 2 ^ (f.mb + 1) ∧ m * 2 ^ e = f.mag (c % f.signBit) := by
  have hmod : c % f.signBit % 2 ^ f.mb = c % 2 ^ f.mb := by rw [signBit, pow_add, Nat.mod_mul_right_mod]
  have hdiv : c % f.signBit / 2 ^ f.mb = c / 2 ^ f.mb % 2 ^ f.eb := by rw [signBit, pow_add, Nat.mod_mul_right_div_self]
  have hsplit := Nat.div_add_mod' (c % f.signBit) (2 ^ f.mb)
  have hE : c / 2 ^ f.mb % 2 ^ f.eb < 2 ^ f.eb := Nat.mod_lt _ (by positivity)
  have hM : c % 2 ^ f.mb < 2 ^ f.mb := Nat.mod_lt _ (by positivity)
  have hwide : 2 ^ (f.mb + 1) = 2 * 2 ^ f.mb := pow_succ' ..
  rw [hmod, hdiv] at hsplit
  rw [← hsplit]
  simp only [maxFin_lt_iff h hE hM, decode]
  generalize c / 2 ^ f.mb % 2 ^ f.eb = E at *
  generalize c % 2 ^ f.mb = M at *
  have heb : 2 ≤ 2 ^ f.eb := Nat.le_self_pow h.eb_pos.ne' 2
  split
  case isTrue hexc =>
    obtain ⟨rfl, hexc⟩ := hexc
    have hE0 : 2 ^ f.eb - 1 ≠ 0 := by omega
    by_cases hinf : f.hasInf = true
    · by_cases hM0 : M = 0 <;> simp [hE0, hinf, hM0, FVal.isFin]
    · simp [hE0, hinf, hexc.resolve_left hinf, FVal.isFin]
  case isFalse hexc =>
    cases E with
    | zero => exact ⟨M, f.emin, by simp, by omega, by rw [mag_binade (by omega) (.inl rfl)]; simp⟩
    | succ d =>
      have hvalue : d * 2 ^ f.mb + (2 ^ f.mb + M) = (d + 1) * 2 ^ f.mb + M := by rw [Nat.add_mul]; omega
      refine ⟨2 ^ f.mb + M, f.emin + d, ?_, by omega, by rw [← hvalue, mag_binade (by omega) (.inr (by omega))]⟩
      rw [not_and_or, not_or] at hexc
      rcases hexc with hne | ⟨hinf, hlast⟩
      · simp [hne]
      · simp [hinf, hlast]

variable (h : f.Regular)
include h

theorem maxFin_lt_signBit : f.maxFin < f.signBit := by
  have hlast := (maxFin_lt_iff h (E := 2 ^ f.eb - 1) (M := 2 ^ f.mb - 1) (by simp) (by simp)).mpr ⟨rfl, .inr rfl⟩
  refine hlast.trans ?_
  have hmb : 1 ≤ 2 ^ f.mb := Nat.one_le_two_pow
  have heb : 2 ^ f.mb ≤ 2 ^ f.eb * 2 ^ f.mb := Nat.le_mul_of_pos_left _ (by positivity)
  rw [signBit, pow_add, mul_comm (2 ^ f.mb), Nat.sub_mul]
  omega

theorem withSign_mod (s : Bool) {c : ℕ} (hc : c ≤ f.maxFin) : f.withSign s c % f.signBit = c := by
  have hlt := hc.trans_lt (maxFin_lt_signBit h)
  cases s <;> simp [withSign, Nat.mod_eq_of_lt hlt]

theorem withSign_div (s : Bool) {c : ℕ} (hc : c ≤ f.maxFin) : (f.withSign s c / f.signBit % 2 == 1) = s := by
  have hlt := hc.trans_lt (maxFin_lt_signBit h)
  have hpos : 0 < f.signBit := Nat.zero_lt_of_lt hlt
  cases s <;> simp [withSign, Nat.add_div_left _ hpos, Nat.div_eq_of_lt hlt]

theorem withSign_mod_two (s : Bool) (c : ℕ) : f.withSign s c % 2 = c % 2 := by
  have heven : 2 ∣ f.signBit := dvd_pow_self 2 (by have := h.mb_pos; omega)
  cases s
  · rfl
  · simp only [withSign, if_true]
    omega

/-- A finite code under a sign. -/
theorem decode_withSign (s : Bool) {c : ℕ} (hc : c ≤ f.maxFin) :
    ∃ m e, f.decode (f.withSign s c) = .fin s m e ∧ m < 2 ^ (f.mb + 1) ∧ m * 2 ^ e = f.mag c := by
  have hspec := decode_spec h (f.withSign s c)
  rwa [withSign_mod h s hc, withSign_div h s hc, if_neg hc.not_gt] at hspec

/-- The value of a finite code is a magnitude under a sign. -/
theorem abs_q_decode {c : ℕ} (hc : (f.decode c).isFin = true) : |(f.decode c).q| = f.mag (c % f.signBit) := by
  have hspec := decode_spec h c
  split at hspec
  · simp [hspec] at hc
  · obtain ⟨m, e, hd, -, hmag⟩ := hspec
    rw [hd, FVal.abs_q_fin, hmag]

theorem significand_lt {c m : ℕ} {s : Bool} {e : ℤ} (hc : f.decode c = .fin s m e) : m < 2 ^ (f.mb + 1) := by
  have hspec := decode_spec h c
  rw [hc] at hspec
  split at hspec
  · simp [FVal.isFin] at hspec
  · obtain ⟨m', e', hd, hm, -⟩ := hspec
    obtain ⟨-, rfl, -⟩ := FVal.fin.inj hd
    exact hm

/-- The middle between the largest value and the next one that there would be (R72). -/
theorem mag_maxFin_add_half : let half : ℚ := 2 ^ ((Int.ofNat (f.maxFin / 2 ^ f.mb) - 1) + f.emin) / 2
    f.mag f.maxFin + f.mag (f.maxFin + 1) = 2 * ((f.decode f.maxFin).q + half) := by
  obtain ⟨m, e, hd, -, hmag⟩ := decode_withSign h false le_rfl
  have hexp : f.emin + f.binade f.maxFin = Int.ofNat (f.maxFin / 2 ^ f.mb) - 1 + f.emin := by
    have := h.one_le
    rw [binade]
    simp only [Int.ofNat_eq_natCast]
    omega
  simp only [withSign, Bool.false_eq_true, if_false] at hd
  rw [mag_succ, hexp, hd, FVal.q_fin, hmag]
  simp only [Bool.false_eq_true, if_false]
  ring

end FFmt

namespace FFmt

/-! ## Rounding (R71, R72) -/

variable {f : FFmt}

/-- Rounding overflows where the nearest code is above the largest finite one; else it gives that code under the sign. -/
theorem round_fin (sat sg s : Bool) {m : ℕ} (e : ℤ) (hm : 0 < m) : let r := f.round sat sg (.fin s m e)
    (r.2 = true ↔ f.maxFin < f.unlimitedCode m e) ∧ (r.2 = false → r.1 = f.withSign s (f.unlimitedCode m e)) ∧
    (r.2 = true → r.1 = if sat then f.withSign s f.maxFin else if f.hasInf then f.withSign s f.infCode else f.nanCode) := by
  rw [round, if_neg hm.ne', roundMag_eq]
  rcases le_or_gt (f.unlimitedCode m e) f.maxFin with hle | hlt
  · simp [hle]
  · rw [if_neg hlt.not_ge]
    cases sat <;> cases f.hasInf <;> simp [hlt]

namespace NearestCode

variable {x : ℚ} {c : ℕ}

/-- A code nearest to a magnitude is nearest under either sign. -/
theorem signed (h : f.NearestCode x c) (s : Bool) {q : ℚ} {d : ℕ} (hq : |q| = f.mag d) : let sgn : ℚ := if s then -1 else 1
    |sgn * x - sgn * f.mag c| ≤ |sgn * x - q| ∧
    (|sgn * x - sgn * f.mag c| = |sgn * x - q| → q ≠ sgn * f.mag c → c % 2 = 0) := by
  cases s
  · simpa using h q d hq
  · have hneg := h (-q) d (by rwa [abs_neg])
    have hdist (w : ℚ) : |-1 * x - -1 * w| = |x - w| := by rw [← abs_neg]; congr 1; ring
    have hq' : -1 * x - q = -1 * x - -1 * -q := by ring
    simp only [if_true, hq', hdist]
    exact ⟨hneg.1, fun heq hne => hneg.2 heq fun hm => hne (by linarith)⟩

/-- The nearest code is above the largest finite one from the middle on, or, where the largest code is even, above the middle. -/
theorem maxFin_lt_iff (h : f.NearestCode x c) (hf : f ∈ formats) : f.maxFin < c ↔
    if f = e4m3 then f.mag f.maxFin + f.mag (f.maxFin + 1) < 2 * x else f.mag f.maxFin + f.mag (f.maxFin + 1) ≤ 2 * x := by
  have hpar := maxFin_mod_two hf
  rcases le_or_gt c f.maxFin with hle | hlt
  · obtain ⟨hx, heven⟩ := h.le_middle hle
    split_ifs at hpar ⊢ with he
    · exact iff_of_false hle.not_gt hx.not_gt
    · have hne : 2 * x ≠ f.mag f.maxFin + f.mag (f.maxFin + 1) := fun heq => by have := heven heq; omega
      exact iff_of_false hle.not_gt (hx.lt_of_ne hne).not_ge
  · obtain ⟨hx, hodd⟩ := h.middle_le hlt
    split_ifs at hpar ⊢ with he
    · have hne : 2 * x ≠ f.mag f.maxFin + f.mag (f.maxFin + 1) := fun heq => by have := hodd heq; omega
      exact iff_of_true hlt (hx.lt_of_ne' hne)
    · exact iff_of_true hlt hx

end NearestCode

/-- A code is its sign above the code of its magnitude. -/
theorem withSign_div_mod {c : ℕ} (hc : c < 2 ^ (f.mb + f.eb + 1)) : f.withSign (c / f.signBit % 2 == 1) (c % f.signBit) = c := by
  have hdm := Nat.div_add_mod c f.signBit
  have hlt : c / f.signBit < 2 := Nat.div_lt_of_lt_mul (by rwa [pow_succ] at hc)
  interval_cases h : c / f.signBit <;> simp_all [withSign]

/-- What is exactly a code's value rounds to that code. -/
theorem round_value (hf : f ∈ formats) (sat sg : Bool) {c m n : ℕ} {s : Bool} {e d : ℤ} (hc : c < 2 ^ (f.mb + f.eb + 1))
    (hd : f.decode c = .fin s n d) (hm : 0 < m) (heq : (m : ℚ) * 2 ^ e = n * 2 ^ d) : f.round sat sg (.fin s m e) = (c, false) := by
  have hreg := regular_of_mem hf
  have hspec := decode_spec hreg c
  rw [hd] at hspec
  split at hspec
  case isTrue => simp [FVal.isFin] at hspec
  case isFalse hle =>
    obtain ⟨n', d', hfin, -, hmag⟩ := hspec
    obtain ⟨rfl, rfl, rfl⟩ := FVal.fin.inj hfin
    have hcode := (heq.trans hmag ▸ nearestCode_unlimitedCode f hm e hreg.mb_pos).eq_of_mag
    obtain ⟨hover, hval, -⟩ := round_fin (f := f) sat sg (c / f.signBit % 2 == 1) e hm
    rw [hcode] at hover hval
    rw [withSign_div_mod hc] at hval
    have hno := Bool.eq_false_iff.mpr fun h => hle (hover.mp h)
    exact Prod.ext (hval hno) hno

end FFmt

/-- Settles O12: the code before the upper limit is the nearest, and the limit is passed from the middle beyond the largest value on. -/
theorem roundingIsNearest : Obligations.RoundingIsNearest := by
  intro f sat sg s m e hf hm
  have hreg := FFmt.regular_of_mem hf
  have hnear := f.nearestCode_unlimitedCode hm e hreg.mb_pos
  obtain ⟨hover, hcode, hsat⟩ := f.round_fin sat sg s e hm
  refine ⟨fun hr => ?_, ?_, fun hr => ?_⟩
  · have hle : f.unlimitedCode m e ≤ f.maxFin := not_lt.mp fun hlt => by simp [hover.mpr hlt] at hr
    obtain ⟨m', e', hd, -, hmag⟩ := FFmt.decode_withSign hreg s hle
    rw [hcode hr, hd, FVal.q_fin, FVal.q_fin, hmag, FFmt.withSign_mod_two hreg]
    exact ⟨rfl, rfl, fun c _ hc => hnear.signed s (FFmt.abs_q_decode hreg hc)⟩
  · rw [hover, hnear.maxFin_lt_iff hf, FFmt.mag_maxFin_add_half hreg, FVal.abs_q_fin]
    simp only [mul_lt_mul_iff_right₀ (zero_lt_two' ℚ), mul_le_mul_iff_right₀ (zero_lt_two' ℚ)]
  · rw [hsat hr, FFmt.hasInf_of_mem hf]
    by_cases he : f = e4m3 <;> simp [he]

end Sys2Proof.Machine
end

section
/-! SUPPORT. One accumulation group: its early answers, its terms cut to the grid and their exact sum, and the zero terms that change
nothing (spec/05_number_formats.md R74 to R76, R79, R80). -/

namespace Sys2Proof.Machine

/-! ## A term's exponent (R74) -/

namespace FVal

theorem ex_eq_none_iff (t : FVal) : t.ex = none ↔ t.isFin = false ∨ t.isZero = true := by
  cases t <;> simp [ex, isFin, isZero]

theorem two_pow_ex_le {t : FVal} {b : ℤ} (h : t.ex = some b) : (2 : ℚ) ^ b ≤ |t.q| ∧ |t.q| < 2 ^ (b + 1) := by
  cases t with
  | nan => simp [ex] at h
  | inf s => simp [ex] at h
  | fin s m e =>
    obtain ⟨hm, rfl⟩ : m ≠ 0 ∧ Int.ofNat m.log2 + e = b := by simpa [ex] using h
    have hlo : (2 : ℚ) ^ (m.log2 : ℤ) ≤ m := by exact_mod_cast Nat.log2_self_le hm
    have hhi : (m : ℚ) < 2 ^ ((m.log2 : ℤ) + 1) := by exact_mod_cast Nat.lt_log2_self (n := m)
    rw [abs_q_fin, Int.ofNat_eq_natCast, add_right_comm, zpow_add₀ two_ne_zero, zpow_add₀ two_ne_zero _ e]
    exact ⟨by gcongr, by gcongr⟩

theorem ex_le {t : FVal} {b g : ℤ} (h : t.ex = some b) (hlt : |t.q| < 2 ^ (g + 1)) : b ≤ g := by
  have := (two_pow_ex_le h).1.trans_lt hlt
  exact Int.lt_add_one_iff.mp ((zpow_lt_zpow_iff_right₀ one_lt_two).mp this)

theorem ex_eq_some {t : FVal} {g : ℤ} (hle : 2 ^ g ≤ |t.q|) (hlt : |t.q| < 2 ^ (g + 1)) : t.ex = some g := by
  have hpos : 0 < |t.q| := lt_of_lt_of_le (by positivity) hle
  cases h : t.ex with
  | none =>
    exfalso
    rcases (ex_eq_none_iff t).mp h with h | h <;> cases t <;> simp_all [isFin, isZero, q]
  | some b =>
    have hgb := (zpow_lt_zpow_iff_right₀ one_lt_two).mp (hle.trans_lt (two_pow_ex_le h).2)
    exact congrArg some (le_antisymm (ex_le h hlt) (by omega))

end FVal

/-! ## The largest exponent (R76) -/

theorem maxEx_concat_none (ts : List FVal) {t : FVal} (h : t.ex = none) : maxEx (ts ++ [t]) = maxEx ts := by
  rw [maxEx, List.foldl_append, List.foldl_cons, List.foldl_nil, ← maxEx, h]
  cases maxEx ts <;> rfl

theorem maxEx_concat_some (ts : List FVal) {t : FVal} {b : ℤ} (h : t.ex = some b) :
    maxEx (ts ++ [t]) = some ((maxEx ts).elim b (max · b)) := by
  rw [maxEx, List.foldl_append, List.foldl_cons, List.foldl_nil, ← maxEx, h]
  cases maxEx ts <;> rfl

/-- The largest exponent is that of the terms that have one. -/
theorem maxEx_eq (ts : List FVal) : maxEx ts = (ts.filterMap FVal.ex).max? := by
  induction ts using List.reverseRecOn with
  | nil => rfl
  | append_singleton ts t ih =>
    cases h : t.ex with
    | none => rw [maxEx_concat_none ts h, ih]; simp [h]
    | some b =>
      rw [maxEx_concat_some ts h, ih, List.filterMap_append, List.filterMap_cons_some h, List.filterMap_nil]
      cases ts.filterMap FVal.ex with
      | nil => rfl
      | cons a as => rw [List.cons_append, List.max?_cons', List.max?_cons', List.foldl_append]; rfl

theorem maxEx_eq_some {ts : List FVal} {g : ℤ} (hlt : ∀ t ∈ ts, |t.q| < 2 ^ (g + 1)) (hle : ∃ t ∈ ts, 2 ^ g ≤ |t.q|) :
    maxEx ts = some g := by
  rw [maxEx_eq, List.max?_eq_some_iff]
  obtain ⟨t, ht, hq⟩ := hle
  refine ⟨List.mem_filterMap.mpr ⟨t, ht, FVal.ex_eq_some hq (hlt t ht)⟩, fun b hb => ?_⟩
  obtain ⟨u, hu, hex⟩ := List.mem_filterMap.mp hb
  exact FVal.ex_le hex (hlt u hu)

/-! ## Terms cut to the grid (R74) -/

/-- A magnitude in units of 2^g, rounded down. -/
theorem floor_mul_two_zpow (m : ℕ) (e g : ℤ) :
    ⌊(m : ℚ) * 2 ^ (e - g)⌋ = (if g ≤ e then m * 2 ^ (e - g).toNat else m / 2 ^ (g - e).toNat : ℕ) := by
  split
  case isTrue h =>
    obtain ⟨n, hn⟩ := Int.eq_ofNat_of_zero_le (sub_nonneg.mpr h)
    rw [hn]
    exact_mod_cast Int.floor_natCast (m * 2 ^ n)
  case isFalse h =>
    obtain ⟨n, hn⟩ := Int.eq_ofNat_of_zero_le (sub_nonneg.mpr (not_le.mp h).le)
    rw [← neg_sub g e, hn, zpow_neg, ← div_eq_mul_inv]
    exact_mod_cast Rat.floor_natCast_div_natCast m (2 ^ n)

/-- A value cut toward zero, in units of u. -/
def cutToward (u q : ℚ) : ℤ := if 0 ≤ q then ⌊q / u⌋ else -⌊-q / u⌋

theorem FVal.alignTo_eq_cutToward {t : FVal} (ht : t.isFin = true) (g : ℤ) : t.alignTo g = cutToward (2 ^ g) t.q := by
  cases t with
  | nan => simp [isFin] at ht
  | inf s => simp [isFin] at ht
  | fin s m e =>
    have hunits : (m : ℚ) * 2 ^ e / 2 ^ g = m * 2 ^ (e - g) := by rw [zpow_sub₀ two_ne_zero, mul_div_assoc]
    have hpos : (0 : ℚ) ≤ m * 2 ^ e := by positivity
    rw [alignTo, q_fin, toInt, cutToward]
    cases s
    · simp only [Bool.false_eq_true, if_false, one_mul, if_pos hpos, hunits, floor_mul_two_zpow]
    · rcases hpos.eq_or_lt with hzero | hlt
      · have hm : m = 0 := by simpa [zpow_ne_zero] using hzero.symm
        simp [hm]
      · simp only [if_true, neg_one_mul, neg_neg, neg_nonneg, hlt.not_ge, if_false, hunits, floor_mul_two_zpow]

theorem FVal.alignTo_of_isZero {t : FVal} (ht : t.isZero = true) (g : ℤ) : t.alignTo g = 0 := by
  cases t <;> simp_all [isZero, alignTo, toInt]

/-- An integer of units as a value. -/
theorem q_ofUnits (x g : ℤ) : (FVal.fin (x < 0) x.natAbs g).q = x * 2 ^ g := by
  rw [FVal.q_fin, ← mul_assoc, Nat.cast_natAbs]
  rcases lt_or_ge x 0 with h | h
  · simp [h, abs_of_neg h]
  · simp [h.not_gt, abs_of_nonneg h]

/-! ## A group's answers (R76) -/

/-- The terms of a group whose result is the canonical NaN. -/
def GroupNan (ts : List FVal) : Prop := (∃ t ∈ ts, t.isNan = true) ∨ (FVal.inf false ∈ ts ∧ FVal.inf true ∈ ts)

section
variable {ts : List FVal}

theorem dotTerms_nan (h : GroupNan ts) : dotTerms ts = (f32.nanCode, true) := by
  rcases h with ⟨t, ht, hn⟩ | h
  · have hany : ts.any FVal.isNan = true := List.any_eq_true.mpr ⟨t, ht, hn⟩
    rw [dotTerms, if_pos hany]
  · simp [dotTerms, h]

variable (hnan : ¬ GroupNan ts)
include hnan

theorem dotTerms_inf {s : Bool} (hs : .inf s ∈ ts) : dotTerms ts = (f32.withSign s f32.infCode, false) := by
  obtain ⟨hno, hboth⟩ := not_or.mp hnan
  have hany : ¬ ts.any FVal.isNan = true := by rwa [List.any_eq_true]
  rw [dotTerms, if_neg hany]
  cases s
  · have hn : FVal.inf true ∉ ts := fun h => hboth ⟨hs, h⟩
    simp [hs, hn]
  · have hp : FVal.inf false ∉ ts := fun h => hboth ⟨h, hs⟩
    simp [hs, hp]

/-- Without a NaN and an infinity: the exact sum of the cut terms, rounded once. -/
theorem dotTerms_fin (hinf : ∀ s, FVal.inf s ∉ ts) : dotTerms ts = (maxEx ts).elim (0, false)
    fun emax => let x := (ts.map (FVal.alignTo (emax - 47))).sum; rne32 (.fin (x < 0) x.natAbs (emax - 47)) := by
  have hany : ¬ ts.any FVal.isNan = true := by rw [List.any_eq_true]; exact fun h => hnan (.inl h)
  rw [dotTerms, if_neg hany]
  simp only [List.any_beq', List.contains_iff_mem, hinf]
  cases maxEx ts with
  | none => simp [hinf]
  | some emax => simp [hinf, List.sum_eq_foldl]

end

/-! ## Zero terms (R80) -/

theorem any_filter_nonzero (ts : List FVal) {p : FVal → Bool} (hp : ∀ t, p t = true → t.isZero = false) :
    (ts.filter (!·.isZero)).any p = ts.any p := by
  rw [List.any_filter]
  congr 1
  funext t
  cases h : p t
  · simp
  · simp [hp t h]

theorem maxEx_filter_nonzero (ts : List FVal) : maxEx (ts.filter (!·.isZero)) = maxEx ts := by
  rw [maxEx_eq, maxEx_eq, List.filterMap_filter]
  congr 2
  funext t
  cases h : t.isZero
  · simp
  · simp [(FVal.ex_eq_none_iff t).mpr (.inr h)]

theorem sum_filter_nonzero (ts : List FVal) (g : ℤ) :
    ((ts.filter (!·.isZero)).map (FVal.alignTo g)).sum = (ts.map (FVal.alignTo g)).sum := by
  induction ts with
  | nil => rfl
  | cons t ts ih =>
    cases h : t.isZero
    · simp [h, ih]
    · simp [h, ih, FVal.alignTo_of_isZero h]

/-- A group is that of its nonzero terms. -/
theorem dotTerms_filter_nonzero (ts : List FVal) : dotTerms (ts.filter (!·.isZero)) = dotTerms ts := by
  have hnan := any_filter_nonzero ts (p := FVal.isNan) (by rintro (_ | _ | _) h <;> simp_all [FVal.isNan, FVal.isZero])
  have hinf (s : Bool) := any_filter_nonzero ts (p := (· == .inf s)) (by rintro (_ | _ | _) h <;> simp_all [FVal.isZero])
  simp only [dotTerms, hnan, hinf, maxEx_filter_nonzero, ← List.sum_eq_foldl, sum_filter_nonzero]

/-- All terms zero give +0. -/
theorem dotTerms_zeros {ts : List FVal} (h : ∀ t ∈ ts, t.isZero = true) : dotTerms ts = (0, false) := by
  have hnil : ts.filter (!·.isZero) = [] := List.filter_eq_nil_iff.mpr fun t ht => by simp [h t ht]
  rw [← dotTerms_filter_nonzero, hnil]
  rfl

/-- Two groups whose products differ in zeros alone. -/
theorem dotgroup_congr {ι : Type} (acc : Word) (is : List ι) {f g : ι → FVal}
    (h : ∀ i ∈ is, f i = g i ∨ ((f i).isZero = true ∧ (g i).isZero = true)) : dotgroup acc (is.map f) = dotgroup acc (is.map g) := by
  have hfilter : (is.map f).filter (!·.isZero) = (is.map g).filter (!·.isZero) := by
    induction is with
    | nil => rfl
    | cons i is ih =>
      have htail := ih fun j hj => h j (List.mem_cons_of_mem i hj)
      rcases h i List.mem_cons_self with heq | ⟨hf, hg⟩
      · simp [List.filter_cons, heq, htail]
      · simp [hf, hg, htail]
  rw [dotgroup, dotgroup, ← dotTerms_filter_nonzero (_ :: is.map f), ← dotTerms_filter_nonzero (_ :: is.map g)]
  simp only [List.filter_cons, hfilter]

/-! ## A group of the accumulator alone -/

theorem f32_mem_formats : f32 ∈ formats := by decide

theorem eq_of_f32_decode_inf {c : ℕ} {s : Bool} (hc : c < 2 ^ 32) (h : f32.decode c = .inf s) : c = f32.withSign s f32.infCode := by
  rw [FFmt.decode] at h
  split_ifs at h with hE hexp hM
  obtain rfl := FVal.inf.inj h
  have hcode : c % f32.signBit = f32.infCode := by
    simp only [f32, Bool.true_and, beq_iff_eq] at hexp hM
    simp only [f32, FFmt.signBit, FFmt.infCode]
    omega
  rw [← hcode, FFmt.withSign_div_mod hc]

theorem log2_lt_of_f32_decode {c m : ℕ} {s : Bool} {e : ℤ} (hd : f32.decode c = .fin s m e) (hm : m ≠ 0) : m.log2 < 24 :=
  (Nat.log2_lt hm).mpr (FFmt.significand_lt (FFmt.regular_of_mem f32_mem_formats) hd)

/-- A finite accumulator has no bit below its own grid. -/
theorem alignTo_decode {c m : ℕ} {s : Bool} {e : ℤ} (hd : f32.decode c = .fin s m e) (hm : m ≠ 0) :
    (FVal.fin s m e).alignTo (Int.ofNat m.log2 + e - 47) = FVal.toInt s (m * 2 ^ (47 - m.log2)) := by
  have hlog := log2_lt_of_f32_decode hd hm
  have hsub : (e - (Int.ofNat m.log2 + e - 47)).toNat = 47 - m.log2 := by simp only [Int.ofNat_eq_natCast]; omega
  rw [FVal.alignTo, if_pos (by simp only [Int.ofNat_eq_natCast]; omega), hsub]

theorem fin_toInt (s : Bool) {n : ℕ} (hn : 0 < n) (g : ℤ) :
    FVal.fin (decide (FVal.toInt s n < 0)) (FVal.toInt s n).natAbs g = .fin s n g := by
  cases s <;> simp [FVal.toInt, hn]

/-- An accumulator that is neither a NaN nor a zero passes a group in which it is the one term. -/
theorem dotTerms_fv {acc : Word} (hnan : (fv acc).isNan = false) (hzero : (fv acc).isZero = false) :
    dotTerms [fv acc] = (acc.toNat, false) := by
  cases hd : fv acc with
  | nan => simp [hd, FVal.isNan] at hnan
  | inf s => rw [dotTerms_inf (s := s) (by cases s <;> simp [GroupNan, FVal.isNan]) (by simp), ← eq_of_f32_decode_inf acc.isLt hd]
  | fin s m e =>
    have hm : m ≠ 0 := by simpa [hd, FVal.isZero] using hzero
    have hlog := log2_lt_of_f32_decode hd hm
    have hmax : maxEx [.fin s m e] = some (Int.ofNat m.log2 + e) := by simp [maxEx_eq, FVal.ex, hm]
    have hpos : 0 < m * 2 ^ (47 - m.log2) := by positivity
    rw [dotTerms_fin (by simp [GroupNan, FVal.isNan]) (by simp), hmax, Option.elim_some, List.map_singleton, List.sum_singleton,
      alignTo_decode hd hm]
    dsimp only
    rw [fin_toInt s hpos]
    refine FFmt.round_value f32_mem_formats false false acc.isLt hd hpos ?_
    have hexp : ((47 - m.log2 : ℕ) : ℤ) + (Int.ofNat m.log2 + e - 47) = e := by simp only [Int.ofNat_eq_natCast]; omega
    push_cast
    rw [mul_assoc, ← zpow_natCast, ← zpow_add₀ two_ne_zero, hexp]

/-- A group whose products are all zero leaves its accumulator, but makes -0 to +0 and a NaN canonical (log 7). -/
theorem dotgroup_zeros (acc : Word) {ps : List FVal} (h : ∀ p ∈ ps, p.isZero = true) : dotgroup acc ps =
    if (fv acc).isNan then (0x7FC00000, true) else if (fv acc).isZero then (0, false) else (acc, false) := by
  have hnil : ps.filter (!·.isZero) = [] := List.filter_eq_nil_iff.mpr fun p hp => by simp [h p hp]
  split_ifs with hnan hzero
  · rw [dotgroup, dotTerms_nan (.inl ⟨fv acc, List.mem_cons_self, hnan⟩)]
    rfl
  · rw [dotgroup, dotTerms_zeros (by simpa [hzero] using h)]
    rfl
  · rw [dotgroup, ← dotTerms_filter_nonzero, List.filter_cons_of_pos (by simpa using hzero), hnil,
      dotTerms_fv (by simpa using hnan) (by simpa using hzero), wd, BitVec.ofNat_toNat, BitVec.setWidth_eq]

end Sys2Proof.Machine
end

section
/-! SUPPORT. Reductions over groups of 32 positions (spec/05_number_formats.md R66, R67, R77, R78, R80): Obligations.ReductionResults. -/

namespace Sys2Proof.Machine

/-! ## The groups of a reduction (R77) -/

/-- The positions of a reduction over k, group after group. -/
def groupsUpTo (k : ℕ) : List (List ℕ) := (List.range (ceilDiv k 32)).map (groupAt k)

@[simp] theorem groupsUpTo_zero : groupsUpTo 0 = [] := rfl

theorem lt_of_mem_groupsUpTo {k : ℕ} {is : List ℕ} (his : is ∈ groupsUpTo k) {i : ℕ} (hi : i ∈ is) : i < k := by
  obtain ⟨g, -, rfl⟩ := List.mem_map.mp his
  obtain ⟨j, hj, rfl⟩ := List.mem_map.mp hi
  have := List.mem_range.mp hj
  omega

/-- The groups are cut on the dense index: a last group comes behind full ones. -/
theorem groupsUpTo_append (n : ℕ) {k : ℕ} (h1 : 1 ≤ k) (h32 : k ≤ 32) :
    groupsUpTo (32 * n + k) = groupsUpTo (32 * n) ++ [(List.range k).map (32 * n + ·)] := by
  have hlen : ceilDiv (32 * n + k) 32 = n + 1 := by rw [ceilDiv]; omega
  have hlen' : ceilDiv (32 * n) 32 = n := by rw [ceilDiv]; omega
  have hlast : groupAt (32 * n + k) n = (List.range k).map (32 * n + ·) := by
    rw [groupAt, Nat.add_sub_cancel_left, min_eq_right h32]
  have hfull : ∀ g ∈ List.range n, groupAt (32 * n + k) g = groupAt (32 * n) g := by
    intro g hg
    have := List.mem_range.mp hg
    rw [groupAt, groupAt, min_eq_left (by omega), min_eq_left (by omega)]
  rw [groupsUpTo, groupsUpTo, hlen, hlen', List.range_succ, List.map_append, List.map_congr_left hfull, List.map_singleton, hlast]

/-- One group of a floating reduction: its result is the next one's accumulator. -/
def floatGroup (x y : FFmt) (a b : Opnd) (r : Word × Bool) (is : List ℕ) : Word × Bool :=
  let v := dotgroup r.1 (is.map fun i => fprod x y (a i) (b i))
  (v.1, r.2 || v.2)

/-- One group of an integer reduction. -/
def intGroup (fa fb : EFmt) (a b : Opnd) (r : Word × Bool) (is : List ℕ) : Word × Bool :=
  let ps := is.map fun i => iprod fa fb (a i) (b i)
  let v := sat32 (sx r.1 + (ps.map Prod.fst).foldl (· + ·) 0)
  (v.1, r.2 || v.2 || ps.any Prod.snd)

theorem freduce_eq_foldl (x y : FFmt) (a b : Opnd) (k n g : ℕ) (r : Word × Bool) :
    freduce x y a b k n g r = ((List.range' g n).map (groupAt k)).foldl (floatGroup x y a b) r := by
  induction n generalizing g r with
  | zero => rfl
  | succ n ih => rw [freduce, ih]; rfl

theorem ireduce_eq_foldl (fa fb : EFmt) (a b : Opnd) (k n g : ℕ) (r : Word × Bool) :
    ireduce fa fb a b k n g r = ((List.range' g n).map (groupAt k)).foldl (intGroup fa fb a b) r := by
  induction n generalizing g r with
  | zero => rfl
  | succ n ih => rw [ireduce, ih]; rfl

theorem dotreduce_float {fa fb : EFmt} {x y : FFmt} (hx : fa.float = some x) (hy : fb.float = some y) (acc : Word) (a b : Opnd) (k : ℕ) :
    dotreduce fa fb acc a b k = (groupsUpTo k).foldl (floatGroup x y a b) (acc, false) := by
  rw [dotreduce, hx, hy, groupsUpTo, List.range_eq_range']
  exact freduce_eq_foldl ..

theorem dotreduce_int {fa fb : EFmt} (h : fa.float = none ∨ fb.float = none) (acc : Word) (a b : Opnd) (k : ℕ) :
    dotreduce fa fb acc a b k = (groupsUpTo k).foldl (intGroup fa fb a b) (acc, false) := by
  have hint : dotreduce fa fb acc a b k = ireduce fa fb a b k (ceilDiv k 32) 0 (acc, false) := by
    rcases h with h | h
    · rw [dotreduce, h]
    · rw [dotreduce, h]; cases fa.float <;> rfl
  rw [hint, groupsUpTo, List.range_eq_range']
  exact ireduce_eq_foldl ..

theorem dotreduce_zero (fa fb : EFmt) (acc : Word) (a b : Opnd) : dotreduce fa fb acc a b 0 = (acc, false) := by
  cases hx : fa.float with
  | none => rw [dotreduce_int (.inl hx), groupsUpTo_zero, List.foldl_nil]
  | some x =>
    cases hy : fb.float with
    | none => rw [dotreduce_int (.inr hy), groupsUpTo_zero, List.foldl_nil]
    | some y => rw [dotreduce_float hx hy, groupsUpTo_zero, List.foldl_nil]

/-! ## Absent factors (R80, R95) -/

@[simp] theorem fprod_none_right (x y : FFmt) (a : Option ℕ) : fprod x y a none = .fin false 0 0 := by cases a <;> rfl

@[simp] theorem fprod_none_left (x y : FFmt) (b : Option ℕ) : fprod x y none b = .fin false 0 0 := rfl

theorem decode_zero (f : FFmt) : f.decode 0 = .fin false 0 f.emin := by simp [FFmt.decode]

/-- A finite factor times zero. -/
theorem isZero_mul_decode_zero {v : FVal} (hv : v.isFin = true) (f : FFmt) : (FVal.mul v (f.decode 0)).isZero = true := by
  cases v <;> simp_all [FVal.isFin, decode_zero, FVal.mul, FVal.isZero]

/-- An omitted position and the zero that the dense operand holds there (R80). -/
theorem fprod_omitted (x y : FFmt) {a b : Option ℕ} (h : b = none → ∀ c, a = some c → (x.decode c).isFin = true) :
    fprod x y a b = fprod x y a (some (b.getD 0)) ∨
    ((fprod x y a b).isZero = true ∧ (fprod x y a (some (b.getD 0))).isZero = true) := by
  cases b with
  | some v => exact .inl rfl
  | none =>
    cases a with
    | none => exact .inl rfl
    | some c => exact .inr ⟨rfl, isZero_mul_decode_zero (h rfl c rfl) y⟩

/-- A group with no kept position (log 7). -/
theorem floatGroup_omitted (x y : FFmt) (a : Opnd) {b : Opnd} (r : Word × Bool) {is : List ℕ} (h : ∀ i ∈ is, b i = none) :
    floatGroup x y a b r is = if (fv r.1).isNan then (0x7FC00000, true) else if (fv r.1).isZero then (0, r.2) else r := by
  have hzero : ∀ p ∈ is.map (fun i => fprod x y (a i) (b i)), p.isZero = true := by
    rintro p hp
    obtain ⟨i, hi, rfl⟩ := List.mem_map.mp hp
    rw [h i hi, fprod_none_right]
    rfl
  rw [floatGroup, dotgroup_zeros r.1 hzero]
  split_ifs <;> simp

/-! ## Integer formats (R66, R67, R74, R78) -/

/-- The reserved-code event is t2's alone. -/
theorem EFmt.int_snd (f : EFmt) (c : ℕ) : (f.int c).2 = (f == .t2 && c == 2) := by
  cases f
  case t2 =>
    simp only [EFmt.int]
    split_ifs with h1 h3
    · simp [h1]
    · simp [h3]
    · rfl
  all_goals rfl

theorem iprod_fst (fa fb : EFmt) (a b : Option ℕ) :
    (iprod fa fb a b).1 = (a.map fun v => (fa.int v).1).getD 0 * (b.map fun v => (fb.int v).1).getD 0 := by
  cases a <;> cases b <;> simp [iprod]

theorem iprod_snd (fa fb : EFmt) (a b : Option ℕ) :
    (iprod fa fb a b).2 = ((fa == .t2 && a == some 2) || (fb == .t2 && b == some 2)) := by
  cases a <;> cases b <;> simp [iprod, EFmt.int_snd]

/-- The nearest 32-bit integer, and the event where it is another one. -/
theorem sat32_spec (x : ℤ) : (sat32 x).1.toInt = max (-2147483648) (min 2147483647 x) ∧
    (sat32 x).2 = decide ((sat32 x).1.toInt ≠ x) := by
  rw [sat32]
  split_ifs with hhi hlo
  · have hval : (BitVec.ofNat 32 2147483647).toInt = 2147483647 := by decide
    rw [hval]
    exact ⟨by omega, by simp; omega⟩
  · have hval : (BitVec.ofNat 32 2147483648).toInt = -2147483648 := by decide
    rw [hval]
    exact ⟨by omega, by simp; omega⟩
  · have hval : (BitVec.ofInt 32 x).toInt = x := by
      rw [BitVec.toInt_ofInt]
      exact Int.bmod_eq_of_le (by norm_num; omega) (by norm_num; omega)
    rw [hval]
    exact ⟨by omega, by simp⟩

/-! ## The statement -/

/-- R76: the answers of one group. -/
theorem dotgroup_spec (acc : Word) (ps : List FVal) :
    let ts := fv acc :: ps
    (GroupNan ts → dotgroup acc ps = (0x7FC00000, true)) ∧
    (¬ GroupNan ts → FVal.inf false ∈ ts → dotgroup acc ps = (0x7F800000, false)) ∧
    (¬ GroupNan ts → FVal.inf true ∈ ts → dotgroup acc ps = (0xFF800000, false)) ∧
    ((∀ t ∈ ts, t.isZero = true) → dotgroup acc ps = (0, false)) := by
  refine ⟨fun h => ?_, fun h hp => ?_, fun h hn => ?_, fun h => ?_⟩
  · rw [dotgroup, dotTerms_nan h]; rfl
  · rw [dotgroup, dotTerms_inf h hp]; rfl
  · rw [dotgroup, dotTerms_inf h hn]; rfl
  · rw [dotgroup, dotTerms_zeros h]; rfl

/-- R74, R76: the sum of a group of finite terms. -/
theorem dotgroup_sum (acc : Word) (ps : List FVal) {emax : ℤ} (hfin : ∀ t ∈ fv acc :: ps, t.isFin = true)
    (hlt : ∀ t ∈ fv acc :: ps, |t.q| < (2 : ℚ) ^ (emax + 1)) (hle : ∃ t ∈ fv acc :: ps, (2 : ℚ) ^ emax ≤ |t.q|) :
    let u := (2 : ℚ) ^ (emax - 47)
    ∃ v : FVal, v.isFin = true ∧ v.q = (((fv acc :: ps).map fun t => cutToward u t.q).sum : ℤ) * u ∧ (v.isZero = true → v.sign = false) ∧
      dotgroup acc ps = (BitVec.ofNat 32 (rne32 v).1, (rne32 v).2) := by
  have hinf (s : Bool) : FVal.inf s ∉ fv acc :: ps := fun h => by simpa [FVal.isFin] using hfin _ h
  have hnan : ¬ ∃ t ∈ fv acc :: ps, t.isNan = true := by
    rintro ⟨t, ht, hn⟩
    have := hfin t ht
    cases t <;> simp [FVal.isNan, FVal.isFin] at hn this
  have hcut : (fv acc :: ps).map (FVal.alignTo (emax - 47)) = (fv acc :: ps).map fun t => cutToward (2 ^ (emax - 47)) t.q :=
    List.map_congr_left fun t ht => FVal.alignTo_eq_cutToward (hfin t ht) _
  refine ⟨_, rfl, q_ofUnits _ (emax - 47), fun hz => ?_, ?_⟩
  · have hzero : ((fv acc :: ps).map fun t => cutToward (2 ^ (emax - 47)) t.q).sum = 0 := by simpa [FVal.isZero] using hz
    simp only [hzero]
    rfl
  · rw [dotgroup, dotTerms_fin (not_or.mpr ⟨hnan, fun h => hinf _ h.1⟩) hinf, maxEx_eq_some hlt hle, ← hcut]
    rfl

/-- R78: one group of integer or ternary products. -/
theorem intGroup_spec (fa fb : EFmt) (a b : Opnd) (r : Word × Bool) (is : List ℕ) :
    let value (f : EFmt) (c : Option ℕ) : ℤ := (c.map fun v => (f.int v).1).getD 0
    let bad (f : EFmt) (c : Option ℕ) : Bool := f == .t2 && c == some 2
    let sum := r.1.toInt + (is.map fun i => value fa (a i) * value fb (b i)).sum
    (intGroup fa fb a b r is).1.toInt = max (-2147483648) (min 2147483647 sum) ∧
    (intGroup fa fb a b r is).2 =
      (r.2 || decide ((intGroup fa fb a b r is).1.toInt ≠ sum) || is.any fun i => bad fa (a i) || bad fb (b i)) := by
  intro value bad sum
  have hsum : sx r.1 + ((is.map fun i => iprod fa fb (a i) (b i)).map Prod.fst).foldl (· + ·) 0 = sum := by
    rw [← List.sum_eq_foldl, List.map_map]
    simp only [Function.comp_def, iprod_fst]
    rfl
  have hbad : (is.map fun i => iprod fa fb (a i) (b i)).any Prod.snd = is.any fun i => bad fa (a i) || bad fb (b i) := by
    rw [List.any_map]
    simp only [Function.comp_def, iprod_snd]
    rfl
  simp only [intGroup, hsum, hbad]
  obtain ⟨hval, hclamp⟩ := sat32_spec sum
  exact ⟨hval, by rw [hclamp]⟩

/-- R80: the sparse reduction is the dense one, where what meets an omitted position is finite. -/
theorem dotreduce_sparse {fa fb : EFmt} {x y : FFmt} (hx : fa.float = some x) (hy : fb.float = some y) (acc : Word) {a b : Opnd} {k : ℕ}
    (h : ∀ i c, i < k → b i = none → a i = some c → (x.decode c).isFin = true) :
    dotreduce fa fb acc a b k = dotreduce fa fb acc a (fun i => some ((b i).getD 0)) k := by
  rw [dotreduce_float hx hy, dotreduce_float hx hy]
  refine List.foldl_ext _ _ _ fun r is his => ?_
  have hgroup := dotgroup_congr r.1 is fun i hi =>
    fprod_omitted x y fun hb c ha => h i c (lt_of_mem_groupsUpTo his hi) hb ha
  simp only [floatGroup, hgroup]

/-- Settles O40: a group by the cases of its terms, a reduction by its groups, the last one behind full ones; a zero term changes nothing. -/
theorem reductionResults : Obligations.ReductionResults := by
  refine ⟨fun acc ps => ?_, dotreduce_zero, ?_, fun x y c => ⟨fprod_none_right x y c, fprod_none_left x y c⟩, ?_, ?_, ?_⟩
  · obtain ⟨hnan, hpos, hneg, hzero⟩ := dotgroup_spec acc ps
    exact ⟨hnan, hpos, hneg, hzero, fun emax => dotgroup_sum acc ps⟩
  · intro fa fb x y acc a b n k hx hy h1 h32
    dsimp only
    simp only [dotreduce_float hx hy, groupsUpTo_append n h1 h32, List.foldl_append, List.foldl_cons, List.foldl_nil]
    generalize List.foldl (floatGroup x y a b) (acc, false) (groupsUpTo (32 * n)) = r
    refine ⟨by rw [floatGroup, List.map_map]; rfl, fun hnone => floatGroup_omitted x y a r ?_⟩
    simpa using hnone
  · intro fa fb x y acc a b k hx hy h
    exact dotreduce_sparse hx hy acc h
  · intro fa fb acc a b n k hint h1 h32
    dsimp only
    simp only [dotreduce_int hint, groupsUpTo_append n h1 h32, List.foldl_append, List.foldl_cons, List.foldl_nil]
    have hspec := intGroup_spec fa fb a b ((groupsUpTo (32 * n)).foldl (intGroup fa fb a b) (acc, false)) ((List.range k).map (32 * n + ·))
    simpa only [List.map_map, List.any_map, Function.comp_def] using hspec
  · intro acc p sa sb
    exact ⟨fun h => by rw [saccOp, if_pos h]; rfl, fun ha hb => by rw [saccOp, if_neg (not_or.mpr ⟨ha, hb⟩)]⟩

end Sys2Proof.Machine
end

section
/-! SUPPORT. Rule records and the group of canonical charges (spec/06_block_tensors.md R83 to R86): Obligations.ChargesFormAGroup. -/

namespace Sys2Proof.Machine

/-! ## Rule records (R82, R84, R85) -/

/-- A component meets R84: cyclic of order 2 to 65,535 with the width of its order, or U(1) of width 2 to 16. -/
def Comp.Sound (c : Comp) : Prop :=
  (c.z = true → 2 ≤ c.n ∧ c.n ≤ 65535 ∧ 2 ^ (c.w - 1) < c.n ∧ c.n ≤ 2 ^ c.w) ∧ (c.z = false → 2 ≤ c.w ∧ c.w ≤ 16)

theorem zWidth_spec {n : Nat} (h : 2 ≤ n) : 2 ^ (zWidth n - 1) < n ∧ n ≤ 2 ^ zWidth n := by
  have hl : 2 ^ n.log2 ≤ n := Nat.log2_self_le (by omega)
  have hu : n < 2 ^ (n.log2 + 1) := Nat.lt_log2_self
  unfold zWidth
  split
  next he =>
    have hpos : n.log2 ≠ 0 := fun h0 => by rw [h0] at he; omega
    exact ⟨(Nat.pow_lt_pow_right (by omega) (by omega)).trans_eq he, he.ge⟩
  next hne => exact ⟨lt_of_le_of_ne hl hne, hu.le⟩

theorem compOf_sound {w : Word} {c : Comp} (h : compOf w = some (some c)) : c.Sound := by
  unfold compOf at h
  split at h
  · cases h
  split at h
  · split at h <;> simp at h
  · split at h
    next hw =>
      obtain rfl : _ = c := by simpa using h
      exact ⟨by simp, fun _ => ⟨hw.1, hw.2.1⟩⟩
    next => cases h
  · split at h
    next hw =>
      obtain rfl : _ = c := by simpa using h
      have hlt : bits w 15 0 < 2 ^ 16 := Nat.mod_lt _ (by decide)
      exact ⟨fun _ => ⟨hw.2, by dsimp only; omega, zWidth_spec hw.2⟩, by simp⟩
    next => cases h
  · cases h

theorem compsOf_spec {k : Nat} {ws : List Word} {g : Rule} (h : compsOf ws k = some g) : g.length = k ∧ ∀ c ∈ g, c.Sound := by
  induction k generalizing ws g with
  | zero => cases ws <;> simp_all [compsOf]
  | succ k ih =>
    cases ws with
    | nil => simp [compsOf] at h
    | cons w ws =>
      rw [compsOf] at h
      split at h
      next c cs hc hcs =>
        obtain rfl := Option.some.inj h
        obtain ⟨hlen, hs⟩ := ih hcs
        exact ⟨by simp [hlen], List.forall_mem_cons.mpr ⟨compOf_sound hc, hs⟩⟩
      next => cases h

/-- What a valid rule record says (R84, R85). -/
theorem ruleOf_spec {ws : List Word} {g : Rule} (h : ruleOf ws = some g) :
    g.length = bits (nthW ws 0) 1 0 + 1 ∧ widthSum g ≤ 32 ∧ bits (nthW ws 0) 31 24 = 0xA7 ∧ ∀ c ∈ g, c.Sound := by
  unfold ruleOf at h
  dsimp only at h
  split at h
  · cases h
  next hk =>
    split at h
    · cases h
    split at h
    · cases h
    split at h
    · cases h
    next r hr =>
      split at h
      next hw =>
        obtain rfl := Option.some.inj h
        obtain ⟨hlen, hs⟩ := compsOf_spec hr
        exact ⟨hlen, hw, not_not.mp fun hn => hk (.inl hn), hs⟩
      next => cases h

/-! ## Fields of a charge word (R83, R86) -/

/-- A value that a canonical field of the component can have (R83). -/
def Comp.Fits (c : Comp) (v : Int) : Prop :=
  if c.z then 0 ≤ v ∧ v < c.n else -(2 ^ (c.w - 1) : Int) ≤ v ∧ v < (2 ^ (c.w - 1) : Int)

theorem Comp.fits_cyclic {c : Comp} (hz : c.z = true) (v : Int) : c.Fits v ↔ 0 ≤ v ∧ v < c.n := by simp [Fits, hz]

theorem Comp.fits_u1 {c : Comp} (hz : c.z = false) (v : Int) :
    c.Fits v ↔ -(2 ^ (c.w - 1) : Int) ≤ v ∧ v < (2 ^ (c.w - 1) : Int) := by simp [Fits, hz]

/-- A field's width is twice half of it. -/
theorem two_pow_width {w : Nat} (h : 1 ≤ w) : (2 : Int) ^ w = 2 * 2 ^ (w - 1) := by
  obtain ⟨k, rfl⟩ : ∃ k, w = k + 1 := ⟨w - 1, by omega⟩
  rw [Nat.add_sub_cancel, pow_succ, mul_comm]

/-- A value that fits is read back from its low W bits. -/
theorem Comp.read_put {c : Comp} (hc : c.Sound) {v : Int} (h : c.Fits v) : c.read (Int.emod v (2 ^ c.w)).toNat = v := by
  have hpos : (0 : Int) < 2 ^ c.w := by positivity
  cases hz : c.z with
  | true =>
    obtain ⟨h0, hn⟩ := (Comp.fits_cyclic hz v).mp h
    obtain ⟨-, -, -, hle⟩ := hc.1 hz
    have hle' : (c.n : Int) ≤ 2 ^ c.w := by exact_mod_cast hle
    have he : Int.emod v (2 ^ c.w) = v := Int.emod_eq_of_lt h0 (by omega)
    simp only [read, hz, if_true, he]
    omega
  | false =>
    obtain ⟨hl, hu⟩ := (Comp.fits_u1 hz v).mp h
    obtain ⟨hw, -⟩ := hc.2 hz
    have h2 := two_pow_width (w := c.w) (by omega)
    have hcast : ((2 ^ (c.w - 1) : Nat) : Int) = 2 ^ (c.w - 1) := by push_cast; rfl
    simp only [read, hz, Bool.false_eq_true, if_false]
    by_cases hv : 0 ≤ v
    · have he : Int.emod v (2 ^ c.w) = v := Int.emod_eq_of_lt hv (by omega)
      rw [he, if_pos (by omega)]
      omega
    · have he : Int.emod v (2 ^ c.w) = v + 2 ^ c.w := by
        rw [← Int.emod_eq_of_lt (a := v + 2 ^ c.w) (b := 2 ^ c.w) (by omega) (by omega)]
        exact (Int.add_emod_right ..).symm
      rw [he, if_neg (by omega)]
      omega

/-- The low W bits of what a field reads as are the field. -/
theorem Comp.put_read (c : Comp) {n : Nat} (h : n < 2 ^ c.w) : (Int.emod (c.read n) (2 ^ c.w)).toNat = n := by
  have hn : ((n : Int)) < 2 ^ c.w := by exact_mod_cast h
  have he : Int.emod n (2 ^ c.w) = n := Int.emod_eq_of_lt (by omega) hn
  have he' : Int.emod ((n : Int) - 2 ^ c.w) (2 ^ c.w) = n := (Int.sub_emod_right ..).trans he
  unfold read
  split
  · rw [he]; omega
  · split
    · rw [he]; omega
    · rw [he']; omega

/-- The values of a number's fields. -/
def fieldValues (g : Rule) (n : Nat) : List Int := (g.zip (fieldsOf g n).1).map (fun p => p.1.read p.2)

/-- A number's fields are canonical, and nothing stands above them. -/
def canonicalNat (g : Rule) (n : Nat) : Bool :=
  (fieldsOf g n).2 == 0 && (g.zip (fieldsOf g n).1).all (fun p => !p.1.z || decide (p.2 < p.1.n))

theorem valuesOf_eq (g : Rule) (x : Word) : valuesOf g x = fieldValues g x.toNat := rfl
theorem canonical_eq (g : Rule) (x : Word) : canonical g x = canonicalNat g x.toNat := rfl

@[simp] theorem fieldValues_cons (c : Comp) (g : Rule) (n : Nat) :
    fieldValues (c :: g) n = c.read (n % 2 ^ c.w) :: fieldValues g (n / 2 ^ c.w) := rfl

theorem canonicalNat_cons (c : Comp) (g : Rule) (n : Nat) :
    canonicalNat (c :: g) n = true ↔ (c.z = true → n % 2 ^ c.w < c.n) ∧ canonicalNat g (n / 2 ^ c.w) = true := by
  simp only [canonicalNat, fieldsOf, List.zip_cons_cons, List.all_cons, Bool.and_eq_true, Bool.or_eq_true, Bool.not_eq_true',
    decide_eq_true_eq, ← Bool.not_eq_true, ← imp_iff_not_or]
  exact and_left_comm

theorem canonicalNat_nil (n : Nat) : canonicalNat [] n = true ↔ n = 0 := by simp [canonicalNat, fieldsOf]

/-- The fields of a canonical number have values that fit. -/
theorem fieldValues_fit {g : Rule} (hg : ∀ c ∈ g, c.Sound) {n : Nat} (h : canonicalNat g n = true) :
    List.Forall₂ Comp.Fits g (fieldValues g n) := by
  induction g generalizing n with
  | nil => exact .nil
  | cons c g ih =>
    obtain ⟨hc, hs⟩ := List.forall_mem_cons.mp hg
    obtain ⟨hz, hr⟩ := (canonicalNat_cons c g n).mp h
    refine .cons ?_ (ih hs hr)
    have hlt : n % 2 ^ c.w < 2 ^ c.w := Nat.mod_lt _ (by positivity)
    cases hcz : c.z with
    | true =>
      have := hz hcz
      rw [Comp.fits_cyclic hcz]
      simp only [Comp.read, hcz, if_true]
      omega
    | false =>
      have h2 := two_pow_width (w := c.w) (by have := (hc.2 hcz).1; omega)
      have hlt' : ((n % 2 ^ c.w : Nat) : Int) < 2 ^ c.w := by exact_mod_cast hlt
      have hcast : ((2 ^ (c.w - 1) : Nat) : Int) = 2 ^ (c.w - 1) := by push_cast; rfl
      rw [Comp.fits_u1 hcz]
      simp only [Comp.read, hcz, Bool.false_eq_true, if_false]
      split <;> omega

/-! ## Packing (R86) -/

theorem widthSum_cons (c : Comp) (g : Rule) : widthSum (c :: g) = c.w + widthSum g := by
  simp only [widthSum, ← List.sum_eq_foldl, List.map_cons, List.sum_cons]

/-- Values that fit, packed, are the fields of a canonical number within the rule's width. -/
theorem packCharge_spec {g : Rule} (hg : ∀ c ∈ g, c.Sound) {vs : List Int} (h : List.Forall₂ Comp.Fits g vs) :
    packCharge (g.zip vs) < 2 ^ widthSum g ∧ fieldValues g (packCharge (g.zip vs)) = vs ∧
      canonicalNat g (packCharge (g.zip vs)) = true := by
  induction h with
  | nil => exact ⟨by decide, rfl, rfl⟩
  | @cons c v g vs hv _ ih =>
    obtain ⟨hc, hs⟩ := List.forall_mem_cons.mp hg
    obtain ⟨hlt, hvals, hcan⟩ := ih hs
    have hpos : (0 : Int) < 2 ^ c.w := by positivity
    have hput : (Int.emod v (2 ^ c.w)).toNat < 2 ^ c.w := by
      have h0 : 0 ≤ Int.emod v (2 ^ c.w) := Int.emod_nonneg _ hpos.ne'
      have h1 : Int.emod v (2 ^ c.w) < 2 ^ c.w := Int.emod_lt_of_pos _ hpos
      have : ((2 ^ c.w : Nat) : Int) = 2 ^ c.w := by push_cast; rfl
      omega
    have hmod : packCharge ((c :: g).zip (v :: vs)) % 2 ^ c.w = (Int.emod v (2 ^ c.w)).toNat := by
      rw [List.zip_cons_cons, packCharge, Nat.add_mul_mod_self_left, Nat.mod_eq_of_lt hput]
    have hdiv : packCharge ((c :: g).zip (v :: vs)) / 2 ^ c.w = packCharge (g.zip vs) := by
      rw [List.zip_cons_cons, packCharge, Nat.add_mul_div_left _ _ (by positivity), Nat.div_eq_of_lt hput, Nat.zero_add]
    refine ⟨?_, ?_, (canonicalNat_cons ..).mpr ⟨fun hz => ?_, by rwa [hdiv]⟩⟩
    · rw [widthSum_cons, pow_add]
      exact (Nat.div_lt_iff_lt_mul (by positivity)).mp (by rwa [hdiv]) |>.trans_eq (mul_comm ..)
    · rw [fieldValues_cons, hmod, hdiv, hvals, Comp.read_put hc hv]
    · rw [hmod]
      have := Comp.read_put hc hv
      rw [Comp.read, if_pos hz] at this
      have := (Comp.fits_cyclic hz v).mp hv
      omega

/-- A canonical number is its fields' values packed. -/
theorem packCharge_fieldValues {g : Rule} {n : Nat} (h : canonicalNat g n = true) : packCharge (g.zip (fieldValues g n)) = n := by
  induction g generalizing n with
  | nil => exact ((canonicalNat_nil n).mp h).symm
  | cons c g ih =>
    have hput := c.put_read (Nat.mod_lt n (by positivity : 0 < 2 ^ c.w))
    rw [fieldValues_cons, List.zip_cons_cons, packCharge, ih ((canonicalNat_cons ..).mp h).2, hput, Nat.mod_add_div]

/-- The word that values which fit are packed in. -/
theorem wd_packCharge {g : Rule} (hg : ∀ c ∈ g, c.Sound) (hw : widthSum g ≤ 32) {vs : List Int} (h : List.Forall₂ Comp.Fits g vs) :
    canonical g (wd (packCharge (g.zip vs))) = true ∧ valuesOf g (wd (packCharge (g.zip vs))) = vs := by
  obtain ⟨hlt, hvals, hcan⟩ := packCharge_spec hg h
  have hn : (wd (packCharge (g.zip vs))).toNat = packCharge (g.zip vs) :=
    Nat.mod_eq_of_lt (hlt.trans_le (Nat.pow_le_pow_right (by decide) hw))
  rw [canonical_eq, valuesOf_eq, hn]
  exact ⟨hcan, hvals⟩

theorem valuesOf_fit {g : Rule} (hg : ∀ c ∈ g, c.Sound) {x : Word} (h : canonical g x = true) :
    List.Forall₂ Comp.Fits g (valuesOf g x) := fieldValues_fit hg h

/-- A canonical word is fixed by the values of its fields. -/
theorem eq_of_valuesOf_eq {g : Rule} {x y : Word} (hx : canonical g x = true) (hy : canonical g y = true)
    (h : valuesOf g x = valuesOf g y) : x = y := by
  refine BitVec.eq_of_toNat_eq ?_
  rw [← packCharge_fieldValues hx, ← packCharge_fieldValues hy, ← valuesOf_eq, ← valuesOf_eq, h]

/-! ## Fusion and inverse (R86) -/

/-- The fields of a fusion: the value of each and whether it raises. -/
def fusedFields (g : Rule) (as bs : List Int) : List (Int × Bool) := (g.zip (as.zip bs)).map (fun p => caddField p.1 p.2.1 p.2.2)

/-- The fields of an inverse: the value of each and whether it raises. -/
def inverseFields (g : Rule) (as : List Int) : List (Int × Bool) := (g.zip as).map (fun p => cnegField p.1 p.2)

theorem zip_map_fields {α : Type} (g : Rule) (f : Comp → α → Int × Bool) (as : List α) :
    (g.zip as).map (fun p => (p.1, (f p.1 p.2).1)) = g.zip (((g.zip as).map (fun p => f p.1 p.2)).map Prod.fst) := by
  induction g generalizing as with
  | nil => rfl
  | cons c g ih =>
    cases as with
    | nil => rfl
    | cons a as => simp [ih]

theorem cadd_eq (g : Rule) (x y : Word) :
    cadd g x y = (wd (packCharge (g.zip ((fusedFields g (valuesOf g x) (valuesOf g y)).map Prod.fst))),
      (fusedFields g (valuesOf g x) (valuesOf g y)).any Prod.snd) := by
  have := zip_map_fields g (fun c (p : Int × Int) => caddField c p.1 p.2) ((valuesOf g x).zip (valuesOf g y))
  simp only [cadd, fusedFields, List.map_map, List.any_map, Function.comp_def] at this ⊢
  rw [this]

theorem cneg_eq (g : Rule) (x : Word) :
    cneg g x = (wd (packCharge (g.zip ((inverseFields g (valuesOf g x)).map Prod.fst))), (inverseFields g (valuesOf g x)).any Prod.snd) := by
  have := zip_map_fields g cnegField (valuesOf g x)
  simp only [cneg, inverseFields, List.map_map, List.any_map, Function.comp_def] at this ⊢
  rw [this]

theorem caddField_comm (c : Comp) (a b : Int) : caddField c a b = caddField c b a := by
  simp only [caddField, add_comm a b, Bool.or_comm (decide (a ≥ (c.n : Int)))]

theorem fusedFields_comm (g : Rule) (as bs : List Int) : fusedFields g as bs = fusedFields g bs as := by
  simp only [fusedFields, ← List.zip_swap bs as, List.zip_map_right, List.map_map, Function.comp_def, Prod.map, id, Prod.fst_swap,
    Prod.snd_swap, caddField_comm]

/-- A field of a fusion that does not raise fits. -/
theorem caddField_fits {c : Comp} (hc : c.Sound) {a b : Int} (h : (caddField c a b).2 = false) : c.Fits (caddField c a b).1 := by
  cases hz : c.z with
  | true =>
    have hn : (0 : Int) < c.n := by have := (hc.1 hz).1; omega
    rw [Comp.fits_cyclic hz, caddField, if_pos hz]
    exact ⟨Int.emod_nonneg _ hn.ne', Int.emod_lt_of_pos _ hn⟩
  | false =>
    rw [Comp.fits_u1 hz]
    simp only [caddField, hz, Bool.false_eq_true, if_false, Bool.or_eq_false_iff, decide_eq_false_iff_not] at h ⊢
    omega

theorem fusedFields_fit {g : Rule} (hg : ∀ c ∈ g, c.Sound) {as bs : List Int} (ha : as.length = g.length) (hb : bs.length = g.length)
    (h : (fusedFields g as bs).any Prod.snd = false) : List.Forall₂ Comp.Fits g ((fusedFields g as bs).map Prod.fst) := by
  induction g generalizing as bs with
  | nil => exact .nil
  | cons c g ih =>
    obtain ⟨a, as, rfl⟩ := List.exists_cons_of_length_eq_add_one ha
    obtain ⟨b, bs, rfl⟩ := List.exists_cons_of_length_eq_add_one hb
    obtain ⟨hc, hs⟩ := List.forall_mem_cons.mp hg
    simp only [fusedFields, List.zip_cons_cons, List.map_cons, List.any_cons, Bool.or_eq_false_iff] at h
    exact .cons (caddField_fits hc h.1) (ih hs (by simpa using ha) (by simpa using hb) h.2)

theorem caddField_assoc (c : Comp) (a b d : Int) :
    (caddField c (caddField c a b).1 d).1 = (caddField c a (caddField c b d).1).1 := by
  cases hz : c.z with
  | true =>
    simp only [caddField, hz, if_true]
    calc ((a + b) % (c.n : Int) + d) % c.n = (a + b + d) % c.n := Int.emod_add_emod ..
      _ = (a + (b + d)) % c.n := by rw [add_assoc]
      _ = (a + (b + d) % c.n) % c.n := (Int.add_emod_emod ..).symm
  | false => simp [caddField, hz, add_assoc]

theorem fusedFields_assoc (g : Rule) (as bs ds : List Int) :
    (fusedFields g ((fusedFields g as bs).map Prod.fst) ds).map Prod.fst =
      (fusedFields g as ((fusedFields g bs ds).map Prod.fst)).map Prod.fst := by
  induction g generalizing as bs ds with
  | nil => rfl
  | cons c g ih =>
    rcases as with _ | ⟨a, as⟩ <;> rcases bs with _ | ⟨b, bs⟩ <;> rcases ds with _ | ⟨d, ds⟩ <;>
      simp only [fusedFields, List.zip_nil_left, List.zip_nil_right, List.zip_cons_cons, List.map_nil, List.map_cons]
    exact congrArg₂ _ (caddField_assoc c a b d) (ih as bs ds)

/-- A field fused with its inverse, which does not raise, gives 0 and does not raise. -/
theorem caddField_cnegField {c : Comp} {a : Int} (ha : c.Fits a) (h : (cnegField c a).2 = false) :
    c.Fits (cnegField c a).1 ∧ caddField c a (cnegField c a).1 = (0, false) := by
  cases hz : c.z with
  | true =>
    obtain ⟨h0, hn⟩ := (Comp.fits_cyclic hz a).mp ha
    have he : Int.emod a c.n = a := Int.emod_eq_of_lt h0 hn
    have hm0 : 0 ≤ (c.n - a) % (c.n : Int) := Int.emod_nonneg _ (by omega)
    have hm1 : (c.n - a) % (c.n : Int) < c.n := Int.emod_lt_of_pos _ (by omega)
    have hsum : (a + (c.n - a) % (c.n : Int)) % c.n = 0 := by rw [Int.add_emod_emod, add_sub_cancel, Int.emod_self]
    rw [Comp.fits_cyclic hz]
    simp only [cnegField, caddField, hz, if_true, he]
    refine ⟨⟨hm0, hm1⟩, Prod.ext hsum ?_⟩
    exact Bool.or_eq_false_iff.mpr ⟨decide_eq_false (not_le.mpr hn), decide_eq_false (not_le.mpr hm1)⟩
  | false =>
    obtain ⟨hl, hu⟩ := (Comp.fits_u1 hz a).mp ha
    have hp : (0 : Int) < 2 ^ (c.w - 1) := by positivity
    rw [Comp.fits_u1 hz]
    simp only [cnegField, caddField, hz, Bool.false_eq_true, if_false, decide_eq_false_iff_not] at h ⊢
    refine ⟨by omega, Prod.ext (add_neg_cancel a) ?_⟩
    exact Bool.or_eq_false_iff.mpr ⟨decide_eq_false (by omega), decide_eq_false (by omega)⟩

theorem fusedFields_inverseFields {g : Rule} {as : List Int} (ha : List.Forall₂ Comp.Fits g as)
    (h : (inverseFields g as).any Prod.snd = false) :
    List.Forall₂ Comp.Fits g ((inverseFields g as).map Prod.fst) ∧
      fusedFields g as ((inverseFields g as).map Prod.fst) = g.map (fun _ => (0, false)) := by
  induction ha with
  | nil => exact ⟨.nil, rfl⟩
  | @cons c a g as hca _ ih =>
    simp only [inverseFields, List.zip_cons_cons, List.map_cons, List.any_cons, Bool.or_eq_false_iff] at h
    obtain ⟨hfit, hzero⟩ := caddField_cnegField hca h.1
    obtain ⟨hfits, hzeros⟩  := ih h.2
    exact ⟨.cons hfit hfits, congrArg₂ _ hzero hzeros⟩

theorem packCharge_zeros (g : Rule) : packCharge (g.zip (g.map (fun _ => (0 : Int)))) = 0 := by
  induction g with
  | nil => rfl
  | cons c g ih =>
    rw [List.map_cons, List.zip_cons_cons, packCharge, ih]
    simp [Int.emod]

/-- Two fields that fit are equal under the rule only as values (R86). -/
theorem reducedOf_eq {g : Rule} {x : Word} (h : List.Forall₂ Comp.Fits g (valuesOf g x)) : reducedOf g x = valuesOf g x := by
  unfold reducedOf
  generalize valuesOf g x = vs at h ⊢
  induction h with
  | nil => rfl
  | @cons c v g vs hv _ ih =>
    rw [List.zip_cons_cons, List.map_cons, ih]
    cases hz : c.z with
    | true =>
      obtain ⟨h0, hn⟩ := (Comp.fits_cyclic hz v).mp hv
      simp only [if_true]
      rw [show Int.emod v c.n = v from Int.emod_eq_of_lt h0 hn]
    | false => simp

/-- What a fusion of canonical charges that does not raise is (R86). -/
theorem cadd_spec {g : Rule} (hg : ∀ c ∈ g, c.Sound) (hw : widthSum g ≤ 32) {x y : Word} (hx : canonical g x = true)
    (hy : canonical g y = true) (h : (cadd g x y).2 = false) :
    canonical g (cadd g x y).1 = true ∧ valuesOf g (cadd g x y).1 = (fusedFields g (valuesOf g x) (valuesOf g y)).map Prod.fst := by
  rw [cadd_eq] at h ⊢
  exact wd_packCharge hg hw (fusedFields_fit hg (valuesOf_fit hg hx).length_eq.symm (valuesOf_fit hg hy).length_eq.symm h)

theorem cadd_comm (g : Rule) (x y : Word) : cadd g x y = cadd g y x := by rw [cadd_eq, cadd_eq, fusedFields_comm]

/-- Settles O18: records by `ruleOf_spec`; charges field by field, since a canonical word is its fields' values packed. -/
theorem chargesFormAGroup : Obligations.ChargesFormAGroup := by
  refine ⟨fun ws g h => ruleOf_spec h, fun ws g x y z h hx hy hz => ?_⟩
  obtain ⟨-, hw, -, hg⟩ := ruleOf_spec h
  refine ⟨fun hxy => ?_, cadd_comm g x y, fun hxy hyz hl hr => ?_, fun hn => ?_, ?_⟩
  · obtain ⟨hcan, hvals⟩ := cadd_spec hg hw hx hy hxy
    refine ⟨hcan, hvals.trans ?_⟩
    rw [fusedFields, List.map_map]
    refine List.map_congr_left fun p _ => ?_
    rw [Function.comp_apply, caddField]
    cases p.1.z <;> rfl
  · obtain ⟨-, hvxy⟩ := cadd_spec hg hw hx hy hxy
    obtain ⟨-, hvyz⟩ := cadd_spec hg hw hy hz hyz
    refine Prod.ext ?_ (hl.trans hr.symm)
    rw [cadd_eq g (cadd g x y).1 z, cadd_eq g x (cadd g y z).1, hvxy, hvyz, fusedFields_assoc]
  · rw [cneg_eq] at hn
    obtain ⟨hfit, hzero⟩ := fusedFields_inverseFields (valuesOf_fit hg hx) hn
    rw [cneg_eq, cadd_eq, (wd_packCharge hg hw hfit).2, hzero, List.map_map, Function.comp_def, packCharge_zeros, List.any_map]
    exact Prod.ext rfl (by simp)
  · rw [ceq, beq_iff_eq, reducedOf_eq (valuesOf_fit hg hx), reducedOf_eq (valuesOf_fit hg hy)]
    exact ⟨eq_of_valuesOf_eq hx hy, congrArg _⟩

end Sys2Proof.Machine
end

section
/-! SUPPORT. What an instruction that waits comes to (spec/03_element_and_word.md R41, R42, spec/23_faults_traps.md R341): it waits, traps with
nothing of it done, or is over with its result written; and what a write-back leaves of the part. -/

namespace Sys2Proof.Machine

/-! ## Pops undone (R35, R341) -/

theorem Elem.chan_unpop (x : Elem) (c k : Nat) (t : Token) :
    (x.unpop c t).chan k = if c = k then (t :: x.chan k).take 16 else x.chan k := by
  rw [Elem.unpop, Elem.chan, kget_kset]
  split
  next h => rw [h]
  next => rfl

/-- Tokens put back, the last one taken first. -/
def unpopAll (x : Elem) (ps : List (Nat × Token)) : Elem := ps.reverse.foldl (fun x p => x.unpop p.1 p.2) x

theorem unpopAll_cons (x : Elem) (p : Nat × Token) (ps : List (Nat × Token)) :
    unpopAll x (p :: ps) = (unpopAll x ps).unpop p.1 p.2 := by
  simp [unpopAll]

/-- Pops and their undoing touch input channels alone. -/
theorem unpopAll_eq (x : Elem) (ps : List (Nat × Token)) : ∃ inp, unpopAll x ps = { x with inp := inp } := by
  induction ps with
  | nil => exact ⟨_, rfl⟩
  | cons p ps ih =>
    obtain ⟨_, h⟩ := ih
    exact ⟨_, by rw [unpopAll_cons, h]; rfl⟩

/-- Heads taken from different channels that hold at most 16 tokens, and put back, stand again. -/
theorem chan_unpopAll_popAll {ps : List (Nat × Token)} {x : Elem} (hd : (ps.map Prod.fst).Nodup)
    (hh : ∀ p ∈ ps, (x.chan p.1).head? = some p.2) (hl : ∀ c, (x.chan c).length ≤ 16) (c : Nat) :
    (unpopAll (popAll x ps) ps).chan c = x.chan c := by
  induction ps generalizing x with
  | nil => rfl
  | cons p ps ih =>
    obtain ⟨hp, hps⟩ := List.nodup_cons.mp ((List.map_cons (f := Prod.fst)).symm ▸ hd)
    obtain ⟨hhp, hhs⟩ := List.forall_mem_cons.mp hh
    have hne (q : Nat × Token) (hq : q ∈ ps) : p.1 ≠ q.1 := fun h => hp (h ▸ List.mem_map_of_mem hq)
    have hx : (unpopAll (popAll x (p :: ps)) ps).chan c = (x.popIn p.1).chan c := by
      refine ih hps (fun q hq => ?_) fun k => ?_
      · rw [Elem.chan_popIn, if_neg (hne q hq)]
        exact hhs q hq
      · rw [Elem.chan_popIn]
        split
        · exact (List.length_drop ▸ Nat.sub_le ..).trans (hl k)
        · exact hl k
    rw [unpopAll_cons, Elem.chan_unpop, hx, Elem.chan_popIn]
    split
    next he =>
      obtain ⟨ts, hts⟩ := List.head?_eq_some_iff.mp (he ▸ hhp)
      have hlen := hl c
      rw [hts] at hlen ⊢
      exact List.take_of_length_le hlen
    next => rfl

theorem fetch_got {x y : Elem} {t : Trigger} {coord : Word} {dst sa sb : BitVec 4} {pa pb : Bool} {src : Src} {ps : List (Nat × Token)}
    (h : fetch x t coord dst sa sb pa pb = .got src ps y) : ps = bothPops x sa sb pa pb ∧ y = popAll x ps := by
  have hs (code : BitVec 4) : srcState x t code = 0 ∨ srcState x t code = 1 ∨ srcState x t code = 2 := by
    unfold srcState
    split
    · exact .inl rfl
    · split
      · exact .inr (.inl rfl)
      · split
        · exact .inr (.inr rfl)
        · exact .inl rfl
  by_cases h1 : srcState x t sa = 1 ∨ srcState x t sb = 1
  · simp [fetch, h1] at h
  by_cases h2 : srcState x t sa = 2 ∨ srcState x t sb = 2
  · simp [fetch, h1, h2] at h
  have ha := hs sa
  have hb := hs sb
  rw [fetch_eq_got _ _ _ _ (by omega) (by omega)] at h
  obtain ⟨-, rfl, rfl⟩ := Fetch.got.inj h
  exact ⟨rfl, rfl⟩

theorem mem_srcPops {x : Elem} {code : BitVec 4} {peek : Bool} {p : Nat × Token} (h : p ∈ srcPops x code peek) :
    chanOf code = some p.1 ∧ (x.chan p.1).head? = some p.2 := by
  unfold srcPops at h
  split at h
  · simp at h
  · obtain ⟨c, hc, ht⟩ := Option.bind_eq_some_iff.mp (Option.mem_toList.mp h)
    obtain ⟨t, hhead, rfl⟩ := Option.map_eq_some_iff.mp ht
    exact ⟨hc, hhead⟩

theorem srcPops_nodup (x : Elem) (code : BitVec 4) (peek : Bool) : ((srcPops x code peek).map Prod.fst).Nodup := by
  unfold srcPops
  split
  · exact .nil
  · cases (chanOf code).bind _ <;> simp

/-- What the sources of an instruction take are the heads of different channels. -/
theorem bothPops_spec (x : Elem) (sa sb : BitVec 4) (pa pb : Bool) :
    ((bothPops x sa sb pa pb).map Prod.fst).Nodup ∧ ∀ p ∈ bothPops x sa sb pa pb, (x.chan p.1).head? = some p.2 := by
  have hh (code : BitVec 4) (peek : Bool) : ∀ p ∈ srcPops x code peek, (x.chan p.1).head? = some p.2 := fun p hp => (mem_srcPops hp).2
  unfold bothPops
  split
  · split
    · exact ⟨srcPops_nodup .., hh _ _⟩
    · exact ⟨srcPops_nodup .., hh _ _⟩
  next hne =>
    refine ⟨?_, fun p hp => (List.mem_append.mp hp).elim (hh _ _ p) (hh _ _ p)⟩
    rw [List.map_append]
    refine List.Nodup.append (srcPops_nodup ..) (srcPops_nodup ..) fun c ha hb => ?_
    obtain ⟨p, hp, rfl⟩ := List.mem_map.mp ha
    obtain ⟨q, hq, he⟩ := List.mem_map.mp hb
    have hca := (mem_srcPops hp).1
    have hcb := (mem_srcPops hq).1
    rw [he] at hcb
    exact hne ⟨chanOf_inj hca hcb, by simp [hca]⟩

/-- An instruction's sources taken and put back. -/
theorem Reads.unpopped {s : State} {dst sa sb : BitVec 4} {pa pb : Bool} {src : Src} {popped : List (Nat × Token)} {x : Elem}
    (h : Reads s dst sa sb pa pb src popped x) :
    (∃ inp, unpopAll x popped = { s.curElem with inp := inp }) ∧
      ((∀ c, (s.curElem.chan c).length ≤ 16) → ∀ c, (unpopAll x popped).chan c = s.curElem.chan c) := by
  obtain ⟨hps, rfl⟩ := fetch_got h.got
  obtain ⟨hd, hh⟩ := bothPops_spec s.curElem sa sb pa pb
  refine ⟨?_, fun hl => chan_unpopAll_popAll (hps ▸ hd) (hps ▸ hh) hl⟩
  obtain ⟨inp, he⟩ := unpopAll_eq (popAll s.curElem popped) popped
  exact ⟨inp, he.trans (congrArg (fun y : Elem => { y with inp := inp }) (popAll_inp popped s.curElem))⟩

theorem Reads.taken_eq {s : State} {dst sa sb : BitVec 4} {pa pb : Bool} {src : Src} {popped : List (Nat × Token)} {x : Elem}
    (h : Reads s dst sa sb pa pb src popped x) : { x with inp := s.curElem.inp } = s.curElem := by
  obtain ⟨-, rfl⟩ := fetch_got h.got
  exact popAll_inp popped s.curElem

/-! ## Traps (R341, R346) -/

theorem noteFault_of_ne {cause : Nat} (h : cause ≠ 0x0E0) (s : State) (i j : Word) : noteFault s cause i j = countFault s cause := by
  simp [noteFault, h]

/-- A precise trap changes its element, its graph and the count of its cause; 0x0E0, which counts against a bank too, is another matter. -/
theorem trapAt_eq {cause : Nat} (h : cause ≠ 0x0E0) (s : State) (e : ERef) (slot : Nat) (hd : Word) (a : Nat) (i j : Word) :
    ∃ graphs lifePend, trapAt s e slot cause hd a i j =
      { s.setElem e { s.elem e with trapped := true, dp := .idle } with graphs := graphs, lifePend := lifePend } := by
  rw [trapAt, raiseFault, show (faultAt s e slot 0 true cause hd a i j).cause = cause from rfl, noteFault_of_ne h]
  exact ⟨_, _, rfl⟩

/-- An instruction that traps as it issues, at a state in which nothing but its pops was done. -/
theorem trapAt_traps {s : State} {dst sa sb : BitVec 4} {pa pb : Bool} {src : Src} {popped : List (Nat × Token)} {x : Elem}
    (h : Reads s dst sa sb pa pb src popped x) {cause : Nat} (hc : cause ≠ 0x0E0) (a : Nat) (i j : Word) :
    Traps s (trapAt ((taken s x).modElem s.cur (fun y => unpopAll y popped)) s.cur s.curSlot cause 0 a i j) cause a := by
  obtain ⟨⟨inp, hx⟩, hch⟩ := h.unpopped
  have ht : (taken s x).modElem s.cur (fun y => unpopAll y popped) = s.setElem s.cur (unpopAll x popped) := by
    simp [taken, State.modElem]
  have hf := trapAt_fault (s := s.setElem s.cur (unpopAll x popped)) (e := s.cur) (slot := s.curSlot) (cause := cause) (hd := 0) (addr := a)
    (i := i) (j := j)
  obtain ⟨graphs, lifePend, he⟩ := trapAt_eq hc (s.setElem s.cur (unpopAll x popped)) s.cur s.curSlot 0 a i j
  rw [ht]
  have hcur : (trapAt (s.setElem s.cur (unpopAll x popped)) s.cur s.curSlot cause 0 a i j).elem s.cur =
      { unpopAll x popped with trapped := true, dp := .idle } := by
    rw [he]
    exact (State.elem_setElem_self ..).trans (by rw [State.elem_setElem_self])
  refine ⟨?_, fun hl c => ?_, fun k _ => ?_, ?_, ⟨fun _ _ => by rw [he]; rfl, fun e hne => ?_, ?_, ?_, ?_, ?_⟩, fun hn => ⟨_, hf hn, ?_⟩⟩
  · rw [hcur]; exact ⟨rfl, rfl⟩
  · rw [hcur]; exact hch hl c
  · rw [hcur, hx]; exact ⟨rfl, rfl⟩
  · rw [hcur, hx]
  · rw [he]
    exact (State.elem_setElem ..).trans ((if_neg hne.symm).trans ((State.elem_setElem ..).trans (if_neg hne.symm)))
  · rw [he]; rfl
  · rw [he]; exact ⟨rfl, rfl, rfl, rfl, rfl⟩
  · rw [he]; rfl
  · rw [he]; exact ⟨rfl, rfl, rfl, rfl, rfl, rfl, rfl, rfl, rfl, rfl⟩
  · rw [FaultRec.shown, if_neg (show (faultAt _ _ _ _ _ cause _ _ _ _).cause ≠ 0x0E0 from hc)]
    exact ⟨rfl, rfl, rfl, rfl, rfl⟩

/-! ## The issue of an instruction that waits (R42, R113) -/

/-- How the current slot's instruction waits. -/
def curWait (s : State) (i : Instr) (src : Src) (popped : List (Nat × Token)) : Wait :=
  ⟨s.curSlot, s.curBeat, i, src, popped, s.now⟩

section
variable {s : State} {i : Instr} {sa sb : BitVec 4} {pa pb : Bool} {k : Sink} {dst : BitVec 4} {src : Src} {popped : List (Nat × Token)}
  {x : Elem} {f : Work}

theorem waiting_reads_eq (h : Reads s k.dst sa sb pa pb src popped x) :
    waiting s i sa sb pa pb k f = issueWork (curWait s i src popped) s.cur k f (taken s x) := by
  unfold waiting
  simp only [h.room, h.got, Bool.false_eq_true, if_false]
  rfl

theorem runM_eq_issue {g : FmtM} (h : Reads s k.dst g.sa g.sb (bit g.mod 1) (bit g.mod 0) src popped x) :
    runM g i s k f = .next (issueWork (curWait s i src popped) s.cur k f (taken s x)) := by
  rw [runM, waiting_reads_eq h]

theorem runE_eq_issue {g : FmtE} (h : ReadsE s g src popped x) :
    runE g i s f = .next (issueWork (curWait s i src popped) s.cur (sinkE g) f (taken s x)) := by
  rw [runE, waiting_reads_eq (k := sinkE g) h]

theorem runSrcM_eq_issue {g : FmtM} (h : ReadsM s g src popped x) :
    runSrcM g i s f = .next (issueWork (curWait s i src popped) s.cur (sinkNone g) f (taken s x)) := by
  unfold runSrcM
  simp only [h.got]
  rfl

/-- It waits, and nothing but its datapath has changed. -/
theorem issue_waits (hf : f (curJob s src) (taken s x) = .error .wait) :
    issueWork (curWait s i src popped) s.cur k f (taken s x) = s.setElem s.cur { x with dp := .work (curWait s i src popped) } := by
  rw [issueWork_wait k hf]
  simp [taken, State.modElem]

/-- It waits, with what the wait has changed of the part. -/
theorem issue_keeps {t : State} (hf : f (curJob s src) (taken s x) = .error (.keep t)) :
    issueWork (curWait s i src popped) s.cur k f (taken s x) = t.modElem s.cur (fun y => { y with dp := .work (curWait s i src popped) }) := by
  have hn : newWork (.element s.cur) (f ⟨s.cur, s.curSlot, src⟩) (taken s x) = .error (.keep t) := by
    unfold newWork
    rw [show f ⟨s.cur, s.curSlot, src⟩ (taken s x) = .error (.keep t) from hf]
  exact congrArg (fun o => conclude (curWait s i src popped) s.cur k o (taken s x)) hn

/-- It traps. -/
theorem issue_traps (h : Reads s dst sa sb pa pb src popped x) {c a : Nat} {v w : Word}
    (hf : f (curJob s src) (taken s x) = .error (.trap c a v w)) (hc : c ≠ 0x0E0) :
    Traps s (issueWork (curWait s i src popped) s.cur k f (taken s x)) c a := by
  rw [issueWork_trap k hf]
  exact trapAt_traps h hc a v w

/-- It is over, with its result. -/
theorem issue_gives {t : State} {r : Res} (hf : f (curJob s src) (taken s x) = .ok (r, t)) :
    issueWork (curWait s i src popped) s.cur k f (taken s x) = concluded s i t k r :=
  issueWork_ok k hf

/-- An instruction whose work traps. -/
theorem traps_of_issue (he : exec i s = .next (issueWork (curWait s i src popped) s.cur k f (taken s x)))
    (h : Reads s dst sa sb pa pb src popped x) {c a : Nat} {v w : Word} (hc : c ≠ 0x0E0)
    (hf : f (curJob s src) (taken s x) = .error (.trap c a v w)) : ∃ t, exec i s = .next t ∧ Traps s t c a :=
  ⟨_, he, issue_traps h hf hc⟩

/-- An instruction whose work is over. -/
theorem gives_of_issue (he : exec i s = .next (issueWork (curWait s i src popped) s.cur k f (taken s x))) {t : State} {r : Res}
    (hf : f (curJob s src) (taken s x) = .ok (r, t)) : Gives s i t k r :=
  he.trans (congrArg _ (issue_gives hf))

end

/-! ## What a write-back leaves (R146, R280, R281) -/

theorem commandRelease_eq (i : Instr) (e : ERef) (s : State) : ∃ num, commandRelease i e s = { s with num := num } := by
  unfold commandRelease
  split
  · exact ⟨_, rfl⟩
  · exact ⟨_, rfl⟩

theorem outRelease_setElem (u : State) (e : ERef) (y : Elem) (dst : BitVec 4) :
    ∃ num outs, outRelease (u.setElem e y) e dst = { u with num := num }.setElem e { y with outs := outs } := by
  unfold outRelease
  split
  · exact ⟨u.num, y.outs, rfl⟩
  · split
    next c _ _ =>
      set r := releaseAt (u.setElem e y) e.inst e.reg (before (u.setElem e y) e)
      have hy : r.2.elem e = y := State.elem_setElem_self u e y
      rw [State.modElem, hy]
      exact ⟨r.2.num, _, State.setElem_setElem { u with num := r.2.num } e y _⟩
    next => exact ⟨u.num, y.outs, rfl⟩

theorem writeDst_eq (x : Elem) (dst : BitVec 4) (ot : BitVec 2) (r : Word) (rf : Bool) :
    ∃ d fl outs, writeDst x dst ot r rf = { x with d := d, fl := fl, outs := outs } := by
  unfold writeDst
  split
  · exact ⟨_, _, _, rfl⟩
  · split
    · exact ⟨_, _, _, rfl⟩
    · exact ⟨_, _, _, rfl⟩

theorem writePu_eq (x : Elem) (pu : BitVec 4) (ps : BitVec 2) (cond : Bool) : ∃ p, writePu x pu ps cond = { x with p := p } := by
  unfold writePu
  split
  · exact ⟨_, rfl⟩
  · exact ⟨_, rfl⟩

/-- A write-back changes of the part its element and a release's number, and of the element its registers, its predicates, its outputs and
its datapath. -/
theorem concluded_eq (s : State) (i : Instr) (t : State) (k : Sink) (r : Res) :
    ∃ num d fl outs p dp, concluded s i t k r =
      { t with num := num }.setElem s.cur { t.elem s.cur with d := d, fl := fl, outs := outs, p := p, dp := dp } := by
  obtain ⟨num, hn⟩ := commandRelease_eq i s.cur t
  obtain ⟨d, fl, outs, hd⟩ := writeDst_eq (t.elem s.cur) k.dst k.ot r.r r.rf
  obtain ⟨p, hp⟩ := writePu_eq { t.elem s.cur with d := d, fl := fl, outs := outs } k.pu k.ps r.cond
  unfold concluded written
  rw [hn, State.modElem, show State.elem { t with num := num } s.cur = t.elem s.cur from rfl, hd, hp]
  obtain ⟨num', outs', h⟩ := outRelease_setElem { t with num := num } s.cur _ k.dst
  exact ⟨num', d, fl, outs', p, _, h⟩

theorem concluded_elem_cur (s : State) (i : Instr) (t : State) (k : Sink) (r : Res) :
    ∃ d fl outs p dp, (concluded s i t k r).elem s.cur = { t.elem s.cur with d := d, fl := fl, outs := outs, p := p, dp := dp } := by
  obtain ⟨num, d, fl, outs, p, dp, h⟩ := concluded_eq s i t k r
  exact ⟨d, fl, outs, p, dp, by rw [h]; exact State.elem_setElem_self ..⟩

section
variable (s : State) (i : Instr) (t : State) (k : Sink) (r : Res)

theorem concluded_elem_ne {e : ERef} (h : e ≠ s.cur) : (concluded s i t k r).elem e = t.elem e := by
  obtain ⟨_, _, _, _, _, _, he⟩ := concluded_eq s i t k r
  rw [he]; exact (State.elem_setElem ..).trans (if_neg h.symm)

@[simp] theorem concluded_tiles : (concluded s i t k r).tiles = t.tiles := by
  obtain ⟨_, _, _, _, _, _, h⟩ := concluded_eq s i t k r; rw [h]; rfl
@[simp] theorem concluded_tile (y : Nat × Nat) : (concluded s i t k r).tile y = t.tile y := by rw [State.tile, concluded_tiles]; rfl
@[simp] theorem concluded_stores : (concluded s i t k r).stores = t.stores := by
  obtain ⟨_, _, _, _, _, _, h⟩ := concluded_eq s i t k r; rw [h]; rfl
@[simp] theorem concluded_tileReqs : (concluded s i t k r).tileReqs = t.tileReqs := by
  obtain ⟨_, _, _, _, _, _, h⟩ := concluded_eq s i t k r; rw [h]; rfl
@[simp] theorem concluded_regions : (concluded s i t k r).regions = t.regions := by
  obtain ⟨_, _, _, _, _, _, h⟩ := concluded_eq s i t k r; rw [h]; rfl
@[simp] theorem concluded_now : (concluded s i t k r).now = t.now := by
  obtain ⟨_, _, _, _, _, _, h⟩ := concluded_eq s i t k r; rw [h]; rfl

@[simp] theorem concluded_pumps : ((concluded s i t k r).elem s.cur).pumps = (t.elem s.cur).pumps := by
  obtain ⟨_, _, _, _, _, h⟩ := concluded_elem_cur s i t k r; rw [h]

end

end Sys2Proof.Machine
end

section
/-! SUPPORT. talloc, tfree, tcfg and tqry (spec/06_block_tensors.md R98 to R104, spec/10_instr_channels_tiles_memory.md R171 to R174):
Obligations.TileInstructionResults. -/

namespace Sys2Proof.Machine

/-! ## What the pops of an instruction leave of the tables -/

section
variable (s : State) (x : Elem)

@[simp] theorem taken_tile (t : Nat × Nat) : (taken s x).tile t = s.tile t := rfl
@[simp] theorem taken_tiles : (taken s x).tiles = s.tiles := rfl
@[simp] theorem taken_inst (i : Nat) : (taken s x).inst i = s.inst i := rfl
@[simp] theorem taken_mem : (taken s x).mem = s.mem := rfl
@[simp] theorem taken_entryOf (i : Nat) (h : Word) : entryOf (taken s x) i h = entryOf s i h := rfl
@[simp] theorem taken_live (i : Nat) (h : Word) : live (taken s x) i h = live s i h := rfl
@[simp] theorem taken_handleIn (i : Nat) (h : Word) (p : Bool) : handleIn (taken s x) i h p = handleIn s i h p := rfl
@[simp] theorem taken_tabOf (i l p : Nat) : tabOf (taken s x) i l p = tabOf s i l p := rfl
@[simp] theorem taken_inTurn (a : Arena) (k : Nat) : (taken s x).inTurn a k = s.inTurn a k := rfl
@[simp] theorem taken_fits (tab lvl el size : Nat) : fits (taken s x) tab lvl el size = fits s tab lvl el size := rfl
@[simp] theorem taken_elem_cur : (taken s x).elem s.cur = x := State.elem_setElem_self ..

end

/-! ## A table's turn (R103) -/

theorem atTable_ok {α : Type} {e : ERef} {tab : Nat} {s t : State} {a : α} (h : s.inTurn (.table tab) (tableKey e.el) = true) :
    atTable e tab s (.ok (a, t)) = .ok (a, t.act (.table tab) (tableKey e.el)) := if_pos h

theorem atTable_error {α : Type} {e : ERef} {tab : Nat} {s : State} {x : Stop} (h : s.inTurn (.table tab) (tableKey e.el) = true) :
    atTable (α := α) e tab s (.error x) = .error x := if_pos h

theorem atTable_waits {α : Type} {e : ERef} {tab : Nat} {s : State} (h : s.inTurn (.table tab) (tableKey e.el) = false)
    (r : Except Stop (α × State)) : atTable e tab s r = .error .wait := if_neg (by simp [h])

@[simp] theorem act_tile (s : State) (a : Arena) (k : Nat) (t : Nat × Nat) : (s.act a k).tile t = s.tile t := rfl

/-! ## Handles and entries (R98, R100, R104) -/

theorem specOk_iff (w : Word) : specOk w = true ↔ bits w 31 30 ≤ 2 ∧ bits w 29 26 ≤ 10 ∧ bits w 25 14 = 0 := by
  simp only [specOk, Bool.and_eq_true, decide_eq_true_eq, beq_iff_eq, and_assoc]
  rfl

/-- A live handle names an entry that is in use or free-pending. -/
theorem handleIn_of_live {s : State} {i : Nat} {h : Word} (hl : live s i h = true) : handleIn s i h true = true := by
  simp only [live, handleIn, Bool.false_and, Bool.or_false, Bool.and_eq_true] at hl
  simp [handleIn, hl.1, hl.2]

theorem not_live_of_not_handleIn {s : State} {i : Nat} {h : Word} (hn : handleIn s i h true = false) : live s i h = false := by
  by_contra hl
  simp [handleIn_of_live (Bool.not_eq_false _ ▸ hl)] at hn

/-! ## talloc (R99, R100, R171) -/

theorem freeSlot_none {s : State} {tab : Nat} (h : ∀ k, k < 1024 → (s.tile (tab, k)).state ≠ .free) : freeSlot s tab = none := by
  have : (List.range 1024).filter (fun k => (s.tile (tab, k)).state == .free) = [] :=
    List.filter_eq_nil_iff.mpr fun k hk => by simpa using h k (List.mem_range.mp hk)
  simp [freeSlot, this]

/-- A table with a free entry gives one, and a choice of the part is used up. -/
theorem freeSlot_some {s : State} {tab : Nat} (h : ∃ k, k < 1024 ∧ (s.tile (tab, k)).state = .free) :
    ∃ k oracle, k < 1024 ∧ (s.tile (tab, k)).state = .free ∧ freeSlot s tab = some (k, { s with oracle := oracle }) := by
  obtain ⟨k0, hk0, hf0⟩ := h
  set fs := (List.range 1024).filter (fun k => (s.tile (tab, k)).state == .free) with hfs
  have hne : fs ≠ [] := List.ne_nil_of_mem (List.mem_filter.mpr ⟨List.mem_range.mpr hk0, by simpa using hf0⟩)
  have hc : ∃ n oracle, s.choose = (n, { s with oracle := oracle }) := by
    unfold State.choose
    split
    · exact ⟨_, s.oracle, rfl⟩
    · exact ⟨_, _, rfl⟩
  obtain ⟨n, oracle, hc⟩ := hc
  have hmem : pickRound 0 fs n ∈ fs := by
    rw [pickRound, List.getD_eq_getElem _ _ (Nat.mod_lt _ (List.length_pos_iff.mpr hne))]
    exact List.getElem_mem _
  obtain ⟨hlt, hfree⟩ := List.mem_filter.mp hmem
  refine ⟨_, oracle, List.mem_range.mp hlt, by simpa using hfree, ?_⟩
  rw [freeSlot, ← hfs, if_neg hne, hc]

/-- A map reads as its default at a key that it does not list. -/
theorem kget_of_not_khas {κ α : Type} [DecidableEq κ] {d : α} {m : AMap κ α} {i : κ} (h : khas m i = false) : kget d m i = d := by
  induction m with
  | nil => rfl
  | cons p m ih =>
    simp only [khas, List.any_cons, Bool.or_eq_false_iff, beq_eq_false_iff_ne] at h
    rw [kget, if_neg h.1]
    exact ih h.2

theorem memGet_memClear (m : List (Nat × Byte)) (k n i : Nat) :
    memGet (memClear m k n) i = if k ≤ i ∧ i < k + n then 0 else memGet m i := by
  set kept : Nat → Bool := fun j => j < k || j ≥ k + n with hkept
  have hclear : memClear m k n = m.filter (fun p => kept p.1) := rfl
  by_cases h : k ≤ i ∧ i < k + n
  · rw [if_pos h, hclear]
    refine kget_of_not_khas ?_
    rw [khas_filter m kept]
    simp [hkept, h.1, h.2]
  · rw [if_neg h, hclear]
    exact kget_filter m kept (by simp [hkept]; omega)

/-- A tile has been allocated at entry k of a table: its entry and its bytes (R171). -/
structure Allocated (s : State) (tab k : Nat) (spec : Word) (u : State) : Prop where
  state : (u.tile (tab, k)).state = .allocated
  gen : (u.tile (tab, k)).gen = (s.tile (tab, k)).gen
  shape : (u.tile (tab, k)).spec = spec
  empty : (u.tile (tab, k)).f = false
  idle : (u.tile (tab, k)).uses = 0
  others : ∀ y, y ≠ (tab, k) → u.tile y = s.tile y
  bytes : ∀ i, memGet u.mem i = if tileKey tab k 0 ≤ i ∧ i < tileKey tab k 0 + specBytes spec then 0 else memGet s.mem i

/-- An entry that has just been allocated, its generation as it was (R171). -/
def newTile (inst reg el : Nat) (spec : Word) (no : Nat) (y : Tile) : Tile :=
  { y with state := .allocated, spec := spec, size := specBytes spec, inst := inst, reg := reg, el := el, bank := Config.freeBank no,
           stripe := Config.freeStripe no, uses := 0, f := false, fset := false, rel := none }

/-- The part once entry k of a table is allocated, its bytes 0. -/
def allocAt (s : State) (oracle : List Nat) (inst reg el : Nat) (spec : Word) (tab k : Nat) : State :=
  { s.modTile (tab, k) (newTile inst reg el spec s.fresh) with
    mem := memClear s.mem (tileKey tab k 0) (specBytes spec), fresh := s.fresh + 1, oracle := oracle }

theorem allocAt_tile (s : State) (oracle : List Nat) (inst reg el : Nat) (spec : Word) (tab k : Nat) (y : Nat × Nat) :
    (allocAt s oracle inst reg el spec tab k).tile y = if (tab, k) = y then newTile inst reg el spec s.fresh (s.tile (tab, k)) else s.tile y :=
  State.tile_modTile ..

theorem allocAt_allocated (s : State) (oracle : List Nat) (inst reg el : Nat) (spec : Word) (tab k : Nat) :
    Allocated s tab k spec (allocAt s oracle inst reg el spec tab k) := by
  have hself := (allocAt_tile s oracle inst reg el spec tab k (tab, k)).trans (if_pos rfl)
  refine ⟨?_, ?_, ?_, ?_, ?_, fun y hy => (allocAt_tile ..).trans (if_neg hy.symm), fun i => memGet_memClear ..⟩ <;> rw [hself] <;> rfl

/-- The place that a talloc of a level names (R104, R171). -/
def allocPlace (reg : Nat) (spec : Word) : Nat := if specLvl spec = 2 then reg / 24 else reg

/-- The table that a talloc takes its entry from. -/
def allocTab (s : State) (inst reg : Nat) (spec : Word) : Nat := tabOf s inst (specLvl spec) (allocPlace reg spec)

section
variable {s : State} {inst reg el : Nat} {spec : Word}

theorem allocTile_full (h : ∀ k, k < 1024 → (s.tile (allocTab s inst reg spec, k)).state ≠ .free) :
    allocTile s inst reg el spec = trap0 0x022 := by
  have hs := freeSlot_none h
  rw [allocTab, allocPlace] at hs
  delta allocTile
  simp only [hs]

variable (h : ∃ k, k < 1024 ∧ (s.tile (allocTab s inst reg spec, k)).state = .free)
include h

theorem allocTile_small (hf : fits s (allocTab s inst reg spec) (specLvl spec) el (specBytes spec) = false) :
    allocTile s inst reg el spec = trap0 0x02E := by
  obtain ⟨k, oracle, -, -, hs⟩ := freeSlot_some h
  have hf' : fits { s with oracle := oracle } (allocTab s inst reg spec) (specLvl spec) el (specBytes spec) = false := hf
  rw [allocTab, allocPlace] at hs hf'
  delta allocTile
  simp only [hs, hf', Bool.false_eq_true, if_false]

theorem allocTile_spec (hf : fits s (allocTab s inst reg spec) (specLvl spec) el (specBytes spec) = true) :
    ∃ k u, k < 1024 ∧ (s.tile (allocTab s inst reg spec, k)).state = .free ∧ Allocated s (allocTab s inst reg spec) k spec u ∧
      allocTile s inst reg el spec = .ok (handleWord (specLvl spec) (s.tile (allocTab s inst reg spec, k)).gen (allocPlace reg spec)
        (if specLvl spec = 0 then el else 0) k, u) := by
  obtain ⟨k, oracle, hk, hfree, hs⟩ := freeSlot_some h
  have hf' : fits { s with oracle := oracle } (allocTab s inst reg spec) (specLvl spec) el (specBytes spec) = true := hf
  refine ⟨k, allocAt s oracle inst reg (if specLvl spec = 0 then el else 0) spec (allocTab s inst reg spec) k, hk, hfree,
    allocAt_allocated .., ?_⟩
  rw [allocTab, allocPlace] at hs hf' ⊢
  delta allocTile
  simp only [hs, hf', if_true]
  rfl

end

/-! ## The four instructions -/

section
variable {s : State} {f : FmtM} {src : Src} {popped : List (Nat × Token)} {x : Elem}

theorem exec_talloc (h : ReadsM s f src popped x) :
    exec (.talloc f) s = .next (issueWork (curWait s (.talloc f) src popped) s.cur (sinkM f) (workTalloc f) (taken s x)) :=
  runM_eq_issue (k := sinkM f) h

theorem exec_tfree (h : ReadsM s f src popped x) :
    exec (.tfree f) s = .next (issueWork (curWait s (.tfree f) src popped) s.cur (sinkM f) (workTfree f) (taken s x)) :=
  runM_eq_issue (k := sinkM f) h

theorem exec_tcfg (h : ReadsM s f src popped x) :
    exec (.tcfg f) s = .next (issueWork (curWait s (.tcfg f) src popped) s.cur (sinkM f) (workTcfg f) (taken s x)) :=
  runM_eq_issue (k := sinkM f) h

theorem exec_tqry (h : ReadsM s f src popped x) :
    exec (.tqry f) s = .next (issueWork (curWait s (.tqry f) src popped) s.cur (sinkM f) (workTqry f) (taken s x)) :=
  runM_eq_issue (k := sinkM f) h

end

section
variable {f : FmtM} {j : Job} {u : State}

theorem workTalloc_badSpec (hs : specOk j.src.a = false) : workTalloc f j u = trap0 0x024 := by
  simp [workTalloc, hs]

theorem workTalloc_eq (hs : specOk j.src.a = true)
    (ht : u.inTurn (.table (allocTab u j.e.inst j.e.reg j.src.a)) (tableKey j.e.el) = true) :
    workTalloc f j u = (allocTile u j.e.inst j.e.reg j.e.el j.src.a).map
      (fun r => (word r.1, r.2.act (.table (allocTab u j.e.inst j.e.reg j.src.a)) (tableKey j.e.el))) := by
  rw [allocTab, allocPlace] at ht ⊢
  simp only [workTalloc, hs, if_true]
  cases allocTile u j.e.inst j.e.reg j.e.el j.src.a with
  | error e => exact atTable_error ht
  | ok r => exact atTable_ok ht

/-- A live entry that nothing uses is freed, and one in use is to be freed (R100, R172). -/
def freedTile (u : State) (t : Nat × Nat) : State :=
  if (u.tile t).uses = 0 then freeEntry u t else u.modTile t (fun x => { x with state := .pending })

theorem freedTile_tile_ne {u : State} {t y : Nat × Nat} (h : y ≠ t) : (freedTile u t).tile y = u.tile y := by
  unfold freedTile
  split <;> exact (State.tile_modTile ..).trans (if_neg h.symm)

theorem freedTile_idle {u : State} {t : Nat × Nat} (h : (u.tile t).uses = 0) :
    (freedTile u t).tile t = { u.tile t with state := .free, gen := ((u.tile t).gen + 1) % 64, f := false, fset := false, rel := none } := by
  rw [freedTile, if_pos h]
  exact (State.tile_modTile ..).trans (if_pos rfl)

theorem freedTile_used {u : State} {t : Nat × Nat} (h : (u.tile t).uses ≠ 0) :
    (freedTile u t).tile t = { u.tile t with state := .pending } := by
  rw [freedTile, if_neg h]
  exact (State.tile_modTile ..).trans (if_pos rfl)

variable (ht : u.inTurn (.table (entryOf u j.e.inst j.src.a).1) (tableKey j.e.el) = true)
include ht

theorem workTfree_live (hl : live u j.e.inst j.src.a = true) : workTfree f j u =
    .ok (noRes, (freedTile u (entryOf u j.e.inst j.src.a)).act (.table (entryOf u j.e.inst j.src.a).1) (tableKey j.e.el)) := by
  simp only [workTfree, hl, if_true]
  exact atTable_ok ht

theorem workTfree_pending (hl : live u j.e.inst j.src.a = false) (hn : handleIn u j.e.inst j.src.a true = true) :
    workTfree f j u = .ok (noRes, u.act (.table (entryOf u j.e.inst j.src.a).1) (tableKey j.e.el)) := by
  simp only [workTfree, hl, hn, Bool.false_eq_true, if_true, if_false]
  exact atTable_ok ht

theorem workTfree_stale (hn : handleIn u j.e.inst j.src.a true = false) : workTfree f j u = trap0 0x020 := by
  simp only [workTfree, not_live_of_not_handleIn hn, hn, Bool.false_eq_true, if_false]
  exact atTable_error ht

theorem workTcfg_stale (hn : handleIn u j.e.inst j.src.a true = false) : workTcfg f j u = trap0 0x020 := by
  simp only [workTcfg, hn, if_true]
  exact atTable_error ht

variable (hn : handleIn u j.e.inst j.src.a true = true)
include hn

theorem workTcfg_busy (hb : (u.tile (entryOf u j.e.inst j.src.a)).uses ≠ 0 ∨ (u.tile (entryOf u j.e.inst j.src.a)).state = .pending) :
    workTcfg f j u = trap0 0x021 := by
  simp only [workTcfg, hn, Bool.true_eq_false, if_false]
  rw [if_pos hb]
  exact atTable_error ht

variable (hb : ¬ ((u.tile (entryOf u j.e.inst j.src.a)).uses ≠ 0 ∨ (u.tile (entryOf u j.e.inst j.src.a)).state = .pending))
include hb

theorem workTcfg_badSpec (hs : specOk j.src.b = false) : workTcfg f j u = trap0 0x024 := by
  simp only [workTcfg, hn, hs, Bool.true_eq_false, if_false, if_true]
  rw [if_neg hb]
  exact atTable_error ht

variable (hs : specOk j.src.b = true)
include hs

theorem workTcfg_misfit (hf : ¬ (specLvl j.src.b = specLvl (u.tile (entryOf u j.e.inst j.src.a)).spec ∧
    specBytes j.src.b ≤ (u.tile (entryOf u j.e.inst j.src.a)).size)) : workTcfg f j u = trap0 0x02E := by
  simp only [workTcfg, hn, hs, Bool.true_eq_false, if_false]
  rw [if_neg hb, if_pos (by rwa [← Nat.not_le, ← not_and_or])]
  exact atTable_error ht

theorem workTcfg_fits (hf : specLvl j.src.b = specLvl (u.tile (entryOf u j.e.inst j.src.a)).spec ∧
    specBytes j.src.b ≤ (u.tile (entryOf u j.e.inst j.src.a)).size) : workTcfg f j u =
    .ok (⟨j.src.a, j.src.fa, false⟩, (u.modTile (entryOf u j.e.inst j.src.a) (fun x => { x with spec := j.src.b, f := false })).act
      (.table (entryOf u j.e.inst j.src.a).1) (tableKey j.e.el)) := by
  simp only [workTcfg, hn, hs, Bool.true_eq_false, if_false]
  rw [if_neg hb, if_neg (by rwa [← Nat.not_le, ← not_and_or, not_not])]
  exact atTable_ok ht

end

/-! ### What tqry reads (R174) -/

section
variable {s : State} {i : Nat} {h : Word} {n : Nat}

theorem tqryValue_state : tqryValue s i h 1 = if live s i h then 1 else if handleIn s i h true then 2 else 0 := rfl

theorem tqryValue_stale (hn : n ≠ 1) (hl : live s i h = false) : tqryValue s i h n = 0 := by simp [tqryValue, hn, hl]

theorem tqryValue_live (hl : live s i h = true) :
    tqryValue s i h 0 = (s.tile (entryOf s i h)).spec ∧ tqryValue s i h 2 = wd (s.tile (entryOf s i h)).uses ∧
      tqryValue s i h 3 = bw (s.tile (entryOf s i h)).f ∧ tqryValue s i h 4 = wd (specBytes (s.tile (entryOf s i h)).spec) := by
  simp [tqryValue, hl]

end

/-! ### The results -/

section
variable {s : State} {f : FmtM} {src : Src} {popped : List (Nat × Token)} {x : Elem}

/-- talloc of a good spec word, in the turn of its table. -/
theorem workTalloc_issued (hs : specOk src.a = true) (ht : ∀ k, s.inTurn (.table k) (tableKey s.cur.el) = true) :
    workTalloc f (curJob s src) (taken s x) = (allocTile (taken s x) s.cur.inst s.cur.reg s.cur.el src.a).map
      (fun r => (word r.1, r.2.act (.table (allocTab (taken s x) s.cur.inst s.cur.reg src.a)) (tableKey s.cur.el))) :=
  workTalloc_eq (j := curJob s src) (u := taken s x) hs (ht _)

theorem talloc_full (h : ReadsM s f src popped x) (hs : specOk src.a = true) (ht : ∀ k, s.inTurn (.table k) (tableKey s.cur.el) = true)
    (hfull : ∀ k, k < 1024 → (s.tile (allocTab s s.cur.inst s.cur.reg src.a, k)).state ≠ .free) :
    ∃ t, exec (.talloc f) s = .next t ∧ Traps s t 0x022 0 := by
  have ha : allocTile (taken s x) s.cur.inst s.cur.reg s.cur.el src.a = trap0 0x022 := allocTile_full (s := taken s x) hfull
  exact traps_of_issue (exec_talloc h) h (by decide) (by rw [workTalloc_issued hs ht, ha]; rfl)

theorem talloc_small (h : ReadsM s f src popped x) (hs : specOk src.a = true) (ht : ∀ k, s.inTurn (.table k) (tableKey s.cur.el) = true)
    (hfree : ∃ k, k < 1024 ∧ (s.tile (allocTab s s.cur.inst s.cur.reg src.a, k)).state = .free)
    (hf : fits s (allocTab s s.cur.inst s.cur.reg src.a) (specLvl src.a) s.cur.el (specBytes src.a) = false) :
    ∃ t, exec (.talloc f) s = .next t ∧ Traps s t 0x02E 0 := by
  have ha : allocTile (taken s x) s.cur.inst s.cur.reg s.cur.el src.a = trap0 0x02E := allocTile_small (s := taken s x) hfree hf
  exact traps_of_issue (exec_talloc h) h (by decide) (by rw [workTalloc_issued hs ht, ha]; rfl)

theorem talloc_allocates (h : ReadsM s f src popped x) (hs : specOk src.a = true)
    (ht : ∀ k, s.inTurn (.table k) (tableKey s.cur.el) = true)
    (hfree : ∃ k, k < 1024 ∧ (s.tile (allocTab s s.cur.inst s.cur.reg src.a, k)).state = .free)
    (hf : fits s (allocTab s s.cur.inst s.cur.reg src.a) (specLvl src.a) s.cur.el (specBytes src.a) = true) :
    ∃ k u, k < 1024 ∧ (s.tile (allocTab s s.cur.inst s.cur.reg src.a, k)).state = .free ∧
      Allocated s (allocTab s s.cur.inst s.cur.reg src.a) k src.a u ∧
      Gives s (.talloc f) u (sinkM f) (word (handleWord (specLvl src.a) (s.tile (allocTab s s.cur.inst s.cur.reg src.a, k)).gen
        (allocPlace s.cur.reg src.a) (if specLvl src.a = 0 then s.cur.el else 0) k)) := by
  obtain ⟨k, u, hk, hkf, hu, ha⟩ := allocTile_spec (s := taken s x) (inst := s.cur.inst) (reg := s.cur.reg) (el := s.cur.el) hfree hf
  refine ⟨k, u.act (.table (allocTab (taken s x) s.cur.inst s.cur.reg src.a)) (tableKey s.cur.el), hk, hkf,
    ⟨hu.state, hu.gen, hu.shape, hu.empty, hu.idle, hu.others, hu.bytes⟩, gives_of_issue (exec_talloc h) ?_⟩
  rw [workTalloc_issued hs ht, ha]
  rfl

/-- A live entry freed by tfree. -/
theorem tfree_frees (h : ReadsM s f src popped x) (hl : live s s.cur.inst src.a = true)
    (ht : s.inTurn (.table (entryOf s s.cur.inst src.a).1) (tableKey s.cur.el) = true) :
    ∃ t, exec (.tfree f) s = .next t ∧ ∀ y, t.tile y = (freedTile (taken s x) (entryOf s s.cur.inst src.a)).tile y :=
  ⟨_, gives_of_issue (exec_tfree h) (workTfree_live (j := curJob s src) (u := taken s x) ht hl), fun _ => concluded_tile ..⟩

theorem tqry_yields (h : ReadsM s f src popped x)
    (ht : s.inTurn (.table (entryOf s s.cur.inst src.a).1) (tableKey s.cur.el) = true) :
    Gives s (.tqry f) ((taken s x).act (.table (entryOf s s.cur.inst src.a).1) (tableKey s.cur.el)) (sinkM f)
      (word (tqryValue s s.cur.inst src.a f.aux.toNat)) :=
  gives_of_issue (exec_tqry h) (atTable_ok ht)

end

/-- Settles O33: each trap and each result by the lemma on its instruction's work, which runs as the instruction issues. -/
theorem tileInstructionResults : Obligations.TileInstructionResults := by
  refine ⟨fun s f src popped x h => ?_, fun s f src popped x h => ?_⟩
  · intro e lvl place el tab good entry hturn
    have hgood : specOk src.a = true ↔ good := specOk_iff src.a
    have hbad (hg : ¬ good) : specOk src.a = false := by rwa [← Bool.not_eq_true, hgood]
    refine ⟨fun hg => traps_of_issue (exec_talloc h) h (by decide) (workTalloc_badSpec (j := curJob s src) (hbad hg)),
      fun hg hfull => talloc_full h (hgood.mpr hg) hturn hfull, fun hg hfree hfit => talloc_small h (hgood.mpr hg) hturn hfree hfit,
      fun hg hfree hfit => ?_, fun hl => ?_, fun hl hn => ?_, fun hn => ?_⟩
    · obtain ⟨k, u, hk, hkf, hu, hgives⟩ := talloc_allocates h (hgood.mpr hg) hturn hfree hfit
      exact ⟨k, u, hk, hkf, ⟨_, hgives, rfl, rfl⟩, hu.state, hu.gen, hu.shape, hu.empty, hu.idle, hu.others, hu.bytes⟩
    · obtain ⟨t, ht, htile⟩ := tfree_frees h hl (hturn _)
      refine ⟨t, ht, fun y hy => (htile y).trans (freedTile_tile_ne hy), fun hu => ?_, fun hu => ?_⟩
      · rw [(htile entry).trans (freedTile_idle (u := taken s x) hu)]; exact ⟨rfl, rfl, rfl⟩
      · rw [(htile entry).trans (freedTile_used (u := taken s x) hu)]; exact ⟨rfl, rfl⟩
    · exact ⟨_, gives_of_issue (exec_tfree h) (workTfree_pending (j := curJob s src) (u := taken s x) (hturn _) hl hn), concluded_tiles ..⟩
    · exact traps_of_issue (exec_tfree h) h (by decide) (workTfree_stale (j := curJob s src) (u := taken s x) (hturn _) hn)
  · intro e entry y named busy fitsIn traps hturn
    refine ⟨fun hn => traps_of_issue (exec_tcfg h) h (by decide) (workTcfg_stale (j := curJob s src) (u := taken s x) hturn hn),
      fun hn hb => traps_of_issue (exec_tcfg h) h (by decide) (workTcfg_busy (j := curJob s src) (u := taken s x) hturn hn hb),
      fun hn hb hs => traps_of_issue (exec_tcfg h) h (by decide) (workTcfg_badSpec (j := curJob s src) (u := taken s x) hturn hn hb hs),
      fun hn hb hs hf => traps_of_issue (exec_tcfg h) h (by decide) (workTcfg_misfit (j := curJob s src) (u := taken s x) hturn hn hb hs hf),
      fun hn hb hs hf => gives_of_issue (exec_tcfg h) (workTcfg_fits (j := curJob s src) (u := taken s x) hturn hn hb hs hf),
      _, tqry_yields h hturn, rfl, fun ha => ?_, fun ha hl => ?_, fun hl => ?_⟩
    · rw [ha]; exact tqryValue_state
    · exact tqryValue_stale (fun hn => ha (BitVec.eq_of_toNat_eq hn)) hl
    · obtain ⟨h0, h2, h3, h4⟩ := tqryValue_live hl
      refine ⟨fun ha => ?_, fun ha => ?_, fun ha => ?_, fun ha => ?_⟩ <;> rw [ha]
      · exact h0
      · exact h2
      · exact h3
      · exact h4

end Sys2Proof.Machine
end

section
/-! SUPPORT. tld and tst, the requests at a tile table, its tags and its entries (spec/06_block_tensors.md R100, R101, R103,
spec/10_instr_channels_tiles_memory.md R175, spec/21_hbm_host_memory.md R370): Obligations.TileAccessResults. -/

namespace Sys2Proof.Machine

/-! ## The race check of a tile's access (R286 to R290) -/

/-- Checked granules change stamps alone. -/
theorem raceAll_stamps {q : Rq} {x : Nat} {at_ : Nat → Nat} {wr : Bool} {gs : List Nat} {s t : State}
    (h : raceAll q x at_ wr gs s = .ok t) : ∃ st, t = { s with stamps := st } := by
  induction gs generalizing s with
  | nil => exact ⟨s.stamps, (Except.ok.inj h).symm⟩
  | cons g gs ih =>
    unfold raceAll at h
    split at h
    next s' hs =>
      have hs' : ∃ st, s' = { s with stamps := st } := by
        unfold raceOne at hs
        dsimp only at hs
        split at hs
        · simp at hs
        · split at hs <;> exact ⟨_, (Except.ok.inj hs).symm⟩
      obtain ⟨_, rfl⟩ := hs'
      obtain ⟨st, ht⟩ := ih h
      exact ⟨st, ht⟩
    next => simp at h

theorem tileRace_stamps {q : Rq} {y : Nat × Nat} {off n : Nat} {wr : Bool} {s t : State} (h : tileRace s q y off n wr = .ok t) :
    ∃ st, t = { s with stamps := st } := by
  unfold tileRace at h
  split at h
  · simp at h
  · split at h
    · exact ⟨s.stamps, (Except.ok.inj h).symm⟩
    · exact raceAll_stamps h

theorem raceAll_hb (q : Rq) (hb : List Dep) (x : Nat) (at_ : Nat → Nat) (wr : Bool) (gs : List Nat) (s : State) :
    raceAll { q with hb := hb } x at_ wr gs s = raceAll q x at_ wr gs s := by
  induction gs generalizing s with
  | nil => rfl
  | cons g gs ih =>
    unfold raceAll
    rw [show raceOne s { q with hb := hb } x (at_ g) wr g = raceOne s q x (at_ g) wr g from rfl]
    split
    · exact ih _
    · rfl

/-- What happens before an access changes nothing of its race check. -/
theorem tileRace_hb (s : State) (q : Rq) (hb : List Dep) (y : Nat × Nat) (off n : Nat) (wr : Bool) :
    tileRace s { q with hb := hb } y off n wr = tileRace s q y off n wr := by
  unfold tileRace
  split
  · rfl
  · simp only [raceAll_hb]

theorem elemRq_of_insts {s t : State} (h : t.insts = s.insts) (e : ERef) (slot kind : Nat) :
    elemRq t e slot kind = { elemRq s e slot kind with hb := (t.elem e).hb } := by
  simp only [elemRq, State.inst, State.agentOf, State.dieOf, State.physReg, State.physDie, h]

/-! ## The requests of a table (R103, R175) -/

theorem act_elem (s : State) (a : Arena) (k : Nat) (e : ERef) : (s.act a k).elem e = s.elem e := rfl

section
variable (s : State) (y : Nat × Nat) (r : TileReq)

theorem queueTile_tileReqs : (queueTile s y r).tileReqs = kset s.tileReqs y.1 (kget [] s.tileReqs y.1 ++ [r]) := rfl
theorem queueTile_elem (e : ERef) : (queueTile s y r).elem e = s.elem e := rfl
theorem addUse_tile_self : (addUse s y).tile y = { s.tile y with uses := (s.tile y).uses + 1 } := (State.tile_modTile ..).trans (if_pos rfl)

variable {y} in
theorem addUse_tile_ne {z : Nat × Nat} (h : z ≠ y) : (addUse s y).tile z = s.tile z := (State.tile_modTile ..).trans (if_neg h.symm)

theorem dropUse_tile_self : (dropUse s y).tile y = { s.tile y with uses := (s.tile y).uses - 1 } :=
  (State.tile_modTile ..).trans (if_pos rfl)

theorem queueTile_tile_self : (queueTile s y r).tile y = { s.tile y with uses := (s.tile y).uses + 1 } :=
  (State.tile_modTile ..).trans (if_pos rfl)

end

section
variable {s : State} {f : FmtM} {src : Src} {popped : List (Nat × Token)} {x : Elem} {k : Sink}

/-- The wait on the tag begins: the tile is in use, and all else but the table's turn as it was. -/
def tagWait (s : State) (x : Elem) (entry : Nat × Nat) : State :=
  ((addUse (taken s x) entry).act (.table entry.1) (tableKey s.cur.el)).modElem s.cur (fun z => { z with waitUse := some entry })

theorem waitOnF_taken (hw : x.waitUse = none) (entry : Nat × Nat) : waitOnF (taken s x) s.cur entry = .keep (tagWait s x entry) := by
  rw [waitOnF, taken_elem_cur, hw]
  rfl

/-- The wait for a tile's tag as it issues (R101, R175). -/
structure WaitsForTag (s : State) (x : Elem) (entry : Nat × Nat) (w : Wait) (t : State) : Prop where
  memory : SameMemory s t
  requests : t.tileReqs = s.tileReqs
  used : (t.tile entry).uses = (s.tile entry).uses + 1
  elem : t.elem s.cur = { x with dp := .work w, waitUse := some entry }
  others : ∀ k, k ≠ entry → t.tile k = s.tile k

theorem tagWait_waits (s : State) (x : Elem) (entry : Nat × Nat) (w : Wait) :
    WaitsForTag s x entry w ((tagWait s x entry).modElem s.cur (fun y => { y with dp := .work w })) where
  memory _ _ := rfl
  requests := rfl
  used := congrArg Tile.uses (addUse_tile_self (taken s x) entry)
  elem := by
    rw [State.elem_modElem_self, tagWait, State.elem_modElem_self]
    exact congrArg (fun z : Elem => { z with dp := .work w, waitUse := some entry }) (taken_elem_cur s x)
  others k hk := addUse_tile_ne (taken s x) hk

/-- A request of a tile as its table holds it (R175): of a read the return that waits for it, of a write the operation outstanding. -/
structure Asked (s : State) (f : FmtM) (x : Elem) (entry : Nat × Nat) (wr : Bool) (idx : Nat) (data : Word) (r : TileReq) (t : State) :
    Prop where
  memory : SameMemory s t
  queue : kget [] t.tileReqs entry.1 = kget [] s.tileReqs entry.1 ++ [r]
  request : r.e = s.cur ∧ r.at_ = s.now ∧ r.write = wr ∧ r.entry = entry.2 ∧ r.index = idx
  store : wr = true → r.data = data ∧ r.setTag = bit f.aux 0 ∧ (t.elem s.cur).outst = x.outst ++ [r.id]
  load : wr = false → r.clrTag = bit f.aux 0 ∧ (t.elem s.cur).rets = x.rets ++ [⟨r.id, f.ot, none⟩]
  used : (t.tile entry).uses = (s.tile entry).uses + 1
  tag : (t.tile entry).f = (s.tile entry).f
  regs : (t.elem s.cur).d = x.d

/-- What an access has changed before its request is queued: it has acquired the release behind the tag, and set stamps. -/
structure Checked (s : State) (e : ERef) (u : State) : Prop where
  mem : u.mem = s.mem
  stores : u.stores = s.stores
  tileReqs : u.tileReqs = s.tileReqs
  tiles : u.tiles = s.tiles
  elem : (u.elem e).outst = (s.elem e).outst ∧ (u.elem e).rets = (s.elem e).rets ∧ (u.elem e).d = (s.elem e).d

/-- An access of the tag's kind begins with an acquire of the release behind it where it reads (R280, R289). -/
def accessStart (s : State) (f : FmtM) (e : ERef) (entry : Nat × Nat) (wr : Bool) : State :=
  if wr = false ∧ bit f.aux 1 = true then acquireOptAt s e (s.tile entry).rel else s

theorem accessStart_read (s : State) (f : FmtM) (e : ERef) (entry : Nat × Nat) :
    accessStart s f e entry false = if bit f.aux 1 = true then acquireOptAt s e (s.tile entry).rel else s := by
  simp only [accessStart, true_and]

theorem accessStart_write (s : State) (f : FmtM) (e : ERef) (entry : Nat × Nat) : accessStart s f e entry true = s := if_neg (by simp)

theorem accessStart_eq (s : State) (f : FmtM) (e : ERef) (entry : Nat × Nat) (wr : Bool) :
    ∃ o, accessStart s f e entry wr = acquireOptAt s e o := by
  unfold accessStart
  split
  · exact ⟨_, rfl⟩
  · exact ⟨none, rfl⟩

theorem checked_of_tileRace {q : Rq} {f : FmtM} {e : ERef} {entry y : Nat × Nat} {off n : Nat} {wr wr' : Bool} {u : State}
    (h : tileRace (accessStart s f e entry wr) q y off n wr' = .ok u) : Checked s e u := by
  obtain ⟨o, ho⟩ := accessStart_eq s f e entry wr
  rw [ho] at h
  obtain ⟨st, rfl⟩ := tileRace_stamps h
  obtain ⟨hmem, hstores, -, ⟨hb, helem⟩, -⟩ := acquireOptAt_acquired s e o
  have he : State.elem { acquireOptAt s e o with stamps := st } e = { s.elem e with hb := hb } := helem
  refine ⟨hmem, hstores, ?_, ?_, by rw [he]; exact ⟨rfl, rfl, rfl⟩⟩ <;> cases o <;> rfl

theorem tileRace_accessStart (s : State) (f : FmtM) (e : ERef) (slot : Nat) (entry : Nat × Nat) (off n : Nat) (wr : Bool) :
    tileRace (accessStart s f e entry wr) (elemRq (accessStart s f e entry wr) e slot 0) entry off n wr =
      tileRace (accessStart s f e entry wr) (elemRq s e slot 0) entry off n wr := by
  obtain ⟨o, ho⟩ := accessStart_eq s f e entry wr
  rw [ho, elemRq_of_insts (acquireOptAt_acquired s e o).insts, tileRace_hb]

/-- A read of a tile asked for, in its table's turn (R103, R175). -/
def askRead (f : FmtM) (e : ERef) (slot : Nat) (entry : Nat × Nat) (idx now : Nat) (u : State) : State :=
  (addRet (queueTile { u with fresh := u.fresh + 1 } entry ⟨e, now, u.fresh, slot, false, entry.2, idx, 0, false, bit f.aux 0, []⟩) e u.fresh
    f.ot none).act (.table entry.1) (tableKey e.el)

/-- A write of a tile asked for, in its table's turn (R103, R175). -/
def askWrite (f : FmtM) (e : ERef) (slot : Nat) (entry : Nat × Nat) (idx now : Nat) (data : Word) (u : State) : State :=
  (addOut (queueTile { u with fresh := u.fresh + 1 } entry
    ⟨e, now, u.fresh, slot, true, entry.2, idx, data, bit f.aux 0, false, if bit f.aux 0 then before u e else []⟩) e u.fresh).act
    (.table entry.1) (tableKey e.el)

section
variable (u : State) (e : ERef) (slot : Nat) (entry : Nat × Nat) (idx now : Nat) (data : Word)

theorem askRead_elem :
    (askRead f e slot entry idx now u).elem e = { u.elem e with rets := (u.elem e).rets ++ [⟨u.fresh, f.ot, none⟩] } :=
 by
  rw [askRead, act_elem, addRet, State.elem_modElem_self]
  rfl

theorem askWrite_elem : (askWrite f e slot entry idx now data u).elem e = { u.elem e with outst := (u.elem e).outst ++ [u.fresh] } :=
 by
  rw [askWrite, act_elem, addOut, State.elem_modElem_self]
  rfl

theorem askRead_tile : (askRead f e slot entry idx now u).tile entry = { u.tile entry with uses := (u.tile entry).uses + 1 } :=
  queueTile_tile_self ..

theorem askWrite_tile : (askWrite f e slot entry idx now data u).tile entry = { u.tile entry with uses := (u.tile entry).uses + 1 } :=
  queueTile_tile_self ..

end

section
variable {u : State} (hc : Checked (taken s x) s.cur u) (entry : Nat × Nat) (idx : Nat) (data : Word) (g : Elem → Dp)
include hc

theorem Checked.sameMemory : SameMemory s u := fun a k => by rw [hc.mem, hc.stores]; rfl

theorem Checked.tile (y : Nat × Nat) : u.tile y = s.tile y := by rw [State.tile, hc.tiles]; rfl

theorem Checked.kget_tileReqs (k : Nat) : kget [] u.tileReqs k = kget [] s.tileReqs k := by rw [hc.tileReqs]; rfl

theorem Checked.elem_cur : (u.elem s.cur).outst = x.outst ∧ (u.elem s.cur).rets = x.rets ∧ (u.elem s.cur).d = x.d := by
  have h := hc.elem
  rwa [taken_elem_cur] at h

theorem askRead_asked : ∃ r, Asked s f x entry false idx data r
    ((askRead f s.cur s.curSlot entry idx s.now u).modElem s.cur (fun z => { z with dp := g z })) := by
  obtain ⟨-, hrets, hd⟩ := hc.elem_cur
  refine ⟨⟨s.cur, s.now, u.fresh, s.curSlot, false, entry.2, idx, 0, false, bit f.aux 0, []⟩, hc.sameMemory, ?_, ⟨rfl, rfl, rfl, rfl, rfl⟩,
    by simp, fun _ => ⟨rfl, ?_⟩, ?_, ?_, ?_⟩
  · exact (kget_kset_self ..).trans (congrArg (· ++ [_]) (hc.kget_tileReqs entry.1))
  · rw [State.elem_modElem_self, askRead_elem]; exact congrArg (· ++ [_]) hrets
  · exact (congrArg Tile.uses (askRead_tile ..)).trans (by rw [hc.tile])
  · exact (congrArg Tile.f (askRead_tile ..)).trans (by rw [hc.tile])
  · rw [State.elem_modElem_self, askRead_elem]; exact hd

theorem askWrite_asked : ∃ r, Asked s f x entry true idx data r
    ((askWrite f s.cur s.curSlot entry idx s.now data u).modElem s.cur (fun z => { z with dp := g z })) := by
  obtain ⟨houtst, -, hd⟩ := hc.elem_cur
  refine ⟨⟨s.cur, s.now, u.fresh, s.curSlot, true, entry.2, idx, data, bit f.aux 0, false, if bit f.aux 0 then before u s.cur else []⟩,
    hc.sameMemory, ?_, ⟨rfl, rfl, rfl, rfl, rfl⟩, fun _ => ⟨rfl, rfl, ?_⟩, by simp, ?_, ?_, ?_⟩
  · exact (kget_kset_self ..).trans (congrArg (· ++ [_]) (hc.kget_tileReqs entry.1))
  · rw [State.elem_modElem_self, askWrite_elem]; exact congrArg (· ++ [_]) houtst
  · exact (congrArg Tile.uses (askWrite_tile ..)).trans (by rw [hc.tile])
  · exact (congrArg Tile.f (askWrite_tile ..)).trans (by rw [hc.tile])
  · rw [State.elem_modElem_self, askWrite_elem]; exact hd

end

/-! ## The two instructions -/

theorem exec_tld (h : Reads s 12 f.sa f.sb (bit f.mod 1) (bit f.mod 0) src popped x) :
    exec (.tld f) s = .next (issueWork (curWait s (.tld f) src popped) s.cur (sinkNone f) (workTld f) (taken s x)) :=
  runM_eq_issue (k := sinkNone f) h

theorem exec_tst (h : ReadsM s f src popped x) :
    exec (.tst f) s = .next (issueWork (curWait s (.tst f) src popped) s.cur (sinkNone f) (workTst f) (taken s x)) :=
  runSrcM_eq_issue h

/-- What tld and tst do once their handle is found live: test the index, wait for the tag, check the access and ask. -/
def tileAccess (f : FmtM) (e : ERef) (slot : Nat) (wr : Bool) (entry : Nat × Nat) (idx : Nat) (ask : State → State) (u : State) :
    Except Stop (Res × State) :=
  if specBytes (u.tile entry).spec / 4 ≤ idx then trap0 0x02F
  else if bit f.aux 1 ∧ ((u.tile entry).f = wr ∨ tagOpen u e entry = true) then .error (waitOnF u e entry)
  else (tileRace (accessStart u f e entry wr) (elemRq (accessStart u f e entry wr) e slot 0) entry (4 * idx) 4 wr).map (fun t => (noRes, ask t))

section
variable {j : Job} {u : State} (hw : (u.elem j.e).waitUse = none)
  (ht : u.inTurn (.table (entryOf u j.e.inst j.src.a).1) (tableKey j.e.el) = true)
include hw

theorem accessTile_eq : accessTile u j = if live u j.e.inst j.src.a then .ok (entryOf u j.e.inst j.src.a) else trap0 0x020 := by
  rw [accessTile, hw]
  rfl

theorem dropWaitUse_eq : dropWaitUse u j.e = u := by
  rw [dropWaitUse, hw]

include ht

theorem workTld_eq : workTld f j u = if live u j.e.inst j.src.a then
      tileAccess f j.e j.slot false (entryOf u j.e.inst j.src.a) j.src.b.toNat
        (askRead f j.e j.slot (entryOf u j.e.inst j.src.a) j.src.b.toNat u.now) u else trap0 0x020 := by
  by_cases hl : live u j.e.inst j.src.a = true
  · simp only [workTld, accessTile_eq hw, dropWaitUse_eq hw, tileAccess, accessStart_read, hl, if_true]
    split
    · exact atTable_error ht
    · split
      · exact atTable_error ht
      · split
        next hr => rw [hr]; exact atTable_error ht
        next hr => rw [hr]; exact atTable_ok ht
  · simp only [workTld, accessTile_eq hw, hl, Bool.false_eq_true, if_false]
    exact atTable_error ht

theorem workTst_eq : workTst f j u = if live u j.e.inst j.src.a then
      tileAccess f j.e j.slot true (entryOf u j.e.inst j.src.a) j.src.d.toNat
        (askWrite f j.e j.slot (entryOf u j.e.inst j.src.a) j.src.d.toNat u.now j.src.b) u else trap0 0x020 := by
  unfold workTst tileAccess
  rw [accessTile_eq hw]
  by_cases hl : live u j.e.inst j.src.a = true
  · rw [if_pos hl, if_pos hl]
    by_cases ho : specBytes (u.tile (entryOf u j.e.inst j.src.a)).spec / 4 ≤ j.src.d.toNat
    · rw [if_pos ho]
      exact (congrArg (atTable j.e _ u) (if_pos ho)).trans (atTable_error ht)
    · rw [if_neg ho]
      refine (congrArg (atTable j.e _ u) (if_neg ho)).trans ?_
      by_cases hb : bit f.aux 1 = true ∧
          ((u.tile (entryOf u j.e.inst j.src.a)).f = true ∨ tagOpen u j.e (entryOf u j.e.inst j.src.a) = true)
      · rw [if_pos hb, if_pos hb]
        exact atTable_error ht
      · rw [if_neg hb, if_neg hb, dropWaitUse_eq hw, accessStart_write]
        extract_lets s0
        cases hr : tileRace s0 (elemRq s0 j.e j.slot 0) (entryOf u j.e.inst j.src.a) (4 * j.src.d.toNat) 4 true with
        | error e => exact atTable_error ht
        | ok t => exact atTable_ok ht
  · rw [if_neg hl, if_neg hl]
    exact atTable_error ht

end

/-! ### Its cases -/

section
variable {e : ERef} {slot : Nat} {wr : Bool} {entry : Nat × Nat} {idx : Nat} {ask : State → State} {u : State}

theorem tileAccess_outside (h : specBytes (u.tile entry).spec / 4 ≤ idx) : tileAccess f e slot wr entry idx ask u = trap0 0x02F := if_pos h

variable (h : idx < specBytes (u.tile entry).spec / 4)
include h

theorem tileAccess_waits (ha : bit f.aux 1 = true) (ho : (u.tile entry).f = wr ∨ tagOpen u e entry = true) :
    tileAccess f e slot wr entry idx ask u = .error (waitOnF u e entry) := by
  rw [tileAccess, if_neg (Nat.not_le.mpr h), if_pos ⟨ha, ho⟩]

theorem tileAccess_asks (ho : bit f.aux 1 = false ∨ ((u.tile entry).f ≠ wr ∧ tagOpen u e entry = false)) {t : State}
    (hr : tileRace (accessStart u f e entry wr) (elemRq u e slot 0) entry (4 * idx) 4 wr = .ok t) :
    tileAccess f e slot wr entry idx ask u = .ok (noRes, ask t) := by
  have hn : ¬ (bit f.aux 1 = true ∧ ((u.tile entry).f = wr ∨ tagOpen u e entry = true)) := by
    rintro ⟨ha, hb⟩
    rcases ho with ho | ⟨hf, ho⟩
    · simp [ho] at ha
    · exact hb.elim hf fun hb => by simp [ho] at hb
  rw [tileAccess, if_neg (Nat.not_le.mpr h), if_neg hn, tileRace_accessStart, hr]
  rfl

end

/-! ### What is asked of a tile -/

/-- What Obligations.TileAccessResults says of tld and of tst as they issue. -/
def AccessClaim (s : State) (f : FmtM) (src : Src) (popped : List (Nat × Token)) (x : Elem) (i : Instr) (wr : Bool) (idx : Nat)
    (data : Word) : Prop :=
  let e := s.cur
  let entry := entryOf s e.inst src.a
  let y := s.tile entry
  (s.inTurn (.table entry.1) (tableKey e.el) = false → Waits s i src popped x) ∧
  (s.inTurn (.table entry.1) (tableKey e.el) = true →
    (live s e.inst src.a = false → ∃ t, exec i s = .next t ∧ Traps s t 0x020 0) ∧
    (live s e.inst src.a = true → specBytes y.spec / 4 ≤ idx → ∃ t, exec i s = .next t ∧ Traps s t 0x02F 0) ∧
    (live s e.inst src.a = true → idx < specBytes y.spec / 4 → bit f.aux 1 = true → y.f = wr ∨ tagOpen s e entry = true →
      ∃ t, exec i s = .next t ∧ WaitsForTag s x entry (curWait s i src popped) t) ∧
    (∀ s1, live s e.inst src.a = true → idx < specBytes y.spec / 4 →
      (bit f.aux 1 = false ∨ (y.f ≠ wr ∧ tagOpen s e entry = false)) →
      tileRace (accessStart (taken s x) f e entry wr) (elemRq (taken s x) e s.curSlot 0) entry (4 * idx) 4 wr = .ok s1 →
      ∃ t r, exec i s = .next t ∧ Asked s f x entry wr idx data r t))

/-- An access of a tile as it issues, by what its work is in the table's turn and out of it. -/
theorem access_claim {i : Instr} {w : Work} {dst sa sb : BitVec 4} {pa pb : Bool} {wr : Bool} {idx : Nat} {data : Word} {ask : State → State}
    (hx : exec i s = .next (issueWork (curWait s i src popped) s.cur (sinkNone f) w (taken s x)))
    (h : Reads s dst sa sb pa pb src popped x) (hw : x.waitUse = none)
    (hlater : s.inTurn (.table (entryOf s s.cur.inst src.a).1) (tableKey s.cur.el) = false → w (curJob s src) (taken s x) = .error .wait)
    (hnow : s.inTurn (.table (entryOf s s.cur.inst src.a).1) (tableKey s.cur.el) = true →
      w (curJob s src) (taken s x) = if live s s.cur.inst src.a then
        tileAccess f s.cur s.curSlot wr (entryOf s s.cur.inst src.a) idx ask (taken s x) else trap0 0x020)
    (hask : ∀ u, Checked (taken s x) s.cur u → ∃ r, Asked s f x (entryOf s s.cur.inst src.a) wr idx data r
      (concluded s i (ask u) (sinkNone f) noRes)) :
    AccessClaim s f src popped x i wr idx data := by
  refine ⟨fun ht => hx.trans (congrArg _ (issue_waits (hlater ht))), fun ht => ?_⟩
  have hwork := hnow ht
  refine ⟨fun hl => traps_of_issue hx h (by decide) (hwork.trans (by rw [hl]; rfl)), fun hl ho => ?_, fun hl hi ha ho => ?_,
    fun s1 hl hi ho hr => ?_⟩ <;> rw [if_pos hl] at hwork
  · exact traps_of_issue hx h (by decide) (hwork.trans (tileAccess_outside ho))
  · rw [tileAccess_waits (u := taken s x) hi ha ho, waitOnF_taken hw] at hwork
    exact ⟨_, hx.trans (congrArg _ (issue_keeps hwork)), tagWait_waits ..⟩
  · rw [tileAccess_asks (u := taken s x) hi ho hr] at hwork
    obtain ⟨r, hr'⟩ := hask s1 (checked_of_tileRace hr)
    exact ⟨_, r, gives_of_issue hx hwork, hr'⟩

theorem tld_claim (h : Reads s 12 f.sa f.sb (bit f.mod 1) (bit f.mod 0) src popped x) (hw : x.waitUse = none) :
    AccessClaim s f src popped x (.tld f) false src.b.toNat 0 :=
  have hw' : ((taken s x).elem s.cur).waitUse = none := by rw [taken_elem_cur, hw]
  access_claim (exec_tld h) h hw (fun ht => atTable_waits (s := taken s x) ht _)
    (fun ht => workTld_eq (j := curJob s src) (u := taken s x) hw' ht) fun u hc => by
      rw [show concluded s (.tld f) _ (sinkNone f) noRes = _ from written_nowhere ..]
      exact askRead_asked hc _ _ _ _

theorem tst_claim (h : ReadsM s f src popped x) (hw : x.waitUse = none) :
    AccessClaim s f src popped x (.tst f) true src.d.toNat src.b :=
  have hw' : ((taken s x).elem s.cur).waitUse = none := by rw [taken_elem_cur, hw]
  access_claim (exec_tst h) h hw (fun ht => atTable_waits (s := taken s x) ht _)
    (fun ht => workTst_eq (j := curJob s src) (u := taken s x) hw' ht) fun u hc => by
      rw [show concluded s (.tst f) _ (sinkNone f) noRes = _ from written_nowhere ..]
      exact askWrite_asked hc _ _ _ _

end

/-! ## The request that a table serves (R103) -/

theorem head?_insertBy {α : Type} {lt : α → α → Bool} {r x : α} {acc : List α} (h : x = r ∧ (∀ y ∈ acc, y ≠ r → lt r y = true) ∨
    acc.head? = some r ∧ (x ≠ r → lt x r = false)) : (insertBy lt x acc).head? = some r := by
  cases acc with
  | nil => obtain ⟨rfl, -⟩ | ⟨h, -⟩ := h; exacts [rfl, by simp at h]
  | cons y ys =>
    rw [insertBy]
    split
    next hlt =>
      obtain ⟨rfl, -⟩ | ⟨hy, hx⟩ := h
      · rfl
      · obtain rfl : y = r := by simpa using hy
        by_cases hr : x = y
        · rw [hr]; rfl
        · simp [hx hr] at hlt
    next hlt =>
      obtain ⟨rfl, hall⟩ | ⟨hy, -⟩ := h
      · by_cases hr : y = x
        · rw [hr]; rfl
        · simp [hall y List.mem_cons_self hr] at hlt
      · exact hy

theorem mem_insertBy {α : Type} {lt : α → α → Bool} {x y : α} {acc : List α} : y ∈ insertBy lt x acc ↔ y = x ∨ y ∈ acc := by
  induction acc with
  | nil => simp [insertBy]
  | cons z zs ih =>
    rw [insertBy]
    split
    · simp
    · simp only [List.mem_cons, ih]
      tauto

theorem mem_sortBy {α : Type} {lt : α → α → Bool} {y : α} {xs : List α} : y ∈ sortBy lt xs ↔ y ∈ xs := by
  induction xs using List.reverseRecOn with
  | nil => simp [sortBy]
  | append_singleton xs x ih =>
    rw [sortBy, List.foldl_append, List.foldl_cons, List.foldl_nil, ← sortBy, mem_insertBy, ih]
    simp [or_comm]

/-- What comes before all others is at the head of the sorted list. -/
theorem head?_sortBy {α : Type} {lt : α → α → Bool} {r : α} {xs : List α} (hr : r ∈ xs)
    (h : ∀ q ∈ xs, q ≠ r → lt r q = true ∧ lt q r = false) : (sortBy lt xs).head? = some r := by
  induction xs using List.reverseRecOn with
  | nil => simp at hr
  | append_singleton xs x ih =>
    rw [sortBy, List.foldl_append, List.foldl_cons, List.foldl_nil, ← sortBy]
    refine head?_insertBy ?_
    have hxs : ∀ q ∈ xs, q ≠ r → lt r q = true ∧ lt q r = false := fun q hq => h q (List.mem_append_left _ hq)
    by_cases hm : r ∈ xs
    · exact .inr ⟨ih hm hxs, fun hx => (h x (by simp) hx).2⟩
    · have hx : x = r := by simpa [hm, eq_comm] using hr
      exact .inl ⟨hx, fun y hy hne => (hxs y (mem_sortBy.mp hy) hne).1⟩

theorem nextTileReq_eq {rs : List TileReq} {r : TileReq} (hr : r ∈ rs)
    (h : ∀ q ∈ rs, q ≠ r → r.at_ < q.at_ ∨ (r.at_ = q.at_ ∧ r.e.el < q.e.el)) : nextTileReq rs = some r := by
  refine head?_sortBy hr fun q hq hne => ?_
  have := h q hq hne
  simp only [Bool.or_eq_true, decide_eq_true_eq, Bool.and_eq_true, beq_iff_eq, Bool.or_eq_false_iff, decide_eq_false_iff_not,
    Bool.and_eq_false_iff, beq_eq_false_iff_ne]
  omega

/-! ## A request performed (R175, R370) -/

/-- A raised fault changes the graph it is raised in and what counts faults. -/
theorem raiseFault_eq (s : State) (g : Nat) (f : FaultRec) :
    ∃ graphs lifePend fw, raiseFault s g f = { s with graphs := graphs, lifePend := lifePend, fw := fw } := by
  unfold raiseFault noteFault
  dsimp only
  split
  · exact ⟨_, _, _, rfl⟩
  · exact ⟨_, _, s.fw, rfl⟩

theorem noteFault_graph (s : State) (c : Nat) (a b : Word) (g : Nat) : (noteFault s c a b).graph g = s.graph g := by
  unfold noteFault
  dsimp only
  split <;> rfl

/-- The first fault of a graph is recorded. -/
theorem raiseFault_first {s : State} {g : Nat} (f : FaultRec) (h : (s.graph g).fault = none) :
    ((raiseFault s g f).graph g).fault = some f.shown := by
  rw [raiseFault, State.graph_modGraph, if_pos rfl, noteFault_graph, h]

theorem asyncFault_faulted {s : State} {e : ERef} (slot engine cause : Nat) (hd : Word) (addr : Nat) (a b : Word)
    (h : (s.graph (s.inst e.inst).graph).fault = none) :
    Faulted (asyncFault s e slot engine cause hd addr a b) (s.inst e.inst).graph cause engine := by
  refine ⟨_, raiseFault_first _ h, ?_, ?_⟩ <;> rw [FaultRec.shown] <;> split <;> rfl

/-- The aligned word of a tile takes the unit it stands in (R278). -/
theorem tile_unit {tab slot i : Nat} (idx : Nat) : (∃ m, m < 4 ∧ unitOf (tileKey tab slot (4 * idx) + m) = unitOf i) ↔
    tileKey tab slot (4 * idx) ≤ i ∧ i < tileKey tab slot (4 * idx) + 4 := by
  have hk : ∃ q, tileKey tab slot (4 * idx) = 4 * q ∧ 2000 * 2 ^ 58 ≤ q :=
    ⟨(2000 + tab * 1024 + slot) * 2 ^ 58 + idx, by unfold tileKey keyOf; omega, by omega⟩
  obtain ⟨q, hq, hle⟩ := hk
  rw [hq]
  have hhome (m : Nat) (hm : m < 4) : unitOf (4 * q + m) = q := by
    have h2 : ¬ (homeOfKey (4 * q + m) = 2 ∨ homeOfKey (4 * q + m) = 3) := by unfold homeOfKey; omega
    rw [unitOf, if_neg h2]; omega
  constructor
  · rintro ⟨m, hm, hu⟩
    rw [hhome m hm] at hu
    unfold unitOf homeOfKey at hu
    split at hu <;> omega
  · rintro ⟨h1, h2⟩
    refine ⟨0, by omega, ?_⟩
    rw [hhome 0 (by omega), show i = 4 * q + (i - 4 * q) by omega, hhome _ (by omega)]

theorem bytesOfWord_getD (w : Word) {i : Nat} (h : i < 4) : (bytesOfWord w).getD i 0 = BitVec.ofNat 8 (w.toNat / 2 ^ (8 * i)) := by
  interval_cases i <;> simp [bytesOfWord, leBytes, Nat.div_div_eq_div_mul]

/-- Memory after a write at every scope. -/
theorem memGet_writeThrough {s : State} (bs : List (Nat × Byte)) (i : Nat) (h : Memory.wf s.mem) :
    memGet (writeThrough s bs).mem i = if khas bs i then kget 0 bs i else if inUnits bs i then latest s i else memGet s.mem i := by
  rw [writeThrough, memGet_memPutAll _ _ (settleUnits_wf bs _ h), memGet_settleUnits _ _ _ h, latest_eq]

/-- A word of a tile written: no other byte changes. -/
theorem memGet_writeTile {s : State} (tab slot idx : Nat) (w : Word) (i : Nat) (h : Memory.wf s.mem) :
    memGet (writeThrough s (keyed (tileKey tab slot (4 * idx)) (bytesOfWord w))).mem i =
      if tileKey tab slot (4 * idx) ≤ i ∧ i < tileKey tab slot (4 * idx) + 4 then
        BitVec.ofNat 8 (w.toNat / 2 ^ (8 * (i - tileKey tab slot (4 * idx)))) else memGet s.mem i := by
  have hlen : (bytesOfWord w).length = 4 := length_leBytes ..
  rw [memGet_writeThrough _ _ h]
  by_cases hi : tileKey tab slot (4 * idx) ≤ i ∧ i < tileKey tab slot (4 * idx) + 4
  · rw [if_pos hi, if_pos ((khas_keyed ..).mpr (by rwa [hlen])), kget_keyed hi.1 (by rw [hlen]; exact hi.2), bytesOfWord_getD _ (by omega)]
  · have hu : ¬ inUnits (keyed (tileKey tab slot (4 * idx)) (bytesOfWord w)) i = true := by
      rw [inUnits_keyed, hlen, touches, List.any_eq_true]
      rintro ⟨m, hm, hu⟩
      exact hi ((tile_unit idx).mp ⟨m, List.mem_range.mp hm, by simpa using hu⟩)
    rw [if_neg hi, if_neg (fun hk => hu (inUnits_of_khas hk)), if_neg hu]

/-- Bad lines lie where they lay: a tile's uses are no matter of theirs. -/
theorem badIn_dropUse (s : State) (y : Nat × Nat) (k n : Nat) : badIn (dropUse s y) k n = badIn s k n := by
  have hplace (line bank : Nat) : linePlace (dropUse s y) line bank = linePlace s line bank := by
    have ht (z : Nat × Nat) : ((dropUse s y).tile z).spec = (s.tile z).spec ∧ ((dropUse s y).tile z).el = (s.tile z).el := by
      rw [dropUse, State.tile_modTile]
      split
      next h => rw [h]; exact ⟨rfl, rfl⟩
      next => exact ⟨rfl, rfl⟩
    simp only [linePlace, (ht _).1, (ht _).2]
  simp only [badIn, hplace]
  rfl

/-- A return found gets its value. -/
theorem fillRet_rets {s : State} {e : ERef} {id : Nat} (v : Word) {q : Ret} (hq : q ∈ (s.elem e).rets) (hid : q.id = id) :
    ∃ q' ∈ ((fillRet s e id v).elem e).rets, q'.id = id ∧ q'.tag = q.tag ∧ q'.val = some v := by
  refine ⟨{ q with val := some v }, ?_, hid, rfl, rfl⟩
  rw [fillRet, State.elem_modElem_self]
  exact List.mem_map.mpr ⟨q, hq, if_pos hid⟩

/-- The part as a table's request is taken from it, its use over. -/
def unqueued (s : State) (tab : Nat) (r : TileReq) : State :=
  dropUse { s with tileReqs := kset s.tileReqs tab (removeFirst (fun x => x.id == r.id) (kget [] s.tileReqs tab)) } (tab, r.entry)

theorem unqueued_tile (s : State) (tab : Nat) (r : TileReq) :
    (unqueued s tab r).tile (tab, r.entry) = { s.tile (tab, r.entry) with uses := (s.tile (tab, r.entry)).uses - 1 } := dropUse_tile_self ..

/-- The tag of a word performed. -/
def tagged (s : State) (y : Nat × Nat) (r : TileReq) : State :=
  if r.write = true then
    if r.setTag then s.modTile y (fun z => { z with fset := true, fReg := s.physReg r.e.inst r.e.reg, fDeps := r.hb }) else s
  else if r.clrTag then s.modTile y (fun z => { z with f := false }) else s

theorem serveTile_write {s : State} {tab : Nat} {r : TileReq} (h : r.write = true) : serveTile s tab r =
    fillRet (tagged (writeThrough (unqueued s tab r) (keyed (tileKey tab r.entry (4 * r.index)) (bytesOfWord r.data))) (tab, r.entry) r)
      r.e r.id 0 := by
  unfold serveTile tagged
  rw [if_pos h, if_pos h]
  rfl

theorem serveTile_bad {s : State} {tab : Nat} {r : TileReq} {b : Nat × Nat} (h : r.write = false)
    (hb : badIn s (tileKey tab r.entry (4 * r.index)) 4 = some b) :
    serveTile s tab r = asyncFault (unqueued s tab r) r.e r.slot 0 0x0E0 0 0 (wd b.1) (wd b.2) := by
  have hb' : badIn (unqueued s tab r) (tileKey tab r.entry (4 * r.index)) 4 = some b := (badIn_dropUse ..).trans hb
  rw [unqueued] at hb'
  unfold serveTile
  simp only [h, Bool.false_eq_true, if_false, hb']
  rfl

theorem serveTile_read {s : State} {tab : Nat} {r : TileReq} (h : r.write = false)
    (hb : badIn s (tileKey tab r.entry (4 * r.index)) 4 = none) :
    serveTile s tab r = fillRet (tagged (unqueued s tab r) (tab, r.entry) r) r.e r.id
      (wd (leNat (readBytes s (s.agentOf r.e) (tileKey tab r.entry (4 * r.index)) 4))) := by
  have hb' : badIn (unqueued s tab r) (tileKey tab r.entry (4 * r.index)) 4 = none := (badIn_dropUse ..).trans hb
  rw [unqueued] at hb'
  unfold serveTile tagged
  simp only [h, Bool.false_eq_true, if_false, hb']
  rfl

section
variable (s : State) (y : Nat × Nat) (r : TileReq)

theorem fillRet_tile (e : ERef) (id : Nat) (v : Word) : (fillRet s e id v).tile y = s.tile y := rfl

theorem tagged_tile_uses : ((tagged s y r).tile y).uses = (s.tile y).uses := by
  unfold tagged
  split <;> split
  · rw [State.tile_modTile, if_pos rfl]
  · rfl
  · rw [State.tile_modTile, if_pos rfl]
  · rfl

theorem tagged_mem : (tagged s y r).mem = s.mem := by
  unfold tagged
  split <;> split <;> rfl

theorem tagged_elem (e : ERef) : (tagged s y r).elem e = s.elem e := by
  unfold tagged
  split <;> split <;> rfl

/-- A write marks the set that is due after it. -/
theorem tagged_write (h : r.write = true) : ((tagged s y r).tile y).f = (s.tile y).f ∧
    ((tagged s y r).tile y).fset = (r.setTag || (s.tile y).fset) ∧
    (r.setTag = true → ((tagged s y r).tile y).fReg = s.physReg r.e.inst r.e.reg ∧ ((tagged s y r).tile y).fDeps = r.hb) := by
  unfold tagged
  rw [if_pos h]
  cases hs : r.setTag
  · simp
  · simp only [if_true, State.tile_modTile]
    simp

/-- A read clears the tag where it asks so. -/
theorem tagged_read (h : r.write = false) : ((tagged s y r).tile y).f = (!r.clrTag && (s.tile y).f) := by
  unfold tagged
  rw [if_neg (by simp [h])]
  cases hs : r.clrTag
  · simp
  · simp only [if_true, State.tile_modTile]
    simp

end

theorem asyncFault_tile (s : State) (e : ERef) (slot engine cause : Nat) (hd : Word) (addr : Nat) (a b : Word) (y : Nat × Nat) :
    (asyncFault s e slot engine cause hd addr a b).tile y = s.tile y := by
  obtain ⟨_, _, _, h⟩ := raiseFault_eq s (s.inst e.inst).graph (faultAt s e slot engine false cause hd addr a b)
  rw [asyncFault, h]
  rfl

section
variable {s : State} {tab : Nat} {r : TileReq}

/-- A write performed at its table (R175, R370). -/
theorem serveTile_write_spec (hm : Memory.wf s.mem) (h : r.write = true) :
    (((serveTile s tab r).tile (tab, r.entry)).uses = (s.tile (tab, r.entry)).uses - 1) ∧
    (∀ i, memGet (serveTile s tab r).mem i = if tileKey tab r.entry (4 * r.index) ≤ i ∧ i < tileKey tab r.entry (4 * r.index) + 4 then
      BitVec.ofNat 8 (r.data.toNat / 2 ^ (8 * (i - tileKey tab r.entry (4 * r.index)))) else memGet s.mem i) ∧
    ((serveTile s tab r).tile (tab, r.entry)).f = (s.tile (tab, r.entry)).f ∧
    ((serveTile s tab r).tile (tab, r.entry)).fset = (r.setTag || (s.tile (tab, r.entry)).fset) ∧
    (r.setTag = true → ((serveTile s tab r).tile (tab, r.entry)).fReg = s.physReg r.e.inst r.e.reg ∧
      ((serveTile s tab r).tile (tab, r.entry)).fDeps = r.hb) := by
  rw [serveTile_write h, fillRet_tile]
  set u := writeThrough (unqueued s tab r) (keyed (tileKey tab r.entry (4 * r.index)) (bytesOfWord r.data)) with hu
  have ht : u.tile (tab, r.entry) = _ := unqueued_tile s tab r
  obtain ⟨hf, hset, hdeps⟩ := tagged_write u (tab, r.entry) r h
  refine ⟨by rw [tagged_tile_uses, ht], fun i => ?_, by rw [hf, ht], by rw [hset, ht], fun hs => hdeps hs⟩
  show memGet (tagged u (tab, r.entry) r).mem i = _
  rw [tagged_mem]
  exact memGet_writeTile (s := unqueued s tab r) tab r.entry r.index r.data i hm

theorem serveTile_bad_spec {b : Nat × Nat} (h : r.write = false) (hb : badIn s (tileKey tab r.entry (4 * r.index)) 4 = some b) :
    ((serveTile s tab r).tile (tab, r.entry)).uses = (s.tile (tab, r.entry)).uses - 1 ∧ (serveTile s tab r).mem = s.mem ∧
    ((serveTile s tab r).tile (tab, r.entry)).f = (s.tile (tab, r.entry)).f ∧
    ((s.graph (s.inst r.e.inst).graph).fault = none → Faulted (serveTile s tab r) (s.inst r.e.inst).graph 0x0E0 0) := by
  rw [serveTile_bad h hb, asyncFault_tile, unqueued_tile]
  exact ⟨rfl, asyncFault_mem .., rfl, fun hf => asyncFault_faulted (s := unqueued s tab r) _ _ _ _ _ _ _ hf⟩

theorem serveTile_read_spec (h : r.write = false) (hb : badIn s (tileKey tab r.entry (4 * r.index)) 4 = none) :
    ((serveTile s tab r).tile (tab, r.entry)).uses = (s.tile (tab, r.entry)).uses - 1 ∧ (serveTile s tab r).mem = s.mem ∧
    ((serveTile s tab r).tile (tab, r.entry)).f = (!r.clrTag && (s.tile (tab, r.entry)).f) ∧
    ∀ q ∈ (s.elem r.e).rets, q.id = r.id → ∃ q' ∈ ((serveTile s tab r).elem r.e).rets, q'.id = r.id ∧ q'.tag = q.tag ∧
      q'.val = some (BitVec.ofNat 32 (leNat (readBytes s (s.agentOf r.e) (tileKey tab r.entry (4 * r.index)) 4))) := by
  rw [serveTile_read h hb, fillRet_tile, tagged_tile_uses, tagged_read _ _ _ h, unqueued_tile]
  refine ⟨rfl, tagged_mem .., rfl, fun q hq hid => fillRet_rets _ ?_ hid⟩
  rw [tagged_elem]
  exact hq

end

/-- The tag set (R280, R370): it carries the release of the region that set it, with what came before the set. -/
theorem setFull_tile (s : State) (y : Nat × Nat) (x : Nat) (deps : List Dep) : (setFull s y x deps).tile y =
    { s.tile y with
      f := true, fset := false, fDeps := [], fills := (s.tile y).fills + 1,
      rel := some ⟨x, kget 1 s.num x, kget [] s.acq x, deps.filter (depOpen s)⟩ } :=
  (State.tile_modTile ..).trans (if_pos rfl)

/-- Settles O34: an access as it issues by access_claim, which tld and tst share, and its service by the lemmas on serveTile. -/
theorem tileAccessResults : Obligations.TileAccessResults := by
  refine ⟨fun s f src popped x => ?_, fun s tab r hm hr hmin => ?_, fun s tab slot hf => ?_, fun s tab slot hp hu => ?_⟩
  · intro e entry y queued
    have claim {i : Instr} {wr : Bool} {idx : Nat} {data : Word} (h : x.waitUse = none → AccessClaim s f src popped x i wr idx data) :
        queued i wr idx data := by
      intro hw
      obtain ⟨hlater, hnow⟩ := h hw
      refine ⟨hlater, fun ht => ?_⟩
      obtain ⟨hstale, houtside, hwait, hask⟩ := hnow ht
      refine ⟨hstale, houtside, fun hl hi ha ho => ?_, fun s1 hl hi ho hr => ?_⟩
      · obtain ⟨t, hx, hw⟩ := hwait hl hi ha ho
        exact ⟨t, hx, hw.memory, hw.requests, hw.used, hw.elem, hw.others⟩
      · obtain ⟨t, r, hx, ha⟩ := hask s1 hl hi ho (by rwa [elemRq_of_insts (s := s) (t := taken s x) rfl, tileRace_hb])
        obtain ⟨he, hat, hwr, hentry, hidx⟩ := ha.request
        exact ⟨t, r, hx, ha.memory, ha.queue, he, hat, hwr, hentry, hidx, ha.store, ha.load, ha.used, ha.tag, ha.regs⟩
    exact ⟨fun h => claim (tld_claim h), fun h => claim (tst_claim h)⟩
  · refine ⟨serveTile s tab r, ?_, ?_⟩
    · show execTileTableServe tab s = _
      rw [execTileTableServe, nextTileReq_eq hr hmin]
    cases hw : r.write with
    | true =>
      obtain ⟨huses, hmem, hf, hset, hdeps⟩ := serveTile_write_spec (tab := tab) hm hw
      exact ⟨huses, fun _ => ⟨hmem, hf, hset, hdeps⟩, by simp⟩
    | false =>
      cases hb : badIn s (tileKey tab r.entry (4 * r.index)) 4 with
      | some b =>
        obtain ⟨huses, hmem, hf, hfault⟩ := serveTile_bad_spec hw hb
        exact ⟨huses, by simp, fun _ => ⟨hmem, fun _ _ => ⟨hf, hfault⟩, by simp⟩⟩
      | none =>
        obtain ⟨huses, hmem, hf, hret⟩ := serveTile_read_spec hw hb
        exact ⟨huses, by simp, fun _ => ⟨hmem, by simp, fun _ => ⟨hf, hret⟩⟩⟩
  · refine ⟨setFull s (tab, slot) (s.tile (tab, slot)).fReg (s.tile (tab, slot)).fDeps,
      ⟨(s.tile (tab, slot)).fReg, kget 1 s.num (s.tile (tab, slot)).fReg, kget [] s.acq (s.tile (tab, slot)).fReg,
        (s.tile (tab, slot)).fDeps.filter (depOpen s)⟩, (when_eq_next ..).mpr ⟨hf, rfl⟩, ?_⟩
    rw [setFull_tile]
    exact ⟨rfl, rfl, rfl, rfl, rfl, rfl, rfl, fun _ _ => rfl⟩
  · refine ⟨freeEntry s (tab, slot), (when_eq_next ..).mpr ⟨by simp [hp, hu], rfl⟩, ?_⟩
    rw [show (freeEntry s (tab, slot)).tile (tab, slot) = _ from (State.tile_modTile ..).trans (if_pos rfl)]
    exact ⟨rfl, rfl, fun _ _ => rfl⟩

end Sys2Proof.Machine
end

section
/-! SUPPORT. What accesses leave of the part (spec/17_translation.md R262 to R273, spec/18_memory_model.md R286 to R290): all but memory,
translations, stamps, the turns of the cycle and the tape of the work that makes them. -/

namespace Sys2Proof.Machine

/-- t is s but for what accesses change; work that has no tape has none after them. -/
def AccessOnly (s t : State) : Prop :=
  (s.tape = none → t.tape = none) ∧ ∃ mem stores unspec stamps tlb utlb xreg oracle tape acted, t = { s with
    mem := mem, stores := stores, unspec := unspec, stamps := stamps, tlb := tlb, utlb := utlb, xreg := xreg, oracle := oracle, tape := tape,
    acted := acted }

theorem MemoryOnly.accessOnly {s t : State} : MemoryOnly s t → AccessOnly s t := by
  rintro ⟨_, _, _, rfl⟩
  exact ⟨id, _, _, _, _, _, _, _, _, _, _, rfl⟩

theorem ok_pair {ε α β : Type} {a b : α} {s t : β} (h : (Except.ok (a, s) : Except ε (α × β)) = .ok (b, t)) : a = b ∧ s = t := by
  cases h
  exact ⟨rfl, rfl⟩

namespace AccessOnly

theorem refl (s : State) : AccessOnly s s := ⟨id, _, _, _, _, _, _, _, _, _, _, rfl⟩

theorem trans {s t u : State} : AccessOnly s t → AccessOnly t u → AccessOnly s u := by
  rintro ⟨h, _, _, _, _, _, _, _, _, _, _, rfl⟩ ⟨h', _, _, _, _, _, _, _, _, _, _, rfl⟩
  exact ⟨h' ∘ h, _, _, _, _, _, _, _, _, _, _, rfl⟩

section
variable {s t : State} (h : AccessOnly s t)
include h

theorem elems : t.elems = s.elems := by obtain ⟨-, _, _, _, _, _, _, _, _, _, _, rfl⟩ := h; rfl
theorem insts : t.insts = s.insts := by obtain ⟨-, _, _, _, _, _, _, _, _, _, _, rfl⟩ := h; rfl
theorem tiles : t.tiles = s.tiles := by obtain ⟨-, _, _, _, _, _, _, _, _, _, _, rfl⟩ := h; rfl
theorem regions : t.regions = s.regions := by obtain ⟨-, _, _, _, _, _, _, _, _, _, _, rfl⟩ := h; rfl
theorem graphs : t.graphs = s.graphs := by obtain ⟨-, _, _, _, _, _, _, _, _, _, _, rfl⟩ := h; rfl
theorem ctxs : t.ctxs = s.ctxs := by obtain ⟨-, _, _, _, _, _, _, _, _, _, _, rfl⟩ := h; rfl
theorem num : t.num = s.num := by obtain ⟨-, _, _, _, _, _, _, _, _, _, _, rfl⟩ := h; rfl
theorem acq : t.acq = s.acq := by obtain ⟨-, _, _, _, _, _, _, _, _, _, _, rfl⟩ := h; rfl
theorem now : t.now = s.now := by obtain ⟨-, _, _, _, _, _, _, _, _, _, _, rfl⟩ := h; rfl
theorem tileReqs : t.tileReqs = s.tileReqs := by obtain ⟨-, _, _, _, _, _, _, _, _, _, _, rfl⟩ := h; rfl
theorem accs : t.accs = s.accs := by obtain ⟨-, _, _, _, _, _, _, _, _, _, _, rfl⟩ := h; rfl
theorem elem (e : ERef) : t.elem e = s.elem e := by rw [State.elem, h.elems]; rfl
theorem inst (i : Nat) : t.inst i = s.inst i := by rw [State.inst, h.insts]; rfl
theorem tile (y : Nat × Nat) : t.tile y = s.tile y := by rw [State.tile, h.tiles]; rfl

end

theorem act (s : State) (a : Arena) (k : Nat) : AccessOnly s (s.act a k) := ⟨id, _, _, _, _, _, _, _, _, _, _, rfl⟩

theorem raceAll {q : Rq} {x : Nat} {at_ : Nat → Nat} {wr : Bool} {gs : List Nat} {s t : State} (h : raceAll q x at_ wr gs s = .ok t) :
    AccessOnly s t := by
  obtain ⟨_, rfl⟩ := raceAll_stamps h
  exact ⟨id, _, _, _, _, _, _, _, _, _, _, rfl⟩

theorem raceCheck {s t : State} {q : Rq} {stamped : Bool} {va k n : Nat} {wr : Bool} (h : raceCheck s q stamped va k n wr = .ok t) :
    AccessOnly s t := by
  unfold Machine.raceCheck at h
  split at h
  · exact Except.ok.inj h ▸ refl s
  · split at h
    · exact raceAll h
    · exact Except.ok.inj h ▸ refl s

theorem choose (s : State) : AccessOnly s s.choose.2 := by
  unfold State.choose
  split
  · exact refl s
  · exact ⟨id, _, _, _, _, _, _, _, _, _, _, rfl⟩

theorem keepOwn (s : State) (q : Rq) (t : TlbE) : AccessOnly s (keepOwn s q t) := by
  unfold Machine.keepOwn
  split
  · exact refl s
  · dsimp only
    split
    · exact refl s
    · exact (choose s).trans ⟨id, _, _, _, _, _, _, _, _, _, _, rfl⟩

theorem countAccess (s : State) (q : Rq) (t : TlbE) (va : Nat) : AccessOnly s (countAccess s q t va) := by
  unfold Machine.countAccess
  split
  · dsimp only
    split
    · exact refl s
    · exact ⟨id, _, _, _, _, _, _, _, _, _, _, rfl⟩
  · exact refl s

/-- A translation kept at the requester's own level where it was not found there, and the host's with it (R265, R272). -/
theorem keepBoth (s : State) (q : Rq) (t : TlbE) (own far : Bool) (h : Option TlbE) :
    AccessOnly s (match h with
      | some e => if far then Machine.keepOwn (if own then s else Machine.keepOwn s q t) q e else if own then s else Machine.keepOwn s q t
      | none => if own then s else Machine.keepOwn s q t) := by
  have h1 : AccessOnly s (if own then s else Machine.keepOwn s q t) := by
    split
    · exact refl s
    · exact keepOwn ..
  split
  · split
    · exact h1.trans (keepOwn ..)
    · exact h1
  · exact h1

theorem xlate {s t : State} {q : Rq} {va : Nat} {wr : Bool} {l : Loc} (h : xlate s q va wr = .ok (l, t)) : AccessOnly s t := by
  unfold Machine.xlate at h
  dsimp only at h
  split at h
  · simp at h
  · split_ifs at h
    all_goals
      obtain ⟨-, rfl⟩ := ok_pair h
      refine trans ?_ (countAccess ..)
    · exact keepBoth s q ⟨0, 0, 14, 0, none, 0, false⟩ true true _
    · exact keepBoth s q _ false true _
    · exact keepBoth s q ⟨0, 0, 14, 0, none, 0, false⟩ true false _
    · exact keepBoth s q _ false false _

theorem readAt {q : Rq} {l : Loc} {va n : Nat} {s t : State} {bs : List Byte} (h : readAt q l va n s = .ok (bs, t)) : AccessOnly s t := by
  unfold Machine.readAt at h
  split at h
  · simp at h
  · split at h
    next => simp at h
    next => simp at h
    next s1 _ hr =>
      exact (ok_pair h).2 ▸ raceCheck hr

theorem readIn {q : Rq} {va n : Nat} {s t : State} {bs : List Byte} (h : readIn q va n s = .ok (bs, t)) : AccessOnly s t := by
  unfold Machine.readIn at h
  split at h
  next => simp at h
  next hx => exact (xlate hx).trans (readAt h)

theorem writeIn {q : Rq} {va : Nat} {bs : List Byte} {s t : State} (h : writeIn q va bs s = .ok t) : AccessOnly s t := by
  unfold Machine.writeIn at h
  split at h
  next => simp at h
  next hx =>
    split at h
    · simp at h
    · split at h
      next => simp at h
      next hr =>
        rw [Except.ok.injEq] at h
        exact h ▸ ((xlate hx).trans (raceCheck hr)).trans ((MemoryOnly.writeThrough ..).trans (.stored ..)).accessOnly

theorem logged (s : State) (b : List Byte) : AccessOnly s (logged s b) := by
  unfold Machine.logged
  split
  next h => exact ⟨by simp [h], _, _, _, _, _, _, _, _, _, _, rfl⟩
  next => exact refl s

theorem taped {s t : State} {b : List Byte} (h : taped s = some (b, t)) : AccessOnly s t := by
  unfold Machine.taped at h
  split at h
  next htape =>
    cases h
    exact ⟨by simp [htape], _, _, _, _, _, _, _, _, _, _, rfl⟩
  next => simp at h

theorem readFrom {q : Rq} {first : Bool} {f va n : Nat} {s t : State} {bs : List Byte} (h : readFrom q first f va n s = .ok (bs, t)) :
    AccessOnly s t := by
  induction f generalizing first va n s bs with
  | zero =>
    exact (ok_pair h).2 ▸ refl s
  | succ f ih =>
    unfold Machine.readFrom at h
    split at h
    · exact (ok_pair h).2 ▸ refl s
    · dsimp only at h
      split at h
      next => simp at h
      next b s1 hp =>
        have hs1 : AccessOnly s s1 := by
          split at hp
          next hr => rw [Except.ok.injEq] at hp; exact taped (hr.trans (congrArg some hp))
          next =>
            split at hp
            next => simp at hp
            next hr =>
              exact (ok_pair hp).2 ▸ (readIn hr).trans (logged ..)
        split at h
        next => simp at h
        next hr =>
          obtain ⟨-, rfl⟩ := ok_pair h
          exact hs1.trans (ih hr)

theorem writeFrom {q : Rq} {first : Bool} {f va : Nat} {s t : State} {bs : List Byte} (h : writeFrom q first f va bs s = .ok t) :
    AccessOnly s t := by
  induction f generalizing first va s bs with
  | zero =>
    rw [Machine.writeFrom, Except.ok.injEq] at h
    exact h ▸ refl s
  | succ f ih =>
    unfold Machine.writeFrom at h
    split at h
    · rw [Except.ok.injEq] at h
      exact h ▸ refl s
    · dsimp only at h
      split at h
      next => simp at h
      next b s1 hp =>
        have hs1 : AccessOnly s s1 := by
          split at hp
          next hr => rw [Except.ok.injEq] at hp; exact taped (hr.trans (congrArg some hp))
          next =>
            split at hp
            next => simp at hp
            next hr =>
              exact (ok_pair hp).2 ▸ (writeIn hr).trans (logged ..)
        exact hs1.trans (ih h)

theorem readVA {q : Rq} {va n : Nat} {s t : State} {bs : List Byte} (h : readVA q va n s = .ok (bs, t)) : AccessOnly s t := readFrom h

theorem writeVA {q : Rq} {va : Nat} {bs : List Byte} {s t : State} (h : writeVA q va bs s = .ok t) : AccessOnly s t := writeFrom h

theorem readWords {q : Rq} {va n : Nat} {s t : State} {ws : List Word} (h : readWords q va n s = .ok (ws, t)) : AccessOnly s t := by
  unfold Machine.readWords at h
  split at h
  next => simp at h
  next hr =>
    exact (ok_pair h).2 ▸ readVA hr

theorem readHdr {q : Rq} {va : Nat} {s t : State} {h : Hdr} (hr : readHdr q va s = .ok (h, t)) : AccessOnly s t := by
  unfold Machine.readHdr at hr
  split at hr
  next => simp at hr
  next hw => exact (ok_pair hr).2 ▸ readWords hw

theorem readEnt {q : Rq} {va i : Nat} {s t : State} {e : Ent} (h : readEnt q va i s = .ok (e, t)) : AccessOnly s t := by
  unfold Machine.readEnt at h
  split at h
  next => simp at h
  next hw => exact (ok_pair h).2 ▸ readWords hw

theorem engineTile {q : Rq} {y : Nat × Nat} {off n : Nat} {wr : Bool} {s t : State} (h : engineTile q y off n wr s = .ok t) :
    AccessOnly s t := by
  unfold Machine.engineTile at h
  split at h
  · simp at h
  · obtain ⟨_, rfl⟩ := tileRace_stamps h
    exact ⟨id, _, _, _, _, _, _, _, _, _, _, rfl⟩

theorem readPlace {q : Rq} {p : Place} {off n : Nat} {s t : State} {bs : List Byte} (h : readPlace q p off n s = .ok (bs, t)) :
    AccessOnly s t := by
  unfold Machine.readPlace at h
  split at h
  · exact readVA h
  · split at h
    next => simp at h
    next he => exact (ok_pair h).2 ▸ (act ..).trans (engineTile he)

theorem writePlace {q : Rq} {p : Place} {off : Nat} {bs : List Byte} {s t : State} (h : writePlace q p off bs s = .ok t) :
    AccessOnly s t := by
  unfold Machine.writePlace at h
  split at h
  · exact writeVA h
  · split at h
    next => simp at h
    next he =>
      rw [Except.ok.injEq] at h
      exact h ▸ ((act ..).trans (engineTile he)).trans (MemoryOnly.writeThrough ..).accessOnly

theorem writeAt {q : Rq} {p : Place} {vs : List (Nat × Word)} {s t : State} (h : writeAt q p vs s = .ok t) : AccessOnly s t := by
  induction vs generalizing s with
  | nil => exact Except.ok.inj h ▸ refl s
  | cons v vs ih =>
    unfold Machine.writeAt at h
    split at h
    next => simp at h
    next hw => exact (writePlace hw).trans (ih h)

theorem readBlock {q : Rq} {inst nleg : Nat} {f : EFmt} {e : Ent} {k c : Nat} {s t : State} {p : Place} {bs : List Byte}
    (h : readBlock q inst nleg f e k c s = .ok (p, bs, t)) : AccessOnly s t := by
  unfold Machine.readBlock at h
  split at h
  · simp [conFatal] at h
  · split at h
    next => simp at h
    next hr =>
      cases h
      exact readPlace hr

end AccessOnly

/-- What an element has stored, and what it has acquired, is performed more widely (R114). -/
theorem MemoryOnly.flush (j : Job) (sc : Scope) (s : State) : MemoryOnly s (flush j sc s) := by
  unfold Machine.flush widenDeps widenElem
  split
  · exact widenWhere ..
  · exact (widenWhere ..).trans (widenWhere ..)

/-- A command's reads, once it has performed what comes before it, are those of its element's instruction. -/
theorem jobRq_flush (s : State) (src : Src) (sc : Scope) (x : Elem) :
    jobRq (curJob s src) (flush (curJob s src) sc (taken s x)) = cmdRq (flush (curJob s src) sc (taken s x)) := by
  obtain ⟨_, _, _, h⟩ := MemoryOnly.flush (curJob s src) sc (taken s x)
  rw [h]
  rfl

end Sys2Proof.Machine
end

section
/-! SUPPORT. pcfg, pgo, pstop and pqry (spec/06_block_tensors.md R105 to R107, spec/10_instr_channels_tiles_memory.md R176 to R179):
Obligations.PumpCommandResults. -/

namespace Sys2Proof.Machine

/-! ## What commands begin with (R113, R114) -/

theorem aligned_ok {p : Word} {n : Nat} (h : p.toNat % n = 0) : aligned p n = .ok () := if_pos h
theorem aligned_trap {p : Word} {n : Nat} (h : p.toNat % n ≠ 0) : aligned p n = trap0 0x023 := if_neg h

section
variable {s : State} {src : Src} {x : Elem} (sc : Scope)

/-- Its element's operations are performed, and what it has acquired. -/
theorem settled_ok (h : Settled s x) : settled (curJob s src) sc (taken s x) = .ok (flush (curJob s src) sc (taken s x)) := by
  unfold settled
  rw [show (curJob s src).e = s.cur from rfl, taken_elem_cur]
  exact if_pos h

theorem settled_waits (h : ¬ Settled s x) : settled (curJob s src) sc (taken s x) = .error .wait := by
  unfold settled
  rw [show (curJob s src).e = s.cur from rfl, taken_elem_cur]
  exact if_neg h

end

/-! ## The turn of the tables of some handles (R103) -/

theorem tablesInTurn_iff {u : State} {i key : Nat} {hs : List Word} :
    tablesInTurn u i hs key = true ↔ ∀ h ∈ hs, u.inTurn (.table (entryOf u i h).1) key = true := List.all_eq_true

theorem actTables_eq (u : State) (i : Nat) (hs : List Word) (key : Nat) : ∃ acted : AMap Arena (Nat × Nat), actTables u i hs key = { u with acted := acted } := by
  refine List.foldlRecOn (motive := fun t => ∃ acted : AMap Arena (Nat × Nat), t = { u with acted := acted }) hs _ ⟨u.acted, rfl⟩ ?_
  rintro _ ⟨_, rfl⟩ _ _
  exact ⟨_, rfl⟩

theorem actTables_elem (u : State) (i : Nat) (hs : List Word) (key : Nat) (e : ERef) : (actTables u i hs key).elem e = u.elem e := by
  obtain ⟨_, h⟩ := actTables_eq u i hs key
  rw [h]; rfl

theorem actTables_tile (u : State) (i : Nat) (hs : List Word) (key : Nat) (y : Nat × Nat) : (actTables u i hs key).tile y = u.tile y := by
  obtain ⟨_, h⟩ := actTables_eq u i hs key
  rw [h]; rfl

/-! ## A run's handles in use (R178) -/

section
variable (g : Word → Nat × Nat) (hs : List Word) (u : State)

theorem uses_foldl_addUse_le (y : Nat × Nat) : (u.tile y).uses ≤ ((hs.foldl (fun t h => addUse t (g h)) u).tile y).uses := by
  refine List.foldlRecOn (motive := fun t => (u.tile y).uses ≤ (State.tile t y).uses) hs _ (Nat.le_refl _) fun t ht h _ => ht.trans ?_
  by_cases hy : y = g h
  · rw [hy, addUse_tile_self]; exact Nat.le_succ _
  · rw [addUse_tile_ne _ hy]

theorem uses_foldl_addUse {h : Word} (hh : h ∈ hs) : (u.tile (g h)).uses < ((hs.foldl (fun t h => addUse t (g h)) u).tile (g h)).uses := by
  induction hs generalizing u with
  | nil => simp at hh
  | cons k ks ih =>
    rw [List.foldl_cons]
    rcases List.mem_cons.mp hh with rfl | hk
    · have := uses_foldl_addUse_le g ks (addUse u (g h)) (g h)
      rw [addUse_tile_self] at this
      exact this
    · have := ih (addUse u (g k)) hk
      by_cases hy : g h = g k
      · rw [hy, addUse_tile_self] at this
        rw [hy]; exact Nat.lt_of_succ_lt this
      · rwa [addUse_tile_ne _ hy] at this

theorem foldl_addUse_elem (e : ERef) : (hs.foldl (fun t h => addUse t (g h)) u).elem e = u.elem e :=
  List.foldlRecOn (motive := fun t => State.elem t e = u.elem e) hs _ rfl fun _ ht _ _ => ht

theorem foldl_dropUse_elem (e : ERef) : (hs.foldl (fun t h => dropUse t (g h)) u).elem e = u.elem e :=
  List.foldlRecOn (motive := fun t => State.elem t e = u.elem e) hs _ rfl fun _ ht _ _ => ht

end

/-! ## Pumps of an element -/

theorem Elem.pump_setPump (x : Elem) (n m : Nat) (p : Pump) : (x.setPump n p).pump m = if n = m then p else x.pump m := kget_kset ..

theorem concluded_pump (s : State) (i : Instr) (t : State) (k : Sink) (r : Res) (n : Nat) :
    ((concluded s i t k r).elem s.cur).pump n = (t.elem s.cur).pump n := by
  rw [Elem.pump, concluded_pumps]; rfl

/-- The part with a pump of an element set, in its tables' turn. -/
def pumpSet (u : State) (e : ERef) (n : Nat) (hs : List Word) (p : Pump) : State :=
  (actTables u e.inst hs (tableKey e.el)).modElem e (fun x => x.setPump n p)

theorem pumpSet_elem (u : State) (e : ERef) (n : Nat) (hs : List Word) (p : Pump) :
    (pumpSet u e n hs p).elem e = (u.elem e).setPump n p := by
  rw [pumpSet, State.elem_modElem_self, actTables_elem]

/-- A command that is over leaves the pump that it set. -/
theorem concluded_pumpSet {s u : State} {x : Elem} (hu : u.elem s.cur = x) (i : Instr) (k : Sink) (r : Res) (n : Nat) (hs : List Word)
    (p : Pump) (m : Nat) :
    ((concluded s i (pumpSet u s.cur n hs p) k r).elem s.cur).pump m = if n = m then p else x.pump m := by
  rw [concluded_pump, pumpSet_elem, hu, Elem.pump_setPump]

/-! ## pcfg (R176, R178) -/

section
variable {f : FmtM} {j : Job} {u : State}

theorem workPcfg_run (h : ((u.elem j.e).pump f.pms.toNat).run = true) : workPcfg f j u = trap0 0x0A2 := by
  simp [workPcfg, h]

variable (h : ((u.elem j.e).pump f.pms.toNat).run = false)
include h

theorem workPcfg_misaligned (ha : j.src.a.toNat % 64 ≠ 0) : workPcfg f j u = trap0 0x023 := by
  unfold workPcfg
  rw [if_neg (ne_true_of_eq_false h), aligned_trap ha]
  rfl

theorem workPcfg_unsettled (ha : j.src.a.toNat % 64 = 0) (hs : settled j .part u = .error .wait) : workPcfg f j u = .error .wait := by
  unfold workPcfg
  rw [if_neg (ne_true_of_eq_false h), aligned_ok ha, hs]

variable {u0 u1 : State} {ws : List Word} (ha : j.src.a.toNat % 64 = 0) (hs : settled j .part u = .ok u0)
  (hr : readWords (jobRq j u0) (dataVA u j.e.inst j.src.a.toNat) 16 u0 = .ok (ws, u1))
include ha hs hr

theorem workPcfg_read : workPcfg f j u =
    if tablesInTurn u1 j.e.inst (pumpHandles ws) (tableKey j.e.el) = false then .error (waitHere (.element j.e) u1)
    else if pumpOk u1 j.e.inst ws then .ok (noRes, (actTables u1 j.e.inst (pumpHandles ws) (tableKey j.e.el)).modElem j.e (fun x =>
      x.setPump f.pms.toNat { x.pump f.pms.toNat with words := ws, c := [0, 0, 0, 0], iter := 0 }))
    else trap0 0x0A3 := by
  unfold workPcfg
  rw [if_neg (ne_true_of_eq_false h), aligned_ok ha, hs]
  dsimp only
  rw [hr]

end


/-! ## pgo (R107, R178) -/

/-- What a run is started from (R178). -/
def runWords (p : Pump) (a : Word) : List Word := if a = 0 then p.words else PumpCfg.setB3 p.words a.toNat

/-- The run of a pump as it starts (R107, R178). -/
def startedPump (u : State) (j : Job) (ws : List Word) (ct : List Byte) (no : Nat) : Pump :=
  { words := ws, c := [0, 0, 0, 0], iter := 0, run := true, done := false, waitf := false, fin := false
    slot := j.slot, ct := ct, before := (u.elem j.e).outstanding, hb := before u j.e, no := no }

/-- The part as a run starts, its handles in use. -/
def usesAdded (u1 u : State) (i : Nat) (hs : List Word) : State :=
  hs.foldl (fun t k => addUse t (entryOf u i k)) { u1 with fresh := u1.fresh + 1 }

section
variable {f : FmtM} {j : Job} {u : State}

theorem workPgo_run (h : ((u.elem j.e).pump f.pms.toNat).run = true) : workPgo f j u = trap0 0x0A2 := by
  simp [workPgo, h]

variable (h : ((u.elem j.e).pump f.pms.toNat).run = false)
include h

theorem workPgo_count (ha : 65536 < j.src.a.toNat) : workPgo f j u = trap0 0x0A3 := by
  unfold workPgo
  exact (if_neg (ne_true_of_eq_false h)).trans (if_pos ha)

variable (ha : j.src.a.toNat ≤ 65536) {ws : List Word} (hws : runWords ((u.elem j.e).pump f.pms.toNat) j.src.a = ws)
include ha hws

theorem workPgo_waits (ht : tablesInTurn u j.e.inst (pumpHandles ws) (tableKey j.e.el) = false) : workPgo f j u = .error .wait := by
  subst hws
  unfold workPgo
  exact ((if_neg (ne_true_of_eq_false h)).trans (if_neg (Nat.not_lt.mpr ha))).trans (if_pos ht)

variable (ht : tablesInTurn u j.e.inst (pumpHandles ws) (tableKey j.e.el) = true)
include ht

theorem workPgo_stale (hl : ∃ k ∈ pumpHandles ws, live u j.e.inst k = false) : workPgo f j u = trap0 0x020 := by
  subst hws
  unfold workPgo
  refine (((if_neg (ne_true_of_eq_false h)).trans (if_neg (Nat.not_lt.mpr ha))).trans (if_neg ?_)).trans (if_pos ?_)
  · exact ne_false_of_eq_true ht
  · obtain ⟨k, hk, hkl⟩ := hl
    exact List.any_eq_true.mpr ⟨k, hk, by rw [hkl]; rfl⟩

variable (hl : ∀ k ∈ pumpHandles ws, live u j.e.inst k = true)
include hl

theorem workPgo_bad (hp : pumpOk u j.e.inst ws = false) : workPgo f j u = trap0 0x0A3 := by
  subst hws
  unfold workPgo
  refine ((((if_neg (ne_true_of_eq_false h)).trans (if_neg (Nat.not_lt.mpr ha))).trans (if_neg ?_)).trans (if_neg ?_)).trans (if_pos hp)
  · exact ne_false_of_eq_true ht
  · exact fun hf => by
      obtain ⟨k, hk, hkl⟩ := List.any_eq_true.mp hf
      simp [hl k hk] at hkl

variable (hp : pumpOk u j.e.inst ws = true)
include hp

theorem workPgo_table : workPgo f j u = (codeTable j ws u).map (fun r =>
    (noRes, (actTables (usesAdded r.2 u j.e.inst (pumpHandles ws)) j.e.inst (pumpHandles ws) (tableKey j.e.el)).modElem j.e (fun x =>
      x.setPump f.pms.toNat { startedPump u j ws r.1 r.2.fresh with before := x.outstanding }))) := by
  subst hws
  unfold workPgo
  refine ((((if_neg (ne_true_of_eq_false h)).trans (if_neg (Nat.not_lt.mpr ha))).trans (if_neg ?_)).trans (if_neg ?_)).trans ((if_neg ?_).trans ?_)
  · exact ne_false_of_eq_true ht
  · exact fun hf => by
      obtain ⟨k, hk, hkl⟩ := List.any_eq_true.mp hf
      simp [hl k hk] at hkl
  · exact ne_false_of_eq_true hp
  · change (match codeTable j (runWords ((u.elem j.e).pump f.pms.toNat) j.src.a) u with | .error e => _ | .ok (ct, s1) => _) = _
    cases codeTable j (runWords ((u.elem j.e).pump f.pms.toNat) j.src.a) u <;> rfl

end


/-! ### The code table (R105, R107) -/

section
variable {j : Job} {ws : List Word} {u : State}

theorem codeTable_plain (h : PumpCfg.mode ws ≠ 3) : codeTable j ws u = .ok ([], u) := if_pos h

variable (h : PumpCfg.mode ws = 3)
include h

theorem codeTable_misaligned (ha : (nthW ws 10).toNat % 64 ≠ 0) : codeTable j ws u = trap0 0x0C9 :=
  (if_neg (not_not.mpr h)).trans (if_pos ha)

theorem codeTable_read (ha : (nthW ws 10).toNat % 64 = 0) (ho : (u.elem j.e).outstanding = []) {ct : List Byte} {u1 : State}
    (hr : readVA (jobRq j u) (dataVA u j.e.inst (nthW ws 10).toNat) (264 + 8 * 256) u = .ok (ct, u1)) :
    codeTable j ws u = if codesOk ct then .ok (ct, u1) else trap0 0x0C9 := by
  unfold codeTable
  rw [if_neg (not_not.mpr h), if_neg (not_not.mpr ha), if_neg (not_not.mpr ho), hr]

end

/-! ## pstop (R178) -/

theorem dropJournal_elem (u : State) (r : Req) (e : ERef) : (dropJournal u r).elem e = u.elem e := by
  unfold dropJournal
  split <;> rfl

theorem endPump_elem (u : State) (e : ERef) (n : Nat) (p : Pump) : (endPump u e n p).elem e = (u.elem e).setPump n p := by
  have h : (endPump u e n p).elem e =
      (((pumpHandles p.words).foldl (fun t h => dropUse t (entryOf (dropJournal u (.pump e n)) e.inst h))
        (dropJournal u (.pump e n))).modElem e (fun x => x.setPump n p)).elem e := rfl
  rw [h, State.elem_modElem_self, foldl_dropUse_elem, dropJournal_elem]

section
variable {f : FmtM} {j : Job} {u : State}

theorem workPstop_idle (h : ((u.elem j.e).pump f.pms.toNat).run = false) : workPstop f j u = .ok (noRes, u) := by
  unfold workPstop
  exact if_neg (ne_true_of_eq_false h)

variable (h : ((u.elem j.e).pump f.pms.toNat).run = true)
include h

theorem workPstop_waits
    (ht : tablesInTurn u j.e.inst (pumpHandles ((u.elem j.e).pump f.pms.toNat).words) (tableKey j.e.el) = false) :
    workPstop f j u = .error .wait := by
  unfold workPstop
  exact (if_pos h).trans (if_pos ht)

theorem workPstop_stops
    (ht : tablesInTurn u j.e.inst (pumpHandles ((u.elem j.e).pump f.pms.toNat).words) (tableKey j.e.el) = true) :
    workPstop f j u = .ok (noRes, actTables
      (endPump u j.e f.pms.toNat { (u.elem j.e).pump f.pms.toNat with run := false, waitf := false, fin := false }) j.e.inst
      (pumpHandles ((u.elem j.e).pump f.pms.toNat).words) (tableKey j.e.el)) := by
  unfold workPstop
  exact (if_pos h).trans (if_neg (ne_false_of_eq_true ht))

end

/-! ## pqry (R179) -/

/-- The word of a pump's state: its flags and its mode, the rest 0. -/
theorem pumpState_bits (run hold waitf done : Bool) {mode : Nat} (h : mode < 4) :
    let w : Word := wd (run.toNat * 2 ^ 31 + hold.toNat * 2 ^ 30 + waitf.toNat * 2 ^ 29 + done.toNat * 2 ^ 28 + mode * 2 ^ 26)
    bit w 31 = run ∧ bit w 30 = hold ∧ bit w 29 = waitf ∧ bit w 28 = done ∧ bits w 27 26 = mode ∧ bits w 25 0 = 0 := by
  have hall : ∀ (run hold waitf done : Bool) (mode : Fin 4),
      let w : Word := wd (run.toNat * 2 ^ 31 + hold.toNat * 2 ^ 30 + waitf.toNat * 2 ^ 29 + done.toNat * 2 ^ 28 + mode.val * 2 ^ 26)
      bit w 31 = run ∧ bit w 30 = hold ∧ bit w 29 = waitf ∧ bit w 28 = done ∧ bits w 27 26 = mode.val ∧ bits w 25 0 = 0 := by decide
  exact hall run hold waitf done ⟨mode, h⟩

theorem mode_lt (ws : List Word) : PumpCfg.mode ws < 4 := Nat.mod_lt _ (by decide)

theorem pumpHeld_iff {s : State} {e : ERef} {n : Nat} : pumpHeld s e n = true ↔
    ∃ a ∈ s.accs, a.req = .pump e n ∧ ((∃ h, a.st = .held h) ∨ ∃ c, a.st = .fault c) := by
  simp only [pumpHeld, List.any_eq_true, Bool.and_eq_true, beq_iff_eq]
  refine exists_congr fun a => and_congr_right fun _ => and_congr_right fun _ => ?_
  cases a.st <;> simp

section
variable (s : State) (e : ERef) (n : Nat)

theorem pqryValue_counter {sel : Nat} (h : sel ≤ 3) : pqryValue s e n sel = wd (((s.elem e).pump n).c.getD sel 0) := if_pos h

theorem pqryValue_state : pqryValue s e n 4 = wd (((s.elem e).pump n).run.toNat * 2 ^ 31 + (pumpHeld s e n).toNat * 2 ^ 30 +
    ((s.elem e).pump n).waitf.toNat * 2 ^ 29 + ((s.elem e).pump n).done.toNat * 2 ^ 28 + PumpCfg.mode ((s.elem e).pump n).words * 2 ^ 26) :=
  rfl

theorem pqryValue_bound : pqryValue s e n 5 = wd (PumpCfg.bound ((s.elem e).pump n).words 3) := rfl

theorem pqryValue_address : ((pqryValue s e n 6).toNat : Int) = Int.emod
    ((if PumpCfg.bk ((s.elem e).pump n).words = 2 then nthW ((s.elem e).pump n).words 2 else nthW ((s.elem e).pump n).words 1).toNat +
      pumpOff ((s.elem e).pump n)) (2 ^ 32) := by
  rw [show pqryValue s e n 6 = BitVec.ofInt 32 (_ + pumpOff ((s.elem e).pump n)) from rfl, BitVec.toNat_ofInt,
    Int.toNat_of_nonneg (Int.emod_nonneg _ (by decide))]
  rfl

end

/-! ## The instructions -/

section
variable {s : State} {f : FmtM} {src : Src} {popped : List (Nat × Token)} {x : Elem}

theorem exec_pcfg (h : ReadsM s f src popped x) :
    exec (.pcfg f) s = .next (issueWork (curWait s (.pcfg f) src popped) s.cur (sinkM f) (workPcfg f) (taken s x)) :=
  runM_eq_issue (k := sinkM f) h

theorem exec_pgo (h : ReadsM s f src popped x) :
    exec (.pgo f) s = .next (issueWork (curWait s (.pgo f) src popped) s.cur (sinkM f) (workPgo f) (taken s x)) :=
  runM_eq_issue (k := sinkM f) h

theorem exec_pstop (h : ReadsM s f src popped x) :
    exec (.pstop f) s = .next (issueWork (curWait s (.pstop f) src popped) s.cur (sinkM f) (workPstop f) (taken s x)) :=
  runM_eq_issue (k := sinkM f) h

theorem exec_pqry (h : ReadsM s f src popped x) :
    exec (.pqry f) s = .next (issueWork (curWait s (.pqry f) src popped) s.cur (sinkM f) (workPqry f) (taken s x)) :=
  runM_eq_issue (k := sinkM f) h

end

section
variable {s : State} {f : FmtM} {src : Src} {popped : List (Nat × Token)} {x : Elem}

/-- An instruction whose work waits as it issues. -/
theorem waits_of_issue {i : Instr} {k : Sink} {w : Work}
    (he : exec i s = .next (issueWork (curWait s i src popped) s.cur k w (taken s x)))
    (hw : w (curJob s src) (taken s x) = .error .wait) : Waits s i src popped x :=
  he.trans (congrArg _ (issue_waits hw))

theorem taken_pump (n : Nat) : ((taken s x).elem (curJob s src).e).pump n = x.pump n := congrArg (Elem.pump · n) (taken_elem_cur s x)

/-- What a command's read finds: tables as they stood, and its element as it was. -/
theorem read_after_flush {sc : Scope} {q : Rq} {va n : Nat} {rs : List Word} {u : State}
    (hr : readWords q va n (flush (curJob s src) sc (taken s x)) = .ok (rs, u)) : AccessOnly (taken s x) u :=
  (MemoryOnly.flush ..).accessOnly.trans (.readWords hr)

theorem waitHere_eq {u : State} (r : Req) (h : u.tape = none) : waitHere r u = .wait := by
  rw [waitHere, h]

/-- A descriptor loaded. -/
theorem pcfg_loads (h : ReadsM s f src popped x) {rs : List Word} {u : State} (hu : u.elem s.cur = x)
    (hw : workPcfg f (curJob s src) (taken s x) = .ok (noRes, (actTables u s.cur.inst (pumpHandles rs) (tableKey s.cur.el)).modElem s.cur
      (fun x => x.setPump f.pms.toNat { x.pump f.pms.toNat with words := rs, c := [0, 0, 0, 0], iter := 0 }))) :
    ∃ t, exec (.pcfg f) s = .next t ∧ ∀ m, (t.elem s.cur).pump m = if f.pms.toNat = m then
      { x.pump f.pms.toNat with words := rs, c := [0, 0, 0, 0], iter := 0 } else x.pump m := by
  refine ⟨_, gives_of_issue (exec_pcfg h) hw, fun m => ?_⟩
  rw [concluded_pump, State.elem_modElem_self, actTables_elem, hu, Elem.pump_setPump]

/-- A run started. -/
theorem pgo_starts (h : ReadsM s f src popped x) {ws : List Word} {ct : List Byte} {u : State} (hu : AccessOnly (taken s x) u)
    (hw : workPgo f (curJob s src) (taken s x) = .ok (noRes, (actTables (usesAdded u (taken s x) s.cur.inst (pumpHandles ws)) s.cur.inst
      (pumpHandles ws) (tableKey s.cur.el)).modElem s.cur (fun y => y.setPump f.pms.toNat
        { startedPump (taken s x) (curJob s src) ws ct u.fresh with before := y.outstanding }))) :
    ∃ t, exec (.pgo f) s = .next t ∧ (∀ m, (t.elem s.cur).pump m = if f.pms.toNat = m then
        { startedPump (taken s x) (curJob s src) ws ct u.fresh with before := x.outstanding } else x.pump m) ∧
      ∀ k ∈ pumpHandles ws, (s.tile (entryOf s s.cur.inst k)).uses < (t.tile (entryOf s s.cur.inst k)).uses := by
  refine ⟨_, gives_of_issue (exec_pgo h) hw, fun m => ?_, fun k hk => ?_⟩
  · have he : (usesAdded u (taken s x) s.cur.inst (pumpHandles ws)).elem s.cur = x :=
      (foldl_addUse_elem ..).trans ((hu.elem s.cur).trans (taken_elem_cur s x))
    rw [concluded_pump, State.elem_modElem_self, actTables_elem, he, Elem.pump_setPump]
  · have ht := uses_foldl_addUse (entryOf (taken s x) s.cur.inst) (pumpHandles ws) { u with fresh := u.fresh + 1 } hk
    rw [show State.tile { u with fresh := u.fresh + 1 } (entryOf (taken s x) s.cur.inst k) = s.tile (entryOf s s.cur.inst k) from
      hu.tile _] at ht
    rw [concluded_tile]
    refine ht.trans_eq (congrArg Tile.uses ?_)
    exact (actTables_tile (usesAdded u (taken s x) s.cur.inst (pumpHandles ws)) _ _ _ (entryOf s s.cur.inst k)).symm

/-- A run stopped. -/
theorem pstop_stops (h : ReadsM s f src popped x) (hp : (x.pump f.pms.toNat).run = true → tablesInTurn s s.cur.inst
      (pumpHandles (x.pump f.pms.toNat).words) (tableKey s.cur.el) = true) :
    ∃ t, exec (.pstop f) s = .next t ∧ ((t.elem s.cur).pump f.pms.toNat).run = false ∧
      ((t.elem s.cur).pump f.pms.toNat).c = (x.pump f.pms.toNat).c ∧ ((t.elem s.cur).pump f.pms.toNat).done = (x.pump f.pms.toNat).done ∧
      ((x.pump f.pms.toNat).run = false → t.tiles = s.tiles) := by
  have hpump := taken_pump (s := s) (src := src) (x := x) f.pms.toNat
  cases hr : (x.pump f.pms.toNat).run with
  | false =>
    have hw := workPstop_idle (f := f) (j := curJob s src) (u := taken s x) (hpump ▸ hr)
    refine ⟨_, gives_of_issue (exec_pstop h) hw, ?_⟩
    rw [concluded_pump, taken_elem_cur]
    exact ⟨hr, rfl, rfl, fun _ => concluded_tiles ..⟩
  | true =>
    have hw := workPstop_stops (f := f) (j := curJob s src) (u := taken s x) (hpump ▸ hr) (by rw [hpump]; exact hp hr)
    rw [hpump] at hw
    refine ⟨_, gives_of_issue (exec_pstop h) hw, ?_⟩
    rw [concluded_pump, actTables_elem, show (curJob s src).e = s.cur from rfl, endPump_elem, Elem.pump_setPump, if_pos rfl]
    exact ⟨rfl, rfl, rfl, by simp⟩

end

/-- Settles O35: each trap, wait and result by the lemma on its instruction's work, which runs as the instruction issues. -/
theorem pumpCommandResults : Obligations.PumpCommandResults := by
  intro s f src popped x h e n p s0 ws inTurn
  have hcfg := exec_pcfg h
  have hgo := exec_pgo h
  have hpump : ((taken s x).elem (curJob s src).e).pump n = p := taken_pump n
  have run {b : Bool} (hp : p.run = b) : (((taken s x).elem (curJob s src).e).pump f.pms.toNat).run = b := hpump ▸ hp
  have hws : runWords (((taken s x).elem (curJob s src).e).pump f.pms.toNat) (curJob s src).src.a = ws := hpump ▸ rfl
  have turns {u : State} {rs : List Word} (ht : inTurn u rs) : tablesInTurn u e.inst (pumpHandles rs) (tableKey e.el) = true :=
    tablesInTurn_iff.mpr ht
  have later {u : State} {rs : List Word} (ht : ¬ inTurn u rs) : tablesInTurn u e.inst (pumpHandles rs) (tableKey e.el) = false := by
    rw [← Bool.not_eq_true, tablesInTurn_iff]; exact ht
  have read {rs : List Word} {u : State} (hp : p.run = false) (ha : src.a.toNat % 64 = 0) (hs : Settled s x)
      (hr : readWords (cmdRq s0) (dataVA s e.inst src.a.toNat) 16 s0 = .ok (rs, u)) :=
    workPcfg_read (j := curJob s src) (run hp) ha (settled_ok .part hs) (by rw [jobRq_flush]; exact hr)
  refine ⟨fun i hi hp => ?_, fun hp ha => traps_of_issue hcfg h (by decide) (workPcfg_misaligned (j := curJob s src) (run hp) ha),
    fun hp ha hs => waits_of_issue hcfg (workPcfg_unsettled (j := curJob s src) (run hp) ha (settled_waits .part hs)),
    fun rs u hp ha hs hr ht hok => ?_, fun rs u hp ha hs hr => ⟨fun htape ht => ?_, fun ht hok => ?_⟩, ?_⟩
  · simp only [List.mem_cons, List.not_mem_nil, or_false] at hi
    rcases hi with rfl | rfl
    · exact traps_of_issue hcfg h (by decide) (workPcfg_run (j := curJob s src) (run hp))
    · exact traps_of_issue hgo h (by decide) (workPgo_run (j := curJob s src) (run hp))
  · have hw := (read hp ha hs hr).trans ((if_neg (ne_false_of_eq_true (turns ht))).trans (if_pos hok))
    obtain ⟨t, ht, hpumps⟩ := pcfg_loads h (((read_after_flush hr).elem s.cur).trans (taken_elem_cur s x)) hw
    have hn := (hpumps n).trans (if_pos rfl)
    exact ⟨t, ht, by rw [hn], by rw [hn], by rw [hn]; exact hp, fun m hm => (hpumps m).trans (if_neg hm.symm)⟩
  · have hw := (read hp ha hs hr).trans (if_pos (later ht))
    rw [waitHere_eq _ ((read_after_flush hr).1 htape)] at hw
    exact waits_of_issue hcfg hw
  · exact traps_of_issue hcfg h (by decide)
      ((read hp ha hs hr).trans ((if_neg (ne_false_of_eq_true (turns ht))).trans (if_neg (ne_true_of_eq_false hok))))
  intro turn
  have table (hp : p.run = false) (ha : src.a.toNat ≤ 65536) (ht : turn) (hl : ∀ h ∈ pumpHandles ws, live s e.inst h = true)
      (hok : pumpOk s e.inst ws = true) := workPgo_table (j := curJob s src) (u := taken s x) (run hp) ha hws (turns ht) hl hok
  refine ⟨fun hp ha => traps_of_issue hgo h (by decide) (workPgo_count (j := curJob s src) (run hp) ha),
    fun hp ha ht => waits_of_issue hgo (workPgo_waits (j := curJob s src) (u := taken s x) (run hp) ha hws (later ht)),
    fun hp ha ht hl hok => traps_of_issue hgo h (by decide)
      (workPgo_bad (j := curJob s src) (u := taken s x) (run hp) ha hws (turns ht) hl hok),
    fun hp ha hok hl ht hm => ?_,
    fun hp ha ht hl => traps_of_issue hgo h (by decide)
      (workPgo_stale (j := curJob s src) (u := taken s x) (run hp) ha hws (turns ht) hl),
    fun ct u hp ha hok hl ht hm ha64 ho hr => ?_, fun hp ha hok hl ht hm ha64 => ?_, fun hp ht => ?_, fun ht => ?_, ?_⟩
  · have hw := table hp ha ht hl hok
    rw [codeTable_plain hm] at hw
    obtain ⟨t, htx, hpumps, huses⟩ := pgo_starts h (.refl _) hw
    have hn := (hpumps n).trans (if_pos rfl)
    exact ⟨t, htx, by rw [hn]; rfl, by rw [hn]; rfl, by rw [hn]; rfl, by rw [hn]; rfl, by rw [hn], huses,
      fun m hm => (hpumps m).trans (if_neg hm.symm)⟩
  · have hw := table hp ha ht hl hok
    rw [codeTable_read (j := curJob s src) (u := taken s x) hm ha64 (by rw [show (curJob s src).e = s.cur from rfl, taken_elem_cur]; exact ho) hr] at hw
    refine ⟨fun hc => ?_, fun hc => ?_⟩
    · rw [if_neg (ne_true_of_eq_false hc)] at hw
      exact traps_of_issue hgo h (by decide) hw
    · rw [if_pos hc] at hw
      obtain ⟨t, htx, hpumps, -⟩ := pgo_starts h (.readVA hr) hw
      have hn := (hpumps n).trans (if_pos rfl)
      exact ⟨t, htx, by rw [hn]; rfl, by rw [hn]; rfl, by rw [hn]; rfl, by rw [hn]; rfl⟩
  · have hw := table hp ha ht hl hok
    rw [codeTable_misaligned hm ha64] at hw
    exact traps_of_issue hgo h (by decide) hw
  · exact waits_of_issue (exec_pstop h) (workPstop_waits (j := curJob s src) (u := taken s x) (run hp)
      (by rw [hpump]; exact later ht))
  · exact pstop_stops h fun hr => turns (ht hr)
  · refine ⟨word (pqryValue (taken s x) s.cur n f.aux.toNat), gives_of_issue (exec_pqry h) rfl, rfl, ?_⟩
    have hp : ((taken s x).elem s.cur).pump n = p := hpump
    refine ⟨fun ha => ?_, fun ha => ?_, fun ha => ?_, fun ha => ?_⟩
    · exact (pqryValue_counter _ _ _ ha).trans (by rw [hp]; rfl)
    · obtain ⟨hrun, hheld, hwaitf, hdone, hmode, hrest⟩ := pumpState_bits p.run (pumpHeld (taken s x) s.cur n) p.waitf p.done (mode_lt p.words)
      have hv := pqryValue_state (taken s x) s.cur n
      rw [hp] at hv
      rw [show f.aux.toNat = 4 by rw [ha]; rfl, hv]
      exact ⟨hrun, (iff_of_eq (congrArg (· = true) hheld)).trans pumpHeld_iff, hwaitf, hdone, hmode, hrest⟩
    · rw [ha]
      exact (pqryValue_bound ..).trans (by rw [hp]; rfl)
    · rw [ha]
      refine (pqryValue_address ..).trans ?_
      rw [hp]
      rfl

end Sys2Proof.Machine
end

section
/-! SUPPORT. The products of a contraction (spec/06_block_tensors.md R94, spec/07_instr_contraction_tiles.md R129 to R131):
Obligations.ContractionProductResults. -/

namespace Sys2Proof.Machine

/-! ## Records of contractions (R133) -/

theorem find?_replaceFirst {α : Type} {p : α → Bool} {f : α → α} {xs : List α} {x : α} (h : xs.find? p = some x) (hf : p (f x) = true) :
    (replaceFirst p f xs).find? p = some (f x) := by
  induction xs with
  | nil => simp at h
  | cons y ys ih =>
    rw [List.find?_cons] at h
    rw [replaceFirst]
    split at h
    next hy =>
      obtain rfl := Option.some.inj h
      rw [if_pos hy, List.find?_cons, hf]
    next hy =>
      rw [if_neg (ne_true_of_eq_false hy), List.find?_cons, hy]
      exact ih h

/-- The record of a contraction that has been changed. -/
theorem liveCon_modCon {s : State} {r : RRef} {seq : Nat} {c : Contraction} {f : Contraction → Contraction}
    (h : liveCon (s.region r) seq = some c) (hf : (f c).seq = seq) : liveCon ((modCon s r seq f).region r) seq = some (f c) := by
  rw [modCon, State.region_modRegion, if_pos rfl, liveCon]
  dsimp only
  rw [List.reverse_reverse]
  exact find?_replaceFirst h (by simp [hf])

theorem liveCon_seq {x : Region} {seq : Nat} {c : Contraction} (h : liveCon x seq = some c) : c.seq = seq := by
  simpa using List.find?_some h

theorem AccessOnly.region {s t : State} (h : AccessOnly s t) (r : RRef) : t.region r = s.region r := by
  rw [State.region, h.regions]; rfl

/-! ## Work with no hold behind it (R110, R267) -/

theorem not_accPending {s : State} {r : Req} (h : ∀ a ∈ s.accs, a.req ≠ r) : accPending s r = false := by
  rw [accPending, List.any_eq_false]
  exact fun a ha => by simpa using h a ha

theorem graphUp_of_up {s : State} {inst : Nat} (h : Up s inst) : graphUp s inst = true := by
  simp [graphUp, h.1, h.2]

/-- A step of a computation that may stop. -/
theorem ok_bind {α β : Type} {x : Except Stop α} {a : α} (h : x = .ok a) (f : α → Except Stop β) : (x >>= f) = f a := by rw [h]; rfl

/-! ## A product (R129) -/

/-- The record once product k of its queue is written (R130, R133). -/
def retireProd (p : Prod) (exc : Bool) (c : Contraction) : Contraction :=
  { c with
    queue := c.queue.filter (fun x => x.k != p.k)
    writing := c.writing.filter (· != p.k)
    retired := c.retired + 1
    written := if c.written.contains p.c then c.written else p.c :: c.written
    exc := c.exc || exc
    xk := if exc then some (match c.xk with
        | some m => min m p.k
        | none => p.k) else c.xk }

theorem mem_written_retireProd (p : Prod) (exc : Bool) (c : Contraction) : p.c ∈ (retireProd p exc c).written := by
  unfold retireProd
  dsimp only
  split
  next h => simpa using h
  next => exact List.mem_cons_self

/-- The lowest product that raised (R133). -/
theorem retireProd_xk (p : Prod) (exc : Bool) (c : Contraction) :
    (retireProd p exc c).xk = if exc then some (min (c.xk.getD p.k) p.k) else c.xk := by
  unfold retireProd
  cases exc
  · rfl
  · cases c.xk <;> simp

section
variable (c : Contraction) (p : Prod) (fm : EFmt × EFmt × EFmt) (na nb : Nat) (ea eb ec : Ent) (ba bb bc : List Byte)

/-- Where a logical position of the C block stands (R96). -/
def prodPlace (x : List Nat) : Nat := elemPos ec.lay (ec.storeds (ConDesc.nc c.desc)) x

/-- A logical position's value before the product: its old one, or +0 (R129). -/
def prodOld (x : List Nat) : Word :=
  if ConDesc.acc c.desc || c.written.contains p.c then wd (codeAt 32 bc (prodPlace c ec x)) else 0

theorem prodOld_eq (x : List Nat) : prodOld c p ec bc x =
    if ConDesc.acc c.desc = true ∨ p.c ∈ c.written then wd (codeAt 32 bc (prodPlace c ec x)) else 0 := by
  simp [prodOld]

/-- The element of A, and of B, that step i of a position's reduction takes (R129). -/
def prodRow (x : List Nat) (i : Nat) : Option Nat := blockAt fm.1 ea na ba ((List.range na).map
  (legIndex ((ConDesc.pairs c.desc).map Prod.fst) ((ConDesc.outs c.desc).map (fun o => if o.1 then none else some o.2))
    (unflatten (pairDims c.desc ea eb) i) x))

def prodCol (x : List Nat) (i : Nat) : Option Nat := blockAt fm.2.1 eb nb bb ((List.range nb).map
  (legIndex ((ConDesc.pairs c.desc).map Prod.snd) ((ConDesc.outs c.desc).map (fun o => if o.1 then some o.2 else none))
    (unflatten (pairDims c.desc ea eb) i) x))

/-- A position's value after the product, and whether its reduction raised (R129). -/
def prodValue (x : List Nat) : Word × Bool :=
  dotreduce fm.1 fm.2.1 (prodOld c p ec bc x) (prodRow c fm na ea eb ba x) (prodCol c fm nb ea eb bb x) (prodN (pairDims c.desc ea eb))

end

section
variable {s s6 s7 s8 u : State} {r : RRef} {c : Contraction} {p : Prod} {fm : EFmt × EFmt × EFmt} {ha hb : Hdr} {ea eb ec : Ent}
  {pa pb pc : Place} {ba bb bc : List Byte}

/-- A product whose reads find sound headers, entries and blocks. -/
theorem productOne_eq (hfm : conFmts c.desc = some fm)
    (h1 : readHdr (prodRq s r c.seq p.k c.slot (kget r.reg c.owners p.c)) (descVA s r.inst c 1) s = .ok (ha, s))
    (h2 : readHdr (prodRq s r c.seq p.k c.slot (kget r.reg c.owners p.c)) (descVA s r.inst c 2) s = .ok (hb, s))
    (h3 : readEnt (prodRq s r c.seq p.k c.slot (kget r.reg c.owners p.c)) (descVA s r.inst c 1) p.i s = .ok (ea, s))
    (h4 : readEnt (prodRq s r c.seq p.k c.slot (kget r.reg c.owners p.c)) (descVA s r.inst c 2) p.j s = .ok (eb, s))
    (h5 : readEnt (prodRq s r c.seq p.k c.slot (kget r.reg c.owners p.c)) (descVA s r.inst c 3) p.c s = .ok (ec, s))
    (k1 : checkHdr c.rule p.k p.c ha = .ok ()) (k2 : checkHdr c.rule p.k p.c hb = .ok ())
    (k3 : checkEnt s r.inst c.rule ha.nleg fm.1 ea p.k (some p.c) = .ok ())
    (k4 : checkEnt s r.inst c.rule hb.nleg fm.2.1 eb p.k (some p.c) = .ok ())
    (k5 : checkEnt s r.inst c.rule (ConDesc.nc c.desc) fm.2.2 ec p.k (some p.c) = .ok ())
    (b1 : readBlock (prodRq s r c.seq p.k c.slot (kget r.reg c.owners p.c)) r.inst ha.nleg fm.1 ea p.k p.c s = .ok (pa, ba, s6))
    (b2 : readBlock (prodRq s r c.seq p.k c.slot (kget r.reg c.owners p.c)) r.inst hb.nleg fm.2.1 eb p.k p.c s6 = .ok (pb, bb, s7))
    (b3 : readBlock (prodRq s r c.seq p.k c.slot (kget r.reg c.owners p.c)) r.inst (ConDesc.nc c.desc) fm.2.2 ec p.k p.c s7 =
      .ok (pc, bc, s8))
    (hw : writeAt (prodRq s r c.seq p.k c.slot (kget r.reg c.owners p.c)) pc ((positions (ec.dims (ConDesc.nc c.desc))).map
      (fun x => (prodPlace c ec x, (prodValue c p fm ha.nleg hb.nleg ea eb ec ba bb bc x).1))) s8 = .ok u) :
    productOne r c p s = .ok (modCon u r c.seq (retireProd p ((positions (ec.dims (ConDesc.nc c.desc))).any
      (fun x => (prodValue c p fm ha.nleg hb.nleg ea eb ec ba bb bc x).2)))) := by
  unfold productOne
  rw [hfm]
  refine (ok_bind h1 _).trans <| (ok_bind h2 _).trans <| (ok_bind h3 _).trans <| (ok_bind h4 _).trans <| (ok_bind h5 _).trans <|
    (ok_bind k1 _).trans <| (ok_bind k2 _).trans <| (ok_bind k3 _).trans <| (ok_bind k4 _).trans <| (ok_bind k5 _).trans <|
    (ok_bind b1 _).trans <| (ok_bind b2 _).trans <| (ok_bind b3 _).trans <|
    (ok_bind ((congrArg (fun v => writeAt _ pc v s8) List.map_map).trans hw) _).trans ?_
  exact congrArg (fun b => Except.ok (modCon u r c.seq (retireProd p b))) List.any_map

/-- The product that its turn has come to, and that may go on. -/
theorem productReady_some {k : Nat} (hf : c.queue.find? (fun p => p.k == k) = some p) (hl : ∀ y ∈ c.queue, y.c = p.c → k ≤ y.k) :
    productReady c k = some p := by
  rw [productReady, hf]
  refine if_neg ?_
  simp only [List.any_eq_true, Bool.and_eq_true, beq_iff_eq, decide_eq_true_eq, not_exists, not_and, Nat.not_lt]
  exact hl

theorem productReady_none {k : Nat} (hf : c.queue.find? (fun p => p.k == k) = some p) (hl : ∃ y ∈ c.queue, y.c = p.c ∧ y.k < k) :
    productReady c k = none := by
  rw [productReady, hf]
  refine if_pos ?_
  simpa only [List.any_eq_true, Bool.and_eq_true, beq_iff_eq, decide_eq_true_eq] using hl

theorem productUp_of_up {k : Nat} (h0 : c.state = 0) (he : c.ending = none) (hu : Up s r.inst) : productUp s r c k = true := by
  simp [productUp, h0, he, graphUp_of_up hu]

/-- A product whose work is over. -/
theorem exec_product {k seq : Nat} {t : State} (hc : liveCon (s.region r) seq = some c) (hr : productReady c k = some p)
    (ha : ∀ a ∈ s.accs, a.req ≠ .product r seq k) (hj : khas s.journals (.product r seq k) = false) (hup : productUp s r c k = true)
    (he : c.ending = none) (hw : productOne r c p s = .ok t) : exec (.contractionProduct r seq k) s = .next t := by
  show execContractionProduct r seq k s = _
  have hwork : workOf (.product r seq k) (fun u => (productOne r c p u).map (fun t => ((), t))) s = .ok ((), t) := by
    rw [workOf_new _ hj]
    exact newWork_ok (by rw [hw]; rfl)
  unfold execContractionProduct
  simp only [hc, hr, not_accPending ha, hup, and_self, if_true, hwork, he, Option.isSome_none, Bool.false_eq_true, false_and, if_false]

end

/-- Settles O43: the product's equation, and what its reads and writes leave of the contraction's record. -/
theorem contractionProductResults : Obligations.ContractionProductResults := by
  intro s r seq k c hc
  refine ⟨fun p hf hl => ?_, ?_⟩
  · rintro ⟨t, ht⟩
    have ht : execContractionProduct r seq k s = .next t := ht
    unfold execContractionProduct at ht
    simp only [hc, productReady_none hf hl] at ht
    exact notNow_ne_next _ _ ht
  · intro p fm ha hb ea eb ec pa pb pc ba bb bc s6 s7 s8 u hf hl h0 he hacc hj hup hfm q at_ nc h1 h2 h3 h4 h5 sound fits k1 k2 k3 k4 k5
      b1 b2 b3 red place old row col value xs hw
    have hold : old = prodOld c p ec bc := funext fun x => (prodOld_eq c p ec bc x).symm
    have hval : value = prodValue c p fm ha.nleg hb.nleg ea eb ec ba bb bc := by
      show (fun xs => dotreduce fm.1 fm.2.1 (old xs) (row xs) (col xs) (prodN red)) = _
      rw [hold]
      rfl
    rw [hval] at hw
    have hprod := productOne_eq hfm h1 h2 h3 h4 h5 k1 k2 k3 k4 k5 b1 b2 b3 hw
    have hframe : AccessOnly s u := (((AccessOnly.readBlock b1).trans (.readBlock b2)).trans (.readBlock b3)).trans (.writeAt hw)
    have hlive : liveCon (u.region r) c.seq = some c := by rw [hframe.region, liveCon_seq hc]; exact hc
    refine ⟨_, _, exec_product hc (productReady_some hf hl) hacc hj (productUp_of_up h0 he hup) he hprod, rfl,
      liveCon_modCon hlive rfl, rfl, rfl, mem_written_retireProd .., ?_, ?_⟩
    · rw [hval]; rfl
    · rw [hval]; exact retireProd_xk ..

end Sys2Proof.Machine
end

section
/-! SUPPORT. A contraction's walk that fails where its directory C's header cannot be cleared (spec/07_instr_contraction_tiles.md R128, R132,
R134, spec/17_translation.md R266): Obligations.ContractionWalkResults fails. -/

namespace Sys2Proof.Machine

/-! ## A walk that meets a pair of different dimensions

The C directory's header lies across the end of what graphs reach of a cistern (R356): its first 20 bytes stand below the leader's mirror, and
OPH, which is cleared as the contraction ends, in it. Its read is one access of one page, which begins below; the write of OPH is an access of
its own and fails with 0x084 before the walk's 0x105 is raised. Both are faults of one time and of one contraction, so the first stays.
The statement asks nothing of the translations that are held, nor of the descriptor's pointers: here a page is not aligned to its size, and the
pointer to C not to 64 bytes. -/

/-- A rule of U(1) of width 6 and of order 2. -/
def mirrorRule : Rule := (ruleOf [0xA700_0001, 0x4600_0000, 0x8000_0002, 0, 0, 0, 0, 0]).getD []

/-- A of two legs and B of one, an entry each, of 1 x 1 and of 2; C of one leg, without an entry. -/
def mirrorHdrA : List Word := [0xD108_1400, 0, 1, 1, 1, 0, 0, 0, 0, 0, 0, 0, 0, 0, 0, 0]
def mirrorEntA : List Word := [0, 0, 0, 0, 0, 0, 0x0001_0001, 0, 0, 0x1000, 0, 0, 0x8040_0000, 0, 0, 0]
def mirrorHdrB : List Word := [0xD104_1400, 0, 1, 2, 2, 0, 0, 0, 0, 0, 0, 0, 0, 0, 0, 0]
def mirrorEntB : List Word := [0, 0, 0, 0, 0, 0, 2, 0, 0, 0x2000, 0, 0, 0x8040_0000, 0, 0, 0]
def mirrorHdrC : List Word := [0xD104_1400, 0, 0, 2, 4, 0, 0, 0, 0, 0, 0, 0, 0, 0, 0, 0]

/-- The contraction of A's leg 1 with B's leg 0, which stands at its first pair. -/
def mirrorCon : Contraction where
  seq := 1
  resume := 0
  state := 0
  cause := 0
  retired := 0
  alloc := 0
  migr := 0
  xk := none
  el := 0
  slot := 0
  desc := [0xBC01_1000, 0x400, 0x600, 0x4000_3FEC, 0xA00, 0x10, 0x0100_0000, 0, 0, 0, 0, 0, 0, 0, 0, 0]
  rule := mirrorRule
  na := 1
  nb := 1
  i := 0
  j := 0
  walked := false
  stopped := none
  queue := []
  written := []
  owners := []
  exc := false

/-- A and B in HBM4, the header of C at the mirror's beginning less 20 bytes. -/
def mirrorMem : List (Nat × Byte) :=
  memPutAll (memPutAll (memPutAll [] (keyed (cisternKey (62 * 2 ^ 20 - 20)) (bytesOfWords mirrorHdrC)))
    (keyed (hbmKey 0x600) (bytesOfWords (mirrorHdrB ++ mirrorEntB)))) (keyed (hbmKey 0x400) (bytesOfWords (mirrorHdrA ++ mirrorEntA)))

/-- One stage on one region, a gibibyte of HBM4 mapped at 0, and behind it a page of the cistern from 16 KiB below the mirror on. -/
def mirrorState : State :=
  { State.reset with
    insts := [(0, { img := ⟨false, 1, [⟨0, false⟩], [], [], [], [], [], [], 0⟩, status := .running })]
    graphs := [(0, emptyGraph)]
    regions := [(⟨0, 0⟩, { cons := [mirrorCon] })]
    tlb := [(0, [⟨0, 0, 30, 13, none, 0, false⟩, ⟨0, 512, 21, 0x0400_0000_03DF_C00D, none, 0, false⟩])]
    mem := mirrorMem }

def mirrorRq : Rq := seqRq mirrorState ⟨0, 0⟩ 1 0

/-- An entry that stands alone in a directory. -/
theorem stands_one {s : State} {q : Rq} {va : Nat} {h : Hdr} {e : Ent} (hh : readHdr q va s = .ok (h, s)) (he : readEnt q va 0 s = .ok (e, s))
    (hc : h.count = 1) : Stands s q va h [e] where
  header := hh
  entries i e' hi := by
    match i with
    | 0 => cases hi; exact he
    | i + 1 => simp at hi
  counted := hc.symm

/-- The three directories as the walk reads them. -/
theorem mirror_stands : Stands mirrorState mirrorRq (descVA mirrorState 0 mirrorCon 1) ⟨mirrorHdrA⟩ [⟨mirrorEntA⟩] ∧
    Stands mirrorState mirrorRq (descVA mirrorState 0 mirrorCon 2) ⟨mirrorHdrB⟩ [⟨mirrorEntB⟩] ∧
    Stands mirrorState mirrorRq (descVA mirrorState 0 mirrorCon 3) ⟨mirrorHdrC⟩ [] :=
  ⟨stands_one (by decide +kernel) (by decide +kernel) (by decide), stands_one (by decide +kernel) (by decide +kernel) (by decide),
    ⟨by decide +kernel, by simp, by decide⟩⟩

/-- The fault that the walk leaves is that of the header's write. -/
theorem mirror_cause : (match exec (.contractionEnumerate ⟨0, 0⟩ 1) mirrorState with
    | .next t => (t.graph 0).fault.map FaultRec.cause
    | _ => none) = some 0x084 := by decide +kernel

/-- The pair (0, 0) is the next permitted one, its contracted dimensions 1 and 2. -/
theorem mirror_pair : (∀ p ∈ ConDesc.pairs mirrorCon.desc, ceq mirrorRule ((⟨mirrorEntA⟩ : Ent).q p.1) ((⟨mirrorEntB⟩ : Ent).q p.2) = true) ∧
    ¬ ∀ p ∈ ConDesc.pairs mirrorCon.desc, (⟨mirrorEntA⟩ : Ent).dim p.1 = (⟨mirrorEntB⟩ : Ent).dim p.2 := by decide +kernel

/-- Refutes O42: in mirrorState the walk meets a permitted pair whose contracted dimensions differ, and the graph's fault is 0x084, of the
header of C that cannot be cleared (R266), and not 0x105. -/
theorem not_contractionWalkResults : ¬ Obligations.ContractionWalkResults := by
  intro h
  obtain ⟨hA, hB, hC⟩ := mirror_stands
  obtain ⟨heq, hdim⟩ := mirror_pair
  obtain ⟨t, ht, -, r, hr, hcause, -⟩ := (h mirrorState ⟨0, 0⟩ 1 mirrorCon (.bf16, .bf16, .f32) ⟨mirrorHdrA⟩ ⟨mirrorHdrB⟩ ⟨mirrorHdrC⟩
    [⟨mirrorEntA⟩] [⟨mirrorEntB⟩] [] (by decide +kernel) rfl rfl rfl rfl (by decide) (by decide) ⟨by decide +kernel, by decide +kernel⟩
    (by decide +kernel) hA hB hC (by decide) (by decide) (by decide +kernel) (by decide)
    (by simpa using fun _ => (by decide +kernel)) (by simpa using fun _ => (by decide +kernel))).2.1 0 0 ⟨mirrorEntA⟩ ⟨mirrorEntB⟩
    ⟨⟨by decide, by decide, rfl, rfl, by decide, by decide, heq⟩, .inr ⟨rfl, Nat.le_refl 0⟩,
      fun i j _ _ _ _ => by omega⟩ hdim
  have hm := mirror_cause
  rw [ht] at hm
  dsimp only at hm
  rw [show (mirrorState.inst (⟨0, 0⟩ : RRef).inst).graph = 0 from rfl] at hr
  rw [hr, Option.map_some, hcause] at hm
  exact absurd hm (by decide)

end Sys2Proof.Machine
end

section
/-! SUPPORT. The end of a tile operation's firing (spec/07_instr_contraction_tiles.md R136, R137, R139, spec/13_ragged_sparse_ternary.md R214):
the second part of Obligations.TileFiringResults. -/

namespace Sys2Proof.Machine

/-! ## Tokens on mi (R35) -/

theorem MiGets.trans {s t u : State} {e : ERef} {ks ls : List Token} (h : MiGets s t e ks) (h' : MiGets t u e ls) :
    MiGets s u e (ks ++ ls) :=
  ⟨by rw [h'.1, h.1, List.append_assoc], h'.2 ∘ h.2⟩

/-- Nothing comes to mi where its element's tokens stand as they stood. -/
theorem MiGets.none {s t : State} {e : ERef} (hi : (t.elem e).inp = (s.elem e).inp) (ho : (t.elem e).owed = (s.elem e).owed) :
    MiGets s t e [] := by
  have hc : (t.elem e).chan 4 = (s.elem e).chan 4 := by rw [Elem.chan, hi]; rfl
  exact ⟨by rw [hc, ho, List.append_nil], fun h => by rwa [hc]⟩

/-- What comes to mi from a state in which its element's tokens stand as in another. -/
theorem MiGets.of_same {s s' t : State} {e : ERef} {ks : List Token} (h : MiGets s' t e ks) (hi : (s'.elem e).inp = (s.elem e).inp)
    (ho : (s'.elem e).owed = (s.elem e).owed) : MiGets s t e ks :=
  (MiGets.none hi ho).trans h

theorem pushMi_miGets (s : State) (e : ERef) (k : Token) : MiGets s (pushMi s e k) e [k] := by
  rw [MiGets, pushMi, State.elem_modElem_self]
  split
  next h =>
    obtain ⟨ho, hroom⟩ := h
    have hlen : ((s.elem e).chan 4).length < 16 := of_decide_eq_true hroom
    rw [Elem.chan_pushIn_self, show ((s.elem e).pushIn 4 k).owed = (s.elem e).owed from rfl, ho]
    exact ⟨by simp, fun _ => by simpa using hlen⟩
  next => exact ⟨(List.append_assoc ..).symm, id⟩

/-- A token for mi changes of its element the channel and what waits for a place there. -/
theorem pushMi_elem (s : State) (e : ERef) (k : Token) : ∃ inp owed, (pushMi s e k).elem e = { s.elem e with inp := inp, owed := owed } := by
  rw [pushMi, State.elem_modElem_self]
  split
  · exact ⟨_, (s.elem e).owed, rfl⟩
  · exact ⟨(s.elem e).inp, _, rfl⟩

theorem pushMi_tile (s : State) (e : ERef) (k : Token) (y : Nat × Nat) : (pushMi s e k).tile y = s.tile y := rfl

theorem pushDone_miGets (s : State) (e : ERef) (k : Token) : MiGets s (pushDone s e k) e [k] := pushMi_miGets ..

theorem pushDone_elem (s : State) (e : ERef) (k : Token) :
    ∃ inp owed, (pushDone s e k).elem e = { s.elem e with inp := inp, owed := owed } := pushMi_elem ..

theorem pushDone_tile (s : State) (e : ERef) (k : Token) (y : Nat × Nat) : (pushDone s e k).tile y = s.tile y := rfl

/-! ## A sink's records (R162, R163) -/

/-- What a record of the exception log leaves: tiles, stages and elements. -/
structure RecordOnly (s t : State) : Prop where
  tiles : t.tiles = s.tiles
  insts : t.insts = s.insts
  elems : t.elems = s.elems

theorem RecordOnly.refl (s : State) : RecordOnly s s := ⟨rfl, rfl, rfl⟩

theorem RecordOnly.trans {s t u : State} (h : RecordOnly s t) (h' : RecordOnly t u) : RecordOnly s u :=
  ⟨h'.tiles.trans h.tiles, h'.insts.trans h.insts, h'.elems.trans h.elems⟩

theorem RecordOnly.frontWrite (s : State) (g ctx : Nat) (ws : List (Nat × List Byte)) (irq : Option Nat) :
    RecordOnly s (frontWrite s g ctx ws irq) := by
  obtain ⟨_, _, _, _, _, _, _, _, h⟩ := FrontOnly.frontWriteFor none s g ctx ws irq
  rw [Machine.frontWrite, h]
  exact ⟨rfl, rfl, rfl⟩

theorem RecordOnly.logRecord (s : State) (g : Nat) (ws : List Word) : RecordOnly s (logRecord s g ws) := by
  unfold Machine.logRecord
  dsimp only
  split
  · exact ⟨rfl, rfl, rfl⟩
  · split
    · exact (frontWrite s g _ _ _).trans ⟨rfl, rfl, rfl⟩
    · exact (frontWrite s g _ _ _).trans ⟨rfl, rfl, rfl⟩

theorem RecordOnly.foldl {α : Type} {f : State → α → State} (hf : ∀ s a, RecordOnly s (f s a)) (as : List α) (s : State) :
    RecordOnly s (as.foldl f s) :=
  List.foldlRecOn as f (.refl s) fun _ h a _ => h.trans (hf _ a)

/-- What an element's log changes: memory aside, the log of its element alone. -/
structure LogOnly (s : State) (e : ERef) (t : State) : Prop where
  tiles : t.tiles = s.tiles
  insts : t.insts = s.insts
  elem : ∃ logq, t.elem e = { s.elem e with logq := logq }

theorem LogOnly.modLogq (s : State) (e : ERef) (g : Elem → List LogItem) : LogOnly s e (s.modElem e (fun x => { x with logq := g x })) :=
  ⟨rfl, rfl, _, State.elem_modElem_self ..⟩

theorem LogOnly.trans {s t u : State} {e : ERef} (h : LogOnly s e t) (h' : LogOnly t e u) : LogOnly s e u := by
  obtain ⟨_, hl⟩ := h.elem
  obtain ⟨_, hl'⟩ := h'.elem
  exact ⟨h'.tiles.trans h.tiles, h'.insts.trans h.insts, _, by rw [hl', hl]⟩

theorem LogOnly.of_recordOnly {s t : State} (e : ERef) (h : RecordOnly s t) : LogOnly s e t :=
  ⟨h.tiles, h.insts, _, by rw [State.elem, h.elems]; rfl⟩

theorem LogOnly.of_memoryOnly {s t : State} (e : ERef) (h : MemoryOnly s t) : LogOnly s e t := by
  obtain ⟨_, _, _, rfl⟩ := h
  exact ⟨rfl, rfl, _, rfl⟩

theorem LogOnly.flushLog (s : State) (e : ERef) : LogOnly s e (flushLog s e) := by
  unfold Machine.flushLog
  dsimp only
  split
  · exact of_memoryOnly e (.refl s)
  · exact ((of_memoryOnly e (MemoryOnly.widenWhere ..)).trans (.modLogq ..)).trans
      (.of_recordOnly e (.foldl (fun _ _ => .foldl (fun _ _ => .logRecord ..) _ _) _ _))

theorem LogOnly.logFiring (s : State) (e : ERef) (f : Firing) : LogOnly s e (logFiring s e f) := by
  unfold Machine.logFiring
  split
  · exact (modLogq s e _).trans (flushLog ..)
  · exact of_memoryOnly e (.refl s)

/-! ## Uses and tags (R100, R139) -/

theorem entryOf_of_insts {s t : State} (h : t.insts = s.insts) (i : Nat) (w : Word) : entryOf t i w = entryOf s i w := by
  simp only [entryOf, tabOf, State.physDie, State.physReg, State.inst, h]

section
variable (g : Word → Nat × Nat) (hs : List Word) (u : State)

theorem uses_foldl_dropUse_le (y : Nat × Nat) : ((hs.foldl (fun t h => dropUse t (g h)) u).tile y).uses ≤ (u.tile y).uses := by
  refine List.foldlRecOn (motive := fun t => (State.tile t y).uses ≤ (u.tile y).uses) hs _ (Nat.le_refl _) fun t ht h _ => ?_
  rw [dropUse, State.tile_modTile]
  split
  next hy => rw [hy]; exact (Nat.sub_le ..).trans ht
  next => exact ht

theorem uses_foldl_dropUse {h : Word} (hh : h ∈ hs) :
    ((hs.foldl (fun t h => dropUse t (g h)) u).tile (g h)).uses ≤ (u.tile (g h)).uses - 1 := by
  induction hs generalizing u with
  | nil => simp at hh
  | cons k ks ih =>
    rw [List.foldl_cons]
    rcases List.mem_cons.mp hh with rfl | hk
    · exact (uses_foldl_dropUse_le g ks _ _).trans_eq (congrArg Tile.uses (dropUse_tile_self u (g h)))
    · refine (ih (dropUse u (g k)) hk).trans ?_
      rw [dropUse, State.tile_modTile]
      split
      next hy => rw [← hy]; exact Nat.sub_le ..
      next => exact Nat.le_refl _

/-- A use that ends changes no tag. -/
theorem f_foldl_dropUse (y : Nat × Nat) : ((hs.foldl (fun t h => dropUse t (g h)) u).tile y).f = (u.tile y).f ∧
    ((hs.foldl (fun t h => dropUse t (g h)) u).tile y).rel = (u.tile y).rel := by
  refine List.foldlRecOn (motive := fun t => (State.tile t y).f = (u.tile y).f ∧ (State.tile t y).rel = (u.tile y).rel) hs _ ⟨rfl, rfl⟩
    fun t ht h _ => ?_
  rw [dropUse, State.tile_modTile]
  split
  next hy => rw [hy]; exact ht
  next => exact ht

/-- Tags cleared. -/
def emptyTiles (hs : List Word) (u : State) : State := hs.foldl (fun t h => t.modTile (g h) (fun y => { y with f := false })) u

theorem emptyTiles_tile (y : Nat × Nat) : ((emptyTiles g hs u).tile y).uses = (u.tile y).uses ∧
    ((u.tile y).f = false → ((emptyTiles g hs u).tile y).f = false) := by
  refine List.foldlRecOn (motive := fun t => (State.tile t y).uses = (u.tile y).uses ∧ ((u.tile y).f = false → (State.tile t y).f = false))
    hs _ ⟨rfl, id⟩ fun t ht h _ => ?_
  rw [State.tile_modTile]
  split
  next hy => rw [hy]; exact ⟨ht.1, fun _ => rfl⟩
  next => exact ht

theorem emptyTiles_f {h : Word} (hh : h ∈ hs) : ((emptyTiles g hs u).tile (g h)).f = false := by
  induction hs generalizing u with
  | nil => simp at hh
  | cons k ks ih =>
    rcases List.mem_cons.mp hh with rfl | hk
    · refine (emptyTiles_tile g ks _ (g h)).2 ?_
      rw [State.tile_modTile, if_pos rfl]
    · exact ih _ hk

theorem emptyTiles_eq : ∃ tiles : AMap (Nat × Nat) Tile, emptyTiles g hs u = { u with tiles := tiles } := by
  refine List.foldlRecOn (motive := fun t => ∃ tiles : AMap (Nat × Nat) Tile, t = { u with tiles := tiles }) hs _ ⟨u.tiles, rfl⟩ ?_
  rintro _ ⟨_, rfl⟩ _ _
  exact ⟨_, rfl⟩

end

/-- The tags after a binding's firing, D's set last (R139). -/
theorem retag_spec (s : State) (e : ERef) (b : Bind) :
    (∃ (tiles : AMap (Nat × Nat) Tile) (num : KMap Nat), retag s e b = { s with tiles := tiles, num := num }) ∧
    (∀ y, ((retag s e b).tile y).uses = (s.tile y).uses) ∧
    (∀ h ∈ emptied b.kind b.words, entryOf s e.inst h ≠ entryOf s e.inst (TDesc.hd b.words) →
      ((retag s e b).tile (entryOf s e.inst h)).f = false) ∧
    ((retag s e b).tile (entryOf s e.inst (TDesc.hd b.words))).f = true ∧
    ∃ rel, ((retag s e b).tile (entryOf s e.inst (TDesc.hd b.words))).rel = some rel ∧ rel.reg = s.physReg e.inst e.reg := by
  set u := emptyTiles (entryOf s e.inst) (emptied b.kind b.words) s with hu
  set d := entryOf s e.inst (TDesc.hd b.words) with hd
  have hr : retag s e b = setFull u d (s.physReg e.inst e.reg) b.hb := rfl
  obtain ⟨_, he⟩ := emptyTiles_eq (entryOf s e.inst) (emptied b.kind b.words) s
  have hself := setFull_tile u d (s.physReg e.inst e.reg) b.hb
  have hne (y : Nat × Nat) (hy : y ≠ d) : (setFull u d (s.physReg e.inst e.reg) b.hb).tile y = u.tile y :=
    (State.tile_modTile ..).trans (if_neg hy.symm)
  rw [hr]
  refine ⟨⟨_, _, by rw [setFull, hu, he]; rfl⟩, fun y => ?_, fun h hh hy => ?_, by rw [hself], _, by rw [hself], rfl⟩
  · rw [← (emptyTiles_tile (entryOf s e.inst) (emptied b.kind b.words) s y).1, ← hu]
    by_cases hy : y = d
    · rw [hy, hself]
    · rw [hne y hy]
  · rw [hne _ hy]
    exact emptyTiles_f (entryOf s e.inst) _ s hh

/-! ## The end of a firing (R136, R137, R139) -/

/-- A firing is no longer in progress, and its sink's records are made. -/
def firingOver (s : State) (e : ERef) (z : Firing) : State := logFiring (s.modElem e (fun x => { x with firing := none })) e z

/-- The token of NOTE (R137). -/
def noteTokens (z : Firing) : List Token := if TDesc.note z.op.words then [⟨z.op.handle, 1, z.exc, none, none⟩] else []

/-- The part once NOTE has given its token. -/
def noted (s : State) (e : ERef) (z : Firing) : State :=
  if TDesc.note z.op.words then pushMi s e ⟨z.op.handle, 1, z.exc, none, none⟩ else s

theorem noted_miGets (s : State) (e : ERef) (z : Firing) : MiGets s (noted s e z) e (noteTokens z) := by
  unfold noted noteTokens
  split
  · exact pushMi_miGets ..
  · exact .none rfl rfl

theorem noted_eq (s : State) (e : ERef) (z : Firing) : (noted s e z).tiles = s.tiles ∧ (noted s e z).insts = s.insts ∧
    (noted s e z).mem = s.mem ∧ (noted s e z).stores = s.stores ∧
    ∃ inp owed, (noted s e z).elem e = { s.elem e with inp := inp, owed := owed } := by
  unfold noted
  split
  · exact ⟨rfl, rfl, rfl, rfl, pushMi_elem ..⟩
  · exact ⟨rfl, rfl, rfl, rfl, _, _, rfl⟩

section
variable (s : State) (e : ERef) (z : Firing)

theorem firingOver_spec : (firingOver s e z).tiles = s.tiles ∧ (firingOver s e z).insts = s.insts ∧
    (∃ logq, (firingOver s e z).elem e = { s.elem e with firing := none, logq := logq }) ∧
    (isSink s e = false → (firingOver s e z).mem = s.mem ∧ (firingOver s e z).stores = s.stores) := by
  obtain ⟨htiles, hinsts, logq, helem⟩ := LogOnly.logFiring (s.modElem e (fun x => { x with firing := none })) e z
  rw [State.elem_modElem_self] at helem
  refine ⟨htiles, hinsts, ⟨logq, helem⟩, fun h => ?_⟩
  have hl : logFiring (s.modElem e (fun x => { x with firing := none })) e z = s.modElem e (fun x => { x with firing := none }) :=
    if_neg (ne_true_of_eq_false h)
  rw [firingOver, hl]
  exact ⟨rfl, rfl⟩

theorem endFiring_topx (h : z.bind = none) : endFiring s e z =
    pushDone (unuseAll (noted (firingOver s e z) e z) e.inst z.op.words) e ⟨z.op.handle, 0, z.exc, none, none⟩ := by
  simp only [endFiring, h]
  rfl

theorem endFiring_bound {n : Nat} (h : z.bind = some n) :
    endFiring s e z = endBinding (retag (firingOver s e z) e z.op) e n z := by
  simp only [endFiring, h]
  rfl

theorem endBinding_goes {n : Nat} (h : ¬ (z.op.limit ≠ 0 ∧ z.op.limit ≤ z.op.fired + 1)) : endBinding s e n z =
    (noted s e z).modElem e (fun x =>
      { x with binds := kset x.binds n { z.op with fired := z.op.fired + 1, exc := z.op.exc || z.exc } }) :=
  if_neg h

/-- A binding that has reached its limit is gone. -/
def unbound (s : State) (e : ERef) (n : Nat) : State := s.modElem e (fun x => { x with binds := kdel x.binds n })

theorem endBinding_ends {n : Nat} (h : z.op.limit ≠ 0 ∧ z.op.limit ≤ z.op.fired + 1) : endBinding s e n z =
    pushDone (unuseAll (unbound (noted s e z) e n) e.inst z.op.words) e ⟨z.op.handle, 0, z.op.exc || z.exc, none, none⟩ :=
  if_pos h

end

theorem unuseAll_elem (u : State) (i : Nat) (ws : List Word) (e : ERef) : (unuseAll u i ws).elem e = u.elem e :=
  foldl_dropUse_elem (entryOf u i) (topHandles ws) u e

theorem unuseAll_sameMemory (u : State) (i : Nat) (ws : List Word) : SameMemory u (unuseAll u i ws) :=
  List.foldlRecOn (motive := fun t => SameMemory u t) (topHandles ws) _ (fun _ _ => rfl) fun _ ht _ _ => ht

/-- A topx's end (R136). -/
structure TopxEnd (s : State) (e : ERef) (z : Firing) (t : State) : Prop where
  firing : (t.elem e).firing = none
  memory : isSink s e = false → SameMemory s t
  tokens : MiGets s t e (noteTokens z ++ [⟨z.op.handle, 0, z.exc, none, none⟩])
  uses : ∀ h ∈ topHandles z.op.words, (t.tile (entryOf s e.inst h)).uses ≤ (s.tile (entryOf s e.inst h)).uses - 1 ∧
    (t.tile (entryOf s e.inst h)).f = (s.tile (entryOf s e.inst h)).f

theorem endFiring_topxEnd {s : State} {e : ERef} {z : Firing} (hz : z.bind = none) : TopxEnd s e z (endFiring s e z) := by
  rw [endFiring_topx s e z hz]
  obtain ⟨htiles, hinsts, ⟨logq, helem⟩, hmem⟩ := firingOver_spec s e z
  set s1 := firingOver s e z
  obtain ⟨ntiles, ninsts, nmem, nstores, inp, owed, nelem⟩ := noted_eq s1 e z
  have hnote := noted_miGets s1 e z
  set s2 := noted s1 e z
  set t := unuseAll s2 e.inst z.op.words with ht
  obtain ⟨inp', owed', pelem⟩ := pushDone_elem t e ⟨z.op.handle, 0, z.exc, none, none⟩
  have ht2 : t.elem e = s2.elem e := unuseAll_elem ..
  have hent (h : Word) : entryOf s2 e.inst h = entryOf s e.inst h := entryOf_of_insts (ninsts.trans hinsts) ..
  have htile (y : Nat × Nat) : s2.tile y = s.tile y := by rw [State.tile, ntiles, htiles]; rfl
  refine ⟨?_, fun h a k => ?_, ?_, fun h hh => ?_⟩
  · rw [pelem, ht2, nelem, helem]
  · obtain ⟨m1, m2⟩ := hmem h
    refine (unuseAll_sameMemory s2 e.inst z.op.words a k).trans ?_
    rw [nmem, nstores, m1, m2]
  · refine (hnote.of_same (by rw [helem]) (by rw [helem])).trans ((pushDone_miGets ..).of_same ?_ ?_) <;> rw [ht2]
  · have hu := uses_foldl_dropUse (entryOf s2 e.inst) (topHandles z.op.words) s2 hh
    have hf := (f_foldl_dropUse (entryOf s2 e.inst) (topHandles z.op.words) s2 (entryOf s2 e.inst h)).1
    rw [pushDone_tile, ← hent, ← htile]
    exact ⟨hu, hf⟩

/-- A binding's firing over (R136, R139). -/
structure BoundEnd (s : State) (e : ERef) (n : Nat) (z : Firing) (t : State) : Prop where
  firing : (t.elem e).firing = none
  memory : isSink s e = false → SameMemory s t
  empties : ∀ h ∈ emptied z.op.kind z.op.words, entryOf s e.inst h ≠ entryOf s e.inst (TDesc.hd z.op.words) →
    (t.tile (entryOf s e.inst h)).f = false
  fills : (t.tile (entryOf s e.inst (TDesc.hd z.op.words))).f = true
  release : ∃ rel, (t.tile (entryOf s e.inst (TDesc.hd z.op.words))).rel = some rel ∧ rel.reg = s.physReg e.inst e.reg
  goes : ¬ (z.op.limit ≠ 0 ∧ z.op.limit ≤ z.op.fired + 1) → MiGets s t e (noteTokens z) ∧
    (t.elem e).binds = kset (s.elem e).binds n { z.op with fired := z.op.fired + 1, exc := z.op.exc || z.exc }
  ends : z.op.limit ≠ 0 ∧ z.op.limit ≤ z.op.fired + 1 →
    MiGets s t e (noteTokens z ++ [⟨z.op.handle, 0, z.op.exc || z.exc, none, none⟩]) ∧ khas (t.elem e).binds n = false ∧
    ∀ h ∈ topHandles z.op.words, (t.tile (entryOf s e.inst h)).uses ≤ (s.tile (entryOf s e.inst h)).uses - 1

/-- The part after a binding's firing, its tags set and NOTE's token given. -/
def boundOver (s : State) (e : ERef) (z : Firing) : State := noted (retag (firingOver s e z) e z.op) e z

theorem boundOver_spec (s : State) (e : ERef) (z : Firing) :
    (boundOver s e z).insts = s.insts ∧
    (∃ logq inp owed, (boundOver s e z).elem e = { s.elem e with firing := none, logq := logq, inp := inp, owed := owed }) ∧
    (isSink s e = false → SameMemory s (boundOver s e z)) ∧ MiGets s (boundOver s e z) e (noteTokens z) ∧
    (∀ y, ((boundOver s e z).tile y).uses = (s.tile y).uses) ∧
    (∀ h ∈ emptied z.op.kind z.op.words, entryOf s e.inst h ≠ entryOf s e.inst (TDesc.hd z.op.words) →
      ((boundOver s e z).tile (entryOf s e.inst h)).f = false) ∧
    ((boundOver s e z).tile (entryOf s e.inst (TDesc.hd z.op.words))).f = true ∧
    ∃ rel, ((boundOver s e z).tile (entryOf s e.inst (TDesc.hd z.op.words))).rel = some rel ∧ rel.reg = s.physReg e.inst e.reg := by
  obtain ⟨htiles, hinsts, ⟨logq, helem⟩, hmem⟩ := firingOver_spec s e z
  have hent (h : Word) : entryOf (firingOver s e z) e.inst h = entryOf s e.inst h := entryOf_of_insts hinsts ..
  have hreg : (firingOver s e z).physReg e.inst e.reg = s.physReg e.inst e.reg := by
    simp only [State.physReg, State.physDie, State.inst, hinsts]
  have htile (y : Nat × Nat) : (firingOver s e z).tile y = s.tile y := by rw [State.tile, htiles]; rfl
  obtain ⟨⟨tiles, num, hr⟩, huses, hempty, hfull, hrel⟩ := retag_spec (firingOver s e z) e z.op
  simp only [hent, hreg, htile] at huses hempty hfull hrel
  obtain ⟨ntiles, ninsts, nmem, nstores, inp, owed, nelem⟩ := noted_eq (retag (firingOver s e z) e z.op) e z
  have hnote := noted_miGets (retag (firingOver s e z) e z.op) e z
  have relem : (retag (firingOver s e z) e z.op).elem e = (firingOver s e z).elem e := by rw [hr]; rfl
  have btile (y : Nat × Nat) : (boundOver s e z).tile y = (retag (firingOver s e z) e z.op).tile y := by
    rw [State.tile, boundOver, ntiles]; rfl
  simp only [btile]
  refine ⟨?_, ⟨logq, inp, owed, ?_⟩, fun h a k => ?_, ?_, huses, hempty, hfull, hrel⟩
  · rw [boundOver, ninsts, hr]; exact hinsts
  · rw [boundOver, nelem, relem, helem]
  · obtain ⟨m1, m2⟩ := hmem h
    rw [boundOver, nmem, nstores, hr]
    show readByte (firingOver s e z).mem a (firingOver s e z).stores k = _
    rw [m1, m2]
  · exact hnote.of_same (by rw [relem, helem]) (by rw [relem, helem])

theorem endFiring_boundEnd {s : State} {e : ERef} {z : Firing} {n : Nat} (hz : z.bind = some n) :
    BoundEnd s e n z (endFiring s e z) := by
  rw [endFiring_bound s e z hz]
  obtain ⟨hinsts, ⟨logq, inp, owed, helem⟩, hmem, hnote, huses, hempty, hfull, hrel⟩ := boundOver_spec s e z
  by_cases hl : z.op.limit ≠ 0 ∧ z.op.limit ≤ z.op.fired + 1
  · rw [endBinding_ends _ e z hl, show noted (retag (firingOver s e z) e z.op) e z = boundOver s e z from rfl]
    set u := boundOver s e z
    set t := unuseAll (unbound u e n) e.inst z.op.words with ht
    have hent (h : Word) : entryOf (unbound u e n) e.inst h = entryOf s e.inst h := entryOf_of_insts hinsts ..
    have htelem : t.elem e = { u.elem e with binds := kdel (u.elem e).binds n } := (unuseAll_elem ..).trans (State.elem_modElem_self ..)
    have htile (y : Nat × Nat) : (t.tile y).f = (u.tile y).f ∧ (t.tile y).rel = (u.tile y).rel :=
      f_foldl_dropUse (entryOf (unbound u e n) e.inst) (topHandles z.op.words) (unbound u e n) y
    obtain ⟨inp', owed', pelem⟩ := pushDone_elem t e ⟨z.op.handle, 0, z.op.exc || z.exc, none, none⟩
    refine ⟨by rw [pelem, htelem, helem], fun h a k => ?_, fun h hh hy => ?_, ?_, ?_, (absurd hl ·), fun _ => ⟨?_, ?_, fun h hh => ?_⟩⟩
    · exact (unuseAll_sameMemory (unbound u e n) e.inst z.op.words a k).trans (hmem h a k)
    · rw [pushDone_tile, (htile _).1]; exact hempty h hh hy
    · rw [pushDone_tile, (htile _).1]; exact hfull
    · rw [pushDone_tile, (htile _).2]; exact hrel
    · exact hnote.trans ((pushDone_miGets ..).of_same (by rw [htelem]) (by rw [htelem]))
    · rw [pelem, htelem]
      exact (khas_kdel ..).trans (by simp)
    · have hu := uses_foldl_dropUse (entryOf (unbound u e n) e.inst) (topHandles z.op.words) (unbound u e n) hh
      rw [pushDone_tile, ← huses, ← hent]
      exact hu
  · rw [endBinding_goes _ e z hl, show noted (retag (firingOver s e z) e z.op) e z = boundOver s e z from rfl]
    refine ⟨by rw [State.elem_modElem_self, helem], hmem, hempty, hfull, hrel, fun _ => ⟨?_, ?_⟩, (absurd · hl)⟩
    · simpa using hnote.trans (MiGets.none (by rw [State.elem_modElem_self]) (by rw [State.elem_modElem_self]))
    · rw [State.elem_modElem_self, helem]

/-- A firing's end, in its tables' turn. -/
theorem exec_tileOpFiringEnd {s : State} {e : ERef} {z : Firing} (hz : (s.elem e).firing = some z)
    (ht : ∀ h ∈ topHandles z.op.words, s.inTurn (.table (entryOf s e.inst h).1) (tableEngine e.el) = true ∧
      kget [] s.tileReqs (entryOf s e.inst h).1 = []) :
    exec (.tileOpFiringEnd e) s = .next (actTables (endFiring s e z) e.inst (topHandles z.op.words) (tableEngine e.el)) := by
  show execTileOpFiringEnd e s = _
  unfold execTileOpFiringEnd
  simp only [hz]
  refine (when_eq_next ..).mpr ⟨Bool.and_eq_true_iff.mpr ⟨tablesInTurn_iff.mpr fun h hh => (ht h hh).1, ?_⟩, rfl⟩
  refine List.all_eq_true.mpr fun h hh => ?_
  rw [tableBusy, (ht h hh).2]
  rfl

end Sys2Proof.Machine
end

section
/-! SUPPORT. A tile operation's firing (spec/07_instr_contraction_tiles.md R139, R140, R142, R162,
spec/13_ragged_sparse_ternary.md R212, R213): the first part of Obligations.TileFiringResults. -/

namespace Sys2Proof.Machine

/-! ## Codes of a tile (R69) -/

theorem leNat_drop (a : Nat) (bs : List Byte) : leNat (bs.drop a) = leNat bs / 256 ^ a := by
  induction a generalizing bs with
  | zero => simp
  | succ a ih =>
    cases bs with
    | nil => simp [leNat]
    | cons b bs =>
      have hb : b.toNat < 256 := b.isLt
      rw [List.drop_succ_cons, ih, leNat, Nat.pow_succ', ← Nat.div_div_eq_div_mul]
      congr 1
      omega

theorem leNat_take (a : Nat) (bs : List Byte) : leNat (bs.take a) = leNat bs % 256 ^ a := by
  induction a generalizing bs with
  | zero => simp [leNat, Nat.mod_one]
  | succ a ih =>
    cases bs with
    | nil => simp [leNat]
    | cons b bs =>
      have hb : b.toNat < 256 := b.isLt
      have h : (b.toNat + 256 * leNat bs) % 256 = b.toNat ∧ (b.toNat + 256 * leNat bs) / 256 = leNat bs := by omega
      rw [List.take_succ_cons, leNat, ih, leNat, Nat.pow_succ', Nat.mod_mul, h.1, h.2]

/-- A bit of a byte string, lowest first, as a code of a width that divides 8 or that 8 divides gives it. -/
theorem codeAt_bit (bs : List Byte) (w p i : Nat) (hi : i < w) (hw : p * w % 8 + w ≤ 8 * (w / 8 + 1)) :
    (codeAt w bs p).testBit i = (leNat bs).testBit (p * w + i) := by
  have h256 (a : Nat) : 256 ^ a = 2 ^ (8 * a) := by rw [Nat.pow_mul]
  rw [codeAt, leNat_take, leNat_drop, Nat.testBit_mod_two_pow, Nat.testBit_div_two_pow, h256, h256, Nat.testBit_mod_two_pow,
    Nat.testBit_div_two_pow]
  have h1 : i + p * w % 8 < 8 * (w / 8 + 1) := by omega
  have h2 : 8 * (p * w / 8) + (i + p * w % 8) = p * w + i := by omega
  have h3 : i + p * w % 8 + 8 * (p * w / 8) = p * w + i := by omega
  simp only [hi, h1, decide_true, Bool.true_and]
  congr 1

/-- The keep bitmap read word by word is the bitmap read bit by bit (R212). -/
theorem keeps_eq (ws : List Word) (m : List Byte) (j k : Nat) :
    keeps ws m j k = (codeAt 1 m (1024 * ((TDesc.k ws + 1023) / 1024) * j + k) == 1) := by
  set g := (TDesc.k ws + 1023) / 1024 with hg
  have hc : ceilDiv (TDesc.k ws) 1024 = g := rfl
  have hone (a : Nat) : (a % 2 == 1) = a.testBit 0 := by rw [Nat.testBit_zero]; rfl
  have hcode : codeAt 1 m (1024 * g * j + k) % 2 = codeAt 1 m (1024 * g * j + k) := Nat.mod_mod_of_dvd _ (Nat.dvd_refl 2)
  rw [keeps, hc, ← hcode, hone, hone, Nat.testBit_div_two_pow, Nat.zero_add, codeAt_bit _ _ _ _ (Nat.mod_lt _ (by decide)) (by omega),
    codeAt_bit _ _ _ _ (by decide) (by omega)]
  congr 1
  have : j * (32 * g) * 32 = 1024 * g * j := by ring
  omega

/-! ## What a firing computes (R140, R213) -/

theorem getD_map_range {α : Type} (g : Nat → α) (z : α) {n k : Nat} (h : k < n) : ((List.range n).map g).getD k z = g k := by
  rw [List.getD_eq_getElem _ _ (by simpa using h), List.getElem_map, List.getElem_range]

/-- A list given row by row. -/
theorem eq_map_rows {α : Type} {d : List α} {z : α} {g : Nat → Nat → α} {m n : Nat} (hlen : d.length = m * n)
    (hget : ∀ i j, i < m → j < n → d.getD (i * n + j) z = g i j) : d = (List.range (m * n)).map (fun p => g (p / n) (p % n)) := by
  refine List.ext_getElem (by simpa using hlen) fun p hp _ => ?_
  have hpn : p < m * n := hlen ▸ hp
  have hn : 0 < n := Nat.pos_of_ne_zero fun h => by simp [h] at hpn
  have h := hget (p / n) (p % n) (Nat.div_lt_of_lt_mul (by rwa [Nat.mul_comm])) (Nat.mod_lt _ hn)
  rw [Nat.mul_comm, Nat.div_add_mod, List.getD_eq_getElem _ _ hp] at h
  simpa using h

section
variable (ws : List Word) (o : Opnds)

/-- B's element, transposed under TRB. -/
theorem bAt_eq (w rows cols : Nat) (bs : List Byte) (k j : Nat) :
    bAt ws w rows cols bs k j = codeAt w bs (if TDesc.trb ws then j * rows + k else k * cols + j) :=
  (apply_ite (codeAt w bs) ..).symm

/-- Row i of A and column j of B that a dot kind reduces. -/
def dotRow (i k : Nat) : Option Nat := some (codeAt (fmtOf (TDesc.fa ws)).width o.a (i * TDesc.k ws + k))

def dotCode (k j : Nat) : Nat :=
  codeAt (fmtOf (TDesc.fb ws)).width o.b (if TDesc.trb ws then j * TDesc.k ws + k else k * TDesc.n ws + j)

theorem dotB_whole {kind : Nat} (h : kind ≠ 2) (j : Nat) : dotB kind ws o j = fun k => some (dotCode ws o k j) := by
  funext k
  exact (if_neg h).trans (congrArg some (bAt_eq ..))

/-- Whether the bitmap keeps position k of column j, bit by bit (R212). -/
def keptAt (j k : Nat) : Bool := codeAt 1 o.m (1024 * ((TDesc.k ws + 1023) / 1024) * j + k) == 1

/-- The row of its block at which position k of column j stands (R213). -/
def keptRow (j k : Nat) : Nat := k / 64 * 64 + ((List.range (k % 64)).filter (fun i => keptAt ws o j (k / 64 * 64 + i))).length

theorem dotB_kept (j : Nat) : dotB 2 ws o j = fun k => if keptAt ws o j k then some (dotCode ws o (keptRow ws o j k) j) else none := by
  funext k
  simp only [dotB, if_pos, keptBefore, keeps_eq, bAt_eq]
  rfl

/-- The term that C gives element [i, j]. -/
def cTerm (i j : Nat) : Word := if o.c = [] then 0 else wd (codeAt 32 o.c (i * TDesc.n ws + j))

/-- A and B of the element-wise kinds, as words. -/
def aWord (i j : Nat) : Word := wd (codeAt 32 o.a (i * TDesc.n ws + j))
def bWord (i j : Nat) : Word := wd (codeAt 32 o.b (if TDesc.trb ws then j * TDesc.m ws + i else i * TDesc.n ws + j))

/-- A word and its flag as a code. -/
def codeOf (r : Word × Bool) : Nat × Bool := (r.1.toNat, r.2)

theorem topElem_dot {kind : Nat} (h : kind ≤ 3) (i j : Nat) : topElem kind ws o i j = codeOf
    (dotreduce (fmtOf (TDesc.fa ws)) (fmtOf (TDesc.fb ws)) (cTerm ws o i j) (dotRow ws o i) (dotB kind ws o j) (TDesc.k ws)) := by
  simp only [topElem, if_pos h, if_neg (show kind ≠ 6 by omega)]
  rfl

theorem topElem_whole {kind : Nat} (h : kind ≤ 3) (h2 : kind ≠ 2) (i j : Nat) : topElem kind ws o i j = codeOf
    (dotreduce (fmtOf (TDesc.fa ws)) (fmtOf (TDesc.fb ws)) (cTerm ws o i j) (dotRow ws o i) (fun k => some (dotCode ws o k j))
      (TDesc.k ws)) := by
  rw [topElem_dot ws o h, dotB_whole ws o h2]

theorem topElem_dots (i j : Nat) : topElem 2 ws o i j = codeOf
    (dotreduce (fmtOf (TDesc.fa ws)) (fmtOf (TDesc.fb ws)) (cTerm ws o i j) (dotRow ws o i)
      (fun k => if keptAt ws o j k then some (dotCode ws o (keptRow ws o j k) j) else none) (TDesc.k ws)) := by
  rw [topElem_dot ws o (by decide), dotB_kept]

theorem topElem_sacc (i j : Nat) :
    topElem 4 ws o i j = codeOf (saccOp (cTerm ws o i j) (aWord ws o i j) (codeAt 8 o.b i) (codeAt 8 o.m j)) := rfl

theorem topElem_addt (i j : Nat) : topElem 5 ws o i j = codeOf (if TDesc.fa ws = 0 then dotgroup (aWord ws o i j) [fv (bWord ws o i j)]
    else sat32 ((aWord ws o i j).toInt + (bWord ws o i j).toInt)) := by
  unfold bWord
  rw [← bAt_eq]
  rfl

theorem topElem_copyt (i j : Nat) : topElem 6 ws o i j = convCode (TDesc.fa ws) (TDesc.fd ws) (TDesc.sat ws)
    (if TDesc.trb ws then codeAt (fmtOf (TDesc.fa ws)).width o.a (j * TDesc.m ws + i)
      else codeAt (fmtOf (TDesc.fa ws)).width o.a (i * TDesc.n ws + j)) := rfl

/-- The factor of scant: A's element, or 1 without A. -/
def scanFactor (i j : Nat) : FVal := if o.a = [] then .fin false 1 0 else fv (aWord ws o i j)

/-- A step of scant in column j from the state h (R140). -/
def scanStep (i j : Nat) (h : Word) : Word × Bool := dotgroup (bWord ws o i j) [FVal.mul (scanFactor ws o i j) (fv h)]

theorem scanCol_succ (j k i : Nat) (h : Word) : scanCol ws o j (k + 1) i h =
    (codeOf (scanStep ws o i j h) :: (scanCol ws o j k (i + 1) (scanStep ws o i j h).1).1,
      (scanCol ws o j k (i + 1) (scanStep ws o i j h).1).2) := by
  unfold scanStep bWord
  rw [← bAt_eq]
  rfl

/-- A column of scant along its states. -/
theorem scanCol_eq {hs : Nat → Word} (j : Nat) (hstep : ∀ i, hs (i + 1) = (scanStep ws o i j (hs i)).1) (k i : Nat) :
    scanCol ws o j k i (hs i) = ((List.range k).map (fun p => codeOf (scanStep ws o (i + p) j (hs (i + p)))), hs (i + k)) := by
  induction k generalizing i with
  | zero => rfl
  | succ k ih =>
    rw [scanCol_succ, ← hstep, ih, List.range_succ_eq_map, List.map_cons, List.map_map, Nat.add_right_comm]
    simp only [Function.comp_def, Nat.succ_eq_add_one, Nat.add_assoc, Nat.add_comm 1]
    rfl

end

theorem topResult_elems (b : Bind) (o : Opnds) (h : b.kind ≠ 7) : topResult b o =
    ((List.range (TDesc.m b.words * TDesc.n b.words)).map (fun p =>
      topElem b.kind b.words o (p / TDesc.n b.words) (p % TDesc.n b.words)), b.delay) := if_neg h

/-- scant's result along the states of its columns (R140). -/
theorem topResult_scan (b : Bind) (o : Opnds) (h : b.kind = 7) {hs : Nat → Nat → Word} (h0 : ∀ j, j < TDesc.n b.words → hs 0 j = nthW b.delay j)
    (hstep : ∀ i j, hs (i + 1) j = (scanStep b.words o i j (hs i j)).1) : topResult b o =
    ((List.range (TDesc.m b.words * TDesc.n b.words)).map (fun p => codeOf (scanStep b.words o (p / TDesc.n b.words)
      (p % TDesc.n b.words) (hs (p / TDesc.n b.words) (p % TDesc.n b.words)))),
      (List.range (TDesc.n b.words)).map (fun j => hs (TDesc.m b.words) j)) := by
  set m := TDesc.m b.words with hm
  set n := TDesc.n b.words with hn
  have hcol (j : Nat) (hj : j < n) : scanCol b.words o j m 0 (nthW b.delay j) =
      ((List.range m).map (fun p => codeOf (scanStep b.words o p j (hs p j))), hs m j) := by
    have h := scanCol_eq b.words o (hs := fun i => hs i j) j (fun i => hstep i j) m 0
    simpa only [Nat.zero_add, h0 j hj] using h
  refine (if_pos h).trans (congrArg₂ (fun a b => (a, b)) ?_ ?_)
  · refine List.map_congr_left fun p hp => ?_
    have hpn : p < m * n := List.mem_range.mp hp
    have hpos : 0 < n := Nat.pos_of_ne_zero fun h => by simp [h] at hpn
    rw [getD_map_range _ _ (Nat.mod_lt _ hpos), hcol _ (Nat.mod_lt _ hpos),
      getD_map_range _ _ (Nat.div_lt_of_lt_mul (by rwa [Nat.mul_comm]))]
  · rw [List.map_map]
    exact List.map_congr_left fun j hj => congrArg Prod.snd (hcol j (List.mem_range.mp hj))

/-- The 32 x 32 parts of D in which something raised (R162). -/
theorem mem_excSubs (ws : List Word) (d : List (Nat × Bool)) (r c : Nat) : (r, c) ∈ excSubs ws d ↔
    r < TDesc.m ws / 32 ∧ c < TDesc.n ws / 32 ∧ ∃ i j, i < 32 ∧ j < 32 ∧
      (d.getD ((32 * r + i) * TDesc.n ws + 32 * c + j) (0, false)).2 = true := by
  simp only [excSubs, List.mem_filter, List.mem_map, List.mem_range, List.any_eq_true]
  set n := TDesc.n ws
  set cs := n / 32
  set rs := TDesc.m ws / 32
  have hpart : (∃ t, t < rs * cs ∧ (t / cs, t % cs) = (r, c)) ↔ r < rs ∧ c < cs := by
    constructor
    · rintro ⟨t, ht, h⟩
      obtain ⟨rfl, rfl⟩ := ok_pair (congrArg Except.ok h : (Except.ok _ : Except Stop _) = _)
      have hc : 0 < cs := Nat.pos_of_ne_zero fun h => by simp [h] at ht
      exact ⟨Nat.div_lt_of_lt_mul (by rwa [Nat.mul_comm]), Nat.mod_lt _ hc⟩
    · rintro ⟨hr, hc⟩
      have hrow : (r + 1) * cs ≤ rs * cs := Nat.mul_le_mul_right cs hr
      refine ⟨r * cs + c, by rw [Nat.add_mul] at hrow; omega, ?_⟩
      rw [Nat.add_comm, Nat.add_mul_div_right _ _ (by omega), Nat.div_eq_of_lt hc, Nat.zero_add, Nat.add_mul_mod_self_right,
        Nat.mod_eq_of_lt hc]
  have hraised : (∃ p, p < 1024 ∧ (d.getD ((r * 32 + p / 32) * n + c * 32 + p % 32) (0, false)).2 = true) ↔
      ∃ i j, i < 32 ∧ j < 32 ∧ (d.getD ((32 * r + i) * n + 32 * c + j) (0, false)).2 = true := by
    constructor
    · rintro ⟨p, hp, h⟩
      exact ⟨p / 32, p % 32, by omega, by omega, by simpa only [Nat.mul_comm 32] using h⟩
    · rintro ⟨i, j, hi, hj, h⟩
      refine ⟨32 * i + j, by omega, ?_⟩
      rwa [show (32 * i + j) / 32 = i by omega, show (32 * i + j) % 32 = j by omega, Nat.mul_comm r, Nat.mul_comm c]
  rw [hpart, hraised, and_assoc]

/-- D[i, j] of a firing, scant's along the states of its columns. -/
def firedValue (b : Bind) (o : Opnds) (hs : Nat → Nat → Word) (i j : Nat) : Nat × Bool :=
  if b.kind = 7 then codeOf (scanStep b.words o i j (hs i j)) else topElem b.kind b.words o i j

/-- The delay node after a firing: of scant the states of its columns at the last row's (R140). -/
def firedDelay (b : Bind) (hs : Nat → Nat → Word) : List Word :=
  if b.kind = 7 then (List.range (TDesc.n b.words)).map (fun j => hs (TDesc.m b.words) j) else b.delay

theorem topResult_eq {b : Bind} {o : Opnds} {hs : Nat → Nat → Word} {d : List (Nat × Bool)}
    (h0 : ∀ j, j < TDesc.n b.words → hs 0 j = nthW b.delay j) (hstep : ∀ i j, hs (i + 1) j = (scanStep b.words o i j (hs i j)).1)
    (hlen : d.length = TDesc.m b.words * TDesc.n b.words)
    (hget : ∀ i j, i < TDesc.m b.words → j < TDesc.n b.words → d.getD (i * TDesc.n b.words + j) (0, false) = firedValue b o hs i j) :
    topResult b o = (d, firedDelay b hs) := by
  unfold firedDelay
  rw [eq_map_rows hlen hget]
  by_cases hk : b.kind = 7
  · rw [topResult_scan b o hk h0 hstep, if_pos hk]
    simp only [firedValue, if_pos hk]
  · rw [topResult_elems b o hk, if_neg hk]
    simp only [firedValue, if_neg hk]

/-! ## What a unit takes next (R139, R142) -/

theorem find?_key_eq {α : Type} {d : α} {m : KMap α} {i : Nat} {v : α} (h : m.find? (fun p => p.1 == i) = some (i, v)) :
    khas m i = true ∧ kget d m i = v := by
  induction m with
  | nil => simp at h
  | cons p m ih =>
    rw [List.find?_cons] at h
    split at h
    next hp =>
      obtain rfl := Option.some.inj h
      exact ⟨by simp [khas], if_pos rfl⟩
    next hp =>
      have hne : p.1 ≠ i := by simpa using hp
      obtain ⟨hh, hg⟩ := ih h
      exact ⟨by rw [khas, List.any_cons, ← khas, hh, Bool.or_true], (if_neg hne).trans hg⟩

theorem khas_find? {α : Type} {d : α} {m : KMap α} {i : Nat} (h : khas m i = true) :
    m.find? (fun p => p.1 == i) = some (i, kget d m i) := by
  induction m with
  | nil => simp [khas] at h
  | cons p m ih =>
    obtain ⟨k, v⟩ := p
    by_cases hk : k = i
    · subst hk
      rw [List.find?_cons_of_pos (by simp), kget, if_pos rfl]
    · rw [khas, List.any_cons, show (k == i) = false by simpa using hk, Bool.false_or] at h
      rw [List.find?_cons_of_neg (by simpa using hk), kget, if_neg hk]
      exact ih h

/-- A binding whose operands are full and whose destination is empty, or its accumulator (R139). -/
def BindEligible (s : State) (inst : Nat) (b : Bind) : Prop :=
  (∀ h ∈ topHandles b.words, h ≠ TDesc.hd b.words →
    (s.tile (entryOf s inst h)).f = true ∧ claimed s (entryOf s inst h) = false) ∧
  (TDesc.hd b.words ≠ TDesc.hc b.words → ¬ (s.tile (entryOf s inst (TDesc.hd b.words))).f = true)

theorem bindReady_iff {s : State} {inst : Nat} {b : Bind} : bindReady s inst b = true ↔ BindEligible s inst b := by
  simp only [bindReady, BindEligible, Bool.and_eq_true, List.all_eq_true, Bool.or_eq_true, beq_iff_eq, Bool.not_eq_true', ne_eq,
    Bool.not_eq_true, or_iff_not_imp_left]

theorem nextFiring_topx {s : State} {e : ERef} {b : Bind} {bs : List Bind} (h : (s.elem e).topx = b :: bs) :
    nextFiring s e = some (none, b) := by
  simp only [nextFiring, h]

theorem nextFiring_bound {s : State} {e : ERef} {m : Nat} {b : Bind} (h0 : (s.elem e).topx = []) (hm : m < 4)
    (hb : (s.elem e).binds.find? (fun p => p.1 == m) = some (m, b)) (he : BindEligible s e.inst b)
    (hlow : ∀ m' b', m' < m → m' < 4 ∧ (s.elem e).binds.find? (fun p => p.1 == m') = some (m', b') → ¬ BindEligible s e.inst b') :
    nextFiring s e = some (some m, b) := by
  obtain ⟨hhas, hget⟩ := find?_key_eq (d := noBind) hb
  have hfind : (List.range 4).find? (fun i => khas (s.elem e).binds i && bindReady s e.inst (kget noBind (s.elem e).binds i)) = some m := by
    refine List.find?_range_eq_some.mpr ⟨by rw [hhas, hget, bindReady_iff.mpr he]; rfl, List.mem_range.mpr hm, fun k hk => ?_⟩
    rw [Bool.not_eq_true', Bool.and_eq_false_imp]
    exact fun hkh => Bool.eq_false_iff.mpr fun hr => hlow k _ hk ⟨by omega, khas_find? hkh⟩ (bindReady_iff.mp hr)
  simp only [nextFiring, h0, hfind, Option.map_some, hget]

/-! ## A firing begun (R139, R142, R162) -/

theorem acquireOpnds_eq (s : State) (e : ERef) (ws : List Word) : ∃ hb, (acquireOpnds s e ws).elem e = { s.elem e with hb := hb } := by
  refine List.foldlRecOn (motive := fun t => ∃ hb, State.elem t e = { s.elem e with hb := hb }) (topHandles ws) _ ⟨_, rfl⟩
    fun t ht h _ => ?_
  obtain ⟨_, ht⟩ := ht
  split
  · exact ⟨_, ht⟩
  · obtain ⟨hb, ha⟩ := (acquireOptAt_acquired t e _).elem
    exact ⟨hb, by rw [ha, ht]⟩

theorem AccessOnly.readTile {q : Rq} {inst : Nat} {h : Word} {s t : State} {bs : List Byte} (hr : readTile q inst h s = .ok (bs, t)) :
    AccessOnly s t := by
  unfold Machine.readTile at hr
  split at hr
  · exact (ok_pair hr).2 ▸ refl s
  · exact readPlace hr

theorem AccessOnly.checkLines {q : Rq} {y : Nat × Nat} {ls : List Nat} {s t : State} (h : checkLines q y ls s = .ok t) :
    AccessOnly s t := by
  induction ls generalizing s with
  | nil => exact Except.ok.inj h ▸ refl s
  | cons l ls ih =>
    unfold Machine.checkLines at h
    split at h
    next => simp at h
    next he => exact (engineTile he).trans (ih h)

/-- B as the statement has it taken: in dots as readB does, else whole, or as the systolic array holds it (R142, R213). -/
theorem readB_of {q : Rq} {e : ERef} {b : Bind} {m bs : List Byte} {held : Option (Nat × List Byte)} {s t : State}
    (h : if b.kind = 2 then readB q e b m s = .ok ((bs, held), t)
      else if isSystolic s e.rref = false ∨ 3 < b.kind then readTile q e.inst (TDesc.hb b.words) s = .ok (bs, t) ∧ held = none
      else held = some ((s.tile (entryOf s e.inst (TDesc.hb b.words))).fills, bs) ∧
        (b.held = some ((s.tile (entryOf s e.inst (TDesc.hb b.words))).fills, bs) ∧ t = s ∨
        (∀ bs, b.held ≠ some ((s.tile (entryOf s e.inst (TDesc.hb b.words))).fills, bs)) ∧
          readTile q e.inst (TDesc.hb b.words) s = .ok (bs, t))) :
    readB q e b m s = .ok ((bs, held), t) := by
  split at h
  next => exact h
  next hk =>
    unfold readB
    rw [if_neg hk]
    split at h
    next hs =>
      have hsys : (isSystolic s e.rref && decide (b.kind ≤ 3)) = false := by
        rcases hs with hs | hs
        · rw [hs, Bool.false_and]
        · rw [decide_eq_false (by omega), Bool.and_false]
      obtain ⟨hr, rfl⟩ := h
      simp only [hsys, Bool.false_eq_true, if_false, hr]
    next hs =>
      have hsys : (isSystolic s e.rref && decide (b.kind ≤ 3)) = true := by
        obtain ⟨h1, h2⟩ := not_or.mp hs
        rw [Bool.not_eq_false] at h1
        rw [h1, decide_eq_true (by omega)]
        rfl
      obtain ⟨rfl, ⟨hheld, rfl⟩ | ⟨hnone, hr⟩⟩ := h
      · simp only [hsys, if_true, hheld, Option.filter, beq_self_eq_true]
      · have hfil : b.held.filter (fun h => h.1 == (s.tile (entryOf s e.inst (TDesc.hb b.words))).fills) = none := by
          rw [Option.filter_eq_none_iff]
          intro y hy hf
          obtain ⟨i, bs⟩ := y
          rw [beq_iff_eq] at hf
          exact hnone bs (by rw [hy, ← hf])
        simp only [hsys, if_true, hfil, hr]

theorem AccessOnly.readB {q : Rq} {e : ERef} {b : Bind} {m : List Byte} {r : List Byte × Option (Nat × List Byte)} {s t : State}
    (h : readB q e b m s = .ok (r, t)) : AccessOnly s t := by
  unfold Machine.readB at h
  dsimp only at h
  split at h
  · split at h
    next => simp at h
    next hc => exact (ok_pair h).2 ▸ checkLines hc
  · split at h
    · exact (ok_pair h).2 ▸ refl s
    · split at h
      next => simp at h
      next hr => exact (ok_pair h).2 ▸ readTile hr

/-- A firing in progress. -/
def firingOf (s : State) (e : ERef) (i : Option Nat) (b : Bind) (r : List (Nat × Bool) × List Word) (held : Option (Nat × List Byte))
    (id : Nat) : Firing :=
  ⟨i, { b with delay := r.2, held := held, hb := firingDeps s e i.isSome b }, r.1.any Prod.snd, excSubs b.words r.1, id⟩

/-- The part once a firing's result is written. -/
def fired (u : State) (e : ERef) (i : Option Nat) (z : Firing) : State :=
  { u with fresh := u.fresh + 1 }.modElem e (fun x => { x with topx := if i.isNone then x.topx.drop 1 else x.topx, firing := some z })

/-- A firing's place among its sink's events (R163). -/
def firedLogged (s : State) (e : ERef) (id : Nat) (u : State) : State := if isSink s e then logLater u e id [] else u

theorem fireOne_eq {s s1 s2 s3 s4 u : State} {e : ERef} {i : Option Nat} {b : Bind} {o : Opnds} {held : Option (Nat × List Byte)}
    {r : List (Nat × Bool) × List Word}
    (ha : readTile (bindRq s e b.slot) e.inst (TDesc.ha b.words) (if i.isSome then acquireOpnds s e b.words else s) = .ok (o.a, s1))
    (hm : readTile (bindRq s e b.slot) e.inst (TDesc.hm b.words) s1 = .ok (o.m, s2))
    (hb : readB (bindRq s e b.slot) e b o.m s2 = .ok ((o.b, held), s3))
    (hc : (if b.kind = 7 then .ok ([], s3) else readTile (bindRq s e b.slot) e.inst (TDesc.hc b.words) s3) = .ok (o.c, s4))
    (hr : topResult b o = r)
    (hw : writePlace (bindRq s e b.slot) (.tile (entryOf s e.inst (TDesc.hd b.words)) 0) 0
      (packElems (fmtOf (TDesc.fd b.words)).width (r.1.map Prod.fst)) s4 = .ok u) :
    fireOne s e i b = .ok (firedLogged s e u.fresh (fired u e i (firingOf s e i b r held u.fresh))) := by
  subst hr
  unfold fireOne
  exact (ok_bind ha _).trans <| (ok_bind hm _).trans <| (ok_bind hb _).trans <| (ok_bind hc _).trans <| ok_bind hw _

theorem firedLogged_eq (s : State) (e : ERef) (i : Option Nat) (id : Nat) (z : Firing) (u : State) :
    (firedLogged s e id (fired u e i z)).mem = u.mem ∧ ((firedLogged s e id (fired u e i z)).elem e).firing = some z ∧
    ((firedLogged s e id (fired u e i z)).elem e).topx = if i.isNone then (u.elem e).topx.drop 1 else (u.elem e).topx := by
  have he : (fired u e i z).elem e = { u.elem e with
      topx := if i.isNone then (u.elem e).topx.drop 1 else (u.elem e).topx, firing := some z } := State.elem_modElem_self ..
  unfold firedLogged
  split
  · rw [logLater, State.elem_modElem_self, he]
    exact ⟨rfl, rfl, rfl⟩
  · rw [he]
    exact ⟨rfl, rfl, rfl⟩

/-- A firing in its tables' turn (R103, R139). -/
theorem exec_tileOpFiring {s t : State} {e : ERef} {n : Option Nat} {b : Bind} (hn : nextFiring s e = some (n, b))
    (hidle : (s.elem e).firing = none) (hup : graphUp s e.inst = true) (hfirst : n.isNone ∨ lowerFirst s e b = false)
    (hturn : ∀ h ∈ topHandles b.words, s.inTurn (.table (entryOf s e.inst h).1) (tableEngine e.el) = true)
    (hf : fireOne s e n b = .ok t) :
    exec (.tileOpFiring e) s = .next (actTables t e.inst (topHandles b.words) (tableEngine e.el)) := by
  show execTileOpFiring e s = _
  unfold execTileOpFiring
  simp only [hn, hf]
  exact if_pos ⟨hidle, hup, hfirst, tablesInTurn_iff.mpr hturn⟩

/-- Settles O46: what a firing takes, computes and leaves, then its end. -/
theorem tileFiringResults : Obligations.TileFiringResults := by
  refine ⟨?_, ?_⟩
  · intro s e n b hidle hrun hfault x ws full free eligible binding hsel hturn q s0 o held s1 s2 s3 s4 u hs d ha hm hb hc M N K fa fb a a32
      bk b32 c kept place g value hkind h0 hstep hlen hget hw
    have hvalue (i j : Nat) : value i j = firedValue b o hs i j := by
      have hcases : b.kind = 0 ∨ b.kind = 1 ∨ b.kind = 2 ∨ b.kind = 3 ∨ b.kind = 4 ∨ b.kind = 5 ∨ b.kind = 6 ∨ b.kind = 7 := by omega
      unfold firedValue
      rcases hcases with hk | hk | hk | hk | hk | hk | hk | hk <;> simp only [value, hk]
      · exact (topElem_whole (kind := 0) ws o (by decide) (by decide) i j).symm
      · exact (topElem_whole (kind := 1) ws o (by decide) (by decide) i j).symm
      · exact (topElem_dots ws o i j).symm
      · exact (topElem_whole (kind := 3) ws o (by decide) (by decide) i j).symm
      · exact (topElem_sacc ws o i j).symm
      · exact (topElem_addt ws o i j).symm
      · exact (topElem_copyt ws o i j).symm
      · rfl
    have hres := topResult_eq (o := o) h0 hstep hlen fun i j hi hj => (hget i j hi hj).trans (hvalue i j)
    have hb' := readB_of (q := q) hb
    have hnext : nextFiring s e = some (n, b) ∧ (n.isNone = true ∨ lowerFirst s e b = false) := by
      obtain ⟨bs, rfl, ht⟩ | ⟨m, rfl, ht, ⟨hm4, hf⟩, hel, hlow, hfirst⟩ := hsel
      · exact ⟨nextFiring_topx ht, .inl rfl⟩
      · exact ⟨nextFiring_bound ht hm4 hf hel hlow, .inr hfirst⟩
    have hfire := fireOne_eq (i := n) ha hm hb' hc hres hw
    have hframe : AccessOnly s0 u :=
      (((AccessOnly.readTile ha).trans (.readTile hm)).trans (.readB hb')).trans (AccessOnly.trans (by
        split at hc
        · exact (ok_pair hc).2 ▸ .refl _
        · exact .readTile hc) (.writePlace hw))
    have htopx : (u.elem e).topx = (s.elem e).topx := by
      rw [hframe.elem]
      show (State.elem (if n.isSome then acquireOpnds s e b.words else s) e).topx = _
      split
      · obtain ⟨_, hq⟩ := acquireOpnds_eq s e b.words
        rw [hq]
      · rfl
    obtain ⟨hmem, hz, hx⟩ := firedLogged_eq s e n u.fresh (firingOf s e n b (d, firedDelay b hs) held u.fresh) u
    set t := firedLogged s e u.fresh (fired u e n (firingOf s e n b (d, firedDelay b hs) held u.fresh))
    obtain ⟨_, hacted⟩ := actTables_eq t e.inst (topHandles b.words) (tableEngine e.el)
    refine ⟨_, firingOf s e n b (d, firedDelay b hs) held u.fresh,
      exec_tileOpFiring hnext.1 hidle (graphUp_of_up ⟨hrun, hfault⟩) hnext.2 hturn hfire, ?_, ?_, rfl, rfl, rfl, rfl, rfl, rfl, ?_,
      mem_excSubs ws d⟩
    · rw [hacted]; exact hmem
    · rw [actTables_elem]; exact hz
    · rw [actTables_elem, hx, htopx]
      cases n <;> rfl
  · intro s e z hz ht b note ent
    obtain ⟨_, hacted⟩ := actTables_eq (endFiring s e z) e.inst (topHandles z.op.words) (tableEngine e.el)
    refine ⟨_, exec_tileOpFiringEnd hz ht, ?_⟩
    rw [hacted]
    cases hbind : z.bind with
    | none =>
      obtain ⟨hfiring, hmem, htok, huses⟩ := endFiring_topxEnd hbind
      exact ⟨hfiring, hmem, fun _ => ⟨htok, huses⟩, fun _ h => absurd h (by simp)⟩
    | some k =>
      obtain ⟨hfiring, hmem, hempty, hfull, hrel, hgoes, hends⟩ := endFiring_boundEnd hbind
      refine ⟨hfiring, hmem, fun h => absurd h (by simp), ?_⟩
      rintro n ⟨⟩
      exact ⟨hempty, hfull, hrel, hgoes, hends⟩

end Sys2Proof.Machine
end

section
/-! SUPPORT. grule and the directory commands (spec/06_block_tensors.md R85 to R92, spec/07_instr_contraction_tiles.md R110, R116, R118 to R122):
Obligations.DirectoryCommandResults. -/

namespace Sys2Proof.Machine

/-- A computation that stops there. -/
theorem stop_bind {α β : Type} {x : Except Stop α} {e : Stop} (h : x = .error e) (f : α → Except Stop β) : (x >>= f) = .error e := by
  rw [h]; rfl

/-- A step that is made on a condition. -/
theorem bind_ite {α β : Type} {c : Prop} [Decidable c] {x y : Except Stop α} {a : α} (h : (if c then x else y) = .ok a)
    (f : α → Except Stop β) : (if c then x >>= f else y >>= f) = f a := by
  rw [← ok_bind h f]
  split <;> rfl

/-! ## The stable sort of entries by their charge tuples (R91, R122) -/

section
variable {α κ : Type} [LinearOrder κ] {key : α → κ} {x : α} {xs ys : List α}

/-- The order by a key. -/
def keyLt (key : α → κ) (a b : α) : Bool := decide (key a < key b)

/-- What a list holds of one key. -/
def ofKey (key : α → κ) (k : κ) (xs : List α) : List α := xs.filter (fun a => decide (key a = k))

theorem mem_ofKey {k : κ} {a : α} : a ∈ ofKey key k xs ↔ a ∈ xs ∧ key a = k := by simp [ofKey]

/-- Sorted by a key, equal ones in any order. -/
def SortedBy (key : α → κ) (xs : List α) : Prop := xs.Pairwise (fun a b => key a ≤ key b)

theorem insertBy_sorted (h : SortedBy key xs) : SortedBy key (insertBy (keyLt key) x xs) := by
  induction xs with
  | nil => simp [insertBy, SortedBy]
  | cons y ys ih =>
    obtain ⟨hy, hys⟩ := List.pairwise_cons.mp h
    rw [insertBy]
    split
    next hlt =>
      have hxy : key x < key y := of_decide_eq_true hlt
      refine List.pairwise_cons.mpr ⟨fun z hz => ?_, h⟩
      rcases List.mem_cons.mp hz with rfl | hz
      · exact hxy.le
      · exact hxy.le.trans (hy z hz)
    next hlt =>
      have hyx : key y ≤ key x := not_lt.mp fun hl => hlt (decide_eq_true hl)
      refine List.pairwise_cons.mpr ⟨fun z hz => ?_, ih hys⟩
      rcases mem_insertBy.mp hz with rfl | hz
      · exact hyx
      · exact hy z hz

/-- An inserted element stands behind all of its key. -/
theorem filter_insertBy (h : SortedBy key xs) (k : κ) :
    ofKey key k (insertBy (keyLt key) x xs) =
      ofKey key k xs ++ ofKey key k [x] := by
  unfold ofKey
  induction xs with
  | nil => rfl
  | cons y ys ih =>
    obtain ⟨hy, hys⟩ := List.pairwise_cons.mp h
    rw [insertBy]
    split
    next hlt =>
      have hxy : key x < key y := of_decide_eq_true hlt
      by_cases hk : key x = k
      · have hnone : (y :: ys).filter (fun a => decide (key a = k)) = [] := by
          refine List.filter_eq_nil_iff.mpr fun z hz => ?_
          have hxz : key x < key z := (List.mem_cons.mp hz).elim (fun h => h ▸ hxy) fun h => hxy.trans_le (hy z h)
          simpa using (hk ▸ hxz).ne'
        rw [List.filter_cons_of_pos (by simpa using hk), hnone]
        simp [hk]
      · rw [List.filter_cons_of_neg (by simpa using hk)]
        simp [hk]
    next => rw [List.filter_cons, List.filter_cons, ih hys]; split <;> rfl

theorem sortBy_append_singleton {lt : α → α → Bool} : sortBy lt (xs ++ [x]) = insertBy lt x (sortBy lt xs) := by
  rw [sortBy, List.foldl_append]; rfl

theorem sortBy_stable (xs : List α) : SortedBy key (sortBy (keyLt key) xs) ∧
    ∀ k, ofKey key k (sortBy (keyLt key) xs) = ofKey key k xs := by
  induction xs using List.reverseRecOn with
  | nil => exact ⟨.nil, fun _ => rfl⟩
  | append_singleton xs x ih =>
    obtain ⟨hs, hf⟩ := ih
    rw [sortBy_append_singleton]
    exact ⟨insertBy_sorted hs, fun k => by rw [filter_insertBy hs, hf, ofKey, ofKey, ← List.filter_append]; rfl⟩

/-- A list sorted by a key is known by what it holds of each key. -/
theorem eq_of_sortedBy (hx : SortedBy key xs) (hy : SortedBy key ys)
    (h : ∀ k, ofKey key k xs = ofKey key k ys) : xs = ys := by
  have hmem {us vs : List α} (h : ∀ k, ofKey key k us = ofKey key k vs) (a : α)
      (ha : a ∈ us) : a ∈ vs := by
    have hf : a ∈ ofKey key (key a) us := mem_ofKey.mpr ⟨ha, rfl⟩
    exact (mem_ofKey.mp (h (key a) ▸ hf)).1
  induction xs generalizing ys with
  | nil => exact (List.eq_nil_iff_forall_not_mem.mpr fun a ha => List.not_mem_nil (hmem (fun k => (h k).symm) a ha)).symm
  | cons a xs ih =>
    obtain _ | ⟨b, ys⟩ := ys
    · exact absurd (hmem h a List.mem_cons_self) List.not_mem_nil
    · obtain ⟨ha, hxs⟩ := List.pairwise_cons.mp hx
      obtain ⟨hb, hys⟩ := List.pairwise_cons.mp hy
      have hle {c d : α} {us : List α} (hc : ∀ z ∈ us, key c ≤ key z) (hd : d ∈ c :: us) : key c ≤ key d :=
        (List.mem_cons.mp hd).elim (fun h => h ▸ le_rfl) (hc d)
      have hkey : key a = key b := le_antisymm (hle ha (hmem (fun k => (h k).symm) b List.mem_cons_self))
        (hle hb (hmem h a List.mem_cons_self))
      have hhead := h (key a)
      rw [ofKey, ofKey, List.filter_cons_of_pos (by simp), List.filter_cons_of_pos (by simpa using hkey.symm)] at hhead
      obtain ⟨rfl, -⟩ := List.cons.inj hhead
      refine congrArg (a :: ·) (ih hxs hys fun k => ?_)
      have hk := h k
      rw [ofKey, ofKey, List.filter_cons, List.filter_cons] at hk
      split at hk
      · exact (List.cons.inj hk).2
      · exact hk

end

theorem tupleLt_eq {xs ys : List Word} (h : xs.length = ys.length) :
    tupleLt xs ys = decide (xs.map BitVec.toNat < ys.map BitVec.toNat) := by
  induction xs generalizing ys with
  | nil =>
    obtain rfl := List.length_eq_zero_iff.mp h.symm
    simp [tupleLt]
  | cons x xs ih =>
    obtain _ | ⟨y, ys⟩ := ys
    · simp at h
    · rw [tupleLt, ih (by simpa using h), List.map_cons, List.map_cons]
      simp only [List.cons_lt_cons_iff]
      rcases lt_trichotomy x.toNat y.toNat with hxy | hxy | hxy
      · simp [hxy]
      · simp [hxy]
      · simp [hxy, hxy.not_gt, hxy.ne']

/-- The order of a sort, as numbers (R91). -/
def tupleKey (n : Nat) (e : Ent) : List Nat := (e.qs n).map BitVec.toNat

theorem qs_eq_iff {n : Nat} {e : Ent} {k : List Word} : e.qs n = k ↔ tupleKey n e = k.map BitVec.toNat :=
  (List.map_injective_iff.mpr fun _ _ => BitVec.eq_of_toNat_eq).eq_iff.symm

theorem ofKey_tupleKey (n : Nat) (w : List Word) (es : List Ent) :
    ofKey (tupleKey n) (w.map BitVec.toNat) es = es.filter (fun e => decide (e.qs n = w)) :=
  List.filter_congr fun _ _ => decide_eq_decide.mpr qs_eq_iff.symm

theorem tupleLt_qs (n : Nat) : (fun (a b : Ent) => tupleLt (a.qs n) (b.qs n)) = keyLt (tupleKey n) :=
  by
  funext a b
  rw [tupleLt_eq (by simp [Ent.qs]), keyLt]
  exact decide_eq_decide.mpr Iff.rfl

/-- The sort of bdsort is the entries' one order by charge tuples in which equal ones stand as they stood (R122). -/
theorem sortBy_tupleLt {n : Nat} {es es' : List Ent} (hs : es'.Pairwise (fun a b => tupleLt (b.qs n) (a.qs n) = false))
    (hf : ∀ k, es'.filter (fun e => decide (e.qs n = k)) = es.filter (fun e => decide (e.qs n = k))) :
    sortBy (fun (a b : Ent) => tupleLt (a.qs n) (b.qs n)) es = es' := by
  obtain ⟨hsort, hstable⟩ := sortBy_stable (key := tupleKey n) es
  rw [tupleLt_qs]
  refine eq_of_sortedBy hsort (hs.imp fun {a b} h => ?_) fun k => (hstable k).trans ?_
  · rw [tupleLt_eq (by simp [Ent.qs]), decide_eq_false_iff_not, not_lt] at h
    exact h
  · by_cases hk : ∃ w : List Word, k = w.map BitVec.toNat
    · obtain ⟨w, rfl⟩ := hk
      rw [ofKey_tupleKey, ofKey_tupleKey, hf]
    · have hnone (us : List Ent) : ofKey (tupleKey n) k us = [] :=
        List.eq_nil_iff_forall_not_mem.mpr fun a h => hk ⟨a.qs n, (mem_ofKey.mp h).2.symm⟩
      rw [hnone, hnone]

/-! ## Probes (R119, R120) -/

/-- Entries that stand from an index on, as their requester reads them. -/
def StandFrom (q : Rq) (va : Nat) (s : State) (i : Nat) (es : List Ent) : Prop :=
  ∀ m e, es[m]? = some e → readEnt q va (i + m) s = .ok (e, s)

theorem Stands.standFrom {q : Rq} {va : Nat} {s : State} {h : Hdr} {es : List Ent} (hs : Stands s q va h es) : StandFrom q va s 0 es :=
  fun m e he => (Nat.zero_add m).symm ▸ hs.entries m e he

section
variable {q : Rq} {va i : Nat} {s : State} {e : Ent} {es : List Ent} {p : Ent → Bool}

theorem StandFrom.head (h : StandFrom q va s i (e :: es)) : readEnt q va i s = .ok (e, s) := h 0 e rfl

theorem StandFrom.tail (h : StandFrom q va s i (e :: es)) : StandFrom q va s (i + 1) es := fun m x hx => by
  rw [Nat.add_right_comm, Nat.add_assoc]
  exact h (m + 1) x hx

/-- The entry goes by that does not match. -/
theorem probeFrom_skip (h : readEnt q va i s = .ok (e, s)) (hp : ¬ (e.v = true ∧ p e = true)) (n : Nat) :
    probeFrom q va anyEnt p (n + 1) i s = probeFrom q va anyEnt p n (i + 1) s := by
  rw [probeFrom, h]
  dsimp only
  split
  next hv => exact if_neg fun hpe => hp ⟨hv, hpe⟩
  next => rfl

theorem probeFrom_none (h : StandFrom q va s i es) (hp : ∀ e ∈ es, ¬ (e.v = true ∧ p e = true)) :
    probeFrom q va anyEnt p es.length i s = .ok (none, s) := by
  induction es generalizing i with
  | nil => rfl
  | cons e es ih =>
    rw [List.length_cons, probeFrom_skip h.head (hp e List.mem_cons_self)]
    exact ih h.tail fun x hx => hp x (List.mem_cons_of_mem _ hx)

theorem probeFrom_some {n : Nat} (h : StandFrom q va s i es) (hn : es[n]? = some e) (hv : e.v = true) (hpe : p e = true)
    (hp : ∀ m x, m < n → es[m]? = some x → ¬ (x.v = true ∧ p x = true)) :
    probeFrom q va anyEnt p es.length i s = .ok (some (i + n, e), s) := by
  induction es generalizing i n with
  | nil => simp at hn
  | cons y es ih =>
    rw [List.length_cons]
    cases n with
    | zero =>
      obtain rfl : y = e := by simpa using hn
      rw [probeFrom, h.head]
      exact (if_pos hv).trans (if_pos hpe)
    | succ n =>
      rw [probeFrom_skip h.head (hp 0 y (Nat.succ_pos n) rfl), ih h.tail hn fun m x hm hx => hp (m + 1) x (Nat.succ_lt_succ hm) hx,
        Nat.add_right_comm, Nat.add_assoc]

end

theorem tupleEq_qs {g : Rule} {e : Ent} {key : List Word} {n : Nat} (hl : key.length = n) :
    tupleEq g (e.qs n) key = true ↔ ∀ k, k < n → ceq g (e.q k) (key.getD k 0) = true := by
  have hkey : key = (List.range n).map (fun k => key.getD k 0) := by
    refine List.ext_getElem (by simpa using hl) fun k hk _ => ?_
    rw [List.getElem_map, List.getElem_range, List.getD_eq_getElem _ _ hk]
  rw [tupleEq, Ent.qs]
  conv_lhs => rw [hkey, List.zip_map', List.all_map]
  simp [List.all_eq_true]

/-- Entry e agrees with a key under a rule (R120). -/
def Agrees (n : Nat) (g : Rule) (key : List Word) (e : Ent) : Prop := e.v = true ∧ ∀ k, k < n → ceq g (e.q k) (key.getD k 0) = true

theorem agrees_iff {g : Rule} {e : Ent} {key : List Word} {n : Nat} (hl : key.length = n) :
    e.v = true ∧ tupleEq g (e.qs n) key = true ↔ Agrees n g key e := and_congr_right fun _ => tupleEq_qs hl

/-- The first valid entry with equal charges (R119, R120). -/
def FirstAgrees (h : Nat) (g : Rule) (key : List Word) (es : List Ent) (n : Nat) : Prop :=
  (∃ e, es[n]? = some e ∧ Agrees h g key e) ∧ ∀ m e, m < n → es[m]? = some e → ¬ Agrees h g key e

section
variable {q : Rq} {va : Nat} {s : State} {h : Hdr} {es : List Ent} {g : Rule} {key : List Word}

theorem Stands.probe_first (hs : Stands s q va h es) (hc : h.count ≤ h.lim) (hl : key.length = h.nleg) {n : Nat}
    (hf : FirstAgrees h.nleg g key es n) :
    ∃ e, probeFrom q va anyEnt (fun x => tupleEq g (x.qs h.nleg) key) (min h.count h.lim) 0 s = .ok (some (n, e), s) := by
  obtain ⟨⟨e, he, ha⟩, hlow⟩ := hf
  obtain ⟨hv, hp⟩ := (agrees_iff hl).mpr ha
  rw [Nat.min_eq_left hc, ← hs.counted]
  exact ⟨e, (probeFrom_some hs.standFrom he hv hp fun m x hm hx hx' => hlow m x hm hx ((agrees_iff hl).mp hx')).trans
    (by rw [Nat.zero_add])⟩

theorem Stands.probe_none (hs : Stands s q va h es) (hc : h.count ≤ h.lim) (hl : key.length = h.nleg)
    (hn : ∀ e, e ∈ es → ¬ Agrees h.nleg g key e) :
    probeFrom q va anyEnt (fun x => tupleEq g (x.qs h.nleg) key) (min h.count h.lim) 0 s = .ok (none, s) := by
  rw [Nat.min_eq_left hc, ← hs.counted]
  exact probeFrom_none hs.standFrom fun e he hx => hn e he ((agrees_iff hl).mp hx)

theorem ensureIndex_valid (hi : h.ixv = true) : ensureIndex q va h s = .ok (h, s) := if_pos hi

theorem readEnts_eq (i : Nat) (hs : StandFrom q va s i es) :
    readEnts q va ((List.range es.length).map (i + ·)) s = .ok (es, s) := by
  induction es generalizing i with
  | nil => rfl
  | cons e es ih =>
    have hnext := ih (i + 1) hs.tail
    rw [List.length_cons, List.range_succ_eq_map, List.map_cons, List.map_map]
    refine (ok_bind hs.head _).trans ?_
    have hmap : (List.range es.length).map ((i + ·) ∘ Nat.succ) = (List.range es.length).map (i + 1 + ·) :=
      List.map_congr_left fun k _ => by simp only [Function.comp_apply]; omega
    exact ok_bind (hmap ▸ hnext) _

end

theorem needRule_some {s : State} {r : RRef} {n : Nat} {g : Rule} (h : s.ruleReg r n = some g) : needRule s r n = .ok g := by
  rw [needRule, h]

theorem needRule_none {s : State} {r : RRef} {n : Nat} (h : s.ruleReg r n = none) : needRule s r n = trap0 0x02A := by
  rw [needRule, h]

/-! ## A command at its directory's header (R113, R114) -/

/-- A directory command has come to its header: its pointer is aligned, what its element has asked is performed. -/
structure AtHeader (j : Job) (u : State) (q : Rq) (va : Nat) (h : Hdr) (s : State) : Prop where
  pointer : ptrVA j j.src.a 64 u = .ok va
  performed : settled j .part u = .ok s
  requester : jobRq j s = q
  header : readHdr q va s = .ok (h, s)

section
variable {j : Job} {u s : State} {q : Rq} {va : Nat} {h : Hdr} (H : AtHeader j u q va h s)
include H

/-- What a command does from its header on. -/
theorem AtHeader.begin {β : Type} (F : Nat → State → Hdr × State → Except Stop β) :
    (ptrVA j j.src.a 64 u >>= fun va => settled j .part u >>= fun s0 => readHdr (jobRq j s0) va s0 >>= F va s0) = F va s (h, s) := by
  obtain ⟨hp, hu, rfl, hh⟩ := H
  exact (ok_bind hp _).trans <| (ok_bind hu _).trans <| ok_bind hh _

/-- The same of a command with a second pointer. -/
theorem AtHeader.begin_with {β : Type} {n pv : Nat} (hi : ptrVA j j.src.b n u = .ok pv)
    (F : Nat → Nat → State → Hdr × State → Except Stop β) :
    (ptrVA j j.src.a 64 u >>= fun va => ptrVA j j.src.b n u >>= fun pv => settled j .part u >>= fun s0 =>
      readHdr (jobRq j s0) va s0 >>= F va pv s0) = F va pv s (h, s) := by
  obtain ⟨hp, hu, rfl, hh⟩ := H
  exact (ok_bind hp _).trans <| (ok_bind hi _).trans <| (ok_bind hu _).trans <| ok_bind hh _

/-! ### bdget (R121) -/

theorem workBdget_sorting (hs : h.sorting = true) : workBdget j u = .error .wait :=
  (H.begin _).trans <| if_pos hs

theorem workBdget_header (hs : h.sorting = false) (hi : bits j.src.b 31 4 = 0x0FFFFFFF) :
    workBdget j u = .ok (word (nthW h.ws (bits j.src.b 3 0)), s) :=
  (H.begin _).trans <| (if_neg (ne_true_of_eq_false hs)).trans <| if_pos hi

theorem workBdget_beyond (hs : h.sorting = false) (hi : bits j.src.b 31 4 ≠ 0x0FFFFFFF) (hc : h.count ≤ bits j.src.b 31 4) :
    workBdget j u = .ok (⟨0, true, false⟩, s) :=
  (H.begin _).trans <| (if_neg (ne_true_of_eq_false hs)).trans <| (if_neg hi).trans <| if_pos hc

theorem workBdget_entry {e : Ent} (hs : h.sorting = false) (hi : bits j.src.b 31 4 ≠ 0x0FFFFFFF) (hc : ¬ h.count ≤ bits j.src.b 31 4)
    (he : readEnt q va (bits j.src.b 31 4) s = .ok (e, s)) : workBdget j u = .ok (word (nthW e.ws (bits j.src.b 3 0)), s) := by
  obtain rfl := H.requester
  exact (H.begin _).trans <| (if_neg (ne_true_of_eq_false hs)).trans <|
    (if_neg hi).trans <| (if_neg hc).trans <| ok_bind he _

/-! ### bdinit (R118) -/

theorem workBdinit_unsound (hs : h.shapeOk = false ∨ h.limOk = false) : workBdinit j u = trap0 0x024 :=
  (H.begin _).trans <| if_pos hs

theorem workBdinit_busy (hs : ¬ (h.shapeOk = false ∨ h.limOk = false)) (hb : h.busy = true) : workBdinit j u = busyTrap :=
  (H.begin _).trans <| (if_neg hs).trans <| if_pos hb

theorem workBdinit_large (hs : ¬ (h.shapeOk = false ∨ h.limOk = false)) (hb : h.busy = false) (hl : h.lim < j.src.b.toNat) :
    workBdinit j u = trap0 0x024 :=
  (H.begin _).trans <| (if_neg hs).trans <|
    (if_neg (ne_true_of_eq_false hb)).trans <| if_pos hl

theorem workBdinit_clears {v w y z : State} (hs : ¬ (h.shapeOk = false ∨ h.limOk = false)) (hb : h.busy = false)
    (hl : ¬ h.lim < j.src.b.toNat) (hv : clearV q va (min h.count h.lim) s = .ok v)
    (hw : (if j.src.b = 0 then Except.ok v else writeWord q (va + 12) j.src.b v) = .ok w) (hy : writeWord q (va + 8) 0 w = .ok y)
    (hz : writeWord q va ((h.w0 ||| 0x800) &&& ~~~0x400) y = .ok z) : workBdinit j u = .ok (word (wd h.lim), z) := by
  obtain rfl := H.requester
  exact (H.begin _).trans <| (if_neg hs).trans <|
    (if_neg (ne_true_of_eq_false hb)).trans <| (if_neg hl).trans <| (ok_bind hv _).trans <| (bind_ite hw _).trans <|
    (ok_bind hy _).trans <| ok_bind hz _

/-! ### bdins (R119) -/

section
variable {im : Nat} (hi : ptrVA j j.src.b 64 u = .ok im)
include hi

theorem workBdins_busy (hb : h.busy = true) : workBdins j u = busyTrap :=
  (H.begin_with hi _).trans <| if_pos hb

theorem workBdins_noRule (hb : h.busy = false) (hg : s.ruleReg j.e.rref h.rule = none) : workBdins j u = trap0 0x02A :=
  (H.begin_with hi _).trans <|
    (if_neg (ne_true_of_eq_false hb)).trans <| stop_bind (needRule_none hg) _

section
variable {r : Rule} {ws : List Word} (hb : h.busy = false) (hg : s.ruleReg j.e.rref h.rule = some r)
  (hw : readWords q im 16 s = .ok (ws, s))
include hb hg hw

theorem workBdins_unsound (he : (⟨ws⟩ : Ent).ok h.nleg = false) : workBdins j u = trap0 0x024 := by
  obtain rfl := H.requester
  exact (H.begin_with hi _).trans <|
    (if_neg (ne_true_of_eq_false hb)).trans <| (ok_bind (needRule_some hg) _).trans <| (ok_bind hw _).trans <| if_pos he

theorem workBdins_uncharged (he : (⟨ws⟩ : Ent).ok h.nleg = true)
    (hc : (((⟨ws⟩ : Ent).qs h.nleg).all (canonical r) = false ∨ selects r h.dirs ((⟨ws⟩ : Ent).qs h.nleg) h.flux = false)) :
    workBdins j u = trap0 0x029 := by
  obtain rfl := H.requester
  exact (H.begin_with hi _).trans <|
    (if_neg (ne_true_of_eq_false hb)).trans <| (ok_bind (needRule_some hg) _).trans <| (ok_bind hw _).trans <|
    (if_neg (ne_false_of_eq_true he)).trans <| if_pos hc

section
variable (he : (⟨ws⟩ : Ent).ok h.nleg = true)
  (hc : ¬ (((⟨ws⟩ : Ent).qs h.nleg).all (canonical r) = false ∨ selects r h.dirs ((⟨ws⟩ : Ent).qs h.nleg) h.flux = false))
  (hx : h.ixv = true)
include he hc hx

theorem workBdins_found {n : Nat} {e : Ent}
    (hf : probeFrom q va anyEnt (fun x => tupleEq r (x.qs h.nleg) ((⟨ws⟩ : Ent).qs h.nleg)) (min h.count h.lim) 0 s = .ok (some (n, e), s)) :
    workBdins j u = .ok (word (0x80000000 ||| wd n), s) := by
  obtain rfl := H.requester
  exact (H.begin_with hi _).trans <|
    (if_neg (ne_true_of_eq_false hb)).trans <| (ok_bind (needRule_some hg) _).trans <| (ok_bind hw _).trans <|
    (if_neg (ne_false_of_eq_true he)).trans <| (if_neg hc).trans <| (ok_bind (ensureIndex_valid hx) _).trans <| ok_bind hf _

section
variable (hf : probeFrom q va anyEnt (fun x => tupleEq r (x.qs h.nleg) ((⟨ws⟩ : Ent).qs h.nleg)) (min h.count h.lim) 0 s = .ok (none, s))
include hf

theorem workBdins_full (hfull : h.count = h.cap) : workBdins j u = .ok (word 0xFFFFFFFF, s) := by
  obtain rfl := H.requester
  exact (H.begin_with hi _).trans <|
    (if_neg (ne_true_of_eq_false hb)).trans <| (ok_bind (needRule_some hg) _).trans <| (ok_bind hw _).trans <|
    (if_neg (ne_false_of_eq_true he)).trans <| (if_neg hc).trans <| (ok_bind (ensureIndex_valid hx) _).trans <|
    (ok_bind hf _).trans <| if_pos hfull

/-- The entry as it is appended: V set, SQ and ZF cleared (R119). -/
theorem workBdins_appends {t : State} (hroom : h.count ≠ h.cap)
    (ha : appendEnt q va h (ws.set 12 ((nthW ws 12 ||| 0x80000000) &&& 0x9FFFFFFF)) s = .ok t) :
    workBdins j u = .ok (word (wd h.count), t) := by
  obtain rfl := H.requester
  have hword : setBitW (setBitW (setBitW (nthW ws 12) 31 true) 30 false) 29 false = (nthW ws 12 ||| 0x80000000) &&& 0x9FFFFFFF :=
    BitVec.and_assoc ..
  rw [← hword] at ha
  exact (H.begin_with hi _).trans <|
    (if_neg (ne_true_of_eq_false hb)).trans <| (ok_bind (needRule_some hg) _).trans <| (ok_bind hw _).trans <|
    (if_neg (ne_false_of_eq_true he)).trans <| (if_neg hc).trans <| (ok_bind (ensureIndex_valid hx) _).trans <|
    (ok_bind hf _).trans <| (if_neg hroom).trans <| ok_bind ha _

end
end
end
end

/-! ### bdfind (R120) -/

section
variable {kv : Nat} (hi : ptrVA j j.src.b 4 u = .ok kv)
include hi

theorem workBdfind_sorting (hs : h.sorting = true) : workBdfind j u = .error .wait :=
  (H.begin_with hi _).trans <| if_pos hs

theorem workBdfind_noRule (hs : h.sorting = false) (hg : s.ruleReg j.e.rref h.rule = none) : workBdfind j u = trap0 0x02A :=
  (H.begin_with hi _).trans <|
    (if_neg (ne_true_of_eq_false hs)).trans <| stop_bind (needRule_none hg) _

theorem workBdfind_probed {r : Rule} {key : List Word} {found : Option (Nat × Ent)} (hs : h.sorting = false)
    (hg : s.ruleReg j.e.rref h.rule = some r) (hw : readWords q kv h.nleg s = .ok (key, s)) (hx : h.ixv = true)
    (hf : probeFrom q va anyEnt (fun x => tupleEq r (x.qs h.nleg) key) (min h.count h.lim) 0 s = .ok (found, s)) :
    workBdfind j u = .ok (word ((found.map (fun p => wd p.1)).getD 0xFFFFFFFF), s) := by
  obtain rfl := H.requester
  refine (H.begin_with hi _).trans <|
    (if_neg (ne_true_of_eq_false hs)).trans <| (ok_bind (needRule_some hg) _).trans <| (ok_bind hw _).trans <|
    (ok_bind (ensureIndex_valid hx) _).trans <| (ok_bind hf _).trans ?_
  cases found <;> rfl

end

/-! ### bdsort (R122) -/

theorem workBdsort_busy (hb : h.busy = true) : workBdsort j u = busyTrap :=
  (H.begin _).trans <| if_pos hb

theorem workBdsort_named (hb : h.busy = false)
    (hn : contractionNaming s q.ctx (fun i c => descVA s i c 1 == va || descVA s i c 2 == va) = true) : workBdsort j u = .error .wait := by
  obtain rfl := H.requester
  exact (H.begin _).trans <| (if_neg (ne_true_of_eq_false hb)).trans <| if_pos hn

theorem workBdsort_sorts {es es' : List Ent} {v w y z : State} (hb : h.busy = false)
    (hn : contractionNaming s q.ctx (fun i c => descVA s i c 1 == va || descVA s i c 2 == va) = false)
    (hv : writeWord q (va + 20) 0 s = .ok v) (hw : writeWord q va (h.w0 ||| 0x200) v = .ok w)
    (hr : readEnts q va (List.range (min h.count h.lim)) w = .ok (es, w))
    (hs : sortBy (fun (a b : Ent) => tupleLt (a.qs h.nleg) (b.qs h.nleg)) es = es') (hy : writeEnts q va 0 es' w = .ok y)
    (hz : writeWord q va (h.w0 ||| 0xC00) (indexArea q.ctx va h.lim y) = .ok z) : workBdsort j u = .ok (word (wd h.count), z) := by
  obtain rfl := H.requester
  have hword : setBitW (setBitW h.w0 11 true) 10 true = h.w0 ||| 0xC00 := BitVec.or_assoc ..
  rw [← hword] at hz
  subst hs
  exact (H.begin _).trans <| (if_neg (ne_true_of_eq_false hb)).trans <|
    (if_neg (ne_true_of_eq_false hn)).trans <| (ok_bind hv _).trans <| (ok_bind hw _).trans <| (ok_bind hr _).trans <|
    (ok_bind hy _).trans <| ok_bind hz _

end

/-! ## grule (R85, R116) -/

theorem find?_kset_ne {α : Type} (m : KMap α) {i k : Nat} (h : i ≠ k) (v : α) :
    (kset m i v).find? (fun p => p.1 == k) = m.find? (fun p => p.1 == k) := by
  induction m with
  | nil => exact List.find?_cons_of_neg (by simpa using h)
  | cons p m ih =>
    rw [kset]
    split
    next hp => rw [List.find?_cons_of_neg (by simpa using h), List.find?_cons_of_neg (by simpa [hp] using h)]
    next => rw [List.find?_cons, List.find?_cons, ih]

/-- A region once a write to a rule register has been taken: what was written before stands in the registers, it does not yet (R116). -/
theorem rulesAt_writeRule (t : State) (e : ERef) (n : Nat) (g : Rule) :
    (((writeRule t e n g).region e.rref).rulesAt t.now = (t.region e.rref).rulesAt t.now) ∧
    ((∀ w ∈ (t.region e.rref).ruleNew, w.at_ < t.now) → ∀ now, t.now < now →
      ((writeRule t e n g).region e.rref).rulesAt now = kset ((t.region e.rref).rulesAt t.now) n g) := by
  rw [writeRule, State.region_modRegion, if_pos rfl]
  set ws := (t.region e.rref).ruleNew with hws
  constructor
  · have hnone : (ws.filter (fun w => t.now ≤ w.at_) ++ [(⟨t.now, e.el, n, g⟩ : RuleWrite)]).filter
        (fun w : RuleWrite => w.at_ < t.now) = [] := by
      refine List.filter_eq_nil_iff.mpr fun w hw => ?_
      rcases List.mem_append.mp hw with hw | hw
      · simpa using (List.mem_filter.mp hw).2
      · simp [List.mem_singleton.mp hw]
    rw [Region.rulesAt, hnone]
    rfl
  · intro hold now hnow
    have hgone : ws.filter (fun w => t.now ≤ w.at_) = [] :=
      List.filter_eq_nil_iff.mpr fun w hw => by simpa using hold w hw
    rw [Region.rulesAt, hgone, List.nil_append, List.filter_cons_of_pos (by simpa using hnow)]
    rfl

section
variable {j : Job} {u s : State} {f : FmtE} {va : Nat} (hp : ptrVA j j.src.a 32 u = .ok va)
include hp

theorem workGrule_unsettled (hs : settled j .part u = .error .wait) : workGrule f j u = .error .wait :=
  (ok_bind hp _).trans <| stop_bind hs _

variable {t : State} {ws : List Word} (hs : settled j .part u = .ok s) (hw : readWords (jobRq j s) va 8 s = .ok (ws, t))
include hs hw

theorem workGrule_invalid (hg : ruleOf ws = none) : workGrule f j u = trap0 0x028 := by
  refine (ok_bind hp _).trans <| (ok_bind hs _).trans <| (ok_bind hw _).trans ?_
  simp only [hg]

theorem workGrule_valid {g : Rule} (hg : ruleOf ws = some g) :
    workGrule f j u = .ok (noRes, writeRule t j.e (bits f.dst 2 0) g) := by
  refine (ok_bind hp _).trans <| (ok_bind hs _).trans <| (ok_bind hw _).trans ?_
  simp only [hg]

end

/-! ## Settling -/

section
variable {s : State} {f : FmtE} {src : Src} {popped : List (Nat × Token)} {x : Elem}

theorem exec_grule (h : Reads s 12 f.sa f.sb false false src popped x) :
    exec (.grule f) s = .next (issueWork (curWait s (.grule f) src popped) s.cur ⟨12, 0, 0, 0⟩ (workGrule f) (taken s x)) :=
  congrArg _ (waiting_reads_eq (k := ⟨12, 0, 0, 0⟩) h)

theorem exec_bdget (h : ReadsE s f src popped x) :
    exec (.bdget f) s = .next (issueWork (curWait s (.bdget f) src popped) s.cur (sinkE f) workBdget (taken s x)) := runE_eq_issue h
theorem exec_bdinit (h : ReadsE s f src popped x) :
    exec (.bdinit f) s = .next (issueWork (curWait s (.bdinit f) src popped) s.cur (sinkE f) workBdinit (taken s x)) := runE_eq_issue h
theorem exec_bdins (h : ReadsE s f src popped x) :
    exec (.bdins f) s = .next (issueWork (curWait s (.bdins f) src popped) s.cur (sinkE f) workBdins (taken s x)) := runE_eq_issue h
theorem exec_bdfind (h : ReadsE s f src popped x) :
    exec (.bdfind f) s = .next (issueWork (curWait s (.bdfind f) src popped) s.cur (sinkE f) workBdfind (taken s x)) := runE_eq_issue h
theorem exec_bdsort (h : ReadsE s f src popped x) :
    exec (.bdsort f) s = .next (issueWork (curWait s (.bdsort f) src popped) s.cur (sinkE f) workBdsort (taken s x)) := runE_eq_issue h

/-- A command's pointer, where it is aligned (R110). -/
theorem ptrVA_aligned {p : Word} {n : Nat} (h : p.toNat % n = 0) : ptrVA (curJob s src) p n (taken s x) = .ok (ptrAt s p) := if_pos h
theorem ptrVA_misaligned {p : Word} {n : Nat} (h : p.toNat % n ≠ 0) : ptrVA (curJob s src) p n (taken s x) = trap0 0x023 := if_neg h

theorem atHeader {h : Hdr} {es : List Ent} (ha : src.a.toNat % 64 = 0) (hs : Settled s x)
    (hst : Stands (cmdState s src x) (cmdRq (cmdState s src x)) (ptrAt s src.a) h es) :
    AtHeader (curJob s src) (taken s x) (cmdRq (cmdState s src x)) (ptrAt s src.a) h (cmdState s src x) :=
  ⟨ptrVA_aligned ha, settled_ok .part hs, jobRq_flush .., hst.header⟩

theorem cmdRq_ctx : (cmdRq (cmdState s src x)).ctx = (s.inst s.cur.inst).ctx := by
  obtain ⟨_, _, _, h⟩ := MemoryOnly.flush (curJob s src) .part (taken s x)
  rw [cmdState, h]
  rfl

/-- A contraction of the context that runs or is stopped and has the directory as its A or B (R122). -/
theorem contractionNaming_iff {t : State} {ctx va : Nat} :
    contractionNaming t ctx (fun i c => descVA t i c 1 == va || descVA t i c 2 == va) = true ↔
      ∃ r ∈ t.regions, (t.inst r.1.inst).ctx = ctx ∧ ∃ c ∈ r.2.cons, c.state ≤ 1 ∧
        (descVA t r.1.inst c 1 = va ∨ descVA t r.1.inst c 2 = va) := by
  simp only [contractionNaming, List.any_eq_true, Bool.and_eq_true, beq_iff_eq, decide_eq_true_eq, Bool.or_eq_true]

end

theorem bits_31_4 (w : Word) : bits w 31 4 = w.toNat / 16 := by
  have h : w.toNat < 2 ^ 32 := w.isLt
  rw [bits, Nat.shiftRight_eq_div_pow]
  omega

theorem bits_3_0 (w : Word) : bits w 3 0 = w.toNat % 16 := rfl

theorem charged_iff {r : Rule} {h : Hdr} {e : Ent} :
    ((e.qs h.nleg).all (canonical r) = false ∨ selects r h.dirs (e.qs h.nleg) h.flux = false) ↔
      ¬ ((∀ k, k < h.nleg → canonical r (e.q k) = true) ∧ selects r h.dirs (e.qs h.nleg) h.flux = true) := by
  rw [not_and_or, Bool.not_eq_true]
  refine or_congr_left ?_
  rw [← Bool.not_eq_true, Ent.qs, List.all_map, List.all_eq_true]
  simp

/-- grule's part of the statement. -/
theorem grule_loads {s : State} {f : FmtE} {src : Src} {popped : List (Nat × Token)} {x : Elem} {ws : List Word} {u : State} {g : Rule}
    (h : Reads s 12 f.sa f.sb false false src popped x) (ha : src.a.toNat % 32 = 0) (hs : Settled s x)
    (hw : readWords (cmdRq (cmdState s src x)) (ptrAt s src.a) 8 (cmdState s src x) = .ok (ws, u)) (hg : ruleOf ws = some g) :
    ∃ t, exec (.grule f) s = .next t ∧ (∀ n, t.ruleReg s.cur.rref n = u.ruleReg s.cur.rref n) ∧
      ((∀ w ∈ (u.region s.cur.rref).ruleNew, w.at_ < u.now) → ∀ n now, u.now < now →
        State.ruleReg { t with now := now } s.cur.rref n = if n = bits f.dst 2 0 then some g else u.ruleReg s.cur.rref n) := by
  rw [show cmdRq (cmdState s src x) = jobRq (curJob s src) (cmdState s src x) from (jobRq_flush ..).symm] at hw
  have hwork : workGrule f (curJob s src) (taken s x) = .ok (noRes, writeRule u s.cur (bits f.dst 2 0) g) :=
    workGrule_valid (j := curJob s src) (ptrVA_aligned ha) (settled_ok .part hs) hw hg
  obtain ⟨hnow, hlater⟩ := rulesAt_writeRule u s.cur (bits f.dst 2 0) g
  refine ⟨_, gives_of_issue (exec_grule h) hwork, fun n => ?_, fun hold n now hn => ?_⟩
  · rw [State.ruleReg, State.region, concluded_regions, concluded_now, ← State.region,
      show (writeRule u s.cur (bits f.dst 2 0) g).now = u.now from rfl,
      hnow, ← State.ruleReg]
  · have hreg (t : State) : State.ruleReg { t with now := now } s.cur.rref n =
        (((t.region s.cur.rref).rulesAt now).find? (fun p => p.1 == n)).map Prod.snd := rfl
    rw [hreg, State.region, concluded_regions, ← State.region, hlater hold now hn]
    split
    next he => rw [he, find?_kset]; rfl
    next he => rw [find?_kset_ne _ (Ne.symm he)]; rfl

/-- Settles O38: each command's outcomes, from the header its directory shows. -/
theorem directoryCommandResults : Obligations.DirectoryCommandResults := by
  refine ⟨?_, ?_⟩
  · intro s f src popped x s0 q va
    refine ⟨fun h => ⟨fun ha => ?_, fun ha hs => ?_, fun ws u ha hs hw => ⟨fun hg => ?_, fun g hg => grule_loads h ha hs hw hg⟩⟩, ?_⟩
    · exact traps_of_issue (exec_grule h) h (by decide) (stop_bind (ptrVA_misaligned ha) _)
    · exact waits_of_issue (exec_grule h) (workGrule_unsettled (ptrVA_aligned ha) (settled_waits .part hs))
    · have hq : q = jobRq (curJob s src) s0 := (jobRq_flush ..).symm
      rw [hq] at hw
      exact traps_of_issue (exec_grule h) h (by decide)
        (workGrule_invalid (j := curJob s src) (ptrVA_aligned ha) (settled_ok .part hs) hw hg)
    · intro h ha hs hd es hst
      have H := atHeader ha hs hst
      refine ⟨fun hsort => waits_of_issue (exec_bdget h) (workBdget_sorting H hsort), fun hsort => ?_⟩
      intro i k
      have hi : bits (curJob s src).src.b 31 4 = i := bits_31_4 src.b
      refine ⟨fun h1 => ?_, fun h1 hc => ?_, fun e he h1 => ?_⟩
      · exact gives_of_issue (exec_bdget h) (workBdget_header H hsort (hi.trans h1))
      · exact gives_of_issue (exec_bdget h) (workBdget_beyond H hsort (hi ▸ h1) (hi ▸ hc))
      · have hlen : i < hd.count := hst.counted ▸ (List.getElem?_eq_some_iff.mp he).1
        exact gives_of_issue (exec_bdget h) (workBdget_entry H hsort (hi ▸ h1) (hi ▸ Nat.not_le.mpr hlen) (hi ▸ hst.entries i e he))
  · intro s f src popped x h s0 q va traps
    refine ⟨fun i hi ha => ?_, fun hs ha hd es hst => ?_⟩
    · have hp := ptrVA_misaligned (s := s) (src := src) (x := x) ha
      simp only [List.mem_cons, List.not_mem_nil, or_false] at hi
      rcases hi with rfl | rfl | rfl | rfl | rfl
      · exact traps_of_issue (exec_bdinit h) h (by decide) (stop_bind hp _)
      · exact traps_of_issue (exec_bdins h) h (by decide) (stop_bind hp _)
      · exact traps_of_issue (exec_bdfind h) h (by decide) (stop_bind hp _)
      · exact traps_of_issue (exec_bdget h) h (by decide) (stop_bind hp _)
      · exact traps_of_issue (exec_bdsort h) h (by decide) (stop_bind hp _)
    intro g agrees first
    have H := atHeader ha hs hst
    have hsound (h1 : hd.shapeOk = true) (h2 : hd.limOk = true) : ¬ (hd.shapeOk = false ∨ hd.limOk = false) := by simp [h1, h2]
    refine ⟨fun hbad => ?_, fun h1 h2 hb => ?_, fun h1 h2 hb hl => ?_, fun v w y z h1 h2 hb hl hv hw hy hz => ?_, fun hi hb => ?_,
      fun hi hb hg => ?_, fun r im hi hc hb hg hw => ?_, fun hi hsort => ?_, fun hi hsort hg => ?_,
      fun r key hi hsort hg hw hk hx hc => ?_, fun hb => ?_, fun hb hn => ?_, fun es' u v w y hb hc hn hperm hsorted hstable hu hv he hw hy => ?_⟩
    · exact traps_of_issue (exec_bdinit h) h (by decide) (workBdinit_unsound H hbad)
    · exact traps_of_issue (exec_bdinit h) h (by decide) (workBdinit_busy H (hsound h1 h2) hb)
    · exact traps_of_issue (exec_bdinit h) h (by decide) (workBdinit_large H (hsound h1 h2) hb hl)
    · exact gives_of_issue (exec_bdinit h) (workBdinit_clears H (hsound h1 h2) hb (Nat.not_lt.mpr hl) hv hw hy hz)
    · exact traps_of_issue (exec_bdins h) h (by decide) (workBdins_busy H (ptrVA_aligned hi) hb)
    · exact traps_of_issue (exec_bdins h) h (by decide) (workBdins_noRule H (ptrVA_aligned hi) hb hg)
    · intro e charged
      have hp := ptrVA_aligned (s := s) (src := src) (x := x) hi
      refine ⟨fun he => ?_, fun he hch => ?_, fun he hch hx => ?_⟩
      · exact traps_of_issue (exec_bdins h) h (by decide) (workBdins_unsound H hp hb hg hw he)
      · exact traps_of_issue (exec_bdins h) h (by decide) (workBdins_uncharged H hp hb hg hw he (charged_iff.mpr hch))
      have hcharged : ¬ ((e.qs hd.nleg).all (canonical r) = false ∨ selects r hd.dirs (e.qs hd.nleg) hd.flux = false) :=
        fun hbad => charged_iff.mp hbad hch
      have hkey : (e.qs hd.nleg).length = hd.nleg := by simp [Ent.qs]
      refine ⟨fun n hn => ?_, fun hnone => ⟨fun hfull => ?_, fun u hroom hu => ?_⟩⟩
      · obtain ⟨_, hprobe⟩ := hst.probe_first hc hkey hn
        exact gives_of_issue (exec_bdins h) (workBdins_found H hp hb hg hw he hcharged hx hprobe)
      · exact gives_of_issue (exec_bdins h) (workBdins_full H hp hb hg hw he hcharged hx (hst.probe_none hc hkey hnone) hfull)
      · exact gives_of_issue (exec_bdins h) (workBdins_appends H hp hb hg hw he hcharged hx (hst.probe_none hc hkey hnone) hroom hu)
    · exact waits_of_issue (exec_bdfind h) (workBdfind_sorting H (ptrVA_aligned hi) hsort)
    · exact traps_of_issue (exec_bdfind h) h (by decide) (workBdfind_noRule H (ptrVA_aligned hi) hsort hg)
    · refine ⟨fun n hn => ?_, fun hnone => ?_⟩
      · obtain ⟨_, hprobe⟩ := hst.probe_first hc hk hn
        exact gives_of_issue (exec_bdfind h) (workBdfind_probed H (ptrVA_aligned hi) hsort hg hw hx hprobe)
      · exact gives_of_issue (exec_bdfind h) (workBdfind_probed H (ptrVA_aligned hi) hsort hg hw hx (hst.probe_none hc hk hnone))
    · exact traps_of_issue (exec_bdsort h) h (by decide) (workBdsort_busy H hb)
    · exact waits_of_issue (exec_bdsort h) (workBdsort_named H hb (contractionNaming_iff.mpr (cmdRq_ctx ▸ hn)))
    · have hnone : contractionNaming s0 q.ctx (fun i c => descVA s0 i c 1 == va || descVA s0 i c 2 == va) = false := by
        rw [← Bool.not_eq_true, contractionNaming_iff]
        rintro ⟨r, hr, -, c, hcon, hstate, -⟩
        exact absurd hstate (Nat.not_le.mpr (hn r hr c hcon))
      have hread : readEnts q va (List.range (min hd.count hd.lim)) v = .ok (es, v) := by
        have hfrom : StandFrom q va v 0 es := fun m e hm => (Nat.zero_add m).symm ▸ he m e hm
        rw [Nat.min_eq_left hc, ← hst.counted]
        simpa using readEnts_eq 0 hfrom
      exact gives_of_issue (exec_bdsort h) (workBdsort_sorts H hb hnone hu hv hread (sortBy_tupleLt hsorted hstable) hw hy)

end Sys2Proof.Machine
end

section
/-! SUPPORT. Words the spec writes out, and the charge instructions (spec/03_element_and_word.md R44 to R56,
spec/07_instr_contraction_tiles.md R115, R117): Obligations.DecodeSampleWords and Obligations.ChargeInstructionResults. -/

namespace Sys2Proof

/-- A word that the encoder writes for a well-formed trigger and instruction decodes to them. -/
theorem decodeSlot_of_encode_eq {w : SlotWord} {t : Trigger} {i : Instr} (hw : encode t i = w) (h : WellFormed t i = true) :
    decodeSlot w = .ok (t, i) := hw ▸ decodeSlot_encode h

/-- Settles O5: each word is what the encoder writes for the instruction it stands for; the two others are no instructions. -/
theorem decodeSampleWords : Obligations.DecodeSampleWords := by
  refine ⟨?fadd, ?addi, ?pset, ?plog, ?qeq, ?nop, ?halt, ?notValid, ?reservedOp⟩
  case fadd => exact decodeSlot_of_encode_eq (by decide) (by decide)
  case addi => exact decodeSlot_of_encode_eq (by decide) (by decide)
  case pset => exact decodeSlot_of_encode_eq (by decide) (by decide)
  case plog => exact decodeSlot_of_encode_eq (by decide) (by decide)
  case qeq => exact decodeSlot_of_encode_eq (by decide) (by decide)
  case nop => exact decodeSlot_of_encode_eq (by decide) (by decide)
  case halt => exact decodeSlot_of_encode_eq (by decide) (by decide)
  case notValid => rfl
  case reservedOp => rfl

end Sys2Proof

namespace Sys2Proof.Machine

/-! ## The charge instructions (R117) -/

section
variable {s t : State} {f : FmtS} {src : Src} {popped : List (Nat × Token)} {x : Elem} {r : Res}

/-- An instruction of format S, none of which releases at its end, whose work answers. -/
theorem gives_of_runS {i : Instr} {w : Src → State → Except Stop (Res × State)} (he : exec i s = runS f s w)
    (hr : commandRelease i s.cur t = t) (h : ReadsS s f src popped x) (hw : w src (taken s x) = .ok (r, t)) : Gives s i t (sinkS f) r := by
  rw [Gives, he, runS_reads h hw, concluded, hr]
  rfl

/-- One whose work traps. -/
theorem runS_trap {c a : Nat} {i j : Word} {w : Src → State → Except Stop (Res × State)} (h : ReadsS s f src popped x)
    (hw : w src (taken s x) = .error (.trap c a i j)) : runS f s w = .next (trapAt s s.cur s.curSlot c 0 a i j) := by
  rw [runS, systemOp_trap _ _ _ h hw]

@[simp] theorem taken_curElem : (taken s x).curElem = x := State.elem_setElem_self ..

theorem setQ_taken (f : FmtS) (v : Word) : setQ (taken s x) f v = s.setElem s.cur { x with q := kset x.q (bits f.sli 1 0) v } := by
  simp [setQ, taken, State.modElem]

/-- The selected rule, once the sources are taken (R115). -/
theorem ruleSel_taken_some {g : Rule} (h : s.ruleReg s.cur.rref x.rs = some g) : ruleSel (taken s x) = .ok g := by
  rw [ruleSel, taken_curElem, show (taken s x).ruleReg (taken s x).cur.rref x.rs = some g from h]

theorem ruleSel_taken_none (h : s.ruleReg s.cur.rref x.rs = none) : ruleSel (taken s x) = trap0 0x02A := by
  rw [ruleSel, taken_curElem, show (taken s x).ruleReg (taken s x).cur.rref x.rs = none from h]

/-- A charge test's outcome: its condition, 1 or 0 as the word, and the source's flag. -/
theorem wkQtest_taken {g : Rule} (h : s.ruleReg s.cur.rref x.rs = some g) (test : Rule → Word → Word → Bool) :
    wkQtest f test src (taken s x) = .ok (⟨bw (test g src.a (qOf x f)), src.fa, test g src.a (qOf x f)⟩, taken s x) := by
  rw [wkQtest, ruleSel_taken_some h, taken_curElem]

/-- qfuse and qinv leave their result in the charge register too. -/
theorem wkQfuse_taken {g : Rule} (h : s.ruleReg s.cur.rref x.rs = some g) : wkQfuse f src (taken s x) =
    .ok (⟨(cadd g src.a (qOf x f)).1, src.fa || (cadd g src.a (qOf x f)).2, false⟩,
      s.setElem s.cur { x with q := kset x.q (bits f.sli 1 0) (cadd g src.a (qOf x f)).1 }) := by
  rw [wkQfuse, ruleSel_taken_some h, taken_curElem, ← setQ_taken]

theorem wkQinv_taken {g : Rule} (h : s.ruleReg s.cur.rref x.rs = some g) : wkQinv f src (taken s x) =
    .ok (⟨(cneg g (qOf x f)).1, (cneg g (qOf x f)).2, false⟩,
      s.setElem s.cur { x with q := kset x.q (bits f.sli 1 0) (cneg g (qOf x f)).1 }) := by
  rw [wkQinv, ruleSel_taken_some h, taken_curElem, ← setQ_taken]

theorem bw_eq_ite (b : Bool) : bw b = if b then 1 else 0 := by cases b <;> rfl

theorem yields_of_wkQtest {i : Instr} {test : Rule → Word → Word → Bool} (he : exec i s = runS f s (wkQtest f test))
    (hr : commandRelease i s.cur (taken s x) = taken s x) (h : ReadsS s f src popped x) {g : Rule} (hg : s.ruleReg s.cur.rref x.rs = some g) :
    Yields s i (taken s x) (sinkS f) (fun r => r.cond = test g src.a (qOf x f) ∧ r.r = (if r.cond then 1 else 0) ∧ r.rf = src.fa) :=
  ⟨_, gives_of_runS he hr h (wkQtest_taken hg test), rfl, bw_eq_ite _, rfl⟩

end

/-- Settles O19: each instruction's work at the state in which its source is taken. -/
theorem chargeInstructionResults : Obligations.ChargeInstructionResults := by
  intro s f src popped x h n q withQ g
  refine ⟨?_, ?_, ?_, fun p hg => ⟨?_, ?_, ?_, ?_⟩, fun hg i hi => ?_⟩
  · exact gives_of_runS rfl rfl h (congrArg (fun t => Except.ok (noRes, t)) (setQ_taken f src.a))
  · exact gives_of_runS rfl rfl h (congrArg (fun y : Elem => Except.ok (word (qOf y f), taken s x)) taken_curElem)
  · exact gives_of_runS rfl rfl h (by simp [taken, State.modElem, noRes])
  · exact gives_of_runS rfl rfl h (wkQfuse_taken hg)
  · exact gives_of_runS rfl rfl h (wkQinv_taken hg)
  · exact yields_of_wkQtest (i := .qeq f) rfl rfl h hg
  · exact yields_of_wkQtest (i := .qchk f) rfl rfl h hg
  · have hstop := ruleSel_taken_none (s := s) (x := x) hg
    simp only [List.mem_cons, List.not_mem_nil, or_false] at hi
    rcases hi with rfl | rfl | rfl | rfl
    · exact runS_trap h (by rw [wkQfuse, hstop]; rfl)
    · exact runS_trap h (by rw [wkQinv, hstop]; rfl)
    · exact runS_trap h (by rw [wkQtest, hstop]; rfl)
    · exact runS_trap h (by rw [wkQtest, hstop]; rfl)

end Sys2Proof.Machine
end

section
/-! SUPPORT. bcon, bcres, bcstat and bcwait (spec/07_instr_contraction_tiles.md R122, R124 to R127, R132, R133, R135):
Obligations.ContractionCommandResults. -/

namespace Sys2Proof.Machine

/-! ## A command at the record its pointer names (R110, R114) -/

/-- A command has read the record of 16 words its pointer names: the pointer is aligned, what its element has asked is performed. -/
structure AtRecord (j : Job) (u : State) (va : Nat) (ws : List Word) (s : State) : Prop where
  pointer : ptrVA j j.src.a 64 u = .ok va
  performed : settled j .part u = .ok s
  record : readWords (jobRq j s) va 16 s = .ok (ws, s)

/-- What a command does from its record on. -/
theorem AtRecord.begin {j : Job} {u s : State} {va : Nat} {ws : List Word} (H : AtRecord j u va ws s) {β : Type}
    (F : Nat → State → List Word × State → Except Stop β) :
    (ptrVA j j.src.a 64 u >>= fun va => settled j .part u >>= fun s0 => readWords (jobRq j s0) va 16 s0 >>= F va s0) = F va s (ws, s) := by
  obtain ⟨hp, hu, hr⟩ := H
  exact (ok_bind hp _).trans <| (ok_bind hu _).trans <| ok_bind hr _

section
variable {s : State} {src : Src} {x : Elem}

theorem atRecord {ws : List Word} (ha : src.a.toNat % 64 = 0) (hs : Settled s x)
    (hr : readWords (cmdRq (cmdState s src x)) (ptrAt s src.a) 16 (cmdState s src x) = .ok (ws, cmdState s src x)) :
    AtRecord (curJob s src) (taken s x) (ptrAt s src.a) ws (cmdState s src x) :=
  ⟨ptrVA_aligned ha, settled_ok .part hs, (congrArg (fun q => readWords q _ 16 _) (jobRq_flush ..)).trans hr⟩

theorem cmdState_memoryOnly : MemoryOnly (taken s x) (cmdState s src x) := .flush ..

theorem cmdState_ruleReg (r : RRef) (n : Nat) : (cmdState s src x).ruleReg r n = s.ruleReg r n := by
  obtain ⟨_, _, _, h⟩ := cmdState_memoryOnly (s := s) (src := src) (x := x)
  rw [h]
  rfl

theorem cmdState_region (r : RRef) : (cmdState s src x).region r = s.region r := by
  obtain ⟨_, _, _, h⟩ := cmdState_memoryOnly (s := s) (src := src) (x := x)
  rw [h]
  rfl

end

/-! ## bcon (R127) -/

/-- The record of a contraction as bcon makes it (R133). -/
def newCon (j : Job) (seq : Nat) (ws : List Word) (g : Rule) (na nb : Nat) : Contraction :=
  { seq := seq, resume := 0, state := 0, cause := 0, retired := 0, alloc := 0, migr := 0, xk := none
    el := j.e.el, slot := j.slot, desc := ws, rule := g, na := na, nb := nb, i := 0, j := 0
    walked := false, stopped := none, queue := [], written := [], owners := [], exc := false }

section
variable {j : Job} {u s : State} {va : Nat} {ws : List Word} (H : AtRecord j u va ws s)
include H

theorem workBcon_badDesc (hd : conDescOk ws = false) : workBcon j u = trap0 0x024 :=
  (H.begin _).trans <| if_pos hd

/-- The first pointer of the descriptor that is not aligned stops the command (log 20). -/
theorem workBcon_misaligned (hd : ¬ conDescOk ws = false) (hp : ∃ n, 1 ≤ n ∧ n ≤ 4 ∧ ptrVA j (nthW ws n) 64 u = trap0 0x023) :
    workBcon j u = trap0 0x023 := by
  have hstop (n : Nat) : (∃ a, ptrVA j (nthW ws n) 64 u = .ok a) ∨ ptrVA j (nthW ws n) 64 u = trap0 0x023 := by
    unfold ptrVA
    split
    · exact .inl ⟨_, rfl⟩
    · exact .inr rfl
  refine (H.begin _).trans <| (if_neg hd).trans ?_
  rcases hstop 1 with ⟨a, h1⟩ | h1
  case inr => exact stop_bind h1 _
  refine (ok_bind h1 _).trans ?_
  rcases hstop 2 with ⟨b, h2⟩ | h2
  case inr => exact stop_bind h2 _
  refine (ok_bind h2 _).trans ?_
  rcases hstop 3 with ⟨c, h3⟩ | h3
  case inr => exact stop_bind h3 _
  refine (ok_bind h3 _).trans ?_
  rcases hstop 4 with ⟨p, h4⟩ | h4
  case inr => exact stop_bind h4 _
  obtain ⟨n, hn1, hn4, hn⟩ := hp
  have hcases : n = 1 ∨ n = 2 ∨ n = 3 ∨ n = 4 := by omega
  rcases hcases with rfl | rfl | rfl | rfl
  · simp [h1, trap0] at hn
  · simp [h2, trap0] at hn
  · simp [h3, trap0] at hn
  · simp [h4, trap0] at hn

section
variable {at_ : Nat → Nat} (hd : ¬ conDescOk ws = false) (hp : ∀ n, 1 ≤ n → n ≤ 4 → ptrVA j (nthW ws n) 64 u = .ok (at_ n))
include hd hp

theorem workBcon_same (hs : at_ 3 = at_ 1 ∨ at_ 3 = at_ 2) : workBcon j u = trap0 0x024 :=
  (H.begin _).trans <| (if_neg hd).trans <| (ok_bind (hp 1 (by decide) (by decide)) _).trans <|
    (ok_bind (hp 2 (by decide) (by decide)) _).trans <| (ok_bind (hp 3 (by decide) (by decide)) _).trans <|
    (ok_bind (hp 4 (by decide) (by decide)) _).trans <| if_pos hs

/-- bcon from the headers that its descriptor names on: its wait and its traps in their order, then the new record. -/
theorem workBcon_checked (hs : ¬ (at_ 3 = at_ 1 ∨ at_ 3 = at_ 2)) {ha hb hc : Hdr} {pw : List Word}
    (h1 : readHdr (jobRq j s) (at_ 1) s = .ok (ha, s)) (h2 : readHdr (jobRq j s) (at_ 2) s = .ok (hb, s))
    (h3 : readHdr (jobRq j s) (at_ 3) s = .ok (hc, s)) (h4 : readWords (jobRq j s) (at_ 4) 16 s = .ok (pw, s))
    {seq : Nat} (hseq : (s.region j.e.rref).cseq = seq) :
    workBcon j u =
      if ha.sorting ∨ hb.sorting then .error .wait
      else if hc.busy then busyTrap
      else if PoolHdr.ok ⟨pw⟩ = false then trap0 0x024
      else needRule s j.e.rref hc.rule >>= fun g =>
        writeHdr (jobRq j s) (at_ 3) (setBitW hc.w0 9 true) (some (conHandle j.e.reg seq)) s >>= fun v =>
        .ok (word (conHandle j.e.reg seq), v.modRegion j.e.rref (fun y => addCon y (newCon j seq ws g ha.count hb.count))) := by
  subst hseq
  exact (H.begin _).trans <| (if_neg hd).trans <| (ok_bind (hp 1 (by decide) (by decide)) _).trans <|
    (ok_bind (hp 2 (by decide) (by decide)) _).trans <| (ok_bind (hp 3 (by decide) (by decide)) _).trans <|
    (ok_bind (hp 4 (by decide) (by decide)) _).trans <| (if_neg hs).trans <| (ok_bind h1 _).trans <| (ok_bind h2 _).trans <|
    (ok_bind h3 _).trans <| ok_bind h4 _

end
end

/-- A record that joins its region is its last, and the next number is the one behind its own (R133). -/
theorem addCon_getLast? (y : Region) (c : Contraction) : (addCon y c).cons.getLast? = some c := by simp [addCon]

/-! ## Records that a handle names (R135) -/

theorem conOf_error {s : State} {i : Nat} {h : Word} {e : Stop} (he : conOf s i h = .error e) : conOf s i h = trap0 0x025 := by
  unfold conOf at he ⊢
  dsimp only at he ⊢
  split
  · rfl
  next hn =>
    rw [if_neg hn] at he
    split
    next hf => simp [hf] at he
    next => rfl

section
variable {j : Job} {u s : State} {r : RRef} {c : Contraction}

theorem workBcwait_running (h : conOf u j.e.inst j.src.a = .ok (r, c)) (h0 : c.state = 0) : workBcwait j u = .error .wait :=
  (ok_bind h _).trans <| if_pos h0

theorem workBcwait_over (h : conOf u j.e.inst j.src.a = .ok (r, c)) (h0 : c.state ≠ 0) :
    workBcwait j u = .ok (word (wd c.state), u) := (ok_bind h _).trans <| if_neg h0

theorem workBcstat_selector (h : conOf u j.e.inst j.src.a = .ok (r, c)) (hb : 7 < j.src.b.toNat) : workBcstat j u = trap0 0x02B :=
  (ok_bind h _).trans <| if_pos hb

theorem workBcstat_field (h : conOf u j.e.inst j.src.a = .ok (r, c)) (hb : ¬ 7 < j.src.b.toNat) :
    workBcstat j u = .ok (word (conField r c j.src.b.toNat), u) := (ok_bind h _).trans <| if_neg hb

theorem workBcres_elsewhere (h : conOf u j.e.inst j.src.a = .ok (r, c)) (hc : c.state ≠ 1 ∨ j.src.b ≠ wd c.resume) :
    workBcres j u = trap0 0x026 := (ok_bind h _).trans <| if_pos hc

theorem workBcres_resumes (h : conOf u j.e.inst j.src.a = .ok (r, c)) (hc : ¬ (c.state ≠ 1 ∨ j.src.b ≠ wd c.resume))
    (hs : settled j .part u = .ok s) {hd : Hdr} {v : State}
    (hr : readHdr (jobRq j s) (dataVA u j.e.inst (nthW c.desc 3).toNat) s = .ok (hd, s))
    (hw : writeHdr (jobRq j s) (dataVA u j.e.inst (nthW c.desc 3).toNat) (setBitW hd.w0 8 false) none s = .ok v) :
    workBcres j u = .ok (⟨j.src.a, j.src.fa, false⟩, modCon v r c.seq (fun c => { c with state := 0, stopped := none })) :=
  (ok_bind h _).trans <| (if_neg hc).trans <| (ok_bind hs _).trans <| (ok_bind hr _).trans <| ok_bind hw _

/-- The fields of the status record in the order of their selectors (R133). -/
theorem conField_eq (r : RRef) (c : Contraction) {n : Nat} (h : n ≤ 7) : conField r c n =
    wd ([c.resume, c.state, c.cause, c.retired, c.alloc, c.migr, c.xk.getD 0xFFFFFFFF, r.reg * 2 ^ 16 + c.el * 2 ^ 8 + c.slot].getD n 0) := by
  have hcases : n = 0 ∨ n = 1 ∨ n = 2 ∨ n = 3 ∨ n = 4 ∨ n = 5 ∨ n = 6 ∨ n = 7 := by omega
  rcases hcases with rfl | rfl | rfl | rfl | rfl | rfl | rfl | rfl <;> rfl

end

theorem AccessOnly.writeHdr {q : Rq} {va : Nat} {w0 : Word} {oph : Option Word} {s t : State} (h : writeHdr q va w0 oph s = .ok t) :
    AccessOnly s t := by
  unfold Machine.writeHdr at h
  split at h
  next => simp at h
  next h1 =>
    split at h
    next => exact Except.ok.inj h ▸ writeVA h1
    next => exact (writeVA h1).trans (writeVA h)

/-! ## The statement -/

section
variable {s : State} {f : FmtE} {src : Src} {popped : List (Nat × Token)} {x : Elem}

theorem exec_bcon (h : ReadsE s f src popped x) :
    exec (.bcon f) s = .next (issueWork (curWait s (.bcon f) src popped) s.cur (sinkE f) workBcon (taken s x)) := runE_eq_issue h
theorem exec_bcres (h : ReadsE s f src popped x) :
    exec (.bcres f) s = .next (issueWork (curWait s (.bcres f) src popped) s.cur (sinkE f) workBcres (taken s x)) := runE_eq_issue h
theorem exec_bcstat (h : ReadsE s f src popped x) :
    exec (.bcstat f) s = .next (issueWork (curWait s (.bcstat f) src popped) s.cur (sinkE f) workBcstat (taken s x)) := runE_eq_issue h
theorem exec_bcwait (h : ReadsE s f src popped x) :
    exec (.bcwait f) s = .next (issueWork (curWait s (.bcwait f) src popped) s.cur (sinkE f) workBcwait (taken s x)) := runE_eq_issue h

/-- What the region holds once a new record has joined it (R133). -/
theorem region_addCon {v : State} (hv : AccessOnly (cmdState s src x) v) (c : Contraction) :
    (v.modRegion s.cur.rref (fun y => addCon y c)).region s.cur.rref = addCon (s.region s.cur.rref) c := by
  rw [State.region_modRegion, if_pos rfl, hv.region, cmdState_region]

end

/-- Settles O41: bcon from its descriptor and the headers that it names, the others from the record that their handle names. -/
theorem contractionCommandResults : Obligations.ContractionCommandResults := by
  intro s f src popped x h s0 q va rr traps
  have hq : jobRq (curJob s src) s0 = q := jobRq_flush ..
  refine ⟨fun ha => ?_, fun ha hs => ?_, ?_, ?_, ?_⟩
  · exact traps_of_issue (exec_bcon h) h (by decide) (stop_bind (ptrVA_misaligned ha) _)
  · exact waits_of_issue (exec_bcon h) ((ok_bind (ptrVA_aligned ha) _).trans <| stop_bind (settled_waits .part hs) _)
  · intro ha hs ws hws at_ even
    have H := atRecord ha hs hws
    refine ⟨fun hd => ?_, fun hd he => ?_, fun hd he hsame => ?_, ?_⟩
    · exact traps_of_issue (exec_bcon h) h (by decide) (workBcon_badDesc H hd)
    · have hodd : ∃ n, 1 ≤ n ∧ n ≤ 4 ∧ ptrVA (curJob s src) (nthW ws n) 64 (taken s x) = trap0 0x023 := by
        simp only [even, not_forall] at he
        obtain ⟨n, h1, h4, hn⟩ := he
        exact ⟨n, h1, h4, ptrVA_misaligned hn⟩
      exact traps_of_issue (exec_bcon h) h (by decide) (workBcon_misaligned H (ne_false_of_eq_true hd) hodd)
    · exact traps_of_issue (exec_bcon h) h (by decide) (workBcon_same H (ne_false_of_eq_true hd)
        (fun n h1 h4 => ptrVA_aligned (he n h1 h4)) hsame)
    · intro ha hb hc pw hd he hne1 hne2 h1 h2 h3 h4 still
      have hwork := workBcon_checked H (ne_false_of_eq_true hd) (fun n h1 h4 => ptrVA_aligned (he n h1 h4))
        (not_or.mpr ⟨hne1, hne2⟩) (hq.symm ▸ h1) (hq.symm ▸ h2) (hq.symm ▸ h3) (hq.symm ▸ h4)
        (congrArg Region.cseq (cmdState_region rr))
      have hstill (hs : still) : ¬ (ha.sorting = true ∨ hb.sorting = true) := by simp [hs.1, hs.2]
      refine ⟨fun hn => ?_, fun hn hbusy => ?_, fun hn hbusy hp => ?_, fun hn hbusy hp hg => ?_, ?_⟩
      · have hsort : ha.sorting = true ∨ hb.sorting = true := by
          simpa only [still, not_and_or, Bool.not_eq_false] using hn
        exact waits_of_issue (exec_bcon h) (hwork.trans (if_pos hsort))
      · exact traps_of_issue (exec_bcon h) h (by decide) (hwork.trans <| (if_neg (hstill hn)).trans (if_pos hbusy))
      · exact traps_of_issue (exec_bcon h) h (by decide)
          (hwork.trans <| (if_neg (hstill hn)).trans <| (if_neg (ne_true_of_eq_false hbusy)).trans (if_pos hp))
      · have hrule : s0.ruleReg rr hc.rule = none := (cmdState_ruleReg ..).trans hg
        exact traps_of_issue (exec_bcon h) h (by decide)
          (hwork.trans <| (if_neg (hstill hn)).trans <| (if_neg (ne_true_of_eq_false hbusy)).trans <|
            (if_neg (ne_false_of_eq_true hp)).trans <| stop_bind (needRule_none hrule) _)
      · intro g v hn hbusy hp hg k hv
        have hrule : s0.ruleReg rr hc.rule = some g := (cmdState_ruleReg ..).trans hg
        have hdone := hwork.trans <| (if_neg (hstill hn)).trans <| (if_neg (ne_true_of_eq_false hbusy)).trans <|
          (if_neg (ne_false_of_eq_true hp)).trans <| (ok_bind (needRule_some hrule) _).trans <| ok_bind (hq.symm ▸ hv) _
        have hreg := region_addCon (.writeHdr hv) (newCon (curJob s src) (s.region rr).cseq ws g ha.count hb.count)
        refine ⟨_, newCon (curJob s src) (s.region rr).cseq ws g ha.count hb.count, gives_of_issue (exec_bcon h) hdone,
          (congrArg (fun y => y.cons.getLast?) hreg).trans (addCon_getLast? ..), rfl, rfl, rfl, rfl, rfl, rfl, rfl, rfl, rfl, rfl, rfl,
          congrArg Region.cseq hreg⟩
  · intro stop hstop i hi
    have hcon : conOf (taken s x) s.cur.inst src.a = trap0 0x025 := conOf_error hstop
    simp only [List.mem_cons, List.not_mem_nil, or_false] at hi
    rcases hi with rfl | rfl | rfl
    · exact traps_of_issue (exec_bcres h) h (by decide) (stop_bind hcon _)
    · exact traps_of_issue (exec_bcstat h) h (by decide) (stop_bind hcon _)
    · exact traps_of_issue (exec_bcwait h) h (by decide) (stop_bind hcon _)
  · intro r c hrec
    have hcon : conOf (taken s x) s.cur.inst src.a = .ok (r, c) := hrec
    refine ⟨fun hb => ?_, fun hc => ?_, fun hc => ?_, fun hc => ?_, fun hd v h1 hb hs hr hw => ?_, fun hb => ?_⟩
    · exact traps_of_issue (exec_bcstat h) h (by decide) (workBcstat_selector (j := curJob s src) hcon hb)
    · exact gives_of_issue (exec_bcwait h) (workBcwait_over (j := curJob s src) hcon hc)
    · exact waits_of_issue (exec_bcwait h) (workBcwait_running (j := curJob s src) hcon hc)
    · exact traps_of_issue (exec_bcres h) h (by decide) (workBcres_elsewhere (j := curJob s src) hcon hc)
    · have hat : ¬ (c.state ≠ 1 ∨ src.b ≠ wd c.resume) := by rintro (hn | hn); exacts [hn h1, hn hb]
      exact gives_of_issue (exec_bcres h) (workBcres_resumes (j := curJob s src) hcon hat (settled_ok .part hs) (hq ▸ hr) (hq.symm ▸ hw))
    · exact ⟨_, gives_of_issue (exec_bcstat h) (workBcstat_field (j := curJob s src) hcon (Nat.not_lt.mpr hb)), rfl, conField_eq r c hb⟩

end Sys2Proof.Machine
end

section
/-! SUPPORT. poolcfg, the blocks of a pool and their entries (spec/07_instr_contraction_tiles.md R123, R143, spec/06_block_tensors.md R88,
R96, R97): Obligations.PoolResults. -/

namespace Sys2Proof.Machine

/-! ## poolcfg (R123, R143) -/

theorem raiseAvail_eq (nblk avail n : Nat) : raiseAvail nblk avail n = (min nblk (avail + n), decide (nblk < avail + n)) := by
  unfold raiseAvail
  split
  next h => simp [h, Nat.min_eq_left h.le]
  next h => simp [h, Nat.min_eq_right (Nat.not_lt.mp h)]

section
variable {s : State} {f : FmtE} {src : Src} {popped : List (Nat × Token)} {x : Elem}

theorem exec_poolcfg (h : ReadsE s f src popped x) :
    exec (.poolcfg f) s = .next (issueWork (curWait s (.poolcfg f) src popped) s.cur (sinkE f) workPoolcfg (taken s x)) := runE_eq_issue h

theorem cmdState_inTurn (a : Arena) (k : Nat) : (cmdState s src x).inTurn a k = s.inTurn a k := by
  obtain ⟨_, _, _, h⟩ := cmdState_memoryOnly (s := s) (src := src) (x := x)
  rw [h]
  rfl

end

/-- A contraction of the context that runs or is stopped and takes its blocks from the pool (R123). -/
theorem contractionNaming_pool_iff {t : State} {ctx va : Nat} :
    contractionNaming t ctx (fun i c => descVA t i c 4 == va) = true ↔
      ∃ r ∈ t.regions, (t.inst r.1.inst).ctx = ctx ∧ ∃ c ∈ r.2.cons, c.state ≤ 1 ∧ descVA t r.1.inst c 4 = va := by
  simp only [contractionNaming, List.any_eq_true, Bool.and_eq_true, beq_iff_eq, decide_eq_true_eq]

section
variable {j : Job} {u s : State} {va : Nat} {ws : List Word} (H : AtRecord j u va ws s)
include H

theorem workPoolcfg_unsound (hp : PoolHdr.ok ⟨ws⟩ = false) : workPoolcfg j u = trap0 0x024 :=
  (H.begin _).trans <| if_pos hp

section
variable (hp : ¬ PoolHdr.ok ⟨ws⟩ = false)
include hp

theorem workPoolcfg_used (hu : (bit j.src.b 31 && contractionNaming s (jobRq j s).ctx (fun i c => descVA s i c 4 == va)) = true) :
    workPoolcfg j u = trap0 0x027 :=
  (H.begin _).trans <| (if_neg hp).trans <| if_pos hu

section
variable (hu : ¬ (bit j.src.b 31 && contractionNaming s (jobRq j s).ctx (fun i c => descVA s i c 4 == va)) = true)
include hu

theorem workPoolcfg_later (ht : u.inTurn (poolArena u j.e.inst va) 0 = false) : workPoolcfg j u = .error .wait :=
  (H.begin _).trans <| (if_neg hp).trans <| (if_neg hu).trans <| if_pos ht

theorem workPoolcfg_raises (ht : ¬ u.inTurn (poolArena u j.e.inst va) 0 = false) {r : Nat × Bool}
    (hr : raiseAvail (PoolHdr.nblk ⟨ws⟩) (if bit j.src.b 31 then 0 else PoolHdr.avail ⟨ws⟩) (bits j.src.b 30 0) = r) {v w : State}
    (hv : writeWord (jobRq j s) (va + 8) (wd r.1) s = .ok v)
    (hw : (if bit j.src.b 31 then writeWord (jobRq j s) (va + 12) 0 v else .ok v) = .ok w) :
    workPoolcfg j u = .ok (⟨wd (r.1 - if bit j.src.b 31 then 0 else PoolHdr.taken ⟨ws⟩), r.2, false⟩,
      w.act (poolArena u j.e.inst va) 0) := by
  subst hr
  exact (H.begin _).trans <| (if_neg hp).trans <| (if_neg hu).trans <| (if_neg ht).trans <| (ok_bind hv _).trans <| bind_ite hw _

end
end
end

/-! ## A block taken (R97) -/

/-- What an entry's pool must offer (R97 step 3). -/
def PoolHdr.Serves (p : PoolHdr) (n code : Nat) (dims : List Nat) : Prop :=
  p.ok = true ∧ p.ndim = n ∧ p.fmt = code ∧ ∀ i, i < dims.length → (dims.getD i 0 + 31) / 32 ≤ p.s i

theorem PoolHdr.serves_iff {p : PoolHdr} {n code : Nat} {dims : List Nat} :
    (p.ok && p.ndim == n && p.fmt == code &&
      ((List.range dims.length).zip dims).all (fun d => decide (ceilDiv d.2 32 ≤ p.s d.1))) = true ↔ p.Serves n code dims := by
  have hzip : (List.range dims.length).zip dims = (List.range dims.length).map (fun i => (i, dims.getD i 0)) := by
    apply List.ext_getElem <;> simp +contextual
  simp only [Serves, hzip, Bool.and_eq_true, beq_iff_eq, List.all_map, List.all_eq_true, List.mem_range, Function.comp_apply,
    decide_eq_true_eq, and_assoc]
  rfl

section
variable {q : Rq} {inst vp : Nat} {hc : Hdr} {fr : EFmt} {k : Nat} {qs : List Word} {dims : List Nat} {s s0 : State} {pw : List Word}
  (hr : readWords q vp 16 s = .ok (pw, s0)) (hcap : ¬ hc.count = hc.cap)
include hr hcap

theorem allocBlock_none (ht : PoolHdr.taken ⟨pw⟩ = PoolHdr.avail ⟨pw⟩) :
    allocBlock q inst vp hc fr k qs dims s = .ok (.stop 0x104, s0.act (poolArena s0 inst vp) 1) :=
  (if_neg hcap).trans <| (ok_bind hr _).trans <| if_pos ht

theorem allocBlock_unserved (ht : ¬ PoolHdr.taken ⟨pw⟩ = PoolHdr.avail ⟨pw⟩) (hs : ¬ PoolHdr.Serves ⟨pw⟩ hc.nleg fr.code dims) :
    allocBlock q inst vp hc fr k qs dims s = conFatal 0x10B k none :=
  (if_neg hcap).trans <| (ok_bind hr _).trans <| (if_neg ht).trans <| if_pos (by rw [mt PoolHdr.serves_iff.mp hs |> Bool.eq_false_iff.mpr]; rfl)

theorem allocBlock_fresh (ht : ¬ PoolHdr.taken ⟨pw⟩ = PoolHdr.avail ⟨pw⟩) (hs : PoolHdr.Serves ⟨pw⟩ hc.nleg fr.code dims)
    {pl : Place} {u v : State}
    (hp : blockPlace (s0.act (poolArena s0 inst vp) 1) inst (PoolHdr.h ⟨pw⟩) (PoolHdr.base0 ⟨pw⟩) (PoolHdr.base1 ⟨pw⟩) = .ok pl)
    (hu : writeWord q (vp + 12) (wd (PoolHdr.taken ⟨pw⟩ + 1)) (s0.act (poolArena s0 inst vp) 1) = .ok u)
    (hv : writePlace q pl (PoolHdr.taken ⟨pw⟩ * PoolHdr.bsize ⟨pw⟩) (List.replicate (PoolHdr.bsize ⟨pw⟩) 0) u = .ok v) :
    allocBlock q inst vp hc fr k qs dims s = .ok (.fresh (newEnt qs dims ⟨pw⟩ (PoolHdr.taken ⟨pw⟩)), v) := by
  refine (if_neg hcap).trans <| (ok_bind hr _).trans <| (if_neg ht).trans <| (if_neg (by rw [PoolHdr.serves_iff.mpr hs]; decide)).trans ?_
  exact (ok_bind (by rw [hp]) _).trans <| (ok_bind hu _).trans <| ok_bind hv _

end

/-! ## The entry of an allocated block (R88, R97 step 6) -/

/-- A field of a word made from a number. -/
theorem bits_wd (n : Nat) {hi lo : Nat} (h : hi < 32) (hl : lo ≤ hi) : bits (wd n) hi lo = n / 2 ^ lo % 2 ^ (hi - lo + 1) := by
  rw [bits, wd, BitVec.toNat_ofNat, Nat.shiftRight_eq_div_pow]
  apply Nat.eq_of_testBit_eq
  intro k
  simp only [Nat.testBit_mod_two_pow, Nat.testBit_div_two_pow]
  by_cases hk : k < hi - lo + 1
  · simp [show k + lo < 32 by omega]
  · simp [hk]

theorem bit_wd (n : Nat) {i : Nat} (h : i < 32) : bit (wd n) i = decide (n / 2 ^ i % 2 = 1) := by
  rw [bit, wd, BitVec.getLsbD_ofNat, decide_eq_true h, Bool.true_and, Nat.testBit_eq_decide_div_mod_eq]

section
variable (qs : List Word) (dims : List Nat) (p : PoolHdr) (blk : Nat)

/-- The surplus of a stored dimension over the rounded logical one, in units of 32 (R88). -/
def surplus (i : Nat) : Nat := if i < dims.length then p.s i - ceilDiv (dims.getD i 0) 32 else 0

def newFlags : Nat := 2 ^ 31 + 2 ^ 30 + 2 ^ 29 + (if p.h then 2 ^ 28 else 0) + 2 ^ 26 + p.fmt * 2 ^ 22

/-- ADDR0 and ADDR1 of the block (R97). -/
def newAddr : Nat × Nat :=
  if p.h then (p.base0, p.base1 + blk * p.bsize)
  else ((p.base0 + 2 ^ 32 * p.base1 + blk * p.bsize) % 2 ^ 32, (p.base0 + 2 ^ 32 * p.base1 + blk * p.bsize) / 2 ^ 32)

/-- The charge of leg i, a dimension, a surplus: each in its field (R88). -/
theorem newEnt_q {i : Nat} (hi : i < 6) : (⟨newEnt qs dims p blk⟩ : Ent).q i = qs.getD i 0 := by
  interval_cases i <;> rfl

theorem pair_low {a : Nat} (ha : a < 2 ^ 16) (b : Nat) : bits (wd (a + 2 ^ 16 * b)) 15 0 = a := by
  rw [bits_wd _ (by decide) (by decide)]
  omega

theorem pair_high {a b : Nat} (ha : a < 2 ^ 16) (hb : b < 2 ^ 16) : bits (wd (a + 2 ^ 16 * b)) 31 16 = b := by
  rw [bits_wd _ (by decide) (by decide)]
  omega

variable (hd : ∀ i, dims.getD i 0 < 2 ^ 16) (hx : ∀ i, surplus dims p i < 2 ^ 8) (hf : p.fmt < 2 ^ 4)

include hd in
theorem newEnt_dim {i : Nat} (hi : i < 6) : (⟨newEnt qs dims p blk⟩ : Ent).dim i = dims.getD i 0 := by
  interval_cases i
  · exact pair_low (hd 0) _
  · exact pair_high (hd 0) (hd 1)
  · exact pair_low (hd 2) _
  · exact pair_high (hd 2) (hd 3)
  · exact pair_low (hd 4) _
  · exact pair_high (hd 4) (hd 5)

include hx in
theorem newEnt_sx {i : Nat} (hi : i < 6) : (⟨newEnt qs dims p blk⟩ : Ent).sx i = surplus dims p i := by
  have h0 := hx 0
  have h1 := hx 1
  have h2 := hx 2
  have h3 := hx 3
  have h4 := hx 4
  have h5 := hx 5
  have hw11 : nthW (newEnt qs dims p blk) 11 =
      wd (surplus dims p 0 + 2 ^ 8 * surplus dims p 1 + 2 ^ 16 * surplus dims p 2 + 2 ^ 24 * surplus dims p 3) := rfl
  have hw12 : nthW (newEnt qs dims p blk) 12 = wd (newFlags p + surplus dims p 5 * 2 ^ 8 + surplus dims p 4) := rfl
  have hfl : newFlags p % 2 ^ 16 = 0 := by unfold newFlags; split <;> omega
  unfold Ent.sx Ent.w12
  dsimp only
  rw [hw11, hw12]
  interval_cases i
  all_goals
    simp only [Nat.reduceLT, if_true, if_false, Nat.reduceMul, Nat.reduceAdd, Nat.reduceSub]
    rw [bits_wd _ (by decide) (by decide)]
    omega

theorem newEnt_w12 : (⟨newEnt qs dims p blk⟩ : Ent).w12 = wd (newFlags p + surplus dims p 5 * 2 ^ 8 + surplus dims p 4) := rfl

include hx hf in
/-- The entry's flags, its format and its order (R88, R97): SQ, ZF and V set, LAY 1. -/
theorem newEnt_flags : (⟨newEnt qs dims p blk⟩ : Ent).v = true ∧ bit (⟨newEnt qs dims p blk⟩ : Ent).w12 30 = true ∧
    bit (⟨newEnt qs dims p blk⟩ : Ent).w12 29 = true ∧ (⟨newEnt qs dims p blk⟩ : Ent).h = p.h ∧
    (⟨newEnt qs dims p blk⟩ : Ent).fmt = p.fmt ∧ (⟨newEnt qs dims p blk⟩ : Ent).lay = 1 ∧
    bits (⟨newEnt qs dims p blk⟩ : Ent).w12 21 16 = 0 := by
  have h4 := hx 4
  have h5 := hx 5
  unfold Ent.v Ent.h Ent.fmt Ent.lay
  simp only [newEnt_w12]
  refine ⟨?_, ?_, ?_, ?_, ?_, ?_, ?_⟩
  case refine_4 =>
    rw [bit_wd _ (by decide), newFlags]
    cases p.h
    · exact decide_eq_false (by simp only [Bool.false_eq_true, if_false]; omega)
    · exact decide_eq_true (by simp only [if_true]; omega)
  all_goals
    have hh : (if p.h then 2 ^ 28 else 0) = 0 ∨ (if p.h then 2 ^ 28 else 0) = 2 ^ 28 := by split <;> simp
    rw [newFlags]
    generalize (if p.h then 2 ^ 28 else 0) = b at hh
  · rw [bit_wd _ (by decide), decide_eq_true]; omega
  · rw [bit_wd _ (by decide), decide_eq_true]; omega
  · rw [bit_wd _ (by decide), decide_eq_true]; omega
  · rw [bits_wd _ (by decide) (by decide)]; omega
  · rw [bits_wd _ (by decide) (by decide)]; omega
  · rw [bits_wd _ (by decide) (by decide)]; omega

end

/-- What a pool's header that meets R96 bounds. -/
theorem PoolHdr.ok_bounds {p : PoolHdr} (h : p.ok = true) : p.ndim ≤ 6 ∧ p.fmt ≤ 10 ∧ (p.h = false → p.base1 < 2 ^ 24) := by
  simp only [PoolHdr.ok, Bool.and_eq_true, decide_eq_true_eq] at h
  obtain ⟨⟨⟨⟨⟨⟨⟨⟨⟨⟨⟨⟨⟨_, hf⟩, _⟩, hn⟩, _⟩, _⟩, _⟩, _⟩, _⟩, _⟩, _⟩, _⟩, hb⟩, _⟩ := h
  exact ⟨hn, hf, fun hh => by simpa [hh] using hb⟩

/-- The logical dimensions of an entry's legs, each at least 1, below 2^16, and at most 255 units of 32 below the pool's stored one. -/
def PoolHdr.Holds (p : PoolHdr) (dims : List Nat) : Prop :=
  ∀ i, i < p.ndim → 1 ≤ dims.getD i 0 ∧ dims.getD i 0 < 2 ^ 16 ∧ (dims.getD i 0 + 31) / 32 ≤ p.s i ∧
    p.s i < (dims.getD i 0 + 31) / 32 + 256

section
variable {qs : List Word} {dims : List Nat} {p : PoolHdr} {blk : Nat} (hp : p.ok = true) (hl : dims.length = p.ndim) (hb : p.Holds dims)

include hl hb

theorem PoolHdr.Holds.dim_lt (i : Nat) : dims.getD i 0 < 2 ^ 16 := by
  by_cases hi : i < p.ndim
  · exact (hb i hi).2.1
  · rw [List.getD_eq_default _ _ (hl ▸ Nat.not_lt.mp hi)]
    decide

theorem PoolHdr.Holds.surplus_lt (i : Nat) : surplus dims p i < 2 ^ 8 := by
  unfold surplus
  split
  next hi =>
    obtain ⟨_, _, _, hs⟩ := hb i (hl ▸ hi)
    rw [ceilDiv]
    omega
  next => decide

include hp

/-- An allocated block's entry is sound (R88, R89). -/
theorem newEnt_ok (hq : qs.length = p.ndim) (ha : p.h = true ∨ (newAddr p blk).2 < 2 ^ 24) :
    (⟨newEnt qs dims p blk⟩ : Ent).ok p.ndim = true := by
  obtain ⟨hn, hf, _⟩ := PoolHdr.ok_bounds hp
  have hdim := hb.dim_lt hl
  have hsur := hb.surplus_lt hl
  obtain ⟨_, _, _, hh, hfmt, hlay, hzero⟩ := newEnt_flags qs dims p blk hsur (by omega)
  have hlegs : ∀ i, i < 6 → (if i < p.ndim then decide (1 ≤ (⟨newEnt qs dims p blk⟩ : Ent).dim i)
      else (⟨newEnt qs dims p blk⟩ : Ent).q i == 0 && (⟨newEnt qs dims p blk⟩ : Ent).dim i == 0 &&
        (⟨newEnt qs dims p blk⟩ : Ent).sx i == 0) = true := by
    intro i hi
    rw [newEnt_dim _ _ _ _ hdim hi, newEnt_q _ _ _ _ hi, newEnt_sx _ _ _ _ hsur hi]
    split
    next hin => exact decide_eq_true (hb i hin).1
    next hin =>
      have hle := Nat.not_lt.mp hin
      rw [List.getD_eq_default _ _ (hq ▸ hle), List.getD_eq_default _ _ (hl ▸ hle), surplus, if_neg (hl ▸ hin)]
      rfl
  have haddr : (p.h || bits (nthW (newEnt qs dims p blk) 10) 31 24 == 0) = true := by
    rcases ha with ha | ha
    · simp [ha]
    · have hw : nthW (newEnt qs dims p blk) 10 = wd (newAddr p blk).2 := rfl
      rw [hw, bits_wd _ (by decide) (by decide), Nat.div_eq_of_lt ha]
      simp
  simp only [Ent.ok, Bool.and_eq_true, List.all_eq_true, List.mem_range, hlay, hfmt, hzero, hh, decide_eq_true_eq]
  exact ⟨⟨⟨⟨⟨hlegs, by decide⟩, hf⟩, rfl⟩, List.forall_mem_replicate (n := 3) |>.mpr (.inr rfl)⟩, haddr⟩

/-- Its charges, its dimensions and its stored dimensions are those given and the pool's. -/
theorem newEnt_legs (hq : qs.length = p.ndim) : (⟨newEnt qs dims p blk⟩ : Ent).qs p.ndim = qs ∧
    (⟨newEnt qs dims p blk⟩ : Ent).dims p.ndim = dims ∧
    (⟨newEnt qs dims p blk⟩ : Ent).storeds p.ndim = (List.range p.ndim).map (fun i => 32 * p.s i) := by
  obtain ⟨hn, _, _⟩ := PoolHdr.ok_bounds hp
  have hdim {i : Nat} (hi : i < p.ndim) := newEnt_dim qs dims p blk (hb.dim_lt hl) (hi.trans_le hn)
  refine ⟨?_, ?_, List.map_congr_left fun i hi => ?_⟩
  · refine List.ext_getElem (by simp [Ent.qs, hq]) fun i h1 h2 => ?_
    have hi : i < p.ndim := hq ▸ h2
    simp [Ent.qs, newEnt_q _ _ _ _ (hi.trans_le hn), h2]
  · refine List.ext_getElem (by simp [Ent.dims, hl]) fun i h1 h2 => ?_
    have hi : i < p.ndim := hl ▸ h2
    simp [Ent.dims, hdim hi, h2]
  · have hi := List.mem_range.mp hi
    obtain ⟨_, _, hs, _⟩ := hb i hi
    rw [Ent.stored, hdim hi, newEnt_sx _ _ _ _ (hb.surplus_lt hl) (hi.trans_le hn), surplus, if_pos (hl ▸ hi), ceilDiv]
    omega

end

/-- Where an allocated block's entry says that it stands (R88, R97). -/
theorem newEnt_addr (qs : List Word) (dims : List Nat) {p : PoolHdr} {blk : Nat} (h1 : (newAddr p blk).1 < 2 ^ 32) (h2 : (newAddr p blk).2 < 2 ^ 32) :
    (⟨newEnt qs dims p blk⟩ : Ent).addr0 = (newAddr p blk).1 ∧ (⟨newEnt qs dims p blk⟩ : Ent).addr1 = (newAddr p blk).2 :=
  ⟨Nat.mod_eq_of_lt h1, Nat.mod_eq_of_lt h2⟩

/-- Settles O39: the outcomes of poolcfg and of an allocation from the pool's header, and the fields of the entry it makes. -/
theorem poolResults : Obligations.PoolResults := by
  refine ⟨?_, ?_, ?_⟩
  · intro s f src popped x h ha hs s0 q va ws hws p reset used sum avail taken_
    have H := atRecord ha hs hws
    have hq : jobRq (curJob s src) s0 = q := jobRq_flush ..
    have hused : (bit src.b 31 && contractionNaming s0 (jobRq (curJob s src) s0).ctx (fun i c => descVA s0 i c 4 == va)) = true ↔
        reset = true ∧ used := by
      rw [Bool.and_eq_true, contractionNaming_pool_iff, hq, cmdRq_ctx]
    have hturn : s0.inTurn (poolArena s s.cur.inst va) 0 = (taken s x).inTurn (poolArena (taken s x) s.cur.inst va) 0 := cmdState_inTurn ..
    refine ⟨fun hp => ?_, fun hp hr hu => ?_, fun hp hu ht => ?_, fun v w hp hu ht hv hw => ?_⟩
    · exact traps_of_issue (exec_poolcfg h) h (by decide) (workPoolcfg_unsound H hp)
    · exact traps_of_issue (exec_poolcfg h) h (by decide) (workPoolcfg_used H (ne_false_of_eq_true hp) (hused.mpr ⟨hr, hu⟩))
    · exact waits_of_issue (exec_poolcfg h) (workPoolcfg_later H (ne_false_of_eq_true hp) (fun hn => hu (hused.mp hn).1 (hused.mp hn).2)
        (hturn ▸ ht))
    · exact gives_of_issue (exec_poolcfg h) (workPoolcfg_raises H (ne_false_of_eq_true hp) (fun hn => hu (hused.mp hn).1 (hused.mp hn).2)
        (ne_false_of_eq_true (hturn ▸ ht)) (raiseAvail_eq ..) (hq.symm ▸ hv) (hq.symm ▸ hw))
  · intro q inst vp hc fr k qs dims s s0 pw hr hcap p s1 meets taken_
    exact ⟨fun ht => allocBlock_none hr hcap ht, fun ht hm => allocBlock_unserved hr hcap ht hm,
      fun pl u v ht hm hp hu hv => allocBlock_fresh hr hcap ht hm hp hu hv⟩
  · intro qs dims p blk hp hq hl _ hb ha e
    obtain ⟨-, hf, -⟩ := PoolHdr.ok_bounds hp
    have hb : p.Holds dims := hb
    obtain ⟨hv, hsq, hzf, hh, hfmt, hlay, _⟩ := newEnt_flags qs dims p blk (hb.surplus_lt hl) (by omega)
    obtain ⟨hqs, hds, hst⟩ := newEnt_legs (blk := blk) hp hl hb hq
    have h0 : p.base0 < 2 ^ 32 := (nthW p.ws 8).isLt
    cases hph : p.h with
    | true =>
      rw [hph, if_pos rfl] at ha
      have hpair : newAddr p blk = (p.base0, p.base1 + blk * p.bsize) := if_pos hph
      obtain ⟨ha0, ha1⟩ := newEnt_addr qs dims (p := p) (blk := blk) (by rw [hpair]; exact h0) (by rw [hpair]; exact ha)
      rw [hpair] at ha0 ha1
      exact ⟨newEnt_ok hp hl hb hq (.inl hph), hv, hsq, hzf, hh.trans hph, hfmt, hlay, hqs, hds, hst, fun _ => ⟨ha0, ha1⟩, nofun⟩
    | false =>
      rw [hph, if_neg (by decide)] at ha
      have hpair : newAddr p blk = ((p.base0 + 2 ^ 32 * p.base1 + blk * p.bsize) % 2 ^ 32, (p.base0 + 2 ^ 32 * p.base1 + blk * p.bsize) / 2 ^ 32) :=
        if_neg (ne_true_of_eq_false hph)
      have hhigh : (newAddr p blk).2 < 2 ^ 24 := by rw [hpair]; exact Nat.div_lt_of_lt_mul (by omega)
      obtain ⟨ha0, ha1⟩ := newEnt_addr qs dims (p := p) (blk := blk) (by rw [hpair]; exact Nat.mod_lt _ (by decide)) (by omega)
      have hsum : e.addr0 + 2 ^ 32 * e.addr1 = p.base0 + 2 ^ 32 * p.base1 + blk * p.bsize := by
        rw [ha0, ha1, hpair]
        exact Nat.mod_add_div ..
      exact ⟨newEnt_ok hp hl hb hq (.inr hhigh), hv, hsq, hzf, hh.trans hph, hfmt, hlay, hqs, hds, hst, nofun, fun _ => hsum⟩

end Sys2Proof.Machine
end

section
/-! SUPPORT. topb and topx (spec/07_instr_contraction_tiles.md R103, R136, R138, R142): Obligations.TileOperationCommands. -/

namespace Sys2Proof.Machine

/-! ## The checks at issue (R103, R110, R136, R138) -/

section
variable {kind : Nat} {j : Job} {u s : State} {va : Nat} {ws : List Word} (H : AtRecord j u va ws s)
include H

theorem topCheck_reserved (hg : topDescOk kind ws = false ∨ systolicOk s j.e kind ws = false) : topCheck kind j u = trap0 0x024 :=
  (H.begin _).trans <| if_pos hg

section
variable (hg : ¬ (topDescOk kind ws = false ∨ systolicOk s j.e kind ws = false))
include hg

theorem topCheck_later (ht : tablesInTurn s j.e.inst (topHandles ws) (tableKey j.e.el) = false) (hn : s.tape = none) :
    topCheck kind j u = .error .wait :=
  (H.begin _).trans <| (if_neg hg).trans <| (if_pos ht).trans <| congrArg Except.error (waitHere_eq _ hn)

section
variable (ht : ¬ tablesInTurn s j.e.inst (topHandles ws) (tableKey j.e.el) = false)
include ht

theorem topCheck_stale (hl : (topHandles ws).any (fun h => !live s j.e.inst h) = true) : topCheck kind j u = trap0 0x020 :=
  (H.begin _).trans <| (if_neg hg).trans <| (if_neg ht).trans <| if_pos hl

section
variable (hl : ¬ (topHandles ws).any (fun h => !live s j.e.inst h) = true)
include hl

theorem topCheck_misshapen (hs : shapesOk s j.e.inst kind ws = false) : topCheck kind j u = trap0 0x02D :=
  (H.begin _).trans <| (if_neg hg).trans <| (if_neg ht).trans <| (if_neg hl).trans <| if_pos hs

theorem topCheck_ok (hs : ¬ shapesOk s j.e.inst kind ws = false) : topCheck kind j u = .ok (ws, s) :=
  (H.begin _).trans <| (if_neg hg).trans <| (if_neg ht).trans <| (if_neg hl).trans <| if_neg hs

end
end
end
end

/-! ## The two commands from their checks on (R136) -/

theorem freeBind_none {x : Elem} (h : ∀ n, n < 4 → khas x.binds n = true) : freeBind x = none := by
  rw [freeBind, List.find?_eq_none]
  intro n hn
  simp [h n (List.mem_range.mp hn)]

theorem freeBind_some {x : Elem} {n : Nat} (hn : n < 4) (hf : khas x.binds n = false) (hl : ∀ m, m < n → khas x.binds m = true) :
    freeBind x = some n := by
  rw [freeBind, List.find?_range_eq_some]
  exact ⟨by simp [hf], List.mem_range.mpr hn, fun m hm => by simp [hl m hm]⟩

/-- The initial state that a scant takes (R140); another kind has none. -/
def initialState (kind : Nat) (j : Job) (ws : List Word) (s : State) : Except Stop (List Word × State) :=
  if kind = 7 then scanInit (bindRq s j.e j.slot) j.e.inst ws s else .ok ([], s)

section
variable {f : FmtE} {j : Job} {u s : State} {ws dl : List Word} {v : State} 

theorem workTopb_stop {e : Stop} (h : topCheck (topKind f) j u = .error e) : workTopb f j u = .error e := stop_bind h _
theorem workTopx_stop {e : Stop} (h : topCheck (topKind f) j u = .error e) : workTopx f j u = .error e := stop_bind h _

section
variable (h : topCheck (topKind f) j u = .ok (ws, s))
include h

theorem workTopb_full (hb : freeBind (s.elem j.e) = none) : workTopb f j u = trap0 0x02C := by
  refine (ok_bind h _).trans ?_
  dsimp only
  rw [hb]

theorem workTopb_binds {n : Nat} (hb : freeBind (s.elem j.e) = some n) (hi : initialState (topKind f) j ws s = .ok (dl, v)) :
    workTopb f j u = .ok (word (topHandle false j.e n),
      (actTables (useAll v j.e.inst ws) j.e.inst (topHandles ws) (tableKey j.e.el)).modElem j.e (fun x =>
        { x with binds := kset x.binds n ⟨topKind f, ws, j.src.b.toNat, 0, topHandle false j.e n, j.slot, dl, false, none, before s j.e⟩ })) := by
  refine (ok_bind h _).trans ?_
  dsimp only
  rw [hb]
  exact ok_bind hi _

theorem workTopx_full (hl : 4 ≤ (s.elem j.e).topx.length) (hn : s.tape = none) : workTopx f j u = .error .wait :=
  (ok_bind h _).trans <| (if_pos hl).trans <| congrArg Except.error (waitHere_eq _ hn)

theorem workTopx_joins (hl : ¬ 4 ≤ (s.elem j.e).topx.length) (hi : initialState (topKind f) j ws s = .ok (dl, v)) :
    workTopx f j u = .ok (word (topHandle true j.e (v.elem j.e).topxSeq),
      (actTables (useAll v j.e.inst ws) j.e.inst (topHandles ws) (tableKey j.e.el)).modElem j.e (fun x =>
        { x with
          topx := x.topx ++ [⟨topKind f, ws, 1, 0, topHandle true j.e (v.elem j.e).topxSeq, j.slot, dl, false, none, before s j.e⟩]
          topxSeq := (x.topxSeq + 1) % 1024 })) :=
  (ok_bind h _).trans <| (if_neg hl).trans <| ok_bind hi _

end
end

theorem topHandle_bound (e : ERef) (n : Nat) : topHandle false e n = wd (2 ^ 30 + n + e.reg * 2 ^ 16 + e.el * 2 ^ 10) := by
  rw [topHandle, if_neg (by decide)]
  congr 1
  omega

theorem topHandle_queued (e : ERef) (n : Nat) : topHandle true e n = wd (2 ^ 30 + (2 ^ 29 + n) + e.reg * 2 ^ 16 + e.el * 2 ^ 10) := by
  rw [topHandle, if_pos rfl]
  congr 1
  omega

/-! ## What they leave (R136) -/

theorem AccessOnly.initialState {kind : Nat} {j : Job} {ws dl : List Word} {s v : State} (h : initialState kind j ws s = .ok (dl, v)) :
    AccessOnly s v := by
  unfold Machine.initialState scanInit at h
  split at h
  · split at h
    · exact (ok_pair h).2 ▸ refl s
    · dsimp only at h
      split at h
      next => simp at h
      next hr => exact (ok_pair h).2 ▸ readPlace hr
  · exact (ok_pair h).2 ▸ refl s

section
variable {s v : State} (hv : AccessOnly s v) (e : ERef) (ws : List Word)

/-- The element as a tile operation's command finds it once its tiles are in use. -/
theorem useAll_elem (a : ERef) : (actTables (useAll v e.inst ws) e.inst (topHandles ws) (tableKey e.el)).elem a = v.elem a := by
  rw [actTables_elem, useAll, foldl_addUse_elem]

include hv in
/-- Each tile named is in use once more. -/
theorem uses_useAll (F : Elem → Elem) {h : Word} (hh : h ∈ topHandles ws) : (s.tile (entryOf s e.inst h)).uses <
    (((actTables (useAll v e.inst ws) e.inst (topHandles ws) (tableKey e.el)).modElem e F).tile (entryOf s e.inst h)).uses := by
  have h1 := uses_foldl_addUse (fun h => entryOf v e.inst h) (topHandles ws) v hh
  rw [hv.tile, entryOf_of_insts hv.insts] at h1
  exact h1.trans_eq (congrArg Tile.uses (actTables_tile ..).symm)

end

/-! ## The statement -/

section
variable {s : State} {f : FmtE} {src : Src} {popped : List (Nat × Token)} {x : Elem}

theorem exec_topb (h : ReadsE s f src popped x) :
    exec (.topb f) s = .next (issueWork (curWait s (.topb f) src popped) s.cur (sinkE f) (workTopb f) (taken s x)) := runE_eq_issue h
theorem exec_topx (h : ReadsE s f src popped x) :
    exec (.topx f) s = .next (issueWork (curWait s (.topx f) src popped) s.cur (sinkE f) (workTopx f) (taken s x)) := runE_eq_issue h

theorem cmdState_elem_cur : (cmdState s src x).elem s.cur = x := cmdState_memoryOnly.elem _ |>.trans (taken_elem_cur s x)

theorem cmdState_tape : (cmdState s src x).tape = s.tape := by
  obtain ⟨_, _, _, h⟩ := cmdState_memoryOnly (s := s) (src := src) (x := x)
  rw [h]
  rfl

theorem cmdState_tablesInTurn {i key : Nat} {hs : List Word} : tablesInTurn (cmdState s src x) i hs key = true ↔
    ∀ h ∈ hs, (taken s x).inTurn (.table (entryOf (taken s x) i h).1) key = true := by
  obtain ⟨_, _, _, h⟩ := cmdState_memoryOnly (s := s) (src := src) (x := x)
  rw [h]
  exact tablesInTurn_iff

/-- A check that fails stops both commands. -/
theorem both_trap (h : ReadsE s f src popped x) {c : Nat} (hc : c ≠ 0x0E0) (ht : topCheck (topKind f) (curJob s src) (taken s x) = trap0 c) :
    (∃ t, exec (.topb f) s = .next t ∧ Traps s t c 0) ∧ ∃ t, exec (.topx f) s = .next t ∧ Traps s t c 0 :=
  ⟨traps_of_issue (exec_topb h) h hc (workTopb_stop ht), traps_of_issue (exec_topx h) h hc (workTopx_stop ht)⟩

theorem both_wait (h : ReadsE s f src popped x) (ht : topCheck (topKind f) (curJob s src) (taken s x) = .error .wait) :
    Waits s (.topb f) src popped x ∧ Waits s (.topx f) src popped x :=
  ⟨waits_of_issue (exec_topb h) (workTopb_stop ht), waits_of_issue (exec_topx h) (workTopx_stop ht)⟩

end

/-- Settles O45: the checks of both commands, then each from the element that it finds. -/
theorem tileOperationCommands : Obligations.TileOperationCommands := by
  intro s f src popped x h s0 q kind inst traps both handle inUse
  refine ⟨fun ha => ?_, fun ha hs => ?_, ?_⟩
  · exact both_trap h (by decide) (stop_bind (ptrVA_misaligned ha) _)
  · exact both_wait h ((ok_bind (ptrVA_aligned ha) _).trans <| stop_bind (settled_waits .part hs) _)
  intro ws ha hs hws htape good named turn
  have H := atRecord ha hs hws
  have hn : s0.tape = none := cmdState_tape.trans htape
  have hgood (hg : good) : ¬ (topDescOk kind ws = false ∨ systolicOk s0 s.cur kind ws = false) := by simp [hg.1, hg.2]
  have hturn (ht : turn) : ¬ tablesInTurn s0 inst (topHandles ws) (tableKey s.cur.el) = false :=
    ne_false_of_eq_true (cmdState_tablesInTurn.mpr ht)
  have hnamed : (topHandles ws).any (fun h => !live s0 inst h) = true ↔ ¬ named := by
    simp [named]
  refine ⟨fun hg => ?_, fun hg ht => ?_, fun hg ht hl => ?_, fun hg ht hl hsh => ?_, fun hg ht hl hsh => ?_⟩
  · have hbad : topDescOk kind ws = false ∨ systolicOk s0 s.cur kind ws = false := by
      simpa only [good, not_and_or, Bool.not_eq_true] using hg
    exact both_trap h (by decide) (topCheck_reserved H hbad)
  · exact both_wait h (topCheck_later H (hgood hg) (Bool.eq_false_iff.mpr (mt cmdState_tablesInTurn.mp ht)) hn)
  · exact both_trap h (by decide) (topCheck_stale H (hgood hg) (hturn ht) (hnamed.mpr hl))
  · exact both_trap h (by decide) (topCheck_misshapen H (hgood hg) (hturn ht) (fun hx => hnamed.mp hx hl) hsh)
  have hcheck : topCheck (topKind f) (curJob s src) (taken s x) = .ok (ws, s0) :=
    topCheck_ok H (hgood hg) (hturn ht) (fun hx => hnamed.mp hx hl) (ne_false_of_eq_true hsh)
  have hx : s0.elem s.cur = x := cmdState_elem_cur
  refine ⟨fun hb => ?_, fun hx4 => ?_, fun dl u0 hi => ⟨fun n hn4 hfree hlow => ?_, fun hx4 => ?_⟩⟩
  · exact traps_of_issue (exec_topb h) h (by decide) (workTopb_full hcheck (freeBind_none (hx.symm ▸ hb)))
  · exact waits_of_issue (exec_topx h) (workTopx_full hcheck (hx.symm ▸ hx4) hn)
  · have hv := AccessOnly.initialState (j := curJob s src) hi
    have hdone := gives_of_issue (exec_topb h) (workTopb_binds hcheck (freeBind_some hn4 (hx.symm ▸ hfree) (hx.symm ▸ hlow)) hi)
    rw [topHandle_bound] at hdone
    refine ⟨_, hdone, fun w hw => uses_useAll hv s.cur ws _ hw, ?_⟩
    exact (congrArg Elem.binds (State.elem_setElem_self ..)).trans <|
      congrArg (fun y : Elem => kset y.binds n _) ((useAll_elem s.cur ws s.cur).trans ((hv.elem s.cur).trans hx))
  · have hv := AccessOnly.initialState (j := curJob s src) hi
    have hdone := gives_of_issue (exec_topx h) (workTopx_joins hcheck (hx.symm ▸ Nat.not_le.mpr hx4) hi)
    have hseq : (u0.elem s.cur).topxSeq = x.topxSeq := congrArg Elem.topxSeq ((hv.elem s.cur).trans hx)
    rw [show (curJob s src).e = s.cur from rfl, hseq, topHandle_queued] at hdone
    refine ⟨_, hdone, fun w hw => uses_useAll hv s.cur ws _ hw, ?_⟩
    exact (congrArg Elem.topx (State.elem_setElem_self ..)).trans <|
      congrArg (fun y : Elem => y.topx ++ _) ((useAll_elem s.cur ws s.cur).trans ((hv.elem s.cur).trans hx))

end Sys2Proof.Machine
end

section
/-! SUPPORT. Migration, stop and completion of a contraction (spec/07_instr_contraction_tiles.md R131, R132, R134,
spec/13_ragged_sparse_ternary.md R218): Obligations.ContractionEndResults. -/

namespace Sys2Proof.Machine

/-! ## Groups that migrate (R131, R218) -/

section
variable {s : State} {r : RRef} {c : Contraction} {g : Nat × Nat} {d : Nat}

/-- Of a group that may migrate nothing is written and no product has begun. -/
theorem notBegun_of_heaviest (h : heaviest (groupsOf s r c) = some g) :
    g.1 ∉ c.written ∧ ∀ p ∈ c.queue, p.c = g.1 → begun s r c.seq p = false := by
  have hm : g ∈ groupsOf s r c := mem_sortBy.mp (List.mem_of_head? h)
  simp only [groupsOf, List.mem_map, List.mem_filter, Bool.and_eq_true, Bool.not_eq_true', List.any_eq_false, beq_iff_eq,
    List.contains_eq_mem, decide_eq_false_iff_not, not_and, Bool.not_eq_true] at hm
  obtain ⟨x, ⟨-, ⟨hw, -⟩, hb⟩, rfl⟩ := hm
  exact ⟨hw, hb⟩

/-- A group goes to an adjacent region with nothing queued. -/
theorem idle_of_migrateTo (h : migrateTo s r = some d) : adjacent r.reg d = true ∧ queuedAt s ⟨r.inst, d⟩ = 0 := by
  have hm : d ∈ ((s.inst r.inst).img.regions.map RegionDecl.reg).filter
      (fun x => adjacent r.reg x && queuedAt s ⟨r.inst, x⟩ == 0) := mem_sortBy.mp (List.mem_of_head? h)
  simpa using (List.mem_filter.mp hm).2

theorem firstGroup_iff : firstGroup s r g = true ↔ ∀ c' ∈ (s.region r).cons, mayMigrate s r c' = true →
    ∀ x ∈ groupsOf s r c', x.2 < g.2 ∨ (x.2 = g.2 ∧ g.1 ≤ x.1) := by
  simp only [firstGroup, groupBefore, Bool.not_eq_true', List.any_eq_false, Bool.and_eq_true, List.any_eq_true, Bool.or_eq_true,
    decide_eq_true_eq, beq_iff_eq, not_and, not_exists]
  refine forall_congr' fun c' => imp_congr_right fun _ => imp_congr_right fun _ => forall_congr' fun x => imp_congr_right fun _ => ?_
  omega

theorem mayMigrate_of_works (h0 : c.state = 0) (he : c.ending = none) (hn : ConDesc.nomig c.desc = false)
    (ht : ConDesc.thr c.desc < queuedAt s r) : mayMigrate s r c = true := by
  simp [mayMigrate, h0, he, hn, ht]

end

/-! ## Header writes (R132) -/

theorem clear_busy_stop (w : Word) : setBitW (setBitW w 9 false) 8 false = w &&& ~~~0x300 := BitVec.and_assoc ..

theorem accessOnly_header {q : Rq} {va : Nat} {w0 : Word} {oph : Option Word} {h : Hdr} {s u : State}
    (hr : readHdr q va s = .ok (h, s)) (hw : writeHdr q va w0 oph s = .ok u) : AccessOnly s u :=
  (AccessOnly.readHdr hr).trans (.writeHdr hw)

/-- A header whose access no hold keeps is written in the step itself. -/
theorem workOf_header {q : Req} {f : State → Except Stop State} {s t : State} (hj : khas s.journals q = false) (hf : f s = .ok t) :
    workOf q (fun u => (f u).map (fun t => ((), t))) s = .ok ((), t) :=
  (workOf_new _ hj).trans <| newWork_ok (by rw [hf]; rfl)

/-! ## Tokens on mi (R35) -/

/-- A completion token takes the place on mi where there is one and none waits, else it is held. -/
theorem pushDone_told {s s' : State} {e : ERef} (k : Token) (h : s'.elem e = s.elem e) :
    if (s.elem e).owed = [] ∧ ((s.elem e).chan 4).length < 16 then ((pushDone s' e k).elem e).chan 4 = (s.elem e).chan 4 ++ [k]
    else ((pushDone s' e k).elem e).owed = (s.elem e).owed ++ [k] := by
  have he : (release s' (s'.physReg e.inst e.reg)).2.elem e = s.elem e := h
  rw [pushDone, pushMi, State.elem_modElem_self, he]
  by_cases hroom : (s.elem e).owed = [] ∧ ((s.elem e).chan 4).length < 16
  · rw [if_pos hroom, if_pos ⟨hroom.1, decide_eq_true hroom.2⟩, Elem.chan_pushIn_self]
  · rw [if_neg hroom, if_neg (fun hr => hroom ⟨hr.1, of_decide_eq_true hr.2⟩)]

/-! ## What ends (R132, R134) -/

section
variable {s u : State} {r : RRef} {c : Contraction} {h : Hdr}

/-- The end of a contraction that was to end otherwise, once its header is cleared. -/
theorem finishCon_eq (hj : khas s.journals (.header r c.seq) = false)
    (hr : readHdr (headerRq s r c.seq c.slot) (descVA s r.inst c 3) s = .ok (h, s))
    (hw : writeHdr (headerRq s r c.seq c.slot) (descVA s r.inst c 3) (h.w0 &&& ~~~0x300) (some 0) s = .ok u) :
    finishCon s r c = modCon u r c.seq (fun y => { y with state := c.ending.getD c.state, ending := none }) := by
  have hclear : clearHdr (headerRq s r c.seq c.slot) (descVA s r.inst c 3) s = .ok u := by
    simp only [clearHdr, hr, clear_busy_stop, hw]
  unfold finishCon
  simp only [workOf_header (f := fun u => clearHdr (headerRq s r c.seq c.slot) (descVA u r.inst c 3) u)
    (show khas s.journals (headerRq s r c.seq c.slot).req = false from hj) hclear]

/-- A stopped contraction's end: its cause counted, its handle told with tag 1. -/
def stopCon (r : RRef) (c : Contraction) (u : State) : State :=
  pushDone (countFault (modCon u r c.seq (fun y => { y with state := 1, cause := y.stopped.getD 0 })) (c.stopped.getD 0)) (conElem r c)
    ⟨conHandle r.reg c.seq, 1, c.exc, none, none⟩

/-- A finished contraction's end: its handle told with tag 0. -/
def completeCon (r : RRef) (c : Contraction) (u : State) : State :=
  pushDone (modCon u r c.seq (fun y => { y with state := 2 })) (conElem r c) ⟨conHandle r.reg c.seq, 0, c.exc, none, none⟩

variable (hr : readHdr (headerRq s r c.seq c.slot) (descVA s r.inst c 3) s = .ok (h, s))
include hr

theorem endCon_stop (hw : writeHdr (headerRq s r c.seq c.slot) (descVA s r.inst c 3) (h.w0 ||| 0x100) none s = .ok u) :
    endCon r c 1 s = .ok (stopCon r c u) :=
  (ok_bind hr _).trans <| ok_bind hw _

theorem endCon_complete (hw : writeHdr (headerRq s r c.seq c.slot) (descVA s r.inst c 3) (h.w0 &&& ~~~0x200) (some 0) s = .ok u) :
    endCon r c 0 s = .ok (completeCon r c u) := (ok_bind hr _).trans <| ok_bind hw _

end

/-! ## The steps -/

section
variable {s t : State} {r : RRef} {seq : Nat} {c : Contraction}
  (hc : liveCon (s.region r) seq = some c) (ha : ∀ a ∈ s.accs, a.req ≠ .header r seq) (hj : khas s.journals (.header r seq) = false)
include hc

theorem exec_groupMigration {g : Nat × Nat} {d : Nat} (hg : heaviest (groupsOf s r c) = some g) (hd : migrateTo s r = some d)
    (hm : mayMigrate s r c = true) (hf : firstGroup s r g = true) (hu : graphUp s r.inst = true) :
    exec (.groupMigration r seq) s = .next (modCon s r seq (fun c => { c with owners := kset c.owners g.1 d, migr := c.migr + 1 })) := by
  show execGroupMigration r seq s = _
  simp only [execGroupMigration, hc, hg, hd, when_eq_next, hm, hf, hu, Bool.and_self, and_self]

/-- A contraction that is to end waits while products are queued. -/
theorem exec_complete_waits (he : c.ending.isSome) (hq : c.queue ≠ []) : ¬ ∃ t, exec (.contractionComplete r seq) s = .next t := by
  rintro ⟨t, ht⟩
  have ht : execContractionComplete r seq s = .next t := ht
  simp only [execContractionComplete, hc, he, if_true] at ht
  split at ht
  · exact notNow_ne_next _ _ ht
  · exact hq (eq_of_beq ((when_eq_next ..).mp ht).1)

include ha

theorem exec_complete_ending (he : c.ending.isSome) (hq : c.queue = []) :
    exec (.contractionComplete r seq) s = .next (finishCon s r c) := by
  show execContractionComplete r seq s = _
  simp only [execContractionComplete, hc, not_accPending ha, he, hq, if_true, Bool.false_eq_true, if_false, when_eq_next, BEq.rfl, and_self]

variable (h0 : c.state = 0) (he : c.ending = none) (hup : graphUp s r.inst = true) (hq : c.queue = [])
include hj h0 he hup hq

theorem exec_stop (hs : c.stopped ≠ none) (ht : endCon r c 1 s = .ok t) : exec (.contractionStop r seq) s = .next t := by
  show execContractionStop r seq s = _
  unfold execContractionStop
  simp only [hc]
  rw [if_pos ⟨h0, he, hs, hq, not_accPending ha, hup⟩]
  simp only [workOf_header (f := endCon r c 1) hj ht]

theorem exec_complete (hseq : ∀ a ∈ s.accs, a.req ≠ .sequencer r seq) (hw : c.walked = true) (hs : c.stopped = none)
    (ht : endCon r c 0 s = .ok t) : exec (.contractionComplete r seq) s = .next t := by
  show execContractionComplete r seq s = _
  unfold execContractionComplete
  simp only [hc, not_accPending ha, he, Bool.false_eq_true, if_false, Option.isSome_none]
  rw [if_pos ⟨h0, hw, hs, hq, not_accPending hseq, hup⟩]
  simp only [workOf_header (f := endCon r c 0) hj ht]

end

/-- Settles O44: migration by the guard of its step, each end by the header written, the record's change and the token. -/
theorem contractionEndResults : Obligations.ContractionEndResults := by
  rintro s r seq c hc rfl q idle works vc e told
  have hlive {u : State} {h : Hdr} {w : Word} {o : Option Word} (hr : readHdr q vc s = .ok (h, s)) (hw : writeHdr q vc w o s = .ok u) :
      liveCon (u.region r) c.seq = some c := by rw [(accessOnly_header hr hw).region]; exact hc
  refine ⟨?_, ?_, ?_, ?_⟩
  · rintro g d ⟨h0, he, hu⟩ hg hd hn ht hfirst
    obtain ⟨hw, hb⟩ := notBegun_of_heaviest hg
    obtain ⟨hadj, hidle⟩ := idle_of_migrateTo hd
    exact ⟨hadj, hidle, hw, hb, _, _,
      exec_groupMigration hc hg hd (mayMigrate_of_works h0 he hn ht) (firstGroup_iff.mpr hfirst) (graphUp_of_up hu),
      liveCon_modCon hc rfl, (kget_kset ..).trans (if_pos rfl), rfl, rfl, fun _ _ => rfl⟩
  · intro st he hq
    exact exec_complete_waits hc (by rw [he]; rfl) hq
  · rintro h u st he hq ⟨ha, hj⟩ hr hw
    have hx := exec_complete_ending hc ha (by rw [he]; rfl) hq
    rw [finishCon_eq hj hr hw, he] at hx
    exact ⟨_, _, hx, rfl, liveCon_modCon (hlive hr hw) rfl, rfl, rfl⟩
  · rintro h u ⟨h0, he, hu⟩ hq ⟨ha, hj⟩ hseq hr
    refine ⟨fun cause hs hw => ?_, fun hwalk hs hw => ?_⟩
    · refine ⟨_, _, exec_stop hc ha hj h0 he (graphUp_of_up hu) hq (by simp [hs]) (endCon_stop hr hw), rfl,
        liveCon_modCon (hlive hr hw) rfl, rfl, ?_, pushDone_told _ ((accessOnly_header hr hw).elem _)⟩
      rw [hs]; rfl
    · exact ⟨_, _, exec_complete hc ha hj h0 he (graphUp_of_up hu) hq hseq hwalk hs (endCon_complete hr hw), rfl,
        liveCon_modCon (hlive hr hw) rfl, rfl, pushDone_told _ ((accessOnly_header hr hw).elem _)⟩

end Sys2Proof.Machine
end

section
/-! SUPPORT. Signals becoming visible, the end of an instant and of a stage, and quiescence with an element that reacts
(spec/20_instants_signals.md R294, R298, R301 to R304, spec/23_faults_traps.md R351): the first part of Obligations.InstantResults. -/

namespace Sys2Proof.Machine

/-! ## Keyed maps -/

section
variable {κ α : Type} [DecidableEq κ]

theorem mem_kget {d : α} {m : AMap κ α} {i : κ} (h : khas m i = true) : (i, kget d m i) ∈ m := by
  induction m with
  | nil => simp [khas] at h
  | cons p m ih =>
    by_cases hp : p.1 = i
    · simp [kget, ← hp]
    · exact List.mem_cons_of_mem _ (by simpa [kget, hp] using ih (by simpa [khas, hp] using h))

theorem eq_or_mem_of_mem_kset {m : AMap κ α} {i : κ} {v : α} {p : κ × α} (h : p ∈ kset m i v) : p = (i, v) ∨ p ∈ m := by
  induction m with
  | nil => simpa [kset] using h
  | cons q m ih =>
    rw [kset] at h
    split at h
    · exact (List.mem_cons.mp h).imp_right (List.mem_cons_of_mem _)
    · rcases List.mem_cons.mp h with rfl | h
      · exact .inr List.mem_cons_self
      · exact (ih h).imp_right (List.mem_cons_of_mem _)

/-- A map from which the keys of a test are dropped reads as its default there. -/
theorem kget_filter_keys {d : α} (m : AMap κ α) {t : κ → Bool} {i : κ} (h : t i = false) :
    kget d (m.filter (fun p => t p.1)) i = d := by
  refine kget_of_not_khas ?_
  simp only [khas, List.any_filter, List.any_eq_false, Bool.and_eq_true, beq_iff_eq, not_and]
  rintro p - hp rfl
  simp [h] at hp

end

/-! ## A signal becomes visible (R298) -/

/-- An act on a signal that an element of another region has not seen. -/
def unseenBy (at_ : Nat × Nat) (sig : Nat) (a : SigAct) : Bool := a.sig == sig && a.reg != at_.1 && !a.seen.contains at_

theorem unseenBy_iff {reg el sig : Nat} {a : SigAct} :
    unseenBy (reg, el) sig a = true ↔ a.sig = sig ∧ a.reg ≠ reg ∧ (reg, el) ∉ a.seen := by
  simp [unseenBy, and_assoc]

theorem unseenBy_eq_false {reg el sig : Nat} {a : SigAct} :
    unseenBy (reg, el) sig a = false ↔ ¬ (a.sig = sig ∧ a.reg ≠ reg ∧ (reg, el) ∉ a.seen) := by
  rw [← unseenBy_iff, Bool.not_eq_true]

theorem execSignalVisible_eq (inst : Nat) (at_ : Nat × Nat) (sig : Nat) (s : State) : execSignalVisible inst at_ sig s =
    when ((s.inst inst).status == .running && ((s.inst inst).img.elemImage at_.1 at_.2).isSome &&
        (s.inst inst).acts.any (unseenBy at_ sig)) "SIGNAL_VISIBLE"
      (s.modInst inst (fun i => { i with acts := replaceFirst (unseenBy at_ sig) (fun a => { a with seen := at_ :: a.seen }) i.acts })) :=
  rfl

section
variable {s : State} {inst : Nat}

theorem exec_signalVisible {reg el sig : Nat} {pre post : List SigAct} {a : SigAct} (hs : (s.inst inst).status = .running)
    (hi : ((s.inst inst).img.elemImage reg el).isSome = true) (ha : (s.inst inst).acts = pre ++ a :: post)
    (hpre : ∀ b ∈ pre, ¬ (b.sig = sig ∧ b.reg ≠ reg ∧ (reg, el) ∉ b.seen)) (h : a.sig = sig ∧ a.reg ≠ reg ∧ (reg, el) ∉ a.seen) :
    ∃ t, exec (.signalVisible inst (reg, el) sig) s = .next t ∧
      (t.inst inst).acts = pre ++ { a with seen := (reg, el) :: a.seen } :: post := by
  have hun : unseenBy (reg, el) sig a = true := unseenBy_iff.mpr h
  refine ⟨_, (execSignalVisible_eq ..).trans <| (when_eq_next ..).mpr ⟨?_, rfl⟩, ?_⟩
  · simp [hs, hi, ha, hun]
  · rw [State.inst_modInst, if_pos rfl]
    exact (congrArg _ ha).trans (replaceFirst_append _ post (fun b hb => unseenBy_eq_false.mpr (hpre b hb)) hun)

theorem not_exec_signalVisible {reg el sig : Nat} (h : ∀ a ∈ (s.inst inst).acts, ¬ (a.sig = sig ∧ a.reg ≠ reg ∧ (reg, el) ∉ a.seen)) :
    ¬ ∃ t, exec (.signalVisible inst (reg, el) sig) s = .next t := by
  rintro ⟨t, ht⟩
  obtain ⟨hg, -⟩ := (when_eq_next ..).mp ((execSignalVisible_eq ..).symm.trans ht)
  obtain ⟨-, hany⟩ := Bool.and_eq_true_iff.mp hg
  obtain ⟨a, ha, hun⟩ := List.any_eq_true.mp hany
  exact h a ha (unseenBy_iff.mp hun)

end

/-! ## The end of a stage (R172, R351) -/

theorem freeEntry_tile (s : State) (k y : Nat × Nat) : (freeEntry s k).tile y =
    if k = y then { s.tile k with state := .free, gen := ((s.tile k).gen + 1) % 64, f := false, fset := false, rel := none }
    else s.tile y := State.tile_modTile ..

/-- Entries that return to free stay their stage's, and the others stay as they were. -/
theorem foldl_freeEntry_tile (ks : List (Nat × Nat)) (s : State) (y : Nat × Nat) :
    ((ks.foldl freeEntry s).tile y).inst = (s.tile y).inst ∧
      ((ks.foldl freeEntry s).tile y).state = if y ∈ ks then .free else (s.tile y).state := by
  induction ks generalizing s with
  | nil => simp
  | cons k ks ih =>
    obtain ⟨hinst, hstate⟩ := ih (freeEntry s k)
    rw [List.foldl_cons, hinst, hstate, freeEntry_tile]
    by_cases hk : k = y
    · simp [hk]
    · simp [hk, Ne.symm hk]

/-- The tiles of a stage are free once they are freed. -/
theorem freeTiles_state {s : State} {inst : Nat} {y : Nat × Nat} (h : ((freeTiles s inst).tile y).inst = inst) :
    ((freeTiles s inst).tile y).state = .free := by
  obtain ⟨hinst, hstate⟩ := foldl_freeEntry_tile
    ((s.tiles.filter (fun p => p.2.inst == inst && p.2.state != .free)).map Prod.fst) s y
  rw [freeTiles, hstate]
  split
  · rfl
  next hy =>
    by_contra hne
    have hkey : khas s.tiles y = true := by
      by_contra hno
      exact hne (by rw [State.tile, kget_of_not_khas (eq_false_of_ne_true hno)])
    refine hy (List.mem_map.mpr ⟨(y, s.tile y), List.mem_filter.mpr ⟨mem_kget hkey, ?_⟩, rfl⟩)
    simpa [hinst.symm.trans h] using hne

theorem clearStage_elem (s : State) {inst : Nat} {e : ERef} (he : e.inst = inst) : (clearStage s inst).elem e = {} :=
  kget_filter_keys (t := fun e : ERef => e.inst != inst) _ (by simp [he])

theorem stageOver_ended (s : State) (inst : Nat) : Ended (stageOver s inst) inst where
  status := congrArg StageInst.status (kget_kset_self ..)
  elements _ he := clearStage_elem s he
  tiles _ h := freeTiles_state h
  due := rfl

/-- The contractions of a stage that ends have ended, and none of them has faulted. -/
def StageCleared (s : State) (inst : Nat) : Prop :=
  consEnding (abandonCons s inst) inst = false ∧ ((abandonCons s inst).graph (s.inst inst).graph).fault = none

section
variable {s : State} {inst : Nat}

theorem endStage_cleared (h : StageCleared s inst) (last : State → State) : Ended (endStage s inst last) inst := by
  obtain ⟨hcons, hfault⟩ := h
  simp only [endStage, hcons, hfault, Bool.false_eq_true, Option.isSome_none, or_self, if_false]
  exact stageOver_ended ..

theorem endStage_held (h : ¬ StageCleared s inst) (last : State → State) : endStage s inst last = abandonCons s inst := by
  unfold endStage
  refine if_pos ?_
  rw [StageCleared, not_and_or, Bool.not_eq_false] at h
  exact h.imp_right Option.isSome_iff_ne_none.mpr

/-- A stage that is not clocked may end (R351). -/
def StageFinished (s : State) (inst : Nat) : Prop :=
  allHalted s inst = true ∧ pumpsDone s inst = true ∧ bindingsDone s inst = true ∧ workOpen s (fun e => e.inst == inst) = false

theorem exec_stageEnd_iff (hup : Up s inst) (hc : (s.inst inst).img.clocked = false) {t : State} : exec (.stageEnd inst) s = .next t ↔
    StageFinished s inst ∧ endStage s inst (fun t => t.modInst inst (noteDuration t)) = t := by
  obtain ⟨hs, hf⟩ := hup
  refine (when_eq_next ..).trans (and_congr_left fun _ => ?_)
  simp [StageFinished, hs, hf, hc, and_assoc]

end

/-! ## The end of an instant (R294, R302) -/

/-- What joining the elements of a stage leaves: all but what happens before their next actions. -/
structure JoinedOnly (s : State) (es : List ERef) (t : State) : Prop where
  rest : ∃ elems, t = { s with elems := elems }
  elem : ∀ e, ∃ hb, t.elem e = { s.elem e with hb := hb }
  others : ∀ e ∉ es, t.elem e = s.elem e
  has : ∀ e, khas s.elems e = true → khas t.elems e = true
  halted : (∀ e ∈ es, khas s.elems e = true) → ∀ q ∈ t.elems, ∃ p ∈ s.elems, p.1 = q.1 ∧ p.2.halted = q.2.halted

theorem JoinedOnly.refl (s : State) (es : List ERef) : JoinedOnly s es s :=
  ⟨⟨_, rfl⟩, fun _ => ⟨_, rfl⟩, fun _ _ => rfl, fun _ => id, fun _ q hq => ⟨q, hq, rfl, rfl⟩⟩

theorem JoinedOnly.step {s t : State} {es : List ERef} (h : JoinedOnly s es t) {e : ERef} (he : e ∈ es) (hb : List Dep) :
    JoinedOnly s es (t.modElem e (fun x => { x with hb := hb })) where
  rest := by
    obtain ⟨_, rfl⟩ := h.rest
    exact ⟨_, rfl⟩
  elem y := by
    obtain ⟨hb', hy⟩ := h.elem y
    by_cases hey : e = y
    · subst hey
      exact ⟨hb, by rw [State.elem_modElem_self, hy]⟩
    · exact ⟨hb', by rw [State.elem_modElem_ne _ _ hey, hy]⟩
  others y hy := by
    have hey : e ≠ y := by
      rintro rfl
      exact hy he
    rw [State.elem_modElem_ne _ _ hey]
    exact h.others y hy
  has y hy := khas_kset_of_khas (h.has y hy) ..
  halted hes q hq := by
    rcases eq_or_mem_of_mem_kset hq with rfl | hq
    · exact h.halted hes (e, t.elem e) (mem_kget (h.has e (hes e he)))
    · exact h.halted hes q hq

theorem joinElems_joinedOnly (s : State) (es : List ERef) : JoinedOnly s es (joinElems s es) :=
  List.foldlRecOn es _ (JoinedOnly.refl s es) fun _ h _ he => h.step he _

/-- Elements that have met, before an instant's end: what stands of the part. -/
structure InstantJoined (s : State) (inst : Nat) (u : State) : Prop where
  insts : u.insts = s.insts
  ctxs : u.ctxs = s.ctxs
  elem : ∀ e, ∃ hb, u.elem e = { s.elem e with hb := hb }
  others : ∀ e : ERef, e.inst ≠ inst → u.elem e = s.elem e
  halted : ∀ q ∈ u.elems, ∃ p ∈ s.elems, p.1 = q.1 ∧ p.2.halted = q.2.halted

theorem joined_instantJoined (s : State) (inst : Nat) : InstantJoined s inst (joined s inst) := by
  obtain ⟨_, _, _, hw⟩ : MemoryOnly s (widenInst s inst .part) := .widenWhere ..
  obtain ⟨⟨_, hrest⟩, helem, hothers, -, hhalted⟩ := joinElems_joinedOnly (widenInst s inst .part) ((s.elemsOf inst).map Prod.fst)
  have hmem {e : ERef} (he : e ∈ (s.elemsOf inst).map Prod.fst) : khas s.elems e = true ∧ e.inst = inst := by
    obtain ⟨p, hp, rfl⟩ := List.mem_map.mp he
    obtain ⟨hp, hi⟩ := List.mem_filter.mp hp
    exact ⟨(khas_iff_exists ..).mpr ⟨p, hp, rfl⟩, eq_of_beq hi⟩
  rw [hw] at hrest helem hothers hhalted
  refine ⟨?_, ?_, fun e => ?_, fun e he => ?_, ?_⟩
  · rw [joined, hw, hrest]
  · rw [joined, hw, hrest]
  · rw [joined, hw]; exact helem e
  · rw [joined, hw]; exact hothers e fun h => he (hmem h).2
  · rw [joined, hw]; exact hhalted fun e h => (hmem h).1

section
variable {s : State} {inst : Nat}

theorem instantEnd_inst (s : State) (inst : Nat) :
    (instantEnd s inst).inst inst = instantInst (instantOver s inst) inst (s.inst inst) := by
  rw [instantEnd_eq, State.inst_modInst, if_pos rfl]
  exact congrArg (fun m => instantInst (instantOver s inst) inst (kget {} m inst)) (joined_instantJoined s inst).insts

/-- An element after an instant's end, by what it was before. -/
theorem instantEnd_elem (s : State) (inst : Nat) (e : ERef) :
    (instantEnd s inst).elem e = (nextInstantOf inst (e, (joined s inst).elem e)).2 := by
  by_cases he : khas (joined s inst).elems e = true
  · exact kget_map_keyed (nextInstantOf_fst inst) he
  · have hno : khas (joined s inst).elems e = false := eq_false_of_ne_true he
    have hmap : khas ((joined s inst).elems.map (nextInstantOf inst)) e = false := (khas_map_keyed _ (nextInstantOf_fst inst) e).trans hno
    have h1 : (instantEnd s inst).elem e = {} := kget_of_not_khas hmap
    have h2 : (joined s inst).elem e = {} := kget_of_not_khas hno
    rw [h1, h2, nextInstantOf]
    split <;> rfl

/-- An element of the stage: its delay registers latch, and it reacts anew (R302). -/
theorem instantEnd_elem_own {e : ERef} (he : e.inst = inst) :
    ((instantEnd s inst).elem e).dlLat = (s.elem e).dlPend ∧ ((instantEnd s inst).elem e).ended = false ∧
      ((instantEnd s inst).elem e).d = (s.elem e).d := by
  obtain ⟨hb, hj⟩ := (joined_instantJoined s inst).elem e
  rw [instantEnd_elem, nextInstantOf, if_pos he, hj]
  exact ⟨rfl, rfl, rfl⟩

theorem instantEnd_elem_other {e : ERef} (he : e.inst ≠ inst) : (instantEnd s inst).elem e = s.elem e := by
  rw [instantEnd_elem, nextInstantOf, if_neg he, (joined_instantJoined s inst).others e he]

/-- What stands of a new instant from its first cycle: cessions of halted elements (R294). -/
theorem instantEnd_acts {a : SigAct} (ha : a ∈ ((instantEnd s inst).inst inst).acts) :
    a.emit = none ∧ ∃ p ∈ s.elems, p.1 = ⟨inst, a.reg, a.el⟩ ∧ p.2.halted = true := by
  rw [instantEnd_inst] at ha
  obtain ⟨q, hq, ha⟩ := List.mem_flatMap.mp (show a ∈ haltedActs (instantOver s inst) inst from ha)
  obtain ⟨k, -, rfl⟩ := List.mem_map.mp ha
  obtain ⟨hq, hhalted⟩ := List.mem_filter.mp hq
  obtain ⟨hq, hinst⟩ := List.mem_filter.mp hq
  obtain ⟨q', hq', rfl⟩ := List.mem_map.mp (show q ∈ (joined s inst).elems.map (nextInstantOf inst) from hq)
  obtain ⟨p, hp, hkey, hph⟩ := (joined_instantJoined s inst).halted q' hq'
  refine ⟨rfl, p, hp, ?_, ?_⟩
  · rw [hkey, nextInstantOf_fst, ← eq_of_beq hinst, nextInstantOf_fst]
  · rw [hph, ← hhalted, nextInstantOf]
    split <;> rfl

theorem instantEnd_epoch (s : State) (inst : Nat) :
    ((instantEnd s inst).ctx (s.inst inst).ctx).epoch = ((s.ctx (s.inst inst).ctx).epoch + 1) % 2 ^ 24 := by
  have hctx : (joined s inst).ctx (s.inst inst).ctx = s.ctx (s.inst inst).ctx := by rw [State.ctx, (joined_instantJoined s inst).ctxs]; rfl
  rw [← hctx]
  exact congrArg Ctx.epoch (kget_kset_self ..)

/-- Every counter of what a region has performed starts again with the epoch (R289). -/
theorem instantEnd_num {x : Nat} (hx : x ∈ s.ctxRegions (s.inst inst).ctx) : kget 1 (instantEnd s inst).num x = 1 := by
  have hreg : (joined s inst).ctxRegions (s.inst inst).ctx = s.ctxRegions (s.inst inst).ctx := by
    simp only [State.ctxRegions, State.physReg, State.physDie, State.inst, (joined_instantJoined s inst).insts] <;> rfl
  rw [← hreg] at hx
  exact kget_filter_keys (t := fun x => !((joined s inst).ctxRegions (s.inst inst).ctx).contains x) _ (by simpa using hx)

end

/-! ## When an instant ends (R302, R333, R356) -/

section
variable {s : State} {inst : Nat}

theorem allReacted_iff : allReacted s inst = true ↔ ∀ p ∈ s.elems, p.1.inst = inst → p.2.ended = true ∨ p.2.halted = true := by
  simp [allReacted, State.elemsOf, imp_iff_not_or]

theorem deltaDue_iff : deltaDue s inst = true ↔ (s.graph (s.inst inst).graph).live.filter (fun d => !d.applied) ≠ [] := by
  simp [deltaDue, List.filter_eq_nil_iff]

/-- While a core leads, a delta that waits for the safe point, and a mark of a stage that goes on, come first. -/
def SafePointFirst (s : State) (inst : Nat) : Prop :=
  Leads s ∧ (deltaDue s inst = true ∨ (allHalted s inst = false ∧ (s.inst inst).marked = true))

theorem exec_instantEnd_iff {t : State} : exec (.instantEnd inst) s = .next t ↔ (instantDue s inst = true ∧ ¬ SafePointFirst s inst) ∧
    (if allHalted s inst then endStage s inst (fun t => instantEnd t inst) else instantEnd s inst) = t := by
  refine (when_eq_next ..).trans (and_congr_left fun _ => ?_)
  rw [SafePointFirst, ← leads_iff]
  cases s.leads <;> cases deltaDue s inst <;> cases allHalted s inst <;> cases (s.inst inst).marked <;> simp

theorem instantDue_of_up (hup : Up s inst) (hc : (s.inst inst).img.clocked = true) (hq : quiescent s inst = true)
    (hr : ∀ p ∈ s.elems, p.1.inst = inst → p.2.ended = true ∨ p.2.halted = true) : instantDue s inst = true := by
  simp [instantDue, hup.1, hup.2, hc, hq, allReacted_iff.mpr hr]

/-- With every element halted the stage ends. -/
theorem exec_instantEnd_halted (hdue : instantDue s inst = true) (hall : allHalted s inst = true)
    (hno : (s.graph (s.inst inst).graph).live.filter (fun d => !d.applied) = []) :
    exec (.instantEnd inst) s = .next (endStage s inst (fun t => instantEnd t inst)) := by
  refine exec_instantEnd_iff.mpr ⟨⟨hdue, ?_⟩, if_pos hall⟩
  rintro ⟨-, h | ⟨h, -⟩⟩
  · exact deltaDue_iff.mp h hno
  · simp [hall] at h

/-- With an element that goes on the next instant begins. -/
theorem exec_instantEnd_goes (hdue : instantDue s inst = true) (hall : allHalted s inst = false)
    (hfirst : Leads s → (s.graph (s.inst inst).graph).live.filter (fun d => !d.applied) = [] ∧ (s.inst inst).marked = false) :
    exec (.instantEnd inst) s = .next (instantEnd s inst) := by
  refine exec_instantEnd_iff.mpr ⟨⟨hdue, ?_⟩, if_neg (by simp [hall])⟩
  rintro ⟨hl, h⟩
  obtain ⟨hno, hmark⟩ := hfirst hl
  rcases h with h | ⟨-, h⟩
  · exact deltaDue_iff.mp h hno
  · simp [hmark] at h

theorem not_exec_instantEnd_first (hl : Leads s) (h : (s.graph (s.inst inst).graph).live.filter (fun d => !d.applied) ≠ [] ∨
    (allHalted s inst = false ∧ (s.inst inst).marked = true)) : ¬ ∃ t, exec (.instantEnd inst) s = .next t := by
  rintro ⟨t, ht⟩
  obtain ⟨⟨-, hnot⟩, -⟩ := exec_instantEnd_iff.mp ht
  exact hnot ⟨hl, h.imp_left deltaDue_iff.mpr⟩

end

/-! ## Quiescence with an element that reacts (R303, R304) -/

section
variable {s : State} {inst : Nat} {e : ERef} {es : List ERef}

theorem not_allReacted_of_blocked (hb : blockedElems s inst = e :: es) : allReacted s inst = false := by
  have he : e ∈ blockedElems s inst := by rw [hb]; exact List.mem_cons_self
  obtain ⟨p, hp, -⟩ := List.mem_map.mp (mem_sortBy.mp he)
  obtain ⟨hp, hno⟩ := List.mem_filter.mp hp
  rw [allReacted, List.all_eq_false]
  exact ⟨p, hp, by simpa using hno⟩

theorem not_exec_instantEnd_blocked (hb : blockedElems s inst = e :: es) : ¬ ∃ t, exec (.instantEnd inst) s = .next t := by
  rintro ⟨t, ht⟩
  obtain ⟨⟨hdue, -⟩, -⟩ := exec_instantEnd_iff.mp ht
  simp [instantDue, not_allReacted_of_blocked hb] at hdue

/-- The record of quiescence with elements still reacting, against the first of them (log 40). -/
def quiescenceRec (s : State) (inst : Nat) (e : ERef) (sigs : List Nat) : FaultRec :=
  { faultAt s e 0 0 false (if sigs = [] then 0x142 else 0x141) 0 0 0 0 with
    qrep := quiescenceReport (s.inst inst).icnt (blockedElems s inst) sigs }

theorem quiescenceRec_shown (sigs : List Nat) : (quiescenceRec s inst e sigs).shown = quiescenceRec s inst e sigs := by
  refine if_neg ?_
  show (if sigs = [] then 0x142 else 0x141) ≠ _
  split <;> decide

theorem exec_quiescenceFault (hup : Up s inst) (hc : (s.inst inst).img.clocked = true) (hq : quiescent s inst = true)
    (hb : blockedElems s inst = e :: es) : exec (.quiescenceFault inst) s = .next (raiseFault s (s.inst inst).graph
      (quiescenceRec s inst e (sortBy (· < ·) ((blockedElems s inst).flatMap (waitedOn s)).eraseDups))) := by
  show execQuiescenceFault inst s = _
  simp only [execQuiescenceFault, hb, List.head?_cons, when_eq_next, hc, hup.1, hup.2, hq, BEq.rfl, Option.isNone_none, Bool.and_self,
    true_and]
  rw [quiescenceRec, hb]

theorem quiescenceReport_length (w : Word) (es : List ERef) (sigs : List Nat) : (quiescenceReport w es sigs).length = 32 := by
  simp [quiescenceReport]

/-- The report's places for the blocked elements (R304). -/
theorem quiescenceReport_elem (w : Word) (es : List ERef) (sigs : List Nat) {k : Nat} (hk : k < 16) :
    nthW (quiescenceReport w es sigs) (2 + k) = match es[k]? with
      | some e => coordOf e.reg e.el
      | none => 0xFFFFFFFF := by
  rw [quiescenceReport]
  cases h : es[k]? <;> simp [nthW, List.getD_eq_getElem?_getD, List.getElem?_append, hk, h, Nat.add_comm 2 k]

end

end Sys2Proof.Machine
end

section
/-! SUPPORT. The end of a faulted graph (spec/07_instr_contraction_tiles.md R134, spec/23_faults_traps.md R343 to R349): the second part of
Obligations.InstantResults. -/

namespace Sys2Proof.Machine

/-! ## What ending contractions and leaving the part's rounds keep of graphs and their records -/

/-- Error records and their counts stand; of a graph the fault alone changes, and what its log counts. -/
structure GraphsHeld (s t : State) : Prop where
  errCnt : t.errCnt = s.errCnt
  errRecs : t.errRecs = s.errRecs
  graph : ∀ g, ∃ fault nflt xcount, t.graph g = { s.graph g with fault := fault, nflt := nflt, xcount := xcount }

namespace GraphsHeld
variable {s t u : State}

theorem of_graphs (hc : t.errCnt = s.errCnt) (hr : t.errRecs = s.errRecs) (hg : t.graphs = s.graphs) : GraphsHeld s t :=
  ⟨hc, hr, fun g => ⟨_, _, _, by rw [State.graph, hg]; rfl⟩⟩

theorem refl (s : State) : GraphsHeld s s := of_graphs rfl rfl rfl

theorem trans (h : GraphsHeld s t) (h' : GraphsHeld t u) : GraphsHeld s u := by
  refine ⟨h'.errCnt.trans h.errCnt, h'.errRecs.trans h.errRecs, fun g => ?_⟩
  obtain ⟨_, _, _, hg⟩ := h.graph g
  obtain ⟨_, _, _, hg'⟩ := h'.graph g
  exact ⟨_, _, _, by rw [hg', hg]⟩

/-- Graphs are held from a state in which they stand as in another. -/
theorem after (h : GraphsHeld t u) (hc : t.errCnt = s.errCnt) (hr : t.errRecs = s.errRecs) (hg : t.graphs = s.graphs) :
    GraphsHeld s u := (of_graphs hc hr hg).trans h

theorem origin (h : GraphsHeld s t) (g : Nat) : (t.graph g).origin = (s.graph g).origin := by
  obtain ⟨_, _, _, hg⟩ := h.graph g
  rw [hg]

theorem stage (h : GraphsHeld s t) (g : Nat) : (t.graph g).stage = (s.graph g).stage := by
  obtain ⟨_, _, _, hg⟩ := h.graph g
  rw [hg]

theorem foldl {α : Type} {f : State → α → State} (hf : ∀ s a, GraphsHeld s (f s a)) (as : List α) (s : State) :
    GraphsHeld s (as.foldl f s) :=
  List.foldlRecOn as f (refl s) fun _ h a _ => h.trans (hf _ a)

theorem of_accessOnly (h : AccessOnly s t) : GraphsHeld s t := by
  obtain ⟨-, _, _, _, _, _, _, _, _, _, _, rfl⟩ := h
  exact of_graphs rfl rfl rfl

theorem of_memoryOnly (h : MemoryOnly s t) : GraphsHeld s t := of_accessOnly h.accessOnly

theorem of_frontOnly (h : FrontOnly s t) : GraphsHeld s t := by
  obtain ⟨_, _, _, _, _, _, _, _, rfl⟩ := h
  exact of_graphs rfl rfl rfl

theorem modGraph (s : State) (gi : Nat) (f : GraphInst → GraphInst)
    (hf : ∃ fault nflt xcount, f (s.graph gi) = { s.graph gi with fault := fault, nflt := nflt, xcount := xcount }) :
    GraphsHeld s (s.modGraph gi f) := by
  refine ⟨rfl, rfl, fun g => ?_⟩
  rw [State.graph_modGraph]
  split
  next h => exact h ▸ hf
  next => exact ⟨_, _, _, rfl⟩

theorem noteFault (s : State) (cause : Nat) (i j : Word) : GraphsHeld s (noteFault s cause i j) := by
  unfold Machine.noteFault
  dsimp only
  split <;> exact of_graphs rfl rfl rfl

theorem raiseFault (s : State) (gi : Nat) (f : FaultRec) : GraphsHeld s (raiseFault s gi f) := by
  refine (noteFault s f.cause f.info f.info2).trans (modGraph _ gi _ ?_)
  dsimp only
  split
  · exact ⟨_, _, _, rfl⟩
  · split <;> exact ⟨_, _, _, rfl⟩

/-! ### Contractions that end (R134) -/

theorem onTape {α : Type} {r : Req} {tape : List (List Byte)} {f : State → Except Stop (α × State)} {a : α}
    (hf : ∀ u a t, f u = .ok (a, t) → GraphsHeld u t) (h : onTape r tape f s = .ok (a, t)) : GraphsHeld s t := by
  unfold Machine.onTape at h
  split at h
  next b v hv =>
    obtain ⟨-, rfl⟩ := ok_pair h
    have hrun : GraphsHeld s v := (hf _ _ _ hv).after rfl rfl rfl
    exact hrun.trans (of_graphs rfl rfl rfl)
  next => simp at h
  next => simp at h

theorem workOf {α : Type} {r : Req} {f : State → Except Stop (α × State)} {a : α}
    (hf : ∀ u a t, f u = .ok (a, t) → GraphsHeld u t) (h : workOf r f s = .ok (a, t)) : GraphsHeld s t := by
  unfold Machine.workOf at h
  split at h
  · exact onTape hf h
  · unfold newWork at h
    split at h
    · exact onTape hf h
    · exact hf _ _ _ h

theorem clearHdr {q : Rq} {vc : Nat} (h : clearHdr q vc s = .ok t) : GraphsHeld s t := by
  unfold Machine.clearHdr at h
  split at h
  next => simp at h
  next hr => exact of_accessOnly ((AccessOnly.readHdr hr).trans (.writeHdr h))

theorem keepWork (s : State) (r : Req) (t : State) : GraphsHeld s (keepWork s r t) := by
  unfold Machine.keepWork
  split
  · split
    · exact refl s
    · exact of_graphs rfl rfl rfl
  · exact refl s

theorem addAcc (s : State) (q : Rq) (va : Nat) (wr : Bool) (st : AccSt) (t : State) : GraphsHeld s (addAcc s q va wr st t) := by
  refine (keepWork s q.req t).trans ?_
  unfold Machine.addAcc
  dsimp only
  split
  · exact refl _
  · exact of_graphs rfl rfl rfl

theorem modCon (s : State) (r : RRef) (seq : Nat) (f : Contraction → Contraction) : GraphsHeld s (modCon s r seq f) :=
  of_graphs rfl rfl rfl

theorem dropJournal (s : State) (r : Req) : GraphsHeld s (dropJournal s r) := by
  unfold Machine.dropJournal
  split
  · exact of_graphs rfl rfl rfl
  · exact refl s

theorem finishCon (s : State) (r : RRef) (c : Contraction) : GraphsHeld s (finishCon s r c) := by
  unfold Machine.finishCon
  dsimp only
  split
  next t h =>
    refine (workOf (fun u a t ht => ?_) h).trans (modCon ..)
    cases hc : Machine.clearHdr (headerRq s r c.seq c.slot) (descVA u r.inst c 3) u with
    | error e => rw [hc] at ht; simp [Except.map] at ht
    | ok v =>
      rw [hc] at ht
      exact (ok_pair ht).2 ▸ clearHdr hc
  next => exact addAcc ..
  next => exact ((dropJournal ..).trans (modCon ..)).trans (raiseFault ..)
  next => exact (dropJournal ..).trans (modCon ..)

theorem endAs (s : State) (r : RRef) (c : Contraction) (st : Nat) : GraphsHeld s (endAs s r c st) := by
  unfold Machine.endAs
  dsimp only
  split
  · exact of_graphs rfl rfl rfl
  · exact (finishCon ..).after rfl rfl rfl

theorem abandonCons (s : State) (inst : Nat) : GraphsHeld s (abandonCons s inst) := by
  refine foldl (fun t x => ?_) s.regions s
  split
  · refine foldl (fun t c => ?_) x.2.cons t
    dsimp only
    split
    · split
      · exact refl t
      · exact modCon ..
    · split
      · exact refl t
      · exact endAs ..
  · exact refl t

/-! ### Calls, rounds and holds that a graph leaves (R343 step 3) -/

theorem sendStarts (s : State) (slot : Nat) : GraphsHeld s (sendStarts s slot) := by
  unfold Machine.sendStarts
  dsimp only
  split
  · exact refl s
  · split
    · exact of_graphs rfl rfl rfl
    · exact refl s

theorem abortCalls (s : State) (gi slot : Nat) : GraphsHeld s (abortCalls s gi slot) := by
  unfold Machine.abortCalls
  dsimp only
  split
  · exact refl s
  · split
    · exact (sendStarts ..).after rfl rfl rfl
    · exact of_graphs rfl rfl rfl

theorem abortOwnRound (s : State) (gi slot : Nat) : GraphsHeld s (abortOwnRound s gi slot) := by
  unfold Machine.abortOwnRound
  split
  · exact refl s
  · split
    · exact of_graphs rfl rfl rfl
    · exact refl s

theorem leaveHolds (s : State) (gi : Nat) : GraphsHeld s (leaveHolds s gi) := by
  have hdrop : GraphsHeld s (dropRecords s gi) := by
    unfold dropRecords
    exact (modGraph _ gi _ ⟨_, _, _, rfl⟩).after rfl rfl rfl
  exact hdrop.trans (of_graphs rfl rfl rfl)

theorem abortAll (s : State) (gi : Nat) : GraphsHeld s (abortAll s gi) :=
  (leaveHolds s gi).trans (foldl (fun _ _ => (abortCalls ..).trans (abortOwnRound ..)) _ _)

theorem writeLogHeader (s : State) (gi : Nat) : GraphsHeld s (writeLogHeader s gi) := by
  unfold Machine.writeLogHeader
  dsimp only
  split
  · exact refl s
  · exact of_frontOnly (.frontWriteFor ..)

theorem clearStage (s : State) (inst : Nat) : GraphsHeld s (clearStage s inst) := by
  have hfree : GraphsHeld s (freeTiles s inst) := foldl (f := freeEntry) (fun _ _ => of_graphs rfl rfl rfl) _ _
  exact hfree.trans (of_graphs rfl rfl rfl)

theorem freeGraph (s : State) (gi : Nat) : GraphsHeld s (freeGraph s gi) := by
  unfold Machine.freeGraph
  split
  · exact of_graphs rfl rfl rfl
  · exact ((of_memoryOnly (.widenWhere ..)).trans (clearStage ..)).trans (of_graphs rfl rfl rfl)

end GraphsHeld

/-! ## The graph's stage is gone (R343 step 5) -/

theorem freeGraph_stage {s : State} {gi k : Nat} (h : graphStage s gi = some k) :
    khas (freeGraph s gi).insts k = false ∧ ∀ e : ERef, e.inst = k → (freeGraph s gi).elem e = {} := by
  simp only [freeGraph, h]
  exact ⟨khas_kdel .., fun e he => clearStage_elem (widenInst s k .system) he⟩

/-! ## The error record (R347, R348) -/

theorem errorRecord_length (index nflt : Nat) (f : FaultRec) : (errorRecord index nflt f).length = 64 := by simp [errorRecord]

theorem errorRecord_take (index nflt : Nat) (f : FaultRec) : (errorRecord index nflt f).take 13 =
    [f.engine * 2 ^ 28 + (if f.prec then 2 ^ 27 else 0) + f.cause, index, f.coord.toNat, f.reg * 2 ^ 24 + f.slot, f.handle.toNat, f.addr,
      f.addr / 2 ^ 32 % 2 ^ 24, f.info.toNat, f.info2.toNat, f.icnt.toNat, nflt, f.cycle, f.cycle / 2 ^ 32].map (BitVec.ofNat 32) := by
  simp [errorRecord, wd]

/-! ## The launch completes (R314) -/

section
variable (s : State) (gi cause : Nat)

theorem completeFaulted_frontOnly : FrontOnly
    (s.modGraph gi (fun x => { x with done := true, live := [], conds := [], stage := none, call := none })) (completeFaulted s gi cause) :=
  (FrontOnly.foldl (fun _ _ => .completeOrigin ..) _ _).trans (.completeOrigin ..)

/-- A launch that completes leaves stages, elements and error records as they were. -/
theorem completeFaulted_insts : (completeFaulted s gi cause).insts = s.insts :=
  (completeFaulted_frontOnly ..).insts

theorem completeFaulted_elem (e : ERef) : (completeFaulted s gi cause).elem e = s.elem e := by
  rw [State.elem, (completeFaulted_frontOnly ..).elems]
  rfl

theorem completeFaulted_errCnt : (completeFaulted s gi cause).errCnt = s.errCnt :=
  (GraphsHeld.of_frontOnly (completeFaulted_frontOnly ..)).errCnt

theorem completeFaulted_errRecs : (completeFaulted s gi cause).errRecs = s.errRecs :=
  (GraphsHeld.of_frontOnly (completeFaulted_frontOnly ..)).errRecs

theorem completeFaulted_done : ((completeFaulted s gi cause).graph gi).done = true := by
  rw [State.graph, (completeFaulted_frontOnly ..).graphs]
  exact congrArg GraphInst.done (kget_kset_self ..)

/-- The packet of a launch that a queue has given is no longer open, unless its record waits for a translation. -/
theorem completeFaulted_open {q n : Nat} (h : (s.graph gi).origin = .queue q n) :
    n ∉ ((completeFaulted s gi cause).queue q).open_ ∨ ∃ y ∈ (completeFaulted s gi cause).fronts, y.2.pkt = some (q, n) := by
  unfold completeFaulted
  simp only [h, completeOrigin]
  refine (completePacket_open _ q n _ _ cause _).2.imp (fun ho => ?_) And.right
  simp [ho]

end

/-! ## The end itself -/

/-- The part once the error record of a faulted graph stands. -/
def faultRecorded (s : State) (gi : Nat) (f : FaultRec) : State :=
  writeErrorRecord (abortAll s gi) (originQueue (s.graph gi).origin)
    (errorRecord (originIndex (s.graph gi).origin) (s.graph gi).nflt f)

/-- The part once a faulted graph holds nothing of it, before its launch completes. -/
def faultFreed (s : State) (gi : Nat) (f : FaultRec) : State := freeGraph (writeLogHeader (faultRecorded s gi f) gi) gi

theorem endFaulted_eq (s : State) (gi : Nat) (f : FaultRec) : endFaulted s gi f = completeFaulted (faultFreed s gi f) gi f.cause := rfl

theorem writeErrorRecord_graph (s : State) (q : Nat) (ws : List Word) (g : Nat) : (writeErrorRecord s q ws).graph g = s.graph g := rfl

theorem writeErrorRecord_errCnt (s : State) (q : Nat) (ws : List Word) :
    kget 0 (writeErrorRecord s q ws).errCnt q = kget 0 s.errCnt q + 1 := kget_kset_self ..

theorem writeErrorRecord_errRecs (s : State) (q : Nat) (ws : List Word) :
    kget [] (writeErrorRecord s q ws).errRecs (q * 4 + (kget 0 s.errCnt q).toNat % 4) = ws := kget_kset_self ..

section
variable (s : State) (gi : Nat) (f : FaultRec)

theorem faultFreed_held : GraphsHeld (faultRecorded s gi f) (faultFreed s gi f) := (GraphsHeld.writeLogHeader ..).trans (.freeGraph ..)

theorem faultFreed_origin : ((faultFreed s gi f).graph gi).origin = (s.graph gi).origin := by
  rw [(faultFreed_held ..).origin, faultRecorded, writeErrorRecord_graph, (GraphsHeld.abortAll ..).origin]

theorem faultLogged_stage : graphStage (writeLogHeader (faultRecorded s gi f) gi) gi = (s.graph gi).stage := by
  rw [graphStage, (GraphsHeld.writeLogHeader ..).stage, faultRecorded, writeErrorRecord_graph, (GraphsHeld.abortAll ..).stage]

end

section
variable {s : State} {gi : Nat} {f : FaultRec}

theorem endFaulted_stage {k : Nat} (h : (s.graph gi).stage = some k) :
    khas (endFaulted s gi f).insts k = false ∧ ∀ e : ERef, e.inst = k → (endFaulted s gi f).elem e = {} := by
  rw [endFaulted_eq, completeFaulted_insts]
  simp only [completeFaulted_elem]
  exact freeGraph_stage ((faultLogged_stage s gi f).trans h)

/-- ERRCNT counts the record, which stands in its place of the queue's four (R347). -/
theorem endFaulted_record {q n : Nat} (h : (s.graph gi).origin = .queue q n) :
    kget 0 (endFaulted s gi f).errCnt q = kget 0 s.errCnt q + 1 ∧
      kget [] (endFaulted s gi f).errRecs (q * 4 + (kget 0 s.errCnt q).toNat % 4) = errorRecord n (s.graph gi).nflt f := by
  have hrec : faultRecorded s gi f = writeErrorRecord (abortAll s gi) q (errorRecord n (s.graph gi).nflt f) := by
    rw [faultRecorded, h, originQueue, originIndex]
  rw [endFaulted_eq, completeFaulted_errCnt, completeFaulted_errRecs, (faultFreed_held ..).errCnt, (faultFreed_held ..).errRecs, hrec,
    ← (GraphsHeld.abortAll s gi).errCnt]
  exact ⟨writeErrorRecord_errCnt .., writeErrorRecord_errRecs ..⟩

theorem endFaulted_done (s : State) (gi : Nat) (f : FaultRec) : ((endFaulted s gi f).graph gi).done = true := by
  rw [endFaulted_eq]
  exact completeFaulted_done ..

theorem endFaulted_open {q n : Nat} (h : (s.graph gi).origin = .queue q n) :
    n ∉ ((endFaulted s gi f).queue q).open_ ∨ ∃ y ∈ (endFaulted s gi f).fronts, y.2.pkt = some (q, n) := by
  rw [endFaulted_eq]
  exact completeFaulted_open _ gi f.cause ((faultFreed_origin ..).trans h)

/-! ## The step (R343) -/

/-- What the step ends with the graph: its stage's contractions, where it is at a stage. -/
def faultKept (s : State) (gi : Nat) : State :=
  match (s.graph gi).stage with
  | some k => abandonCons s k
  | none => s

/-- A contraction of the graph's stage waits for its header. -/
def FaultHeld (s : State) (gi : Nat) : Prop := ∃ k, (s.graph gi).stage = some k ∧ consEnding (faultKept s gi) k = true

theorem faultKept_held (s : State) (gi : Nat) : GraphsHeld s (faultKept s gi) := by
  unfold faultKept
  split
  · exact .abandonCons ..
  · exact .refl s

variable (hf : (s.graph gi).fault = some f)
include hf

theorem not_exec_fatalEnd_open (ha : acceptedOpen s gi = true) : ¬ ∃ t, exec (.fatalFaultGraphEnd gi) s = .next t := by
  rintro ⟨t, ht⟩
  have ht : execFatalFaultGraphEnd gi s = .next t := ht
  simp [execFatalFaultGraphEnd, hf, ha] at ht

variable (hd : (s.graph gi).done = false) (ha : acceptedOpen s gi = false)
include hd ha

theorem exec_fatalEnd_blocked {die ch : Nat} (hb : blockedChannel s gi = some (die, ch)) :
    exec (.fatalFaultGraphEnd gi) s = .next (passHead s die ch) := by
  show execFatalFaultGraphEnd gi s = _
  simp [execFatalFaultGraphEnd, hf, hd, ha, hb]

variable (hb : blockedChannel s gi = none)
include hb

theorem exec_fatalEnd_held (hh : FaultHeld s gi) : exec (.fatalFaultGraphEnd gi) s =
    if (faultKept s gi).regions = s.regions then notNow "FATAL_FAULT_GRAPH_END" else .next (faultKept s gi) := by
  obtain ⟨k, hk, hc⟩ := hh
  have hkept : faultKept s gi = abandonCons s k := by simp only [faultKept, hk]
  rw [hkept] at hc ⊢
  show execFatalFaultGraphEnd gi s = _
  simp [execFatalFaultGraphEnd, hf, hd, ha, hb, hk, hc]

theorem exec_fatalEnd_ends (hh : ¬ FaultHeld s gi) {f' : FaultRec} (hf' : ((faultKept s gi).graph gi).fault = some f') :
    exec (.fatalFaultGraphEnd gi) s = .next (endFaulted (faultKept s gi) gi f') := by
  show execFatalFaultGraphEnd gi s = _
  cases hk : (s.graph gi).stage with
  | none =>
    have hkept : faultKept s gi = s := by simp only [faultKept, hk]
    obtain rfl : f = f' := Option.some.inj (hf.symm.trans (hkept ▸ hf'))
    simp [execFatalFaultGraphEnd, hf, hd, ha, hb, hk, hkept]
  | some k =>
    have hkept : faultKept s gi = abandonCons s k := by simp only [faultKept, hk]
    have hc : consEnding (abandonCons s k) k = false := eq_false_of_ne_true fun hc => hh ⟨k, hk, hkept ▸ hc⟩
    rw [hkept] at hf' ⊢
    simp [execFatalFaultGraphEnd, hf, hd, ha, hb, hk, hc, hf']

end

/-- The lifetime record counts a fault by its cause as it is raised (R363). -/
theorem raiseFault_lifePend (s : State) (gi : Nat) (h : FaultRec) : (raiseFault s gi h).lifePend.fault =
    kset s.lifePend.fault h.cause (min 0xFFFFFFFF (kget 0 s.lifePend.fault h.cause + 1)) := by
  show (noteFault s h.cause h.info h.info2).lifePend.fault = _
  unfold noteFault
  dsimp only
  split <;> rfl

/-- Settles O58: each step by its guard; an instant's end by what it leaves of each element and of the epoch; a faulted graph's end by
what its steps hold of the graph, and by the record that then stands. -/
theorem instantResults : Obligations.InstantResults := by
  refine ⟨fun s inst hup => ?_, fun s gi f hf hd => ?_⟩
  · intro i blocked deltas cleared
    refine ⟨fun reg el sig pre a post himg hacts hpre hs hr hseen => exec_signalVisible hup.1 himg hacts hpre ⟨hs, hr, hseen⟩,
      fun reg el sig h => not_exec_signalVisible h, fun hc hq hreact => ?_, fun hc hq e es hb => ?_, fun hc => ?_⟩
    · have hdue := instantDue_of_up hup hc hq hreact
      refine ⟨fun hall hno => ?_, fun hall hfirst => ?_, not_exec_instantEnd_first⟩
      · have hend := exec_instantEnd_halted hdue hall hno
        exact ⟨fun hclr => ⟨_, hend, endStage_cleared hclr _⟩, fun hclr => by rw [hend, endStage_held hclr]⟩
      · refine ⟨_, exec_instantEnd_goes hdue hall hfirst, ?_, ?_, fun e he => instantEnd_elem_own he,
          fun e he => instantEnd_elem_other he, fun a ha => instantEnd_acts ha, instantEnd_epoch s inst, fun x hx => instantEnd_num hx⟩
        · rw [instantEnd_inst]; rfl
        · rw [instantEnd_inst]; exact hup.1
    · exact ⟨not_exec_instantEnd_blocked hb, _, _, exec_quiescenceFault hup hc hq hb,
        (raiseFault_first _ hup.2).trans (congrArg some (quiescenceRec_shown _)), rfl, rfl, rfl, quiescenceReport_length .., rfl, rfl,
        fun k hk => quiescenceReport_elem _ _ _ hk⟩
    · have hiff {t : State} := exec_stageEnd_iff (t := t) hup hc
      refine ⟨fun hfin hclr => ⟨_, hiff.mpr ⟨hfin, rfl⟩, endStage_cleared hclr _⟩,
        fun hfin hclr => hiff.mpr ⟨hfin, endStage_held hclr _⟩, ?_⟩
      rintro hfin ⟨t, ht⟩
      exact hfin (hiff.mp ht).1
  · intro x
    refine ⟨not_exec_fatalEnd_open hf, fun die ch ha hb => exec_fatalEnd_blocked hf hd ha hb, raiseFault_lifePend s gi, ?_⟩
    intro kept ending
    refine ⟨fun ha hb hh => ⟨fun hne => ?_, ?_⟩, fun f' hf' ha hb hh => ⟨_, exec_fatalEnd_ends hf hd ha hb hh hf', ?_, ?_, ?_⟩⟩
    · exact (exec_fatalEnd_held hf hd ha hb hh).trans (if_neg hne)
    · rintro heq ⟨t, ht⟩
      exact notNow_ne_next _ _ (((exec_fatalEnd_held hf hd ha hb hh).trans (if_pos heq)).symm.trans ht)
    · exact endFaulted_done ..
    · intro k hk
      exact endFaulted_stage (((faultKept_held s gi).stage gi).trans hk)
    · intro q n ho cnt
      have ho' : ((faultKept s gi).graph gi).origin = .queue q n := ((faultKept_held s gi).origin gi).trans ho
      obtain ⟨hcnt, hrec⟩ := endFaulted_record (f := f') ho'
      rw [(faultKept_held s gi).errCnt] at hcnt hrec
      refine ⟨hcnt, endFaulted_open ho', ?_⟩
      intro r
      have hr : r = errorRecord n ((faultKept s gi).graph gi).nflt f' := hrec
      rw [hr]
      exact ⟨errorRecord_length .., errorRecord_take ..⟩

end Sys2Proof.Machine
end

section
/-! SUPPORT. What a write-back does to its element and leaves of the part (spec/09_instr_scalar_vector.md R146, spec/03_element_and_word.md R41,
R46): Obligations.WriteBackRule. -/

namespace Sys2Proof.Machine

/-! ## The release of a token that enters a boundary route (R281, R289) -/

/-- The outputs keep their tokens as they show; of the part, only what the region has released and the element change. -/
theorem outRelease_spec (s : State) (e : ERef) (dst : BitVec 4) :
    OutputsOnly e s (outRelease s e dst) ∧
    (∀ c, (((outRelease s e dst).elem e).out c).map Token.shown = ((s.elem e).out c).map Token.shown) ∧
    ∀ a, a ≠ e → (outRelease s e dst).elem a = s.elem a := by
  unfold outRelease
  cases outChan dst with
  | none => exact ⟨.refl e s, fun _ => rfl, fun _ _ => rfl⟩
  | some c =>
    dsimp only
    split
    · have he (g : Elem → Elem) : ((releaseAt s e.inst e.reg (before s e)).2.modElem e g).elem e = g (s.elem e) :=
        State.elem_modElem_self ..
      rw [he]
      refine ⟨⟨⟨_, _, rfl⟩, _, he _⟩, fun k => ?_, fun a ha => State.elem_modElem_ne _ _ ha.symm⟩
      rw [Elem.out, kget_kset]
      split
      next h => rw [← h, map_shown_relastRel]
      next => rfl
    · exact ⟨.refl e s, fun _ => rfl, fun _ _ => rfl⟩

/-! ## The parts of a write-back (R46, R146) -/

theorem outChan_eq_some {dst : BitVec 4} {c : Nat} : outChan dst = some c ↔ 8 ≤ dst.toNat ∧ dst.toNat ≤ 11 ∧ c = dst.toNat - 8 := by
  unfold outChan
  split
  next h => rw [Option.some_inj]; exact ⟨fun hc => ⟨h.1, h.2, hc.symm⟩, fun hc => hc.2.2.symm⟩
  next h => exact ⟨by simp, fun hc => absurd ⟨hc.1, hc.2.1⟩ h⟩

/-- A destination that names an output names no register. -/
theorem dstReg_of_outChan {dst : BitVec 4} {c : Nat} (h : outChan dst = some c) : dstReg dst = none :=
  if_neg (by have := (outChan_eq_some.mp h).1; omega)

theorem Elem.dreg_setD (x : Elem) (i n : Nat) (v : Word) (f : Bool) :
    ((x.setD i v f).dreg n, (x.setD i v f).dflag n) = if n = i then (v, f) else (x.dreg n, x.dflag n) := by
  simp only [Elem.setD, Elem.dreg, Elem.dflag, kget_kset, eq_comm (a := n)]
  split <;> rfl

/-- The byte that has bit k alone. -/
theorem getLsbD_one_shiftLeft : ∀ k < 8, ∀ n < 8,
    ((1 : BitVec 8) <<< k).getLsbD n = decide (k = n) ∧ ((1 <<< k : Nat) : BitVec 8).getLsbD n = decide (k = n) := by decide

theorem Elem.bit_setP (x : Elem) {k n : Nat} (hk : k < 8) (hn : n < 8) (v : Bool) :
    bit (x.setP k v).p n = if k = n then v else bit x.p n := by
  obtain ⟨hword, hnat⟩ := getLsbD_one_shiftLeft k hk n hn
  unfold Elem.setP bit
  cases v
  · simp only [Bool.false_eq_true, if_false, BitVec.getLsbD_and, BitVec.getLsbD_not, hword]
    by_cases h : k = n <;> simp [h, hn]
  · simp only [if_true, BitVec.getLsbD_or, hnat]
    by_cases h : k = n <;> simp [h]

theorem writeDst_regs (x : Elem) (dst : BitVec 4) (ot : BitVec 2) (r : Word) (rf : Bool) (n : Nat) :
    ((writeDst x dst ot r rf).dreg n, (writeDst x dst ot r rf).dflag n) =
      if some n = dstReg dst then (r, rf) else (x.dreg n, x.dflag n) := by
  unfold writeDst
  cases h : outChan dst with
  | some c => rw [dstReg_of_outChan h]; rfl
  | none =>
    dsimp only [dstReg]
    split
    · simp only [Elem.dreg_setD, Option.some_inj]
    · rfl

theorem writeDst_out (x : Elem) (dst : BitVec 4) (ot : BitVec 2) (r : Word) (rf : Bool) (c : Nat) :
    (writeDst x dst ot r rf).out c = x.out c ++ if outChan dst = some c then [⟨r, ot, rf, none, none⟩] else [] := by
  unfold writeDst
  cases h : outChan dst with
  | some k =>
    dsimp only
    rw [Elem.out, Elem.pushOut, kget_kset]
    by_cases hk : k = c
    · simp [hk]
    · simp [hk]; rfl
  | none =>
    rw [if_neg (Option.some_ne_none c).symm, List.append_nil]
    dsimp only
    split <;> rfl

/-- A destination is a register or an output, and nothing else of the element. -/
theorem writeDst_frame (x : Elem) (dst : BitVec 4) (ot : BitVec 2) (r : Word) (rf : Bool) :
    ∃ d fl outs, writeDst x dst ot r rf = { x with d := d, fl := fl, outs := outs } := by
  unfold writeDst
  split
  · exact ⟨_, _, _, rfl⟩
  · split <;> exact ⟨_, _, _, rfl⟩

theorem writePu_frame (x : Elem) (pu : BitVec 4) (ps : BitVec 2) (cond : Bool) : ∃ p, writePu x pu ps cond = { x with p := p } := by
  unfold writePu
  split <;> exact ⟨_, rfl⟩

theorem bits_lt {n : Nat} (w : BitVec n) (hi lo : Nat) : bits w hi lo < 2 ^ (hi - lo + 1) := Nat.mod_lt _ (by positivity)

theorem writePu_bit (x : Elem) (pu : BitVec 4) (ps : BitVec 2) (cond : Bool) {n : Nat} (hn : n < 8) :
    bit (writePu x pu ps cond).p n = if bit pu 3 = true ∧ bits pu 2 0 = n then psValue ps cond else bit x.p n := by
  unfold writePu
  split
  next h => rw [Elem.bit_setP x (bits_lt pu 2 0) hn]; simp [h]
  next h => simp [h]

/-! ## The write-back -/

/-- The element after a write-back, before the release of a token on a boundary route. -/
def writtenElem (y : Elem) (slot beat : Nat) (k : Sink) (r : Res) : Elem :=
  let z := writePu (writeDst y k.dst k.ot r.r r.rf) k.pu k.ps r.cond
  { z with dp := nextDp z slot beat }

theorem writtenElem_frame (y : Elem) (slot beat : Nat) (k : Sink) (r : Res) :
    ∃ d fl outs p, writtenElem y slot beat k r = { y with d := d, fl := fl, outs := outs, p := p, dp := nextDp y slot beat } := by
  unfold writtenElem
  obtain ⟨d, fl, outs, hd⟩ := writeDst_frame y k.dst k.ot r.r r.rf
  obtain ⟨p, hp⟩ := writePu_frame (writeDst y k.dst k.ot r.r r.rf) k.pu k.ps r.cond
  rw [hp, hd]
  exact ⟨d, fl, outs, p, rfl⟩

theorem written_eq (t : State) (e : ERef) (slot beat : Nat) (k : Sink) (r : Res) :
    written t e slot beat k r = outRelease (t.setElem e (writtenElem (t.elem e) slot beat k r)) e k.dst := rfl

/-- Of the part a write-back changes the element and what its region has released. -/
theorem written_state (t : State) (e : ERef) (slot beat : Nat) (k : Sink) (r : Res) :
    ∃ num elems, written t e slot beat k r = { t with num := num, elems := elems } := by
  rw [written_eq]
  obtain ⟨num, elems, h⟩ := (outRelease_spec (t.setElem e (writtenElem (t.elem e) slot beat k r)) e k.dst).1.state
  exact ⟨num, elems, h⟩

theorem written_elem (t : State) (e : ERef) (slot beat : Nat) (k : Sink) (r : Res) :
    ∃ outs, (written t e slot beat k r).elem e = { writtenElem (t.elem e) slot beat k r with outs := outs } := by
  rw [written_eq]
  obtain ⟨outs, h⟩ := (outRelease_spec (t.setElem e (writtenElem (t.elem e) slot beat k r)) e k.dst).1.elem
  exact ⟨outs, by rw [h, State.elem_setElem_self]⟩

theorem written_elem_ne (t : State) {e a : ERef} (slot beat : Nat) (k : Sink) (r : Res) (h : a ≠ e) :
    (written t e slot beat k r).elem a = t.elem a := by
  rw [written_eq, (outRelease_spec _ e k.dst).2.2 a h, State.elem_setElem, if_neg h.symm]

theorem written_regs (t : State) (e : ERef) (slot beat : Nat) (k : Sink) (r : Res) (n : Nat) :
    (((written t e slot beat k r).elem e).dreg n, ((written t e slot beat k r).elem e).dflag n) =
      if some n = dstReg k.dst then (r.r, r.rf) else ((t.elem e).dreg n, (t.elem e).dflag n) := by
  obtain ⟨outs, h⟩ := written_elem t e slot beat k r
  obtain ⟨p, hp⟩ := writePu_frame (writeDst (t.elem e) k.dst k.ot r.r r.rf) k.pu k.ps r.cond
  rw [h, writtenElem, hp]
  exact writeDst_regs ..

theorem written_out (t : State) (e : ERef) (slot beat : Nat) (k : Sink) (r : Res) (c : Nat) :
    (((written t e slot beat k r).elem e).out c).map Token.shown =
      ((t.elem e).out c).map Token.shown ++ if outChan k.dst = some c then [(r.r, k.ot, r.rf)] else [] := by
  rw [written_eq, (outRelease_spec _ e k.dst).2.1 c, State.elem_setElem_self]
  obtain ⟨p, hp⟩ := writePu_frame (writeDst (t.elem e) k.dst k.ot r.r r.rf) k.pu k.ps r.cond
  rw [writtenElem, hp]
  show List.map _ ((writeDst (t.elem e) k.dst k.ot r.r r.rf).out c) = _
  rw [writeDst_out, List.map_append, apply_ite (List.map Token.shown)]
  rfl

theorem written_pred (t : State) (e : ERef) (slot beat : Nat) (k : Sink) (r : Res) {n : Nat} (hn : n < 8) :
    bit ((written t e slot beat k r).elem e).p n =
      if bit k.pu 3 = true ∧ bits k.pu 2 0 = n then psValue k.ps r.cond else bit (t.elem e).p n := by
  obtain ⟨outs, h⟩ := written_elem t e slot beat k r
  obtain ⟨_, _, _, hd⟩ := writeDst_frame (t.elem e) k.dst k.ot r.r r.rf
  rw [h, writtenElem]
  show bit (writePu (writeDst (t.elem e) k.dst k.ot r.r r.rf) k.pu k.ps r.cond).p n = _
  rw [writePu_bit _ _ _ _ hn, hd]

theorem written_dp (t : State) (e : ERef) (slot beat : Nat) (k : Sink) (r : Res) :
    ((written t e slot beat k r).elem e).dp = nextDp (t.elem e) slot beat := by
  obtain ⟨outs, h⟩ := written_elem t e slot beat k r
  obtain ⟨_, _, _, _, hf⟩ := writtenElem_frame (t.elem e) slot beat k r
  rw [h, hf]

theorem SameMemory.of_eq {s t : State} (hm : t.mem = s.mem) (hs : t.stores = s.stores) : SameMemory s t := fun a k => by rw [hm, hs]

theorem written_sameMemory (t : State) (e : ERef) (slot beat : Nat) (k : Sink) (r : Res) :
    SameMemory t (written t e slot beat k r) := by
  obtain ⟨_, _, h⟩ := written_state t e slot beat k r
  exact .of_eq (by rw [h]) (by rw [h])

/-- Settles O7: each part of a write-back by its lemma, none of which the release of a token on a boundary route touches. -/
theorem writeBackRule : Obligations.WriteBackRule := by
  refine ⟨fun t e slot beat k r => ⟨rfl, written_regs t e slot beat k r, written_out t e slot beat k r,
    fun n hn => written_pred t e slot beat k r hn, written_dp t e slot beat k r,
    fun a => ⟨written_sameMemory t e slot beat k r, fun ha => written_elem_ne t slot beat k r ha⟩⟩, fun t e slot beat k r => ?_⟩
  rw [written_dp, nextDp]

end Sys2Proof.Machine
end

section
/-! SUPPORT. The integer results as functions of what was read: arithmetic, logic, shifts, compares, bit fields and counts
(spec/09_instr_scalar_vector.md R146 to R152): Obligations.IntegerResults. -/

namespace Sys2Proof.Machine

/-! ## Instructions of the datapath that complete (R40, R146) -/

theorem written_of_runA {s : State} {f : FmtA} {src : Src} {popped : List (Nat × Token)} {x : Elem} (h : ReadsA s f src popped x)
    {i : Instr} {g : Src → Res} (hi : exec i s = runA f s g) :
    exec i s = .next (written (taken s x) s.cur s.curSlot s.curBeat (sinkA f) (g src)) :=
  hi.trans (runA_reads g h)

/-- No command that waits releases its region: what completes in its beat is written back as it stands. -/
theorem concluded_of_not_waiting {i : Instr} (hw : isWaitingCommand i = false) (s t : State) (k : Sink) (r : Res) :
    concluded s i t k r = written t s.cur s.curSlot s.curBeat k r := by
  simp [concluded, commandRelease, hw]

section
variable {s : State} {f : FmtA} {src : Src} {popped : List (Nat × Token)} {x : Elem} (h : ReadsA s f src popped x)
include h

theorem gives_of_runA {i : Instr} (g : Src → Res) (hi : exec i s = runA f s g) (hw : isWaitingCommand i = false) :
    Gives s i (taken s x) (sinkA f) (g src) := by
  rw [Gives, concluded_of_not_waiting hw]
  exact written_of_runA h hi

theorem yields_of_runA {i : Instr} (g : Src → Res) (hi : exec i s = runA f s g) (hw : isWaitingCommand i = false) {p : Res → Prop}
    (hp : p (g src)) : Yields s i (taken s x) (sinkA f) p :=
  ⟨g src, gives_of_runA h g hi hw, hp⟩

end

/-! ## Arithmetic (R149) -/

@[simp] theorem toNat_wd (n : Nat) : (wd n).toNat = n % 2 ^ 32 := BitVec.toNat_ofNat ..

theorem toInt_mem (a : Word) : -2147483648 ≤ a.toInt ∧ a.toInt ≤ 2147483647 := by
  have hlo := BitVec.le_toInt a
  have hhi := BitVec.toInt_lt (x := a)
  norm_num at hlo hhi
  omega

theorem toInt_ofInt_of_mem {v : Int} (hlo : -2147483648 ≤ v) (hhi : v ≤ 2147483647) : (BitVec.ofInt 32 v).toInt = v := by
  rw [BitVec.toInt_ofInt]
  exact Int.bmod_eq_of_le (by norm_num; omega) (by norm_num; omega)

/-- The high word of a signed product is its floor (R149). -/
theorem mulh_bounds (a b : Word) : let r := (BitVec.ofInt 32 (Int.fdiv (sx a * sx b) (2 ^ 32))).toInt
    r * 2 ^ 32 ≤ a.toInt * b.toInt ∧ a.toInt * b.toInt < (r + 1) * 2 ^ 32 := by
  have hprod : |a.toInt * b.toInt| ≤ 2147483648 * 2147483648 := by
    rw [abs_mul]
    obtain ⟨ha, ha'⟩ := toInt_mem a
    obtain ⟨hb, hb'⟩ := toInt_mem b
    exact mul_le_mul (abs_le.mpr ⟨ha, by omega⟩) (abs_le.mpr ⟨hb, by omega⟩) (abs_nonneg _) (by norm_num)
  obtain ⟨hlo, hhi⟩ := abs_le.mp hprod
  rw [sx, sx, Int.fdiv_eq_ediv_of_nonneg _ (by norm_num)]
  generalize a.toInt * b.toInt = p at *
  rw [toInt_ofInt_of_mem (by omega) (by omega)]
  dsimp only
  omega

theorem sub_add_toNat (a b : Word) : ((a - b).toNat + b.toNat) % 2 ^ 32 = a.toNat := by
  rw [← BitVec.toNat_add, BitVec.sub_add_cancel]

theorem toNat_mulhu (a b : Word) : (wd (a.toNat * b.toNat / 2 ^ 32)).toNat = a.toNat * b.toNat / 2 ^ 32 := by
  rw [toNat_wd]
  exact Nat.mod_eq_of_lt (Nat.div_lt_of_lt_mul (Nat.mul_lt_mul'' a.isLt b.isLt))

theorem toInt_min (a b : Word) : (if sx a ≤ sx b then a else b).toInt = min a.toInt b.toInt := by
  rw [min_def, apply_ite BitVec.toInt]; rfl

theorem toInt_max (a b : Word) : (if sx a ≤ sx b then b else a).toInt = max a.toInt b.toInt := by
  rw [max_def, apply_ite BitVec.toInt]; rfl

theorem toNat_min (a b : Word) : (if a.toNat ≤ b.toNat then a else b).toNat = min a.toNat b.toNat := by
  rw [min_def, apply_ite BitVec.toNat]

theorem toNat_max (a b : Word) : (if a.toNat ≤ b.toNat then b else a).toNat = max a.toNat b.toNat := by
  rw [max_def, apply_ite BitVec.toNat]

theorem excd_sat32 (x : Src) (v : Int) : let r := x.excd (sat32 v)
    r.r.toInt = max (-2147483648) (min 2147483647 v) ∧ r.cond = decide (r.r.toInt ≠ v) ∧ r.rf = ((x.fa || x.fb) || r.cond) :=
  ⟨(sat32_spec v).1, (sat32_spec v).2, rfl⟩

theorem plain_flag (x : Src) (r : Word) : (x.plain r).rf = (x.fa || x.fb) := Bool.or_false _

/-! ## Bits (R150, R152) -/

theorem bit_of_ge {n : Nat} (w : BitVec n) {k : Nat} (h : n ≤ k) : bit w k = false := BitVec.getLsbD_of_ge w k h

theorem bit_wd_testBit (n k : Nat) : bit (wd n) k = (decide (k < 32) && n.testBit k) := BitVec.getLsbD_ofNat ..

theorem bit_shl (a b : Word) {k : Nat} (hk : k < 32) :
    bit (if b.toNat < 32 then a <<< b.toNat else 0) k = (decide (b.toNat ≤ k) && bit a (k - b.toNat)) := by
  split
  next h => rw [bit, BitVec.getLsbD_shiftLeft, decide_eq_true hk]; rw [Bool.true_and, ← decide_not, decide_eq_decide.mpr Nat.not_lt]; rfl
  next h => simp [bit, show ¬ b.toNat ≤ k by omega]

theorem bit_shr (a b : Word) (k : Nat) : bit (if b.toNat < 32 then a >>> b.toNat else 0) k = bit a (k + b.toNat) := by
  split
  next h => rw [bit, BitVec.getLsbD_ushiftRight, Nat.add_comm]; rfl
  next h => rw [bit_of_ge a (show 32 ≤ k + b.toNat by omega)]; simp [bit]

theorem bit_sra (a b : Word) {k : Nat} (hk : k < 32) :
    bit (if b.toNat < 32 then a.sshiftRight b.toNat else if bit a 31 then 0xFFFFFFFF else 0) k =
      if k + b.toNat < 32 then bit a (k + b.toNat) else bit a 31 := by
  split
  next h =>
    rw [bit, BitVec.getLsbD_sshiftRight, decide_eq_false (by omega : ¬ 32 ≤ k), Nat.add_comm]
    simp [bit, BitVec.msb_eq_getLsbD_last]
  next h =>
    rw [if_neg (show ¬ k + b.toNat < 32 by omega)]
    cases bit a 31
    · simp [bit]
    · rw [if_pos rfl, bit, show (0xFFFFFFFF : Word) = BitVec.allOnes 32 from rfl, BitVec.getLsbD_allOnes, decide_eq_true hk]

/-- A run of ones from a bit upward. -/
theorem testBit_mask (w off k : Nat) : ((2 ^ w - 1) * 2 ^ off).testBit k = decide (off ≤ k ∧ k < off + w) := by
  rw [Nat.testBit_mul_two_pow, Nat.testBit_two_pow_sub_one]
  by_cases h : off ≤ k <;> simp [h]; omega

/-- bfx: the field cut at bit 31 (R152). -/
theorem bit_bfx (a b : Word) {k : Nat} (hk : k < 32) :
    bit (if bfWidth b = 0 then 0 else (a >>> bfOff b) &&& wd (2 ^ bfWidth b - 1)) k =
      (decide (k < bits b 13 8 ∧ k + bits b 4 0 < 32) && bit a (k + bits b 4 0)) := by
  have hwidth : k < bfWidth b ↔ k < bits b 13 8 ∧ k + bits b 4 0 < 32 := by rw [bfWidth, bfOff]; omega
  rw [decide_eq_decide.mpr hwidth.symm]
  split
  next h => simp [h, bit]
  next h =>
    rw [bit, BitVec.getLsbD_and, BitVec.getLsbD_ushiftRight, bfOff, Nat.add_comm, Bool.and_comm]
    congr 1
    rw [← bit, bit_wd_testBit, decide_eq_true hk, Nat.testBit_two_pow_sub_one, Bool.true_and]

/-- bfi: the field's bits put in place, all other bits as they were (R152). -/
theorem bit_bfi (a b d : Word) {k : Nat} (hk : k < 32) :
    bit (if bfWidth b = 0 then d else (d &&& ~~~(bfMask b)) ||| ((a <<< bfOff b) &&& bfMask b)) k =
      if bits b 4 0 ≤ k ∧ k < bits b 4 0 + bits b 13 8 then bit a (k - bits b 4 0) else bit d k := by
  have hmask : bit (bfMask b) k = decide (bits b 4 0 ≤ k ∧ k < bits b 4 0 + bits b 13 8) := by
    rw [bfMask, bit_wd_testBit, decide_eq_true hk, testBit_mask, Bool.true_and, decide_eq_decide, bfWidth, bfOff]
    omega
  split
  next h =>
    have hoff := bits_lt b 4 0
    rw [bfWidth, bfOff] at h
    rw [if_neg (by omega)]
  next h =>
    rw [bit] at hmask
    rw [bit, BitVec.getLsbD_or, BitVec.getLsbD_and, BitVec.getLsbD_and, BitVec.getLsbD_not, hmask, BitVec.getLsbD_shiftLeft,
      decide_eq_true hk, bfOff]
    split
    next hin => simp [hin, Nat.not_lt.mpr hin.1, bit]
    next hin => simp [hin, bit]

/-! ## Counts (R149) -/

/-- The zeros before the first one from the top, below bit k. -/
theorem clzGo_spec (a : Word) (k n : Nat) : ∃ m, clzGo a k n = n + m ∧ m ≤ k ∧ (∀ j, j < m → bit a (k - 1 - j) = false) ∧
    (m < k → bit a (k - 1 - m) = true) := by
  induction k generalizing n with
  | zero => exact ⟨0, rfl, le_rfl, by simp, by simp⟩
  | succ k ih =>
    unfold clzGo
    split
    next h => exact ⟨0, rfl, by omega, by simp, fun _ => by simpa using h⟩
    next h =>
      obtain ⟨m, hm, hle, hz, ho⟩ := ih (n + 1)
      refine ⟨m + 1, by omega, by omega, fun j hj => ?_, fun hlt => ?_⟩
      · cases j with
        | zero => simpa using h
        | succ j => rw [show k + 1 - 1 - (j + 1) = k - 1 - j by omega]; exact hz j (by omega)
      · rw [show k + 1 - 1 - (m + 1) = k - 1 - m by omega]; exact ho (by omega)

/-- The zeros before the first one from bit n, of k bits. -/
theorem ctzGo_spec (a : Word) (k n : Nat) : ∃ m, ctzGo a k n = n + m ∧ m ≤ k ∧ (∀ j, j < m → bit a (n + j) = false) ∧
    (m < k → bit a (n + m) = true) := by
  induction k generalizing n with
  | zero => exact ⟨0, rfl, le_rfl, by simp, by simp⟩
  | succ k ih =>
    unfold ctzGo
    split
    next h => exact ⟨0, rfl, by omega, by simp, fun _ => by simpa using h⟩
    next h =>
      obtain ⟨m, hm, hle, hz, ho⟩ := ih (n + 1)
      refine ⟨m + 1, by omega, by omega, fun j hj => ?_, fun hlt => ?_⟩
      · cases j with
        | zero => simpa using h
        | succ j => rw [show n + (j + 1) = n + 1 + j by omega]; exact hz j (by omega)
      · rw [show n + (m + 1) = n + 1 + m by omega]; exact ho (by omega)

theorem popGo_eq (a : Word) (k : Nat) : popGo a k = ((List.range k).filter (fun j => bit a j)).length := by
  induction k with
  | zero => rfl
  | succ k ih =>
    rw [popGo, ih, List.range_succ, List.filter_append, List.length_append]
    cases h : bit a k <;> simp [h, Nat.add_comm]

theorem toNat_wd_of_le {n : Nat} (h : n ≤ 32) : (wd n).toNat = n := by
  rw [toNat_wd]; exact Nat.mod_eq_of_lt (by omega)

/-! ## The statement -/

theorem cmp_spec (x : Src) {c : Bool} {p : Prop} (h : c = true ↔ p) : let r := x.cmp c
    (p → r.r = 1 ∧ r.cond = true) ∧ (¬ p → r.r = 0 ∧ r.cond = false) ∧ r.rf = (x.fa || x.fb) := by
  refine ⟨fun hp => ?_, fun hp => ?_, Bool.or_false _⟩
  · rw [h.mpr hp]; exact ⟨rfl, rfl⟩
  · rw [Bool.eq_false_iff.mpr fun hc => hp (h.mp hc)]; exact ⟨rfl, rfl⟩

/-- Settles O10: each instruction runs its result's function, and each function is what its lemma says. -/
theorem integerResults : Obligations.IntegerResults := by
  refine ⟨fun s f src popped x h => ?_, fun s f src popped x h => ?_, fun s f src popped x h => ?_, fun s f src popped x h => ?_⟩
  · intro a b fr plain sat
    have hsat {i : Instr} (g : Src → Res) (v : Int) (hi : exec i s = runA f s g) (hw : isWaitingCommand i = false)
        (hg : g src = src.excd (sat32 v)) : sat i v :=
      yields_of_runA h g hi hw (by rw [hg]; exact excd_sat32 ..)
    refine ⟨yields_of_runA h rAdd rfl rfl ⟨BitVec.toNat_add .., plain_flag ..⟩, yields_of_runA h rSub rfl rfl ⟨sub_add_toNat .., plain_flag ..⟩,
      yields_of_runA h rMul rfl rfl ⟨BitVec.toNat_mul .., plain_flag ..⟩, yields_of_runA h rMulh rfl rfl ⟨mulh_bounds .., plain_flag ..⟩,
      yields_of_runA h rMulhu rfl rfl ⟨toNat_mulhu .., plain_flag ..⟩, yields_of_runA h rMin rfl rfl ⟨toInt_min .., plain_flag ..⟩,
      yields_of_runA h rMax rfl rfl ⟨toInt_max .., plain_flag ..⟩, yields_of_runA h rMinu rfl rfl ⟨toNat_min .., plain_flag ..⟩,
      yields_of_runA h rMaxu rfl rfl ⟨toNat_max .., plain_flag ..⟩,
      hsat rAdds _ rfl rfl rfl, hsat rSubs _ rfl rfl rfl, hsat rAbs _ rfl rfl ?_⟩
    rw [← Int.natCast_natAbs]
    rfl
  · intro a b bitwise
    have hbits {i : Instr} {p : Nat → Bool} (g : Src → Res) (hi : exec i s = runA f s g) (hw : isWaitingCommand i = false)
        (hg : g src = src.plain (g src).r) (hp : ∀ k, k < 32 → bit (g src).r k = p k) : bitwise i p :=
      yields_of_runA h g hi hw ⟨hp, by rw [hg]; exact plain_flag ..⟩
    refine ⟨hbits rOr rfl rfl rfl fun k _ => BitVec.getLsbD_or, hbits rAnd rfl rfl rfl fun k _ => BitVec.getLsbD_and,
      hbits rXor rfl rfl rfl fun k _ => BitVec.getLsbD_xor, hbits rAndn rfl rfl rfl fun k hk => ?_,
      hbits rShl rfl rfl rfl fun k hk => bit_shl a b hk, hbits rShr rfl rfl rfl fun k _ => bit_shr a b k,
      hbits rSra rfl rfl rfl fun k hk => bit_sra a b hk⟩
    show BitVec.getLsbD (a &&& ~~~b) k = _
    rw [BitVec.getLsbD_and, BitVec.getLsbD_not, decide_eq_true hk, Bool.true_and]
    rfl
  · intro a b cmp
    have hcmp {i : Instr} {c : Prop} (g : Src → Bool) (hi : exec i s = runA f s fun y => y.cmp (g y))
        (hw : isWaitingCommand i = false) (hc : g src = true ↔ c) : cmp i c :=
      yields_of_runA h _ hi hw (cmp_spec src hc)
    refine ⟨hcmp (fun y => y.a == y.b) rfl rfl beq_iff_eq, hcmp (fun y => y.a != y.b) rfl rfl bne_iff_ne,
      hcmp (fun y => decide (sx y.a < sx y.b)) rfl rfl decide_eq_true_iff,
      hcmp (fun y => decide (sx y.a ≤ sx y.b)) rfl rfl decide_eq_true_iff,
      hcmp (fun y => decide (y.a.toNat < y.b.toNat)) rfl rfl decide_eq_true_iff,
      hcmp (fun y => decide (y.a.toNat ≤ y.b.toNat)) rfl rfl decide_eq_true_iff,
      yields_of_runA h rSel rfl rfl ⟨fun hd => ?_, fun hd => ?_⟩⟩
    · rw [rSel, if_pos hd]; exact ⟨rfl, rfl⟩
    · rw [rSel, if_neg (not_not.mpr hd)]; exact ⟨rfl, rfl⟩
  · intro a off w y
    refine ⟨yields_of_runA h rBfx rfl rfl ⟨fun k hk => bit_bfx a src.b hk, plain_flag ..⟩,
      yields_of_runA h rBfi rfl rfl ⟨fun k hk => bit_bfi a src.b src.d hk, Bool.or_false _⟩,
      yields_of_runA h rClz rfl rfl ?_, yields_of_runA h rCtz rfl rfl ?_, yields_of_runA h rPopc rfl rfl ?_⟩
    · obtain ⟨m, hm, hle, hz, ho⟩ := clzGo_spec a 32 0
      have hr : (rClz src).r.toNat = m := by
        show (wd (clzGo a 32 0)).toNat = m
        rw [hm, Nat.zero_add, toNat_wd_of_le hle]
      rw [hr]
      exact ⟨hle, hz, ho⟩
    · obtain ⟨m, hm, hle, hz, ho⟩ := ctzGo_spec a 32 0
      have hr : (rCtz src).r.toNat = m := by
        show (wd (ctzGo a 32 0)).toNat = m
        rw [hm, Nat.zero_add, toNat_wd_of_le hle]
      rw [hr]
      simp only [Nat.zero_add] at hz ho
      exact ⟨hle, hz, ho⟩
    · show (wd (popGo a 32)).toNat = _
      rw [popGo_eq, toNat_wd_of_le]
      exact (List.length_filter_le ..).trans_eq List.length_range

end Sys2Proof.Machine
end

section
/-! SUPPORT. Rounding once of exact sums and products, and the order of values (spec/05_number_formats.md R71 to R75,
spec/09_instr_scalar_vector.md R156, R157). -/

namespace Sys2Proof.Machine

/-! ## Rounding once (R71, R72) -/

namespace FFmt

variable {f : FFmt}

theorem mag_zero (f : FFmt) : f.mag 0 = 0 := by simp [mag, sig]

theorem nearestCode_zero (f : FFmt) : f.NearestCode 0 0 := by
  intro w d _
  rw [mag_zero, sub_zero, abs_zero, zero_sub, abs_neg]
  exact ⟨abs_nonneg w, fun heq hne => absurd (abs_eq_zero.mp heq.symm) hne⟩

/-- The code that a nearest one gives under a sign, and the event where it is above the largest finite one: what the value rounds to. -/
theorem NearestCode.roundsTo (hf : f ∈ formats) (hinf : f.hasInf = true) {q : ℚ} {neg : Bool} {c : ℕ} (h : f.NearestCode |q| c)
    (hneg : q ≠ 0 → neg = decide (q < 0)) :
    RoundsTo f neg q (if f.maxFin < c then f.withSign neg f.infCode else f.withSign neg c) (decide (f.maxFin < c)) := by
  have hreg := regular_of_mem hf
  have hne : f ≠ e4m3 := by simpa [hinf] using hasInf_of_mem hf
  refine ⟨?_, fun hexc => if_pos (decide_eq_true_iff.mp hexc), fun hexc => ?_⟩
  · rw [decide_eq_true_iff, h.maxFin_lt_iff hf, if_neg hne, mag_maxFin_add_half hreg]
    exact mul_le_mul_iff_right₀ two_pos
  · have hlt := decide_eq_false_iff_not.mp hexc
    obtain ⟨m, e, hd, -, hmag⟩ := decode_withSign hreg neg (not_lt.mp hlt)
    have hq : (if neg then -1 else 1) * |q| = q := by
      rcases eq_or_ne q 0 with rfl | hq0
      · simp
      · rw [hneg hq0]
        rcases lt_or_ge q 0 with hlt | hge
        · simp [hlt, abs_of_neg hlt]
        · simp [hge.not_gt, abs_of_nonneg hge]
    rw [if_neg hlt, hd, FVal.q_fin, hmag, withSign_mod_two hreg]
    refine ⟨rfl, rfl, fun k _ hk => ?_⟩
    have hs := h.signed neg (abs_q_decode hreg hk)
    dsimp only at hs
    rwa [hq] at hs

theorem withSign_lt (s : Bool) {c : ℕ} (hc : c < f.signBit) : f.withSign s c < 2 * f.signBit := by
  cases s <;> simp only [withSign, Bool.false_eq_true, if_false, if_true] <;> omega

theorem codes_lt_signBit (hf : f ∈ formats) : f.maxFin < f.signBit ∧ f.infCode < f.signBit ∧ f.nanCode < f.signBit := by
  simp only [formats, List.mem_cons, List.not_mem_nil, or_false] at hf
  rcases hf with rfl | rfl | rfl | rfl | rfl <;> decide

/-- A rounded code fits the format. -/
theorem round_lt (hf : f ∈ formats) (sat sg : Bool) (v : FVal) : (f.round sat sg v).1 < 2 * f.signBit := by
  obtain ⟨hmax, hinf, hnan⟩ := codes_lt_signBit hf
  have hnan' : f.nanCode < 2 * f.signBit := by omega
  cases v with
  | nan => exact hnan'
  | inf s =>
    dsimp only [round]
    split
    · exact withSign_lt s hmax
    · split
      · exact withSign_lt s hinf
      · exact hnan'
  | fin s m e =>
    dsimp only [round]
    split
    · split
      · exact withSign_lt s (by omega)
      · show 0 < _
        omega
    · rw [roundMag_eq]
      split
      next hle => exact withSign_lt s (by omega)
      next =>
        split
        · exact withSign_lt s hmax
        · split
          · exact withSign_lt s hinf
          · exact hnan'

/-- A nonzero value rounds to its unlimited code under its sign, or past the limit to the infinity, with the event. -/
theorem round_eq (hinf : f.hasInf = true) (sg s : Bool) {m : ℕ} (hm : 0 < m) (e : ℤ) : f.round false sg (.fin s m e) =
    (if f.maxFin < f.unlimitedCode m e then f.withSign s f.infCode else f.withSign s (f.unlimitedCode m e),
      decide (f.maxFin < f.unlimitedCode m e)) := by
  obtain ⟨hover, hcode, hsat⟩ := f.round_fin false sg s e hm
  refine Prod.ext ?_ (by rw [Bool.eq_iff_iff, decide_eq_true_iff]; exact hover)
  dsimp only
  split
  next hlt => rw [hsat (hover.mpr hlt), if_neg (by simp), if_pos hinf]
  next hle => exact hcode (Bool.eq_false_iff.mpr fun hr => hle (hover.mp hr))

/-- A finite value rounds once; a zero keeps its sign where the rounding is a signed one. -/
theorem round_roundsTo (hf : f ∈ formats) (hinf : f.hasInf = true) {sg s : Bool} {m : ℕ} (e : ℤ) (h : m ≠ 0 ∨ sg = true ∨ s = false) :
    RoundsTo f s (FVal.fin s m e).q (f.round false sg (.fin s m e)).1 (f.round false sg (.fin s m e)).2 := by
  rcases Nat.eq_zero_or_pos m with rfl | hm
  · have hq : (FVal.fin s 0 e).q = 0 := by rw [FVal.q_fin, Nat.cast_zero, zero_mul, mul_zero]
    have hround : f.round false sg (.fin s 0 e) = (f.withSign s 0, false) := by
      rcases h.resolve_left (by simp) with rfl | rfl
      · rfl
      · cases sg <;> rfl
    have hz := (show f.NearestCode |(0 : ℚ)| 0 by rw [abs_zero]; exact f.nearestCode_zero).roundsTo hf hinf (neg := s) (by simp)
    rw [hround, hq]
    simpa using hz
  · have hnear := f.nearestCode_unlimitedCode hm e (regular_of_mem hf).mb_pos
    rw [← FVal.abs_q_fin s] at hnear
    rw [round_eq hinf sg s hm]
    refine hnear.roundsTo hf hinf fun _ => ?_
    have : (0 : ℚ) < m * 2 ^ e := by positivity
    rw [FVal.q_fin]
    cases s <;> simp [this, this.le]

end FFmt

/-! ## Exact sums and products (R75, R157) -/

namespace FVal

/-- A significand on a finer grid has the same value. -/
theorem q_onGrid (s : Bool) (m : ℕ) {e g : ℤ} (h : g ≤ e) :
    (toInt s (m * 2 ^ (e - g).toNat) : ℚ) * 2 ^ g = (fin s m e).q := by
  obtain ⟨n, hn⟩ : ∃ n : ℕ, e - g = n := Int.eq_ofNat_of_zero_le (sub_nonneg.mpr h)
  obtain rfl : e = g + n := by omega
  rw [q_fin, add_sub_cancel_left, Int.toNat_natCast, zpow_add₀ two_ne_zero, zpow_natCast]
  cases s <;> simp only [toInt, Bool.false_eq_true, if_false, if_true] <;> push_cast <;> ring

/-- The grid of the finer of two exponents holds the integers of both. -/
def gridOf (s : Bool) (m : ℕ) (e d : ℤ) : ℤ := toInt s (m * 2 ^ (e - min e d).toNat)

theorem q_sum_onGrid (s t : Bool) (m n : ℕ) (e d : ℤ) :
    ((toInt s (m * 2 ^ (e - min e d).toNat) + toInt t (n * 2 ^ (d - min e d).toNat) : ℤ) : ℚ) * 2 ^ min e d =
      (fin s m e).q + (fin t n d).q := by
  rw [Int.cast_add, add_mul, q_onGrid s m (min_le_left e d), q_onGrid t n (min_le_right e d)]

theorem q_diff_onGrid (s t : Bool) (m n : ℕ) (e d : ℤ) :
    ((toInt s (m * 2 ^ (e - min e d).toNat) - toInt t (n * 2 ^ (d - min e d).toNat) : ℤ) : ℚ) * 2 ^ min e d =
      (fin s m e).q - (fin t n d).q := by
  rw [Int.cast_sub, sub_mul, q_onGrid s m (min_le_left e d), q_onGrid t n (min_le_right e d)]

/-- An integer of units has the sign of its value. -/
theorem units_sign {x g : ℤ} {q : ℚ} (h : (x : ℚ) * 2 ^ g = q) : (x = 0 ↔ q = 0) ∧ (x < 0 ↔ q < 0) := by
  have hpos : (0 : ℚ) < 2 ^ g := by positivity
  subst h
  refine ⟨?_, ?_⟩
  · rw [mul_eq_zero, or_iff_left hpos.ne', Int.cast_eq_zero]
  · rw [mul_neg_iff]
    simp [hpos, hpos.le.not_gt]

/-- The exact sum of two finite values; a zero sum is negative only where both are (R157). -/
theorem add_fin (s t : Bool) (m n : ℕ) (e d : ℤ) : let q := (fin s m e).q + (fin t n d).q
    ∃ k g, add (fin s m e) (fin t n d) = fin (if q = 0 then s && t else decide (q < 0)) k g ∧
      (fin (if q = 0 then s && t else decide (q < 0)) k g).q = q := by
  intro q
  have hq := q_sum_onGrid s t m n e d
  obtain ⟨hzero, hneg⟩ := units_sign hq
  unfold add
  dsimp only
  split
  next h =>
    refine ⟨0, min e d, by rw [if_pos (hzero.mp h)], ?_⟩
    rw [q_fin, Nat.cast_zero, zero_mul, mul_zero]
    exact (hzero.mp h).symm
  next h =>
    have hq0 : ¬ q = 0 := fun h0 => h (hzero.mpr h0)
    rw [if_neg hq0, ← decide_eq_decide.mpr hneg]
    exact ⟨_, _, rfl, (q_ofUnits _ _).trans hq⟩

/-- The exact product of two finite values (R75). -/
theorem mul_fin (s t : Bool) (m n : ℕ) (e d : ℤ) :
    mul (fin s m e) (fin t n d) = fin (s != t) (m * n) (e + d) ∧
      (fin (s != t) (m * n) (e + d)).q = (fin s m e).q * (fin t n d).q := by
  refine ⟨rfl, ?_⟩
  rw [q_fin, q_fin, q_fin, zpow_add₀ two_ne_zero]
  cases s <;> cases t <;> simp <;> ring

theorem isFin_iff {v : FVal} : v.isFin = true ↔ ∃ s m e, v = fin s m e := by
  cases v <;> simp [isFin]

theorem mul_eq_nan_iff (x y : FVal) : mul x y = nan ↔ NoProduct x y := by
  cases x <;> cases y <;> simp [mul, NoProduct, isZero]

theorem mul_eq_inf_iff (x y : FVal) (g : Bool) : mul x y = inf g ↔ InfProduct x y g := by
  cases x with
  | nan => simp [mul, InfProduct, NoProduct]
  | inf s =>
    cases y with
    | nan => simp [mul, InfProduct, NoProduct]
    | inf t => simp [mul, InfProduct, NoProduct, isZero, isFin, sign, eq_comm (a := g)]
    | fin t n d => by_cases hn : n = 0 <;> simp [mul, InfProduct, NoProduct, isZero, isFin, sign, hn, eq_comm (a := g)]
  | fin s m e =>
    cases y with
    | nan => simp [mul, InfProduct, NoProduct]
    | inf t => by_cases hm : m = 0 <;> simp [mul, InfProduct, NoProduct, isZero, isFin, sign, hm, eq_comm (a := g)]
    | fin t n d => simp [mul, InfProduct, isFin]

theorem add_eq_nan {x y : FVal} (h : x = nan ∨ y = nan ∨ ∃ g, x = inf g ∧ y = inf (!g)) : add x y = nan := by
  rcases h with rfl | rfl | ⟨g, rfl, rfl⟩
  · rfl
  · cases x <;> rfl
  · cases g <;> rfl

theorem add_eq_inf {x y : FVal} {g : Bool} (h : (x = inf g ∧ y ≠ nan ∧ y ≠ inf (!g)) ∨ (y = inf g ∧ x ≠ nan ∧ x ≠ inf (!g))) :
    add x y = inf g := by
  rcases h with ⟨rfl, hn, hi⟩ | ⟨rfl, hn, hi⟩
  · cases y with
    | nan => exact absurd rfl hn
    | inf t => cases g <;> cases t <;> simp_all [add]
    | fin => rfl
  · cases x with
    | nan => exact absurd rfl hn
    | inf t => cases g <;> cases t <;> simp_all [add]
    | fin => rfl

end FVal

/-! ## Sums and products rounded once (R157) -/

section
variable {f : FFmt} (hf : f ∈ formats) (hinf : f.hasInf = true)
include hinf

theorem round_inf (sg g : Bool) : f.round false sg (.inf g) = (f.withSign g f.infCode, false) := by
  simp [FFmt.round, hinf]

include hf

theorem sumIs_round (x y : FVal) : SumIs f x y (f.round false true (FVal.add x y)).1 (f.round false true (FVal.add x y)).2 := by
  refine ⟨fun h => ?_, fun g h => ?_, fun hx hy => ?_⟩
  · rw [FVal.add_eq_nan h]; exact ⟨rfl, rfl⟩
  · rw [FVal.add_eq_inf h, round_inf hinf]; exact ⟨rfl, rfl⟩
  · obtain ⟨s, m, e, rfl⟩ := FVal.isFin_iff.mp hx
    obtain ⟨t, n, d, rfl⟩ := FVal.isFin_iff.mp hy
    obtain ⟨k, g, hadd, hq⟩ := FVal.add_fin s t m n e d
    rw [hadd]
    convert FFmt.round_roundsTo hf hinf g (sg := true) (.inr (.inl rfl)) using 1
    · exact hq.symm
    · rfl
    · rfl

theorem productIs_round (x y : FVal) :
    ProductIs f x y (f.round false true (FVal.mul x y)).1 (f.round false true (FVal.mul x y)).2 := by
  refine ⟨fun h => ?_, fun g h => ?_, fun hx hy => ?_⟩
  · rw [(FVal.mul_eq_nan_iff x y).mpr h]; exact ⟨rfl, rfl⟩
  · rw [(FVal.mul_eq_inf_iff x y g).mpr h, round_inf hinf]; exact ⟨rfl, rfl⟩
  · obtain ⟨s, m, e, rfl⟩ := FVal.isFin_iff.mp hx
    obtain ⟨t, n, d, rfl⟩ := FVal.isFin_iff.mp hy
    obtain ⟨hmul, hq⟩ := FVal.mul_fin s t m n e d
    have hround := FFmt.round_roundsTo hf hinf (e + d) (sg := true) (s := (s != t)) (m := m * n) (.inr (.inl rfl))
    rw [hmul]
    rwa [hq] at hround

/-- A sum with an exact product: what the product is, is read off its factors. -/
theorem mulAddIs_round (d x y : FVal) : let v := FVal.add d (FVal.mul x y)
    MulAddIs f d x y (f.round false true v).1 (f.round false true v).2 := by
  obtain ⟨hnan, hinfs, hfin⟩ := sumIs_round hf hinf d (FVal.mul x y)
  simp only [FVal.mul_eq_nan_iff, FVal.mul_eq_inf_iff, ne_eq] at hnan hinfs
  refine ⟨hnan, hinfs, fun hd hx hy => ?_⟩
  obtain ⟨s, m, e, rfl⟩ := FVal.isFin_iff.mp hx
  obtain ⟨t, n, g, rfl⟩ := FVal.isFin_iff.mp hy
  obtain ⟨hmul, hq⟩ := FVal.mul_fin s t m n e g
  rw [hmul] at hfin ⊢
  rw [hq] at hfin
  exact hfin hd rfl

end

/-! ## The order of values (R156) -/

namespace FVal

theorem below_fin (s t : Bool) (m n : ℕ) (e d : ℤ) : (fin s m e).Below (fin t n d) ↔ (fin s m e).q < (fin t n d).q := by
  simp [Below, isFin]

theorem equal_fin (s t : Bool) (m n : ℕ) (e d : ℤ) : (fin s m e).Equal (fin t n d) ↔ (fin s m e).q = (fin t n d).q := by
  simp only [Equal, isFin, true_and]
  exact or_iff_right_of_imp fun h => by rw [h.1]

/-- The order of two values that are no NaN. -/
theorem cmp_spec {x y : FVal} (hx : x ≠ .nan) (hy : y ≠ .nan) :
    (cmp x y = -1 ↔ x.Below y) ∧ (cmp x y = 0 ↔ x.Equal y) ∧ (cmp x y = 1 ↔ y.Below x) := by
  cases x with
  | nan => exact absurd rfl hx
  | inf s =>
    cases y with
    | nan => exact absurd rfl hy
    | inf t => cases s <;> cases t <;> simp [cmp, Below, Equal, isFin]
    | fin t n d => cases s <;> simp [cmp, Below, Equal, isFin]
  | fin s m e =>
    cases y with
    | nan => exact absurd rfl hy
    | inf t => cases t <;> simp [cmp, Below, Equal, isFin]
    | fin t n d =>
      obtain ⟨hzero, hneg⟩ := units_sign (q_diff_onGrid s t m n e d)
      have hzero := hzero.trans sub_eq_zero
      have hneg := hneg.trans sub_neg
      have hpos : (fin t n d).q < (fin s m e).q ↔
          ¬ toInt s (m * 2 ^ (e - min e d).toNat) - toInt t (n * 2 ^ (d - min e d).toNat) ≤ 0 := by
        rw [le_iff_lt_or_eq, hneg, hzero, ← le_iff_lt_or_eq, not_le]
      rw [below_fin, below_fin, equal_fin, hpos, ← hzero, ← hneg]
      dsimp only [cmp]
      generalize toInt s (m * 2 ^ (e - min e d).toNat) - toInt t (n * 2 ^ (d - min e d).toNat) = v
      rcases lt_trichotomy v 0 with h | h | h
      · simp [h, h.le, h.ne]
      · simp [h]
      · simp [h.ne', h.not_gt, h.not_ge]

end FVal

end Sys2Proof.Machine
end

section
/-! SUPPORT. The scalar floating-point and packed instructions (spec/09_instr_scalar_vector.md R156, R157, R159):
Obligations.ScalarFloatResults. -/

namespace Sys2Proof.Machine

/-! ## The formats of the scalar and packed instructions -/

theorem f32_mem : f32 ∈ formats := by simp [formats]
theorem bf16_mem : bf16 ∈ formats := by simp [formats]
theorem f16_mem : f16 ∈ formats := by simp [formats]

/-- An f32 code is its word. -/
theorem toNat_wd_round (sat sg : Bool) (v : FVal) : (wd (f32.round sat sg v).1).toNat = (f32.round sat sg v).1 := by
  rw [toNat_wd]
  exact Nat.mod_eq_of_lt (FFmt.round_lt f32_mem sat sg v)

theorem eq_nan_of_isNan {v : FVal} : v.isNan = true ↔ v = .nan := by cases v <;> simp [FVal.isNan]

/-! ## Minimum, maximum, compares (R156) -/

/-- A zero's code is its sign alone. -/
theorem FFmt.eq_withSign_zero {f : FFmt} (h : f.Regular) {c : ℕ} (hc : c < 2 ^ (f.mb + f.eb + 1)) (hz : (f.decode c).isZero = true) :
    c = f.withSign (f.decode c).sign 0 := by
  have hspec := FFmt.decode_spec h c
  split at hspec
  case isTrue => cases hd : f.decode c <;> simp_all [FVal.isFin, FVal.isZero]
  case isFalse =>
    obtain ⟨m, e, hd, -, hmag⟩ := hspec
    obtain rfl : m = 0 := by simpa [hd, FVal.isZero] using hz
    have hmod : c % f.signBit = 0 := f.mag_strictMono.injective (by rw [← hmag, f.mag_zero, Nat.cast_zero, zero_mul])
    rw [hd]
    exact (hmod ▸ FFmt.withSign_div_mod hc).symm

/-- Two zeros of one sign are one word. -/
theorem eq_of_fv_zero {a b : Word} (ha : (fv a).isZero = true) (hb : (fv b).isZero = true) (hs : (fv a).sign = (fv b).sign) : a = b := by
  have hreg := FFmt.regular_of_mem f32_mem
  apply BitVec.eq_of_toNat_eq
  rw [FFmt.eq_withSign_zero hreg a.isLt ha, FFmt.eq_withSign_zero hreg b.isLt hb]
  exact congrArg (f32.withSign · 0) hs

section
variable {x y : FVal} (hx : x ≠ .nan) (hy : y ≠ .nan)
include hx hy

theorem fLess_of_below (h : x.Below y) : fLess x y = true := by
  simp [fLess, (FVal.cmp_spec hx hy).1.mpr h]

theorem fLess_of_above (h : y.Below x) : fLess x y = false := by
  simp [fLess, (FVal.cmp_spec hx hy).2.2.mpr h]

end

theorem FVal.q_of_isZero {v : FVal} (h : v.isZero = true) : v.q = 0 := by
  cases v <;> simp_all [isZero, q]

theorem FVal.isFin_of_isZero {v : FVal} (h : v.isZero = true) : v.isFin = true := by
  cases v <;> simp_all [isZero, isFin]

theorem FVal.ne_nan_of_isFin {v : FVal} (h : v.isFin = true) : v ≠ .nan := by
  rintro rfl; cases h

/-- Of two zeros -0 is the lower. -/
theorem fLess_zeros {x y : FVal} (hx : x.isZero = true) (hy : y.isZero = true) : fLess x y = (x.sign && !y.sign) := by
  have hequal : x.Equal y :=
    .inr ⟨FVal.isFin_of_isZero hx, FVal.isFin_of_isZero hy, (FVal.q_of_isZero hx).trans (FVal.q_of_isZero hy).symm⟩
  have hcmp := (FVal.cmp_spec (FVal.ne_nan_of_isFin (FVal.isFin_of_isZero hx))
    (FVal.ne_nan_of_isFin (FVal.isFin_of_isZero hy))).2.1.mpr hequal
  simp [fLess, hcmp]

/-- A pick of a source: any NaN gives the canonical one and raises; else the choice is the left source or the right one. -/
theorem fPick_spec (p : Bool) (x : Src) {left right : Prop}
    (hl : fv x.a ≠ .nan → fv x.b ≠ .nan → left → p = true ∨ x.a = x.b)
    (hr : fv x.a ≠ .nan → fv x.b ≠ .nan → right → p = false ∨ x.a = x.b) :
    ∃ exc, let r := fPick p x
      ((fv x.a = .nan ∨ fv x.b = .nan → r.r.toNat = 0x7FC00000 ∧ exc = true) ∧
      (¬ (fv x.a = .nan ∨ fv x.b = .nan) → exc = false ∧ (left → r.r.toNat = x.a.toNat) ∧ (right → r.r.toNat = x.b.toNat) ∧
        (r.r.toNat = x.a.toNat ∨ r.r.toNat = x.b.toNat))) ∧ r.rf = (x.fa || x.fb || exc) := by
  by_cases h : fv x.a = .nan ∨ fv x.b = .nan
  · have hpick : fPick p x = x.fp nanRes := by
      unfold fPick
      rw [if_pos (by rcases h with h | h <;> simp [h, FVal.isNan])]
    rw [hpick]
    exact ⟨true, ⟨fun _ => ⟨rfl, rfl⟩, fun hn => absurd h hn⟩, rfl⟩
  · obtain ⟨ha, hb⟩ := not_or.mp h
    have hpick : fPick p x = x.plain (if p then x.a else x.b) := by
      unfold fPick
      rw [if_neg (by simp [eq_nan_of_isNan, ha, hb])]
    rw [hpick]
    refine ⟨false, ⟨fun hn => absurd hn h, fun _ => ⟨rfl, fun hleft => ?_, fun hright => ?_, ?_⟩⟩, rfl⟩
    · rcases hl ha hb hleft with rfl | heq
      · rfl
      · cases p <;> simp [Src.plain, heq]
    · rcases hr ha hb hright with rfl | heq
      · rfl
      · cases p <;> simp [Src.plain, heq]
    · cases p
      · exact .inr rfl
      · exact .inl rfl

/-- fmin's choice. -/
theorem fmin_left {a b : Word} (ha : fv a ≠ .nan) (hb : fv b ≠ .nan)
    (h : (fv a).Below (fv b) ∨ (((fv a).isZero = true ∧ (fv b).isZero = true) ∧ (fv a).sign = true)) :
    fLess (fv a) (fv b) = true ∨ a = b := by
  rcases h with h | ⟨⟨hza, hzb⟩, hs⟩
  · exact .inl (fLess_of_below ha hb h)
  · rw [fLess_zeros hza hzb, hs]
    cases hsb : (fv b).sign
    · exact .inl rfl
    · exact .inr (eq_of_fv_zero hza hzb (hs.trans hsb.symm))

theorem fmin_right {a b : Word} (ha : fv a ≠ .nan) (hb : fv b ≠ .nan)
    (h : (fv b).Below (fv a) ∨ (((fv a).isZero = true ∧ (fv b).isZero = true) ∧ (fv b).sign = true)) :
    fLess (fv a) (fv b) = false := by
  rcases h with h | ⟨⟨hza, hzb⟩, hs⟩
  · exact fLess_of_above ha hb h
  · rw [fLess_zeros hza hzb, hs]; exact Bool.and_false _

/-- fmax's choice. -/
theorem fmax_left {a b : Word} (ha : fv a ≠ .nan) (hb : fv b ≠ .nan)
    (h : (fv b).Below (fv a) ∨ (((fv a).isZero = true ∧ (fv b).isZero = true) ∧ (fv a).sign = false)) :
    fLess (fv a) (fv b) = false := by
  rcases h with h | ⟨⟨hza, hzb⟩, hs⟩
  · exact fLess_of_above ha hb h
  · rw [fLess_zeros hza hzb, hs]; rfl

theorem fmax_right {a b : Word} (ha : fv a ≠ .nan) (hb : fv b ≠ .nan)
    (h : (fv a).Below (fv b) ∨ (((fv a).isZero = true ∧ (fv b).isZero = true) ∧ (fv b).sign = false)) :
    fLess (fv a) (fv b) = true ∨ a = b := by
  rcases h with h | ⟨⟨hza, hzb⟩, hs⟩
  · exact .inl (fLess_of_below ha hb h)
  · rw [fLess_zeros hza hzb, hs]
    cases hsa : (fv a).sign
    · exact .inr (eq_of_fv_zero hza hzb (hsa.trans hs.symm))
    · exact .inl rfl

theorem FVal.not_below_nan {x y : FVal} (h : x = .nan ∨ y = .nan) : ¬ x.Below y ∧ ¬ x.Equal y := by
  rcases h with rfl | rfl <;> simp [FVal.Below, FVal.Equal, FVal.isFin]

/-- A compare holds where its order does, and of no NaN. -/
theorem fCmp_iff (x : Src) (p : Int → Bool) {c : Prop} (hc : c → fv x.a ≠ .nan ∧ fv x.b ≠ .nan)
    (hp : fv x.a ≠ .nan → fv x.b ≠ .nan → (p (FVal.cmp (fv x.a) (fv x.b)) = true ↔ c)) :
    (!(fv x.a).isNan && !(fv x.b).isNan && p (FVal.cmp (fv x.a) (fv x.b))) = true ↔ c := by
  simp only [Bool.and_eq_true, Bool.not_eq_true', ← Bool.not_eq_true, eq_nan_of_isNan]
  exact ⟨fun h => (hp h.1.1 h.1.2).mp h.2, fun h => ⟨hc h, (hp (hc h).1 (hc h).2).mpr h⟩⟩

/-! ## Packed pairs (R159) -/

theorem lane_zero (w : Word) : lane w 0 = w.toNat % 65536 := rfl

theorem lane_one (w : Word) : lane w 1 = w.toNat / 65536 := by
  show w.toNat >>> 16 % 2 ^ 16 = _
  rw [Nat.shiftRight_eq_div_pow]
  exact Nat.mod_eq_of_lt (by omega)

/-- Two halves of a word. -/
theorem toNat_wd_halves {m n : ℕ} (hm : m < 65536) (hn : n < 65536) :
    (wd (m + 2 ^ 16 * n)).toNat % 65536 = m ∧ (wd (m + 2 ^ 16 * n)).toNat / 65536 = n := by
  rw [toNat_wd]
  omega

/-- Each half of a packed result is a rounding of its own: what holds of each rounding holds of both halves. -/
theorem lanes_spec {m : FFmt} (hm : m ∈ formats) (hw : m.signBit = 2 ^ 15) (op : FVal → FVal → FVal → FVal) (x : Src)
    {p : FVal → FVal → FVal → ℕ → Bool → Prop}
    (hp : ∀ d a b, p d a b (m.round false true (op d a b)).1 (m.round false true (op d a b)).2) :
    ∃ el eh,
      p (m.decode (x.d.toNat % 65536)) (m.decode (x.a.toNat % 65536)) (m.decode (x.b.toNat % 65536))
        ((wd (lanes m op x).1).toNat % 65536) el ∧
      p (m.decode (x.d.toNat / 65536)) (m.decode (x.a.toNat / 65536)) (m.decode (x.b.toNat / 65536))
        ((wd (lanes m op x).1).toNat / 65536) eh ∧
      (lanes m op x).2 = (el || eh) := by
  have hlt (d a b : FVal) : (m.round false true (op d a b)).1 < 65536 := by
    have := FFmt.round_lt hm false true (op d a b)
    rw [hw] at this
    exact this
  simp only [lanes, lane_zero, lane_one]
  obtain ⟨hlow, hhigh⟩ := toNat_wd_halves
    (hlt (m.decode (x.d.toNat % 65536)) (m.decode (x.a.toNat % 65536)) (m.decode (x.b.toNat % 65536)))
    (hlt (m.decode (x.d.toNat / 65536)) (m.decode (x.a.toNat / 65536)) (m.decode (x.b.toNat / 65536)))
  rw [hlow, hhigh]
  exact ⟨_, _, hp .., hp .., rfl⟩

/-! ## The statement -/

section
variable {s : State} {f : FmtA} {src : Src} {popped : List (Nat × Token)} {x : Elem} (h : ReadsA s f src popped x)
include h

theorem completes_of_runA {i : Instr} (g : Src → Res) (hi : exec i s = runA f s g) :
    ∃ t, exec i s = .next t ∧ ∀ e, e ≠ s.cur → t.elem e = s.elem e :=
  ⟨_, written_of_runA h hi, fun e he => by
    rw [written_elem_ne _ _ _ _ _ he, taken, State.elem_setElem, if_neg he.symm]⟩

end

/-- Settles O11: sums and products by what rounds them once, the picks and compares by the order of values, the packed pairs half by half. -/
theorem scalarFloatResults : Obligations.ScalarFloatResults := by
  refine ⟨fun s f src popped x h => ?_, fun s f src popped x h => ?_⟩
  · intro a b fr nan zeros does picks cmp
    have hdoes {i : Instr} {fl : Bool} {p : ℕ → Bool → Prop} (g : Src → Res) (v : FVal) (hi : exec i s = runA f s g)
        (hg : g src = ⟨wd (rne32s v).1, fl || (rne32s v).2, false⟩) (hp : p (rne32s v).1 (rne32s v).2) : does i fl p := by
      refine ⟨_, (rne32s v).2, written_of_runA h hi, ?_, by rw [hg]⟩
      rw [hg]
      show p (wd (f32.round false true v).1).toNat _
      rwa [toNat_wd_round]
    have hcmp {i : Instr} {c : Prop} (p : Int → Bool) (hi : exec i s = runA f s fun y => fCmp y p)
        (hc : c → a ≠ .nan ∧ b ≠ .nan) (hp : a ≠ .nan → b ≠ .nan → (p (FVal.cmp a b) = true ↔ c)) : cmp i c :=
      ⟨_, written_of_runA h hi, cmp_spec src (fCmp_iff src p hc hp)⟩
    have hnum {c : Prop} (hc : c → FVal.Below a b ∨ FVal.Equal a b) (hcase : c) : a ≠ .nan ∧ b ≠ .nan :=
      not_or.mp fun hn => (hc hcase).elim (FVal.not_below_nan hn).1 (FVal.not_below_nan hn).2
    refine ⟨?_, hdoes rFadd _ rfl rfl (sumIs_round f32_mem rfl a b), hdoes rFsub _ rfl rfl (sumIs_round f32_mem rfl a b.neg),
      hdoes rFmul _ rfl rfl (productIs_round f32_mem rfl a b), hdoes rFmac _ rfl rfl (mulAddIs_round f32_mem rfl (fv src.d) a b),
      ?_, ?_, hcmp _ rfl (hnum .inr) fun ha hb => ?_, hcmp _ rfl (hnum .inl) fun ha hb => ?_,
      hcmp _ rfl (hnum id) fun ha hb => ?_⟩
    · simp only [List.forall_mem_cons]
      exact ⟨completes_of_runA h rFadd rfl, completes_of_runA h rFsub rfl, completes_of_runA h rFmul rfl,
        completes_of_runA h rFmac rfl, completes_of_runA h rFmin rfl, completes_of_runA h rFmax rfl, completes_of_runA h rFcmpeq rfl,
        completes_of_runA h rFcmplt rfl, completes_of_runA h rFcmple rfl, completes_of_runA h rBadd2 rfl,
        completes_of_runA h rBmul2 rfl, completes_of_runA h rBmac2 rfl, completes_of_runA h rHadd2 rfl,
        completes_of_runA h rHmul2 rfl, completes_of_runA h rHmac2 rfl, by simp⟩
    · obtain ⟨exc, hp, hr⟩ := fPick_spec (fLess a b) src fmin_left fun ha hb hr => .inl (fmin_right ha hb hr)
      exact ⟨rFmin src, exc, written_of_runA h rfl, hp, hr⟩
    · obtain ⟨exc, hp, hr⟩ := fPick_spec (!fLess a b) src (fun ha hb hl => .inl (by rw [fmax_left ha hb hl]; rfl))
        fun ha hb hr => (fmax_right ha hb hr).imp_left fun hless => by rw [hless]; rfl
      exact ⟨rFmax src, exc, written_of_runA h rfl, hp, hr⟩
    · rw [beq_iff_eq]; exact (FVal.cmp_spec ha hb).2.1
    · rw [beq_iff_eq]; exact (FVal.cmp_spec ha hb).1
    · rw [Bool.or_eq_true, beq_iff_eq, beq_iff_eq, (FVal.cmp_spec ha hb).1, (FVal.cmp_spec ha hb).2.1, or_comm]
  · intro fr low high pair
    have hpair {i : Instr} {m : FFmt} {fl : Bool} {p : FVal → FVal → FVal → ℕ → Bool → Prop} (g : Src → Res)
        (op : FVal → FVal → FVal → FVal) (hi : exec i s = runA f s g) (hm : m ∈ formats) (hw : m.signBit = 2 ^ 15)
        (hg : g src = ⟨wd (lanes m op src).1, fl || (lanes m op src).2, false⟩)
        (hp : ∀ d a b, p d a b (m.round false true (op d a b)).1 (m.round false true (op d a b)).2) : pair i m fl p := by
      obtain ⟨el, eh, hlow, hhigh, hexc⟩ := lanes_spec hm hw op src hp
      refine ⟨_, el, eh, written_of_runA h hi, by rw [hg]; exact hlow, by rw [hg]; exact hhigh, ?_⟩
      rw [hg, hexc, ← Bool.or_assoc]
    exact ⟨hpair rBadd2 _ rfl bf16_mem rfl rfl fun _ a b => sumIs_round bf16_mem rfl a b,
      hpair rBmul2 _ rfl bf16_mem rfl rfl fun _ a b => productIs_round bf16_mem rfl a b,
      hpair rBmac2 _ rfl bf16_mem rfl rfl fun d a b => mulAddIs_round bf16_mem rfl d a b,
      hpair rHadd2 _ rfl f16_mem rfl rfl fun _ a b => sumIs_round f16_mem rfl a b,
      hpair rHmul2 _ rfl f16_mem rfl rfl fun _ a b => productIs_round f16_mem rfl a b,
      hpair rHmac2 _ rfl f16_mem rfl rfl fun d a b => mulAddIs_round f16_mem rfl d a b⟩

end Sys2Proof.Machine
end

section
/-! SUPPORT. Values that a format holds, and conversions between integers, f32 and the narrow formats
(spec/09_instr_scalar_vector.md R154, R160): Obligations.ConversionResults. -/

namespace Sys2Proof.Machine

/-! ## Values that a format holds round to themselves (R71) -/

namespace FFmt

variable {f : FFmt}

/-- A significand on the format's grid is a code's magnitude. -/
theorem exists_mag {m : ℕ} {e : ℤ} (hm : m < 2 ^ (f.mb + 1)) (he : f.emin ≤ e) (hlt : (m : ℚ) * 2 ^ e < f.mag (f.maxFin + 1)) :
    ∃ d, d ≤ f.maxFin ∧ f.mag d = m * 2 ^ e := by
  rcases Nat.eq_zero_or_pos m with rfl | hpos
  · exact ⟨0, Nat.zero_le _, by rw [f.mag_zero, Nat.cast_zero, zero_mul]⟩
  · have hlog : m.log2 ≤ f.mb := Nat.lt_succ_iff.mp ((Nat.log2_lt hpos.ne').mpr hm)
    have hu : f.unitAt m e ≤ e := max_le (by simp only [Int.ofNat_eq_natCast]; omega) he
    have hmag : f.mag (f.unlimitedCode m e) = m * 2 ^ e := by
      obtain ⟨n, hn⟩ : ∃ n : ℕ, e - f.unitAt m e = n := Int.eq_ofNat_of_zero_le (sub_nonneg.mpr hu)
      rw [f.mag_unlimitedCode hpos, onGrid, if_pos hu, hn, Int.toNat_natCast, Nat.cast_mul, mul_assoc, Nat.cast_pow, Nat.cast_two,
        ← zpow_natCast, ← zpow_add₀ two_ne_zero, ← hn, sub_add_cancel]
    exact ⟨_, Nat.lt_succ_iff.mp (f.mag_strictMono.lt_iff_lt.mp (hmag ▸ hlt)), hmag⟩

/-- What has a code's magnitude rounds to that code under its sign. -/
theorem round_of_mag (h : f.Regular) (sat : Bool) {sg s : Bool} {m d : ℕ} {e : ℤ} (hm : m ≠ 0 ∨ sg = true ∨ s = false)
    (hd : d ≤ f.maxFin) (hmag : f.mag d = m * 2 ^ e) : f.round sat sg (.fin s m e) = (f.withSign s d, false) := by
  rcases Nat.eq_zero_or_pos m with rfl | hpos
  · obtain rfl : d = 0 := f.mag_strictMono.injective (by rw [hmag, f.mag_zero, Nat.cast_zero, zero_mul])
    rcases hm.resolve_left (by simp) with rfl | rfl
    · rfl
    · cases sg <;> rfl
  · have hcode := (hmag ▸ nearestCode_unlimitedCode f hpos e h.mb_pos).eq_of_mag
    obtain ⟨hover, hval, -⟩ := round_fin (f := f) sat sg s e hpos
    rw [hcode] at hover hval
    have hno := Bool.eq_false_iff.mpr fun hr => hd.not_gt (hover.mp hr)
    exact Prod.ext (hval hno) hno

end FFmt

/-! ## f32 holds what the narrow formats hold -/

theorem f32_mag_top : f32.mag (f32.maxFin + 1) = 2 ^ 128 := by
  norm_num [FFmt.mag, FFmt.sig, FFmt.binade, FFmt.maxFin, FFmt.emin, f32]

/-- A word that stands for a finite value, of a sign and a magnitude. -/
theorem fv_withSign (s : Bool) {d : ℕ} (hd : d ≤ f32.maxFin) :
    (fv (wd (f32.withSign s d))).isFin = true ∧ (fv (wd (f32.withSign s d))).sign = s ∧
      (fv (wd (f32.withSign s d))).q = (if s then -1 else 1) * f32.mag d := by
  have hreg := FFmt.regular_of_mem f32_mem
  have hlt : f32.withSign s d < 2 ^ 32 := FFmt.withSign_lt s (hd.trans_lt (FFmt.codes_lt_signBit f32_mem).1)
  obtain ⟨m, e, hdec, -, hmag⟩ := FFmt.decode_withSign hreg s hd
  rw [fv, toNat_wd, Nat.mod_eq_of_lt hlt, hdec, FVal.q_fin, hmag]
  exact ⟨rfl, rfl, rfl⟩

/-- A finite value on f32's grid, below its upper limit, is rounded exactly. -/
theorem rne32_exact {sg s : Bool} {m n : ℕ} {e d : ℤ} (hm : m ≠ 0 ∨ sg = true ∨ s = false) (hn : n < 2 ^ 24) (hd : -149 ≤ d)
    (heq : (m : ℚ) * 2 ^ e = n * 2 ^ d) (hlt : (n : ℚ) * 2 ^ d < 2 ^ 128) : let r := f32.round false sg (.fin s m e)
    r.2 = false ∧ (fv (wd r.1)).isFin = true ∧ (fv (wd r.1)).sign = s ∧ (fv (wd r.1)).q = (FVal.fin s m e).q := by
  obtain ⟨c, hc, hmag⟩ := FFmt.exists_mag (f := f32) hn hd (f32_mag_top ▸ hlt)
  obtain ⟨hfin, hsign, hq⟩ := fv_withSign s hc
  rw [FFmt.round_of_mag (FFmt.regular_of_mem f32_mem) false hm hc (hmag.trans heq.symm), FVal.q_fin, heq, ← hmag]
  exact ⟨rfl, hfin, hsign, hq⟩

/-- The formats that f32 widens. -/
def narrowFormats : List FFmt := [bf16, f16, e4m3, e5m2]

theorem narrow_limits {f : FFmt} (h : f ∈ narrowFormats) :
    f ∈ formats ∧ f.mb + 1 ≤ 24 ∧ -149 ≤ f.emin ∧ f.mag f.maxFin < 2 ^ 128 := by
  simp only [narrowFormats, List.mem_cons, List.not_mem_nil, or_false] at h
  rcases h with rfl | rfl | rfl | rfl <;> refine ⟨by simp [formats], by decide, by decide, ?_⟩ <;>
    norm_num [FFmt.mag, FFmt.sig, FFmt.binade, FFmt.maxFin, FFmt.emin, bf16, f16, e4m3, e5m2]

/-- A widening is exact, and raises for a NaN alone (R160). -/
theorem widenF_spec {f : FFmt} (h : f ∈ narrowFormats) (c : ℕ) : let v := f.decode c
    (v = .nan → widenF f c = nanRes) ∧
    (v ≠ .nan → let r := widenF f c
      r.2 = false ∧ (fv (wd r.1)).isFin = v.isFin ∧ (fv (wd r.1)).sign = v.sign ∧ (fv (wd r.1)).isNan = false ∧
        (fv (wd r.1)).q = v.q) := by
  obtain ⟨hf, hmb, hemin, htop⟩ := narrow_limits h
  refine ⟨fun hn => by rw [widenF, hn]; rfl, fun hn => ?_⟩
  have hspec := FFmt.decode_spec (FFmt.regular_of_mem hf) c
  rw [widenF]
  cases hv : f.decode c with
  | nan => exact absurd hv hn
  | inf s => cases s <;> decide
  | fin s m e =>
    rw [hv] at hspec
    split at hspec
    case isTrue => cases hspec
    case isFalse hle =>
      obtain ⟨m', e', heq, -, hmag⟩ := hspec
      obtain ⟨-, rfl, rfl⟩ := FVal.fin.inj heq
      have hlim : f.mag (c % f.signBit) < 2 ^ 128 := (f.mag_strictMono.monotone (not_lt.mp hle)).trans_lt htop
      obtain ⟨hexc, hfin, hsign, hq⟩ := rne32_exact (sg := true) (s := s) (.inr (.inl rfl))
        ((f.sig_lt (c % f.signBit)).trans_le (Nat.pow_le_pow_right two_pos hmb)) (by omega) hmag hlim
      exact ⟨hexc, hfin, hsign, by cases hw : fv (wd (rne32s (.fin s m e)).1) <;> simp_all [rne32s, FVal.isFin, FVal.isNan], hq⟩

/-! ## The nearest integer (R160) -/

theorem NearestInt.neg {q : ℚ} {n : ℤ} (h : NearestInt q n) : NearestInt (-q) (-n) := by
  have hdist : |-q - (-n : ℤ)| = |q - n| := by rw [← abs_neg]; congr 1; push_cast; ring
  rw [NearestInt, hdist]
  exact ⟨h.1, fun he => by have := h.2 he; omega⟩

theorem nearestInt_onGrid (s : Bool) (m : ℕ) (e : ℤ) : NearestInt (FVal.fin s m e).q (FVal.toInt s (FFmt.onGrid m e 0)) := by
  have h := FFmt.onGrid_nearestInt m e 0
  rw [sub_zero] at h
  rw [FVal.q_fin]
  cases s
  · simpa [FVal.toInt] using h
  · simpa [FVal.toInt] using h.neg

/-! ## Integers to f32 (R160) -/

/-- The middle beyond f32's largest value (R72). -/
theorem f32_limit : (f32.decode f32.maxFin).q + (2 : ℚ) ^ ((Int.ofNat (f32.maxFin / 2 ^ f32.mb) - 1) + f32.emin) / 2 =
    2 ^ 128 - 2 ^ 103 := by
  have hdec : f32.decode f32.maxFin = .fin false 16777215 104 := by decide
  have hexp : Int.ofNat (f32.maxFin / 2 ^ f32.mb) - 1 + f32.emin = 104 := by decide
  rw [hdec, hexp, FVal.q_fin]
  norm_num

theorem RoundsTo.exc_eq_false {s : Bool} {q : ℚ} {c : ℕ} {exc : Bool} (h : RoundsTo f32 s q c exc) (hq : |q| < 2 ^ 128 - 2 ^ 103) :
    exc = false := by
  rw [← Bool.not_eq_true, h.1, f32_limit, not_le]
  exact hq

theorem rne32_ofInt {v : ℤ} (hv : |v| ≤ 2147483648) :
    (rne32 (FVal.ofInt v)).2 = false ∧ RoundsTo f32 (decide (v < 0)) v (rne32 (FVal.ofInt v)).1 false := by
  have hround := FFmt.round_roundsTo f32_mem rfl (sg := false) (s := decide (v < 0)) (m := v.natAbs) 0 (by
    rcases eq_or_ne v 0 with rfl | hne
    · exact .inr (.inr rfl)
    · exact .inl (Int.natAbs_ne_zero.mpr hne))
  rw [q_ofUnits, zpow_zero, mul_one] at hround
  have hexc := hround.exc_eq_false (by
    have : |(v : ℚ)| ≤ 2147483648 := by exact_mod_cast hv
    exact this.trans_lt (by norm_num))
  exact ⟨hexc, hexc ▸ hround⟩

/-! ## The statement -/

theorem bits_byte (w : Word) (n : ℕ) : byteOf w n = w.toNat / 2 ^ (8 * n) % 256 := by
  rw [byteOf, bits, Nat.shiftRight_eq_div_pow, show 8 * n + 7 - 8 * n + 1 = 8 by omega]
  rfl

theorem toNat_wd_funnel {p : ℕ} (hp : p < 256) (b : Word) :
    (wd (p * 2 ^ 24 + b.toNat / 256)).toNat / 2 ^ 24 = p ∧ (wd (p * 2 ^ 24 + b.toNat / 256)).toNat % 2 ^ 24 = b.toNat / 256 := by
  rw [toNat_wd]
  omega

/-- cvtfi: the nearest integer, clamped (R160). -/
theorem cvtInt_spec (v : FVal) : (v = .nan → (cvtInt v).1 = 0 ∧ (cvtInt v).2 = true) ∧
    (∀ g, v = .inf g → (cvtInt v).1.toInt = (if g then -2147483648 else 2147483647) ∧ (cvtInt v).2 = true) ∧
    (v.isFin = true → ∃ n : ℤ, NearestInt v.q n ∧ (cvtInt v).1.toInt = max (-2147483648) (min 2147483647 n) ∧
      (cvtInt v).2 = decide ((cvtInt v).1.toInt ≠ n)) := by
  refine ⟨?_, ?_, fun h => ?_⟩
  · rintro rfl; exact ⟨rfl, rfl⟩
  · rintro g rfl; cases g <;> exact ⟨rfl, rfl⟩
  · obtain ⟨s, m, e, rfl⟩ := FVal.isFin_iff.mp h
    exact ⟨_, nearestInt_onGrid s m e, sat32_spec _⟩

/-- Settles O15: widenings by their exactness, narrowings by where their codes stand in the word. -/
theorem conversionResults : Obligations.ConversionResults := by
  intro s f src popped x h a b fr y two funnel wide
  have htwo {i : Instr} {m : FFmt} (g : Src → Res) (hi : exec i s = runA f s g) (hw : isWaitingCommand i = false)
      (hg : g src = src.fp (narrow2 m src)) (hm : m ∈ formats) (hs : m.signBit = 2 ^ 15) : two i m := by
    have hlt (v : FVal) : (m.round false false v).1 < 65536 := by
      have := FFmt.round_lt hm false false v
      rw [hs] at this
      exact this
    obtain ⟨hlow, hhigh⟩ := toNat_wd_halves (hlt a) (hlt b)
    refine yields_of_runA h g hi hw ?_
    rw [hg]
    exact ⟨hlow, hhigh, (Bool.or_assoc ..).symm⟩
  have hfunnel {i : Instr} {m : FFmt} {sat : Bool} (g : Src → Res) (hi : exec i s = runA f s g) (hw : isWaitingCommand i = false)
      (hg : g src = src.fp (Machine.funnel m sat src)) (hm : m ∈ formats) (hs : m.signBit = 2 ^ 7) : funnel i m sat := by
    have hlt := FFmt.round_lt hm sat false a
    rw [hs] at hlt
    obtain ⟨hhigh, hlow⟩ := toNat_wd_funnel hlt src.b
    refine yields_of_runA h g hi hw ?_
    rw [hg]
    exact ⟨hhigh, hlow, rfl⟩
  have hwide {i : Instr} {m : FFmt} {c : ℕ} (g : Src → Res) (hi : exec i s = runA f s g) (hw : isWaitingCommand i = false)
      (hg : g src = src.fp (widenF m c)) (hm : m ∈ narrowFormats) : wide i (m.decode c) := by
    obtain ⟨hnan, hnum⟩ := widenF_spec hm c
    refine yields_of_runA h g hi hw ⟨fun hv => ?_, fun hv => ?_⟩
    · rw [hg, hnan hv]; exact ⟨rfl, Bool.or_true _⟩
    · obtain ⟨hexc, hfin, hsign, hno, hq⟩ := hnum hv
      rw [hg]
      exact ⟨hfin, hsign, hno, hq, by rw [Src.fp, hexc]; exact Bool.or_false _⟩
  have hbyte (m : FFmt) : m.decode (byteOf src.a (bits src.b 1 0)) = m.decode (src.a.toNat / 2 ^ (8 * (src.b.toNat % 4)) % 256) :=
    congrArg m.decode (bits_byte src.a (bits src.b 1 0))
  have he4 : e4m3 ∈ formats := by simp [formats]
  have he5 : e5m2 ∈ formats := by simp [formats]
  refine ⟨?_, yields_of_runA h rCvtfi rfl rfl ⟨rfl, cvtInt_spec a⟩, ?_, htwo rCvtfb rfl rfl rfl bf16_mem rfl,
    htwo rCvtfh rfl rfl rfl f16_mem rfl, hfunnel rCvtf4 rfl rfl rfl he4 rfl, hfunnel rCvtf4s rfl rfl rfl he4 rfl,
    hfunnel rCvtf5 rfl rfl rfl he5 rfl, hfunnel rCvtf5s rfl rfl rfl he5 rfl, hwide rCvtbf rfl rfl rfl (by simp [narrowFormats]),
    hwide rCvthf rfl rfl rfl (by simp [narrowFormats]), ?_, ?_⟩
  · simp only [List.forall_mem_cons]
    exact ⟨completes_of_runA h rCvtfi rfl, completes_of_runA h rCvtif rfl, completes_of_runA h rCvtfb rfl,
      completes_of_runA h rCvtfh rfl, completes_of_runA h rCvtbf rfl, completes_of_runA h rCvthf rfl, completes_of_runA h rCvtf4 rfl,
      completes_of_runA h rCvtf4s rfl, completes_of_runA h rCvtf5 rfl, completes_of_runA h rCvtf5s rfl,
      completes_of_runA h rCvt4f rfl, completes_of_runA h rCvt5f rfl, by simp⟩
  · obtain ⟨hlo, hhi⟩ := toInt_mem src.a
    obtain ⟨-, hround⟩ := rne32_ofInt (abs_le.mpr ⟨by omega, by omega⟩ : |src.a.toInt| ≤ 2147483648)
    refine ⟨_, written_of_runA h (g := rCvtif) rfl, ?_, plain_flag ..⟩
    show RoundsTo f32 _ _ (wd (rne32 (FVal.ofInt src.a.toInt)).1).toNat false
    rwa [rne32, toNat_wd_round]
  · rw [← hbyte]; exact hwide rCvt4f rfl rfl rfl (by simp [narrowFormats])
  · rw [← hbyte]; exact hwide rCvt5f rfl rfl rfl (by simp [narrowFormats])

end Sys2Proof.Machine
end

section
/-! SUPPORT. Immediate forms run their counterparts' functions on the immediate; constants and predicates bit by bit
(spec/09_instr_scalar_vector.md R153 to R155): Obligations.ImmediateAndConstantResults. -/

namespace Sys2Proof.Machine

/-! ## The immediates (R153) -/

theorem immSh_eq (i : BitVec 14) : immSh i = (i.extractLsb' 0 5).zeroExtend 32 := by
  apply BitVec.eq_of_toNat_eq
  simp only [immSh, toNat_wd, BitVec.truncate_eq_setWidth, BitVec.toNat_setWidth, BitVec.extractLsb'_toNat]
  rfl

theorem immBf_eq (i : BitVec 14) :
    immBf i = ((i.extractLsb' 5 6) ++ (0 : BitVec 3) ++ (i.extractLsb' 0 5)).zeroExtend 32 := by
  apply BitVec.eq_of_getLsbD_eq
  intro k hk
  have hfield : bits i 10 5 * 256 + bits i 4 0 = 2 ^ 8 * bits i 10 5 + bits i 4 0 := by ring
  have hoff : bits i 4 0 < 2 ^ 8 := (bits_lt i 4 0).trans (by norm_num)
  have hbit (hi lo j : Nat) : (bits i hi lo).testBit j = (decide (j < hi - lo + 1) && i.getLsbD (lo + j)) := by
    rw [bits, Nat.testBit_mod_two_pow, Nat.testBit_shiftRight]; rfl
  rw [immBf, wd, BitVec.getLsbD_ofNat, hfield, Nat.testBit_two_pow_mul_add _ hoff]
  simp only [hbit, BitVec.truncate_eq_setWidth, BitVec.getLsbD_setWidth, BitVec.getLsbD_append, BitVec.getLsbD_extractLsb',
    decide_eq_true hk, Bool.true_and]
  rcases lt_or_ge k 5 with h | h
  · simp [h, show k < 8 by omega]
  · rcases lt_or_ge k 8 with h' | h'
    · simp [h.not_gt, h', show k - 5 < 3 by omega]
    · simp [h.not_gt, h'.not_gt, show ¬ k - 5 < 3 by omega, Nat.sub_sub]

/-- An instruction of format I runs a function of format A on its source and the immediate; both write the same result. -/
theorem runI_as_runA {s : State} {f : FmtI} {src : Src} {popped : List (Nat × Token)} {x : Elem} (h : ReadsI s f src popped x)
    {i : Instr} {c : FmtA → Instr} (g : Src → Res) (v : Word) (hi : exec i s = runI f s v g)
    (hc : ∀ (s' : State) (k : FmtA), exec (c k) s' = runA k s' g) :
    ∃ r, exec i s = .next (written (taken s x) s.cur s.curSlot s.curBeat ⟨f.dst, 0, 0, 0⟩ r) ∧
      ∀ (s' : State) (k : FmtA) (popped' : List (Nat × Token)) (x' : Elem),
        ReadsA s' k ⟨src.a, v, src.d, src.fa, false, src.fd⟩ popped' x' →
        exec (c k) s' = .next (written (taken s' x') s'.cur s'.curSlot s'.curBeat (sinkA k) r) :=
  ⟨_, hi.trans (runI_reads v g h), fun s' k _ _ h' => written_of_runA h' (hc s' k)⟩

/-! ## Constants (R154) -/

section
variable {s : State} {f : FmtK} {src : Src} {popped : List (Nat × Token)} {x : Elem} (h : ReadsK s f src popped x)
include h

theorem yields_of_runK {i : Instr} (g : Src → Res) (hi : exec i s = runK f.dst s g) (hw : isWaitingCommand i = false)
    {p : Res → Prop} (hp : p (g src)) : Yields s i (taken s x) (sinkK f) p :=
  ⟨g src, by rw [concluded_of_not_waiting hw]; exact hi.trans (runK_reads g h), hp⟩

end

theorem bit_high_mask {k : Nat} : bit (0xFFFF0000 : Word) k = decide (16 ≤ k ∧ k < 32) := by
  rw [bit, show (0xFFFF0000 : Word) = BitVec.allOnes 32 <<< 16 by decide, BitVec.getLsbD_shiftLeft, BitVec.getLsbD_allOnes]
  grind

theorem bit_low_mask {k : Nat} : bit (0x0000FFFF : Word) k = decide (k < 16) := by
  rw [bit, show (0x0000FFFF : Word) = BitVec.allOnes 32 >>> 16 by decide, BitVec.getLsbD_ushiftRight, BitVec.getLsbD_allOnes]
  grind

/-- ldk.lo and ldk.hi replace one half and keep the other; the other forms extend (R154). -/
theorem rLdk_spec (hs : BitVec 2) (v : BitVec 16) (x : Src) : let r := rLdk hs v x
    (hs = 0 → (∀ k, k < 16 → bit r.r k = bit v k) ∧ (∀ k, 16 ≤ k → bit r.r k = bit x.d k) ∧ r.rf = x.fd) ∧
    (hs = 1 → (∀ k, k < 16 → bit r.r k = bit x.d k ∧ bit r.r (k + 16) = bit v k) ∧ r.rf = x.fd) ∧
    (hs = 2 → r.r.toNat = v.toNat ∧ r.rf = false) ∧
    (hs = 3 → r.r.toInt = v.toInt ∧ r.rf = false) := by
  have hhigh (k : Nat) : (0xFFFF0000 : Word).getLsbD k = decide (16 ≤ k ∧ k < 32) := bit_high_mask
  have hlow (k : Nat) : (0x0000FFFF : Word).getLsbD k = decide (k < 16) := bit_low_mask
  refine ⟨?_, ?_, ?_, ?_⟩ <;> rintro rfl
  · refine ⟨fun k hk => ?_, fun k hk => ?_, rfl⟩
    · show ((x.d &&& (0xFFFF0000 : Word)) ||| v.setWidth 32).getLsbD k = _
      rw [BitVec.getLsbD_or, BitVec.getLsbD_and, hhigh, BitVec.getLsbD_setWidth]
      simp [bit, hk.not_ge, show k < 32 by omega]
    · show ((x.d &&& (0xFFFF0000 : Word)) ||| v.setWidth 32).getLsbD k = _
      rw [BitVec.getLsbD_or, BitVec.getLsbD_and, hhigh, BitVec.getLsbD_setWidth, BitVec.getLsbD_of_ge v k hk]
      rcases lt_or_ge k 32 with h | h
      · simp [bit, hk, h]
      · simp [bit, BitVec.getLsbD_of_ge x.d k h]
  · refine ⟨fun k hk => ⟨?_, ?_⟩, rfl⟩
    · show ((x.d &&& (0x0000FFFF : Word)) ||| (v.setWidth 32 <<< 16)).getLsbD k = _
      rw [BitVec.getLsbD_or, BitVec.getLsbD_and, hlow, BitVec.getLsbD_shiftLeft]
      simp [bit, hk]
    · show ((x.d &&& (0x0000FFFF : Word)) ||| (v.setWidth 32 <<< 16)).getLsbD (k + 16) = _
      rw [BitVec.getLsbD_or, BitVec.getLsbD_and, hlow, BitVec.getLsbD_shiftLeft, BitVec.getLsbD_setWidth]
      simp [bit, show k + 16 < 32 by omega, show k < 32 by omega]
  · refine ⟨?_, rfl⟩
    show (v.setWidth 32).toNat = _
    rw [BitVec.toNat_setWidth]
    exact Nat.mod_eq_of_lt (by omega)
  · refine ⟨?_, rfl⟩
    show (v.signExtend 32).toInt = _
    exact BitVec.toInt_signExtend_of_le (by norm_num)

/-- bf16's codes are the upper halves of f32's. -/
theorem f32_mag_upper (d : ℕ) : f32.mag (65536 * d) = bf16.mag d := by
  have hbin : f32.binade (65536 * d) = bf16.binade d := by
    show 65536 * d / 8388608 - 1 = d / 128 - 1
    omega
  have hsig : f32.sig (65536 * d) = 65536 * bf16.sig d := by
    rw [FFmt.sig, FFmt.sig, hbin]
    show 65536 * d - bf16.binade d * 8388608 = 65536 * (d - bf16.binade d * 128)
    omega
  have hemin : bf16.emin + (bf16.binade d : ℤ) = 16 + (f32.emin + bf16.binade d) := by
    rw [← add_assoc]; rfl
  rw [FFmt.mag, FFmt.mag, hbin, hsig, hemin, zpow_add₀ two_ne_zero 16]
  push_cast
  ring

theorem f32_withSign_upper (s : Bool) (d : ℕ) : f32.withSign s (65536 * d) = 65536 * bf16.withSign s d := by
  cases s
  · rfl
  · show 2147483648 + 65536 * d = 65536 * (32768 + d)
    omega

theorem bf16_eq_of_inf {c : ℕ} {s : Bool} (hc : c < 2 ^ 16) (h : bf16.decode c = .inf s) : c = bf16.withSign s bf16.infCode := by
  have hm : c % 2 ^ 7 = 0 ∧ c / 2 ^ 7 % 2 ^ 8 = 255 ∧ (c / 2 ^ 15 % 2 == 1) = s := by
    simp only [FFmt.decode] at h
    split at h
    · cases h
    · split at h
      next he =>
        split at h
        next hz => exact ⟨hz, by simpa [bf16] using he, FVal.inf.inj h⟩
        next => cases h
      next => split at h <;> cases h
  obtain ⟨hm, he, hs⟩ := hm
  cases s
  · have : c / 2 ^ 15 % 2 ≠ 1 := by simpa using hs
    show c = 32640
    omega
  · have : c / 2 ^ 15 % 2 = 1 := by simpa using hs
    show c = 65408
    omega

/-- A bf16 code widened is the upper half of the word (R154). -/
theorem widenF_bf16 {c : ℕ} (hc : c < 2 ^ 16) (hn : bf16.decode c ≠ .nan) : widenF bf16 c = (65536 * c, false) := by
  have hreg := FFmt.regular_of_mem bf16_mem
  have hspec := FFmt.decode_spec hreg c
  rw [widenF]
  cases hv : bf16.decode c with
  | nan => exact absurd hv hn
  | inf s =>
    rw [bf16_eq_of_inf hc hv]
    cases s <;> rfl
  | fin s m e =>
    rw [hv] at hspec
    split at hspec
    case isTrue => cases hspec
    case isFalse hle =>
      obtain ⟨m', e', heq, -, hmag⟩ := hspec
      obtain ⟨rfl, rfl, rfl⟩ := FVal.fin.inj heq
      have hd : 65536 * (c % bf16.signBit) ≤ f32.maxFin := by
        have : c % bf16.signBit ≤ 32639 := not_lt.mp hle
        show _ ≤ 2139095039
        omega
      have hround := FFmt.round_of_mag (FFmt.regular_of_mem f32_mem) false (sg := true) (.inr (.inl rfl)) hd
        ((f32_mag_upper _).trans hmag.symm) (s := c / bf16.signBit % 2 == 1)
      rw [rne32s, hround, f32_withSign_upper, FFmt.withSign_div_mod hc]

/-! ## Predicates (R155) -/

theorem predOp_eq (s : State) (g : BitVec 8 → BitVec 8) :
    predOp s g = s.setElem s.cur { s.elem s.cur with
      p := g (s.elem s.cur).p, dp := nextDp (s.elem s.cur) s.curSlot s.curBeat } := rfl

/-- plog writes its table's entry for two predicates into a third. -/
theorem plogP_bit (f : FmtK) (p : BitVec 8) {k : Nat} (hk : k < 8) : bit (plogP f p) k = if k = bits f.dst 2 0 then
    bit f.imm (8 + (if bit p (bits f.imm 6 4) then 2 else 0) + (if bit p (bits f.imm 2 0) then 1 else 0)) else bit p k := by
  have hindex (a b : Bool) : 8 + (2 * a.toNat + b.toNat) = 8 + (if a then 2 else 0) + (if b then 1 else 0) := by
    cases a <;> cases b <;> rfl
  have hset := Elem.bit_setP { ({} : Elem) with p := p } (bits_lt f.dst 2 0) hk
  simp only [eq_comm (a := bits f.dst 2 0)] at hset
  rw [← hindex, ← hset]
  rfl

/-- pset writes the values of its mask. -/
theorem psetP_bit (f : FmtK) (p : BitVec 8) {k : Nat} (hk : k < 8) :
    bit (psetP f p) k = if bit f.imm (8 + k) then bit f.imm k else bit p k := by
  rw [bit, psetP, BitVec.getLsbD_or, BitVec.getLsbD_and, BitVec.getLsbD_and, BitVec.getLsbD_not, BitVec.getLsbD_extractLsb',
    BitVec.getLsbD_extractLsb', decide_eq_true hk, Nat.zero_add]
  cases h : f.imm.getLsbD (8 + k) <;> simp [bit, h]

/-- Settles O16: each immediate form by its counterpart's function, constants and predicates by their bits. -/
theorem immediateAndConstantResults : Obligations.ImmediateAndConstantResults := by
  refine ⟨fun s f src popped x h => ?_, fun s f src popped x h => ⟨?_, ?_⟩, fun s f => ⟨?_, ?_, fun src popped y h => ?_⟩⟩
  · intro as v amount field
    have hfield : immBf f.imm = field := immBf_eq f.imm
    have hamount : immSh f.imm = amount := immSh_eq f.imm
    have has {i : Instr} {c : FmtA → Instr} (w : Word) (g : Src → Res) (hi : exec i s = runI f s w g)
        (hc : ∀ (s' : State) (k : FmtA), exec (c k) s' = runA k s' g) : as i w c := runI_as_runA h g w hi hc
    rw [← hfield, ← hamount]
    exact ⟨has _ rAdd rfl fun _ _ => rfl, has _ rAnd rfl fun _ _ => rfl, has _ rOr rfl fun _ _ => rfl, has _ rXor rfl fun _ _ => rfl,
      has _ rShl rfl fun _ _ => rfl, has _ rShr rfl fun _ _ => rfl, has _ rSra rfl fun _ _ => rfl, has _ rMul rfl fun _ _ => rfl,
      has _ rMin rfl fun _ _ => rfl, has _ rMax rfl fun _ _ => rfl, has _ rCmpeq rfl fun _ _ => rfl, has _ rCmpne rfl fun _ _ => rfl,
      has _ rCmplt rfl fun _ _ => rfl, has _ rCmple rfl fun _ _ => rfl, has _ rCmpltu rfl fun _ _ => rfl,
      has _ rCmpleu rfl fun _ _ => rfl, has _ rBfx rfl fun _ _ => rfl, has _ rBfi rfl fun _ _ => rfl, has _ rAdds rfl fun _ _ => rfl⟩
  · exact yields_of_runK h (rLdk f.hs f.imm) rfl rfl (rLdk_spec f.hs f.imm src)
  · refine yields_of_runK h (fun _ => rLdkf f.imm) rfl rfl ?_
    refine ⟨fun hn => ?_, fun hn => ?_⟩
    · have hwide : widenF bf16 f.imm.toNat = nanRes := by rw [widenF, hn]; rfl
      rw [rLdkf, hwide]
      exact ⟨rfl, rfl⟩
    · rw [rLdkf, widenF_bf16 f.imm.isLt hn]
      refine ⟨?_, rfl⟩
      have := f.imm.isLt
      rw [toNat_wd]
      omega
  · exact ⟨_, congrArg Host.Outcome.next (predOp_eq s (plogP f)), fun k hk => plogP_bit f _ hk⟩
  · exact ⟨_, congrArg Host.Outcome.next (predOp_eq s (psetP f)), fun k hk => psetP_bit f _ hk⟩
  · refine yields_of_runK h (fun _ => ⟨s.curElem.p.zeroExtend 32, false, false⟩) rfl rfl ⟨?_, rfl⟩
    show (s.curElem.p.setWidth 32).toNat = _
    rw [BitVec.toNat_setWidth]
    exact Nat.mod_eq_of_lt (by have := s.curElem.p.isLt; omega)

end Sys2Proof.Machine
end

section
/-! SUPPORT. Values known to lie strictly between two neighbours of a fine grid round as any of them does (R71), and the functions rcp
and rsq with their exact results (spec/09_instr_scalar_vector.md R158). -/

namespace Sys2Proof.Machine

/-! ## Between two neighbours of a fine grid (R71) -/

namespace FFmt

variable (f : FFmt)

theorem mag_le_two_mul (d : ℕ) : f.mag (d + 1) ≤ 2 * f.mag d ∨ f.mag (d + 1) ≤ f.mag d + 2 ^ f.emin := by
  rw [mag_succ]
  rcases f.binade_eq_zero_or d with h | h
  · right; rw [h, Nat.cast_zero, add_zero]
  · left
    have hone : (1 : ℚ) ≤ f.sig d := by exact_mod_cast Nat.one_le_two_pow.trans h
    have hunit : (2 : ℚ) ^ (f.emin + f.binade d) ≤ f.mag d := le_mul_of_one_le_left (by positivity) hone
    linarith

/-- The middle of two neighbouring codes lies on a grid of unit 2^u, or below the normal values of that grid. -/
theorem middle_onGrid_or_lt (u : ℤ) (d : ℕ) : (∃ j : ℕ, f.mag d + f.mag (d + 1) = 2 * (j * 2 ^ u)) ∨
    f.mag d + f.mag (d + 1) < 2 * (2 ^ (f.mb + 2) * 2 ^ u) := by
  have hstep : f.mag d < f.mag (d + 1) := f.mag_strictMono d.lt_succ_self
  have hpos : (0 : ℚ) < 2 ^ u := by positivity
  have hmbpos : (1 : ℚ) ≤ 2 ^ f.mb := one_le_pow₀ one_le_two
  rcases le_or_gt (u + 1) f.emin with hu | hu
  · left
    obtain ⟨n, hn⟩ := Int.eq_ofNat_of_zero_le (sub_nonneg.mpr hu)
    have hgrid (c : ℕ) : ∃ j : ℕ, f.mag c = 2 * (j * 2 ^ u) := by
      refine ⟨f.sig c * 2 ^ (n + f.binade c), ?_⟩
      have hexp : f.emin + f.binade c = 1 + u + (n + f.binade c : ℕ) := by push_cast; omega
      rw [mag, hexp, zpow_add₀ two_ne_zero, zpow_add₀ two_ne_zero, zpow_natCast]
      push_cast
      ring
    obtain ⟨i, hi⟩ := hgrid d
    obtain ⟨j, hj⟩ := hgrid (d + 1)
    exact ⟨i + j, by rw [hi, hj]; push_cast; ring⟩
  · obtain ⟨n, hn⟩ : ∃ n : ℕ, u + 1 - f.emin = n := Int.eq_ofNat_of_zero_le (by omega)
    have hunit : (2 : ℚ) ^ (f.emin + n) = 2 * 2 ^ u := by rw [← hn, add_sub_cancel, zpow_add_one₀ two_ne_zero, mul_comm]
    have hlow : (2 : ℚ) ^ f.emin ≤ 2 ^ u := zpow_le_zpow_right₀ one_le_two (by omega)
    have hpow : (2 : ℚ) ^ (f.mb + 2) = 4 * 2 ^ f.mb := by ring
    have hi := f.mag_onGrid_or_lt d n
    have hj := f.mag_onGrid_or_lt (d + 1) n
    rw [hunit] at hi hj
    rw [hpow]
    rcases hi with ⟨i, hi⟩ | ⟨-, hi⟩
    · rcases hj with ⟨j, hj⟩ | ⟨-, hj⟩
      · exact .inl ⟨i + j, by rw [hi, hj]; push_cast; ring⟩
      · right; nlinarith
    · right
      rcases f.mag_le_two_mul d with h | h <;> nlinarith

variable {f}

/-- A code is the nearest where its middles with both neighbours lie on either side. -/
theorem nearestCode_of_middles {x : ℚ} {c : ℕ} (hx : 0 ≤ x) (hlo : ∀ d, d < c → f.mag d + f.mag (d + 1) < 2 * x)
    (hhi : 2 * x < f.mag c + f.mag (c + 1)) : f.NearestCode x c := by
  intro w d hw
  have hfar : |x - f.mag d| ≤ |x - w| := by simpa only [abs_of_nonneg hx, hw] using abs_abs_sub_abs_le_abs_sub x w
  rcases lt_trichotomy d c with hd | rfl | hd
  · have hmid := hlo (c - 1) (by omega)
    rw [Nat.sub_add_cancel (by omega)] at hmid
    have hmono := f.mag_strictMono.monotone (show d ≤ c - 1 by omega)
    have hstrict := f.mag_strictMono (show c - 1 < c by omega)
    have hlt : |x - f.mag c| < |x - f.mag d| := sq_lt_sq.mp (by nlinarith)
    exact ⟨(hlt.trans_le hfar).le, fun heq => absurd heq (hlt.trans_le hfar).ne⟩
  · refine ⟨hfar, fun heq hne => ?_⟩
    obtain rfl : w = -f.mag d := ((abs_eq (f.mag_nonneg d)).mp hw).resolve_left hne
    have hzero : x * f.mag d = 0 := by
      have := (sq_eq_sq_iff_abs_eq_abs _ _).mpr heq
      linarith
    rcases mul_eq_zero.mp hzero with rfl | hmag
    · rcases Nat.eq_zero_or_pos d with rfl | hpos
      · rfl
      · have := hlo (d - 1) (by omega)
        have := f.mag_nonneg (d - 1)
        have := f.mag_nonneg (d - 1 + 1)
        linarith
    · exact absurd (by rw [hmag, neg_zero]) hne
  · have hmono := f.mag_strictMono.monotone (show c + 1 ≤ d by omega)
    have hstrict := f.mag_strictMono (show c < c + 1 by omega)
    have hlt : |x - f.mag c| < |x - f.mag d| := sq_lt_sq.mp (by nlinarith)
    exact ⟨(hlt.trans_le hfar).le, fun heq => absurd heq (hlt.trans_le hfar).ne⟩

/-- The middles of the code of a value between two neighbours of a fine grid lie on either side of both neighbours. -/
theorem middles_between (hmb : 0 < f.mb) {m : ℕ} (hm : 2 ^ (f.mb + 2) ≤ m) (u : ℤ) : let c := f.unlimitedCode (4 * m + 1) (u - 2)
    (∀ d, d < c → f.mag d + f.mag (d + 1) ≤ 2 * (m * 2 ^ u)) ∧
    ∀ d, c ≤ d → 2 * ((m + 1) * 2 ^ u) ≤ f.mag d + f.mag (d + 1) := by
  intro c
  have hnear : f.NearestCode _ c := f.nearestCode_unlimitedCode (show 0 < 4 * m + 1 by omega) (u - 2) hmb
  have hvalue : ((4 * m + 1 : ℕ) : ℚ) * 2 ^ (u - 2) = (m + 1 / 4) * 2 ^ u := by
    rw [zpow_sub₀ two_ne_zero]
    push_cast
    ring
  rw [hvalue] at hnear
  have hpos : (0 : ℚ) < 2 ^ u := by positivity
  have hfine : (2 : ℚ) ^ (f.mb + 2) * 2 ^ u ≤ m * 2 ^ u := mul_le_mul_of_nonneg_right (by exact_mod_cast hm) hpos.le
  refine ⟨fun d hd => ?_, fun d hd => ?_⟩
  · have hle := (hnear.middle_le hd).1
    rcases f.middle_onGrid_or_lt u d with ⟨j, hj⟩ | hlt
    · rw [hj] at hle ⊢
      have hjm : (j : ℚ) < m + 1 := by nlinarith
      have : (j : ℚ) ≤ m := by exact_mod_cast Nat.lt_succ_iff.mp (by exact_mod_cast hjm)
      gcongr
    · linarith
  · have hle := (hnear.le_middle hd).1
    rcases f.middle_onGrid_or_lt u d with ⟨j, hj⟩ | hlt
    · rw [hj] at hle ⊢
      have hjm : (m : ℚ) < j := by nlinarith
      have : (m : ℚ) + 1 ≤ j := by exact_mod_cast Nat.succ_le_of_lt (by exact_mod_cast hjm)
      gcongr
    · nlinarith

/-- Every value strictly between the two neighbours has the same nearest code. -/
theorem nearestCode_between (hmb : 0 < f.mb) {m : ℕ} (hm : 2 ^ (f.mb + 2) ≤ m) {u : ℤ} {y : ℚ} (hlo : m * 2 ^ u < y)
    (hhi : y < (m + 1) * 2 ^ u) : f.NearestCode y (f.unlimitedCode (4 * m + 1) (u - 2)) := by
  obtain ⟨hbelow, habove⟩ := middles_between hmb hm u
  have hpos : (0 : ℚ) ≤ m * 2 ^ u := by positivity
  exact nearestCode_of_middles (by linarith) (fun d hd => (hbelow d hd).trans_lt (by linarith)) (by linarith [habove _ le_rfl])

end FFmt

/-- A value between two neighbours of a fine grid rounds as the part rounds what it knows to lie there. -/
theorem round_between {f : FFmt} (hf : f ∈ formats) (hinf : f.hasInf = true) (sg : Bool) {s : Bool} {m : ℕ}
    (hm : 2 ^ (f.mb + 2) ≤ m) {u : ℤ} {q : ℚ} (hs : s = decide (q < 0)) (hlo : m * 2 ^ u < |q|) (hhi : |q| < (m + 1) * 2 ^ u) :
    RoundsTo f s q (f.round false sg (between s m u)).1 (f.round false sg (between s m u)).2 := by
  have hnear := FFmt.nearestCode_between (FFmt.regular_of_mem hf).mb_pos hm hlo hhi
  rw [between, FFmt.round_eq hinf sg s (by omega)]
  exact hnear.roundsTo hf hinf fun _ => hs

/-- A value that the format holds rounds to itself. -/
theorem RoundsTo.exact {f : FFmt} (hf : f ∈ formats) {s : Bool} {q : ℚ} {c d : ℕ} {exc : Bool} (h : RoundsTo f s q c exc)
    (hd : d ≤ f.maxFin) (hq : |q| = f.mag d) : exc = false ∧ (f.decode c).isFin = true ∧ (f.decode c).q = q := by
  have hreg := FFmt.regular_of_mem hf
  obtain ⟨hover, -, hfin⟩ := h
  have hexc : exc = false := by
    rw [← Bool.not_eq_true, hover, not_le]
    have hmid := FFmt.mag_maxFin_add_half hreg
    have htop := f.mag_strictMono (show f.maxFin < f.maxFin + 1 by omega)
    have hmono := f.mag_strictMono.monotone hd
    dsimp only at hmid
    linarith
  obtain ⟨hfin, -, hnear⟩ := hfin hexc
  obtain ⟨m, e, hdec, -, hmag⟩ := FFmt.decode_withSign hreg (decide (q < 0)) hd
  have hval : (f.decode (f.withSign (decide (q < 0)) d)).q = q := by
    rw [hdec, FVal.q_fin, hmag, ← hq]
    rcases lt_or_ge q 0 with hneg | hpos
    · simp [hneg, abs_of_neg hneg]
    · simp [hpos.not_gt, abs_of_nonneg hpos]
  have hlt : f.withSign (decide (q < 0)) d < 2 ^ (f.mb + f.eb + 1) := by
    rw [pow_succ, mul_comm]
    exact FFmt.withSign_lt _ (hd.trans_lt (FFmt.codes_lt_signBit hf).1)
  have hle := (hnear _ hlt (by rw [hdec]; rfl)).1
  rw [hval, sub_self, abs_zero, abs_nonpos_iff, sub_eq_zero] at hle
  exact ⟨hexc, hfin, hle.symm⟩

/-! ## What a word of f32 stands for (R63, R64) -/

theorem FFmt.decode_exp_ge {f : FFmt} {c m : ℕ} {s : Bool} {e : ℤ} (h : f.decode c = .fin s m e) : f.emin ≤ e := by
  simp only [FFmt.decode] at h
  split_ifs at h <;> obtain ⟨-, -, rfl⟩ := FVal.fin.inj h <;> omega

/-- The significand, the exponent and the magnitude of a finite word. -/
theorem fv_fin {w : Word} {s : Bool} {m : ℕ} {e : ℤ} (h : fv w = .fin s m e) :
    m < 2 ^ 24 ∧ -149 ≤ e ∧ ∃ d, d ≤ f32.maxFin ∧ f32.mag d = m * 2 ^ e := by
  have hreg := FFmt.regular_of_mem f32_mem
  have hspec := FFmt.decode_spec hreg w.toNat
  rw [fv] at h
  rw [h] at hspec
  split at hspec
  case isTrue => cases hspec
  case isFalse hle =>
    obtain ⟨m', e', heq, -, hmag⟩ := hspec
    obtain ⟨-, rfl, rfl⟩ := FVal.fin.inj heq
    exact ⟨FFmt.significand_lt hreg h, FFmt.decode_exp_ge h, _, not_lt.mp hle, hmag.symm⟩

/-- A nonzero finite word lies between f32's least and greatest magnitudes. -/
theorem fv_magnitude {w : Word} {s : Bool} {m : ℕ} {e : ℤ} (h : fv w = .fin s m e) (hm : 0 < m) :
    (2 : ℚ) ^ (-149 : ℤ) ≤ m * 2 ^ e ∧ (m : ℚ) * 2 ^ e < 2 ^ 128 := by
  obtain ⟨-, he, d, hd, hmag⟩ := fv_fin h
  refine ⟨?_, hmag ▸ f32_mag_top ▸ f32.mag_strictMono (Nat.lt_succ_of_le hd)⟩
  calc (2 : ℚ) ^ (-149 : ℤ) ≤ 2 ^ e := zpow_le_zpow_right₀ one_le_two he
    _ ≤ m * 2 ^ e := le_mul_of_one_le_left (by positivity) (by exact_mod_cast hm)

/-- f32 holds the powers of two from -149 to 127. -/
theorem exists_mag_two_zpow {n : ℤ} (hlo : -149 ≤ n) (hhi : n ≤ 127) : ∃ d, d ≤ f32.maxFin ∧ f32.mag d = 2 ^ n := by
  have hlt : ((1 : ℕ) : ℚ) * 2 ^ n < 2 ^ 128 := by
    rw [Nat.cast_one, one_mul, ← zpow_natCast]
    exact zpow_lt_zpow_right₀ one_lt_two (by push_cast; omega)
  simpa using FFmt.exists_mag (f := f32) (m := 1) (e := n) (by decide) hlo (f32_mag_top ▸ hlt)

end Sys2Proof.Machine
end

section
/-! SUPPORT. The functions exp2, log2, rcp and rsq: special operands, exact results, and the roundings of rcp and rsq
(spec/09_instr_scalar_vector.md R158): Obligations.FloatFunctionResults. -/

namespace Sys2Proof.Machine

/-! ## rcp -/

/-- 1/a is rounded once (R158). -/
theorem rcpFin_spec (s : Bool) {m : ℕ} (e : ℤ) (hm : 0 < m) (hlt : m < 2 ^ 24) :
    ∃ v, rcpFin s m e = rne32 v ∧ RoundsTo f32 s (1 / (FVal.fin s m e).q) (rne32 v).1 (rne32 v).2 := by
  have hmpos : (0 : ℚ) < m := by exact_mod_cast hm
  have hpos : (0 : ℚ) < 2 ^ (-128 - e) := by positivity
  have hinv : 1 / (FVal.fin s m e).q = (if s then -1 else 1) * ((2 ^ 128 : ℕ) / m * 2 ^ (-128 - e)) := by
    rw [FVal.q_fin, zpow_sub₀ two_ne_zero, zpow_neg]
    cases s <;> push_cast <;> norm_num <;> field_simp
  have habs : |1 / (FVal.fin s m e).q| = (2 ^ 128 : ℕ) / m * 2 ^ (-128 - e) := by
    have : (0 : ℚ) ≤ (2 ^ 128 : ℕ) / m * 2 ^ (-128 - e) := by positivity
    rw [hinv]
    cases s <;> simp only [Bool.false_eq_true, if_false, if_true, one_mul, neg_one_mul, abs_neg, abs_of_nonneg this]
  have hsign : s = decide (1 / (FVal.fin s m e).q < 0) := by
    have : (0 : ℚ) < (2 ^ 128 : ℕ) / m * 2 ^ (-128 - e) := by positivity
    rw [hinv]
    cases s
    · rw [if_neg (by simp), one_mul]; exact (decide_eq_false this.le.not_gt).symm
    · rw [if_pos rfl, neg_one_mul]; exact (decide_eq_true (neg_lt_zero.mpr this)).symm
  have hbig : 2 ^ 25 ≤ 2 ^ 128 / m := (Nat.le_div_iff_mul_le hm).mpr (by nlinarith)
  unfold rcpFin
  dsimp only
  split
  next hex =>
    refine ⟨_, rfl, ?_⟩
    have hround := FFmt.round_roundsTo f32_mem rfl (sg := false) (s := s) (m := 2 ^ 128 / m) (-128 - e) (.inl (by omega))
    have hq : (FVal.fin s (2 ^ 128 / m) (-128 - e)).q = 1 / (FVal.fin s m e).q := by
      have hdiv : ((2 ^ 128 / m : ℕ) : ℚ) = (2 ^ 128 : ℕ) / m := by
        rw [eq_div_iff hmpos.ne']
        exact_mod_cast hex
      rw [hinv, FVal.q_fin, hdiv]
    rwa [hq] at hround
  next hne =>
    refine ⟨_, rfl, round_between f32_mem rfl false hbig hsign ?_ ?_⟩
    · rw [habs]
      refine mul_lt_mul_of_pos_right ((lt_div_iff₀ hmpos).mpr ?_) hpos
      exact_mod_cast lt_of_le_of_ne (Nat.div_mul_le_self (2 ^ 128) m) hne
    · rw [habs]
      refine mul_lt_mul_of_pos_right ((div_lt_iff₀ hmpos).mpr ?_) hpos
      exact_mod_cast (Nat.div_lt_iff_lt_mul hm).mp (Nat.lt_succ_self (2 ^ 128 / m))

/-! ## rsq -/

/-- The digits found so far, and the limit that the digits still to be found keep (R158). -/
theorem isqrtGo_spec (n k r : ℕ) (hle : r * r ≤ n) (hlt : n < (r + 2 ^ k) * (r + 2 ^ k)) :
    isqrtGo n k r * isqrtGo n k r ≤ n ∧ n < (isqrtGo n k r + 1) * (isqrtGo n k r + 1) := by
  induction k generalizing r with
  | zero => exact ⟨hle, by simpa [isqrtGo] using hlt⟩
  | succ k ih =>
    have htwo : r + 2 ^ (k + 1) = r + 2 ^ k + 2 ^ k := by ring
    rw [htwo] at hlt
    unfold isqrtGo
    split
    next h => exact ih _ h hlt
    next h => exact ih _ hle (not_le.mp h)

/-- The significand and the exponent of rsq's operand made even. -/
def evenM (m : ℕ) (e : ℤ) : ℕ := if e % 2 = 0 then m else 2 * m
def evenE (e : ℤ) : ℤ := if e % 2 = 0 then e else e - 1

theorem evenE_eq (e : ℤ) : evenE e = 2 * (evenE e / 2) := by
  unfold evenE
  split <;> omega

theorem even_value (m : ℕ) (e : ℤ) : (evenM m e : ℚ) * 2 ^ evenE e = m * 2 ^ e := by
  unfold evenM evenE
  split
  · rfl
  · rw [zpow_sub_one₀ two_ne_zero]
    push_cast
    ring

/-- The root found: of a's value a, with y the distance 2^d of two neighbours, q y ≤ 1/sqrt a < (q + 1) y; the part rounds q y where it is
the root, else what it knows to lie between. -/
theorem rsqFin_eq {m : ℕ} (e : ℤ) (hm : 0 < m) (hlt : m < 2 ^ 24) : ∃ (q : ℕ) (d : ℤ), 2 ^ 25 ≤ q ∧
    let a : ℚ := m * 2 ^ e
    (a * (q * 2 ^ d) ^ 2 = 1 ∧ rsqFin m e = rne32 (.fin false q d)) ∨
    (a * (q * 2 ^ d) ^ 2 < 1 ∧ 1 < a * ((q + 1) * 2 ^ d) ^ 2 ∧ rsqFin m e = rne32 (between false q d)) := by
  have hM : 0 < evenM m e ∧ evenM m e < 2 ^ 25 := by unfold evenM; split <;> omega
  obtain ⟨hMpos, hMlt⟩ := hM
  have hstart : 2 ^ 256 / evenM m e < (0 + 2 ^ 130) * (0 + 2 ^ 130) :=
    (Nat.div_le_self _ _).trans_lt (by norm_num)
  obtain ⟨hle, hgt⟩ := isqrtGo_spec (2 ^ 256 / evenM m e) 130 0 (Nat.zero_le _) hstart
  have hrsq : rsqFin m e =
      (let q := isqrtGo (2 ^ 256 / evenM m e) 130 0
       let d := -128 - evenE e / 2
       if q * q * evenM m e = 2 ^ 256 then rne32 (.fin false q d) else rne32 (between false q d)) := rfl
  generalize isqrtGo (2 ^ 256 / evenM m e) 130 0 = q at hle hgt hrsq
  have hle' : q * q * evenM m e ≤ 2 ^ 256 := (Nat.le_div_iff_mul_le hMpos).mp hle
  have hgt' : 2 ^ 256 < (q + 1) * (q + 1) * evenM m e := (Nat.div_lt_iff_lt_mul hMpos).mp hgt
  have hunits (r : ℚ) : (m : ℚ) * 2 ^ e * (r * 2 ^ (-128 - evenE e / 2)) ^ 2 = r * r * evenM m e / 2 ^ 256 := by
    have hexp : (2 : ℚ) ^ evenE e = 2 ^ (evenE e / 2) * 2 ^ (evenE e / 2) := by
      rw [← zpow_add₀ two_ne_zero, ← two_mul, ← evenE_eq]
    rw [← even_value, hexp, zpow_sub₀ two_ne_zero, show (-128 : ℤ) = -(128 : ℕ) from rfl, zpow_neg, zpow_natCast]
    field_simp
  have hbig : 2 ^ 25 ≤ q := by
    by_contra hsmall
    have : (q + 1) * (q + 1) * evenM m e ≤ 2 ^ 25 * 2 ^ 25 * 2 ^ 25 :=
      Nat.mul_le_mul (Nat.mul_le_mul (by omega) (by omega)) hMlt.le
    omega
  refine ⟨q, -128 - evenE e / 2, hbig, ?_⟩
  simp only [hunits] at hrsq ⊢
  by_cases h : q * q * evenM m e = 2 ^ 256
  · left
    refine ⟨?_, by rw [hrsq, if_pos h]⟩
    rw [div_eq_one_iff_eq (by positivity)]
    exact_mod_cast h
  · right
    refine ⟨?_, ?_, by rw [hrsq, if_neg h]⟩
    · rw [div_lt_one (by positivity)]
      exact_mod_cast lt_of_le_of_ne hle' h
    · rw [one_lt_div (by positivity)]
      exact_mod_cast hgt'

/-- Of all magnitudes none has its middle with that of code c on the other side of 1/sqrt a, and where such a middle is 1/sqrt a, c is
even: c's is the nearest to 1/sqrt a. -/
def NearestRoot (a : ℚ) (c : ℕ) : Prop :=
  ∀ d, let mid := (f32.mag c + f32.mag d) / 2
    (c < d → 1 ≤ a * mid ^ 2) ∧ (d < c → a * mid ^ 2 ≤ 1) ∧ (a * mid ^ 2 = 1 → d ≠ c → c % 2 = 0)

/-- The code that rsq gives (R158). -/
theorem rsqFin_spec {m : ℕ} (e : ℤ) (hm : 0 < m) (hlt : m < 2 ^ 24) : ∃ c,
    rsqFin m e = (if f32.maxFin < c then f32.infCode else c, decide (f32.maxFin < c)) ∧ NearestRoot (m * 2 ^ e) c := by
  have ha : (0 : ℚ) < m * 2 ^ e := by positivity
  obtain ⟨q, k, hq, hcase⟩ := rsqFin_eq e hm hlt
  have hq0 : 0 < q := by omega
  have hroot : (0 : ℚ) < q * 2 ^ k := by positivity
  have hsq {x y : ℚ} (hx : 0 ≤ x) (hxy : x ≤ y) : (m : ℚ) * 2 ^ e * x ^ 2 ≤ m * 2 ^ e * y ^ 2 :=
    mul_le_mul_of_nonneg_left (pow_le_pow_left₀ hx hxy 2) ha.le
  rcases hcase with ⟨hone, hres⟩ | ⟨hbelow, habove, hres⟩
  · refine ⟨f32.unlimitedCode q k, by rw [hres, rne32, FFmt.round_eq rfl false false hq0]; rfl, fun d => ?_⟩
    have hnear := f32.nearestCode_unlimitedCode hq0 k (by decide)
    obtain ⟨hle, heven⟩ := hnear.mag_nearest d
    generalize f32.unlimitedCode q k = c at hle heven
    have hmid : 0 ≤ (f32.mag c + f32.mag d) / 2 := by have := f32.mag_nonneg c; have := f32.mag_nonneg d; positivity
    rw [← hone]
    refine ⟨fun hd => hsq hroot.le ?_, fun hd => hsq hmid ?_, fun htie hd => heven ?_ hd⟩
    · have := two_mul_le_of_abs_le (f32.mag_strictMono hd) hle
      linarith
    · have := le_two_mul_of_abs_le (f32.mag_strictMono hd) hle
      linarith
    · have heq := (sq_eq_sq₀ hmid hroot.le).mp (mul_left_cancel₀ ha.ne' htie)
      rw [← heq, abs_sub_comm]
      congr 1
      ring
  · obtain ⟨hlo, hhi⟩ := FFmt.middles_between (f := f32) (by decide) hq k
    refine ⟨f32.unlimitedCode (4 * q + 1) (k - 2), by rw [hres, rne32, between, FFmt.round_eq rfl false false (by omega)]; rfl,
      fun d => ?_⟩
    generalize f32.unlimitedCode (4 * q + 1) (k - 2) = c at hlo hhi
    have hmid : 0 ≤ (f32.mag c + f32.mag d) / 2 := by have := f32.mag_nonneg c; have := f32.mag_nonneg d; positivity
    have hup : c < d → 1 < (m : ℚ) * 2 ^ e * ((f32.mag c + f32.mag d) / 2) ^ 2 := fun hd => by
      have hc := hhi c le_rfl
      have hmono := f32.mag_strictMono.monotone (show c + 1 ≤ d from hd)
      exact habove.trans_le (hsq (by positivity) (by linarith))
    have hdown : d < c → (m : ℚ) * 2 ^ e * ((f32.mag c + f32.mag d) / 2) ^ 2 < 1 := fun hd => by
      have hc := hlo (c - 1) (by omega)
      rw [Nat.sub_add_cancel (by omega)] at hc
      have hmono := f32.mag_strictMono.monotone (show d ≤ c - 1 by omega)
      exact (hsq hmid (by linarith)).trans_lt hbelow
    refine ⟨fun hd => (hup hd).le, fun hd => (hdown hd).le, fun htie hd => ?_⟩
    rcases lt_or_gt_of_ne hd with hlt | hgt
    · exact absurd htie (hdown hlt).ne
    · exact absurd htie (hup hgt).ne'

/-- rsq's code is a finite one above 0. -/
theorem rsqFin_finite {m c : ℕ} {e : ℤ} (hlo : (2 : ℚ) ^ (-149 : ℤ) ≤ m * 2 ^ e) (hhi : (m : ℚ) * 2 ^ e < 2 ^ 128)
    (h : NearestRoot (m * 2 ^ e) c) : 0 < c ∧ c ≤ f32.maxFin := by
  constructor
  · by_contra h0
    obtain rfl : c = 0 := by omega
    have hone := (h 1).1 (by omega)
    have hmag : f32.mag 1 = 2 ^ (-149 : ℤ) := by
      norm_num [FFmt.mag, FFmt.sig, FFmt.binade, FFmt.emin, f32]
    rw [f32.mag_zero, hmag] at hone
    have hsq : (0 : ℚ) < ((0 + 2 ^ (-149 : ℤ)) / 2) ^ 2 := by positivity
    have := hone.trans_lt (mul_lt_mul_of_pos_right hhi hsq)
    norm_num at this
  · by_contra hbig
    have hone := (h f32.maxFin).2.1 (not_le.mp hbig)
    have htop := f32.mag_strictMono.monotone (show f32.maxFin + 1 ≤ c from not_le.mp hbig)
    rw [f32_mag_top] at htop
    have hmid : (2 : ℚ) ^ 127 ≤ (f32.mag c + f32.mag f32.maxFin) / 2 := by
      have := f32.mag_nonneg f32.maxFin
      linarith [show (2 : ℚ) ^ 128 = 2 * 2 ^ 127 by norm_num]
    have hsq : ((2 : ℚ) ^ 127) ^ 2 ≤ ((f32.mag c + f32.mag f32.maxFin) / 2) ^ 2 := pow_le_pow_left₀ (by positivity) hmid 2
    have := (mul_le_mul hlo hsq (by positivity) (by positivity)).trans hone
    norm_num at this

/-! ## exp2 and log2: which value is rounded -/

theorem FVal.cmp_fin (s t : Bool) (m n : ℕ) (e d : ℤ) : cmp (fin s m e) (fin t n d) =
    if (fin s m e).q < (fin t n d).q then -1 else if (fin s m e).q = (fin t n d).q then 0 else 1 := by
  have hne (u : Bool) (k : ℕ) (g : ℤ) : fin u k g ≠ nan := by simp
  obtain ⟨hbelow, hequal, habove⟩ := cmp_spec (hne s m e) (hne t n d)
  rw [below_fin] at hbelow habove
  rw [equal_fin] at hequal
  split_ifs with hlt heq
  · exact hbelow.mpr hlt
  · exact hequal.mpr heq
  · exact habove.mpr (lt_of_le_of_ne (not_lt.mp hlt) (Ne.symm heq))

theorem FVal.cmp_fin_nonneg (s t : Bool) (m n : ℕ) (e d : ℤ) :
    0 ≤ cmp (fin s m e) (fin t n d) ↔ (fin t n d).q ≤ (fin s m e).q := by
  rw [cmp_fin]
  split_ifs with hlt heq
  · simpa using hlt
  · simpa using heq.ge
  · simpa using not_lt.mp hlt

theorem FVal.cmp_fin_nonpos (s t : Bool) (m n : ℕ) (e d : ℤ) :
    cmp (fin s m e) (fin t n d) ≤ 0 ↔ (fin s m e).q ≤ (fin t n d).q := by
  rw [cmp_fin]
  split_ifs with hlt heq
  · simpa using hlt.le
  · simpa using heq.le
  · simpa using lt_of_le_of_ne (not_lt.mp hlt) (Ne.symm heq)

/-- A value in units of 2^-160: its whole part and its fraction. -/
theorem exists_whole_fraction {s : Bool} {m : ℕ} {e : ℤ} (he : -160 ≤ e) : let x := FVal.alignTo (-160) (.fin s m e)
    (Int.fmod x (2 ^ 160)).toNat < 2 ^ 160 ∧
      (FVal.fin s m e).q = Int.fdiv x (2 ^ 160) + ((Int.fmod x (2 ^ 160)).toNat : ℚ) / 2 ^ 160 := by
  intro x
  have hx : (x : ℚ) * 2 ^ (-160 : ℤ) = (FVal.fin s m e).q := by
    have h := FVal.q_onGrid s m he
    rwa [show FVal.toInt s (m * 2 ^ (e - -160).toNat) = x by rw [show x = FVal.alignTo _ _ from rfl, FVal.alignTo, if_pos he]] at h
  have hmod := Int.emod_add_mul_ediv x (2 ^ 160)
  have hnonneg := Int.emod_nonneg x (show (2 ^ 160 : ℤ) ≠ 0 by norm_num)
  have hlt := Int.emod_lt_of_pos x (show (0 : ℤ) < 2 ^ 160 by norm_num)
  rw [Int.fdiv_eq_ediv_of_nonneg _ (by norm_num), Int.fmod_eq_emod_of_nonneg _ (by norm_num)]
  refine ⟨by omega, ?_⟩
  have hcast : ((x % 2 ^ 160).toNat : ℚ) = ((x % 2 ^ 160 : ℤ) : ℚ) := by exact_mod_cast Int.toNat_of_nonneg hnonneg
  rw [hcast, ← hx]
  generalize x % 2 ^ 160 = r at *
  generalize x / 2 ^ 160 = n at *
  rw [← hmod, show (-160 : ℤ) = -(160 : ℕ) from rfl, zpow_neg, zpow_natCast]
  push_cast
  field_simp
  ring

/-- exp2 past its limits, and between them the whole part and the fraction of the operand (R158). -/
theorem exp2Fin_eq {s : Bool} {m : ℕ} {e : ℤ} (he : -149 ≤ e) : let a := (FVal.fin s m e).q
    (128 ≤ a → exp2Fin s m e = (f32.infCode, true)) ∧ (a ≤ -150 → exp2Fin s m e = (0, false)) ∧
    (-150 < a → a < 128 → ∃ (n : ℤ) (φ : ℕ), φ < 2 ^ 160 ∧ a = n + φ / 2 ^ 160 ∧
      exp2Fin s m e = if φ = 0 then rne32 (.fin false 1 n)
        else rne32 (between false (expGo (φ * ln2Fix / 2 ^ 160) 64 1 (2 ^ 256) (2 ^ 256)) (n - 256))) := by
  intro a
  have hbig : FVal.cmp (.fin s m e) (.fin false 128 0) ≥ 0 ↔ 128 ≤ a := by
    rw [ge_iff_le, FVal.cmp_fin_nonneg, show (FVal.fin false 128 0).q = 128 by norm_num [FVal.q_fin]]
  have hsmall : FVal.cmp (.fin s m e) (.fin true 150 0) ≤ 0 ↔ a ≤ -150 := by
    rw [FVal.cmp_fin_nonpos, show (FVal.fin true 150 0).q = -150 by norm_num [FVal.q_fin]]
  have hzero : m = 0 → a = 0 := by
    rintro rfl
    show (FVal.fin s 0 e).q = 0
    rw [FVal.q_fin, Nat.cast_zero, zero_mul, mul_zero]
  refine ⟨fun h => ?_, fun h => ?_, fun hlo hhi => ?_⟩
  · have hm : m ≠ 0 := fun h0 => by rw [hzero h0] at h; norm_num at h
    rw [exp2Fin, if_neg hm]
    exact if_pos (hbig.mpr h)
  · have hm : m ≠ 0 := fun h0 => by rw [hzero h0] at h; norm_num at h
    rw [exp2Fin, if_neg hm]
    dsimp only
    rw [if_neg (by rw [hbig]; linarith), if_pos (hsmall.mpr h)]
  · rcases eq_or_ne m 0 with hm | hm
    · refine ⟨0, 0, by norm_num, by rw [hzero hm]; norm_num, ?_⟩
      rw [exp2Fin, if_pos hm, if_pos rfl]
      decide
    · obtain ⟨hφ, ha⟩ := exists_whole_fraction (s := s) (m := m) (show -160 ≤ e by omega)
      refine ⟨_, _, hφ, ha, ?_⟩
      rw [exp2Fin, if_neg hm]
      dsimp only
      rw [if_neg (by rw [hbig]; linarith), if_neg (by rw [hsmall]; linarith)]

/-- A power of two rounds to itself. -/
theorem log2Fin_two_zpow {m : ℕ} {e n : ℤ} (h : (m : ℚ) * 2 ^ e = 2 ^ n) : log2Fin m e = rne32 (FVal.ofInt n) := by
  have hm : (m : ℚ) = 2 ^ (n - e) := by rw [zpow_sub₀ two_ne_zero, eq_div_iff (by positivity), h]
  have hle : 0 ≤ n - e := by
    by_contra hneg
    have hlt : (m : ℚ) < 1 := hm ▸ zpow_lt_one_of_neg₀ one_lt_two (by omega)
    have hpos : (0 : ℚ) < m := by rw [hm]; positivity
    have h0 : m = 0 := Nat.lt_one_iff.mp (by exact_mod_cast hlt)
    rw [h0, Nat.cast_zero] at hpos
    exact lt_irrefl _ hpos
  obtain ⟨k, hk⟩ : ∃ k : ℕ, n - e = k := Int.eq_ofNat_of_zero_le hle
  obtain rfl : m = 2 ^ k := by
    rw [hk, zpow_natCast] at hm
    exact_mod_cast hm
  have hn : (k : ℤ) + e = n := by omega
  rw [log2Fin]
  dsimp only
  rw [Nat.log2_two_pow, if_pos rfl, hn]

/-- A whole operand has no fraction. -/
theorem fraction_eq_zero {n k : ℤ} {φ : ℕ} (hφ : φ < 2 ^ 160) (h : (n : ℚ) = k + φ / 2 ^ 160) : φ = 0 ∧ k = n := by
  have hφ' : (φ : ℚ) / 2 ^ 160 < 1 := (div_lt_one (by positivity)).mpr (by exact_mod_cast hφ)
  have hpos : (0 : ℚ) ≤ φ / 2 ^ 160 := by positivity
  have hle : k ≤ n := by exact_mod_cast (show (k : ℚ) ≤ n by linarith)
  have hge : n < k + 1 := by exact_mod_cast (show (n : ℚ) < k + 1 by linarith)
  obtain rfl : k = n := by omega
  refine ⟨?_, rfl⟩
  have hzero : (φ : ℚ) / 2 ^ 160 = 0 := by linarith
  simpa using hzero

/-! ## The statement -/

theorem fv_of_isFin {w : Word} (h : (fv w).isFin = true) : ∃ s m e, fv w = .fin s m e ∧ m < 2 ^ 24 ∧ -149 ≤ e := by
  obtain ⟨s, m, e, hw⟩ := FVal.isFin_iff.mp h
  obtain ⟨hm, he, -⟩ := fv_fin hw
  exact ⟨s, m, e, hw, hm, he⟩

theorem rne32_roundsTo {s : Bool} {m : ℕ} (e : ℤ) (h : m ≠ 0 ∨ s = false) :
    RoundsTo f32 s (FVal.fin s m e).q (rne32 (.fin s m e)).1 (rne32 (.fin s m e)).2 :=
  FFmt.round_roundsTo f32_mem rfl e (h.imp_right .inr)

/-- A function that rounds a value which f32 holds gives that value. -/
theorem fv_rne32_exact {s : Bool} {q : ℚ} {v : FVal} (h : RoundsTo f32 s q (rne32 v).1 (rne32 v).2)
    (hd : ∃ d, d ≤ f32.maxFin ∧ f32.mag d = |q|) :
    (rne32 v).2 = false ∧ (fv (wd (rne32 v).1)).isFin = true ∧ (fv (wd (rne32 v).1)).q = q := by
  obtain ⟨d, hd, hmag⟩ := hd
  have hw : fv (wd (rne32 v).1) = f32.decode (rne32 v).1 := congrArg f32.decode (toNat_wd_round false false v)
  rw [hw]
  exact h.exact f32_mem hd hmag.symm

theorem abs_two_zpow (n : ℤ) : |(2 : ℚ) ^ n| = 2 ^ n := abs_of_pos (by positivity)

/-- The exponents of the powers of two that a word stands for. -/
theorem exponent_mem {w : Word} {s : Bool} {m : ℕ} {e n : ℤ} (h : fv w = .fin s m e) (hq : (m : ℚ) * 2 ^ e = 2 ^ n) :
    -149 ≤ n ∧ n ≤ 127 := by
  have hm : 0 < m := Nat.pos_of_ne_zero fun h0 => by
    rw [h0, Nat.cast_zero, zero_mul] at hq
    exact absurd hq.symm (by positivity)
  obtain ⟨hlo, hhi⟩ := fv_magnitude h hm
  rw [hq] at hlo hhi
  have h1 := (zpow_le_zpow_iff_right₀ (one_lt_two (α := ℚ))).mp hlo
  rw [← zpow_natCast] at hhi
  have h2 := (zpow_lt_zpow_iff_right₀ (one_lt_two (α := ℚ))).mp hhi
  push_cast at h2
  omega

/-- A positive value has no sign. -/
theorem positive_parts {s : Bool} {m : ℕ} {e : ℤ} (h : 0 < (FVal.fin s m e).q) :
    s = false ∧ 0 < m ∧ (FVal.fin s m e).q = m * 2 ^ e := by
  rw [FVal.q_fin] at h ⊢
  have hpos : (0 : ℚ) < 2 ^ e := by positivity
  cases s
  · rw [if_neg (by simp), one_mul] at h ⊢
    exact ⟨rfl, by exact_mod_cast (mul_pos_iff_of_pos_right hpos).mp h, rfl⟩
  · rw [if_pos rfl, neg_one_mul, neg_pos] at h
    exact absurd h (by positivity : (0 : ℚ) ≤ m * 2 ^ e).not_gt

theorem negative_parts {s : Bool} {m : ℕ} {e : ℤ} (h : (FVal.fin s m e).q < 0) :
    s = true ∧ 0 < m ∧ (m : ℚ) * 2 ^ e = -(FVal.fin s m e).q := by
  rw [FVal.q_fin] at h ⊢
  have hpos : (0 : ℚ) < 2 ^ e := by positivity
  cases s
  · rw [if_neg (by simp), one_mul] at h
    exact absurd h (by positivity : (0 : ℚ) ≤ m * 2 ^ e).not_gt
  · rw [if_pos rfl, neg_one_mul] at h ⊢
    exact ⟨rfl, by exact_mod_cast (mul_pos_iff_of_pos_right hpos).mp (neg_lt_zero.mp h), (neg_neg _).symm⟩

theorem log2R_pos {m : ℕ} (hm : 0 < m) (e : ℤ) : log2R (.fin false m e) = log2Fin m e := by simp [log2R, hm.ne']

theorem rcpR_fin (s : Bool) {m : ℕ} (hm : 0 < m) (e : ℤ) : rcpR (.fin s m e) = rcpFin s m e := if_neg hm.ne'

theorem rsqR_pos {m : ℕ} (hm : 0 < m) (e : ℤ) : rsqR (.fin false m e) = rsqFin m e := by simp [rsqR, hm.ne']

/-- rsq of a positive word: a finite word above 0, of the code nearest to 1/sqrt a. -/
theorem rsqR_spec {w : Word} {m : ℕ} {e : ℤ} (hw : fv w = .fin false m e) (hm : 0 < m) : ∃ c, c ≤ f32.maxFin ∧
    rsqR (fv w) = (c, false) ∧ (wd c).toNat = c ∧ (fv (wd c)).isFin = true ∧ 0 < (fv (wd c)).q ∧ (fv (wd c)).q = f32.mag c ∧
    NearestRoot (m * 2 ^ e) c := by
  obtain ⟨c, hres, hnear⟩ := rsqFin_spec e hm (fv_fin hw).1
  obtain ⟨hlo, hhi⟩ := fv_magnitude hw hm
  obtain ⟨hpos, hc⟩ := rsqFin_finite hlo hhi hnear
  obtain ⟨hfin, -, hq⟩ := fv_withSign false hc
  rw [if_neg (by simp), one_mul] at hq
  have hmag : 0 < f32.mag c := (f32.mag_zero).symm.trans_lt (f32.mag_strictMono hpos)
  have hlt : c < 2 ^ 32 := (hc.trans_lt (FFmt.codes_lt_signBit f32_mem).1).trans (by decide)
  refine ⟨c, hc, ?_, by rw [toNat_wd, Nat.mod_eq_of_lt hlt], hfin, hmag.trans_eq hq.symm, hq, hnear⟩
  rw [hw, rsqR_pos hm, hres, if_neg hc.not_gt, decide_eq_false hc.not_gt]

theorem root_two_zpow (n : ℤ) : (2 : ℚ) ^ (2 * n) * (2 ^ (-n)) ^ 2 = 1 := by
  rw [← zpow_natCast, ← zpow_mul, ← zpow_add₀ two_ne_zero, show 2 * n + -n * (2 : ℕ) = 0 by push_cast; ring, zpow_zero]

/-- Where 1/sqrt a is a code's magnitude, the nearest code is that one. -/
theorem eq_of_root {a : ℚ} {c d : ℕ} (hroot : a * f32.mag d ^ 2 = 1) (h : NearestRoot a c) : c = d := by
  have ha : 0 < a := by
    by_contra hneg
    have := mul_nonpos_of_nonpos_of_nonneg (not_lt.mp hneg) (sq_nonneg (f32.mag d))
    linarith
  have hc := f32.mag_nonneg c
  have hd := f32.mag_nonneg d
  obtain ⟨hup, hdown, -⟩ := h d
  rcases lt_trichotomy c d with hlt | heq | hgt
  · have hmag := f32.mag_strictMono hlt
    have hsq := mul_lt_mul_of_pos_left
      (pow_lt_pow_left₀ (show (f32.mag c + f32.mag d) / 2 < f32.mag d by linarith) (by positivity) two_ne_zero) ha
    exact absurd (hup hlt) (by rw [not_le]; linarith)
  · exact heq
  · have hmag := f32.mag_strictMono hgt
    have hsq := mul_lt_mul_of_pos_left
      (pow_lt_pow_left₀ (show f32.mag d < (f32.mag c + f32.mag d) / 2 by linarith) (by positivity) two_ne_zero) ha
    exact absurd (hdown hgt) (by rw [not_le]; linarith)

/-- Settles O13: special operands by the functions' first cases, exact results by what rounds to itself, rcp and rsq by their roundings. -/
theorem floatFunctionResults : Obligations.FloatFunctionResults := by
  intro s f src popped x h a is exact
  have his {i : Instr} (g : FVal → FRes) (v : FRes) {w : Word} (hi : exec i s = runA f s fun y => y.fp (g (fv y.a)))
      (hw : isWaitingCommand i = false) (hg : g a = v) (hv : wd v.1 = w) : is i w v.2 := by
    refine yields_of_runA h _ hi hw ?_
    rw [show g (fv src.a) = v from hg]
    exact ⟨hv, rfl⟩
  have hexact {i : Instr} {q : ℚ} {sg : Bool} {v : FVal} (g : FVal → FRes) (hi : exec i s = runA f s fun y => y.fp (g (fv y.a)))
      (hw : isWaitingCommand i = false) (hg : g a = rne32 v) (hr : RoundsTo f32 sg q (rne32 v).1 (rne32 v).2)
      (hd : ∃ d, d ≤ f32.maxFin ∧ f32.mag d = |q|) : exact i q := by
    obtain ⟨hexc, hfin, hq⟩ := fv_rne32_exact hr hd
    refine yields_of_runA h _ hi hw ?_
    rw [show g (fv src.a) = rne32 v from hg]
    exact ⟨hfin, hq, by rw [Src.fp, hexc]; exact Bool.or_false _⟩
  refine ⟨⟨_, _, _, _, written_of_runA h (g := rExp2) rfl, written_of_runA h (g := rRcp) rfl, written_of_runA h (g := rLog2) rfl,
    written_of_runA h (g := rRsq) rfl⟩, fun ha => ?_, fun ha => ?_, fun ha => ?_, fun ha => ?_, fun hneg hfin => ?_, fun hfin hq => ?_,
    fun n hfin hq hlo hhi => ?_, fun n hfin hq => ?_, fun n hfin hq hlo => ?_, fun n hfin hq hlo => ?_, fun n hfin hq => ?_,
    fun hfin hz => ?_, fun hfin hq => ?_⟩
  · exact ⟨his exp2R nanRes rfl rfl (by rw [ha]; rfl) rfl, his log2R nanRes rfl rfl (by rw [ha]; rfl) rfl,
      his rcpR nanRes rfl rfl (by rw [ha]; rfl) rfl, his rsqR nanRes rfl rfl (by rw [ha]; rfl) rfl⟩
  · exact ⟨his exp2R (f32.infCode, false) rfl rfl (by rw [ha]; rfl) rfl, his log2R (f32.infCode, false) rfl rfl (by rw [ha]; rfl) rfl,
      his rcpR (f32.withSign false 0, false) rfl rfl (by rw [ha]; rfl) rfl, his rsqR (0, false) rfl rfl (by rw [ha]; rfl) rfl⟩
  · exact ⟨his exp2R (0, false) rfl rfl (by rw [ha]; rfl) rfl, his log2R nanRes rfl rfl (by rw [ha]; rfl) rfl,
      his rcpR (f32.withSign true 0, false) rfl rfl (by rw [ha]; rfl) rfl, his rsqR nanRes rfl rfl (by rw [ha]; rfl) rfl⟩
  · obtain ⟨sg, m, e, hv⟩ := FVal.isFin_iff.mp (FVal.isFin_of_isZero ha)
    rw [hv] at ha ⊢
    obtain rfl : m = 0 := by simpa [FVal.isZero] using ha
    have hinf : wd (f32.withSign sg f32.infCode) = if sg then 0xFF800000 else 0x7F800000 := by cases sg <;> rfl
    exact ⟨his exp2R (f32.bias * 2 ^ 23, false) rfl rfl (by rw [hv]; rfl) rfl,
      his log2R (f32.withSign true f32.infCode, true) rfl rfl (by rw [hv]; rfl) rfl,
      his rcpR (f32.withSign sg f32.infCode, true) rfl rfl (by rw [hv]; rfl) hinf,
      his rsqR (f32.withSign sg f32.infCode, true) rfl rfl (by rw [hv]; rfl) hinf⟩
  · obtain ⟨sg, m, e, hv⟩ := FVal.isFin_iff.mp hfin
    rw [hv] at hneg
    obtain ⟨rfl, hm⟩ : sg = true ∧ m ≠ 0 := by simpa [FVal.isNeg] using hneg
    exact ⟨his log2R nanRes rfl rfl (by rw [hv]; simp [log2R, hm]) rfl, his rsqR nanRes rfl rfl (by rw [hv]; simp [rsqR, hm]) rfl⟩
  · obtain ⟨sg, m, e, hv, -, he⟩ := fv_of_isFin hfin
    have hv : a = .fin sg m e := hv
    rw [hv] at hq
    exact his exp2R (f32.infCode, true) rfl rfl (by rw [hv]; exact (exp2Fin_eq he).1 hq) rfl
  · obtain ⟨sg, m, e, hv, -, he⟩ := fv_of_isFin hfin
    have hv : a = .fin sg m e := hv
    rw [hv] at hq
    have hlo' : (-149 : ℚ) ≤ n := by exact_mod_cast hlo
    have hhi' : (n : ℚ) ≤ 127 := by exact_mod_cast hhi
    obtain ⟨k, φ, hφ, hk, hexp⟩ := (exp2Fin_eq (s := sg) (m := m) he).2.2 (by rw [hq]; linarith) (by rw [hq]; linarith)
    obtain ⟨rfl, rfl⟩ := fraction_eq_zero hφ (hq.symm.trans hk)
    have hr := rne32_roundsTo (s := false) (m := 1) k (.inr rfl)
    rw [FVal.q_fin, if_neg (by simp), one_mul, Nat.cast_one, one_mul] at hr
    exact hexact exp2R rfl rfl (by rw [hv]; exact hexp.trans (if_pos rfl)) hr (by rw [abs_two_zpow]; exact exists_mag_two_zpow hlo hhi)
  · obtain ⟨sg, m, e, hv⟩ := FVal.isFin_iff.mp hfin
    have hv : a = .fin sg m e := hv
    rw [hv] at hq
    obtain ⟨rfl, hm, hmag⟩ := positive_parts (hq.trans_gt (by positivity))
    rw [hmag] at hq
    obtain ⟨hlo, hhi⟩ := exponent_mem hv hq
    have habs : |n| ≤ 149 := abs_le.mpr ⟨hlo, by omega⟩
    obtain ⟨-, hround⟩ := rne32_ofInt (habs.trans (by norm_num))
    have hr : RoundsTo f32 (decide (n < 0)) n (rne32 (FVal.ofInt n)).1 (rne32 (FVal.ofInt n)).2 := by
      rwa [(rne32_ofInt (habs.trans (by norm_num))).1]
    refine hexact log2R rfl rfl (by rw [hv, log2R_pos hm, log2Fin_two_zpow hq]) hr ?_
    have hnat : (n.natAbs : ℚ) = |(n : ℚ)| := by rw [Nat.cast_natAbs, Int.cast_abs]
    have hsmall : n.natAbs ≤ 149 := by omega
    have hlt : ((n.natAbs : ℕ) : ℚ) * 2 ^ (0 : ℤ) < f32.mag (f32.maxFin + 1) := by
      rw [f32_mag_top, zpow_zero, mul_one]
      exact lt_of_le_of_lt (by exact_mod_cast hsmall : (n.natAbs : ℚ) ≤ 149) (by norm_num)
    obtain ⟨d, hd, hmag⟩ := FFmt.exists_mag (f := f32) (hsmall.trans_lt (by decide)) (by decide) hlt
    exact ⟨d, hd, by rw [hmag, zpow_zero, mul_one, hnat]⟩
  · obtain ⟨sg, m, e, hv, hlt, -⟩ := fv_of_isFin hfin
    have hv : a = .fin sg m e := hv
    rw [hv] at hq
    obtain ⟨rfl, hm, hmag⟩ := positive_parts (hq.trans_gt (by positivity))
    obtain ⟨v, hres, hr⟩ := rcpFin_spec false e hm hlt
    rw [hq, one_div, ← zpow_neg] at hr
    refine hexact rcpR rfl rfl (by rw [hv, rcpR_fin _ hm, hres]) hr ?_
    rw [abs_two_zpow]
    exact exists_mag_two_zpow (by have := (exponent_mem hv (hmag.symm.trans hq)).2; omega) (by omega)
  · obtain ⟨sg, m, e, hv, hlt, -⟩ := fv_of_isFin hfin
    have hv : a = .fin sg m e := hv
    rw [hv] at hq
    obtain ⟨rfl, hm, hmag⟩ := negative_parts (hq.trans_lt (neg_lt_zero.mpr (by positivity)))
    obtain ⟨v, hres, hr⟩ := rcpFin_spec true e hm hlt
    rw [hq, one_div, inv_neg, ← zpow_neg] at hr
    refine hexact rcpR rfl rfl (by rw [hv, rcpR_fin _ hm, hres]) hr ?_
    rw [abs_neg, abs_two_zpow]
    exact exists_mag_two_zpow (by have := (exponent_mem hv (hmag.trans (by rw [hq, neg_neg]))).2; omega) (by omega)
  · obtain ⟨sg, m, e, hv, hlt, -⟩ := fv_of_isFin hfin
    have hv : a = .fin sg m e := hv
    rw [hv] at hq
    obtain ⟨rfl, hm, hmag⟩ := positive_parts (hq.trans_gt (by positivity))
    obtain ⟨c, hc, hres, -, hfin, -, hval, hnear⟩ := rsqR_spec hv hm
    have hexp := exponent_mem hv (hmag.symm.trans hq)
    obtain ⟨d, hd, hroot⟩ := exists_mag_two_zpow (n := -n) (by omega) (by omega)
    have hcd : c = d := eq_of_root (a := m * 2 ^ e) (by rw [hroot, ← hmag, hq]; exact root_two_zpow n) hnear
    refine yields_of_runA h rRsq rfl rfl ?_
    rw [show rRsq src = src.fp (c, false) from congrArg src.fp hres]
    exact ⟨hfin, by rw [← hroot, ← hcd]; exact hval, Bool.or_false _⟩
  · obtain ⟨sg, m, e, hv, hlt, -⟩ := fv_of_isFin hfin
    have hv : a = .fin sg m e := hv
    have hm : 0 < m := Nat.pos_of_ne_zero fun h0 => by rw [hv, h0] at hz; cases hz
    obtain ⟨v, hres, hr⟩ := rcpFin_spec sg e hm hlt
    refine ⟨rRcp src, (rne32 v).2, gives_of_runA h rRcp rfl rfl, ?_, ?_⟩
    · rw [show rRcp src = src.fp (rne32 v) from congrArg src.fp (by rw [← hres, ← rcpR_fin sg hm, ← hv]), hv]
      show RoundsTo f32 sg _ (wd (rne32 v).1).toNat _
      rwa [show (wd (rne32 v).1).toNat = (rne32 v).1 from toNat_wd_round false false v]
    · rw [show rRcp src = src.fp (rne32 v) from congrArg src.fp (by rw [← hres, ← rcpR_fin sg hm, ← hv])]
      rfl
  · obtain ⟨sg, m, e, hv, hlt, -⟩ := fv_of_isFin hfin
    have hv : a = .fin sg m e := hv
    rw [hv] at hq
    obtain ⟨rfl, hm, hmag⟩ := positive_parts hq
    obtain ⟨c, hc, hres, hword, hfin, hpos, hval, hnear⟩ := rsqR_spec hv hm
    refine yields_of_runA h rRsq rfl rfl ?_
    rw [show rRsq src = src.fp (c, false) from congrArg src.fp hres]
    refine ⟨hfin, hpos, Bool.or_false _, fun k _ hk hk0 => ?_⟩
    have hq' : (f32.decode k).q = f32.mag (k % f32.signBit) := by
      rw [← FFmt.abs_q_decode (FFmt.regular_of_mem f32_mem) hk, abs_of_nonneg hk0]
    obtain ⟨hup, hdown, htie⟩ := hnear (k % f32.signBit)
    have hval' : (fv (src.fp (c, false)).r).q = f32.mag c := hval
    rw [hval', hq', hv, hmag, f32.mag_strictMono.lt_iff_lt, f32.mag_strictMono.lt_iff_lt]
    exact ⟨hup, hdown, fun heq hne => by
      show (wd c).toNat % 2 = 0
      rw [hword]
      exact htie heq fun hkc => hne (by rw [hkc])⟩

end Sys2Proof.Machine
end

section
/-! SUPPORT. The series that exp2 and log2 are computed by, in units of 2^-256, against exp and log (spec/09_instr_scalar_vector.md R158):
Obligations.ExpAndLogAccuracy. -/

namespace Sys2Proof.Machine

/-- A quotient rounded down lies at most 1 below. -/
theorem natDiv_bounds (a : ℕ) {b : ℕ} (hb : 0 < b) : (a : ℝ) / b - 1 ≤ (a / b : ℕ) ∧ ((a / b : ℕ) : ℝ) ≤ a / b := by
  refine ⟨?_, Nat.cast_div_le⟩
  have hb' : (0 : ℝ) < b := by exact_mod_cast hb
  rw [sub_le_iff_le_add, div_le_iff₀ hb']
  exact_mod_cast (Nat.lt_mul_of_div_lt (Nat.lt_succ_self (a / b)) hb).le

theorem natDiv_error (a : ℕ) {b : ℕ} (hb : 0 < b) : |((a / b : ℕ) : ℝ) - a / b| ≤ 1 := by
  obtain ⟨hlo, hhi⟩ := natDiv_bounds a hb
  exact abs_le.mpr ⟨by linarith, by linarith⟩

/-! ## The exponential series -/

theorem expGo_zero (y k t sum : ℕ) : expGo y 0 k t sum = sum := rfl

/-- The recursion's equation, read off its definition: Lean's own one is too deep for the kernel. -/
theorem expGo_succ (y n k t sum : ℕ) :
    expGo y (n + 1) k t sum = expGo y n (k + 1) (t * y / (k * 2 ^ 256)) (sum + t * y / (k * 2 ^ 256)) := by
  delta expGo
  rfl

section
variable {y : ℕ} {Y : ℝ} (hy : (y : ℝ) = Y * 2 ^ 256) (hY : 0 ≤ Y) (hY' : Y ≤ 3 / 4)
include hy hY hY'

/-- A computed term within 4 units of the exact one is followed by another. -/
theorem expTerm_error {k t : ℕ} {T : ℝ} (hk : 1 ≤ k) (ht : |(t : ℝ) - 2 ^ 256 * T| ≤ 4) :
    |((t * y / (k * 2 ^ 256) : ℕ) : ℝ) - 2 ^ 256 * (T * Y / k)| ≤ 4 := by
  have hk1 : (1 : ℝ) ≤ k := by exact_mod_cast hk
  have hfloor := natDiv_error (t * y) (b := k * 2 ^ 256) (by positivity)
  have hquot : ((t * y : ℕ) : ℝ) / (k * 2 ^ 256 : ℕ) = t * Y / k := by
    rw [Nat.cast_mul, Nat.cast_mul, hy, Nat.cast_pow, Nat.cast_ofNat]
    field_simp
  rw [hquot] at hfloor
  have hscale : |(t : ℝ) * Y / k - 2 ^ 256 * (T * Y / k)| ≤ 3 := by
    have heq : (t : ℝ) * Y / k - 2 ^ 256 * (T * Y / k) = (t - 2 ^ 256 * T) * (Y / k) := by ring
    have hratio : Y / k ≤ 3 / 4 := (div_le_self hY hk1).trans hY'
    rw [heq, abs_mul, abs_of_nonneg (by positivity : 0 ≤ Y / k)]
    calc _ ≤ 4 * (3 / 4) := mul_le_mul ht hratio (by positivity) (by norm_num)
      _ = 3 := by norm_num
  calc _ ≤ _ + _ := abs_sub_le _ ((t : ℝ) * Y / k) _
    _ ≤ 1 + 3 := add_le_add hfloor hscale
    _ = 4 := by norm_num

/-- Of n terms the sum lies within 4 n units of the exact one. -/
theorem expGo_error (n k t sum : ℕ) (ht : |(t : ℝ) - 2 ^ 256 * (Y ^ k / k.factorial)| ≤ 4) :
    |(expGo y n (k + 1) t sum : ℝ) - (sum + 2 ^ 256 * ∑ j ∈ Finset.range n, Y ^ (k + 1 + j) / (k + 1 + j).factorial)| ≤
      4 * (n : ℝ) := by
  induction n generalizing k t sum with
  | zero => simp [expGo_zero]
  | succ n ih =>
    have hterm := expTerm_error hy hY hY' (show 1 ≤ k + 1 by omega) ht
    have hfact : Y ^ k / k.factorial * Y / (k + 1 : ℕ) = Y ^ (k + 1) / (k + 1).factorial := by
      rw [Nat.factorial_succ]
      push_cast
      field_simp
      ring
    rw [hfact] at hterm
    have hrest := ih (k + 1) _ (sum + t * y / ((k + 1) * 2 ^ 256)) hterm
    rw [expGo_succ]
    have hsum : ∑ j ∈ Finset.range (n + 1), Y ^ (k + 1 + j) / ((k + 1 + j).factorial : ℝ) =
        ∑ j ∈ Finset.range n, Y ^ (k + 1 + 1 + j) / ((k + 1 + 1 + j).factorial : ℝ) + Y ^ (k + 1) / ((k + 1).factorial : ℝ) := by
      rw [Finset.sum_range_succ', add_zero]
      simp only [add_assoc, add_comm 1]
    rw [hsum]
    rw [abs_le] at hrest hterm ⊢
    push_cast at hrest hterm ⊢
    constructor <;> linarith [hrest.1, hrest.2, hterm.1, hterm.2]

end

/-! ## The series of the logarithm -/

theorem atanhGo_succ (z2 n k t sum : ℕ) :
    atanhGo z2 (n + 1) k t sum = atanhGo z2 n (k + 2) (t * z2 / 2 ^ 256) (sum + t / k) := rfl

section
variable {z2 : ℕ} {w : ℝ} (hz : |(z2 : ℝ) - 2 ^ 256 * w ^ 2| ≤ 2) (hw : 0 ≤ w) (hw' : w ≤ 1 / 3)
include hz hw hw'

/-- A computed power within 2 units of the exact one is followed by another. -/
theorem atanhTerm_error {k t : ℕ} (hk : 1 ≤ k) (ht : |(t : ℝ) - 2 ^ 256 * w ^ k| ≤ 2) :
    |((t * z2 / 2 ^ 256 : ℕ) : ℝ) - 2 ^ 256 * w ^ (k + 2)| ≤ 2 := by
  have hfloor := natDiv_error (t * z2) (b := 2 ^ 256) (by positivity)
  have hpow : w ^ k ≤ 1 / 3 := (pow_le_of_le_one hw (hw'.trans (by norm_num)) (by omega)).trans hw'
  have hz2 : (z2 : ℝ) / 2 ^ 256 ≤ 1 / 6 := by
    have hsq : w ^ 2 ≤ 1 / 9 := by nlinarith
    rw [div_le_iff₀ (by positivity)]
    have := (abs_le.mp hz).2
    norm_num at this ⊢
    linarith
  have hsplit : ((t * z2 : ℕ) : ℝ) / (2 ^ 256 : ℕ) - 2 ^ 256 * w ^ (k + 2) =
      (t - 2 ^ 256 * w ^ k) * (z2 / 2 ^ 256) + w ^ k * (z2 - 2 ^ 256 * w ^ 2) := by
    push_cast
    field_simp
    ring
  have hscale : |((t * z2 : ℕ) : ℝ) / (2 ^ 256 : ℕ) - 2 ^ 256 * w ^ (k + 2)| ≤ 1 := by
    rw [hsplit]
    have hfst : |(t - 2 ^ 256 * w ^ k) * (z2 / 2 ^ 256)| ≤ 2 * (1 / 6) := by
      rw [abs_mul, abs_of_nonneg (by positivity : (0 : ℝ) ≤ z2 / 2 ^ 256)]
      exact mul_le_mul ht hz2 (by positivity) (by norm_num)
    have hsnd : |w ^ k * (z2 - 2 ^ 256 * w ^ 2)| ≤ 1 / 3 * 2 := by
      rw [abs_mul, abs_of_nonneg (by positivity : 0 ≤ w ^ k)]
      exact mul_le_mul hpow hz (abs_nonneg _) (by norm_num)
    exact ((abs_add_le _ _).trans (add_le_add hfst hsnd)).trans (by norm_num)
  calc _ ≤ _ + _ := abs_sub_le _ (((t * z2 : ℕ) : ℝ) / (2 ^ 256 : ℕ)) _
    _ ≤ 1 + 1 := add_le_add hfloor hscale
    _ = 2 := by norm_num

/-- Of n terms the sum lies within 3 n units of the exact one. -/
theorem atanhGo_error (n k t sum : ℕ) (hk : 1 ≤ k) (ht : |(t : ℝ) - 2 ^ 256 * w ^ k| ≤ 2) :
    |(atanhGo z2 n k t sum : ℝ) - (sum + 2 ^ 256 * ∑ j ∈ Finset.range n, w ^ (k + 2 * j) / (k + 2 * j : ℕ))| ≤ 3 * (n : ℝ) := by
  induction n generalizing k t sum with
  | zero => simp [atanhGo]
  | succ n ih =>
    have hrest := ih (k + 2) _ (sum + t / k) (by omega) (atanhTerm_error hz hw hw' hk ht)
    have hk1 : (1 : ℝ) ≤ k := by exact_mod_cast hk
    have hquot : |((t / k : ℕ) : ℝ) - 2 ^ 256 * (w ^ k / k)| ≤ 3 := by
      have hscale : |(t : ℝ) / k - 2 ^ 256 * (w ^ k / k)| ≤ 2 := by
        rw [← mul_div_assoc, ← sub_div, abs_div, abs_of_pos (by positivity : (0 : ℝ) < k)]
        exact (div_le_self (abs_nonneg _) hk1).trans ht
      calc _ ≤ _ + _ := abs_sub_le _ ((t : ℝ) / k) _
        _ ≤ 1 + 2 := add_le_add (natDiv_error t hk) hscale
        _ = 3 := by norm_num
    have hsum : ∑ j ∈ Finset.range (n + 1), w ^ (k + 2 * j) / ((k + 2 * j : ℕ) : ℝ) =
        ∑ j ∈ Finset.range n, w ^ (k + 2 + 2 * j) / ((k + 2 + 2 * j : ℕ) : ℝ) + w ^ k / (k : ℝ) := by
      rw [Finset.sum_range_succ', mul_zero, add_zero]
      congr 1
      refine Finset.sum_congr rfl fun j _ => ?_
      rw [show k + 2 * (j + 1) = k + 2 + 2 * j by ring]
    rw [atanhGo_succ, hsum]
    rw [abs_le] at hrest hquot ⊢
    rw [Nat.cast_add sum] at hrest
    rw [Nat.cast_add_one]
    constructor <;> linarith [hrest.1, hrest.2, hquot.1, hquot.2]

end

/-- The computed logarithm of (1 + w) / (1 - w), for w = p / r, in units of 2^-256 (R158). -/
def logFix (p r : ℕ) : ℕ := 2 * atanhGo (p * 2 ^ 256 / r * (p * 2 ^ 256 / r) / 2 ^ 256) 96 1 (p * 2 ^ 256 / r) 0

theorem logFix_error {p r : ℕ} (hr : 0 < r) (hp : 3 * p ≤ r) :
    |(logFix p r : ℝ) - 2 ^ 256 * Real.log ((1 + (p : ℝ) / r) / (1 - p / r))| ≤ 578 := by
  have hr' : (0 : ℝ) < r := by exact_mod_cast hr
  have hw : (0 : ℝ) ≤ p / r := by positivity
  have hw' : (p : ℝ) / r ≤ 1 / 3 := by
    rw [div_le_div_iff₀ hr' (by norm_num)]
    have : (3 : ℝ) * p ≤ r := by exact_mod_cast hp
    linarith
  obtain ⟨hlo, hhi⟩ := natDiv_bounds (p * 2 ^ 256) hr
  have hquot : ((p * 2 ^ 256 : ℕ) : ℝ) / r = 2 ^ 256 * (p / r) := by
    push_cast
    ring
  rw [hquot] at hlo hhi
  unfold logFix
  generalize p * 2 ^ 256 / r = z at *
  generalize (p : ℝ) / r = w at *
  have hz : |(z : ℝ) - 2 ^ 256 * w ^ 1| ≤ 2 := by
    rw [pow_one]
    exact abs_le.mpr ⟨by linarith, by linarith⟩
  have hz2 : |((z * z / 2 ^ 256 : ℕ) : ℝ) - 2 ^ 256 * w ^ 2| ≤ 2 := by
    have hfloor := natDiv_error (z * z) (b := 2 ^ 256) (by positivity)
    have hsplit : ((z * z : ℕ) : ℝ) / (2 ^ 256 : ℕ) - 2 ^ 256 * w ^ 2 = (z - 2 ^ 256 * w) * ((z + 2 ^ 256 * w) / 2 ^ 256) := by
      push_cast
      field_simp
      ring
    have hsquare : |((z * z : ℕ) : ℝ) / (2 ^ 256 : ℕ) - 2 ^ 256 * w ^ 2| ≤ 1 := by
      have hfst : |(z : ℝ) - 2 ^ 256 * w| ≤ 1 := abs_le.mpr ⟨by linarith, by linarith⟩
      have hsnd : (z + 2 ^ 256 * w) / 2 ^ 256 ≤ 1 := by
        rw [div_le_one (by positivity)]
        linarith
      rw [hsplit, abs_mul, abs_of_nonneg (by positivity : 0 ≤ (z + 2 ^ 256 * w) / 2 ^ 256)]
      exact mul_le_one₀ hfst (by positivity) hsnd
    exact (abs_sub_le _ (((z * z : ℕ) : ℝ) / (2 ^ 256 : ℕ)) _).trans ((add_le_add hfloor hsquare).trans (by norm_num))
  have hseries := atanhGo_error hz2 hw hw' 96 1 z 0 le_rfl hz
  have hlog := Real.sum_range_sub_log_div_le (x := w) (by rw [abs_of_nonneg hw]; linarith) 96
  have htail : |w| ^ (2 * 96 + 1) / (1 - w ^ 2) ≤ 1 / 2 ^ 256 := by
    rw [abs_of_nonneg hw]
    calc w ^ 193 / (1 - w ^ 2) ≤ (1 / 3) ^ 193 / (8 / 9) :=
          div_le_div₀ (by positivity) (pow_le_pow_left₀ hw hw' _) (by norm_num) (by nlinarith)
      _ ≤ 1 / 2 ^ 256 := by norm_num
  have hsum : ∑ j ∈ Finset.range 96, w ^ (1 + 2 * j) / ((1 + 2 * j : ℕ) : ℝ) =
      ∑ i ∈ Finset.range 96, w ^ (2 * i + 1) / (2 * i + 1) :=
    Finset.sum_congr rfl fun j _ => by rw [add_comm]; push_cast; rfl
  rw [hsum, Nat.cast_zero, zero_add] at hseries
  generalize ∑ i ∈ Finset.range 96, w ^ (2 * i + 1) / (2 * (i : ℝ) + 1) = S at hseries hlog
  have hlog := abs_le.mp (hlog.trans htail)
  have hseries := abs_le.mp hseries
  push_cast at hseries ⊢
  rw [abs_le]
  constructor <;> linarith [hlog.1, hlog.2, hseries.1, hseries.2]

/-- The constant is the computed logarithm of 2 but for some hundred units. -/
theorem ln2Fix_logFix : ln2Fix ≤ logFix 1 3 + 1000 ∧ logFix 1 3 ≤ ln2Fix + 1000 := by
  decide

theorem ln2Fix_error : |(ln2Fix : ℝ) - 2 ^ 256 * Real.log 2| ≤ 2 ^ 11 := by
  have hlog := logFix_error (p := 1) (r := 3) (by norm_num) (by norm_num)
  rw [show (1 + ((1 : ℕ) : ℝ) / (3 : ℕ)) / (1 - (1 : ℕ) / (3 : ℕ)) = 2 by norm_num, abs_le] at hlog
  have h1 : (ln2Fix : ℝ) ≤ logFix 1 3 + 1000 := by exact_mod_cast ln2Fix_logFix.1
  have h2 : (logFix 1 3 : ℝ) ≤ ln2Fix + 1000 := by exact_mod_cast ln2Fix_logFix.2
  rw [abs_le]
  constructor <;> linarith [hlog.1, hlog.2]

theorem ln2Fix_bounds : (2 : ℝ) ^ 256 / 2 ≤ ln2Fix ∧ (ln2Fix : ℝ) ≤ 3 / 4 * 2 ^ 256 := by
  constructor <;> norm_num [ln2Fix]

/-! ## exp2 -/

theorem between_q (s : Bool) (m : ℕ) (u : ℤ) : (between s m u).q = (if s then -1 else 1) * ((m + 1 / 4) * 2 ^ u) := by
  rw [between, FVal.q_fin, zpow_sub₀ two_ne_zero]
  push_cast
  ring

/-- The computed power of a fraction θ in units of 2^-256 (R158). -/
def exp2Fix (φ : ℕ) : ℕ := expGo (φ * ln2Fix / 2 ^ 160) 64 1 (2 ^ 256) (2 ^ 256)

/-- The computed exponential of a small Y. -/
theorem expFix_error {y : ℕ} {Y : ℝ} (hy : (y : ℝ) = Y * 2 ^ 256) (hY : 0 ≤ Y) (hY' : Y ≤ 3 / 4) :
    |(expGo y 64 1 (2 ^ 256) (2 ^ 256) : ℝ) - 2 ^ 256 * Real.exp Y| ≤ 257 := by
  have hseries : |(expGo y 64 1 (2 ^ 256) (2 ^ 256) : ℝ) - _| ≤ _ := expGo_error hy hY hY' 64 0 (2 ^ 256) (2 ^ 256) (by norm_num)
  generalize expGo y 64 1 (2 ^ 256) (2 ^ 256) = M at *
  have hexp := Real.exp_bound (x := Y) (by rw [abs_of_nonneg hY]; linarith) (n := 65) (by norm_num)
  have htail : |Y| ^ 65 * ((Nat.succ 65 : ℕ) / ((Nat.factorial 65 : ℕ) * (65 : ℕ)) : ℝ) ≤ 1 / 2 ^ 256 := by
    have hpow : |Y| ^ 65 ≤ 1 := by rw [abs_of_nonneg hY]; exact pow_le_one₀ hY (hY'.trans (by norm_num))
    exact (mul_le_of_le_one_left (by positivity) hpow).trans (by norm_num [Nat.factorial])
  have hsum : ∑ m ∈ Finset.range 65, Y ^ m / (m.factorial : ℝ) =
      1 + ∑ j ∈ Finset.range 64, Y ^ (0 + 1 + j) / ((0 + 1 + j).factorial : ℝ) := by
    rw [Finset.sum_range_succ', add_comm]
    simp [add_comm]
  rw [hsum] at hexp
  generalize ∑ j ∈ Finset.range 64, Y ^ (0 + 1 + j) / ((0 + 1 + j).factorial : ℝ) = S at hseries hexp
  have hexp := abs_le.mp (hexp.trans htail)
  have hseries := abs_le.mp hseries
  push_cast at hseries
  rw [abs_le]
  constructor <;> linarith [hexp.1, hexp.2, hseries.1, hseries.2]

theorem two_rpow (θ : ℝ) : (2 : ℝ) ^ θ = Real.exp (θ * Real.log 2) := by
  rw [Real.rpow_def_of_pos two_pos, mul_comm]

/-- Of the exponential, an error of the exponent up to 2^-244 moves 2^θ by at most four times as much. -/
theorem exp_error {Y θ : ℝ} (hθ : θ ≤ 1) (h : |Y - θ * Real.log 2| ≤ 2 ^ 12 / 2 ^ 256) :
    |Real.exp Y - 2 ^ θ| ≤ 2 ^ 14 / 2 ^ 256 := by
  have hexp := Real.abs_exp_sub_one_le (h.trans (by norm_num))
  have hsplit : Real.exp Y - 2 ^ θ = 2 ^ θ * (Real.exp (Y - θ * Real.log 2) - 1) := by
    rw [two_rpow, mul_sub, ← Real.exp_add, mul_one]
    ring_nf
  have htwo : (2 : ℝ) ^ θ ≤ 2 := (Real.rpow_le_rpow_of_exponent_le one_le_two hθ).trans_eq (Real.rpow_one 2)
  rw [hsplit, abs_mul, abs_of_nonneg (by positivity)]
  calc (2 : ℝ) ^ θ * |Real.exp (Y - θ * Real.log 2) - 1| ≤ 2 * (2 * (2 ^ 12 / 2 ^ 256)) :=
        mul_le_mul htwo (hexp.trans (by linarith)) (abs_nonneg _) (by norm_num)
    _ = 2 ^ 14 / 2 ^ 256 := by norm_num

theorem exp2Fix_error {φ : ℕ} (hφ : φ < 2 ^ 160) :
    |((exp2Fix φ : ℝ) + 1 / 4) - 2 ^ 256 * (2 : ℝ) ^ ((φ : ℝ) / 2 ^ 160)| ≤ 2 ^ 15 := by
  have hfloor := natDiv_error (φ * ln2Fix) (b := 2 ^ 160) (by positivity)
  obtain ⟨-, hupper⟩ := natDiv_bounds (φ * ln2Fix) (b := 2 ^ 160) (by positivity)
  have hθ : (φ : ℝ) / 2 ^ 160 ≤ 1 := (div_le_one (by positivity)).mpr (by exact_mod_cast hφ.le)
  have hθ0 : (0 : ℝ) ≤ φ / 2 ^ 160 := by positivity
  have hquot : ((φ * ln2Fix : ℕ) : ℝ) / (2 ^ 160 : ℕ) = φ / 2 ^ 160 * ln2Fix := by push_cast; ring
  obtain ⟨-, hln⟩ := ln2Fix_bounds
  have hln2 := ln2Fix_error
  rw [hquot] at hfloor hupper
  unfold exp2Fix
  generalize φ * ln2Fix / 2 ^ 160 = y at *
  generalize (ln2Fix : ℝ) = Λ at *
  generalize (φ : ℝ) / 2 ^ 160 = θ at *
  have hy : (y : ℝ) = (y : ℝ) / 2 ^ 256 * 2 ^ 256 := by field_simp
  have hY : (y : ℝ) / 2 ^ 256 ≤ 3 / 4 := by
    rw [div_le_iff₀ (by positivity)]
    have hΛ : 0 ≤ Λ := by
      have := (abs_le.mp hln2).1
      have := Real.log_two_gt_d9
      linarith
    exact hupper.trans ((mul_le_of_le_one_left hΛ hθ).trans hln)
  have hlog : |(y : ℝ) - 2 ^ 256 * (θ * Real.log 2)| ≤ 2 ^ 12 := by
    have hscale : |θ * Λ - 2 ^ 256 * (θ * Real.log 2)| ≤ 2 ^ 11 := by
      rw [show θ * Λ - 2 ^ 256 * (θ * Real.log 2) = θ * (Λ - 2 ^ 256 * Real.log 2) by ring, abs_mul, abs_of_nonneg hθ0]
      exact (mul_le_of_le_one_left (abs_nonneg _) hθ).trans hln2
    exact (abs_sub_le _ (θ * Λ) _).trans ((add_le_add hfloor hscale).trans (by norm_num))
  have hexp := exp_error (Y := y / 2 ^ 256) hθ (by
    rw [show (y : ℝ) / 2 ^ 256 - θ * Real.log 2 = (y - 2 ^ 256 * (θ * Real.log 2)) / 2 ^ 256 by field_simp, abs_div,
      abs_of_pos (by positivity : (0 : ℝ) < 2 ^ 256)]
    gcongr)
  have hfix := expFix_error hy (by positivity) hY
  rw [abs_le] at hexp hfix ⊢
  constructor <;> linarith [hexp.1, hexp.2, hfix.1, hfix.2]

/-- The greatest f32 value below 128. -/
theorem le_of_lt_128 {w : Word} {s : Bool} {m : ℕ} {e : ℤ} (h : fv w = .fin s m e) (hlt : (FVal.fin s m e).q < 128) :
    (FVal.fin s m e).q ≤ 128 - 1 / 2 ^ 17 := by
  obtain ⟨-, -, d, -, hmag⟩ := fv_fin h
  rw [FVal.q_fin, ← hmag] at hlt ⊢
  have h128 : f32.mag 0x43000000 = 128 := by norm_num [FFmt.mag, FFmt.sig, FFmt.binade, FFmt.emin, f32]
  have hbelow : f32.mag 0x42FFFFFF = 128 - 1 / 2 ^ 17 := by norm_num [FFmt.mag, FFmt.sig, FFmt.binade, FFmt.emin, f32]
  cases s
  · rw [if_neg (by simp), one_mul] at hlt ⊢
    rw [← h128] at hlt
    have hd := f32.mag_strictMono.lt_iff_lt.mp hlt
    exact hbelow ▸ f32.mag_strictMono.monotone (by omega)
  · rw [if_pos rfl, neg_one_mul]
    have := f32.mag_nonneg d
    exact (neg_nonpos.mpr this).trans (by norm_num)

/-- Below f32's greatest value under 128, 2^a is well below f32's upper limit. -/
theorem two_rpow_le {a : ℝ} (ha : a ≤ 128 - 1 / 2 ^ 17) : (2 : ℝ) ^ a ≤ 2 ^ 128 * (1 - 1 / 2 ^ 19) := by
  have hstep : (2 : ℝ) ^ (-(1 / 2 ^ 17) : ℝ) ≤ 1 - 1 / 2 ^ 19 := by
    have hpos : (0 : ℝ) < 2 ^ (1 / 2 ^ 17 : ℝ) := by positivity
    have hone : 1 + 1 / 2 ^ 18 ≤ (2 : ℝ) ^ (1 / 2 ^ 17 : ℝ) := by
      rw [two_rpow]
      have := Real.add_one_le_exp (1 / 2 ^ 17 * Real.log 2)
      have := Real.log_two_gt_d9
      linarith
    rw [Real.rpow_neg two_pos.le, inv_le_comm₀ hpos (by norm_num)]
    exact le_trans (by norm_num) hone
  calc (2 : ℝ) ^ a ≤ 2 ^ ((128 : ℕ) + -(1 / 2 ^ 17) : ℝ) := Real.rpow_le_rpow_of_exponent_le one_le_two (by push_cast; linarith)
    _ = 2 ^ 128 * (2 : ℝ) ^ (-(1 / 2 ^ 17) : ℝ) := by rw [Real.rpow_add two_pos, Real.rpow_natCast]
    _ ≤ _ := by gcongr

/-- Between its limits exp2 rounds a value within 2^-241 of the exact one, relatively (R158). -/
theorem exp2Fin_accuracy {s : Bool} {m : ℕ} {e : ℤ} (he : -149 ≤ e) (hlo : -150 < (FVal.fin s m e).q)
    (hhi : (FVal.fin s m e).q < 128) : ∃ (k : ℕ) (u : ℤ), exp2Fin s m e = rne32 (.fin false k u) ∧
      |((FVal.fin false k u).q : ℝ) - (2 : ℝ) ^ ((FVal.fin s m e).q : ℝ)| ≤ (2 : ℝ) ^ ((FVal.fin s m e).q : ℝ) / 2 ^ 241 := by
  obtain ⟨n, φ, hφ, ha, hexp⟩ := (exp2Fin_eq he).2.2 hlo hhi
  have hpow : (2 : ℝ) ^ ((FVal.fin s m e).q : ℝ) = 2 ^ n * (2 : ℝ) ^ ((φ : ℝ) / 2 ^ 160) := by
    rw [ha, ← Real.rpow_intCast, ← Real.rpow_add two_pos]
    push_cast
    rfl
  rw [hpow]
  have hn : (0 : ℝ) < 2 ^ n := by positivity
  by_cases h0 : φ = 0
  · refine ⟨1, n, hexp.trans (if_pos h0), ?_⟩
    rw [FVal.q_fin, h0]
    simp only [Bool.false_eq_true, if_false, Nat.cast_one, one_mul, Rat.cast_zpow, Rat.cast_ofNat, Nat.cast_zero, zero_div,
      Real.rpow_zero, mul_one, sub_self, abs_zero]
    positivity
  · refine ⟨_, _, hexp.trans (if_neg h0), ?_⟩
    have herr := exp2Fix_error hφ
    have hq : ((between false (exp2Fix φ) (n - 256)).q : ℝ) = 2 ^ n / 2 ^ 256 * (exp2Fix φ + 1 / 4) := by
      rw [between_q, if_neg (by simp), one_mul, zpow_sub₀ two_ne_zero]
      push_cast
      ring
    show |((between false (exp2Fix φ) (n - 256)).q : ℝ) - _| ≤ _
    have hone : (1 : ℝ) ≤ 2 ^ ((φ : ℝ) / 2 ^ 160) := Real.one_le_rpow one_le_two (by positivity)
    generalize (2 : ℝ) ^ ((φ : ℝ) / 2 ^ 160) = P at *
    rw [hq, show (2 : ℝ) ^ n / 2 ^ 256 * (exp2Fix φ + 1 / 4) - 2 ^ n * P =
      2 ^ n * ((exp2Fix φ + 1 / 4 - 2 ^ 256 * P) / 2 ^ 256) by ring, abs_mul, abs_of_pos hn, mul_div_assoc]
    gcongr
    rw [abs_div, abs_of_pos (by positivity : (0 : ℝ) < 2 ^ 256), div_le_div_iff₀ (by positivity) (by positivity)]
    calc |(exp2Fix φ + 1 / 4 - 2 ^ 256 * P)| * (2 : ℝ) ^ 241 ≤ 2 ^ 15 * 2 ^ 241 := by gcongr
      _ = 1 * 2 ^ 256 := by norm_num
      _ ≤ P * 2 ^ 256 := by gcongr

/-! ## log2 -/

/-- The computed logarithm to base 2 of (1 + w) / (1 - w), for w = p / r, in units of 2^-256 (R158). -/
def log2Fix (p r : ℕ) : ℕ := logFix p r * 2 ^ 256 / ln2Fix

theorem log2Fix_error {p r : ℕ} (hr : 0 < r) (hp : 3 * p ≤ r) :
    |(log2Fix p r : ℝ) - 2 ^ 256 * Real.logb 2 ((1 + (p : ℝ) / r) / (1 - p / r))| ≤ 2 ^ 13 := by
  obtain ⟨hlo, -⟩ := ln2Fix_bounds
  have hfloor := natDiv_error (logFix p r * 2 ^ 256) (b := ln2Fix) (by decide)
  have herr := logFix_error hr hp
  have hln2 := ln2Fix_error
  have hr' : (0 : ℝ) < r := by exact_mod_cast hr
  have hw0 : (0 : ℝ) ≤ p / r := by positivity
  have hw : (p : ℝ) / r ≤ 1 / 3 := by
    rw [div_le_div_iff₀ hr' (by norm_num)]
    have : (3 : ℝ) * p ≤ r := by exact_mod_cast hp
    linarith
  have hratio : 1 ≤ (1 + (p : ℝ) / r) / (1 - p / r) ∧ (1 + (p : ℝ) / r) / (1 - p / r) ≤ 2 := by
    rw [one_le_div (by linarith), div_le_iff₀ (by linarith)]
    constructor <;> linarith
  have hℓ0 : 0 ≤ Real.log ((1 + (p : ℝ) / r) / (1 - p / r)) := Real.log_nonneg hratio.1
  have hℓ : Real.log ((1 + (p : ℝ) / r) / (1 - p / r)) ≤ Real.log 2 :=
    Real.log_le_log (by linarith [hratio.1]) hratio.2
  have hlam : 0 < Real.log 2 := Real.log_pos one_lt_two
  rw [Nat.cast_mul, Nat.cast_pow, Nat.cast_ofNat] at hfloor
  rw [log2Fix, Real.logb]
  generalize Real.log ((1 + (p : ℝ) / r) / (1 - p / r)) = ℓ at *
  generalize Real.log 2 = lam at *
  generalize logFix p r = ln at *
  have hΛ : 0 < (ln2Fix : ℝ) := lt_of_lt_of_le (by positivity) hlo
  have hsplit : (ln : ℝ) * 2 ^ 256 / ln2Fix - 2 ^ 256 * (ℓ / lam) =
      2 ^ 256 / ln2Fix * ((ln - 2 ^ 256 * ℓ) - ℓ / lam * (ln2Fix - 2 ^ 256 * lam)) := by
    field_simp
    ring
  have hscale : |(ln : ℝ) * 2 ^ 256 / ln2Fix - 2 ^ 256 * (ℓ / lam)| ≤ 2 * (578 + 1 * 2 ^ 11) := by
    have hfst : (2 : ℝ) ^ 256 / ln2Fix ≤ 2 := by rw [div_le_iff₀ hΛ]; linarith
    have hsnd : |ℓ / lam * (ln2Fix - 2 ^ 256 * lam)| ≤ 1 * 2 ^ 11 := by
      rw [abs_mul, abs_of_nonneg (by positivity)]
      exact mul_le_mul ((div_le_one hlam).mpr hℓ) hln2 (abs_nonneg _) zero_le_one
    rw [hsplit, abs_mul, abs_of_nonneg (by positivity)]
    exact mul_le_mul hfst ((abs_sub _ _).trans (add_le_add herr hsnd)) (abs_nonneg _) zero_le_two
  exact (abs_sub_le _ ((ln : ℝ) * 2 ^ 256 / ln2Fix) _).trans ((add_le_add hfloor hscale).trans (by norm_num))

/-- What the part rounds where it knows the value to lie next to x. -/
theorem between_natAbs (x : ℤ) (u : ℤ) : let q := (between (x < 0) x.natAbs u).q
    decide (q < 0) = decide (x < 0) ∧ |(q : ℝ) - x * 2 ^ u| ≤ 2 ^ u := by
  intro q
  suffices hrat : decide (q < 0) = decide (x < 0) ∧ |q - x * 2 ^ u| ≤ 2 ^ u from
    ⟨hrat.1, by simpa using (Rat.cast_le (K := ℝ)).mpr hrat.2⟩
  have hpos : (0 : ℚ) < 2 ^ u := by positivity
  have hq : q = _ := between_q _ _ _
  rcases lt_or_ge x 0 with hx | hx
  · have hcast : (x.natAbs : ℚ) = -x := by rw [Nat.cast_natAbs, abs_of_neg hx, Int.cast_neg]
    have hx' : (x : ℚ) < 0 := by exact_mod_cast hx
    rw [decide_eq_true hx, if_pos rfl, hcast] at hq
    refine ⟨decide_eq_decide.mpr ⟨fun _ => hx, fun _ => ?_⟩, ?_⟩
    · rw [hq, neg_one_mul, neg_neg_iff_pos]
      exact mul_pos (by linarith) hpos
    · rw [hq, show -1 * ((-(x : ℚ) + 1 / 4) * 2 ^ u) - x * 2 ^ u = -(1 / 4 * 2 ^ u) by ring, abs_neg, abs_of_pos (by positivity)]
      linarith
  · have hcast : (x.natAbs : ℚ) = x := by rw [Nat.cast_natAbs, abs_of_nonneg hx]
    have hx' : (0 : ℚ) ≤ x := by exact_mod_cast hx
    rw [decide_eq_false hx.not_gt, if_neg (by simp), one_mul, hcast] at hq
    have hnonneg : 0 ≤ q := by rw [hq]; positivity
    refine ⟨decide_eq_decide.mpr ⟨fun h => absurd h hnonneg.not_gt, fun h => absurd h hx.not_gt⟩, ?_⟩
    rw [hq, show ((x : ℚ) + 1 / 4) * 2 ^ u - x * 2 ^ u = 1 / 4 * 2 ^ u by ring, abs_of_pos (by positivity)]
    linarith

theorem logb_two_natCast_mul {m : ℕ} (hm : 0 < m) (e : ℤ) : Real.logb 2 (((m : ℚ) * 2 ^ e : ℚ) : ℝ) = Real.logb 2 m + e := by
  push_cast
  rw [Real.logb_mul (by positivity) (by positivity), ← Real.rpow_intCast, Real.logb_rpow two_pos (by norm_num)]

/-- Of no power of two, log2 computes the logarithm in units of 2^-256. -/
theorem log2Fin_between {m : ℕ} (hm : 0 < m) (e : ℤ) (hpow : m ≠ 2 ^ m.log2) : ∃ x : ℤ,
    log2Fin m e = rne32 (between (x < 0) x.natAbs (-256)) ∧ |(x : ℝ) - 2 ^ 256 * (Real.logb 2 m + e)| ≤ 2 ^ 13 := by
  have hlo : 2 ^ m.log2 ≤ m := Nat.log2_self_le hm.ne'
  have hhi : m < 2 ^ (m.log2 + 1) := Nat.lt_log2_self
  have hratio : (1 + ((m - 2 ^ m.log2 : ℕ) : ℝ) / (m + 2 ^ m.log2 : ℕ)) / (1 - (m - 2 ^ m.log2 : ℕ) / (m + 2 ^ m.log2 : ℕ)) =
      m / 2 ^ m.log2 := by
    rw [Nat.cast_sub hlo]
    push_cast
    field_simp
    ring
  have herr := log2Fix_error (p := m - 2 ^ m.log2) (r := m + 2 ^ m.log2) (by omega) (by rw [pow_succ] at hhi; omega)
  rw [hratio, Real.logb_div (by positivity) (by positivity), Real.logb_pow, Real.logb_self_eq_one one_lt_two, mul_one] at herr
  refine ⟨(m.log2 + e) * 2 ^ 256 + log2Fix (m - 2 ^ m.log2) (m + 2 ^ m.log2), if_neg hpow, ?_⟩
  generalize log2Fix (m - 2 ^ m.log2) (m + 2 ^ m.log2) = v at herr ⊢
  rw [Int.cast_add, Int.cast_mul, Int.cast_pow, Int.cast_ofNat, Int.cast_natCast, Int.cast_add, Int.cast_natCast,
    show ((m.log2 : ℝ) + e) * 2 ^ 256 + v - 2 ^ 256 * (Real.logb 2 m + e) = v - 2 ^ 256 * (Real.logb 2 m - m.log2) by ring]
  exact herr

/-- log2 of a positive value rounds a value within 2^-242 of the exact one (R158). -/
theorem log2Fin_accuracy {m : ℕ} (hm : 0 < m) (e : ℤ) : ∃ (s : Bool) (k : ℕ) (u : ℤ), log2Fin m e = rne32 (.fin s k u) ∧
    (k ≠ 0 ∨ s = false) ∧ s = decide ((FVal.fin s k u).q < 0) ∧
      |((FVal.fin s k u).q : ℝ) - Real.logb 2 (((m : ℚ) * 2 ^ e : ℚ) : ℝ)| ≤ 1 / 2 ^ 242 := by
  rw [logb_two_natCast_mul hm]
  by_cases hpow : m = 2 ^ m.log2
  · have hq : (FVal.ofInt (m.log2 + e)).q = (m.log2 + e : ℤ) := by rw [FVal.ofInt, q_ofUnits, zpow_zero, mul_one]
    refine ⟨decide ((m.log2 + e : ℤ) < 0), _, 0, (if_pos hpow : log2Fin m e = _), ?_, ?_, ?_⟩
    · rcases eq_or_ne (m.log2 + e : ℤ) 0 with h0 | hne
      · exact .inr (by rw [h0]; rfl)
      · exact .inl (Int.natAbs_ne_zero.mpr hne)
    · exact decide_eq_decide.mpr (by rw [show (FVal.fin _ _ 0).q = _ from hq]; norm_cast)
    · rw [show (FVal.fin _ _ 0).q = _ from hq]
      have hcast : Real.logb 2 m = m.log2 := by
        conv_lhs => rw [hpow]
        rw [Nat.cast_pow, Nat.cast_ofNat, Real.logb_pow, Real.logb_self_eq_one one_lt_two, mul_one]
      rw [hcast]
      push_cast
      rw [sub_self, abs_zero]
      positivity
  · obtain ⟨x, hres, herr⟩ := log2Fin_between hm e hpow
    obtain ⟨hsign, hnear⟩ := between_natAbs x (-256)
    refine ⟨_, _, _, hres, .inl (by omega), hsign.symm, ?_⟩
    show |((between (x < 0) x.natAbs (-256)).q : ℝ) - _| ≤ _
    rw [zpow_neg, show (256 : ℤ) = (256 : ℕ) from rfl, zpow_natCast] at hnear
    rw [abs_le] at herr hnear ⊢
    constructor <;> linarith [herr.1, herr.2, hnear.1, hnear.2]

/-! ## The statement -/

/-- The logarithms of f32's positive values. -/
theorem abs_logb_le {a : ℚ} (hlo : (2 : ℚ) ^ (-149 : ℤ) ≤ a) (hhi : a < 2 ^ 128) : |Real.logb 2 (a : ℝ)| ≤ 149 := by
  have hlo' : (2 : ℝ) ^ (-149 : ℝ) ≤ a := by
    rw [show (-149 : ℝ) = ((-149 : ℤ) : ℝ) by norm_num, Real.rpow_intCast]
    simpa only [Rat.cast_zpow, Rat.cast_ofNat] using (Rat.cast_le (K := ℝ)).mpr hlo
  have hhi' : (a : ℝ) ≤ 2 ^ (128 : ℝ) := by
    rw [show (128 : ℝ) = ((128 : ℕ) : ℝ) by norm_num, Real.rpow_natCast]
    exact_mod_cast hhi.le
  have hpos : (0 : ℝ) < a := lt_of_lt_of_le (by positivity) hlo'
  rw [abs_le, Real.le_logb_iff_rpow_le one_lt_two hpos, Real.logb_le_iff_le_rpow one_lt_two hpos]
  exact ⟨hlo', hhi'.trans (Real.rpow_le_rpow_of_exponent_le one_le_two (by norm_num))⟩

/-- A value near a real one below f32's upper limit raises nothing. -/
theorem RoundsTo.exc_eq_false_of_near {s : Bool} {q : ℚ} {c : ℕ} {exc : Bool} {r : ℝ} (h : RoundsTo f32 s q c exc)
    (hr : |r| + |(q : ℝ) - r| < 2 ^ 128 - 2 ^ 103) : exc = false := by
  refine h.exc_eq_false ?_
  have hq : |(q : ℝ)| < 2 ^ 128 - 2 ^ 103 := lt_of_le_of_lt (by simpa using abs_add_le r ((q : ℝ) - r)) hr
  exact_mod_cast hq

/-- Settles O14: the error of each series in units of 2^-256, against the exponential's and the logarithm's remainder. -/
theorem expAndLogAccuracy : Obligations.ExpAndLogAccuracy := by
  intro s f src popped x h a gives
  have hgives (i : Instr) (g : FVal → FRes) {v : FRes} {p : ℕ → Prop} (hi : exec i s = runA f s fun y => y.fp (g (fv y.a)))
      (hw : isWaitingCommand i = false) (hg : g a = v) (hexc : v.2 = false) (hp : p (wd v.1).toNat) : gives i p := by
    refine yields_of_runA h _ hi hw ?_
    rw [show g (fv src.a) = v from hg]
    exact ⟨by rw [Src.fp, hexc]; exact Bool.or_false _, hp⟩
  refine ⟨fun hfin hq => ?_, fun hfin hlo hhi => ?_, fun hfin hpos => ?_⟩
  · obtain ⟨sg, m, e, hv, -, he⟩ := fv_of_isFin hfin
    have hv : a = .fin sg m e := hv
    rw [hv] at hq
    exact hgives (.exp2 f) exp2R (v := (0, false)) (p := fun c => c = 0) rfl rfl (by rw [hv]; exact (exp2Fin_eq he).2.1 hq) rfl rfl
  · obtain ⟨sg, m, e, hv, -, he⟩ := fv_of_isFin hfin
    have hv : a = .fin sg m e := hv
    rw [hv] at hlo hhi ⊢
    obtain ⟨k, u, hres, hnear⟩ := exp2Fin_accuracy he hlo hhi
    have hround := rne32_roundsTo (s := false) (m := k) u (.inr rfl)
    have htop : (((FVal.fin sg m e).q : ℚ) : ℝ) ≤ 128 - 1 / 2 ^ 17 := (Rat.cast_le.mpr (le_of_lt_128 hv hhi)).trans_eq (by norm_num)
    have hpow := two_rpow_le htop
    have hpos : (0 : ℝ) < 2 ^ (((FVal.fin sg m e).q : ℚ) : ℝ) := by positivity
    have hexc := hround.exc_eq_false_of_near (r := 2 ^ (((FVal.fin sg m e).q : ℚ) : ℝ)) (by
      rw [abs_of_pos hpos]
      linarith)
    refine hgives (.exp2 f) exp2R (p := fun c => ∃ q : ℚ, |(q : ℝ) - (2 : ℝ) ^ ((FVal.fin sg m e).q : ℝ)| ≤
      (2 : ℝ) ^ ((FVal.fin sg m e).q : ℝ) / 2 ^ 200 ∧ RoundsTo f32 false q c false) rfl rfl (by rw [hv]; exact hres) hexc ?_
    refine ⟨_, hnear.trans ?_, ?_⟩
    · gcongr <;> norm_num
    · rw [show (wd (rne32 (.fin false k u)).1).toNat = _ from toNat_wd_round false false _]
      rw [hexc] at hround
      exact hround
  · obtain ⟨sg, m, e, hv, -, -⟩ := fv_of_isFin hfin
    have hv : a = .fin sg m e := hv
    rw [hv] at hpos
    obtain ⟨rfl, hm, hmag⟩ := positive_parts hpos
    obtain ⟨t, k, u, hres, hk, ht, hnear⟩ := log2Fin_accuracy hm e
    have hround := rne32_roundsTo u hk
    obtain ⟨hlo, hhi⟩ := fv_magnitude hv hm
    have hexc := hround.exc_eq_false_of_near (r := Real.logb 2 (((m : ℚ) * 2 ^ e : ℚ) : ℝ)) (by
      have := abs_logb_le hlo hhi
      exact lt_of_le_of_lt (add_le_add this hnear) (by norm_num))
    refine hgives (.log2 f) log2R (p := fun c => ∃ q : ℚ, |(q : ℝ) - Real.logb 2 (a.q : ℝ)| ≤ 1 / 2 ^ 200 ∧
      RoundsTo f32 (decide (q < 0)) q c false) rfl rfl (by rw [hv, log2R_pos hm, hres]) hexc ?_
    refine ⟨(FVal.fin t k u).q, ?_, ?_⟩
    · rw [hv, hmag]
      exact hnear.trans (by norm_num)
    · rw [show (wd (rne32 (.fin t k u)).1).toNat = _ from toNat_wd_round false false _, ← ht]
      rw [hexc] at hround
      exact hround

end Sys2Proof.Machine
end

section
/-! SUPPORT. st and stx: the bytes their own element reads, and the requests they ask of engines
(spec/10_instr_channels_tiles_memory.md R166, R180, spec/18_memory_model.md R277, R289): Obligations.StoreResults. -/

namespace Sys2Proof.Machine

/-! ## A translation changes nothing but what is cached of it (R265, R273) -/

def CachedOnly (s t : State) : Prop :=
  ∃ tlb utlb xreg oracle, t = { s with tlb := tlb, utlb := utlb, xreg := xreg, oracle := oracle }

theorem choose_state (s : State) : ∃ oracle, s.choose.2 = { s with oracle := oracle } := by
  unfold State.choose
  split
  · exact ⟨_, rfl⟩
  · exact ⟨_, rfl⟩

namespace CachedOnly

theorem refl (s : State) : CachedOnly s s := ⟨_, _, _, _, rfl⟩

theorem trans {s t u : State} : CachedOnly s t → CachedOnly t u → CachedOnly s u := by
  rintro ⟨_, _, _, _, rfl⟩ ⟨_, _, _, _, rfl⟩
  exact ⟨_, _, _, _, rfl⟩

theorem choose (s : State) : CachedOnly s s.choose.2 := by
  obtain ⟨_, h⟩ := choose_state s
  exact ⟨_, _, _, _, h⟩

theorem keepOwn (s : State) (q : Rq) (t : TlbE) : CachedOnly s (keepOwn s q t) := by
  unfold Machine.keepOwn
  split
  · exact refl s
  · dsimp only
    split
    · exact refl s
    · exact (choose s).trans ⟨_, _, _, _, rfl⟩

theorem countAccess (s : State) (q : Rq) (t : TlbE) (va : Nat) : CachedOnly s (countAccess s q t va) := by
  unfold Machine.countAccess
  split
  · dsimp only
    split
    · exact refl s
    · exact ⟨_, _, _, _, rfl⟩
  · exact refl s

theorem keepBoth (s : State) (q : Rq) (t : TlbE) (own far : Bool) (h : Option TlbE) :
    CachedOnly s (match h with
      | some e => if far then Machine.keepOwn (if own then s else Machine.keepOwn s q t) q e else if own then s else Machine.keepOwn s q t
      | none => if own then s else Machine.keepOwn s q t) := by
  have hown : CachedOnly s (if own then s else Machine.keepOwn s q t) := by
    cases own
    · exact keepOwn ..
    · exact refl s
  cases h with
  | none => exact hown
  | some e =>
    cases far
    · exact hown
    · exact hown.trans (keepOwn ..)

theorem xlate {s t : State} {q : Rq} {va : Nat} {wr : Bool} {l : Loc} (h : xlate s q va wr = .ok (l, t)) : CachedOnly s t := by
  unfold Machine.xlate at h
  dsimp only at h
  split at h
  · simp at h
  · split_ifs at h
    all_goals
      obtain ⟨-, rfl⟩ := ok_pair h
      refine trans ?_ (countAccess ..)
    · exact keepBoth s q ⟨0, 0, 14, 0, none, 0, false⟩ true true _
    · exact keepBoth s q _ false true _
    · exact keepBoth s q ⟨0, 0, 14, 0, none, 0, false⟩ true false _
    · exact keepBoth s q _ false false _

end CachedOnly

theorem raceCheck_stamps {s t : State} {q : Rq} {stamped : Bool} {va k n : Nat} {wr : Bool} (h : raceCheck s q stamped va k n wr = .ok t) :
    ∃ stamps, t = { s with stamps := stamps } := by
  unfold raceCheck at h
  split at h
  · exact ⟨s.stamps, (Except.ok.inj h).symm⟩
  · split at h
    · exact raceAll_stamps h
    · exact ⟨s.stamps, (Except.ok.inj h).symm⟩

theorem stored_unspec (s : State) (ctx va n : Nat) : ∃ unspec, stored s ctx va n = { s with unspec := unspec } := by
  unfold stored
  split
  · exact ⟨_, rfl⟩
  · exact ⟨_, rfl⟩

/-! ## A store performed at element scope (R180, R277) -/

/-- What each agent reads after one store more: the agents it is performed for read its bytes, and in its units what stands before it in their
order. -/
theorem readByte_append (mem : List (Nat × Byte)) (a : Agent) (ps : List Pending) (p : Pending) (k : Nat) :
    readByte mem a (ps ++ [p]) k =
      if p.seenBy a ∧ khas p.bytes k then kget 0 p.bytes k
      else if p.seenBy a ∧ inUnits p.bytes k then (ps.reverse.findSome? (fun q => q.byteAt k)).getD (memGet mem k)
      else readByte mem a ps k := by
  rw [readByte, readByte, readSeen_eq, readSeen_eq, shownIn, shownIn, List.reverse_append, List.reverse_singleton, List.singleton_append]
  by_cases hseen : p.seenBy a && inUnits p.bytes k
  · rw [List.dropWhile_cons_of_neg (by simpa using hseen), List.findSome?_cons]
    rw [Bool.and_eq_true] at hseen
    by_cases hk : khas p.bytes k = true
    · rw [if_pos ⟨hseen.1, hk⟩, Pending.byteAt, if_pos hk]
      rfl
    · rw [if_neg (fun h => hk h.2), if_pos hseen, Pending.byteAt, if_neg hk]
  · rw [List.dropWhile_cons_of_pos (by simpa only [Bool.not_eq_true', Bool.not_eq_true] using hseen)]
    rw [Bool.and_eq_true] at hseen
    rw [if_neg (fun h => hseen ⟨h.1, inUnits_of_khas h.2⟩), if_neg hseen]

/-- The first n bytes of a word, keyed. -/
theorem kget_keyed_take (w : Word) {n k j : Nat} (hn : n ≤ 4) (h1 : k ≤ j) (h2 : j < k + n) :
    kget 0 (keyed k ((bytesOfWord w).take n)) j = BitVec.ofNat 8 (w.toNat / 2 ^ (8 * (j - k))) := by
  have hlen : (bytesOfWord w).length = 4 := length_leBytes ..
  rw [kget_keyed h1 (by rw [List.length_take, hlen]; omega), ← bytesOfWord_getD w (by omega), List.getD_eq_getElem?_getD,
    List.getD_eq_getElem?_getD, List.getElem?_take_of_lt (by omega)]

/-- A store of an element as every agent reads it. -/
theorem readByte_storeAt (s : State) (e : ERef) (die : Nat) {n : Nat} (hn : n ≤ 4) (key : Nat) (w : Word) (a : Agent) (k : Nat) :
    readByte s.mem a (storeAt s e die (keyed key ((bytesOfWord w).take n))).stores k =
      let own := a.inst = e.inst ∧ a.reg = e.reg ∧ a.el = some e.el
      if own ∧ key ≤ k ∧ k < key + n then BitVec.ofNat 8 (w.toNat / 2 ^ (8 * (k - key)))
      else if own ∧ touches key n k then latest s k else readByte s.mem a s.stores k := by
  have hlen : ((bytesOfWord w).take n).length = n := by
    rw [List.length_take, show (bytesOfWord w).length = 4 from length_leBytes .., min_eq_left hn]
  set p : Pending := ⟨s.fresh, e.inst, e.reg, e.el, die, .element, keyed key ((bytesOfWord w).take n)⟩ with hp
  have hseen : p.seenBy a = true ↔ a.inst = e.inst ∧ a.reg = e.reg ∧ a.el = some e.el := by
    show (e.inst == a.inst && e.reg == a.reg && a.el == some e.el) = true ↔ _
    simp only [Bool.and_eq_true, beq_iff_eq, and_assoc, @eq_comm _ e.inst, @eq_comm _ e.reg]
  have hkhas : khas p.bytes k = true ↔ key ≤ k ∧ k < key + n := by rw [hp, khas_keyed, hlen]
  have hunits : inUnits p.bytes k = touches key n k := by rw [hp, inUnits_keyed, hlen]
  rw [show (storeAt s e die (keyed key ((bytesOfWord w).take n))).stores = s.stores ++ [p] from rfl, readByte_append, hunits,
    ← latest_eq]
  simp only [hseen, hkhas]
  split
  next h => exact kget_keyed_take w hn h.2.1 h.2.2
  next => rfl

/-! ## A request joins its engine's (R183, R251) -/

theorem State.engine_modEngine (s : State) (g : Nat) (f : Engine → Engine) : (s.modEngine g f).engine g = f (s.engine g) := by
  rw [State.engine, State.modEngine, kget_kset, if_pos rfl]

/-- An element's request enters behind those of its element to its line. -/
theorem enqueue_spec (s : State) (g : Nat) {r : EngReq} {e : ERef} (hr : r.req = .element e) :
    (∃ oracle engines, enqueue s g r = { s with oracle := oracle, engines := engines }) ∧
      Joins (s.engine g).reqs ((enqueue s g r).engine g).reqs r := by
  unfold enqueue
  split
  next hport =>
    obtain ⟨oracle, hc⟩ := choose_state s
    dsimp only
    rw [hc]
    refine ⟨⟨oracle, _, rfl⟩, ?_⟩
    rw [State.engine_modEngine]
    set tw := (s.engine g).reqs.reverse.takeWhile (fun x => !sameSource x.req r.req || x.key / 64 != r.key / 64) with htw
    set m := (tw.take s.choose.1).length
    have hm : m ≤ tw.length := List.length_take_le' ..
    refine ⟨_, _, (List.take_append_drop _ _).symm, rfl, fun h => absurd hport h, fun q hq => ?_⟩
    have hrev : q ∈ (s.engine g).reqs.reverse.take m := by rw [List.take_reverse]; exact List.mem_reverse.mpr hq
    rw [← List.takeWhile_append_dropWhile (p := fun x => !sameSource x.req r.req || x.key / 64 != r.key / 64)
      (l := (s.engine g).reqs.reverse), List.take_append_of_le_length hm] at hrev
    have hother := List.mem_takeWhile_imp (List.mem_of_mem_take hrev)
    rintro ⟨hreq, hkey⟩
    rw [hreq, hr, hkey] at hother
    simp [sameSource] at hother
  next hport =>
    refine ⟨⟨_, _, rfl⟩, ?_⟩
    rw [State.engine_modEngine]
    exact ⟨_, [], (List.append_nil _).symm, rfl, fun _ => rfl, by simp⟩

/-! ## The work of a store (R166, R180) -/

/-- The offset register advanced, where the form does that. -/
def advanced (f : FmtM) (src : Src) (inc : Bool) (e : ERef) (t : State) : State :=
  if inc then t.modElem e (fun x => x.setD f.sa.toNat (src.a + wd (width f.sz)) src.fa) else t

theorem advanced_state (f : FmtM) (src : Src) (inc : Bool) (e : ERef) (t : State) : ∃ elems, advanced f src inc e t = { t with elems := elems } := by
  cases inc
  · exact ⟨_, rfl⟩
  · exact ⟨_, rfl⟩

theorem advanced_elem (f : FmtM) (src : Src) (inc : Bool) (e : ERef) (t : State) :
    (∃ d fl, (advanced f src inc e t).elem e = { t.elem e with d := d, fl := fl }) ∧
    ∀ k, (((advanced f src inc e t).elem e).dreg k, ((advanced f src inc e t).elem e).dflag k) =
      if inc ∧ k = f.sa.toNat then (src.a + wd (width f.sz), src.fa) else ((t.elem e).dreg k, (t.elem e).dflag k) := by
  cases inc
  · exact ⟨⟨_, _, rfl⟩, fun k => (if_neg (by simp)).symm⟩
  · have he : (advanced f src true e t).elem e = (t.elem e).setD f.sa.toNat (src.a + wd (width f.sz)) src.fa := State.elem_setElem_self ..
    rw [he]
    exact ⟨⟨_, _, rfl⟩, fun k => by simpa using Elem.dreg_setD ..⟩

/-- A store at its address: the work of st and stx once the address is formed. -/
def storing (f : FmtM) (va : Nat) (inc : Bool) : Work := fun j s =>
  match storeTo f j va j.src.b j.src.fb s with
  | .error e => .error e
  | .ok t => .ok (noRes, advanced f j.src inc j.e t)

section
variable {s : State} {f : FmtM} {src : Src} {popped : List (Nat × Token)} {x : Elem} {dst : BitVec 4} {off : Word} {va : Nat}

theorem vaOf_of_goesTo (h : Reads s dst f.sa f.sb (bit f.mod 1) (bit f.mod 0) src popped x) (hg : goesTo s f off va) :
    vaOf f (curJob s src) off (taken s x) = .ok va := by
  obtain ⟨b, hb, rfl, hal⟩ := hg
  have hpump : ((taken s x).elem s.cur).pump f.pms.toNat = (s.elem s.cur).pump f.pms.toNat := by
    rw [taken_elem_cur]
    exact (congrArg (fun y : Elem => y.pump f.pms.toNat) h.taken_eq :)
  have hbase : (if isFar f then farBase ((s.elem s.cur).pump f.pms.toNat) else some (s.inst s.cur.inst).img.dataBase) = some b := hb
  unfold vaOf
  dsimp only [curJob]
  rw [hpump, taken_inst, hbase]
  exact if_neg (by simpa [accessBytes, width] using hal)

theorem window_of_not_windowed (h : ¬ windowed f off) : (!isFar f && inWindow off) = false := by
  rw [← Bool.not_eq_true]
  simpa [windowed, isFar, inWindow] using h

theorem doSt_storing (h : Reads s dst f.sa f.sb (bit f.mod 1) (bit f.mod 0) src popped x) (hw : ¬ windowed f src.a)
    (hg : goesTo s f src.a va) : doSt f (curJob s src) (taken s x) = storing f va (bit f.aux 0) (curJob s src) (taken s x) := by
  unfold doSt
  rw [if_neg (by rw [show (curJob s src).src.a = src.a from rfl, window_of_not_windowed hw]; simp),
    show (curJob s src).src.a = src.a from rfl, vaOf_of_goesTo h hg]
  rfl

theorem doStx_storing (h : Reads s dst f.sa f.sb (bit f.mod 1) (bit f.mod 0) src popped x)
    (hw : ¬ windowed f (indexed f src.a src.d)) (hg : goesTo s f (indexed f src.a src.d) va) :
    doStx f (curJob s src) (taken s x) = storing f va false (curJob s src) (taken s x) := by
  have hnot : notWindow f (indexed f src.a src.d) = .ok () := by
    unfold notWindow
    rw [window_of_not_windowed hw]
    rfl
  unfold doStx
  dsimp only
  rw [show indexed f (curJob s src).src.a (curJob s src).src.d = indexed f src.a src.d from rfl, hnot, vaOf_of_goesTo h hg]
  rfl

end

/-- What st and stx leave of their element when they are over. -/
structure StorePassed (s : State) (f : FmtM) (src : Src) (x : Elem) (inc : Bool) (t : State) : Prop where
  dp : (t.elem s.cur).dp = nextDp x s.curSlot s.curBeat
  regs : ∀ k, ((t.elem s.cur).dreg k, (t.elem s.cur).dflag k) =
    if inc ∧ k = f.sa.toNat then (src.a + wd (width f.sz), src.fa) else (x.dreg k, x.dflag k)

section
variable {s : State} {f : FmtM} {src : Src} {x : Elem} {inc : Bool} {i : Instr}

/-- A store that is over: it writes no register but the offset's. -/
theorem storing_over (hi : isWaitingCommand i = false) {t : State} {outst : List Nat} (ht : t.elem s.cur = { x with outst := outst }) :
    let u := concluded s i (advanced f src inc s.cur t) (sinkNone f) noRes
    StorePassed s f src x inc u ∧ (u.elem s.cur).outst = outst ∧ ∃ num elems, u = { t with num := num, elems := elems } := by
  intro u
  have hu : u = written (advanced f src inc s.cur t) s.cur s.curSlot s.curBeat (sinkNone f) noRes := concluded_of_not_waiting hi ..
  obtain ⟨⟨d, fl, helem⟩, hregs⟩ := advanced_elem f src inc s.cur t
  refine ⟨⟨?_, fun k => ?_⟩, ?_, ?_⟩
  · rw [hu, written_dp, helem, ht]
    rfl
  · rw [hu, written_regs, if_neg (by simp [sinkNone, dstReg]), hregs, ht]
    rfl
  · obtain ⟨outs, hw⟩ := written_elem (advanced f src inc s.cur t) s.cur s.curSlot s.curBeat (sinkNone f) noRes
    obtain ⟨_, _, _, _, hf⟩ := writtenElem_frame ((advanced f src inc s.cur t).elem s.cur) s.curSlot s.curBeat (sinkNone f) noRes
    rw [hu, hw, hf, helem, ht]
  · obtain ⟨elems, ha⟩ := advanced_state f src inc s.cur t
    obtain ⟨num, elems', hw⟩ := written_state (advanced f src inc s.cur t) s.cur s.curSlot s.curBeat (sinkNone f) noRes
    exact ⟨num, elems', by rw [hu, hw, ha]⟩

/-- A store's request at the engine of its line. -/
def storeReq (s : State) (f : FmtM) (j : Job) (va : Nat) (l : Loc) (id : Nat) : EngReq :=
  ⟨portOf (ownerOf s l.key) (s.physReg j.e.inst j.e.reg) j.e.el, .element j.e, id, j.slot, .store, l.key, va, width f.sz, j.src.b, 0, false,
    l.stamped, 0, l.log⟩

/-- The courses of a store whose address is translated, and which a sink does not log. -/
theorem storeTo_eq {j : Job} {va : Nat} {l : Loc} {s1 : State} (hx : xlate s (elemRq s j.e j.slot 0) va true = .ok (l, s1))
    (hl : j.src.fb = false ∨ isSink s j.e = false) : storeTo f j va j.src.b j.src.fb s =
      if hbQueued s (s.elem j.e).hb l.key (width f.sz) true then .error .later
      else if served s (s.physReg j.e.inst j.e.reg) l then askEngine j l (storeReq s f j va l s1.fresh) s1
      else
        match raceCheck s1 (elemRq s j.e j.slot 0) l.stamped va l.key (width f.sz) true with
        | .error e => .error e
        | .ok s2 => .ok (stored (storeAt s2 j.e (s.dieOf j.e.inst j.e.reg) (keyed l.key ((bytesOfWord j.src.b).take (width f.sz))))
            (s.inst j.e.inst).ctx va (width f.sz)) := by
  have hlog : (j.src.fb && isSink s j.e) = false := by rcases hl with h | h <;> simp [h]
  unfold storeTo
  dsimp only
  rw [hx]
  dsimp only
  rw [hlog]
  rfl

/-- The element once its store is asked of an engine. -/
theorem asked_state {t : State} {g : Nat} {r : EngReq} (hr : r.req = .element s.cur) (ht : t.elem s.cur = x) :
    ∃ oracle engines, addOut (enqueue { t with fresh := t.fresh + 1 } g r) s.cur r.id =
        ({ t with fresh := t.fresh + 1, oracle := oracle, engines := engines } : State).setElem s.cur { x with outst := x.outst ++ [r.id] } ∧
      Joins (t.engine g).reqs (kget {} engines g).reqs r := by
  obtain ⟨⟨oracle, engines, he⟩, hj⟩ := enqueue_spec { t with fresh := t.fresh + 1 } g hr
  refine ⟨oracle, engines, ?_, ?_⟩
  · rw [he, ← ht]
    rfl
  · rw [he] at hj
    exact hj

end

/-- The current slot's instruction awaits what comes before it, and nothing but its datapath has changed. -/
theorem issue_later {s : State} {i : Instr} {src : Src} {popped : List (Nat × Token)} {x : Elem} (k : Sink) {w : Work}
    (hf : w (curJob s src) (taken s x) = .error .later) :
    issueWork (curWait s i src popped) s.cur k w (taken s x) = s.setElem s.cur { x with dp := .work (curWait s i src popped) } := by
  have hn : newWork (.element s.cur) (w ⟨s.cur, s.curSlot, src⟩) (taken s x) = .error .later := by
    unfold newWork
    rw [show w ⟨s.cur, s.curSlot, src⟩ (taken s x) = .error .later from hf]
  refine (congrArg (fun o => conclude (curWait s i src popped) s.cur k o (taken s x)) hn).trans ?_
  simp [conclude, taken, State.modElem]

section
variable {s : State} {f : FmtM} {src : Src} {popped : List (Nat × Token)} {x : Elem} {inc : Bool} {i : Instr} {w : Work} {va : Nat} {l : Loc}
  {s1 : State} (hwork : w (curJob s src) (taken s x) = storing f va inc (curJob s src) (taken s x))
  (hx : xlate (taken s x) (elemRq (taken s x) s.cur s.curSlot 0) va true = .ok (l, s1)) (hl : src.fb = false ∨ isSink s s.cur = false)
include hwork hx hl

theorem storing_eq : w (curJob s src) (taken s x) =
    match (if hbQueued s x.hb l.key (width f.sz) true then .error .later
      else if viaEngine s l then askEngine (curJob s src) l (storeReq s f (curJob s src) va l s1.fresh) s1
      else
        match raceCheck s1 (elemRq (taken s x) s.cur s.curSlot 0) l.stamped va l.key (width f.sz) true with
        | .error e => .error e
        | .ok s2 => .ok (stored (storeAt s2 s.cur (s.dieOf s.cur.inst s.cur.reg) (keyed l.key ((bytesOfWord src.b).take (width f.sz))))
            (s.inst s.cur.inst).ctx va (width f.sz)) : Except Stop State) with
    | .error e => .error e
    | .ok t => .ok (noRes, advanced f src inc s.cur t) := by
  have hb : hbQueued (taken s x) ((taken s x).elem (curJob s src).e).hb l.key (width f.sz) true = hbQueued s x.hb l.key (width f.sz) true := by
    rw [show (taken s x).elem (curJob s src).e = x from taken_elem_cur ..]
    rfl
  rw [hwork, storing, storeTo_eq (j := curJob s src) hx hl, hb]
  rfl

variable (he : exec i s = .next (issueWork (curWait s i src popped) s.cur (sinkNone f) w (taken s x)))
include he

/-- R279: it waits. -/
theorem store_waits (hq : hbQueued s x.hb l.key (width f.sz) true = true) : Waits s i src popped x := by
  have hlater : w (curJob s src) (taken s x) = .error .later := by
    rw [storing_eq hwork hx hl, if_pos hq]
  exact he.trans (congrArg _ (issue_later _ hlater))

variable (hi : isWaitingCommand i = false)
include hi

/-- R250, R251, R290: it is asked of the engine of its line. -/
theorem store_asks (hq : hbQueued s x.hb l.key (width f.sz) true = false) (hv : viaEngine s l = true) : ∃ t r, exec i s = .next t ∧
    SameMemory s t ∧ (t.elem s.cur).outst = x.outst ++ [s1.fresh] ∧
    Joins (s.engine (ownerOf s l.key)).reqs (t.engine (ownerOf s l.key)).reqs r ∧ r = storeReq s f (curJob s src) va l s1.fresh ∧
    (l.stamped = false → StorePassed s f src x inc t) ∧
    (l.stamped = true → (t.elem s.cur).dp = .work (curWait s i src popped) ∧ (t.elem s.cur).asked = some s1.fresh ∧
      (t.elem s.cur).d = x.d ∧ (t.elem s.cur).fl = x.fl) := by
  obtain ⟨tlb, utlb, xreg, oracle1, hs1⟩ := CachedOnly.xlate hx
  have helem : s1.elem s.cur = x := by rw [hs1]; exact taken_elem_cur ..
  have hown : ownerOf s1 l.key = ownerOf s l.key := by rw [hs1]; rfl
  set r := storeReq s f (curJob s src) va l s1.fresh with hr
  obtain ⟨oracle, engines, hu, hj⟩ := asked_state (s := s) (t := s1) (g := ownerOf s l.key) (r := r) rfl helem
  set u := addOut (enqueue { s1 with fresh := s1.fresh + 1 } (ownerOf s l.key) r) s.cur r.id
  have hask : askEngine (curJob s src) l r s1 =
      if l.stamped then .error (.keep (u.modElem s.cur (fun x => { x with asked := some r.id }))) else .ok u := by
    unfold askEngine
    rw [hown]
    rfl
  have hcur : u.elem s.cur = { x with outst := x.outst ++ [s1.fresh] } := by rw [hu]; exact State.elem_setElem_self ..
  rw [show (s1.engine (ownerOf s l.key)).reqs = (s.engine (ownerOf s l.key)).reqs by rw [hs1]; rfl] at hj
  have hw := storing_eq hwork hx hl
  rw [if_neg (by simp [hq]), if_pos hv, hask] at hw
  cases hst : l.stamped with
  | false =>
    rw [hst, if_neg (by simp)] at hw
    obtain ⟨hpassed, houtst, num, elems, hend⟩ := storing_over (s := s) (f := f) (src := src) (inc := inc) hi hcur
    refine ⟨_, r, he.trans (congrArg _ (issue_gives hw)), .of_eq ?_ ?_, houtst, ?_, rfl, fun _ => hpassed, by simp⟩
    · rw [hend, hu, hs1]; rfl
    · rw [hend, hu, hs1]; rfl
    · rw [hend, hu]; exact hj
  | true =>
    rw [hst, if_pos rfl] at hw
    have hend := issue_keeps (i := i) (popped := popped) (k := sinkNone f) hw
    have hcur' : ((u.modElem s.cur (fun x => { x with asked := some r.id })).modElem s.cur
        (fun y => { y with dp := .work (curWait s i src popped) })).elem s.cur =
        { x with outst := x.outst ++ [s1.fresh], asked := some s1.fresh, dp := .work (curWait s i src popped) } := by
      rw [State.elem_modElem_self, State.elem_modElem_self, hcur]
      rfl
    refine ⟨_, r, he.trans (congrArg _ hend), .of_eq ?_ ?_, ?_, ?_, rfl, by simp, fun _ => ?_⟩
    · rw [hu, hs1]; rfl
    · rw [hu, hs1]; rfl
    · rw [hcur']
    · rw [hu]; exact hj
    · rw [hcur']; exact ⟨rfl, rfl, rfl, rfl⟩

/-- R180: it is performed for its own element. -/
theorem store_performs (hsz : f.sz.toNat ≤ 2) {s2 : State} (hq : hbQueued s x.hb l.key (width f.sz) true = false)
    (hv : viaEngine s l = false)
    (hr : raceCheck s1 (elemRq (taken s x) s.cur s.curSlot 0) l.stamped va l.key (width f.sz) true = .ok s2) :
    ∃ t, exec i s = .next t ∧ StorePassed s f src x inc t ∧ t.stamps = s2.stamps ∧ ∀ (a : Agent) (k : Nat),
      readByte t.mem a t.stores k =
        let own := a.inst = s.cur.inst ∧ a.reg = s.cur.reg ∧ a.el = some s.cur.el
        if own ∧ l.key ≤ k ∧ k < l.key + width f.sz then BitVec.ofNat 8 (src.b.toNat / 2 ^ (8 * (k - l.key)))
        else if own ∧ touches l.key (width f.sz) k then latest s k else readByte s.mem a s.stores k := by
  have hn : width f.sz ≤ 4 := Nat.pow_le_pow_right (by norm_num) hsz
  obtain ⟨tlb, utlb, xreg, oracle1, hs1⟩ := CachedOnly.xlate hx
  obtain ⟨stamps, hs2⟩ := raceCheck_stamps hr
  have hw := storing_eq hwork hx hl
  rw [if_neg (by simp [hq]), if_neg (by simp [hv]), hr] at hw
  dsimp only at hw
  set die := s.dieOf s.cur.inst s.cur.reg
  obtain ⟨unspec, hu⟩ := stored_unspec (storeAt s2 s.cur die (keyed l.key ((bytesOfWord src.b).take (width f.sz))))
    (s.inst s.cur.inst).ctx va (width f.sz)
  set u := stored (storeAt s2 s.cur die (keyed l.key ((bytesOfWord src.b).take (width f.sz)))) (s.inst s.cur.inst).ctx va (width f.sz)
  have hcur : u.elem s.cur = { x with outst := x.outst } := by rw [hu, hs2, hs1]; exact taken_elem_cur ..
  obtain ⟨hpassed, -, num, elems, hend⟩ := storing_over (s := s) (f := f) (src := src) (inc := inc) hi hcur
  refine ⟨_, he.trans (congrArg _ (issue_gives hw)), hpassed, ?_, fun a k => ?_⟩
  · rw [hend, hu]; rfl
  · have hread := readByte_storeAt s2 s.cur die hn l.key src.b a k
    have hmem : s2.mem = s.mem := by rw [hs2, hs1]; rfl
    have hstores : s2.stores = s.stores := by rw [hs2, hs1]; rfl
    rw [show latest s2 k = latest s k by rw [latest, hmem, hstores]; rfl, hmem, hstores] at hread
    rw [hend, hu]
    exact (congrArg (fun m => readByte m a _ k) hmem).trans hread

end

/-- Settles O26: the work of st and of stx is a store at the address they form, whose course is one of three. -/
theorem storeResults : Obligations.StoreResults := by
  intro s f src popped x hsz n stores
  have hstores {i : Instr} {off : Word} {inc : Bool} {w : Work} (hi : isWaitingCommand i = false)
      (he : exec i s = .next (issueWork (curWait s i src popped) s.cur (sinkNone f) w (taken s x)))
      (hwork : ∀ va, ¬ windowed f off → goesTo s f off va → w (curJob s src) (taken s x) = storing f va inc (curJob s src) (taken s x)) :
      stores i off inc := by
    intro va l s1 hwin hgo hx hl passed
    have hpassed {t : State} (h : StorePassed s f src x inc t) : passed t := by
      exact ⟨h.dp, fun k => (congrArg (fun p : Word × Bool => p.1) (h.regs k)).trans (apply_ite (fun p : Word × Bool => p.1) _ _ _),
        fun k => (congrArg (fun p : Word × Bool => p.2) (h.regs k)).trans (apply_ite (fun p : Word × Bool => p.2) _ _ _)⟩
    have hw := hwork va hwin hgo
    refine ⟨store_waits hw hx hl he, fun hq hv => ?_, fun s2 hq hv hr => ?_⟩
    · obtain ⟨t, r, hexec, hmem, houtst, hjoin, rfl, hun, hst⟩ := store_asks hw hx hl he hi hq hv
      exact ⟨t, _, hexec, hmem, houtst, hjoin, rfl, rfl, rfl, rfl, rfl, rfl, rfl, rfl, rfl, fun h => hpassed (hun h), hst⟩
    · obtain ⟨t, hexec, hp, hstamps, hread⟩ := store_performs hw hx hl he hi hsz hq hv hr
      exact ⟨t, hexec, hpassed hp, hstamps, hread⟩
  exact ⟨fun h => hstores rfl (runM_eq_issue (k := sinkNone f) h) fun va hwin hgo => doSt_storing h hwin hgo,
    fun h => hstores rfl (runSrcM_eq_issue h) fun va hwin hgo => doStx_storing h hwin hgo⟩

end Sys2Proof.Machine
end

section
/-! SUPPORT. What a step of the datapath leaves of its element and of the part, whichever way it ends (spec/03_element_and_word.md R41, R42,
spec/09_instr_scalar_vector.md R146, spec/23_faults_traps.md R341): for Obligations.DatapathFrame. -/

namespace Sys2Proof.Machine

/-! ## Within the element -/

/-- y is x but for what the end, the wait or the trap of an instruction changes: what it popped, the datapath, and where it writes. -/
structure Elem.Ends (k : Sink) (x y : Elem) : Prop where
  rest : ∃ inp outs dp trapped d fl p,
    y = { x with inp := inp, outs := outs, dp := dp, trapped := trapped, d := d, fl := fl, p := p }
  regs : ∀ n, some n ≠ dstReg k.dst → y.dreg n = x.dreg n ∧ y.dflag n = x.dflag n
  preds : ∀ n, n < 8 → (bit k.pu 3 = true → n ≠ bits k.pu 2 0) → bit y.p n = bit x.p n

namespace Elem.Ends
variable {k : Sink} {x y : Elem}

/-- Nothing is written. -/
theorem of_stopped {inp : KMap (List Token)} {outs : KMap (List Token)} {dp : Dp} {trapped : Bool}
    (h : y = { x with inp := inp, outs := outs, dp := dp, trapped := trapped }) : Ends k x y := by
  subst h
  exact ⟨⟨_, _, _, _, _, _, _, rfl⟩, fun _ _ => ⟨rfl, rfl⟩, fun _ _ _ => rfl⟩

theorem refl (k : Sink) (x : Elem) : Ends k x x := of_stopped rfl

theorem trans {z : Elem} (h : Ends k x y) (h' : Ends k y z) : Ends k x z := by
  obtain ⟨⟨_, _, _, _, _, _, _, hr⟩, hd, hp⟩ := h
  obtain ⟨⟨_, _, _, _, _, _, _, hr'⟩, hd', hp'⟩ := h'
  refine ⟨⟨_, _, _, _, _, _, _, hr'.trans (by rw [hr])⟩, fun n hn => ?_, fun n h8 hn => (hp' n h8 hn).trans (hp n h8 hn)⟩
  exact ⟨(hd' n hn).1.trans (hd n hn).1, (hd' n hn).2.trans (hd n hn).2⟩

end Elem.Ends

/-! ## Of the part -/

/-- Of the elements only e changes from u to t, and it ends its instruction. -/
structure Ends (e : ERef) (k : Sink) (u t : State) : Prop where
  others : ∀ a, a ≠ e → t.elem a = u.elem a
  own : Elem.Ends k (u.elem e) (t.elem e)

namespace Ends
variable {e : ERef} {k : Sink}

theorem of_elems {u t : State} (h : t.elems = u.elems) : Ends e k u t := by
  have he (a : ERef) : t.elem a = u.elem a := by rw [State.elem, h]; rfl
  exact ⟨fun a _ => he a, he e ▸ .refl k _⟩

theorem refl (u : State) : Ends e k u u := of_elems rfl

theorem trans {s u t : State} (h : Ends e k s u) (h' : Ends e k u t) : Ends e k s t :=
  ⟨fun a ha => (h'.others a ha).trans (h.others a ha), h.own.trans h'.own⟩

theorem modElem (u : State) {g : Elem → Elem} (h : Elem.Ends k (u.elem e) (g (u.elem e))) : Ends e k u (u.modElem e g) :=
  ⟨fun _ ha => State.elem_modElem_ne _ _ ha.symm, by rw [State.elem_modElem_self]; exact h⟩

/-- The datapath stops with nothing written. -/
theorem stop (u : State) (dp : Dp) : Ends e k u (u.modElem e (fun y => { y with dp := dp })) := modElem u (.of_stopped rfl)

theorem written (t : State) (e : ERef) (slot beat : Nat) (k : Sink) (r : Res) : Ends e k t (written t e slot beat k r) := by
  refine ⟨fun a ha => written_elem_ne t slot beat k r ha, ?_, fun n hn => ?_, fun n h8 hn => ?_⟩
  · obtain ⟨outs, h⟩ := written_elem t e slot beat k r
    obtain ⟨_, _, _, _, hf⟩ := writtenElem_frame (t.elem e) slot beat k r
    exact ⟨_, _, _, _, _, _, _, by rw [h, hf]⟩
  · have h := written_regs t e slot beat k r n
    rw [if_neg hn] at h
    exact ⟨congrArg (fun q : Word × Bool => q.1) h, congrArg (fun q : Word × Bool => q.2) h⟩
  · rw [written_pred t e slot beat k r h8, if_neg fun h => hn h.1 h.2.symm]

end Ends

theorem noteFault_elems (s : State) (cause : Nat) (i j : Word) : (noteFault s cause i j).elems = s.elems := by
  unfold noteFault
  dsimp only
  split <;> rfl

theorem asyncFault_elems (s : State) (e : ERef) (slot engine cause : Nat) (hd : Word) (a : Nat) (i j : Word) :
    (asyncFault s e slot engine cause hd a i j).elems = s.elems :=
  noteFault_elems s cause i j

/-- A trap stops its element. -/
theorem Ends.trapAt (s : State) (e : ERef) (k : Sink) (slot cause : Nat) (hd : Word) (a : Nat) (i j : Word) :
    Ends e k s (trapAt s e slot cause hd a i j) :=
  (Ends.modElem s (.of_stopped rfl)).trans (.of_elems (noteFault_elems ..))

/-- The elements are as they stood when the access was met. -/
theorem addAcc_elems (s : State) (q : Rq) (va : Nat) (wr : Bool) (st : AccSt) (t : State) : (addAcc s q va wr st t).elems = s.elems := by
  have hkeep : (keepWork s q.req t).elems = s.elems := by
    unfold keepWork
    split
    · split <;> rfl
    · rfl
  unfold addAcc
  dsimp only
  split
  · exact hkeep
  · exact hkeep

/-! ## What work leaves -/

/-- Each state that work comes to, at its end, at an access that it meets or with a wait, is one of I. -/
def Keeps {α : Type} (I : State → Prop) (st : α → State) : Except Stop α → Prop
  | .ok a => I (st a)
  | .error (.keep t) => I t
  | .error (.access _ _ _ t) => I t
  | .error _ => True

/-- The state that work answers beside its result. -/
abbrev stateAfter {α : Type} (r : α × State) : State := r.2

namespace Keeps
variable {α β : Type} {I J : State → Prop} {st : α → State} {st' : β → State}

theorem mono {o : Except Stop α} (h : Keeps I st o) (hIJ : ∀ t, I t → J t) : Keeps J st o := by
  match o, h with
  | .ok _, h | .error (.keep _), h | .error (.access _ _ _ _), h => exact hIJ _ h
  | .error .wait, _ | .error .later, _ | .error (.trap _ _ _ _), _ | .error (.fatal _ _ _ _), _ => trivial

theorem of_ok {a : α} {o : Except Stop α} (h : Keeps I st o) (ho : o = .ok a) : I (st a) := by
  subst ho
  exact h

theorem of_error {x : Stop} {o : Except Stop α} (h : Keeps I st o) (ho : o = .error x) : Keeps I st' (.error x) := by
  subst ho
  cases x <;> exact h

/-- Work that goes on from what other work has answered. -/
theorem bind {o : Except Stop α} {f : α → Except Stop β} (h : Keeps I st o) (hf : ∀ a, I (st a) → Keeps I st' (f a)) :
    Keeps I st' (o >>= f) := by
  cases o with
  | ok a => exact hf a h
  | error x => exact h.of_error rfl

end Keeps

/-- Work that runs against a tape. The tape and the journals are no concern of I. -/
theorem Keeps.onTape {α : Type} {I : State → Prop} (hI : ∀ t tape journals, I t → I { t with tape := tape, journals := journals })
    {r : Req} {tape : List (List Byte)} {f : State → Except Stop (α × State)} {s : State} (hs : I s)
    (hf : ∀ u, I u → Keeps I stateAfter (f u)) : Keeps I stateAfter (onTape r tape f s) := by
  have h := hf _ (hI s (some ⟨tape, []⟩) (kdel s.journals r) hs)
  have hgone {t : State} (ht : I t) : I { t with tape := none } := hI t none t.journals ht
  unfold Machine.onTape
  split
  next ho => exact hgone (h.of_ok ho)
  next ho => exact hgone (h.of_error (st' := stateAfter (α := α)) ho)
  next ho => exact h.of_error ho

theorem Keeps.newWork {α : Type} {I : State → Prop} (hI : ∀ t tape journals, I t → I { t with tape := tape, journals := journals })
    {r : Req} {f : State → Except Stop (α × State)} {s : State} (hs : I s) (hf : ∀ u, I u → Keeps I stateAfter (f u)) :
    Keeps I stateAfter (newWork r f s) := by
  unfold Machine.newWork
  split
  · exact .onTape hI hs hf
  · exact hf s hs

theorem Keeps.workOf {α : Type} {I : State → Prop} (hI : ∀ t tape journals, I t → I { t with tape := tape, journals := journals })
    {r : Req} {f : State → Except Stop (α × State)} {s : State} (hs : I s) (hf : ∀ u, I u → Keeps I stateAfter (f u)) :
    Keeps I stateAfter (workOf r f s) := by
  unfold Machine.workOf
  split
  · exact .onTape hI hs hf
  · exact .newWork hI hs hf

/-! ## The end of an instruction that may wait -/

/-- Whatever its work comes to, the instruction ends from a state of I. -/
theorem conclude_ends {I : State → Prop} (w : Wait) (e : ERef) (k : Sink) {o : Except Stop (Res × State)} {s : State} (hs : I s)
    (ho : Keeps I stateAfter o) : ∃ u, I u ∧ Ends e k u (conclude w e k o s) := by
  match o with
  | .ok (r, t) =>
    refine ⟨t, ho, Ends.trans (.of_elems ?_) (.written (commandRelease w.ins e t) e w.slot w.beat k r)⟩
    obtain ⟨_, h⟩ := commandRelease_eq w.ins e t
    rw [h]
  | .error (.trap c a i j) =>
    refine ⟨s, hs, (Ends.modElem s ?_).trans (.trapAt ..)⟩
    obtain ⟨_, h⟩ := unpopAll_eq (s.elem e) w.popped
    exact .of_stopped h
  | .error (.fatal c a i j) => exact ⟨s, hs, (Ends.modElem s (.of_stopped rfl)).trans (.of_elems (asyncFault_elems ..))⟩
  | .error (.access va wr st t) => exact ⟨s, hs, (Ends.stop s _).trans (.of_elems (addAcc_elems ..))⟩
  | .error .wait => exact ⟨s, hs, .stop s _⟩
  | .error .later => exact ⟨s, hs, .stop s _⟩
  | .error (.keep t) => exact ⟨t, ho, .stop t _⟩

end Sys2Proof.Machine
end

section
/-! SUPPORT. What the work of an instruction that may wait leaves of the elements (spec/10_instr_channels_tiles_memory.md R168,
spec/07_instr_contraction_tiles.md R113): for Obligations.DatapathFrame. -/

namespace Sys2Proof.Machine

/-! ## What is a slot's alone -/

/-- Of an element what no instruction of formats M and E writes, its registers aside. -/
def Elem.core (x : Elem) : Elem :=
  { ({} : Elem) with
    slots := x.slots, p := x.p, q := x.q, rs := x.rs, dlLat := x.dlLat, dlPend := x.dlPend, halted := x.halted, ended := x.ended
    cych := x.cych }

/-- Of the elements only e changes from s to t, and it keeps its core and the registers that `keep` names. -/
structure Own (e : ERef) (keep : Nat → Prop) (s t : State) : Prop where
  others : ∀ a, a ≠ e → t.elem a = s.elem a
  core : (t.elem e).core = (s.elem e).core
  regs : ∀ n, keep n → (t.elem e).dreg n = (s.elem e).dreg n ∧ (t.elem e).dflag n = (s.elem e).dflag n

namespace Own
variable {e : ERef} {keep : Nat → Prop} {s t u : State}

theorem of_elems (h : t.elems = s.elems) : Own e keep s t := by
  have he (a : ERef) : t.elem a = s.elem a := by rw [State.elem, h]; rfl
  exact ⟨fun a _ => he a, by rw [he], fun n _ => by rw [he]; exact ⟨rfl, rfl⟩⟩

theorem refl (s : State) : Own e keep s s := of_elems rfl

theorem trans (h : Own e keep s t) (h' : Own e keep t u) : Own e keep s u :=
  ⟨fun a ha => (h'.others a ha).trans (h.others a ha), h'.core.trans h.core,
    fun n hn => ⟨(h'.regs n hn).1.trans (h.regs n hn).1, (h'.regs n hn).2.trans (h.regs n hn).2⟩⟩

/-- What changes no element. -/
theorem elems (h : Own e keep s t) (hu : u.elems = t.elems) : Own e keep s u := h.trans (of_elems hu)

/-- What changes neither registers nor core of e. -/
theorem modElem (h : Own e keep s t) (g : Elem → Elem) (hc : (g (t.elem e)).core = (t.elem e).core) (hd : (g (t.elem e)).d = (t.elem e).d)
    (hf : (g (t.elem e)).fl = (t.elem e).fl) : Own e keep s (t.modElem e g) := by
  refine h.trans ⟨fun a ha => State.elem_modElem_ne _ _ ha.symm, ?_, fun n _ => ?_⟩
  · rw [State.elem_modElem_self, hc]
  · rw [State.elem_modElem_self, Elem.dreg, hd, Elem.dflag, hf]
    exact ⟨rfl, rfl⟩

end Own

/-! ## Accesses (spec/17_translation.md R265 to R273, spec/18_memory_model.md R286 to R290) -/

/-- No element and no byte of memory changes from s to t. -/
structure ReadKept (s t : State) : Prop where
  elems : t.elems = s.elems
  mem : t.mem = s.mem
  stores : t.stores = s.stores

namespace ReadKept
variable {s t u : State}

theorem refl (s : State) : ReadKept s s := ⟨rfl, rfl, rfl⟩

theorem trans (h : ReadKept s t) (h' : ReadKept t u) : ReadKept s u :=
  ⟨h'.elems.trans h.elems, h'.mem.trans h.mem, h'.stores.trans h.stores⟩

theorem of_cachedOnly (h : CachedOnly s t) : ReadKept s t := by
  obtain ⟨_, _, _, _, rfl⟩ := h
  exact ⟨rfl, rfl, rfl⟩

end ReadKept

/-- A stop that carries no state: the part is as it was, but for a trap or a fault. -/
def Stop.Plain : Stop → Prop
  | .access _ _ _ _ | .keep _ => False
  | .wait | .later | .trap _ _ _ _ | .fatal _ _ _ _ => True

theorem Keeps.of_plain {α : Type} {I : State → Prop} {st : α → State} {o : Except Stop α} (hok : ∀ a, o = .ok a → I (st a))
    (herr : ∀ x, o = .error x → x.Plain) : Keeps I st o := by
  match o with
  | .ok a => exact hok a rfl
  | .error .wait | .error .later | .error (.trap _ _ _ _) | .error (.fatal _ _ _ _) => trivial
  | .error (.access _ _ _ _) => exact (herr _ rfl).elim
  | .error (.keep _) => exact (herr _ rfl).elim

theorem xlate_keeps (s : State) (q : Rq) (va : Nat) (wr : Bool) : Keeps (ReadKept s) stateAfter (xlate s q va wr) := by
  cases h : xlate s q va wr with
  | ok r => exact .of_cachedOnly (CachedOnly.xlate h)
  | error x =>
    unfold xlate at h
    dsimp only at h
    split at h
    · cases h
      exact .refl s
    · split_ifs at h
      all_goals
        cases h
      · trivial
      · exact .refl s
      · exact .refl s
      · exact .refl s
      · trivial

theorem raceAll_keeps (q : Rq) (x : Nat) (at_ : Nat → Nat) (wr : Bool) (gs : List Nat) (s : State) :
    Keeps (ReadKept s) id (raceAll q x at_ wr gs s) := by
  refine .of_plain (fun t h => ?_) (fun e h => ?_)
  · obtain ⟨_, rfl⟩ := raceAll_stamps h
    exact ⟨rfl, rfl, rfl⟩
  · induction gs generalizing s with
    | nil => cases h
    | cons g gs ih =>
      rw [raceAll] at h
      split at h
      next => exact ih _ h
      next ho =>
        cases h
        unfold raceOne at ho
        dsimp only at ho
        split at ho
        · cases ho
          split <;> trivial
        · split at ho <;> cases ho

theorem raceCheck_keeps (s : State) (q : Rq) (stamped : Bool) (va k n : Nat) (wr : Bool) :
    Keeps (ReadKept s) id (raceCheck s q stamped va k n wr) := by
  unfold raceCheck
  split
  · exact .refl s
  · split
    · exact raceAll_keeps ..
    · exact .refl s

theorem tileRace_keeps (s : State) (q : Rq) (y : Nat × Nat) (off n : Nat) (wr : Bool) :
    Keeps (ReadKept s) id (tileRace s q y off n wr) := by
  unfold tileRace
  split
  · trivial
  · split
    · exact .refl s
    · exact raceAll_keeps ..

theorem readAt_keeps (q : Rq) (l : Loc) (va n : Nat) (s : State) : Keeps (ReadKept s) stateAfter (readAt q l va n s) := by
  have hrace := raceCheck_keeps s q l.stamped va l.key n false
  unfold readAt
  split
  · trivial
  · split
    next => trivial
    next ho => exact hrace.of_error ho
    next ho => exact hrace.of_ok ho

theorem readIn_keeps (q : Rq) (va n : Nat) (s : State) : Keeps (ReadKept s) stateAfter (readIn q va n s) := by
  have hx := xlate_keeps s q va false
  unfold readIn
  split
  next ho => exact hx.of_error ho
  next ho => exact (readAt_keeps ..).mono fun _ => (hx.of_ok ho).trans

/-- A write leaves the elements. -/
theorem writeIn_keeps (q : Rq) (va : Nat) (bs : List Byte) (s : State) :
    Keeps (fun t => t.elems = s.elems) id (writeIn q va bs s) := by
  have hx := (xlate_keeps s q va true).mono fun _ => ReadKept.elems
  unfold writeIn
  split
  next ho => exact hx.of_error ho
  next l s1 ho =>
    have hs1 : s1.elems = s.elems := hx.of_ok ho
    have hrace := (raceCheck_keeps s1 q l.stamped va l.key bs.length true).mono fun _ h => h.elems.trans hs1
    split
    · trivial
    · split
      next ho => exact hrace.of_error ho
      next s2 ho =>
        obtain ⟨_, _, _, h⟩ := (MemoryOnly.writeThrough s2 (keyed l.key bs)).trans (.stored _ q.ctx va bs.length)
        have hs2 : s2.elems = s.elems := hrace.of_ok ho
        exact (congrArg State.elems h).trans hs2

theorem logged_readKept (s : State) (b : List Byte) : ReadKept s (logged s b) := by
  unfold logged
  split <;> exact ⟨rfl, rfl, rfl⟩

theorem taped_readKept {s t : State} {b : List Byte} (h : taped s = some (b, t)) : ReadKept s t := by
  unfold taped at h
  split at h
  · cases h
    exact ⟨rfl, rfl, rfl⟩
  · cases h

theorem readFrom_keeps (q : Rq) (first : Bool) (f va n : Nat) (s : State) :
    Keeps (ReadKept s) stateAfter (readFrom q first f va n s) := by
  induction f generalizing first va n s with
  | zero => exact .refl s
  | succ f ih =>
    unfold readFrom
    split
    · exact .refl s
    · have hpiece : Keeps (ReadKept s) stateAfter (match taped s with
          | some r => .ok r
          | none =>
            match readIn (if first then q else goOn s q va) va (spanOf s q va n false) s with
            | .error e => .error e
            | .ok (b, s1) => .ok (b, logged s1 b)) := by
        have hr := readIn_keeps (if first then q else goOn s q va) va (spanOf s q va n false) s
        split
        next ho => exact taped_readKept ho
        next =>
          split
          next ho => exact hr.of_error ho
          next ho => exact (hr.of_ok ho).trans (logged_readKept ..)
      dsimp only
      split
      next ho => exact hpiece.of_error ho
      next b s1 ho =>
        have hs1 : ReadKept s s1 := hpiece.of_ok ho
        have hrest := (ih false ((va + b.length) % 2 ^ 56) (n - b.length) s1).mono fun _ => hs1.trans
        split
        next ho => exact hrest.of_error ho
        next s2 ho =>
          have hs2 : ReadKept s s2 := hrest.of_ok ho
          exact hs2

theorem writeFrom_keeps (q : Rq) (first : Bool) (f va : Nat) (bs : List Byte) (s : State) :
    Keeps (fun t => t.elems = s.elems) id (writeFrom q first f va bs s) := by
  induction f generalizing first va bs s with
  | zero => exact rfl
  | succ f ih =>
    unfold writeFrom
    split
    · exact rfl
    · have hpiece : Keeps (fun t => t.elems = s.elems) stateAfter (match taped s with
          | some r => .ok r
          | none =>
            let b := bs.take (spanOf s q va bs.length true)
            match writeIn (if first then q else goOn s q va) va b s with
            | .error e => .error e
            | .ok s1 => .ok (b, logged s1 b)) := by
        have hw := writeIn_keeps (if first then q else goOn s q va) va (bs.take (spanOf s q va bs.length true)) s
        split
        next ho => exact (taped_readKept ho).elems
        next =>
          dsimp only
          split
          next ho => exact hw.of_error ho
          next ho => exact (logged_readKept ..).elems.trans (hw.of_ok ho)
      dsimp only
      split
      next ho => exact hpiece.of_error ho
      next b s1 ho =>
        have hs1 : s1.elems = s.elems := hpiece.of_ok ho
        exact (ih false ((va + b.length) % 2 ^ 56) (bs.drop b.length) s1).mono fun _ h => h.trans hs1

theorem readWords_keeps (q : Rq) (va n : Nat) (s : State) : Keeps (ReadKept s) stateAfter (readWords q va n s) := by
  have hr : Keeps (ReadKept s) stateAfter (readVA q va (4 * n) s) := readFrom_keeps ..
  unfold readWords
  split
  next ho => exact hr.of_error ho
  next ho => exact hr.of_ok ho

end Sys2Proof.Machine
end

section
/-! SUPPORT. The courses of the instructions that may wait, from the sources that they read on (spec/03_element_and_word.md R41, R42,
spec/10_instr_channels_tiles_memory.md R168): for Obligations.DatapathFrame. -/

namespace Sys2Proof.Machine

/-- Sources that are read change of the element what its channels hold. -/
theorem fetch_inp {x y : Elem} {t : Trigger} {coord : Word} {dst sa sb : BitVec 4} {pa pb : Bool} {src : Src} {ps : List (Nat × Token)}
    (h : fetch x t coord dst sa sb pa pb = .got src ps y) : ∃ inp, y = { x with inp := inp } := by
  obtain ⟨-, rfl⟩ := fetch_got h
  refine ⟨(popAll x ps).inp, ?_⟩
  calc popAll x ps = { ({ popAll x ps with inp := x.inp } : Elem) with inp := (popAll x ps).inp } := rfl
    _ = { x with inp := (popAll x ps).inp } := by rw [popAll_inp]

theorem Ends.hold (s : State) (k : Sink) : Ends s.cur k s (hold s) := .stop s _

theorem Ends.trapCur (s : State) (k : Sink) (cause : Nat) (i j : Word) : Ends s.cur k s (trapCur s cause i j) := .trapAt ..

/-! ## The course of an instruction, whatever its work keeps -/

section
variable {I : State → Prop} {s : State}

/-- The state in which the work begins, and what the part looks at while a hold lasts, are no concern of I. -/
structure Opens (I : State → Prop) (s : State) : Prop where
  now : I s
  popped : ∀ inp, I (s.setElem s.cur { s.curElem with inp := inp })
  taped : ∀ t tape journals, I t → I { t with tape := tape, journals := journals }

variable (h : Opens I s)
include h

theorem Opens.got {dst sa sb : BitVec 4} {pa pb : Bool} {src : Src} {ps : List (Nat × Token)} {x : Elem}
    (hf : fetch s.curElem s.curTrig s.curCoord dst sa sb pa pb = .got src ps x) : I (s.setElem s.cur x) := by
  obtain ⟨_, rfl⟩ := fetch_inp hf
  exact h.popped _

theorem issueWork_ends (w : Wait) (e : ERef) (k : Sink) {f : Work} {u : State} (hu : I u)
    (hf : ∀ v, I v → Keeps I stateAfter (f ⟨e, w.slot, w.src⟩ v)) : ∃ v, I v ∧ Ends e k v (issueWork w e k f u) :=
  conclude_ends w e k hu (.newWork h.taped hu hf)

theorem settle_ends (w : Wait) (e : ERef) (k : Sink) {f : Work} {u : State} (hu : I u)
    (hf : ∀ v, I v → Keeps I stateAfter (f ⟨e, w.slot, w.src⟩ v)) : ∃ v, I v ∧ Ends e k v (settle w e k f u) := by
  have hdrop : I (dropJournal u (.element e)) := by
    unfold dropJournal
    split
    · exact h.taped u u.tape _ hu
    · exact hu
  unfold settle
  split
  · exact ⟨u, hu, .refl u⟩
  · refine conclude_ends w e k ?_ (.workOf h.taped hu hf)
    split
    · exact hu
    · exact hu
    · exact hdrop

theorem waiting_ends (ins : Instr) (sa sb : BitVec 4) (pa pb : Bool) (k : Sink) {f : Work}
    (hf : ∀ src v, I v → Keeps I stateAfter (f ⟨s.cur, s.curSlot, src⟩ v)) :
    ∃ u, I u ∧ Ends s.cur k u (waiting s ins sa sb pa pb k f) := by
  unfold waiting
  dsimp only
  split
  · exact ⟨s, h.now, .hold s k⟩
  · split
    next => exact ⟨s, h.now, .hold s k⟩
    next => exact ⟨s, h.now, .trapCur s k _ _ _⟩
    next hg => exact issueWork_ends h _ _ _ (h.got hg) (hf _)

theorem runSrcM_ends (g : FmtM) (ins : Instr) {f : Work} {t : State} (ht : runSrcM g ins s f = .next t)
    (hf : ∀ src v, I v → Keeps I stateAfter (f ⟨s.cur, s.curSlot, src⟩ v)) :
    ∃ u, I u ∧ Ends s.cur (sinkNone g) u t := by
  unfold runSrcM at ht
  dsimp only at ht
  split at ht
  next => cases ht; exact ⟨s, h.now, .hold s _⟩
  next => cases ht; exact ⟨s, h.now, .trapCur s _ _ _ _⟩
  next hg => cases ht; exact issueWork_ends h _ _ _ (h.got hg) (hf _)

/-- bar: its work is to take its number, then to wait for the call. -/
theorem execBar_ends (f : FmtE) {t : State} (ht : execBar f s = .next t)
    (hstart : ∀ src v, I v → Keeps I stateAfter (startBar ⟨s.cur, s.curSlot, src⟩ v))
    (hbar : ∀ n src v, I v → Keeps I stateAfter (workBar n ⟨s.cur, s.curSlot, src⟩ v)) :
    ∃ u, I u ∧ Ends s.cur (sinkE f) u t := by
  unfold execBar at ht
  dsimp only at ht
  cases ht
  split
  · exact ⟨s, h.now, .hold s _⟩
  · split
    next => exact ⟨s, h.now, .hold s _⟩
    next => exact ⟨s, h.now, .trapCur s _ _ _ _⟩
    next src _ x hg =>
      have hx := h.got hg
      have hwork := hstart src _ hx
      unfold settleBar
      split
      · split
        next ho => exact ⟨_, hwork.of_ok ho, .stop _ _⟩
        next ho => exact conclude_ends _ _ _ hx (hwork.of_error ho)
      · exact settle_ends h _ _ _ hx (hbar _ _)

/-- dwait: its work is to find its round, then to wait for it. -/
theorem execDwait_ends (f : FmtE) {t : State} (ht : execDwait f s = .next t)
    (hstart : ∀ src v, I v → Keeps I stateAfter (startDwait ⟨s.cur, s.curSlot, src⟩ v))
    (hdwait : ∀ n src v, I v → Keeps I stateAfter (workDwait n ⟨s.cur, s.curSlot, src⟩ v)) :
    ∃ u, I u ∧ Ends s.cur (sinkE f) u t := by
  unfold execDwait at ht
  dsimp only at ht
  cases ht
  split
  · exact ⟨s, h.now, .hold s _⟩
  · split
    next => exact ⟨s, h.now, .hold s _⟩
    next => exact ⟨s, h.now, .trapCur s _ _ _ _⟩
    next src _ x hg =>
      have hx := h.got hg
      have hwork := Keeps.newWork h.taped (r := .element s.cur) hx (hstart src)
      unfold issueDwait
      split
      next ho => exact issueWork_ends h _ _ _ (hwork.of_ok ho) (hdwait _ _)
      next ho => exact conclude_ends _ _ _ hx (hwork.of_error ho)

end

/-! ## Memory -/

/-- Memory is as s has it. -/
def MemKept (s t : State) : Prop := t.mem = s.mem ∧ t.stores = s.stores

theorem MemKept.sameMemory {s t : State} (h : MemKept s t) : SameMemory s t := .of_eq h.1 h.2

theorem trapAt_memKept (s : State) (e : ERef) (slot cause : Nat) (hd : Word) (a : Nat) (i j : Word) :
    MemKept s (trapAt s e slot cause hd a i j) := by
  have h (u : State) : MemKept u (noteFault u cause i j) := by
    unfold noteFault
    dsimp only
    split <;> exact ⟨rfl, rfl⟩
  exact h (s.modElem e (fun x => { x with trapped := true, dp := .idle }))

theorem asyncFault_memKept (s : State) (e : ERef) (slot engine cause : Nat) (hd : Word) (a : Nat) (i j : Word) :
    MemKept s (asyncFault s e slot engine cause hd a i j) := by
  unfold asyncFault raiseFault noteFault
  dsimp only
  split <;> exact ⟨rfl, rfl⟩

theorem addAcc_memKept {s t u : State} (hs : MemKept u s) (ht : MemKept u t) (q : Rq) (va : Nat) (wr : Bool) (st : AccSt) :
    MemKept u (addAcc s q va wr st t) := by
  have hkeep : MemKept u (keepWork s q.req t) := by
    unfold keepWork
    split
    · split
      · exact hs
      · exact ht
    · exact hs
  unfold addAcc
  dsimp only
  split
  · exact hkeep
  · exact hkeep

theorem conclude_memKept (w : Wait) (e : ERef) (k : Sink) {o : Except Stop (Res × State)} {s u : State} (hs : MemKept u s)
    (ho : Keeps (MemKept u) stateAfter o) : MemKept u (conclude w e k o s) := by
  match o with
  | .ok (r, t) =>
    obtain ⟨hm, hst⟩ : MemKept u t := ho
    obtain ⟨_, hc⟩ := commandRelease_eq w.ins e t
    obtain ⟨_, _, hw⟩ := written_state (commandRelease w.ins e t) e w.slot w.beat k r
    have h : conclude w e k (.ok (r, t)) s = written (commandRelease w.ins e t) e w.slot w.beat k r := rfl
    rw [h, hw, hc]
    exact ⟨hm, hst⟩
  | .error (.trap c a i j) =>
    obtain ⟨hm, hst⟩ := trapAt_memKept (s.modElem e (fun y => unpopAll y w.popped)) e w.slot c 0 a i j
    exact ⟨hm.trans hs.1, hst.trans hs.2⟩
  | .error (.fatal c a i j) =>
    obtain ⟨hm, hst⟩ := asyncFault_memKept (s.modElem e (fun y => { y with dp := nextDp y w.slot w.beat })) e w.slot 0 c 0 a i j
    exact ⟨hm.trans hs.1, hst.trans hs.2⟩
  | .error (.access va wr st t) => exact addAcc_memKept (s := s.modElem e (fun y => { y with dp := .work w })) hs ho ..
  | .error .wait => exact hs
  | .error .later => exact hs
  | .error (.keep t) => exact ho

theorem issueWork_memKept (w : Wait) (e : ERef) (k : Sink) {f : Work} {u s : State} (hs : MemKept u s)
    (hf : ∀ v, MemKept u v → Keeps (MemKept u) stateAfter (f ⟨e, w.slot, w.src⟩ v)) : MemKept u (issueWork w e k f s) :=
  conclude_memKept w e k hs (.newWork (fun _ _ _ h => h) hs hf)

theorem waiting_memKept (s : State) (ins : Instr) (sa sb : BitVec 4) (pa pb : Bool) (k : Sink) {f : Work}
    (hf : ∀ src v, MemKept s v → Keeps (MemKept s) stateAfter (f ⟨s.cur, s.curSlot, src⟩ v)) :
    MemKept s (waiting s ins sa sb pa pb k f) := by
  unfold waiting
  dsimp only
  split
  · exact ⟨rfl, rfl⟩
  · split
    next => exact ⟨rfl, rfl⟩
    next => exact trapAt_memKept ..
    next => exact issueWork_memKept _ _ _ ⟨rfl, rfl⟩ (hf _)

theorem runSrcM_memKept (s : State) (g : FmtM) (ins : Instr) {f : Work} {t : State} (ht : runSrcM g ins s f = .next t)
    (hf : ∀ src v, MemKept s v → Keeps (MemKept s) stateAfter (f ⟨s.cur, s.curSlot, src⟩ v)) : MemKept s t := by
  unfold runSrcM at ht
  dsimp only at ht
  split at ht
  next => cases ht; exact ⟨rfl, rfl⟩
  next => cases ht; exact trapAt_memKept ..
  next => cases ht; exact issueWork_memKept _ _ _ ⟨rfl, rfl⟩ (hf _)

end Sys2Proof.Machine
end

section
/-! SUPPORT. What the work of format M's instructions leaves of the elements, and of memory where it stores nothing
(spec/10_instr_channels_tiles_memory.md R166 to R187): for Obligations.DatapathFrame. -/

namespace Sys2Proof.Machine

/-! ## Work that stores nothing -/

/-- I speaks of memory, of the elements but e, and of e's core and registers at most. -/
structure Reading (e : ERef) (I : State → Prop) : Prop where
  kept : ∀ {t u}, I t → ReadKept t u → I u
  own : ∀ {t} (g : Elem → Elem), I t → (g (t.elem e)).core = (t.elem e).core → (g (t.elem e)).d = (t.elem e).d →
    (g (t.elem e)).fl = (t.elem e).fl → I (t.modElem e g)

theorem Own.reading (e : ERef) (keep : Nat → Prop) (s : State) : Reading e (Own e keep s) :=
  ⟨fun h hk => h.elems hk.elems, fun g h => h.modElem g⟩

theorem MemKept.reading (e : ERef) (s : State) : Reading e (MemKept s) :=
  ⟨fun h hk => ⟨hk.mem.trans h.1, hk.stores.trans h.2⟩, fun _ h _ _ _ => h⟩

theorem choose_readKept (s : State) : ReadKept s s.choose.2 := by
  obtain ⟨_, h⟩ := choose_state s
  rw [h]
  exact ⟨rfl, rfl, rfl⟩

theorem enqueue_readKept (s : State) (g : Nat) (r : EngReq) : ReadKept s (enqueue s g r) := by
  unfold enqueue
  split
  · exact (choose_readKept s).trans ⟨rfl, rfl, rfl⟩
  · exact ⟨rfl, rfl, rfl⟩

theorem foldl_readKept {α : Type} {f : State → α → State} (hf : ∀ t a, ReadKept t (f t a)) (as : List α) (s : State) :
    ReadKept s (as.foldl f s) :=
  List.foldlRecOn as f (.refl s) fun _ h a _ => h.trans (hf _ a)

theorem actTables_readKept (s : State) (inst : Nat) (hs : List Word) (key : Nat) : ReadKept s (actTables s inst hs key) :=
  foldl_readKept (f := fun t h => t.act (.table (entryOf s inst h).1) key) (fun _ _ => ⟨rfl, rfl, rfl⟩) hs s

section
variable {I : State → Prop} {s : State} {j : Job} (hI : Reading j.e I) (hs : I s)

theorem notWindow_keeps (f : FmtM) (off : Word) {st : Unit → State} (h : I (st ())) : Keeps I st (notWindow f off) := by
  unfold notWindow
  split
  · trivial
  · exact h

include hs in
theorem vaOf_keeps (f : FmtM) (j : Job) (off : Word) (u : State) : Keeps I (fun _ => s) (vaOf f j off u) := by
  unfold vaOf
  dsimp only
  split
  · trivial
  · split
    · trivial
    · exact hs

include hs in
theorem aligned_keeps (p : Word) (n : Nat) : Keeps I (fun _ => s) (aligned p n) := by
  unfold aligned
  split
  · exact hs
  · trivial

include hs in
theorem accessTile_keeps : Keeps I (fun _ => s) (accessTile s j) := by
  unfold accessTile needTile
  split
  · exact hs
  · split
    · exact hs
    · trivial

include hs in
theorem workPqry_keeps (f : FmtM) : Keeps I stateAfter (workPqry f j s) := hs

include hI

theorem Reading.act (hs : I s) (a : Arena) (k : Nat) : I (s.act a k) := hI.kept hs ⟨rfl, rfl, rfl⟩

/-- What an element acquires. -/
theorem Reading.acquireOptAt (hs : I s) (r : Option Release) : I (acquireOptAt s j.e r) := by
  unfold Machine.acquireOptAt
  split
  · exact hs
  · exact hI.own (t := acquire s (s.physReg j.e.inst j.e.reg) _) _ (hI.kept hs ⟨rfl, rfl, rfl⟩) rfl rfl rfl

theorem Reading.addRet (hs : I s) (id : Nat) (tag : BitVec 2) (v : Option Word) : I (addRet s j.e id tag v) :=
  hI.own _ hs rfl rfl rfl

theorem Reading.addOut (hs : I s) (id : Nat) : I (addOut s j.e id) := hI.own _ hs rfl rfl rfl

theorem atTable_keeps {α : Type} (tab : Nat) {r : Except Stop (α × State)} (hr : Keeps I stateAfter r) :
    Keeps I stateAfter (atTable j.e tab s r) := by
  unfold atTable
  split
  · split
    next => exact hI.act hr ..
    next => exact hr.of_error rfl
  · trivial

include hs

theorem askEngine_keeps (l : Loc) (r : EngReq) : Keeps I id (askEngine j l r s) := by
  have hq : I (enqueue { s with fresh := s.fresh + 1 } (ownerOf s l.key) r) :=
    hI.kept (hI.kept hs (u := { s with fresh := s.fresh + 1 }) ⟨rfl, rfl, rfl⟩) (enqueue_readKept ..)
  have hu : I (match r.op with
      | .load _ => addRet (enqueue { s with fresh := s.fresh + 1 } (ownerOf s l.key) r) j.e r.id r.tag none
      | _ => addOut (enqueue { s with fresh := s.fresh + 1 } (ownerOf s l.key) r) j.e r.id) := by
    split
    · exact hI.addRet hq ..
    · exact hI.addOut hq _
  unfold askEngine
  dsimp only
  split
  · exact hI.own _ hu rfl rfl rfl
  · exact hu

theorem loadAt_keeps (f : FmtM) (va : Nat) : Keeps I id (loadAt f j va s) := by
  have hx := (xlate_keeps s (elemRq s j.e j.slot 0) va false).mono fun _ => hI.kept hs
  unfold loadAt
  dsimp only
  split
  next ho => exact hx.of_error ho
  next l s1 ho =>
    have hs1 : I s1 := hx.of_ok ho
    split
    · split
      · trivial
      · exact askEngine_keeps hI hs1 ..
    · have hr := (readAt_keeps (elemRq s j.e j.slot 0) l va (width f.sz) s1).mono fun _ => hI.kept hs1
      split
      next ho => exact hr.of_error ho
      next s2 ho =>
        have hs2 : I s2 := hr.of_ok ho
        exact hI.addRet (s := { s2 with fresh := s2.fresh + 1 }) (hI.kept hs2 ⟨rfl, rfl, rfl⟩) ..

/-- A load changes no register but, with `.inc`, its offset. -/
theorem doLd_keeps (f : FmtM) (off : Word) (inc : Bool) (hinc : inc = true → ∀ t, I t → I (incReg f j t)) :
    Keeps I stateAfter (doLd f off inc j s) := by
  have hn := notWindow_keeps f off (st := fun _ => s) hs
  have hv := vaOf_keeps hs f j off s
  unfold doLd
  split
  next ho => exact hn.of_error ho
  next ho _ => exact hv.of_error ho
  next va _ _ =>
    have hl := loadAt_keeps hI hs f va
    split
    next ho => exact hl.of_error ho
    next s1 ho =>
      have hs1 : I s1 := hl.of_ok ho
      cases inc
      · exact hs1
      · exact hinc rfl s1 hs1

theorem wkAtom_keeps (f : FmtM) (ret : Bool) : Keeps I stateAfter (wkAtom f ret j s) := by
  have hn := notWindow_keeps { f with aux := 0 } j.src.a (st := fun _ => s) hs
  have hv := vaOf_keeps hs { f with aux := 0 } j j.src.a s
  unfold wkAtom
  split
  next ho => exact hn.of_error ho
  next ho _ => exact hv.of_error ho
  next va _ _ =>
    have hx := (xlate_keeps s (elemRq s j.e j.slot 1) va true).mono fun _ => hI.kept hs
    split
    next ho => exact hx.of_error ho
    next l s1 ho =>
      have hs1 : I s1 := hx.of_ok ho
      split
      · trivial
      · have hq := hI.kept (hI.kept hs1 (u := { s1 with fresh := s1.fresh + 1 }) ⟨rfl, rfl, rfl⟩) (enqueue_readKept _ (ownerOf s l.key)
          ⟨portOf (ownerOf s l.key) (s.physReg j.e.inst j.e.reg) j.e.el, .element j.e, s1.fresh, j.slot, .form f.aux.toNat, l.key,
            va, width f.sz, j.src.b, j.src.d, ret, l.stamped, f.ot, l.log⟩)
        cases ret
        · exact hI.addOut hq _
        · exact hI.addRet hq ..

theorem ringHeader_keeps (q : Rq) (va : Nat) : Keeps I stateAfter (ringHeader q va s) := by
  have hp : Keeps I (fun _ => s) (if (taped s).isSome then .ok 1 else (placeAt s q va false).map Loc.home) := by
    have hx := (xlate_keeps s q va false).mono fun _ => hI.kept hs
    split
    · exact hs
    · unfold placeAt
      split
      next ho => exact hx.of_error ho
      next ho => exact hs
  have hr := (readWords_keeps q va 16 s).mono fun _ => hI.kept hs
  unfold ringHeader
  split
  next ho => exact hp.of_error ho
  next =>
    split
    · trivial
    · split
      next ho => exact hr.of_error ho
      next s1 ho =>
        have hs1 : I s1 := hr.of_ok ho
        dsimp only
        split
        · exact hs1
        · trivial

theorem wkRget_keeps (f : FmtM) : Keeps I stateAfter (wkRget f j s) := by
  have ha := aligned_keeps hs j.src.a 64
  unfold wkRget
  split
  next ho => exact ha.of_error ho
  next =>
    dsimp only
    have hh := ringHeader_keeps hI hs (ringRq j s) (dataVA s j.e.inst j.src.a.toNat)
    split
    next ho => exact hh.of_error ho
    next ws s1 ho =>
      have hs1 : I s1 := hh.of_ok ho
      split
      · trivial
      · split
        · have hr := (readWords_keeps (ringRq j s) (recVA (dataVA s j.e.inst j.src.a.toNat) ws j.src.b.toNat) 4 s1).mono
            fun _ => hI.kept hs1
          split
          next ho => exact hr.of_error ho
          next s2 ho =>
            have hs2 : I s2 := hr.of_ok ho
            exact hI.act hs2 ..
        · exact hI.act hs1 ..

/-! ## Tiles (R98 to R104, R171 to R175) -/

theorem workTfree_keeps (f : FmtM) : Keeps I stateAfter (workTfree f j s) := by
  refine atTable_keeps hI _ ?_
  split
  · split
    · exact hI.kept hs ⟨rfl, rfl, rfl⟩
    · exact hI.kept hs ⟨rfl, rfl, rfl⟩
  · split
    · exact hs
    · trivial

theorem workTcfg_keeps (f : FmtM) : Keeps I stateAfter (workTcfg f j s) := by
  refine atTable_keeps hI _ ?_
  split_ifs
  · trivial
  · trivial
  · trivial
  · trivial
  · exact hI.kept hs ⟨rfl, rfl, rfl⟩

theorem workTqry_keeps (f : FmtM) : Keeps I stateAfter (workTqry f j s) := atTable_keeps hI _ hs

theorem waitOnF_keeps {α : Type} {st : α → State} (t : Nat × Nat) : Keeps I st (.error (waitOnF s j.e t)) := by
  unfold waitOnF
  split
  · trivial
  · exact hI.own (t := (addUse s t).act _ _) _ (hI.kept hs ⟨rfl, rfl, rfl⟩) rfl rfl rfl

theorem dropWaitUse_keeps : I (dropWaitUse s j.e) := by
  unfold dropWaitUse
  split
  · exact hs
  · exact hI.own (t := dropUse s _) _ (hI.kept hs ⟨rfl, rfl, rfl⟩) rfl rfl rfl

theorem queueTile_keeps (t : Nat × Nat) (r : TileReq) : I (queueTile { s with fresh := s.fresh + 1 } t r) :=
  hI.kept hs ⟨rfl, rfl, rfl⟩

theorem workTld_keeps (f : FmtM) : Keeps I stateAfter (workTld f j s) := by
  refine atTable_keeps hI _ ?_
  have ha := accessTile_keeps hs (j := j)
  split
  next ho => exact ha.of_error ho
  next t _ =>
    extract_lets x i s0 s1
    split
    · trivial
    · split
      · exact waitOnF_keeps hI hs t
      · have h0 : I s0 := dropWaitUse_keeps hI hs
        have h1 : I s1 := by
          unfold s1
          split
          · exact hI.acquireOptAt h0 _
          · exact h0
        have hr := (tileRace_keeps s1 (elemRq s1 j.e j.slot 0) t (4 * i) 4 false).mono fun _ => hI.kept h1
        split
        next ho => exact hr.of_error ho
        next s2 ho =>
          have hs2 : I s2 := hr.of_ok ho
          exact hI.addRet (queueTile_keeps hI hs2 ..) ..

theorem workTst_keeps (f : FmtM) : Keeps I stateAfter (workTst f j s) := by
  refine atTable_keeps hI _ ?_
  have ha := accessTile_keeps hs (j := j)
  split
  next ho => exact ha.of_error ho
  next t _ =>
    extract_lets x i s0
    split
    · trivial
    · split
      · exact waitOnF_keeps hI hs t
      · have h0 : I s0 := dropWaitUse_keeps hI hs
        have hr := (tileRace_keeps s0 (elemRq s0 j.e j.slot 0) t (4 * i) 4 true).mono fun _ => hI.kept h0
        split
        next ho => exact hr.of_error ho
        next s1 ho =>
          have hs1 : I s1 := hr.of_ok ho
          exact hI.addOut (queueTile_keeps hI hs1 ..) _

/-! ## Pumps (R178) -/

theorem endPump_keeps (pm : Nat) (p : Pump) : I (endPump s j.e pm p) := by
  have hd : ReadKept s (dropJournal s (.pump j.e pm)) := by
    unfold dropJournal
    split <;> exact ⟨rfl, rfl, rfl⟩
  have hu := hI.kept hs (hd.trans (foldl_readKept (f := fun t h => dropUse t (entryOf (dropJournal s (.pump j.e pm)) j.e.inst h))
    (fun _ _ => ⟨rfl, rfl, rfl⟩) (pumpHandles p.words) _))
  exact hI.kept (hI.own (fun x => x.setPump pm p) hu rfl rfl rfl) ⟨rfl, rfl, rfl⟩

theorem workPstop_keeps (f : FmtM) : Keeps I stateAfter (workPstop f j s) := by
  unfold workPstop
  dsimp only
  split
  · split
    · trivial
    · exact hI.kept (endPump_keeps hI hs ..) (actTables_readKept ..)
  · exact hs

theorem codeTable_keeps (ws : List Word) : Keeps I stateAfter (codeTable j ws s) := by
  have hr : Keeps I stateAfter (readVA (jobRq j s) (dataVA s j.e.inst (nthW ws 10).toNat) (264 + 8 * 256) s) :=
    (readFrom_keeps ..).mono fun _ => hI.kept hs
  unfold codeTable
  split_ifs
  · exact hs
  · trivial
  · trivial
  · split
    next ho => exact hr.of_error ho
    next s1 ho =>
      have hs1 : I s1 := hr.of_ok ho
      split
      · exact hs1
      · trivial

theorem workPgo_keeps (f : FmtM) : Keeps I stateAfter (workPgo f j s) := by
  unfold workPgo
  dsimp only
  split
  · trivial
  · split
    · trivial
    · generalize (if j.src.a = 0 then ((s.elem j.e).pump f.pms.toNat).words else
        PumpCfg.setB3 ((s.elem j.e).pump f.pms.toNat).words j.src.a.toNat) = ws
      split
      · trivial
      · split
        · trivial
        · split
          · trivial
          · have hc := codeTable_keeps hI hs ws
            split
            next ho => exact hc.of_error ho
            next ct s1 ho =>
              have hs1 : I s1 := hc.of_ok ho
              have hu := hI.kept (hI.kept hs1 (u := { s1 with fresh := s1.fresh + 1 }) ⟨rfl, rfl, rfl⟩)
                ((foldl_readKept (f := fun t h => addUse t (entryOf s j.e.inst h)) (fun _ _ => ⟨rfl, rfl, rfl⟩) (pumpHandles ws) _).trans
                  (actTables_readKept _ j.e.inst (pumpHandles ws) (tableKey j.e.el)))
              exact hI.own (fun x => x.setPump f.pms.toNat _) hu rfl rfl rfl

end

end Sys2Proof.Machine
end

section
/-! SUPPORT. What the work of format M's instructions that store leaves of the elements (spec/10_instr_channels_tiles_memory.md R161 to R187):
for Obligations.DatapathFrame. -/

namespace Sys2Proof.Machine

section
variable {e : ERef} {keep : Nat → Prop} {s t : State}

theorem MemoryOnly.elems (h : MemoryOnly s t) : t.elems = s.elems := by
  obtain ⟨_, _, _, rfl⟩ := h
  rfl

theorem Own.memoryOnly {u : State} (h : Own e keep s t) (hu : MemoryOnly t u) : Own e keep s u := h.elems hu.elems

theorem Own.flushLog (h : Own e keep s t) : Own e keep s (flushLog t e) := by
  unfold Machine.flushLog
  dsimp only
  split
  · exact h
  · exact ((h.memoryOnly (MemoryOnly.widenWhere ..)).modElem _ rfl rfl rfl).elems
      (RecordOnly.foldl (fun _ _ => .foldl (fun _ _ => .logRecord ..) _ _) _ _).elems

theorem Own.logEvent (h : Own e keep s t) (recs : List (List Word)) : Own e keep s (logEvent t e recs) :=
  (h.modElem (fun x => { x with logq := x.logq ++ [⟨none, recs⟩] }) rfl rfl rfl).flushLog

/-- Works begin with what the element has issued performed, or wait. -/
theorem settled_keeps (j : Job) (sc : Scope) (s : State) : Keeps (fun t => t.elems = s.elems) id (settled j sc s) := by
  unfold settled
  split
  · exact (MemoryOnly.flush j sc s).elems
  · trivial

theorem waitHere_keeps {α : Type} {st : α → State} (r : Req) (s : State) :
    Keeps (fun t => t.elems = s.elems) st (.error (waitHere r s)) := by
  unfold waitHere
  split
  · split
    · trivial
    · exact rfl
  · trivial

theorem writeWord_keeps (q : Rq) (va : Nat) (w : Word) (s : State) : Keeps (fun t => t.elems = s.elems) id (writeWord q va w s) :=
  writeFrom_keeps ..

theorem writeWords_keeps (q : Rq) (va : Nat) (ws : List Word) (s : State) :
    Keeps (fun t => t.elems = s.elems) id (writeWords q va ws s) := writeFrom_keeps ..

end

section
variable {keep : Nat → Prop} {s t : State} {j : Job} (h : Own j.e keep s t)
include h

/-- What reads keep of the elements. -/
theorem Own.read {α : Type} {st : α → State} {o : Except Stop α} (ho : Keeps (ReadKept t) st o) : Keeps (Own j.e keep s) st o :=
  ho.mono fun _ hk => h.elems hk.elems

/-- What writes and waits keep of them. -/
theorem Own.wrote {α : Type} {st : α → State} {o : Except Stop α} (ho : Keeps (fun u => u.elems = t.elems) st o) :
    Keeps (Own j.e keep s) st o :=
  ho.mono fun _ hk => h.elems hk

theorem storeTo_keeps (f : FmtM) (va : Nat) (b : Word) (fb : Bool) : Keeps (Own j.e keep s) id (storeTo f j va b fb t) := by
  have hx := h.read (xlate_keeps t (elemRq t j.e j.slot 0) va true)
  unfold storeTo
  extract_lets q w bs x logs record
  split
  next ho => exact hx.of_error ho
  next l t1 ho =>
    have h1 : Own j.e keep s t1 := hx.of_ok ho
    extract_lets id
    split
    · trivial
    · split
      · refine askEngine_keeps (Own.reading j.e keep s) ?_ ..
        split
        · exact h1.modElem _ rfl rfl rfl
        · exact h1
      · have hr := h1.read (raceCheck_keeps t1 q l.stamped va l.key w true)
        split
        next ho => exact hr.of_error ho
        next t2 ho =>
          have h2 : Own j.e keep s t2 := hr.of_ok ho
          extract_lets t3
          have h3 : Own j.e keep s t3 := (h2.elems (u := storeAt t2 j.e q.die (keyed l.key bs)) rfl).memoryOnly (.stored ..)
          show Own j.e keep s (if logs then logEvent t3 j.e [record] else t3)
          split
          · exact h3.logEvent _
          · exact h3

theorem windowStore_keeps (f : FmtM) (off : Word) : Keeps (Own j.e keep s) id (windowStore f j off t) := by
  unfold windowStore
  extract_lets ch die k q job t1 va
  split
  · trivial
  · split
    · trivial
    · split
      · have h1 : Own j.e keep s t1 := h.elems rfl
        show Own j.e keep s (if j.src.fb && isSink t j.e then logEvent t1 j.e [storeRecord t j va] else t1)
        split
        · exact h1.logEvent _
        · exact h1
      · trivial

/-- A store changes no register but, with `.inc`, its offset. -/
theorem doSt_keeps (f : FmtM) (hinc : ∀ u, Own j.e keep s u → Own j.e keep s (incReg f j u)) :
    Keeps (Own j.e keep s) stateAfter (doSt f j t) := by
  unfold doSt
  split
  · have hw := windowStore_keeps h f j.src.a
    split
    next ho => exact hw.of_error ho
    next ho => exact hinc _ (hw.of_ok ho)
  · have hv := vaOf_keeps h f j j.src.a t
    split
    next ho => exact hv.of_error ho
    next va _ =>
      have hw := storeTo_keeps h f va j.src.b j.src.fb
      split
      next ho => exact hw.of_error ho
      next ho => exact hinc _ (hw.of_ok ho)

theorem doStx_keeps (f : FmtM) : Keeps (Own j.e keep s) stateAfter (doStx f j t) := by
  have hn := notWindow_keeps f (indexed f j.src.a j.src.d) (st := fun _ => t) h
  have hv := vaOf_keeps h f j (indexed f j.src.a j.src.d) t
  unfold doStx
  extract_lets off
  split
  next ho => exact hn.of_error ho
  next ho _ => exact hv.of_error ho
  next va _ _ =>
    have hw := storeTo_keeps h f va j.src.b j.src.fb
    split
    next ho => exact hw.of_error ho
    next t1 ho =>
      have h1 : Own j.e keep s t1 := hw.of_ok ho
      exact h1

theorem armMdone_keeps (tag : BitVec 2) : Own j.e keep s (armMdone t j.e tag) := by
  unfold armMdone
  extract_lets count r
  split
  · exact (h.elems (u := r.2) rfl).modElem _ rfl rfl rfl
  · exact h.modElem _ rfl rfl rfl

theorem workMdone_keeps (f : FmtM) : Keeps (Own j.e keep s) stateAfter (workMdone f j t) := by
  unfold workMdone
  split
  · split
    · exact armMdone_keeps (h.memoryOnly (MemoryOnly.widenWhere ..)) _
    · trivial
  · exact armMdone_keeps h _

/-! ## Rings (R186, R187) -/

theorem wkRawait_keeps (f : FmtM) : Keeps (Own j.e keep s) stateAfter (wkRawait f j t) := by
  have ha := aligned_keeps h j.src.a 64
  unfold wkRawait
  split
  next ho => exact ha.of_error ho
  next =>
    extract_lets q va ring
    have hh := ringHeader_keeps (Own.reading j.e keep s) h q va
    split
    next ho => exact hh.of_error ho
    next ws t1 ho =>
      have h1 : Own j.e keep s t1 := hh.of_ok ho
      extract_lets n
      split
      · trivial
      · split
        · split
          · exact h1.elems rfl
          · trivial
        · split
          · trivial
          · have hw := h1.wrote (writeWord_keeps q (va + 8) (wd ((n + 1) % 2 ^ 31)) t1)
            split
            next ho => exact hw.of_error ho
            next t2 ho =>
              have h2 : Own j.e keep s t2 := hw.of_ok ho
              extract_lets rel
              exact (Own.reading j.e keep s).acquireOptAt (s := t2.act ring (actKey j.e)) (h2.elems rfl) rel

theorem rrelLoop_keeps (q : Rq) (va : Nat) (ws : List Word) (k tail : Nat) :
    Keeps (Own j.e keep s) stateAfter (rrelLoop q va ws k tail t) := by
  induction k generalizing tail t with
  | zero => exact h
  | succ k ih =>
    unfold rrelLoop
    split
    · exact h
    · have hr := h.read (readWords_keeps q (recVA va ws tail + 4) 1 t)
      split
      next ho => exact hr.of_error ho
      next rw_ t1 ho =>
        have h1 : Own j.e keep s t1 := hr.of_ok ho
        split
        · have hw := h1.wrote (writeWord_keeps q (recVA va ws tail + 4) (nthW rw_ 0 &&& 0x7FFFFFFF) t1)
          split
          next ho => exact hw.of_error ho
          next ho => exact ih (hw.of_ok ho) _
        · exact h1

theorem wkRrel_keeps : Keeps (Own j.e keep s) stateAfter (wkRrel j t) := by
  have ha := aligned_keeps h j.src.a 64
  unfold wkRrel
  split
  next ho => exact ha.of_error ho
  next =>
    extract_lets q va ring n
    have hh := ringHeader_keeps (Own.reading j.e keep s) h q va
    split
    next ho => exact hh.of_error ho
    next ws t1 ho =>
      have h1 : Own j.e keep s t1 := hh.of_ok ho
      split
      · trivial
      · split
        · have hr := h1.read (readWords_keeps q (recVA va ws n + 4) 1 t1)
          split
          next ho => exact hr.of_error ho
          next rw_ t2 ho =>
            have h2 : Own j.e keep s t2 := hr.of_ok ho
            split
            · trivial
            · have hw := h2.wrote (writeWord_keeps q (recVA va ws n + 4) (nthW rw_ 0 ||| 0x80000000) t2)
              split
              next ho => exact hw.of_error ho
              next t3 ho =>
                have hl := rrelLoop_keeps (hw.of_ok ho) q va ws (ringN ws) (nthW ws 3).toNat
                split
                next ho => exact hl.of_error ho
                next tail t4 ho =>
                  have h4 : Own j.e keep s t4 := hl.of_ok ho
                  have hw := h4.wrote (writeWord_keeps q (va + 12) (wd tail) t4)
                  split
                  next ho => exact hw.of_error ho
                  next t5 ho =>
                    have h5 : Own j.e keep s t5 := hw.of_ok ho
                    exact h5.elems rfl
        · trivial

/-! ## Tiles and pumps -/

theorem allocTile_keeps {inst reg el : Nat} {spec : Word} {o : Except Stop (Word × State)} (ho : allocTile t inst reg el spec = o) :
    Keeps (Own j.e keep s) stateAfter o := by
  have hf (tab k : Nat) (u : State) (hk : freeSlot t tab = some (k, u)) : u.elems = t.elems := by
    unfold freeSlot at hk
    dsimp only at hk
    split at hk
    · cases hk
    · have hu := congrArg (fun q : Nat × State => q.2.elems) (Option.some.inj hk)
      exact hu.symm.trans (choose_readKept t).elems
  subst ho
  unfold allocTile
  extract_lets lvl place tab
  split
  next => trivial
  next k t1 ho =>
    have h1 : Own j.e keep s t1 := h.elems (hf _ _ _ ho)
    extract_lets size
    split
    · exact h1.elems rfl
    · trivial

theorem workTalloc_keeps (f : FmtM) : Keeps (Own j.e keep s) stateAfter (workTalloc f j t) := by
  unfold workTalloc
  split
  · refine atTable_keeps (Own.reading j.e keep s) _ ?_
    generalize ho : allocTile t j.e.inst j.e.reg j.e.el j.src.a = o
    have ha := allocTile_keeps h ho
    split
    next => exact ha.of_error rfl
    next => exact ha
  · trivial

theorem workPcfg_keeps (f : FmtM) : Keeps (Own j.e keep s) stateAfter (workPcfg f j t) := by
  have ha := aligned_keeps h j.src.a 64
  have hset := h.wrote (settled_keeps j .part t)
  unfold workPcfg
  split
  · trivial
  · split
    next ho => exact ha.of_error ho
    next =>
      split
      next ho => exact hset.of_error ho
      next t0 ho =>
        have h0 : Own j.e keep s t0 := hset.of_ok ho
        have hr := h0.read (readWords_keeps (jobRq j t0) (dataVA t j.e.inst j.src.a.toNat) 16 t0)
        split
        next ho => exact hr.of_error ho
        next ws t1 ho =>
          have h1 : Own j.e keep s t1 := hr.of_ok ho
          split
          · exact h1.wrote (waitHere_keeps ..)
          · split
            · exact (h1.elems (actTables_readKept ..).elems).modElem (fun x => x.setPump _ _) rfl rfl rfl
            · trivial

end

end Sys2Proof.Machine
end

section
/-! SUPPORT. What the work of the rule, directory and pool commands and of the contractions' leaves of the elements
(spec/07_instr_contraction_tiles.md R116 to R135): for Obligations.DatapathFrame. -/

namespace Sys2Proof.Machine

/-! ## What commands begin with (R110, R113, R114) -/

theorem ptrVA_keeps {I : State → Prop} {t : State} (h : I t) (j : Job) (p : Word) (n : Nat) (u : State) :
    Keeps I (fun _ => t) (ptrVA j p n u) := by
  unfold Machine.ptrVA
  split
  · exact h
  · trivial

section
variable {keep : Nat → Prop} {s t : State} {j : Job} (h : Own j.e keep s t)
include h

theorem Own.ptrVA (p : Word) (n : Nat) (u : State) : Keeps (Own j.e keep s) (fun _ => t) (ptrVA j p n u) := ptrVA_keeps h j p n u

theorem Own.settled (sc : Scope) : Keeps (Own j.e keep s) id (settled j sc t) := h.wrote (settled_keeps ..)

theorem Own.readWords (q : Rq) (va n : Nat) : Keeps (Own j.e keep s) stateAfter (readWords q va n t) := h.read (readWords_keeps ..)

theorem Own.writeWord (q : Rq) (va : Nat) (w : Word) : Keeps (Own j.e keep s) id (writeWord q va w t) := h.wrote (writeWord_keeps ..)

theorem Own.writeWords (q : Rq) (va : Nat) (ws : List Word) : Keeps (Own j.e keep s) id (writeWords q va ws t) :=
  h.wrote (writeWords_keeps ..)

theorem Own.waitHere {α : Type} {st : α → State} (r : Req) : Keeps (Own j.e keep s) st (.error (waitHere r t)) := h.wrote (waitHere_keeps ..)

theorem Own.needRule (u : State) (r : RRef) (n : Nat) : Keeps (Own j.e keep s) (fun _ => t) (needRule u r n) := by
  unfold Machine.needRule
  split
  · exact h
  · trivial

theorem workGrule_keeps (f : FmtE) : Keeps (Own j.e keep s) stateAfter (workGrule f j t) := by
  refine (h.ptrVA j.src.a 32 t).bind fun va _ => (h.settled .part).bind fun t0 h0 => (h0.readWords ..).bind fun ⟨ws, t1⟩ h1 => ?_
  dsimp only
  split
  · trivial
  · exact h1.elems rfl

/-! ## Directories (R118 to R122) -/

theorem Own.readHdr (q : Rq) (va : Nat) : Keeps (Own j.e keep s) stateAfter (readHdr q va t) := by
  have hr := h.readWords q va 16
  unfold Machine.readHdr
  split
  next ho => exact hr.of_error ho
  next ho => exact hr.of_ok ho

theorem Own.readEnt (q : Rq) (va i : Nat) : Keeps (Own j.e keep s) stateAfter (readEnt q va i t) := by
  have hr := h.readWords q (va + 64 * (i + 1)) 16
  unfold Machine.readEnt
  split
  next ho => exact hr.of_error ho
  next ho => exact hr.of_ok ho

theorem Own.clearV (q : Rq) (va n : Nat) : Keeps (Own j.e keep s) id (clearV q va n t) := by
  induction n generalizing t with
  | zero => exact h
  | succ n ih =>
    exact (h.readEnt ..).bind fun ⟨e, t1⟩ h1 => (h1.writeWord ..).bind fun t2 h2 => ih h2

theorem workBdinit_keeps : Keeps (Own j.e keep s) stateAfter (workBdinit j t) := by
  refine (h.ptrVA j.src.a 64 t).bind fun va _ => (h.settled .part).bind fun t0 h0 => (h0.readHdr ..).bind fun ⟨hd, t1⟩ h1 => ?_
  dsimp only
  split
  · trivial
  · split
    · trivial
    · split
      · trivial
      · refine (h1.clearV ..).bind fun t2 h2 => ?_
        split
        · refine (h2.writeWord ..).bind fun t4 h4 => (h4.writeWord ..).bind fun t5 h5 => ?_
          exact h5
        · refine (h2.writeWord ..).bind fun t3 h3 => (h3.writeWord ..).bind fun t4 h4 => (h4.writeWord ..).bind fun t5 h5 => ?_
          exact h5

theorem Own.indexArea (ctx va lim : Nat) : Own j.e keep s (indexArea ctx va lim t) := by
  unfold Machine.indexArea
  split
  · exact h
  · exact h.elems rfl

theorem Own.ensureIndex (q : Rq) (va : Nat) (hd : Hdr) : Keeps (Own j.e keep s) stateAfter (ensureIndex q va hd t) := by
  unfold Machine.ensureIndex
  split
  · exact h
  · extract_lets w
    have hw := (h.indexArea q.ctx va hd.lim).writeWord q va w
    split
    next ho => exact hw.of_error ho
    next ho => exact hw.of_ok ho

/-- The directory logic requires nothing of the entries. -/
theorem Own.probeFrom (q : Rq) (va : Nat) (p : Ent → Bool) (n i : Nat) :
    Keeps (Own j.e keep s) stateAfter (probeFrom q va anyEnt p n i t) := by
  induction n generalizing i t with
  | zero => exact h
  | succ n ih =>
    have hr := h.readEnt q va i
    unfold Machine.probeFrom
    split
    next ho => exact hr.of_error ho
    next x t1 ho =>
      have h1 : Own j.e keep s t1 := hr.of_ok ho
      split
      · show Keeps (Own j.e keep s) stateAfter (if p x then .ok (some (i, x), t1) else Machine.probeFrom q va anyEnt p n (i + 1) t1)
        split
        · exact h1
        · exact ih h1 _
      · exact ih h1 _

theorem Own.appendEnt (q : Rq) (va : Nat) (hd : Hdr) (ws : List Word) : Keeps (Own j.e keep s) id (appendEnt q va hd ws t) := by
  unfold Machine.appendEnt
  extract_lets w12
  have hw := h.writeWords q (va + 64 * (hd.count + 1)) (ws.set 12 (setBitW w12 31 false))
  split
  next ho => exact hw.of_error ho
  next t1 ho =>
    have hw := Own.writeWord (hw.of_ok ho) q (va + 64 * (hd.count + 1) + 48) (setBitW w12 31 true)
    split
    next ho => exact hw.of_error ho
    next t2 ho =>
      have hw := Own.writeWord (hw.of_ok ho) q (va + 8) (wd (hd.count + 1))
      split
      next ho => exact hw.of_error ho
      next t3 ho =>
        have h3 : Own j.e keep s t3 := hw.of_ok ho
        exact (h3.indexArea ..).writeWord ..

theorem workBdins_keeps : Keeps (Own j.e keep s) stateAfter (workBdins j t) := by
  refine (h.ptrVA j.src.a 64 t).bind fun va _ => (h.ptrVA j.src.b 64 t).bind fun im _ => (h.settled .part).bind fun t0 h0 =>
    (h0.readHdr ..).bind fun ⟨hd, t1⟩ h1 => ?_
  dsimp only
  split
  · trivial
  · refine (h1.needRule t1 j.e.rref hd.rule).bind fun g _ => (h1.readWords ..).bind fun ⟨ws, t2⟩ h2 => ?_
    dsimp only
    split
    · trivial
    · split
      · trivial
      · refine (h2.ensureIndex ..).bind fun ⟨hd', t3⟩ h3 => (h3.probeFrom ..).bind fun ⟨found, t4⟩ h4 => ?_
        dsimp only
        split
        · exact h4
        · split
          · exact h4
          · refine (h4.appendEnt ..).bind fun t5 h5 => ?_
            exact h5

theorem workBdfind_keeps : Keeps (Own j.e keep s) stateAfter (workBdfind j t) := by
  refine (h.ptrVA j.src.a 64 t).bind fun va _ => (h.ptrVA j.src.b 4 t).bind fun kv _ => (h.settled .part).bind fun t0 h0 =>
    (h0.readHdr ..).bind fun ⟨hd, t1⟩ h1 => ?_
  dsimp only
  split
  · trivial
  · refine (h1.needRule t1 j.e.rref hd.rule).bind fun g _ => (h1.readWords ..).bind fun ⟨key, t2⟩ h2 =>
      (h2.ensureIndex ..).bind fun ⟨hd', t3⟩ h3 => (h3.probeFrom ..).bind fun ⟨found, t4⟩ h4 => ?_
    dsimp only
    split
    · exact h4
    · exact h4

theorem workBdget_keeps : Keeps (Own j.e keep s) stateAfter (workBdget j t) := by
  refine (h.ptrVA j.src.a 64 t).bind fun va _ => (h.settled .part).bind fun t0 h0 => (h0.readHdr ..).bind fun ⟨hd, t1⟩ h1 => ?_
  dsimp only
  split
  · trivial
  · split
    · exact h1
    · split
      · exact h1
      · refine (h1.readEnt ..).bind fun ⟨x, t2⟩ h2 => ?_
        exact h2

theorem Own.readEnts (q : Rq) (va : Nat) (is : List Nat) : Keeps (Own j.e keep s) stateAfter (readEnts q va is t) := by
  induction is generalizing t with
  | nil => exact h
  | cons i is ih =>
    refine (h.readEnt ..).bind fun ⟨x, t1⟩ h1 => (ih h1).bind fun ⟨xs, t2⟩ h2 => ?_
    exact h2

theorem Own.writeEnts (q : Rq) (va i : Nat) (xs : List Ent) : Keeps (Own j.e keep s) id (writeEnts q va i xs t) := by
  induction xs generalizing i t with
  | nil => exact h
  | cons x xs ih => exact (h.writeWords ..).bind fun t1 h1 => ih h1 _

theorem workBdsort_keeps : Keeps (Own j.e keep s) stateAfter (workBdsort j t) := by
  refine (h.ptrVA j.src.a 64 t).bind fun va _ => (h.settled .part).bind fun t0 h0 => (h0.readHdr ..).bind fun ⟨hd, t1⟩ h1 => ?_
  dsimp only
  split
  · trivial
  · split
    · trivial
    · refine (h1.writeWord ..).bind fun t2 h2 => (h2.writeWord ..).bind fun t3 h3 => (h3.readEnts ..).bind fun ⟨xs, t4⟩ h4 =>
        (h4.writeEnts ..).bind fun t5 h5 => ((h5.indexArea ..).writeWord ..).bind fun t6 h6 => ?_
      exact h6

theorem workPoolcfg_keeps : Keeps (Own j.e keep s) stateAfter (workPoolcfg j t) := by
  refine (h.ptrVA j.src.a 64 t).bind fun va _ => (h.settled .part).bind fun t0 h0 => (h0.readWords ..).bind fun ⟨ws, t1⟩ h1 => ?_
  dsimp only
  split
  · trivial
  · split
    · trivial
    · split
      · trivial
      · refine (h1.writeWord ..).bind fun t2 h2 => ?_
        split
        · refine (h2.writeWord ..).bind fun t3 h3 => ?_
          exact h3.elems rfl
        · exact h2.elems rfl

/-! ## Contractions (R127, R135) -/

theorem Own.conOf (u : State) (inst : Nat) (hd : Word) : Keeps (Own j.e keep s) (fun _ => t) (conOf u inst hd) := by
  unfold Machine.conOf
  extract_lets r
  split
  · trivial
  · split
    · exact h
    · trivial

theorem Own.writeHdr (q : Rq) (va : Nat) (w0 : Word) (oph : Option Word) : Keeps (Own j.e keep s) id (writeHdr q va w0 oph t) := by
  have hw := h.writeWord { q with charge := none } va w0
  unfold Machine.writeHdr
  split
  next ho => exact hw.of_error ho
  next t1 ho =>
    have h1 : Own j.e keep s t1 := hw.of_ok ho
    split
    · exact h1
    · exact h1.writeWord ..

theorem workBcon_keeps : Keeps (Own j.e keep s) stateAfter (workBcon j t) := by
  refine (h.ptrVA j.src.a 64 t).bind fun va _ => (h.settled .part).bind fun t0 h0 => (h0.readWords ..).bind fun ⟨ws, t1⟩ h1 => ?_
  dsimp only
  split
  · trivial
  · refine (h1.ptrVA (nthW ws 1) 64 t).bind fun a _ => (h1.ptrVA (nthW ws 2) 64 t).bind fun b _ =>
      (h1.ptrVA (nthW ws 3) 64 t).bind fun c _ => (h1.ptrVA (nthW ws 4) 64 t).bind fun p _ => ?_
    split
    · trivial
    · refine (h1.readHdr ..).bind fun ⟨ha, t2⟩ h2 => (h2.readHdr ..).bind fun ⟨hb, t3⟩ h3 => (h3.readHdr ..).bind fun ⟨hc, t4⟩ h4 =>
        (h4.readWords ..).bind fun ⟨pw, t5⟩ h5 => ?_
      dsimp only
      split
      · trivial
      · split
        · trivial
        · split
          · trivial
          · refine (h5.needRule t5 j.e.rref hc.rule).bind fun g _ => (h5.writeHdr ..).bind fun t6 h6 => ?_
            exact h6.elems rfl

theorem workBcres_keeps : Keeps (Own j.e keep s) stateAfter (workBcres j t) := by
  refine (h.conOf t j.e.inst j.src.a).bind fun ⟨r, c⟩ _ => ?_
  dsimp only
  split
  · trivial
  · refine (h.settled .part).bind fun t0 h0 => (h0.readHdr ..).bind fun ⟨hc, t1⟩ h1 => (h1.writeHdr ..).bind fun t2 h2 => ?_
    exact h2.elems rfl

theorem workBcstat_keeps : Keeps (Own j.e keep s) stateAfter (workBcstat j t) := by
  refine (h.conOf t j.e.inst j.src.a).bind fun ⟨r, c⟩ _ => ?_
  dsimp only
  split
  · trivial
  · exact h

theorem workBcwait_keeps : Keeps (Own j.e keep s) stateAfter (workBcwait j t) := by
  refine (h.conOf t j.e.inst j.src.a).bind fun ⟨r, c⟩ _ => ?_
  dsimp only
  split
  · trivial
  · exact h

end

end Sys2Proof.Machine
end

section
/-! SUPPORT. What the work of the tile engine's, the wellheads', the collective engine's and the exchange unit's commands leaves of the elements
(spec/07_instr_contraction_tiles.md R136, R256; R200 to R205, R234 to R239): for Obligations.DatapathFrame. -/

namespace Sys2Proof.Machine

/-! ## Elements are no part of calls and rounds -/

theorem sendStarts_elems (u : State) (slot : Nat) : (sendStarts u slot).elems = u.elems := by
  unfold sendStarts
  extract_lets g
  split
  · rfl
  · split
    · rfl
    · rfl

theorem collFault_elems (u : State) (slot : Nat) (c : Call) (cause rank : Nat) : (collFault u slot c cause rank).elems = u.elems := by
  unfold collFault
  split
  · exact noteFault_elems ..
  · exact noteFault_elems ..

theorem addCall_elems (u : State) (slot : Nat) (c : Call) : (addCall u slot c).elems = u.elems := by
  unfold addCall
  extract_lets g s1 s2
  have h2 : s2.elems = u.elems := by
    unfold s2
    split
    · exact sendStarts_elems ..
    · rfl
  split
  · exact h2
  · exact (collFault_elems ..).trans h2

theorem openRound_elems (u : State) (slot : Nat) (j : Job) (nlist : Nat) (land : Option XList) : (openRound u slot j nlist land).elems = u.elems := by
  unfold openRound
  extract_lets g n r s1
  split
  · rfl
  · exact noteFault_elems ..

theorem sendRow_elems (u : State) (slot : Nat) : (sendRow u slot).elems = u.elems := by
  unfold sendRow
  split
  · rfl
  · split
    · rfl
    · rfl

section
variable {keep : Nat → Prop} {s t : State} {j : Job} (h : Own j.e keep s t)
include h

/-! ## topb and topx (R136) -/

theorem Own.topCheck (kind : Nat) : Keeps (Own j.e keep s) stateAfter (topCheck kind j t) := by
  refine (h.ptrVA j.src.a 64 t).bind fun va _ => (h.settled .part).bind fun t0 h0 => (h0.readWords ..).bind fun ⟨ws, t1⟩ h1 => ?_
  dsimp only
  split
  · trivial
  · split
    · exact h1.waitHere _
    · split
      · trivial
      · split
        · trivial
        · exact h1

theorem Own.engineTile (q : Rq) (y : Nat × Nat) (off n : Nat) (wr : Bool) : Keeps (Own j.e keep s) id (engineTile q y off n wr t) := by
  unfold Machine.engineTile
  split
  · trivial
  · exact h.read (tileRace_keeps ..)

theorem Own.readPlace (q : Rq) (p : Place) (off n : Nat) : Keeps (Own j.e keep s) stateAfter (readPlace q p off n t) := by
  unfold Machine.readPlace
  split
  · exact h.read (readFrom_keeps ..)
  · next y o =>
    have he := (h.elems (u := t.act (.table y.1) tableSequencer) rfl).engineTile q y (o + off) n false
    split
    next ho => exact he.of_error ho
    next ho => exact he.of_ok ho

theorem Own.scanInit (q : Rq) (inst : Nat) (ws : List Word) : Keeps (Own j.e keep s) stateAfter (scanInit q inst ws t) := by
  unfold Machine.scanInit
  split
  · exact h
  · extract_lets y
    have hr := h.readPlace q (.tile y 0) 0 (4 * TDesc.n ws)
    split
    next ho => exact hr.of_error ho
    next ho => exact hr.of_ok ho

/-- The uses that a binding or a firing begins. -/
theorem Own.useTables (inst : Nat) (ws hs : List Word) (key : Nat) : Own j.e keep s (actTables (useAll t inst ws) inst hs key) :=
  h.elems ((foldl_readKept (f := fun u x => addUse u (entryOf t inst x)) (fun _ _ => ⟨rfl, rfl, rfl⟩) (topHandles ws) t).trans
    (actTables_readKept _ inst hs key)).elems

theorem workTopb_keeps (f : FmtE) : Keeps (Own j.e keep s) stateAfter (workTopb f j t) := by
  refine (h.topCheck _).bind fun ⟨ws, t1⟩ h1 => ?_
  dsimp only
  split
  · trivial
  · split
    · refine (h1.scanInit ..).bind fun ⟨dl, t2⟩ h2 => ?_
      exact (h2.useTables ..).modElem (fun x => { x with binds := kset x.binds _ _ }) rfl rfl rfl
    · exact (h1.useTables ..).modElem (fun x => { x with binds := kset x.binds _ _ }) rfl rfl rfl

theorem workTopx_keeps (f : FmtE) : Keeps (Own j.e keep s) stateAfter (workTopx f j t) := by
  refine (h.topCheck _).bind fun ⟨ws, t1⟩ h1 => ?_
  dsimp only
  split
  · exact h1.waitHere _
  · split
    · refine (h1.scanInit ..).bind fun ⟨dl, t2⟩ h2 => ?_
      exact (h2.useTables ..).modElem (fun x => { x with topx := x.topx ++ [_], topxSeq := (x.topxSeq + 1) % 1024 }) rfl rfl rfl
    · exact (h1.useTables ..).modElem (fun x => { x with topx := x.topx ++ [_], topxSeq := (x.topxSeq + 1) % 1024 }) rfl rfl rfl

/-! ## Wellheads (R256, R259) -/

theorem wkWell_keeps (op fn : Nat) : Keeps (Own j.e keep s) stateAfter (wkWell op fn j t) := by
  refine (h.ptrVA j.src.a 64 t).bind fun va _ => (h.settled .part).bind fun t0 h0 => (h0.readWords ..).bind fun ⟨hd, t1⟩ h1 => ?_
  dsimp only
  split
  · trivial
  · refine (h1.readWords ..).bind fun ⟨sg, t2⟩ h2 => ?_
    dsimp only
    split
    · trivial
    · split
      · exact h2.waitHere _
      · exact h2.elems rfl

theorem workGstat_keeps : Keeps (Own j.e keep s) stateAfter (workGstat j t) := by
  unfold workGstat
  dsimp only
  split
  · trivial
  · split
    · trivial
    · split
      · trivial
      · exact h

/-! ## Collective calls (R201 to R205) -/

theorem Own.loadRecs (q : Rq) (base : Nat) (ws : List Word) : Keeps (Own j.e keep s) stateAfter (loadRecs q base ws t) := by
  unfold Machine.loadRecs
  split
  · have hr := h.readWords q ((base + CObj.ops ws) % 2 ^ 56) (8 * CObj.count ws)
    split
    next ho => exact hr.of_error ho
    next ho => exact hr.of_ok ho
  · exact h

theorem Own.loadObj (q : Rq) (base va : Nat) : Keeps (Own j.e keep s) (fun r => r.2.2.2) (loadObj q base va t) := by
  refine (h.readWords ..).bind fun ⟨ws, t1⟩ h1 => ?_
  dsimp only
  split
  · trivial
  · split
    · trivial
    · refine (h1.loadRecs ..).bind fun ⟨recs, t2⟩ h2 => ?_
      dsimp only
      split
      · trivial
      · split
        · trivial
        · split
          · trivial
          · exact h2

theorem workCgload_keeps : Keeps (Own j.e keep s) stateAfter (workCgload j t) := by
  refine (h.ptrVA j.src.a 64 t).bind fun va _ => (h.settled .part).bind fun t0 h0 => (h0.loadObj ..).bind fun ⟨ws, recs, k, t1⟩ h1 => ?_
  dsimp only
  split
  · trivial
  · exact h1.elems rfl

theorem Own.collOf (u : State) (hd : Word) : Keeps (Own j.e keep s) (fun _ => t) (collOf u hd) := by
  unfold Machine.collOf
  extract_lets slot i
  split
  · trivial
  · split
    · exact h
    · trivial

theorem Own.widenElem (sc : Scope) : Own j.e keep s (widenElem t j.e sc) := h.memoryOnly (MemoryOnly.widenWhere ..)

theorem workCrun_keeps (f : FmtE) : Keeps (Own j.e keep s) stateAfter (workCrun f j t) := by
  refine (h.collOf t j.src.a).bind fun ⟨slot, i, c⟩ _ => ?_
  dsimp only
  split
  · trivial
  · split
    · trivial
    · refine (h.settled .part).bind fun t1 h1 => ?_
      have h0 : Own j.e keep s (if bit f.fn 0 then Machine.widenElem t1 j.e .group else t1) := by
        split
        · exact h1.widenElem _
        · exact h1
      have h2 (u : State) (hu : Own j.e keep s u) : Own j.e keep s (if bit f.fn 0 then (releaseAt u j.e.inst j.e.reg (before u j.e)).2 else u) := by
        split
        · exact hu.elems rfl
        · exact hu
      exact ((h2 _ h0).elems (addCall_elems ..)).elems rfl

theorem workCseq_keeps : Keeps (Own j.e keep s) stateAfter (workCseq j t) := by
  have hc := h.collOf t j.src.a
  unfold workCseq
  split
  next ho => exact hc.of_error ho
  next => exact h

theorem workCwait_keeps : Keeps (Own j.e keep s) stateAfter (workCwait j t) := by
  unfold workCwait
  extract_lets slot num d r
  split
  · trivial
  · split
    · exact h
    · split
      · trivial
      · exact (Own.reading j.e keep s).acquireOptAt h _

theorem startBar_keeps : Keeps (Own j.e keep s) stateAfter (startBar j t) := by
  refine (h.collOf t j.src.a).bind fun ⟨slot, i, c⟩ _ => ?_
  dsimp only
  split
  · trivial
  · refine (h.settled .part).bind fun t1 h1 => ?_
    exact ((h1.widenElem .group).elems (u := (releaseAt (Machine.widenElem t1 j.e .group) j.e.inst j.e.reg _).2) rfl).elems
      (addCall_elems ..)

theorem workBar_keeps (w : Word) : Keeps (Own j.e keep s) stateAfter (workBar w j t) := by
  unfold workBar
  extract_lets slot
  split
  · trivial
  · exact (Own.reading j.e keep s).acquireOptAt h _

/-! ## Exchange rounds (R234 to R239) -/

theorem Own.readXHdr : Keeps (Own j.e keep s) (fun r => r.2.2) (readXHdr j t) := by
  refine (h.ptrVA j.src.a 64 t).bind fun va _ => (h.settled .part).bind fun t0 h0 => (h0.readWords ..).bind fun ⟨ws, t1⟩ h1 => ?_
  exact h1

theorem Own.inPart (va : Nat) : Keeps (Own j.e keep s) id (inPart j va t) := by
  have hx := h.read (xlate_keeps t (jobRq j t) va false)
  unfold Machine.inPart
  split
  next ho => exact h.elems (taped_readKept ho).elems
  next =>
    split
    next ho => exact hx.of_error ho
    next =>
      split
      · exact h.elems (logged_readKept ..).elems
      · trivial

theorem Own.slotFor (ws : List Word) (u : State) : Keeps (Own j.e keep s) (fun _ => t) (slotFor j ws u) := by
  unfold Machine.slotFor
  split
  · exact h
  · trivial

theorem Own.readSend : Keeps (Own j.e keep s) (fun r => r.2.2.2) (readSend j t) := by
  refine h.readXHdr.bind fun ⟨va, ws, t0⟩ h0 => (h0.inPart va).bind fun t1 h1 => ?_
  dsimp only
  split
  · trivial
  · refine Keeps.bind (Own.readWords h1 ..) fun ⟨ew, t2⟩ h2 => ?_
    dsimp only
    split
    · trivial
    · refine (h2.slotFor ws t2).bind fun slot _ => ?_
      split
      · trivial
      · exact h2

theorem Own.readLanding : Keeps (Own j.e keep s) (fun r => r.2.2) (readLanding j t) := by
  refine h.readXHdr.bind fun ⟨va, ws, t0⟩ h0 => (h0.inPart va).bind fun t1 h1 => ?_
  dsimp only
  split
  · trivial
  · refine Keeps.bind (Own.readWords h1 ..) fun ⟨ew, t2⟩ h2 => ?_
    dsimp only
    split
    · trivial
    · refine (h2.slotFor ws t2).bind fun slot _ => ?_
      exact h2

theorem Own.tapeMark (m : List Byte) : Own j.e keep s (tapeMark t m) := by
  unfold Machine.tapeMark
  split
  next ho =>
    split
    · exact h.elems (taped_readKept ho).elems
    · exact h.elems rfl
  next => exact h.elems (logged_readKept ..).elems

theorem Own.readFills (q : Rq) (va : Nat) (zs : List (Nat × List Word)) : Keeps (Own j.e keep s) stateAfter (readFills q va zs t) := by
  induction zs generalizing t with
  | nil => exact h
  | cons z zs ih =>
    have hr := h.readWords q (va + 64 + 32 * z.1 + 12) 1
    unfold Machine.readFills
    split
    next ho => exact hr.of_error ho
    next t1 ho =>
      have hz := ih (hr.of_ok ho)
      split
      next ho => exact hz.of_error ho
      next t2 ho =>
        have h2 : Own j.e keep s t2 := hz.of_ok ho
        exact h2

theorem Own.startLanding (slot : Nat) : Keeps (Own j.e keep s) stateAfter (startLanding j slot t) := by
  unfold Machine.startLanding
  split
  · exact h
  · next l _ =>
    have hr := h.readFills { jobRq j t with charge := some 255 } l.va (numbered l.ents)
    split
    next ho => exact hr.of_error ho
    next ho => exact hr.of_ok ho

theorem Own.joinRound (slot : Nat) (l : XList) : Keeps (Own j.e keep s) stateAfter (joinRound j slot l t) := by
  have hw := h.writeWord (jobRq j t) (l.va + 4) (wd (t.open_ slot))
  unfold Machine.joinRound
  extract_lets n
  split
  next ho => exact hw.of_error ho
  next t1 ho =>
    have h1 : Own j.e keep s t1 := hw.of_ok ho
    exact (h1.elems rfl).elems (sendRow_elems ..)

theorem workDpost_keeps : Keeps (Own j.e keep s) stateAfter (workDpost j t) := by
  refine h.readSend.bind fun ⟨slot, l, ws, t1⟩ h1 => ?_
  dsimp only
  split
  · refine ((h1.tapeMark _).startLanding slot).bind fun ⟨land, t2⟩ h2 => ?_
    exact (h2.elems (openRound_elems ..)).joinRound ..
  · split
    · exact h1.waitHere _
    · split
      · trivial
      · exact (h1.tapeMark _).joinRound ..

theorem workDsend_keeps : Keeps (Own j.e keep s) stateAfter (workDsend j t) := by
  refine h.readSend.bind fun ⟨slot, l, ws, t1⟩ h1 => ?_
  dsimp only
  split
  · trivial
  · next r _ =>
    split
    · trivial
    · split
      · exact h1.waitHere _
      · have hw := h1.writeWord (jobRq j t1) (l.va + 8) (wd r.num)
        split
        next ho => exact hw.of_error ho
        next t2 ho =>
          have h2 : Own j.e keep s t2 := hw.of_ok ho
          exact h2.elems rfl

theorem workDrecv_keeps : Keeps (Own j.e keep s) stateAfter (workDrecv j t) := by
  refine h.readLanding.bind fun ⟨slot, l, t1⟩ h1 => ?_
  dsimp only
  split
  · split
    · trivial
    · exact h1.elems rfl
  · split
    · trivial
    · exact h1.elems rfl

theorem startDwait_keeps : Keeps (Own j.e keep s) stateAfter (startDwait j t) := by
  refine h.readXHdr.bind fun ⟨va, ws, t1⟩ h1 => (h1.slotFor ws t1).bind fun slot _ => ?_
  dsimp only
  split
  · trivial
  · exact h1

theorem workDwait_keeps (w : Word) : Keeps (Own j.e keep s) stateAfter (workDwait w j t) := by
  unfold workDwait
  split
  · exact h
  · trivial

theorem workDqry_keeps : Keeps (Own j.e keep s) stateAfter (workDqry j t) := by
  refine h.readXHdr.bind fun ⟨va, ws, t1⟩ h1 => (h1.slotFor ws t1).bind fun slot _ => ?_
  split
  · trivial
  · exact h1

end

end Sys2Proof.Machine
end

section
/-! SUPPORT. What the instructions that complete in their beat leave of their element and of the part
(spec/09_instr_scalar_vector.md R146, spec/20_instants_signals.md R308, spec/23_faults_traps.md R351): for Obligations.DatapathFrame. -/

namespace Sys2Proof.Machine

/-! ## The part beside its elements -/

/-- The part's memory, requests, commands, tiles and the registers that the host and the driver see. -/
def State.shared (s : State) : State :=
  { State.reset with
    mem := s.mem, stores := s.stores, regions := s.regions, tileReqs := s.tileReqs, engines := s.engines, accs := s.accs
    copies := s.copies, wells := s.wells, tiles := s.tiles, queues := s.queues, rings := s.rings, mail := s.mail, xreg := s.xreg
    sched := s.sched, fw := s.fw, life := s.life, groups := s.groups, errRecs := s.errRecs, errCnt := s.errCnt }

theorem OthersSame.of_shared {s t : State} (h : t.shared = s.shared) (he : OtherElements s t) : OthersSame s t := by
  have field {β : Type} (g : State → β) : g t.shared = g s.shared := congrArg g h
  exact {
    memory := .of_eq (field State.mem) (field State.stores)
    elements := he
    regions := field State.regions
    requests := ⟨field State.tileReqs, field State.engines, field State.accs, field State.copies, field State.wells⟩
    tiles := field State.tiles
    host := ⟨field State.queues, field State.rings, field State.mail, field State.xreg, field State.sched, field State.fw,
      field State.life, field State.groups, field State.errRecs, field State.errCnt⟩ }

theorem trapCur_shared {s : State} {cause : Nat} (h : cause ≠ 0x0E0) (i j : Word) : (trapCur s cause i j).shared = s.shared := by
  obtain ⟨_, _, he⟩ := trapAt_eq h s s.cur s.curSlot 0 0 i j
  rw [trapCur, he]
  rfl

theorem written_shared (t : State) (e : ERef) (slot beat : Nat) (k : Sink) (r : Res) : (written t e slot beat k r).shared = t.shared := by
  obtain ⟨_, _, h⟩ := written_state t e slot beat k r
  rw [h]
  rfl

/-! ## What an operation's own work leaves -/

/-- From s to u no other element changes, of the current one nothing that `view` shows, and nothing of the part beside. -/
structure Seen (view : Elem → Elem) (s u : State) : Prop where
  others : ∀ a, a ≠ s.cur → u.elem a = s.elem a
  own : view (u.elem s.cur) = view (s.elem s.cur)
  part : u.shared = s.shared

namespace Seen
variable {view : Elem → Elem} {s u v : State}

theorem refl (view : Elem → Elem) (s : State) : Seen view s s := ⟨fun _ _ => rfl, rfl, rfl⟩

/-- What changes neither elements nor the part beside them. -/
theorem step (h : Seen view s u) (he : v.elems = u.elems) (hp : v.shared = u.shared) : Seen view s v := by
  have hv (a : ERef) : v.elem a = u.elem a := by rw [State.elem, he]; rfl
  exact ⟨fun a ha => (hv a).trans (h.others a ha), (congrArg view (hv _)).trans h.own, hp.trans h.part⟩

theorem modElem (h : Seen view s u) (g : Elem → Elem) (hg : view (g (u.elem s.cur)) = view (u.elem s.cur)) :
    Seen view s (u.modElem s.cur g) :=
  ⟨fun a ha => (State.elem_modElem_ne _ _ ha.symm).trans (h.others a ha), by rw [State.elem_modElem_self, hg, h.own], h.part⟩

theorem popped (hv : ∀ x inp, view { x with inp := inp } = view x) (s : State) (inp : KMap (List Token)) :
    Seen view s (s.setElem s.cur { s.curElem with inp := inp }) :=
  (refl view s).modElem (fun x => { x with inp := inp }) (hv _ _)

end Seen

/-- The current instruction has ended from a state that shows what s shows. -/
structure Finishes (view : Elem → Elem) (s : State) (k : Sink) (t : State) : Prop where
  via : ∃ u, Seen view s u ∧ Ends s.cur k u t ∧ t.shared = u.shared

namespace Finishes
variable {view : Elem → Elem} {s t : State} {k : Sink}

theorem hold (view : Elem → Elem) (s : State) (k : Sink) : Finishes view s k (hold s) := ⟨s, .refl _ _, .hold s k, rfl⟩

theorem trapCur (view : Elem → Elem) (s : State) (k : Sink) {cause : Nat} (h : cause ≠ 0x0E0) (i j : Word) :
    Finishes view s k (trapCur s cause i j) := ⟨s, .refl _ _, .trapCur s k cause i j, trapCur_shared h i j⟩

theorem written {u : State} (h : Seen view s u) (slot beat : Nat) (k : Sink) (r : Res) :
    Finishes view s k (written u s.cur slot beat k r) := ⟨u, h, .written .., written_shared ..⟩

theorem others (h : Finishes view s k t) : OthersSame s t := by
  obtain ⟨u, hu, he, hp⟩ := h
  exact .of_shared (hp.trans hu.part) fun a ha => (he.others a ha).trans (hu.others a ha)

end Finishes

/-! ## The shared courses -/

theorem datapath_finishes {view : Elem → Elem} (hv : ∀ x inp, view { x with inp := inp } = view x) (s : State) (dst sa sb : BitVec 4)
    (pa pb : Bool) (ot : BitVec 2) (pu : BitVec 4) (ps : BitVec 2) (f : Src → Res) :
    Finishes view s ⟨dst, ot, pu, ps⟩ (datapath s dst sa sb pa pb ot pu ps f) := by
  cases hd : dstFull s.curElem dst with
  | true => rw [datapath_full _ _ _ _ _ _ _ _ hd]; exact .hold ..
  | false =>
    cases hf : fetch s.curElem s.curTrig s.curCoord dst sa sb pa pb with
    | empty => rw [datapath_empty _ _ _ _ hf]; exact .hold ..
    | marker => rw [datapath_marker _ _ _ _ hd hf]; exact .trapCur _ _ _ (by decide) _ _
    | got src ps' x =>
      obtain ⟨inp, rfl⟩ := fetch_inp hf
      rw [datapath_reads _ _ _ _ ⟨hd, hf⟩]
      exact .written (.popped hv s inp) ..

/-- A system operation's work answers a state of which Q holds, waits, or traps; it counts against no bank. -/
def Calm (Q : State → Prop) : Except Stop (Res × State) → Prop
  | .ok r => Q r.2
  | .error (.trap c _ _ _) => c ≠ 0x0E0
  | .error (.fatal _ _ _ _) => False
  | .error _ => True

theorem trapAt_finishes {view : Elem → Elem} (s : State) (k : Sink) {cause : Nat} (h : cause ≠ 0x0E0) (hd : Word) (a : Nat) (i j : Word) :
    Finishes view s k (trapAt s s.cur s.curSlot cause hd a i j) := by
  obtain ⟨_, _, he⟩ := trapAt_eq h s s.cur s.curSlot hd a i j
  exact ⟨s, .refl _ _, .trapAt .., by rw [he]; rfl⟩

theorem systemOp_finishes {view : Elem → Elem} (hv : ∀ x inp, view { x with inp := inp } = view x) (s : State) (dst sa sb : BitVec 4)
    (pa pb : Bool) (ot : BitVec 2) (pu : BitVec 4) (ps : BitVec 2) {f : Src → State → Except Stop (Res × State)}
    (hf : ∀ src u, u.cur = s.cur → Seen view s u → Calm (Seen view s) (f src u)) :
    Finishes view s ⟨dst, ot, pu, ps⟩ (systemOp s dst sa sb pa pb ot pu ps f) := by
  unfold systemOp
  dsimp only
  split
  · exact .hold ..
  · split
    next => exact .hold ..
    next => exact .trapCur _ _ _ (by decide) _ _
    next src _ x hg =>
      obtain ⟨inp, rfl⟩ := fetch_inp hg
      have hw := hf src (s.setElem s.cur { s.curElem with inp := inp }) rfl (.popped hv s inp)
      split
      next ho => rw [ho] at hw; exact trapAt_finishes s _ hw ..
      next ho => rw [ho] at hw; exact hw.elim
      next => exact .hold ..
      next r u ho => rw [ho] at hw; exact .written (u := u) hw s.curSlot s.curBeat ⟨dst, ot, pu, ps⟩ r

theorem runS_finishes {view : Elem → Elem} (hv : ∀ x inp, view { x with inp := inp } = view x) {s t : State} (g : FmtS)
    {f : Src → State → Except Stop (Res × State)} (ht : runS g s f = .next t)
    (hf : ∀ src u, u.cur = s.cur → Seen view s u → Calm (Seen view s) (f src u)) : Finishes view s (sinkS g) t := by
  cases ht
  exact systemOp_finishes hv s _ _ _ _ _ _ _ _ hf

theorem runY_finishes {view : Elem → Elem} (hv : ∀ x inp, view { x with inp := inp } = view x) {s t : State} (g : FmtY)
    {f : Src → State → Except Stop (Res × State)} (ht : runY g s f = .next t)
    (hf : ∀ src u, u.cur = s.cur → Seen view s u → Calm (Seen view s) (f src u)) : Finishes view s (sinkY g) t := by
  cases ht
  exact systemOp_finishes hv s _ _ _ _ _ _ _ _ hf

/-! ## What is shown of an element -/

/-- All of an element but its input channels. -/
def Elem.unpopped (x : Elem) : Elem := { x with inp := [] }

/-- Of an element its registers, its predicates and what formats S and Y do not write. -/
def Elem.body (x : Elem) : Elem :=
  { ({} : Elem) with
    d := x.d, fl := x.fl, p := x.p, pumps := x.pumps, rets := x.rets, binds := x.binds, topx := x.topx, slots := x.slots
    mdcnt := x.mdcnt, mdq := x.mdq }

/-- The same but for the registers' flags. -/
def Elem.bodyFlags (x : Elem) : Elem := { x.body with fl := [] }

theorem ends_regsSame {s u t : State} {k : Sink} (h : Ends s.cur k u t) (hd : (u.elem s.cur).d = (s.elem s.cur).d)
    (hf : (u.elem s.cur).fl = (s.elem s.cur).fl) : RegsSame s t k.dst := by
  intro n hn
  rw [(h.own.regs n hn).1, (h.own.regs n hn).2, Elem.dreg, hd, Elem.dflag, hf]
  exact ⟨rfl, rfl⟩

theorem ends_predsSame {s u t : State} {k : Sink} (h : Ends s.cur k u t) (hp : (u.elem s.cur).p = (s.elem s.cur).p) :
    PredsSame s t k.pu := by
  intro n h8 hn
  rw [h.own.preds n h8 hn, hp]

theorem ends_workSame {s u t : State} {k : Sink} (h : Ends s.cur k u t) (hb : (u.elem s.cur).bodyFlags = (s.elem s.cur).bodyFlags) :
    WorkSame s t := by
  obtain ⟨_, _, _, _, _, _, _, hr⟩ := h.own.rest
  have field {β : Type} (g : Elem → β) : g (u.elem s.cur).bodyFlags = g (s.elem s.cur).bodyFlags := congrArg g hb
  dsimp only [WorkSame]
  rw [hr]
  exact ⟨field Elem.pumps, field Elem.rets, field Elem.binds, field Elem.topx, field Elem.slots, field Elem.mdcnt, field Elem.mdq⟩

theorem Finishes.scalar {s t : State} {k : Sink} (h : Finishes Elem.unpopped s k t) :
    OthersSame s t ∧ RegsSame s t k.dst ∧ PredsSame s t k.pu ∧ SpecialSame s t := by
  refine ⟨h.others, ?_⟩
  obtain ⟨u, hu, he, -⟩ := h
  have field {β : Type} (g : Elem → β) : g (u.elem s.cur).unpopped = g (s.elem s.cur).unpopped := congrArg g hu.own
  refine ⟨ends_regsSame he (field Elem.d) (field Elem.fl), ends_predsSame he (field Elem.p), ?_⟩
  obtain ⟨_, _, _, _, _, _, _, hr⟩ := he.own.rest
  dsimp only [SpecialSame]
  rw [hr]
  exact ⟨field Elem.q, field Elem.rs, field Elem.dlLat, field Elem.dlPend, field Elem.pumps, field Elem.rets, field Elem.binds,
    field Elem.topx, field Elem.slots, field Elem.mdcnt, field Elem.mdq, field Elem.halted, field Elem.ended, field Elem.cych⟩

theorem Finishes.system {s t : State} {k : Sink} (h : Finishes Elem.body s k t) :
    OthersSame s t ∧ RegsSame s t k.dst ∧ PredsSame s t k.pu ∧ WorkSame s t := by
  refine ⟨h.others, ?_⟩
  obtain ⟨u, hu, he, -⟩ := h
  have field {β : Type} (g : Elem → β) : g (u.elem s.cur).body = g (s.elem s.cur).body := congrArg g hu.own
  exact ⟨ends_regsSame he (field Elem.d) (field Elem.fl), ends_predsSame he (field Elem.p),
    ends_workSame he (congrArg (fun x : Elem => { x with fl := [] }) hu.own)⟩

end Sys2Proof.Machine
end

section
/-! SUPPORT. The frames of the formats, instruction by instruction (spec/09_instr_scalar_vector.md R146,
spec/10_instr_channels_tiles_memory.md R168, spec/20_instants_signals.md R308, spec/23_faults_traps.md R351): Obligations.DatapathFrame. -/

namespace Sys2Proof.Machine

/-! ## Formats A, I and K (R146, R153 to R155) -/

theorem runA_finishes {s t : State} {g : FmtA} {f : Src → Res} (ht : runA g s f = .next t) : Finishes Elem.unpopped s (sinkA g) t := by
  cases ht
  exact datapath_finishes (fun _ _ => rfl) ..

theorem runI_finishes {s t : State} {g : FmtI} {v : Word} {f : Src → Res} (ht : runI g s v f = .next t) :
    Finishes Elem.unpopped s (sinkI g) t := by
  cases ht
  exact datapath_finishes (fun _ _ => rfl) ..

theorem runK_finishes {s t : State} {g : FmtK} {f : Src → Res} (ht : runK g.dst s f = .next t) :
    Finishes Elem.unpopped s (sinkK g) t := by
  cases ht
  exact datapath_finishes (fun _ _ => rfl) ..

/-- Each instruction of format A runs a function of its sources. -/
theorem scalarA_runs (f : FmtA) (s : State) : ∀ i ∈ scalarA f, ∃ g, exec i s = runA f s g := by
  simp only [scalarA, List.forall_mem_append, List.forall_mem_cons, List.not_mem_nil, false_imp_iff, implies_true, and_true]
  and_intros <;> exact ⟨_, rfl⟩

theorem scalarI_runs (f : FmtI) (s : State) : ∀ i ∈ scalarI f, ∃ v g, exec i s = runI f s v g := by
  simp only [scalarI, List.forall_mem_cons, List.not_mem_nil, false_imp_iff, implies_true, and_true]
  and_intros <;> exact ⟨_, _, rfl⟩

theorem scalarK_runs (f : FmtK) (s : State) : ∀ i ∈ scalarK f, ∃ g, exec i s = runK f.dst s g := by
  simp only [scalarK, List.forall_mem_cons, List.not_mem_nil, false_imp_iff, implies_true, and_true]
  and_intros <;> exact ⟨_, rfl⟩

theorem predOp_frame (s : State) (g : BitVec 8 → BitVec 8) :
    OthersSame s (predOp s g) ∧ RegsSame s (predOp s g) 12 ∧ SpecialSame s (predOp s g) := by
  have he : (predOp s g).elem s.cur = _ := State.elem_setElem_self s s.cur _
  refine ⟨.of_shared rfl fun a ha => (State.elem_setElem ..).trans (if_neg ha.symm), fun n _ => ?_, ?_⟩
  · rw [he]
    exact ⟨rfl, rfl⟩
  · dsimp only [SpecialSame]
    rw [he]
    exact ⟨rfl, rfl, rfl, rfl, rfl, rfl, rfl, rfl, rfl, rfl, rfl, rfl, rfl, rfl⟩

/-! ## Formats S and Y, in their beat (R117, R169, R308, R351) -/

section
variable {view : Elem → Elem} {s u : State} (h : Seen view s u)
include h

theorem Seen.modCur (hc : u.cur = s.cur) (g : Elem → Elem) (hg : view (g (u.elem s.cur)) = view (u.elem s.cur)) :
    Seen view s (u.modElem u.cur g) := by
  rw [hc]
  exact h.modElem g hg

theorem Seen.cede (e : ERef) (k : Nat) : Seen view s (cede u e k) := by
  unfold Machine.cede
  split
  · exact h
  · exact h.step rfl rfl

theorem Seen.cedeAll (e : ERef) : Seen view s (cedeAll u e) :=
  List.foldlRecOn (motive := Seen view s) (emitsOf u e) (fun t k => Machine.cede t e k) h fun _ hv k _ => hv.cede e k

theorem wkMark_calm (x : Src) : Calm (Seen view s) (wkMark x u) := by
  unfold wkMark
  split
  · exact h
  · exact (by decide : (0x030 : Nat) ≠ 0x0E0)

theorem wkFwd_calm (tag : BitVec 2) (x : Src) : Calm (Seen view s) (wkFwd tag x u) := by
  unfold wkFwd
  split
  · exact (by decide : (0x030 : Nat) ≠ 0x0E0)
  · exact h

theorem wkEmit_calm (slot : Nat) (v : Word × Bool) : Calm (Seen view s) (wkEmit slot v u) := by
  unfold wkEmit
  split
  · exact h
  · split
    · exact (by decide : (0x140 : Nat) ≠ 0x0E0)
    · exact h.step rfl rfl

theorem wkGcond_calm (f : FmtY) (x : Src) : Calm (Seen view s) (wkGcond f x u) := by
  unfold wkGcond
  dsimp only
  split
  · trivial
  · exact h.step rfl rfl

end

/-- Work that reads the rule which the element selects. -/
theorem ruleSel_error {s : State} {x : Stop} (h : ruleSel s = .error x) : x = .trap 0x02A 0 0 0 := by
  unfold ruleSel at h
  split at h
  · cases h
  · cases h
    rfl

section
variable {s u : State} (h : Seen Elem.body s u) (hc : u.cur = s.cur) (f : FmtS)
include h

theorem wkQtest_calm (t : Rule → Word → Word → Bool) (x : Src) : Calm (Seen Elem.body s) (wkQtest f t x u) := by
  unfold wkQtest
  split
  next ho => rw [ruleSel_error ho]; exact (by decide : (0x02A : Nat) ≠ 0x0E0)
  next => exact h

include hc

theorem Seen.setQ (v : Word) : Seen Elem.body s (setQ u f v) := h.modCur hc (fun x => { x with q := kset x.q _ v }) rfl

theorem wkQfuse_calm (x : Src) : Calm (Seen Elem.body s) (wkQfuse f x u) := by
  unfold wkQfuse
  split
  next ho => rw [ruleSel_error ho]; exact (by decide : (0x02A : Nat) ≠ 0x0E0)
  next => exact h.setQ hc f _

theorem wkQinv_calm (x : Src) : Calm (Seen Elem.body s) (wkQinv f x u) := by
  unfold wkQinv
  split
  next ho => rw [ruleSel_error ho]; exact (by decide : (0x02A : Nat) ≠ 0x0E0)
  next => exact h.setQ hc f _

end

theorem execSkip_finishes {s t : State} {f : FmtS} (ht : execSkip f s = .next t) : Finishes Elem.body s (sinkS f) t := by
  unfold execSkip at ht
  dsimp only at ht
  split at ht
  · cases ht
    exact .hold ..
  · cases ht
    have hw (inp : KMap (List Token)) (r : Res) : Finishes Elem.body s (sinkS f)
        (written (s.setElem s.cur { s.curElem with inp := inp }) s.cur s.curSlot s.curBeat (sinkS f) r) :=
      .written (.popped (fun _ _ => rfl) s inp) ..
    simpa [written, State.modElem, sinkS] using hw (kset s.curElem.inp ((chanOf f.sa).getD 0)
      ((s.curElem.chan ((chanOf f.sa).getD 0)).drop (skipRun s.curElem ((chanOf f.sa).getD 0) (f.sli.toNat + 1)).length))
      ⟨wd (skipRun s.curElem ((chanOf f.sa).getD 0) (f.sli.toNat + 1)).length,
        (skipRun s.curElem ((chanOf f.sa).getD 0) (f.sli.toNat + 1)).any Token.exc,
        (skipRun s.curElem ((chanOf f.sa).getD 0) (f.sli.toNat + 1)).length == f.sli.toNat + 1⟩

theorem execFwd_finishes {s t : State} {f : FmtS} (ht : execFwd f s = .next t) :
    Finishes Elem.body s ⟨f.dst, headTag s f.sa, f.pu, f.ps⟩ t := by
  cases ht
  exact systemOp_finishes (fun _ _ => rfl) s _ _ _ _ _ _ _ _ fun src _ _ hu => wkFwd_calm hu _ src

theorem execTrap_finishes {s t : State} {f : FmtY} (ht : execTrap f s = .next t) : Finishes Elem.body s (sinkY f) t := by
  unfold execTrap at ht
  split at ht
  next => cases ht; exact .hold ..
  next => cases ht; exact .trapCur _ _ _ (by decide) _ _
  next src _ x hg =>
    cases ht
    obtain ⟨inp, rfl⟩ := fetch_inp hg
    exact ⟨_, .popped (fun _ _ => rfl) s inp, Ends.trapCur (s.setElem s.cur { s.curElem with inp := inp }) _ _ _ _,
      trapCur_shared (by decide) _ _⟩

/-- sigv reads the signal, or waits. -/
theorem wkSigv_cases (f : FmtS) (j : Job) (u : State) : (∃ r, wkSigv f j u = .ok (r, u)) ∨ wkSigv f j u = .error .wait := by
  unfold wkSigv
  split
  · exact .inl ⟨_, rfl⟩
  · split
    · dsimp only
      split
      · exact .inl ⟨_, rfl⟩
      · exact .inl ⟨_, rfl⟩
    · exact .inr rfl

theorem execSigv_finishes {s t : State} {f : FmtS} (ht : execSigv f s = .next t) : Finishes Elem.body s (sinkS f) t := by
  unfold execSigv waiting at ht
  dsimp only at ht
  cases ht
  split
  · exact .hold ..
  · split
    next => exact .hold ..
    next => exact .trapCur _ _ _ (by decide) _ _
    next src ps x hg =>
      obtain ⟨inp, rfl⟩ := fetch_inp hg
      have hs := Seen.popped (view := Elem.body) (fun _ _ => rfl) s inp
      rcases wkSigv_cases f ⟨s.cur, s.curSlot, src⟩ (s.setElem s.cur { s.curElem with inp := inp }) with ⟨r, hw⟩ | hw
      · rw [issueWork_ok _ hw]
        exact .written hs ..
      · rw [issueWork_wait _ hw]
        exact ⟨_, hs, .stop _ _, rfl⟩

/-- Each instruction of format S by its work. -/
theorem formatS_frame (f : FmtS) (s : State) : ∀ i ∈ formatS f, ∀ t, exec i s = .next t →
    OthersSame s t ∧ RegsSame s t f.dst ∧ PredsSame s t f.pu ∧ WorkSame s t := by
  have hv (x : Elem) (inp : KMap (List Token)) : Elem.body { x with inp := inp } = x.body := rfl
  have runs {g : Src → State → Except Stop (Res × State)} {t : State} (ht : runS f s g = .next t)
      (hg : ∀ src u, u.cur = s.cur → Seen Elem.body s u → Calm (Seen Elem.body s) (g src u)) :
      OthersSame s t ∧ RegsSame s t f.dst ∧ PredsSame s t f.pu ∧ WorkSame s t := (runS_finishes hv f ht hg).system
  have hrxend (u : State) (hc : u.cur = s.cur) (hu : Seen Elem.body s u) :
      Seen Elem.body s ((cedeAll u u.cur).modElem u.cur (fun x => { x with ended := true })) := by
    rw [hc]
    exact (hu.cedeAll _).modElem _ rfl
  have hcede (u : State) (hu : Seen Elem.body s u) : Seen Elem.body s (match sigOf u u.cur f.sli.toNat with
      | none => u
      | some k => cede u u.cur k) := by
    split
    · exact hu
    · exact hu.cede ..
  simp only [formatS, List.forall_mem_cons, List.not_mem_nil, false_imp_iff, implies_true, and_true]
  exact ⟨fun t ht => runs ht fun _ _ _ hu => wkEmit_calm hu ..,
    fun t ht => runs ht fun _ _ _ hu => wkEmit_calm hu ..,
    fun t ht => runs ht fun _ u _ hu => hcede u hu,
    fun t ht => runs ht fun _ u hc hu => hrxend u hc hu,
    fun t ht => runs ht fun _ _ _ hu => hu,
    fun t ht => runs ht fun src _ hc hu => hu.modCur hc (fun y => { y with dlPend := kset y.dlPend (bits f.sli 1 0) src.a }) rfl,
    fun t ht => (execSigv_finishes ht).system,
    fun t ht => runs ht fun _ _ _ hu => hu,
    fun t ht => runs ht fun src _ _ hu => wkMark_calm hu src,
    fun t ht => (execFwd_finishes ht).system,
    fun t ht => runs ht fun _ _ _ hu => hu,
    fun t ht => (execSkip_finishes ht).system,
    fun t ht => runs ht fun src _ hc hu => hu.setQ hc f src.a,
    fun t ht => runs ht fun _ _ _ hu => hu,
    fun t ht => runs ht fun src _ hc hu => wkQfuse_calm hu hc f src,
    fun t ht => runs ht fun src _ hc hu => wkQinv_calm hu hc f src,
    fun t ht => runs ht fun src _ _ hu => wkQtest_calm hu f _ src,
    fun t ht => runs ht fun src _ _ hu => wkQtest_calm hu f _ src,
    fun t ht => runs ht fun _ _ hc hu => hu.modCur hc (fun x => { x with rs := bits f.sli 2 0 }) rfl⟩

/-! ## Format Y's instructions that wait (R323 to R325) -/

/-- From s to u no other element changes, and of the current one nothing that `view` shows. -/
structure Shows (view : Elem → Elem) (s u : State) : Prop where
  others : ∀ a, a ≠ s.cur → u.elem a = s.elem a
  own : view (u.elem s.cur) = view (s.elem s.cur)

theorem Shows.elems {view : Elem → Elem} {s u v : State} (h : Shows view s u) (he : v.elems = u.elems) : Shows view s v := by
  have hv (a : ERef) : v.elem a = u.elem a := by rw [State.elem, he]; rfl
  exact ⟨fun a ha => (hv a).trans (h.others a ha), (congrArg view (hv _)).trans h.own⟩

theorem Shows.opens {view : Elem → Elem} (hv : ∀ x inp, view { x with inp := inp } = view x) (s : State) : Opens (Shows view s) s where
  now := ⟨fun _ _ => rfl, rfl⟩
  popped inp := ⟨(Seen.popped hv s inp).others, (Seen.popped hv s inp).own⟩
  taped _ _ _ h := h.elems rfl

section
variable (j : Job) (u : State)

theorem workGlaunch_keeps (f : FmtY) : Keeps (fun t => t.elems = u.elems) stateAfter (workGlaunch f j u) := by
  refine (ptrVA_keeps (I := fun t => t.elems = u.elems) (t := u) rfl j j.src.a 64 u).bind fun va _ =>
    (settled_keeps j .part u).bind fun t0 h0 =>
    ((readWords_keeps (jobRq j t0) va 16 t0).mono fun _ hk => hk.elems.trans h0).bind fun ⟨ws, t1⟩ h1 => ?_
  dsimp only
  split
  · trivial
  · split
    · exact (waitHere_keeps (.element j.e) t1).mono fun _ hk => hk.trans h1
    · split
      · exact h1
      · exact h1

theorem workHrapp_keeps (f : FmtY) : Keeps (fun t => t.elems = u.elems) stateAfter (workHrapp f j u) := by
  have hset := settled_keeps j .system u
  unfold workHrapp
  dsimp only
  split
  · trivial
  · split
    · trivial
    · split
      next ho => exact hset.of_error ho
      next t1 ho =>
        have h1 : t1.elems = u.elems := hset.of_ok ho
        split
        · trivial
        · exact h1

theorem workIntr_keeps (f : FmtY) : Keeps (fun t => t.elems = u.elems) stateAfter (workIntr f j u) := by
  have hset := settled_keeps j .system u
  have hpost (t : State) (n : Nat) (v : Word) : (postMail t n v).elems = t.elems := by
    unfold postMail
    dsimp only
    split <;> rfl
  unfold workIntr
  split
  next ho => exact hset.of_error ho
  next t1 ho =>
    have h1 : t1.elems = u.elems := hset.of_ok ho
    split
    · trivial
    · exact (hpost ..).trans h1

end

/-- An instruction of format Y that may wait, and whose work changes no element. -/
theorem waitingY_frame {s t : State} {f : FmtY} {i : Instr} {W : Work}
    (ht : (.next (waiting s i f.sa 13 false false (sinkY f) W) : Out) = .next t)
    (hW : ∀ j u, Keeps (fun t => t.elems = u.elems) stateAfter (W j u)) :
    OtherElements s t ∧ RegsSame s t f.dst ∧ PredsSame s t f.pu ∧ WorkSame s t := by
  cases ht
  obtain ⟨u, hu, he⟩ := waiting_ends (Shows.opens (view := Elem.body) (fun _ _ => rfl) s) i f.sa 13 false false (sinkY f)
    (fun src v hv => (hW ⟨s.cur, s.curSlot, src⟩ v).mono fun _ hk => hv.elems hk)
  have field {β : Type} (g : Elem → β) : g (u.elem s.cur).body = g (s.elem s.cur).body := congrArg g hu.own
  exact ⟨fun a ha => (he.others a ha).trans (hu.others a ha), ends_regsSame he (field Elem.d) (field Elem.fl),
    ends_predsSame he (field Elem.p), ends_workSame he (congrArg (fun x : Elem => { x with fl := [] }) hu.own)⟩

/-- Each instruction of format Y that completes in its beat by its work. -/
theorem beatY_frame (f : FmtY) (s : State) : ∀ i ∈ [Instr.nop f, .halt f, .trap f, .csrr f, .gcond f], ∀ t, exec i s = .next t →
    OthersSame s t ∧ RegsSame s t f.dst ∧ PredsSame s t f.pu ∧ WorkSame s t := by
  have hv (x : Elem) (inp : KMap (List Token)) : Elem.body { x with inp := inp } = x.body := rfl
  have runs {g : Src → State → Except Stop (Res × State)} {t : State} (ht : runY f s g = .next t)
      (hg : ∀ src u, u.cur = s.cur → Seen Elem.body s u → Calm (Seen Elem.body s) (g src u)) :
      OthersSame s t ∧ RegsSame s t f.dst ∧ PredsSame s t f.pu ∧ WorkSame s t := (runY_finishes hv f ht hg).system
  have hhalt (u : State) (hc : u.cur = s.cur) (hu : Seen Elem.body s u) : Seen Elem.body s
      ((if (u.inst u.cur.inst).img.clocked then cedeAll u u.cur else u).modElem u.cur (fun x => { x with halted := true })) := by
    rw [hc]
    split
    · exact (hu.cedeAll _).modElem _ rfl
    · exact hu.modElem _ rfl
  have hcsrr (u : State) (hc : u.cur = s.cur) (hu : Seen Elem.body s u) : Seen Elem.body s (if f.idx = 0 then
      u.modElem u.cur (fun x => { x with cych := wd (u.cycles u.cur.rref / 2 ^ 32) }) else u) := by
    split
    · exact hu.modCur hc _ rfl
    · exact hu
  simp only [List.forall_mem_cons, List.not_mem_nil, false_imp_iff, implies_true, and_true]
  exact ⟨fun t ht => runs ht fun _ _ _ hu => hu, fun t ht => runs ht fun _ u hc hu => hhalt u hc hu,
    fun t ht => (execTrap_finishes ht).system, fun t ht => runs ht fun _ u hc hu => hcsrr u hc hu,
    fun t ht => runs ht fun src _ _ hu => wkGcond_calm hu f src⟩

theorem formatY_frame (f : FmtY) (s : State) : ∀ i ∈ formatY f, ∀ t, exec i s = .next t →
    OtherElements s t ∧ RegsSame s t f.dst ∧ PredsSame s t f.pu ∧ WorkSame s t := by
  have hbeat (i : Instr) (hi : i ∈ [Instr.nop f, .halt f, .trap f, .csrr f, .gcond f]) (t : State) (ht : exec i s = .next t) :
      OtherElements s t ∧ RegsSame s t f.dst ∧ PredsSame s t f.pu ∧ WorkSame s t :=
    (beatY_frame f s i hi t ht).imp_left OthersSame.elements
  simp only [formatY, List.forall_mem_cons, List.not_mem_nil, false_imp_iff, implies_true, and_true]
  exact ⟨hbeat _ (by simp), hbeat _ (by simp), hbeat _ (by simp), hbeat _ (by simp),
    fun t ht => waitingY_frame ht fun j u => workGlaunch_keeps j u f, hbeat _ (by simp),
    fun t ht => waitingY_frame ht fun j u => workHrapp_keeps j u f, fun t ht => waitingY_frame ht fun j u => workIntr_keeps j u f⟩

/-- csrw writes the registers' flags. -/
theorem csrw_frame {s t : State} {f : FmtY} (ht : exec (.csrw f) s = .next t) : OthersSame s t ∧ PredsSame s t f.pu ∧ WorkSame s t ∧
    ∀ k, some k ≠ dstReg f.dst → (t.elem s.cur).dreg k = (s.elem s.cur).dreg k := by
  have h : Finishes Elem.bodyFlags s (sinkY f) t := runY_finishes (fun _ _ => rfl) f ht fun src u hc hu =>
    hu.modCur hc (fun y => { y with fl := (List.range 8).foldl (fun m k => kset m k (bit src.a k)) y.fl }) rfl
  refine ⟨h.others, ?_⟩
  obtain ⟨u, hu, he, -⟩ := h
  have field {β : Type} (g : Elem → β) : g (u.elem s.cur).bodyFlags = g (s.elem s.cur).bodyFlags := congrArg g hu.own
  refine ⟨ends_predsSame he (field Elem.p), ends_workSame he hu.own, fun k hk => ?_⟩
  exact (he.own.regs k hk).1.trans (congrArg (kget 0 · k) (field Elem.d))

end Sys2Proof.Machine
end

section
/-! SUPPORT. The frames of formats M and E, instruction by instruction, and of all formats together
(spec/10_instr_channels_tiles_memory.md R168, spec/07_instr_contraction_tiles.md R113): Obligations.DatapathFrame. -/

namespace Sys2Proof.Machine

/-! ## An instruction that may wait, from its work -/

theorem Own.opens (keep : Nat → Prop) (s : State) : Opens (Own s.cur keep s) s where
  now := .refl s
  popped inp := (Own.refl s).modElem (fun x => { x with inp := inp }) rfl rfl rfl
  taped _ _ _ h := h.elems rfl

/-- The element keeps its core where the clause is not enabled. -/
theorem Own.coreSame {keep : Nat → Prop} {s u t : State} {k : Sink} (hk : k.pu = 0) (hu : Own s.cur keep s u) (he : Ends s.cur k u t) :
    CoreSame s t := by
  have field {β : Type} (g : Elem → β) : g (u.elem s.cur).core = g (s.elem s.cur).core := congrArg g hu.core
  have hp : (t.elem s.cur).p = (u.elem s.cur).p := BitVec.eq_of_getLsbD_eq fun n hn =>
    he.own.preds n hn fun h => absurd h (by rw [hk]; decide)
  obtain ⟨_, _, _, _, _, _, _, hr⟩ := he.own.rest
  dsimp only [CoreSame]
  refine ⟨hp.trans (field Elem.p), ?_⟩
  rw [hr]
  exact ⟨field Elem.q, field Elem.rs, field Elem.dlLat, field Elem.dlPend, field Elem.slots, field Elem.halted, field Elem.ended,
    field Elem.cych⟩

/-- What formats M and E leave: the other elements, the registers but `dst`, the element's core. -/
abbrev WorkFrame (s t : State) (dst : BitVec 4) : Prop := OtherElements s t ∧ RegsSame s t dst ∧ CoreSame s t

/-- Work that changes the element it runs for alone, and of it neither core nor registers. -/
abbrev OwnWork (W : Work) : Prop :=
  ∀ (s u : State) (j : Job), Own j.e (fun _ => True) s u → Keeps (Own j.e (fun _ => True) s) stateAfter (W j u)

/-- Work that leaves memory. -/
abbrev ReadWork (W : Work) : Prop := ∀ (s u : State) (j : Job), MemKept s u → Keeps (MemKept s) stateAfter (W j u)

theorem workFrame_of_ends {s t : State} {k : Sink} (hk : k.pu = 0)
    (h : ∃ u, Own s.cur (fun _ => True) s u ∧ Ends s.cur k u t) : WorkFrame s t k.dst := by
  obtain ⟨u, hu, he⟩ := h
  refine ⟨fun a ha => (he.others a ha).trans (hu.others a ha), fun n hn => ?_, hu.coreSame hk he⟩
  exact ⟨(he.own.regs n hn).1.trans (hu.regs n trivial).1, (he.own.regs n hn).2.trans (hu.regs n trivial).2⟩

/-- Code 12 names no register. -/
theorem RegsSame.of_none {s t : State} (h : RegsSame s t 12) (dst : BitVec 4) : RegsSame s t dst := fun n _ => h n nofun

theorem runM_frame {s t : State} {f : FmtM} {i : Instr} {k : Sink} {W : Work} (hk : k.pu = 0) (hW : OwnWork W)
    (ht : runM f i s k W = .next t) : WorkFrame s t k.dst := by
  cases ht
  exact workFrame_of_ends hk (waiting_ends (Own.opens _ s) _ _ _ _ _ _ fun _ v hv => hW s v _ hv)

theorem runSrcM_frame {s t : State} {f : FmtM} {i : Instr} {W : Work} (hW : OwnWork W) (ht : runSrcM f i s W = .next t) :
    WorkFrame s t 12 :=
  workFrame_of_ends rfl (runSrcM_ends (Own.opens _ s) f i ht fun _ v hv => hW s v _ hv)

theorem runE_frame {s t : State} {f : FmtE} {i : Instr} {W : Work} (hW : OwnWork W) (ht : runE f i s W = .next t) :
    WorkFrame s t f.dst := by
  cases ht
  exact workFrame_of_ends (k := sinkE f) rfl (waiting_ends (Own.opens _ s) _ _ _ _ _ _ fun _ v hv => hW s v _ hv)

theorem runM_sameMemory {s t : State} {f : FmtM} {i : Instr} {k : Sink} {W : Work} (hW : ReadWork W)
    (ht : runM f i s k W = .next t) : SameMemory s t := by
  cases ht
  exact (waiting_memKept s _ _ _ _ _ _ fun _ v hv => hW s v _ hv).sameMemory

theorem runSrcM_sameMemory {s t : State} {f : FmtM} {i : Instr} {W : Work} (hW : ReadWork W) (ht : runSrcM f i s W = .next t) :
    SameMemory s t :=
  (runSrcM_memKept s f i ht fun _ v hv => hW s v _ hv).sameMemory

/-! ## Format M (R168) -/

theorem formatM_frame (f : FmtM) (s : State) : ∀ i ∈ formatM f, ∀ t, exec i s = .next t → WorkFrame s t f.dst := by
  have hmdone (t : State) (ht : exec (.mdone f) s = .next t) : WorkFrame s t f.dst := by
    obtain ⟨ho, hr, hc⟩ := runM_frame (k := sinkNone f) rfl (fun s u j h => workMdone_keeps h f) ht
    exact ⟨ho, hr.of_none _, hc⟩
  simp only [formatM, List.forall_mem_cons, List.not_mem_nil, false_imp_iff, implies_true, and_true]
  exact ⟨fun t => runM_frame (k := sinkM f) rfl fun s u j h => workTalloc_keeps h f,
    fun t => runM_frame (k := sinkM f) rfl fun s u j h => workTfree_keeps (Own.reading ..) h f,
    fun t => runM_frame (k := sinkM f) rfl fun s u j h => workTcfg_keeps (Own.reading ..) h f,
    fun t => runM_frame (k := sinkM f) rfl fun s u j h => workTqry_keeps (Own.reading ..) h f,
    fun t => runM_frame (k := sinkM f) rfl fun s u j h => workPcfg_keeps h f,
    fun t => runM_frame (k := sinkM f) rfl fun s u j h => workPqry_keeps h f,
    fun t => runM_frame (k := sinkM f) rfl fun s u j h => workPgo_keeps (Own.reading ..) h f,
    fun t => runM_frame (k := sinkM f) rfl fun s u j h => workPstop_keeps (Own.reading ..) h f,
    hmdone,
    fun t => runM_frame (k := sinkM f) rfl fun s u j h => wkRawait_keeps h f,
    fun t => runM_frame (k := sinkM f) rfl fun s u j h => wkRrel_keeps h,
    fun t => runM_frame (k := sinkM f) rfl fun s u j h => wkRget_keeps (Own.reading ..) h f⟩

theorem formatMNone_frame (f : FmtM) (s : State) : ∀ i ∈ formatMNone f, ∀ t, exec i s = .next t → WorkFrame s t 12 := by
  simp only [formatMNone, List.forall_mem_cons, List.not_mem_nil, false_imp_iff, implies_true, and_true]
  exact ⟨fun t => runM_frame (k := sinkNone f) rfl fun s u j h => workTld_keeps (Own.reading ..) h f,
    fun t => runSrcM_frame fun s u j h => workTst_keeps (Own.reading ..) h f,
    fun t => runM_frame (k := sinkNone f) rfl fun s u j h => doLd_keeps (Own.reading ..) h f _ false nofun,
    fun t => runSrcM_frame fun s u j h => doStx_keeps h f,
    fun t => runSrcM_frame fun s u j h => wkAtom_keeps (Own.reading ..) h f false,
    fun t => runSrcM_frame fun s u j h => wkAtom_keeps (Own.reading ..) h f true⟩

/-- `.inc` writes the offset register alone. -/
theorem Own.incReg {f : FmtM} {j : Job} {s u : State} (h : Own j.e (fun k => bit f.aux 0 = true → k ≠ f.sa.toNat) s u) :
    Own j.e (fun k => bit f.aux 0 = true → k ≠ f.sa.toNat) s (incReg f j u) := by
  unfold Machine.incReg
  split
  next hinc =>
    refine h.trans ⟨fun a ha => State.elem_modElem_ne _ _ ha.symm, by rw [State.elem_modElem_self]; rfl, fun n hn => ?_⟩
    have hd := Elem.dreg_setD (u.elem j.e) f.sa.toNat n (j.src.a + wd (width f.sz)) j.src.fa
    rw [if_neg (hn hinc)] at hd
    rw [State.elem_modElem_self]
    exact ⟨congrArg (fun p : Word × Bool => p.1) hd, congrArg (fun p : Word × Bool => p.2) hd⟩
  next => exact h

theorem loadStore_frame (f : FmtM) (s : State) : ∀ i ∈ [Instr.ld f, .st f], ∀ t, exec i s = .next t → OtherElements s t ∧ CoreSame s t ∧
    ∀ k, (bit f.aux 0 = true → k ≠ f.sa.toNat) →
      (t.elem s.cur).dreg k = (s.elem s.cur).dreg k ∧ (t.elem s.cur).dflag k = (s.elem s.cur).dflag k := by
  have hrun {i : Instr} {W : Work} (hW : ∀ (u : State) (j : Job), Own j.e (fun k => bit f.aux 0 = true → k ≠ f.sa.toNat) s u →
      Keeps (Own j.e (fun k => bit f.aux 0 = true → k ≠ f.sa.toNat) s) stateAfter (W j u)) {t : State}
      (ht : runM f i s (sinkNone f) W = .next t) : OtherElements s t ∧ CoreSame s t ∧
      ∀ k, (bit f.aux 0 = true → k ≠ f.sa.toNat) →
        (t.elem s.cur).dreg k = (s.elem s.cur).dreg k ∧ (t.elem s.cur).dflag k = (s.elem s.cur).dflag k := by
    cases ht
    obtain ⟨u, hu, he⟩ := waiting_ends (Own.opens (fun k => bit f.aux 0 = true → k ≠ f.sa.toNat) s) i f.sa f.sb (bit f.mod 1)
      (bit f.mod 0) (sinkNone f) (fun _ v hv => hW v _ hv)
    refine ⟨fun a ha => (he.others a ha).trans (hu.others a ha), hu.coreSame rfl he, fun k hk => ?_⟩
    have hr := he.own.regs k nofun
    exact ⟨hr.1.trans (hu.regs k hk).1, hr.2.trans (hu.regs k hk).2⟩
  simp only [List.forall_mem_cons, List.not_mem_nil, false_imp_iff, implies_true, and_true]
  exact ⟨fun t => hrun fun u j h => doLd_keeps (Own.reading ..) h f _ true fun _ _ hv => hv.incReg,
    fun t => hrun fun u j h => doSt_keeps h f fun _ hv => hv.incReg⟩

/-- Format M's instructions that store nothing. -/
theorem formatM_sameMemory (f : FmtM) (s : State) : ∀ i ∈ [Instr.ld f, .ldx f, .tld f, .tst f, .tfree f, .tcfg f, .tqry f, .pqry f, .pgo f,
    .pstop f, .rget f, .atom f, .atomr f], ∀ t, exec i s = .next t → SameMemory s t := by
  have hinc {s u : State} {j : Job} (h : MemKept s u) : MemKept s (incReg f j u) := by
    unfold incReg
    split
    · exact h
    · exact h
  simp only [List.forall_mem_cons, List.not_mem_nil, false_imp_iff, implies_true, and_true]
  exact ⟨fun t => runM_sameMemory fun s u j h => doLd_keeps (MemKept.reading ..) h f _ true fun _ _ hv => hinc hv,
    fun t => runM_sameMemory fun s u j h => doLd_keeps (MemKept.reading ..) h f _ false nofun,
    fun t => runM_sameMemory fun s u j h => workTld_keeps (MemKept.reading ..) h f,
    fun t => runSrcM_sameMemory fun s u j h => workTst_keeps (MemKept.reading ..) h f,
    fun t => runM_sameMemory fun s u j h => workTfree_keeps (MemKept.reading ..) h f,
    fun t => runM_sameMemory fun s u j h => workTcfg_keeps (MemKept.reading ..) h f,
    fun t => runM_sameMemory fun s u j h => workTqry_keeps (MemKept.reading ..) h f,
    fun t => runM_sameMemory fun s u j h => workPqry_keeps h f,
    fun t => runM_sameMemory fun s u j h => workPgo_keeps (MemKept.reading ..) h f,
    fun t => runM_sameMemory fun s u j h => workPstop_keeps (MemKept.reading ..) h f,
    fun t => runM_sameMemory fun s u j h => wkRget_keeps (MemKept.reading ..) h f,
    fun t => runSrcM_sameMemory fun s u j h => wkAtom_keeps (MemKept.reading ..) h f false,
    fun t => runSrcM_sameMemory fun s u j h => wkAtom_keeps (MemKept.reading ..) h f true⟩

/-! ## Format E (R113) -/

theorem formatE_frame (f : FmtE) (s : State) : ∀ i ∈ formatE f, ∀ t, exec i s = .next t → WorkFrame s t f.dst := by
  have hdwait (t : State) (ht : exec (.dwait f) s = .next t) : WorkFrame s t f.dst :=
    workFrame_of_ends (k := sinkE f) rfl (execDwait_ends (Own.opens _ s) f ht (fun _ _ hv => startDwait_keeps hv)
      fun n _ _ hv => workDwait_keeps hv n)
  have hbar (t : State) (ht : exec (.bar f) s = .next t) : WorkFrame s t f.dst :=
    workFrame_of_ends (k := sinkE f) rfl (execBar_ends (Own.opens _ s) f ht (fun _ _ hv => startBar_keeps hv)
      fun n _ _ hv => workBar_keeps hv n)
  simp only [formatE, List.forall_mem_cons, List.not_mem_nil, false_imp_iff, implies_true, and_true]
  exact ⟨fun t => runE_frame fun s u j h => workBdinit_keeps h, fun t => runE_frame fun s u j h => workBdins_keeps h,
    fun t => runE_frame fun s u j h => workBdfind_keeps h, fun t => runE_frame fun s u j h => workBdget_keeps h,
    fun t => runE_frame fun s u j h => workBdsort_keeps h, fun t => runE_frame fun s u j h => workPoolcfg_keeps h,
    fun t => runE_frame fun s u j h => workBcon_keeps h, fun t => runE_frame fun s u j h => workBcres_keeps h,
    fun t => runE_frame fun s u j h => workBcstat_keeps h, fun t => runE_frame fun s u j h => workBcwait_keeps h,
    fun t => runE_frame fun s u j h => workTopb_keeps h f, fun t => runE_frame fun s u j h => workTopx_keeps h f,
    fun t => runE_frame fun s u j h => wkWell_keeps h 0 0, fun t => runE_frame fun s u j h => wkWell_keeps h 1 (bits f.fn 1 0),
    fun t => runE_frame fun s u j h => wkWell_keeps h 2 (bits f.fn 2 0), fun t => runE_frame fun s u j h => workGstat_keeps h,
    fun t => runE_frame fun s u j h => workDpost_keeps h, fun t => runE_frame fun s u j h => workDsend_keeps h,
    fun t => runE_frame fun s u j h => workDrecv_keeps h, hdwait, fun t => runE_frame fun s u j h => workDqry_keeps h,
    fun t => runE_frame fun s u j h => workCgload_keeps h, fun t => runE_frame fun s u j h => workCrun_keeps h f,
    fun t => runE_frame fun s u j h => workCwait_keeps h, hbar, fun t => runE_frame fun s u j h => workCseq_keeps h⟩

/-- grule's DST names a rule register. -/
theorem grule_frame {s t : State} {f : FmtE} (ht : exec (.grule f) s = .next t) : WorkFrame s t 12 := by
  cases ht
  exact workFrame_of_ends (k := ⟨12, 0, 0, 0⟩) rfl (waiting_ends (Own.opens _ s) _ _ _ _ _ _ fun _ v hv => workGrule_keeps hv f)

/-! ## All formats -/

/-- Settles O8: an instruction waits, traps, or ends from a state that its work leaves; what that keeps is said of each work, and what the end
changes beside it is the destination and the clause. -/
theorem datapathFrame : Obligations.DatapathFrame := by
  refine ⟨fun s t i ht => ⟨fun f hi => ?_, fun f hi => ?_, fun f hi => ?_⟩, fun s t i ht => ⟨fun f hi => formatM_frame f s i hi t ht,
    fun f hi => formatMNone_frame f s i hi t ht, fun f hi => loadStore_frame f s i hi t ht,
    fun f hi => formatM_sameMemory f s i hi t ht, fun f hi => formatE_frame f s i hi t ht, fun f hi => grule_frame (hi ▸ ht),
    fun f hi => formatS_frame f s i hi t ht, fun f hi => formatY_frame f s i hi t ht, fun f hi => csrw_frame (hi ▸ ht),
    fun f hi => (beatY_frame f s i hi t ht).1, fun f hi => ?_⟩⟩
  · obtain ⟨g, hg⟩ := scalarA_runs f s i hi
    exact (runA_finishes (hg.symm.trans ht)).scalar
  · obtain ⟨v, g, hg⟩ := scalarI_runs f s i hi
    exact (runI_finishes (hg.symm.trans ht)).scalar
  · obtain ⟨g, hg⟩ := scalarK_runs f s i hi
    exact (runK_finishes (hg.symm.trans ht)).scalar
  · have hboth : ∃ g, exec i s = .next (predOp s g) := by
      simp only [List.mem_cons, List.not_mem_nil, or_false] at hi
      rcases hi with rfl | rfl
      · exact ⟨plogP f, rfl⟩
      · exact ⟨psetP f, rfl⟩
    obtain ⟨g, hg⟩ := hboth
    cases hg.symm.trans ht
    exact predOp_frame s g

end Sys2Proof.Machine
end
